-- ==== Sys2Proof/Word.lean ====
section
/-! DEFINITION. The plain word types of the package (R6, R7: bit 0 is the least significant bit). -/

namespace Sys2Proof

/-- One byte. -/
abbrev Byte := BitVec 8
/-- A 16-bit word. -/
abbrev Half := BitVec 16
/-- A 32-bit word: a slot of a bundle, an FP32 pattern, a register-window word. -/
abbrev Word := BitVec 32
/-- A 64-bit word: a general register, a parameter word, a counter. -/
abbrev Dword := BitVec 64
/-- A tensor descriptor image (Table 6.2). -/
abbrev DescImage := BitVec 256
/-- A bundle (Table 6.1). -/
abbrev Bundle := BitVec 128

end Sys2Proof
end

