-- ==== Sys2Proof/Config.lean ====
section
/-! DEFINITION. What an implementation fixes: the part types with their counts (Table 0.1, Table 0.3),
the saturation bounds, and the FREE VALUES, which are opaque constants without a body: nothing can
evaluate them, so a statement that mentions one holds for every value of it. -/

namespace Sys2Proof

/-- The two parts of Table 0.1. -/
inductive Part where
  | tp4
  | tp2
  deriving DecidableEq, Repr, Inhabited

namespace Config

/-- Compute dies (Table 0.1). -/
def dies : Part → Nat
  | .tp4 => 4
  | .tp2 => 2

/-- Cores: 24 on each die (R10). -/
def cores (p : Part) : Nat := 24 * dies p

/-- Memory stacks: six beside each die (R17). -/
def stackCount (p : Part) : Nat := 6 * dies p

/-- Stage slots: four on each die (R18). -/
def slots (p : Part) : Nat := 4 * dies p

/-- Fabric ports: eight on each die (R16). -/
def ports (p : Part) : Nat := 8 * dies p

/-- Bytes of HBM: 48 GiB for each of 24 or 12 stacks (Table 0.1, R300). -/
def hbmBytes : Part → Nat
  | .tp4 => 24 * 48 * 2 ^ 30
  | .tp2 => 12 * 48 * 2 ^ 30

/-- Junction sensors (R380): one in each core island, memory controller, fabric port and die controller. -/
def junctionSensors (p : Part) : Nat := dies p * (24 + 6 + 8 + 1)

/-- Floor of PKG_CAP in watts (R369). -/
def capFloor : Part → Nat
  | .tp4 => 1500
  | .tp2 => 800

/-- Package maximum power in watts (R5, R369), the default of PKG_CAP. -/
def capMax : Part → Nat
  | .tp4 => 4400
  | .tp2 => 2300

/-- Totals saturate at 2⁶⁴ − 1. -/
def satMax : Nat := 2 ^ 64 - 1

/-- FREE VALUE (log entry 1). The byte that a read of an HBM address delivers when nothing has ever written its unit: the arguments are the
reader's key generation and the local address (R308, Table 17.1). -/
opaque foreignByte : Nat → Nat → BitVec 8

/-- FREE VALUE (log entry 1). Byte i of the random XTS key pair that key slot 0 holds under a key generation (R309). -/
opaque packageKeyByte : Nat → Nat → BitVec 8

/-- FREE VALUE (log entry 2). The n-th random byte string drawn by the warden's DRBG (R419, R426, R434). -/
opaque randomByte : Nat → Nat → BitVec 8

/-- FREE VALUE (log entry 3). Modulus of the Ixmer key of the given use: 0 to 2 firmware keys, 3 transfer key, 4 debug
key. The spec gives hashes in fuses, not the moduli (R420, R428, R434). -/
opaque ixmerModulus : Nat → Nat

/-- FREE VALUE (log entry 3). Modulus and private exponent of the device encryption key (R424). -/
opaque dekModulus : Nat
opaque dekPrivate : Nat

/-- FREE VALUE (log entry 4). Modulus and private exponent of the device identity key (R424). -/
opaque dikModulus : Nat
opaque dikPrivate : Nat

/-- FREE VALUE (log entry 4). Parts of the device's two certificates that the spec does not give, at most 512 bytes of each: of DEVICE_CERT (0)
and DEK_CERT (1) what stands before the subject's serial number or the key (0) and after the key (1), the algorithm field (2), the salt of the
DIK's signature (3) and the device CA's signature (4) (R424, RFC 5280). -/
opaque certPart : Nat → Nat → List (BitVec 8)

/-- FREE VALUE (log entry 138). The record that blows a key's revocation fuse: its KIND among those that Table 19.6 leaves unused (0), and the
place of the byte that names the key (1) (R420). -/
opaque revocationRecord : Nat → Nat

/-- FREE VALUE (log entry 137). Millivolts that a die's core voltage is fused at for an operating point: first argument the die, second the point
(R365). -/
opaque fusedCoreMv : Nat → Nat → Nat

/-- FREE VALUE (log entry 5). What a fused identity object holds: first argument the object key, second the byte. -/
opaque fusedByte : Nat → Nat → BitVec 8

/-- FREE VALUE (log entry 6). A unit of a destination region that the spec leaves unspecified holds either its earlier
content or the operation's data (R143): this says which, for the n-th such outcome and the unit. -/
opaque unspecifiedUnit : Nat → Nat → Bool

/-- FREE VALUE (log entry 119). Bytes whose content the spec leaves unspecified: of the n-th such outcome, the byte at an address (R452). -/
opaque unspecifiedByte : Nat → Nat → BitVec 8

/-- FREE VALUE (log entry 7). A syndrome byte of an error record whose value the spec does not give (Table 18.1). -/
opaque syndromeByte : Nat → Nat → BitVec 8

end Config
/-- Instruction codes of the TAP, which the boundary-scan description file gives (R395, R400): BYPASS, SAMPLE/PRELOAD, EXTEST, IDCODE, CLAMP and
that of TESTRES, in this order (log entry 125). -/
opaque Config.tapCode : Nat → BitVec 8

end Sys2Proof
end

