-- ==== Sys2Proof/Syntax.lean ====
section
/-! DEFINITION. The commands the block takes, one constructor for each row of spec/opcode_table.json, with the
data a command carries: packets, link frames, commit and Lantern messages, Jorto and Dorub messages. Numbers that
the spec numbers (cores, slots, ports, ranks) are `Nat`; what software sees as bits is `BitVec`. -/

namespace Sys2Proof

/-- The two contexts of a core (R92). -/
inductive Ctx where
  | crown
  | brim
  deriving DecidableEq, Repr, Inhabited

/-- The three engine kinds, each with its own queue (R97, R99). -/
inductive Eng where
  | matrix
  | vector
  | stream
  deriving DecidableEq, Repr, Inhabited

/-- The two queues of a stage slot (R202). -/
inductive QKind where
  | forward
  | backward
  deriving DecidableEq, Repr, Inhabited

/-- The two host Ethernet ports and the management port (R317, R332). -/
inductive NetPort where
  | hostA
  | hostB
  | mgt
  deriving DecidableEq, Repr, Inhabited

/-- A Dorub requester: by source address and UDP port, or by MAC address (R331). -/
structure Requester where
  port : NetPort
  addr : Nat
  udp : Nat
  deriving DecidableEq, Repr, Inhabited

/-- Key of a queue entry: STEP, ATT and MBI of the micro-batch word (R202, R203). -/
structure EntryKey where
  step : Nat
  att : Nat
  mbi : Nat
  deriving DecidableEq, Repr, Inhabited

/-- Node and stage slot (R198, R219). -/
structure NodeSlot where
  node : Nat
  slot : Nat
  deriving DecidableEq, Repr, Inhabited

/-- Kinds of commit message (Table 10.8). -/
inductive CommitKind where
  | eveFirst | eve | feast | fastRepeat | fastSkip | formRec | formed | rejected
  deriving DecidableEq, Repr, Inhabited

/-- Commit message payload (Table 10.8). -/
structure CommitMsg where
  kind : CommitKind
  stop : Bool := false
  att : Nat := 0
  nextL : Int := 0
  groupId : Nat := 0
  reason : Nat := 0
  step : Nat := 0
  count : Nat := 0
  nfCount : Nat := 0
  version : Nat := 0
  deriving DecidableEq, Repr, Inhabited

/-- Formation record (R220 step 3). -/
structure FormRecord where
  part : Part
  groupId : Nat
  groupSize : Nat
  eveTimeout : Nat
  watchdog : Nat
  repeatLimit : Nat
  lsInit : Int
  lsMin : Int
  lsMax : Int
  lsGrowth : Nat
  deriving DecidableEq, Repr, Inhabited

/-- A Lantern message (Table 16.4). `round` says to which of the root's rounds a CALL or REPLY belongs, whose late replies R377 tells from those
of the next (log entry 124). -/
structure LanternMsg where
  sub : Nat
  level : Nat
  groupId : Nat
  epoch : Nat
  count : Nat
  round : Nat := 0
  deriving DecidableEq, Repr, Inhabited

/-- One lane of an exchange partial: an exact code sum, or an escaped FP32 value (R230). -/
inductive Lane where
  | code (c : Int)
  | esc (v : Word)
  deriving DecidableEq, Repr, Inhabited

/-- What a leaf or a partial of a slice carries (R229, R230, R232, R239): the exchange it belongs to, the place of
its node in the tree, the wire form, one lane for each element of the slice's rows by the position's columns
in row order, the largest observed exponent of each block of 32 columns, the LOWER bit and S1. `ranks` counts the exchange ranks under the node,
and `emulate` is the mode of the context whose leaf the partial comes from (R70, R72). -/
structure Partial where
  layer : Nat
  slice : Nat
  pos : Nat
  step : Nat
  att : Nat
  level : Nat
  index : Nat
  sb8 : Bool
  lanes : List Lane
  exps : List Nat
  lower : Bool
  s1 : Word
  ranks : Nat := 1
  emulate : Bool := false
  deriving DecidableEq, Repr, Inhabited

/-- A factor part (R233): X (`gz = false`) or gz of one rank and position, as tile-record bytes, with the sender's key slot; `off` is the place of
these bytes in the part that several packets carry. -/
structure FactorPart where
  layer : Nat
  slice : Nat
  pos : Nat
  rank : Nat
  step : Nat
  att : Nat
  gz : Bool
  bytes : List Byte
  key : Nat := 0
  off : Nat := 0
  deriving DecidableEq, Repr, Inhabited

/-- An SMCAST delivery (R236): the owner's slot, the records for HBM at D2's BASE, `row` bytes for each row of tiles and `pitch` from
one row to the next, and the agreed exponents of the slice's columns. Of a delivery that several packets carry, `off` is the place of these bytes
in its `total` bytes (0: these are all). -/
structure Delivery where
  owner : NodeSlot
  layer : Nat
  slice : Nat
  pos : Nat
  step : Nat
  att : Nat
  base : Nat
  row : Nat
  pitch : Nat
  bytes : List Byte
  exps : List Nat
  factor : Bool
  key : Nat
  off : Nat := 0
  total : Nat := 0
  deriving DecidableEq, Repr, Inhabited

/-- One row that a source dispatches to a holder (R289): its token, its choice, the expert and the row's bytes. -/
structure ExpertRow where
  token : Nat
  choice : Nat
  expert : Nat
  bytes : List Byte
  deriving DecidableEq, Repr, Inhabited

/-- A source's expert dispatch message for one XSEQ (R289). -/
structure ExpertMsg where
  rank : Nat
  xseq : Nat
  step : Nat
  att : Nat
  rows : List ExpertRow
  deriving DecidableEq, Repr, Inhabited

/-- A holder's SETTLE message (R291): the unserved (token, choice) pairs of one source. -/
structure SettleMsg where
  holder : NodeSlot
  xseq : Nat
  step : Nat
  att : Nat
  unserved : List (Nat × Nat)
  deriving DecidableEq, Repr, Inhabited

/-- Returned expert rows (R292). -/
structure ReturnMsg where
  xseq : Nat
  step : Nat
  att : Nat
  rows : List ExpertRow
  deriving DecidableEq, Repr, Inhabited

/-- A queue part (R202): producer, destination slot and queue, micro-batch word, payload, and whether it opened its entry at its source and
so consumed a credit (R203); `off` is the place of these bytes in the payload that several packets carry. -/
structure QueuePart where
  slot : Nat
  queue : QKind
  producer : NodeSlot
  word : Dword
  bytes : List Byte
  key : Nat
  opens : Bool := true
  off : Nat := 0
  deriving DecidableEq, Repr, Inhabited

/-- Grants, returns and revocations of queue credits (R203). -/
inductive CreditMsg where
  | grant (producer : Nat) (dst : NodeSlot) (queue : QKind) (share : Nat)
  | ret (producer : Nat) (dst : NodeSlot) (queue : QKind) (key : EntryKey)
  | revoke (producer : Nat) (dst : NodeSlot) (queue : QKind)
  deriving DecidableEq, Repr, Inhabited

/-- What a packet does at its destination: its KIND (Table 11.1) with the payload of the sending unit's chapter.
Payload layouts that the spec leaves to the sender are carried as data. A payload for memory of more than 2,048 bytes goes in several packets of
its KIND, each with its own bytes. `more` is a packet of any other message of that size which goes before its closing packet: the KIND, class
and die of that one, and the bytes in this (R251, R252, R269). -/
inductive Body where
  | more (kind cls size die : Nat)
  | write (bytes : List Byte)
  | readReq (len : Nat)
  | readRsp (bytes : List Byte)
  | atomic (addend : Dword)
  | ack
  | queuePart (q : QueuePart)
  | credit (c : CreditMsg)
  | exchPartial (slot : Nat) (p : Partial)
  | factorPart (slot : Nat) (p : FactorPart)
  | exchDelivery (d : Delivery)
  | commit (m : CommitMsg) (r : Option FormRecord)
  | expert (slot : Nat) (m : ExpertMsg)
  | settle (slot : Nat) (m : SettleMsg)
  | expReturn (slot : Nat) (m : ReturnMsg)
  | reshard (core rid off : Nat) (bytes : List Byte)
  | notice (core rid total : Nat)
  | lantern (m : LanternMsg)
  | drainQuery
  | drainReply (current infl acc : Nat)
  | retire (edition : Nat)
  | errorRsp (status : Nat)
  | busy
  deriving DecidableEq, Repr, Inhabited

/-- FREE VALUE (log entry 23). Byte i of a payload whose layout the spec leaves to its sender. -/
opaque Config.payloadByte : Body → Nat → Byte

/-- A packet: the header flit of Table 11.1 with its payload. `base` and `span` say which range its operation reads or writes at the
destination as a whole, where that is more than the packet's own bytes (`span` 0: no more; log entry 23). -/
structure Packet where
  dst : Nat
  src : Nat
  sunit : Nat
  cls : Nat
  pri : Bool := false
  adp : Bool := false
  dl : Bool := false
  esc : Bool := false
  close : Bool := true
  edition : Nat := 0
  hops : Nat := 0
  msgid : Nat := 0
  len : Nat := 0
  count : Nat := 1
  key : Nat := 0
  addr : Nat := 0
  line : Bool := false
  mesh : Bool := false
  stages : Nat := 0
  dim : Nat := 0
  order : List Nat := []
  lmask : List Nat := []
  cmask : Nat := 0
  base : Nat := 0
  span : Nat := 0
  body : Body
  deriving DecidableEq, Repr, Inhabited

/-- A flit: a header flit with the packet it opens, or the n-th payload flit of that packet (R251). -/
inductive Flit where
  | head (p : Packet)
  | pay (n : Nat)
  deriving DecidableEq, Repr, Inhabited

/-- A DATA or IDLE link frame as it arrives (R275, R276): its control word (Table 11.5), the flits in its slots with the 256 bytes of the four
slots, and the symbols in error in each codeword that ends in the frame. -/
structure LinkFrame where
  control : BitVec 120
  slots : List Flit
  raw : List Byte := List.replicate 256 0
  codewords : List Nat := []
  deriving DecidableEq, Repr, Inhabited

/-- An Ethernet frame of a host port, as the filter of R318 reads it: VLAN tag, destination MAC address (none: one the port has), length, what
its frame check sequence and its UDP checksum show (none: a zero checksum), IP fragment, the destination IP address of a datagram (32 bits of
IPv4 or 128 of IPv6; none: the port's own) and its destination UDP port (none: the one that its command is for); with the codewords of its
port's forward error correction that were corrected (Table 19.8). -/
structure EthFrame where
  tag : Option Nat := none
  dst : Option Nat := none
  length : Nat := 64
  fcsOk : Bool := true
  fragment : Bool := false
  ip6 : Bool := false
  ip : Option Nat := none
  checksum : Option Bool := some true
  udp : Option Nat := none
  corrected : Nat := 0
  deriving DecidableEq, Repr, Inhabited

/-- An Ethernet frame at a port. -/
structure PortFrame where
  port : NetPort
  frame : EthFrame := {}
  deriving DecidableEq, Repr, Inhabited

/-- The envelope of a Dorub message and the SERVICE of its PDU (R330, R340). -/
structure Envelope where
  proto : Nat := 0x0D0B
  ver : Nat := 1
  service : Nat := 1
  frame : EthFrame := {}
  deriving DecidableEq, Repr, Inhabited

/-- A Dorub message as it arrives: its requester and its envelope. -/
structure Enveloped where
  req : Requester
  env : Envelope := {}
  deriving DecidableEq, Repr, Inhabited

/-- Header fields of a Jorto datagram from a host (Table 14.2), with the datagram's source and its Ethernet frame. -/
structure JortoMsg where
  port : NetPort
  ip : Nat
  udp : Nat
  session : Nat
  seq : Nat
  ack : Nat
  addr : Nat
  len : Nat
  tag : Nat
  data : List Byte
  frame : EthFrame := {}
  deriving DecidableEq, Repr, Inhabited

/-- A guard: a block's GUARD word, or PKG_GUARD (R351). -/
inductive GuardId where
  | block (b : Nat)
  | pkg
  deriving DecidableEq, Repr, Inhabited

/-- The path of a write: Dorub with its requester, or a Jorto session of key slot 0 (R347, R349). -/
inductive Path where
  | dorub (r : Requester)
  | jorto
  deriving DecidableEq, Repr, Inhabited

/-- One entry of a MULTI_WRITE (Table 15.4). -/
structure MwEntry where
  index : Nat
  sub : Nat
  value : Dword
  deriving DecidableEq, Repr, Inhabited

/-- What the warden and the dies find while a cold start runs (Table 17.3): straps, die answers, training and
self-test outcomes, clock and firmware readings; `pllOk` the PLL and reference clock at step 2 and `pllsOk` those at step 5; `junction` the
rounds of junction readings in °C taken while step 5 waits (R391). The warden's own checks are computed from it. -/
structure StartInputs where
  pkgType : List Part
  dieIds : List Nat
  profileSel : Nat
  nodeBalls : Nat
  testMode : Nat
  jtagSel : Nat
  pllOk : Bool
  pllsOk : Bool := true
  junction : List (List Nat) := []
  ddiOk : Bool
  stackOk : List Bool
  coreFail : List Nat
  engineFail : List (Nat × Nat)
  bootMs : Nat
  linkUpA : Bool
  linkUpB : Bool
  deriving DecidableEq, Repr, Inhabited

/-- Outcome of the stand-alone test sequence of R399 on one die. -/
structure DieTestInputs where
  passMask : Nat
  coreFail : Nat
  engineFail : Nat
  stackFail : Nat
  deriving DecidableEq, Repr, Inhabited

/-- What a regulator measures when it trips (R440, R441), in millivolts, microseconds and milliamperes: the input that stays below a voltage for
a time, the input above a voltage, the output at a voltage, the output at a current. -/
inductive TripCause where
  | inputUnder (mv us : Nat)
  | inputOver (mv : Nat)
  | outputOver (mv : Nat)
  | outputCurrent (ma : Nat)
  deriving DecidableEq, Repr, Inhabited

/-- A rail of a die by its number in Table 20.2, and what its regulator measures. -/
structure RailTrip where
  k : Nat
  cause : TripCause
  deriving DecidableEq, Repr, Inhabited

/-- THE COMMANDS: one constructor for each row of spec/opcode_table.json. -/
inductive Instr where
  -- core: bundles and operations (chapters 5 and 6)
  | bundleIssue (core : Nat)
  | operationDispatch (core : Nat) (x : Ctx) (k : Eng)
  | operationComplete (core : Nat) (x : Ctx) (k : Eng)
  | mzero (core : Nat) (x : Ctx)
  | mmul (core : Nat) (x : Ctx)
  | mdrain (core : Nat) (x : Ctx)
  | vscan (core : Nat) (x : Ctx)
  | venc (core : Nat) (x : Ctx)
  | vcvt (core : Nat) (x : Ctx)
  | vlds (core : Nat) (x : Ctx)
  | vldr (core : Nat) (x : Ctx)
  | vew (core : Nat) (x : Ctx)
  | vdtab (core : Nat) (x : Ctx)
  | vred (core : Nat) (x : Ctx)
  | vopt (core : Nat) (x : Ctx)
  | vrng (core : Nat) (x : Ctx)
  | smov (core : Nat) (x : Ctx)
  | scpy (core : Nat) (x : Ctx)
  | sput (core : Nat) (x : Ctx)
  | sget (core : Nat) (x : Ctx)
  | sline (core : Nat) (x : Ctx)
  | qpush (core : Nat) (x : Ctx)
  | qpop (core : Nat) (x : Ctx)
  | satom (core : Nat) (x : Ctx)
  | swait (core : Nat) (x : Ctx)
  | snote (core : Nat) (x : Ctx)
  | sreduce (core : Nat) (x : Ctx)
  | smcast (core : Nat) (x : Ctx)
  | xdisp (core : Nat) (x : Ctx)
  | xcomb (core : Nat) (x : Ctx)
  | reshard (core : Nat) (x : Ctx)
  | li (core gd lane : Nat) (imm : Half)
  | addR (core gd ga gb : Nat)
  | subR (core gd ga gb : Nat)
  | andR (core gd ga gb : Nat)
  | orR (core gd ga gb : Nat)
  | xorR (core gd ga gb : Nat)
  | shl (core gd ga gb : Nat)
  | shr (core gd ga gb : Nat)
  | sra (core gd ga gb : Nat)
  | addi (core gd ga : Nat) (imm : Half)
  | cmp (core pd cond ga gb : Nat)
  | br (core p : Nat) (sense always : Bool) (off : BitVec 21)
  | waitc (core kind ga : Nat)
  | dwr (core di ga pd : Nat)
  | time (core gd : Nat)
  | rdsr (core gd sel : Nat)
  | flagclr (core : Nat)
  | endIssue (core : Nat)
  | brimActivate (core : Nat)
  | switchAbandoned (core : Nat)
  | brimPreempt (core : Nat)
  | brimSuspended (core latencyNs : Nat)
  | brimResume (core : Nat)
  | load (core : Nat) (x : Ctx) (kslot : Nat)
  | save (core : Nat) (x : Ctx)
  | saveFull (core : Nat) (x : Ctx)
  | halt (core : Nat) (x : Ctx)
  | resume (core : Nat) (x : Ctx)
  | clear (core : Nat) (x : Ctx)
  | contextCmdDone (core : Nat) (x : Ctx)
  | coreEnable (core : Nat)
  | coreDisable (core : Nat)
  | coreDisableDone (core : Nat)
  -- registers
  | registerWrite (p : Path) (index sub : Nat) (value : List Byte)
  | guardWrite (g : GuardId) (value : Word)
  | wrcntWrite (block : Nat) (value : Word)
  | mcErrWrite (stack : Nat) (value : Word)
  -- pipeline
  | slotEnable (slot : Nat)
  | slotDisable (slot : Nat)
  | grant (producer : Nat) (dst : NodeSlot) (queue : QKind) (share : Nat)
  | creditReturn (producer : Nat) (dst : NodeSlot) (queue : QKind) (key : EntryKey)
  | revoke (producer : Nat) (dst : NodeSlot) (queue : QKind)
  | queuePart (q : QueuePart)
  | spillCopy (slot : Nat) (queue : QKind)
  | schedulerDecision (slot : Nat)
  -- step group
  | form
  | dissolve
  | resolveFeast
  | resolveFast
  | formRec (child : Nat) (r : FormRecord)
  | formed (m : CommitMsg)
  | rejected (src : Nat) (m : CommitMsg)
  | formTimeout
  | exchPartial (slot : Nat) (p : Partial)
  | factorPart (slot : Nat) (p : FactorPart)
  | exchDelivery (d : Delivery)
  | eveFirst (child : Nat) (m : CommitMsg)
  | eve (child : Nat) (m : CommitMsg)
  | eveTimeout
  | stepWatchdog
  | feast (m : CommitMsg)
  | fastRepeat (m : CommitMsg)
  | fastSkip (m : CommitMsg)
  | selfFast
  | watchEvaluation
  | watchTableWrite (offset : Nat) (bytes : List Byte)
  -- fabric
  | packetRoute (n : Nat)
  | packetReceive (n : Nat)
  | holdTimeout (src sunit msgid : Nat)
  | entryIdleRelease (src sunit msgid : Nat)
  | busy (sunit msgid : Nat) (p : Packet)
  | busyResend (sunit msgid : Nat)
  | errorRsp (sunit msgid status : Nat)
  | ack (sunit msgid node : Nat)
  | linkFrame (port : Nat) (f : LinkFrame)
  | nak (port ack : Nat)
  | linkRetry (port : Nat)
  | train (port peerNode peerDir peerIndex : Nat)
  | trainingAttemptTimeout (port : Nat)
  | creditSync (port : Nat) (free : List Nat) (lastSeq : Nat)
  | absent (port : Nat)
  | absentEnd (port : Nat)
  | fportEnable (port : Nat)
  | fportDisable (port : Nat)
  | loadOpen
  | loadSeal
  | switchEdition
  | startDrain
  | forceRetire
  | drain (src : Nat)
  | drainReply (node current infl acc : Nat)
  | retire (edition : Nat)
  | drainTimeout
  | expert (slot : Nat) (m : ExpertMsg)
  | expertSettle (slot xseq : Nat)
  | settle (slot : Nat) (m : SettleMsg)
  | expertReturn (slot : Nat) (m : ReturnMsg)
  | reshardTransfer (core rid off : Nat) (bytes : List Byte)
  | notice (core rid total : Nat)
  -- memory
  | patrolScrub (stack : Nat)
  -- host links
  | jortoOpen (m : JortoMsg) (keySlot : Nat) (events : Bool)
  | jortoClose (m : JortoMsg)
  | jortoWrite (m : JortoMsg)
  | jortoReadReq (m : JortoMsg)
  | stepDoorbell (m : JortoMsg)
  | wordDoorbell (m : JortoMsg)
  | jortoAck (m : JortoMsg)
  | jortoRto (session : Nat)
  | sessionIdle (session : Nat)
  | arpRequest (port : PortFrame) (target : Nat)
  | neighborSolicitation (port : PortFrame) (target : Nat)
  | echoRequest (port : PortFrame) (dst : Nat) (v6 : Bool) (data : List Byte)
  | frameDiscard (port : PortFrame)
  | hostLinkDown (port : NetPort)
  | portEnWrite (port : NetPort) (en : Bool)
  -- Dorub
  | dorubRead (r : Enveloped) (tid index sub : Nat)
  | dorubWrite (r : Requester) (tid index sub : Nat) (value : List Byte)
  | multiWrite (r : Requester) (tid : Nat) (entries : List MwEntry)
  | describe (r : Requester) (tid index sub : Nat)
  | blockReadStart (r : Requester) (tid index sub : Nat)
  | blockReadSeg (r : Requester) (tid xfer offset len : Nat)
  | blockWriteStart (r : Requester) (tid index sub size : Nat)
  | blockWriteSeg (r : Requester) (tid xfer offset : Nat) (bytes : List Byte)
  | blockWriteEnd (r : Requester) (tid xfer : Nat) (crc : Word)
  | blockAbort (r : Requester) (tid xfer : Nat)
  | blockTransferIdle (xfer : Nat)
  | heartbeat
  | profileSave (r : Requester) (profile : Nat)
  | profileSaveDone
  | selectNext (r : Requester) (profile : Nat)
  | defaults (r : Requester) (profile : Nat)
  | cancelNext (r : Requester)
  -- power, clocks, thermal
  | powerSample (milliwatts : Nat) (railMilliwatts : List Nat)
  | capLoop
  | pkgCapWrite (watts : Nat)
  | levelChangeDone
  | dutyChange
  | thermalLoop (junction : List Nat) (stack : List Nat)
  | thermalTrip (die tj ts : Nat)
  | droop (core : Nat)
  | droopRecovery (core stretchedNs : Nat)
  | regTrip (die : Nat) (rail : RailTrip)
  | refclkLoss
  | lanternDown (m : LanternMsg)
  | lanternBeacon
  | lanternCall (m : LanternMsg)
  | lanternReply (child : Nat) (m : LanternMsg)
  | lanternSet (m : LanternMsg)
  | lanternSettle
  -- start-up, identity, test
  | coldReset (powerOn railInRange : Bool)
  | coldStart (inp : StartInputs)
  | dieReleaseTimeout (die : Nat)
  | warmReset (r : Requester)
  | warmResetDone
  | dieTest (testMode die : Nat) (inp : DieTestInputs)
  | bypass (die : Nat)
  | samplePreload (die : Nat) (cells : List Bool)
  | extest (die : Nat)
  | idcode (die : Nat)
  | clamp (die : Nat)
  -- errors
  | recordHandling (die : Nat)
  | errAck (seq : Word)
  | lostCountWrite (sev : Nat)
  -- security and lifecycle
  | fwVerify (r : Requester)
  | fwActivate (r : Requester)
  | commitSvn (r : Requester)
  | fwChunk (r : Requester) (n : Nat) (bytes : List Byte)
  | fwMinSvn (r : Requester) (value : Nat)
  | attNonce (r : Requester) (nonce : List Byte)
  | attReportReady (r : Requester)
  | authOpen (r : Requester) (sig : List Byte)
  | authClose (r : Requester)
  | authIdle
  | transfer (r : Requester) (rec : List Byte)
  | lease (r : Requester) (rec : List Byte)
  | endLease (r : Requester) (rec : List Byte)
  | refurbish (r : Requester) (rec : List Byte)
  | finish (r : Requester) (rec : List Byte)
  | retireRecord (r : Requester) (rec : List Byte)
  | keyLoad (r : Requester) (rec : List Byte)
  | erase (r : Requester) (value : Nat)
  | eraseDone
  | slot0Secret (r : Requester) (bytes : List Byte)
  | debugToken (r : Requester) (bytes : List Byte)
  | ledgerCommit
  | stackFail (stack : Nat)
  | hostLinkUp (port : NetPort)
  | manufacturingTest
  | trstnRelease (sel : Nat)
  | privateInstruction (die code : Nat)
  | plcaCollision
  deriving DecidableEq, Repr, Inhabited

end Sys2Proof
end

