-- ==== Sys2Proof/Decode.lean ====
section
/-! DEFINITION. Commands from the opcode table's bits. Every row of spec/opcode_table.json lists no bit field, so no word
spells a command: commands reach the block as the data of chapters 5 to 19, not as words. -/

namespace Sys2Proof

/-- The command that a word spells by the table's bits: none, as no row gives bits. -/
def decodeTableWord (_nbits _w : Nat) : Option Instr := none

end Sys2Proof
end

