-- ==== Sys2Proof/Machine/State.lean ====
section
/-! DEFINITION. THE STATE of the package: plain data, one field for every piece of state the spec gives it, and the
queue of commands that wait. Sparse tables are lists of (key, value) pairs with keys strictly rising and no entry
equal to the value an unlisted key reads as (Machine/Map.lean). `State.reset` is the machine right after reset. -/

namespace Sys2Proof.Machine

/-- A sparse table over `Nat` keys. -/
abbrev Table (V : Type) := List (Nat × V)

/-! ### Core contexts (chapters 5 and 6) -/

/-- Context states (Table 5.1). -/
inductive CtxState where
  | empty | idle | running | waiting | suspended | faulted | halted | busy
  deriving DecidableEq, Repr, Inhabited

/-- Context commands (Table 5.8). -/
inductive CtxCmd where
  | load | save | saveFull | halt | resume | clear
  deriving DecidableEq, Repr, Inhabited

/-- An operation as issued: its slot word, the registers and descriptors it named as they stood at issue (R98, R127,
R149), the step and attempt its context held (R193), its place in the context's issue order (R104), for an exchange
operation the attempt that was current for its step at issue (R224), and the loss-scale exponent at issue (R181, R183). -/
structure Op where
  eng : Eng
  word : Word
  pc : Dword
  regs : List Dword
  descs : List DescImage
  step : Nat
  att : Nat
  seq : Nat
  tag : Option Nat := none
  lexp : Int := 0
  deriving DecidableEq, Repr, Inhabited

/-- An operation in its engine (R104, R116): dispatched, perhaps started or blocked, done with its completion record. -/
structure Flight where
  op : Op
  started : Bool := false
  blocked : Bool := false
  suspended : Bool := false
  done : Bool := false
  flags : Byte := 0
  status : Nat := 0
  awaiting : List Nat := []
  deriving DecidableEq, Repr, Inhabited

/-- One context of a core (R92). -/
structure Context where
  state : CtxState := .empty
  fault : Nat := 0
  faultAddr : Dword := 0
  suspHeld : Bool := false
  pc : Dword := 0
  regs : Table Dword := []
  preds : Byte := 0
  flags : Byte := 0
  lastMatrix : Byte := 0
  lastVector : Byte := 0
  sstat : Nat := 0
  uflag : Bool := false
  cntM : Half := 0
  cntV : Half := 0
  cntS : Half := 0
  cntC : Half := 0
  cgKey : Dword := 0
  emulate : Bool := false
  key : Nat := 0
  windows : List (Nat × Nat) := []
  sbBase : Nat := 0
  sbSize : Nat := 0
  step : Nat := 0
  att : Nat := 0
  descs : Table DescImage := []
  issued : Nat := 0
  qM : List Op := []
  qV : List Op := []
  qS : List Op := []
  fM : Option Flight := none
  fV : Option Flight := none
  fS : Option Flight := none
  ended : Bool := false
  halting : Bool := false
  busyAfter : CtxState := .empty
  held : Option CtxCmd := none
  cmdOk : Bool := false
  cmdAddrLo : Word := 0
  cmdAddrHi : Half := 0
  deriving DecidableEq, Repr, Inhabited

/-- An accumulator tile with its offset, re-run count, overflow bit and code sums (R66, R68, R87). Elements and code
sums are sparse: an unlisted element is +0, an unlisted sum 0. `due` counts the re-runs, and `ovfDue` marks the overflow, that no drain has
counted against its output tensor yet: each counts once (R68, R191). -/
structure AccTile where
  elems : Table Word := []
  off : Int := 0
  reruns : Nat := 0
  ovf : Bool := false
  due : Nat := 0
  ovfDue : Bool := false
  k : Nat := 0
  qa : Table Int := []
  qb : Table Int := []
  deriving DecidableEq, Repr, Inhabited

/-- What a core holds beside its contexts: which context is active (R93), whether a switch to Brim has not yet
issued its first bundle, whether held work went on in that switch, and whether a preemption is not yet done (R115 to R117), the suspension area's before-images by
accumulator tile (R108, R116), the droop stretch (R374), a disable in progress (R109). -/
structure CoreSt where
  active : Ctx := .crown
  switching : Bool := false
  resumed : Bool := false
  preempting : Bool := false
  spill : Table AccTile := []
  stretched : Bool := false
  disabling : Bool := false
  deriving DecidableEq, Repr, Inhabited

/-! ### Register blocks (chapter 15) -/

/-- A register block (Table 15.9): CTL.EN, CFG, the guard, WRCNT and the causes of its status bits. -/
structure Block where
  en : Bool := false
  cfg : Nat := 0
  guardOpen : Bool := false
  guardRefused : Nat := 0
  wrIgn : Nat := 0
  wrIgnored : Bool := false
  cfgBad : Bool := false
  cmdRefused : Bool := false
  deriving DecidableEq, Repr, Inhabited

/-! ### Pipeline hardware (chapter 9) -/

/-- One part of a queue entry: its size, its bytes while it lies in the head area (a spilled part lies in HBM), and whether its core
has popped it (R205, R207). -/
structure PartSt where
  pos : Nat
  word : Dword
  size : Nat
  bytes : List Byte
  spilled : Bool
  popped : Bool := false
  deriving DecidableEq, Repr, Inhabited

/-- One entry of a slot queue (R202). -/
structure QEntry where
  ring : Nat
  key : EntryKey
  producer : NodeSlot
  parts : List PartSt
  selected : Bool := false
  deriving DecidableEq, Repr, Inhabited

/-- The credit counter and outbound table a producing slot keeps for one destination queue (R203). -/
structure Credit where
  dst : NodeSlot
  queue : QKind
  free : Nat
  outbound : List EntryKey := []
  deriving DecidableEq, Repr, Inhabited

/-- One decision: of the slot scheduler (`mode` 0, R209), or of the shared sequence of explicit pops of the forward (1) or the
backward queue (2, R210). -/
structure Decision where
  mode : Nat
  queue : QKind
  key : EntryKey
  deriving DecidableEq, Repr, Inhabited

/-- States of the weight version store (Table 9.3). -/
inductive VerState where
  | free | held | current | staged
  deriving DecidableEq, Repr, Inhabited

/-- One layer table entry (Table 10.5). -/
structure LayerEntry where
  valid : Bool
  factor : Bool
  rows : Nat
  irows : Nat
  cols : Nat
  tokens : Nat
  remBase : Nat
  auxBase : Nat
  deriving DecidableEq, Repr, Inhabited

/-- A holder's record of one XSEQ that it has not settled yet (R290): the messages held. -/
structure XHold where
  xseq : Nat
  step : Nat
  att : Nat
  msgs : List ExpertMsg
  deriving DecidableEq, Repr, Inhabited

/-- A settled bank of a local expert, not yet returned (R292, R293): the served rows by (rank, token, choice), and the messages of its
return that are not yet acknowledged, by unit and number. -/
structure XBank where
  expert : Nat
  xseq : Nat
  step : Nat
  att : Nat
  served : List (Nat × Nat × Nat)
  returning : List (Nat × Nat) := []
  deriving DecidableEq, Repr, Inhabited

/-- A source's record of one XSEQ (R289, R291, R292): where its routing table and return area lie, which holders have
settled, which choices are served and which of them have come back. -/
structure XSource where
  xseq : Nat
  step : Nat
  att : Nat
  core : Nat
  table : Nat
  retOff : Nat
  tokens : Nat
  topk : Nat
  settledBy : List NodeSlot
  unserved : List (Nat × Nat)
  returned : List (Nat × Nat)
  deriving DecidableEq, Repr, Inhabited

/-- One stage slot (R196 to R217): its queues, credits, scheduler, version store, restart words, layer table copy and
expert engine. `taken` counts the decisions each position has taken (position + 8 × mode), `flying` names the micro-batches in flight,
`popMode` the kind of QPOP used in a step (R210). `restart` lists the positions that still await the restart word of `restartWord`. -/
structure Slot where
  fwd : List QEntry := []
  bwd : List QEntry := []
  credits : List Credit := []
  granted : List (NodeSlot × QKind × Nat) := []
  decisions : List Decision := []
  taken : Table Nat := []
  flying : List EntryKey := []
  popMode : Table Nat := []
  versions : Table (VerState × Nat) := []
  restart : List Nat := []
  restartWord : Dword := 0
  versionErr : List Nat := []
  fwdMax : Nat := 0
  bwdMax : Nat := 0
  layers : List LayerEntry := []
  declReason : Nat := 0
  footprint : Nat := 0
  quota : Nat := 0
  plan : List Nat := []
  xholds : List XHold := []
  xbanks : List XBank := []
  xsources : List XSource := []
  deriving DecidableEq, Repr, Inhabited

/-! ### Step group and exchange (chapter 10) -/

/-- Group states (Table 10.2). -/
inductive GroupState where
  | none | forming | active | stalled | rejected
  deriving DecidableEq, Repr, Inhabited

/-- What has happened in the open attempt, by slot, position, layer and slice (R225, R228, R235, R236, R238): kind 0 UPDATED, 1 STEP_DONE
and 2 delivery count for local completion; 3 is a leaf or factor part sent, 4 exponents written, 5 a sum written to D2. -/
structure Report where
  kind : Nat
  slot : Nat
  pos : Nat
  layer : Nat
  slice : Nat
  deriving DecidableEq, Repr, Inhabited

/-- A partial held by the package's exchange units for a tree node (R226). -/
structure HeldPartial where
  slot : Nat
  p : Partial
  deriving DecidableEq, Repr, Inhabited

/-- What the owner fixed for a slice and position: agreed exponents for the next exchange, S1 and S2 (R232, R239). -/
structure OwnerSum where
  slot : Nat
  layer : Nat
  slice : Nat
  pos : Nat
  step : Nat
  att : Nat
  exps : List Nat
  s1 : Word
  s2 : Word
  nonfin : Bool
  lanes : List Lane
  deriving DecidableEq, Repr, Inhabited

/-- A factor part that has arrived at the owner (R233). -/
structure FactorSeen where
  slot : Nat
  layer : Nat
  slice : Nat
  pos : Nat
  rank : Nat
  gz : Bool
  step : Nat
  att : Nat
  deriving DecidableEq, Repr, Inhabited

/-- The step agent and the exchange units (R218 to R247). The configuration is what FORM read (Table 10.1, Table 8.3). -/
structure Group where
  state : GroupState := .none
  reason : Nat := 0
  partition : Bool := false
  inDoubt : Bool := false
  inDoubtStep : Nat := 0
  inDoubtAtt : Nat := 0
  id : Nat := 0
  size : Nat := 1
  rank : Nat := 0
  members : List Nat := []
  eveTimeoutMs : Nat := 0
  watchdogMs : Nat := 0
  repeatLimit : Nat := 0
  firstStep : Nat := 0
  lsInit : Int := 0
  lsMin : Int := 0
  lsMax : Int := 0
  lsGrowth : Nat := 0
  version : Nat := 0
  exchStep : Nat := 0
  atts : Table Nat := []
  verAfter : Table Nat := []
  lastStep : Nat := 0
  lastAtt : Nat := 0
  lastKind : Nat := 0
  lossExp : Int := 0
  clean : Nat := 0
  repeats : Nat := 0
  childRecs : List (Nat × FormRecord) := []
  childRejects : List (Nat × Nat × Nat) := []
  overAtts : List (Nat × Nat) := []
  formSent : Bool := false
  stepLimit : Nat := 0
  reports : List Report := []
  nf : Bool := false
  eveFirstSent : Bool := false
  firstEveKnown : Bool := false
  eveSent : Bool := false
  eves : List (Nat × Nat × Nat) := []
  partials : List HeldPartial := []
  stopped : List (Nat × Nat × Nat × Nat) := []
  sums : List OwnerSum := []
  factors : List FactorSeen := []
  expValid : List (Nat × Nat × Nat) := []
  noiseHead : Nat := 0
  deriving DecidableEq, Repr, Inhabited

/-- One record of a noise ring entry (Table 10.7). -/
structure NoiseLayer where
  layer : Nat
  factor : Bool
  nonfin : Bool
  slices : Nat
  s1 : Word
  s2 : Word
  deriving DecidableEq, Repr, Inhabited

/-- A noise ring entry (Table 10.7). -/
structure NoiseEntry where
  step : Nat
  outcome : Nat
  att : Nat
  l : Int
  d : Nat
  layers : List NoiseLayer
  deriving DecidableEq, Repr, Inhabited

/-! ### Numerics watch (chapter 8) -/

/-- The counts of one tensor in one step (R191). -/
structure Counts where
  elems : Nat := 0
  zeros : Nat := 0
  sats : Nat := 0
  escs : Nat := 0
  nonfin : Nat := 0
  qev : Nat := 0
  reruns : Nat := 0
  accovf : Nat := 0
  dclamp : Nat := 0
  deriving DecidableEq, Repr, Inhabited

/-- An attempt whose outcome has reached the package and whose counts are not yet evaluated or cleared (R193). -/
structure WatchDue where
  step : Nat
  att : Nat
  evaluate : Bool
  deriving DecidableEq, Repr, Inhabited

/-- A watch table entry (Table 8.7): `c` holds the counts of the last evaluation. -/
structure WatchEntry where
  tid : Nat := 0
  valid : Bool := false
  zsLimit : Nat := 0
  zsPpm : Nat := 0
  satPpm : Nat := 0
  streak : Nat := 0
  c : Counts := {}
  deriving DecidableEq, Repr, Inhabited

/-- Live counts of a watch entry for an attempt of a step (R193). -/
structure LiveCount where
  step : Nat
  att : Nat
  entry : Nat
  c : Counts
  deriving DecidableEq, Repr, Inhabited

/-! ### Fabric (chapter 11) -/

/-- Fabric port states (Table 11.6). -/
inductive PortState where
  | disabled | training | up | retraining | down | absent
  deriving DecidableEq, Repr, Inhabited

/-- An edge between two dies and the stripe on which a packet passed it: DDI-H has four, DDI-V six (R14). -/
structure Crossing where
  vertical : Bool
  stripe : Nat
  deriving DecidableEq, Repr, Inhabited

/-- What a port sends beside its DATA and IDLE frames (R250, R278, R279): TRAIN with its node ID, direction and port index, CREDIT_SYNC with the
free count of its eight input buffers and the last SEQ accepted, and ABSENT frames from here on. -/
inductive PortOut where
  | train (node dir index : Nat)
  | creditSync (free : List Nat) (lastSeq : Nat)
  | absent
  deriving DecidableEq, Repr, Inhabited

/-- A fabric port's link layer (R275 to R279), its credits (R254) and its audit counters (R415). Each list holds one number for
each of the eight virtual channels; `owed` are credits to return, `stall` VC_STALL, `rxPacket` a packet whose flits are still
arriving, with the number that have, `replayHead` the packet that the replay buffer begins in the middle of. The output serves VC `rrNext` first
among 0 to 4; `brimWait` counts the flits it has sent while a PRI = 1 packet waited, and `inPeer` lists the flits that credits are still out for,
oldest first, by channel and PRI (R254, R255). A NAK that found no room in the replay buffer is `nakDue`. -/
structure FPort where
  state : PortState := .disabled
  peerMismatch : Bool := false
  laneLock : Nat := 0
  trained : Bool := false
  txNext : Nat := 0
  rxLast : Nat := 4095
  nakSent : Bool := false
  nakDue : Bool := false
  replay : List LinkFrame := []
  replayHead : Option Packet := none
  resends : Nat := 0
  attempts : Nat := 0
  credits : List Nat := [0, 0, 0, 0, 0, 0, 0, 0]
  owed : List Nat := [0, 0, 0, 0, 0, 0, 0, 0]
  depthMax : List Nat := [0, 0, 0, 0, 0, 0, 0, 0]
  stall : List Nat := [0, 0, 0, 0, 0, 0, 0, 0]
  flitsSent : List Nat := [0, 0, 0, 0, 0, 0, 0, 0]
  creditsBack : List Nat := [0, 0, 0, 0, 0, 0, 0, 0]
  flitsRecvd : List Nat := [0, 0, 0, 0, 0, 0, 0, 0]
  rxPacket : Option (Packet × Nat) := none
  rrNext : Nat := 0
  brimWait : Nat := 0
  inPeer : List (Nat × Bool × Nat) := []
  out : List PortOut := []
  deriving DecidableEq, Repr, Inhabited

/-- A packet that the routers of a die hold (R258): it came in on a port, or a unit of die `home` injected it. `crossed` are the die-to-die edges it has
passed, each with its stripe (R14, R15); `left` says that its flits have left the input buffer of its port, and `copy` marks the delivery of a
LINE packet at a node on its way (R273). -/
structure HeldPacket where
  p : Packet
  port : Option Nat
  die : Nat
  vc : Nat
  home : Nat := 0
  crossed : List Crossing := []
  left : Bool := false
  copy : Bool := false
  deriving DecidableEq, Repr, Inhabited

/-- A route table: edition 0 as generated (R257), or the bytes that host software loaded. -/
inductive Routes where
  | generated (node dim : Nat)
  | loaded (entries : Table Half)
  deriving DecidableEq, Repr, Inhabited

/-- States of the second Almanac bank (R262, Table 11.7). -/
inductive Bank2 where
  | free | shadow | previous | loading
  deriving DecidableEq, Repr, Inhabited

/-- A drain round's reply (R266). -/
structure DrainRep where
  node : Nat
  current : Nat
  infl : Nat
  acc : Nat
  deriving DecidableEq, Repr, Inhabited

/-- The Almanac (R262 to R268): both banks, the loading table, the packets stamped or accepted so far of the previous, the current
and the next edition (ACC of R265), the drain rounds with the nodes queried, the replies of the open round and the last one. -/
structure Almanac where
  cur : Routes := .generated 0 0
  curEd : Nat := 0
  bank2 : Bank2 := .free
  second : Routes := .generated 0 0
  secondEd : Nat := 0
  shadowEd : Nat := 0
  shadowTable : Table Half := []
  accPrev : Nat := 0
  accCur : Nat := 0
  accNext : Nat := 0
  coord : Bool := false
  drainLate : Bool := false
  sealFail : Bool := false
  switchRejected : Bool := false
  queried : List Nat := []
  replies : List DrainRep := []
  lastRound : Option (List DrainRep) := none
  deriving DecidableEq, Repr, Inhabited

/-- A message table entry of a die's destination interface (R269): how many of its packets have arrived, the closing packet while it
is held, the status of the first packet that was refused, and the pieces that have come of a payload needed whole, by place. -/
structure MsgEntry where
  die : Nat
  src : Nat
  sunit : Nat
  msgid : Nat
  count : Nat
  held : Option Packet
  status : Nat := 0
  data : List (Nat × List Byte) := []
  deriving DecidableEq, Repr, Inhabited

/-- A message this package has sent and not seen answered (R252, R256, R271): its packets, the answers still to come, the first
non-zero status, the operation it belongs to with the first byte of its records that the message moves, the LINE packet to acknowledge
when this stage is acknowledged (R274), and the packets refused with BUSY and not yet sent again. -/
structure SrcMsg where
  sunit : Nat
  msgid : Nat
  packets : List Packet
  acks : Nat
  status : Nat := 0
  op : Option (Nat × Ctx) := none
  off : Nat := 0
  parent : Option Packet := none
  busy : List Packet := []
  deriving DecidableEq, Repr, Inhabited

/-- A RESHARD registered at its core (R296): `seq` is the operation's place in its context's issue order; whether its own transfers and
notices have gone out; what has arrived. -/
structure Reshard where
  core : Nat
  x : Ctx
  seq : Nat
  rid : Nat
  desc : DescImage
  expected : Nat
  senders : Nat
  notices : Nat
  total : Nat
  written : Nat
  sent : Bool := false
  checked : Bool := false
  failed : Bool := false
  deriving DecidableEq, Repr, Inhabited

/-! ### Host and management links (chapter 14) -/

/-- What a package-to-host sequenced message carries (Table 14.3). -/
structure JMsg where
  typ : Nat
  seq : Nat
  status : Nat
  addr : Nat
  tag : Nat
  data : List Byte
  event : Option Nat := none
  deriving DecidableEq, Repr, Inhabited

/-- Early Jorto messages held until their SEQ is due (R323). -/
inductive Early where
  | close | write | readReq | doorbell
  deriving DecidableEq, Repr, Inhabited

/-- A Jorto session (R322, R323). -/
structure Session where
  id : Nat
  port : NetPort
  ip : Nat
  udp : Nat
  key : Nat
  events : Bool
  rxNext : Nat := 0
  early : List (Nat × Early × JortoMsg) := []
  txNext : Nat := 0
  unacked : List JMsg := []
  waitingTx : List JMsg := []
  resends : Nat := 0
  rtoUs : Nat := 0
  deriving DecidableEq, Repr, Inhabited

/-- A queued event (R327, Table 14.6): the sessions that have yet to acknowledge it. -/
structure Event where
  num : Nat
  code : Nat
  die : Nat
  source : Nat
  step : Nat
  time : Nat
  detail : List Byte
  sessions : List Nat
  deriving DecidableEq, Repr, Inhabited

/-- A Dorub response (R330, R331, R339). -/
structure DorubRsp where
  req : Requester
  tid : Nat
  service : Nat
  status : Nat
  index : Nat := 0
  sub : Nat := 0
  count : Nat := 0
  xfer : Nat := 0
  offset : Nat := 0
  data : List Byte := []
  deriving DecidableEq, Repr, Inhabited

/-- A block transfer buffer (R344): `seen` marks the bytes that a write has placed. -/
structure Xfer where
  handle : Nat
  write : Bool
  index : Nat
  sub : Nat
  size : Nat
  buf : Table Byte
  seen : Table Bool
  deriving DecidableEq, Repr, Inhabited

/-- A MULTI_WRITE that waits for the disable of a core (R353), or for an erase where `core` is none: what it has applied, the first status code other
than OK (0 for none), and the entries to come. `ready` says that the erase has completed. A WRITE that waits so has its response in `answer`
(R342). -/
structure Multi where
  req : Requester
  tid : Nat
  core : Option Nat
  ready : Bool
  applied : Nat
  first : Nat
  rest : List MwEntry
  answer : Option DorubRsp := none
  deriving DecidableEq, Repr, Inhabited

/-- What waits behind a MULTI_WRITE, in order of arrival (R331, R343, R350): a command, or the messages of a Jorto session that one arrival
made due, below the SEQ `upto`, the first of them a register write. -/
inductive Held where
  | cmd (c : Instr)
  | session (id upto : Nat)
  deriving DecidableEq, Repr, Inhabited

/-- What the package has put on its Ethernet links, oldest first. -/
inductive NetOut where
  | jorto (port : NetPort) (ip udp session ack : Nat) (m : JMsg)
  | jortoAck (port : NetPort) (ip udp session ack : Nat)
  | openAck (port : NetPort) (ip udp session status : Nat)
  | dorub (r : DorubRsp)
  | arp (port : NetPort) (addr mac : Nat)
  | neighbor (port : NetPort) (addr mac : Nat)
  | echo (port : NetPort) (addr : Nat) (v6 : Bool) (data : List Byte)
  | heartbeat (node lifecycle : Nat) (vigil : Bool) (counter : Nat)
  | plcaBeacon (count : Nat)
  deriving DecidableEq, Repr, Inhabited

/-- States of a host port's link (LINK_STS, Table 14.7). -/
inductive LinkState where
  | disabled | down | up
  deriving DecidableEq, Repr, Inhabited

/-! ### Power, clocks and thermal (chapter 16) -/

/-- The power, thermal and Lantern loops (R363 to R382). Powers are in milliwatts, energy in nanojoules (`energyPassed` has gone to the
wear ledger); `pkgPower` is the last period's sum and count of samples; `roundNo` numbers the root's rounds, and `callSeen` is the epoch and the round of the
CALL that a member has to answer; `rails` are the powered rails, by die and number of Table 20.2, and `fabricLanes` the dies whose fabric lanes of VSER are (R373, R442);
`railsOff` are the rails that trips have removed; `kept1`, `kept2` are the highest DOWN levels kept for epochs
E + 1 and E + 2, 0 for none. -/
structure Power where
  level : Nat := 7
  target : Nat := 7
  duty : Nat := 16
  dutyTarget : Nat := 16
  changing : Bool := false
  locked : Bool := false
  aCap : Nat := 0
  lowPeriods : Nat := 0
  capUnmet : Bool := false
  capWatts : Nat := 4400
  sampleSum : Nat := 0
  samples : Nat := 0
  pkgPower : Nat × Nat := (0, 1)
  railPower : List Nat := []
  energyNano : Nat := 0
  energyPassed : Nat := 0
  aTh : Nat := 0
  coolPeriods : Nat := 0
  atLimit : Bool := false
  tj : Nat := 0
  ts : Nat := 0
  temps : List Nat := []
  epoch : Nat := 0
  groupLevel : Nat := 0
  pendingLevel : Nat := 0
  kept1 : Nat := 0
  kept2 : Nat := 0
  settleDue : Bool := false
  roundOpen : Bool := false
  roundEpoch : Nat := 0
  roundNo : Nat := 0
  callSeen : Option (Nat × Nat) := none
  replies : List (Nat × Nat × Nat) := []
  thermtrip : Bool := false
  rails : List (Nat × Nat) := [(0, 3)]
  fabricLanes : List Nat := []
  refLost : Bool := false
  railsOff : List (Nat × Nat) := []
  deriving DecidableEq, Repr, Inhabited

/-! ### Start-up, identity, test (chapter 17) -/

/-- BOOT_STATE (Table 17.7). -/
inductive BootState where
  | rom | verify | release | negotiate | train | selftest | ready | vigil | dieTest
  deriving DecidableEq, Repr, Inhabited

/-- Start-up, straps and identity (R383 to R401): `revs` are the fused die revisions, `unclean` says that the last stop was none that
R436 calls clean, `tapSel` is JTAG_SEL as sampled at the release of TRST_N, `answered` the number of dies that have answered their release. -/
structure Boot where
  state : BootState := .rom
  warm : Bool := false
  timeMs : Nat := 0
  cause : Nat := 0
  testSampled : Nat := 0
  profileSel : Nat := 0
  jtagSel : Nat := 0
  node : Nat := 0
  dim : Nat := 0
  nodeBad : Bool := false
  revs : List Nat := [0x0200, 0x0200, 0x0200, 0x0200]
  effective : Nat := 0
  features : Nat := 0
  coreFail : Nat := 0
  engineFail : Table Nat := []
  testPass : Nat := 0
  testStack : Nat := 0
  testDie : Nat := 0
  testCore : Nat := 0
  testEngine : Nat := 0
  plcaNode : Nat := 255
  mgtMac : Nat := 0
  unclean : Bool := false
  tapSel : Nat := 0
  answered : Nat := 0
  deriving DecidableEq, Repr, Inhabited

/-- The data register that a TAP instruction selects (R395, R397, R400); a private one is known by its instruction code. -/
inductive TapReg where
  | bypass | boundary | idcode | priv (code : Nat)
  deriving DecidableEq, Repr, Inhabited

/-- A TAP instruction (R395). -/
inductive TapInst where
  | bypass | samplePreload | extest | idcode | clamp | other (code : Nat)
  deriving DecidableEq, Repr, Inhabited

/-- The TAP of a die (R395 to R398): the instruction in its instruction register and the data register selected, the cells of the boundary register, and whether the package's outputs follow
the scan, for good once `held`. A TAP at reset selects IDCODE (PRESUMED, IEEE 1149.1: log entry 31). -/
structure Tap where
  inst : TapInst := .idcode
  reg : TapReg := .idcode
  cells : List Bool := []
  driving : Bool := false
  held : Bool := false
  deriving DecidableEq, Repr, Inhabited

/-! ### Errors (chapter 18) -/

/-- Phases of a queued error record (R407). -/
inductive Phase where
  | pending | handling | handled
  deriving DecidableEq, Repr, Inhabited

/-- An error record (Table 18.1) in its die queue. -/
structure ErrRec where
  seq : Nat
  die : Nat
  sev : Nat
  cls : Nat
  flags : Nat
  source : Nat
  count : Nat
  step : Nat
  time : Nat
  addr : Nat
  edition : Nat
  att : Nat
  syndrome : List Byte
  phase : Phase
  deriving DecidableEq, Repr, Inhabited

/-- Error queues and lost shares, keyed by die (R406 to R410). -/
structure Errors where
  queues : Table (List ErrRec) := []
  seqNext : Nat := 0
  lost : Table (List Nat) := []
  captured : List Nat := [0, 0, 0, 0]
  deriving DecidableEq, Repr, Inhabited

/-- A private instruction that may act no longer selects BYPASS (R395). -/
def Tap.unprivate (t : Tap) : Tap := { t with reg := match t.reg with | .priv _ => .bypass | r => r }

/-! ### Security and lifecycle (chapter 19) -/

/-- Lifecycle states (Table 19.4). -/
inductive Lifecycle where
  | manufacture | vendor | owned | leased | refurbish | retired
  deriving DecidableEq, Repr, Inhabited

/-- A key slot (R309, R430): `gen` names the key it holds, 0 when it holds none; `listed` is its bit of SLOT_MAP. -/
structure KeySlot where
  gen : Nat := 0
  listed : Bool := false
  tag : List Byte := []
  secret : List Byte := []
  useJorto : Bool := false
  ctr : Nat := 0
  erasing : Bool := false
  ranges : List (Nat × Nat) := []
  tooMany : Bool := false
  deriving DecidableEq, Repr, Inhabited

/-- A firmware slot: the images placed at manufacture, or the chunks that host software wrote over them, by chunk number (R423). -/
inductive FwSlot where
  | factory (version svn : Nat)
  | chunks (c : Table (List Byte))
  deriving DecidableEq, Repr, Inhabited

/-- The wear ledger (Table 19.8): energy in nanojoules, temperature bins in milliseconds; `hot` remembers that Tj has reached 80 °C since
the last thermal cycle was counted. -/
structure Ledger where
  seq : Nat := 0
  poweredS : Nat := 0
  energyNano : Nat := 0
  powerCycles : Nat := 0
  uncleanStops : Nat := 0
  thermalCycles : Nat := 0
  vigilEntries : Nat := 0
  ufRecords : Nat := 0
  erases : Nat := 0
  debugUnlocks : Nat := 0
  lcCount : Nat := 0
  tjPeak : Nat := 0
  tsPeak : Nat := 0
  restarted : Bool := false
  dieTestRun : Bool := false
  tempBins : Table Nat := []
  fabricBytes : Nat := 0
  stackCe : Table Nat := []
  linkCe : Table Nat := []
  hostCe : Table Nat := []
  hot : Bool := false
  deriving DecidableEq, Repr, Inhabited

/-- One of the ledger's two stored copies (R435). -/
structure LedgerCopy where
  valid : Bool := true
  l : Ledger := {}
  deriving DecidableEq, Repr, Inhabited

/-- One of a profile's two stored copies (R357): values that differ from the defaults, by object key. -/
structure ProfileCopy where
  gen : Nat := 0
  ok : Bool := true
  vals : Table Nat := []
  octs : Table (List Byte) := []
  deriving DecidableEq, Repr, Inhabited

/-- A stored profile (R357). -/
structure Profile where
  a : ProfileCopy := {}
  b : ProfileCopy := { ok := false }
  saves : Nat := 0
  deriving DecidableEq, Repr, Inhabited

/-- A SAVE or a DEFAULTS in progress (R359): its target and the values it writes. -/
structure Saving where
  profile : Nat
  save : Bool
  vals : Table Nat
  octs : Table (List Byte)
  deriving DecidableEq, Repr, Inhabited

/-- An attestation report asked for by a requester (R425). -/
structure Report2 where
  req : Requester
  nonce : List Byte
  ready : Bool
  bytes : List Byte
  deriving DecidableEq, Repr, Inhabited

/-- What an erase is part of: itself, a lifecycle record, or a debug token with its scope (R429, R432, R434). -/
inductive EraseFor where
  | itself
  | record (bytes : List Byte)
  | token (scope : Nat)
  deriving DecidableEq, Repr, Inhabited

/-- An erase under way, or a job that waits behind it (R433): the tenant slot, 255 for all or 0 for a record that has not been judged yet,
what it is part of, its requester, and the Dorub answer that waits for it. -/
structure EraseJob where
  slot : Nat
  what : EraseFor
  req : Requester
  answer : Option DorubRsp
  deriving DecidableEq, Repr, Inhabited

/-- What the warden's store holds beside the fuses (R428). -/
structure StoreVals where
  lifecycle : Lifecycle := .manufacture
  owner : Nat := 0
  nextOwner : Nat := 0
  lessee : List Byte := []
  lcCount : Nat := 0
  slot0Secret : List Byte := []
  deriving DecidableEq, Repr, Inhabited

/-- One of the store's two copies: its generation, and whether it passes its CRC (R357, R428). -/
structure StoreCopy where
  gen : Nat := 0
  ok : Bool := true
  vals : StoreVals := {}
  deriving DecidableEq, Repr, Inhabited

/-- The warden's fuses, store and live state (R418 to R438). `activated` says that the slot not
booted becomes the active one at the next cold reset (R423); `flitsPassed` of TX_FLITS have gone into the ledger since the cold reset. -/
structure Security where
  vendorFuse : Bool := false
  retiredFuse : Bool := false
  storeA : StoreCopy := {}
  storeB : StoreCopy := { ok := false }
  slot0Ctr : Nat := 0
  keys : Table KeySlot := [(0, { gen := 1, listed := true })]
  genKeys : Table (List Byte) := []
  genNext : Nat := 2
  auth : Option Requester := none
  challengeNo : Nat := 0
  debugChallengeNo : Nat := 1
  randomNext : Nat := 2
  fwA : FwSlot := .factory 1 0
  fwB : FwSlot := .factory 1 0
  fwBooted : Nat := 0
  fwActive : Nat := 0
  stagedOk : Bool := false
  activated : Bool := false
  fusedSvnW : Nat := 0
  fusedSvnD : Nat := 0
  fwMinSvn : Nat := 0
  revoked : List Nat := []
  eraseQueue : List EraseJob := []
  erasePending : Bool := false
  erasePendingFound : Bool := false
  debugScope : Nat := 3
  reports : List Report2 := []
  ledger : Ledger := {}
  ledgerA : LedgerCopy := {}
  ledgerB : LedgerCopy := {}
  epochFuses : Nat := 0
  lastCommitTick : Nat := 0
  flitsPassed : Nat := 0
  bootRomOnly : Bool := false
  deriving DecidableEq, Repr, Inhabited

/-- Copy A of the store is the valid copy with the higher generation. -/
def Security.newestA (z : Security) : Bool := z.storeA.ok && !(z.storeB.ok && z.storeA.gen < z.storeB.gen)

/-- What the store holds: its valid copy with the higher generation (R357, R428); with no valid copy, what a new store holds. -/
def Security.stored (z : Security) : StoreVals := if z.newestA then z.storeA.vals else if z.storeB.ok then z.storeB.vals else {}

/-- The lifecycle state: where the fuses and the store disagree, the fuses prevail (R428). -/
def Security.lifecycle (z : Security) : Lifecycle :=
  if z.retiredFuse then .retired
  else if !z.vendorFuse then .manufacture
  else match z.stored.lifecycle with
    | .manufacture | .retired => .vendor
    | l => l
def Security.owner (z : Security) : Nat := z.stored.owner
def Security.nextOwner (z : Security) : Nat := z.stored.nextOwner
def Security.lessee (z : Security) : List Byte := z.stored.lessee
def Security.lcCount (z : Security) : Nat := z.stored.lcCount
def Security.slot0Secret (z : Security) : List Byte := z.stored.slot0Secret

/-- Change what the store holds: the older copy is written (R357, R428). -/
def Security.keep (z : Security) (f : StoreVals → StoreVals) : Security :=
  let c : StoreCopy := { gen := max z.storeA.gen z.storeB.gen + 1, vals := f z.stored }
  if z.newestA then { z with storeB := c } else { z with storeA := c }

/-- Stored profiles and their selection (R357 to R360). -/
structure Profiles where
  profiles : Table Profile := []
  active : Nat := 0
  override : Nat := 255
  next : Nat := 255
  defaultsLoaded : Bool := false
  saving : Option Saving := none
  guardOpen : Bool := false
  guardRefused : Nat := 0
  deriving DecidableEq, Repr, Inhabited

/-! ### Memory condition (chapter 13) -/

/-- Condition of a 64-byte HBM unit's codeword (R311, Table 13.3). -/
inductive UnitCond where
  | clean | correctable | uncorrectable | poisoned
  deriving DecidableEq, Repr, Inhabited

/-- The stored codeword of an HBM unit, as it differs from the RS(36,32) codeword of its ciphertext (R311): the symbols in error by place (0
to 31 data, 32 to 35 check) with the bits that are wrong in each, the reserved check pattern of a poisoned unit, and a corrected write-back
that is still queued (R315). An unlisted unit is clean. -/
structure Codeword where
  errs : List (Nat × Half) := []
  poison : Bool := false
  writeBack : Bool := false
  deriving DecidableEq, Repr, Inhabited

/-- What the decoder finds (R311): one symbol is corrected, two are detected. More than two are taken as uncorrectable too (DESIGN CHOICE, log
entry 109). -/
def Codeword.cond (c : Codeword) : UnitCond :=
  if c.poison then .poisoned
  else match ((c.errs.filter (fun e => e.2 ≠ 0)).map (·.1)).eraseDups with
    | [] => .clean
    | [_] => .correctable
    | _ => .uncorrectable

/-! ### Stops -/

/-- Why the block stops with a fault. -/
inductive Fault where
  /-- Raised by no command: one that names a core, die, slot, port, block or stack which the part does not have (R2, R10, R16 to R18, R347) finds
  nothing to act on and leaves the machine as it is (log entry 135). Safe. -/
  | noSuchUnit
  deriving DecidableEq, Repr, Inhabited

/-- Why the block gives a command no meaning. -/
inductive Refusal where
  /-- An arm of `exec` that has no meaning yet. Safe: nothing is claimed of it. -/
  | notModelled (mnemonic : String)
  deriving DecidableEq, Repr, Inhabited

/-- THE STATE of one package, and the queue of commands that wait. `mem` holds HBM, core memory and the shared buffers by local address;
`unitKey` the key generation that last wrote an HBM unit, `fills` the ranges of units (first, end, generation), youngest first, that an erase
zeroed and nothing has written since (R432); `unitCode` each unit's codeword (R311); `coreUc` the 64-byte units of core memory and shared
buffer, by address / 64, whose reads meet an uncorrected error (R69, R119; log entry 108). -/
structure State where
  part : Part := .tp4
  pending : List Instr := []
  -- cores
  cores : Table CoreSt := []
  ctxs : Table Context := []
  accs : Table AccTile := []
  srf : Table Dword := []
  rescale : Table Dword := []
  -- memory
  mem : List Host.Cell := []
  unitKey : Table Nat := []
  fills : List (Nat × Nat × Nat) := []
  unitCode : Table Codeword := []
  coreUc : List Nat := []
  scrubAt : Table Nat := []
  mcErr : Table (Nat × Nat) := []
  unspecCount : Nat := 0
  untrained : List Nat := []
  -- registers, objects, totals
  blocks : Table Block := []
  objs : Table Nat := []
  octs : Table (List Byte) := []
  tots : Table Nat := []
  -- pipeline, group, watch
  slots : Table Slot := []
  group : Group := {}
  noise : Table NoiseEntry := []
  watch : Table WatchEntry := []
  watchNew : Table WatchEntry := []
  live : List LiveCount := []
  watchDue : List WatchDue := []
  -- fabric
  fports : Table FPort := []
  router : List HeldPacket := []
  inbox : List (Nat × Packet) := []
  almanac : Almanac := {}
  msgTable : List MsgEntry := []
  sent : List SrcMsg := []
  msgidNext : Table Nat := []
  reshards : List Reshard := []
  -- host links
  links : Table LinkState := []
  sessions : List Session := []
  sessionNext : Nat := 1
  events : List Event := []
  eventNext : Nat := 0
  eventsLostSince : Nat := 0
  kept : List DorubRsp := []
  xfers : List Xfer := []
  xferNext : Nat := 1
  multi : Option Multi := none
  heldWrites : List Held := []
  net : List NetOut := []
  -- power, start-up, errors, security
  power : Power := {}
  boot : Boot := {}
  taps : Table Tap := []
  errors : Errors := {}
  security : Security := {}
  profiles : Profiles := {}
  counters : Table Nat := []
  auditFrozen : Bool := false
  deriving DecidableEq, Repr, Inhabited

/-- The machine right after reset: a TP4 as it leaves manufacture, before its first cold start (R383, Table 17.1): contexts
EMPTY, blocks disabled, memories zero, guards locked, queues empty, BOOT_STATE ROM, one edition-0 route table, totals
zero. Every sparse table is empty, so each key reads as its reset value; watch entry 0 is valid with the default limits
(Table 8.10). -/
def State.reset : State := { watch := [(0, { valid := true, zsLimit := 64, zsPpm := 999000, satPpm := 10000 })] }

end Sys2Proof.Machine
end

