-- ==== Sys2Proof/Machine/Map.lean ====
section
/-! DEFINITION. Sparse tables in one canonical form: keys strictly rising, no entry equal to what an unlisted key reads
as. Every table of the state, the memory included, is read and written through these. -/

namespace Sys2Proof.Machine

/-- What the table holds at a key, `d` where the key is not listed. -/
def Table.read {V : Type} (d : V) (k : Nat) : Table V → V
  | [] => d
  | (j, v) :: m => if j = k then v else Table.read d k m

/-- The table without the key. -/
def Table.erase {V : Type} (k : Nat) : Table V → Table V
  | [] => []
  | (j, v) :: m => if j = k then Table.erase k m else (j, v) :: Table.erase k m

/-- The table with the value put in at its place. -/
def Table.insert {V : Type} (k : Nat) (v : V) : Table V → Table V
  | [] => [(k, v)]
  | (j, w) :: m =>
    if k < j then (k, v) :: (j, w) :: m
    else if k = j then (k, v) :: m
    else (j, w) :: Table.insert k v m

/-- Write: a value equal to the default removes the entry, so equal tables are equal lists. -/
def Table.write {V : Type} [DecidableEq V] (d : V) (k : Nat) (v : V) (m : Table V) : Table V :=
  if v = d then Table.erase k m else Table.insert k v m

/-- Apply a function at a key. -/
def Table.modify {V : Type} [DecidableEq V] (d : V) (k : Nat) (f : V → V) (m : Table V) : Table V :=
  Table.write d k (f (Table.read d k m)) m

/-- The canonical form, as a check. -/
def Table.wf {V : Type} [DecidableEq V] (d : V) : Table V → Bool
  | [] => true
  | (j, v) :: m => (v != d) && m.all (fun e => j < e.1) && Table.wf d m

/-- The canonical form of the memory: addresses strictly rising, and no listed byte 0, which is what an unlisted address holds. -/
def Memory.wf (m : List Host.Cell) : Bool := Table.wf (0 : Byte) m

/-- The entries that consecutive values from a key upward need: those that differ from the default. -/
def Table.entries {V : Type} [DecidableEq V] (d : V) : Nat → List V → Table V
  | _, [] => []
  | k, v :: vs => if v = d then Table.entries d (k + 1) vs else (k, v) :: Table.entries d (k + 1) vs

/-- Write consecutive values from a key upward. -/
def Table.writeList {V : Type} [DecidableEq V] (d : V) (k : Nat) (vs : List V) (m : Table V) : Table V :=
  m.filter (fun e => e.1 < k) ++ Table.entries d k vs ++ m.filter (fun e => k + vs.length ≤ e.1)

/-- Read `n` consecutive values from a key upward, in one pass over the rising keys. -/
def Table.readList {V : Type} (d : V) (k : Nat) : Nat → Table V → List V
  | 0, _ => []
  | n + 1, m =>
    let m' := m.dropWhile (fun e => e.1 < k)
    (match m' with
      | [] => d
      | e :: _ => if e.1 = k then e.2 else d) :: Table.readList d (k + 1) n m'

/-- Drop every key in [lo, hi). -/
def Table.drop {V : Type} (lo hi : Nat) (m : Table V) : Table V :=
  m.filter (fun e => !(lo ≤ e.1 && e.1 < hi))

/-! ### Bytes and bit fields (R6, R7) -/

/-- The value of bytes, the first the least significant. -/
def leNat : List Byte → Nat
  | [] => 0
  | b :: bs => b.toNat + 256 * leNat bs

/-- The `n` little-endian bytes of a value, its higher bits dropped. -/
def leBytes : Nat → Nat → List Byte
  | 0, _ => []
  | n + 1, v => BitVec.ofNat 8 v :: leBytes n (v / 256)

/-- The value of bytes in big-endian order (RFC 8017, R419). -/
def beNat (bs : List Byte) : Nat := bs.foldl (fun a b => 256 * a + b.toNat) 0

/-- The `n` big-endian bytes of a value. -/
def beBytes (n v : Nat) : List Byte := (leBytes n v).reverse

/-- Bits [lo + w − 1 : lo] of a value. -/
def bitsOf (v lo w : Nat) : Nat := v / 2 ^ lo % 2 ^ w

/-- Bit n of a value. -/
def bitOf (v n : Nat) : Bool := v / 2 ^ n % 2 == 1

/-- A `w`-bit pattern read as two's complement. -/
def signedOf (w v : Nat) : Int := if v % 2 ^ w < 2 ^ (w - 1) then (v % 2 ^ w : Nat) else (v % 2 ^ w : Nat) - (2 ^ w : Nat)

/-- The `w`-bit two's-complement pattern of an integer. -/
def patternOf (w : Nat) (i : Int) : Nat := (i % (2 ^ w : Nat)).toNat

/-- Bool as a bit. -/
def bit01 (b : Bool) : Nat := if b then 1 else 0

/-- ⌈a / b⌉. -/
def ceilDiv (a b : Nat) : Nat := (a + b - 1) / b

/-- Bytes `n` from offset `o` of a byte string, zero beyond its end. -/
def slice (bs : List Byte) (o n : Nat) : List Byte :=
  (List.range n).map (fun i => bs.getD (o + i) 0)

/-- A byte string with bytes put in at an offset; what lies beyond its end is dropped. -/
def patch (bs : List Byte) (o : Nat) (new : List Byte) : List Byte :=
  bs.take o ++ (new.take (bs.length - o)) ++ bs.drop (o + new.length)

/-- Replace the n-th item of a list. -/
def setNth {α : Type} (l : List α) (n : Nat) (a : α) : List α := l.set n a

/-- Add to the n-th number of a list. -/
def addNth (l : List Nat) (n a : Nat) : List Nat := l.set n (l.getD n 0 + a)

/-- Population count of the low `n` bits. -/
def popcount (n v : Nat) : Nat := ((List.range n).filter (fun i => bitOf v i)).length

/-- The positions of the set bits among the low `n`, ascending. -/
def setBits (n v : Nat) : List Nat := (List.range n).filter (fun i => bitOf v i)

/-- Saturating addition at 2^w − 1. -/
def satAdd (w a b : Nat) : Nat := min (a + b) (2 ^ w - 1)

end Sys2Proof.Machine
end

