-- ==== Sys2Proof/Machine/Float.lean ====
section
/-! DEFINITION. Exact values and the one rounding: floating-point patterns as exact dyadic values, rounding to nearest with
ties to even into FP32, BF16 and FP16 (R26 to R29), and the IEEE operations on exact values. -/

namespace Sys2Proof.Machine

/-- An exact value: a NaN (with its FP32 pattern, quieted, for Shenos 1 emulation), an infinity, or ±m × 2^e. -/
inductive FV where
  | nan (p : Nat)
  | inf (neg : Bool)
  | fin (neg : Bool) (m : Nat) (e : Int)
  deriving DecidableEq, Repr, Inhabited

/-- A floating-point layout (Table 2.3): fraction width, bias, the exponent field of infinities. -/
structure Fmt where
  w : Nat
  bias : Nat
  emax : Nat
  deriving DecidableEq, Repr, Inhabited

def fp32 : Fmt := ⟨23, 127, 255⟩
def bf16 : Fmt := ⟨7, 127, 255⟩
def fp16 : Fmt := ⟨10, 15, 31⟩

/-- The sign bit's weight. -/
def Fmt.sign (f : Fmt) : Nat := (f.emax + 1) * 2 ^ f.w
/-- The magnitude pattern of infinity. -/
def Fmt.inf (f : Fmt) : Nat := f.emax * 2 ^ f.w
/-- The canonical NaN (R28). -/
def Fmt.nan (f : Fmt) : Nat := f.inf + 2 ^ (f.w - 1)
/-- The largest finite magnitude. -/
def Fmt.maxFin (f : Fmt) : Nat := f.inf - 1

/-- A sign on a magnitude pattern. -/
def Fmt.signed (f : Fmt) (neg : Bool) (mag : Nat) : Nat := if neg then f.sign + mag else mag

/-- The canonical NaN of FP32. -/
def nan32 : Nat := 0x7FC00000

/-- Value of a pattern (R26). A NaN carries its pattern widened to FP32 with the quiet bit set (R72). -/
def Fmt.decode (f : Fmt) (p : Nat) : FV :=
  let neg := p / f.sign % 2 == 1
  let e := p / 2 ^ f.w % (f.emax + 1)
  let m := p % 2 ^ f.w
  if e = f.emax then
    if m = 0 then .inf neg
    else .nan (fp32.signed neg (fp32.inf + m * 2 ^ (23 - f.w) ||| 0x400000))
  else if e = 0 then .fin neg m (1 - (f.bias : Int) - f.w)
  else .fin neg (2 ^ f.w + m) ((e : Int) - f.bias - f.w)

/-- ⌊log₂(num / den)⌋ for positive num and den. -/
def log2Ratio (num den : Nat) : Int :=
  let l : Int := (Nat.log2 num : Int) - Nat.log2 den
  if (if l ≥ 0 then num ≥ den * 2 ^ l.toNat else num * 2 ^ (-l).toNat ≥ den) then l else l - 1

/-- Round num / den × 2^e (a magnitude, den > 0) to nearest, ties to even: the magnitude pattern without an overflow
check, and whether it differs from the value. `sticky`: the value lies strictly above num / den × 2^e, by less than
any amount that matters. -/
def Fmt.roundMag (f : Fmt) (num den : Nat) (e : Int) (sticky : Bool := false) : Nat × Bool :=
  if num = 0 then (0, sticky)
  else
    let qmin : Int := 1 - (f.bias : Int) - f.w
    let q := max (log2Ratio num den + e - f.w) qmin
    let sh := e - q
    let n' := if sh ≥ 0 then num * 2 ^ sh.toNat else num
    let d' := if sh ≥ 0 then den else den * 2 ^ (-sh).toNat
    let n := n' / d'
    let r := n' % d'
    let up := 2 * r > d' || (2 * r = d' && (n % 2 = 1 || sticky))
    let n := if up then n + 1 else n
    (n + (q - qmin).toNat * 2 ^ f.w, r ≠ 0 || sticky)

/-- What a rounding found: the pattern, with INEXACT and UNDERFLOW as R29 sets them, and overflow. -/
structure Rounded where
  bits : Nat
  inexact : Bool := false
  under : Bool := false
  ovf : Bool := false
  deriving DecidableEq, Repr, Inhabited

/-- Round a signed magnitude, an overflow giving infinity (R54 steps 4 and 5, R89, R141). -/
def Fmt.round (f : Fmt) (neg : Bool) (num den : Nat) (e : Int) (sticky : Bool := false) : Rounded :=
  let (mag, inexact) := f.roundMag num den e sticky
  if mag ≥ f.inf then ⟨f.signed neg f.inf, true, false, true⟩
  else ⟨f.signed neg mag, inexact, inexact && mag < 2 ^ f.w, false⟩

/-- The exact value rounded, an overflow giving infinity; a NaN is the canonical one. -/
def Fmt.roundV (f : Fmt) : FV → Rounded
  | .nan _ => ⟨f.nan, false, false, false⟩
  | .inf neg => ⟨f.signed neg f.inf, false, false, false⟩
  | .fin neg m e => f.round neg m 1 e

/-! ### Exact operations -/

def FV.isNan : FV → Bool
  | .nan _ => true
  | _ => false
def FV.isInf : FV → Bool
  | .inf _ => true
  | _ => false
def FV.isFin : FV → Bool
  | .fin _ _ _ => true
  | _ => false
/-- Is the value ±0? -/
def FV.isZero : FV → Bool
  | .fin _ 0 _ => true
  | _ => false
def FV.neg : FV → Bool
  | .nan _ => false
  | .inf n => n
  | .fin n _ _ => n
def FV.zero : FV := .fin false 0 0
def FV.one : FV := .fin false 1 0
def FV.canon : FV := .nan nan32

/-- −x. -/
def FV.negate : FV → FV
  | .nan p => .nan p
  | .inf n => .inf (!n)
  | .fin n m e => .fin (!n) m e

/-- |x|. -/
def FV.abs : FV → FV
  | .nan p => .nan p
  | .inf _ => .inf false
  | .fin _ m e => .fin false m e

/-- An exact signed value. -/
def FV.ofInt (i : Int) (e : Int) : FV := .fin (i < 0) i.natAbs e

/-- The signed significand of a finite value at exponent e, which must not exceed its own. -/
def FV.scaled (e : Int) : FV → Int
  | .fin n m x => (if n then -1 else 1) * (m * 2 ^ (x - e).toNat : Nat)
  | _ => 0

def FV.exp : FV → Int
  | .fin _ _ e => e
  | _ => 0

/-- Multiply by 2^k. -/
def FV.scale (k : Int) : FV → FV
  | .fin n m e => .fin n m (e + k)
  | v => v

/-- Exact sum with IEEE special values. -/
def FV.add (a b : FV) : FV :=
  match a, b with
  | .nan p, _ => .nan p
  | _, .nan p => .nan p
  | .inf x, .inf y => if x = y then .inf x else .canon
  | .inf x, _ => .inf x
  | _, .inf y => .inf y
  | .fin x m d, .fin y n e =>
    if m = 0 && n = 0 then .fin (x && y) 0 0
    else
      let q := min d e
      let i := (FV.fin x m d).scaled q + (FV.fin y n e).scaled q
      .ofInt i q

def FV.sub (a b : FV) : FV := a.add b.negate

/-- Exact product with IEEE special values. -/
def FV.mul (a b : FV) : FV :=
  match a, b with
  | .nan p, _ => .nan p
  | _, .nan p => .nan p
  | .inf x, .inf y => .inf (x != y)
  | .inf x, .fin y m _ => if m = 0 then .canon else .inf (x != y)
  | .fin x m _, .inf y => if m = 0 then .canon else .inf (x != y)
  | .fin x m d, .fin y n e => .fin (x != y) (m * n) (d + e)

/-- a < b on values that are not NaN; −0 equals +0. -/
def FV.lt (a b : FV) : Bool :=
  match a, b with
  | .nan _, _ => false
  | _, .nan _ => false
  | .inf x, .inf y => x && !y
  | .inf x, _ => x
  | _, .inf y => !y
  | .fin _ _ d, .fin _ _ e => a.scaled (min d e) < b.scaled (min d e)

/-- Equal as values. -/
def FV.eqv (a b : FV) : Bool :=
  match a, b with
  | .nan _, _ => false
  | _, .nan _ => false
  | a, b => !a.lt b && !b.lt a

/-- ⌊log₂ |x|⌋ of a finite non-zero value. -/
def FV.log2 : FV → Int
  | .fin _ m e => (Nat.log2 m : Int) + e
  | _ => 0

/-- Value of an FP32 pattern. -/
def f32 (p : Word) : FV := fp32.decode p.toNat

/-- Exact quotient rounded once to FP32, with IEEE special values (R81, R141, R181). -/
def divRound (a b : FV) : Rounded :=
  match a, b with
  | .nan _, _ => ⟨nan32, false, false, false⟩
  | _, .nan _ => ⟨nan32, false, false, false⟩
  | .inf _, .inf _ => ⟨nan32, false, false, false⟩
  | .inf x, .fin y _ _ => ⟨fp32.signed (x != y) fp32.inf, false, false, false⟩
  | .fin x _ _, .inf y => ⟨fp32.signed (x != y) 0, false, false, false⟩
  | .fin x m d, .fin y n e =>
    if n = 0 then
      if m = 0 then ⟨nan32, false, false, false⟩ else ⟨fp32.signed (x != y) fp32.inf, false, false, true⟩
    else fp32.round (x != y) m n (d - e)

/-- ⌊√n⌋, one result bit a step. -/
def isqrtAux : Nat → Nat → Nat → Nat
  | 0, _, r => r
  | k + 1, n, r => isqrtAux k n (if (r + 2 ^ k) * (r + 2 ^ k) ≤ n then r + 2 ^ k else r)

def isqrt (n : Nat) : Nat := isqrtAux (Nat.log2 n / 2 + 1) n 0

/-- √x correctly rounded (R141, R181). -/
def sqrtRound : FV → Rounded
  | .nan _ => ⟨nan32, false, false, false⟩
  | .inf true => ⟨nan32, false, false, false⟩
  | .inf false => ⟨fp32.inf, false, false, false⟩
  | .fin n m e =>
    if m = 0 then ⟨fp32.signed n 0, false, false, false⟩
    else if n then ⟨nan32, false, false, false⟩
    else
      let odd : Nat := if e % 2 = 0 then 0 else 1
      let s := m * 2 ^ (128 + odd)
      let r := isqrt s
      fp32.round false r 1 ((e - odd) / 2 - 64) (r * r ≠ s)

/-- 1 / √x correctly rounded; ±0 gives an infinity of its sign (R141). -/
def rsqrtRound : FV → Rounded
  | .nan _ => ⟨nan32, false, false, false⟩
  | .inf true => ⟨nan32, false, false, false⟩
  | .inf false => ⟨0, false, false, false⟩
  | .fin n m e =>
    if m = 0 then ⟨fp32.signed n fp32.inf, false, false, true⟩
    else if n then ⟨nan32, false, false, false⟩
    else
      let odd : Nat := if e % 2 = 0 then 0 else 1
      let m' := m * 2 ^ odd
      let r := isqrt (2 ^ 256 / m')
      fp32.round false r 1 (-(e - odd) / 2 - 128) (r * r * m' ≠ 2 ^ 256)

/-- Nearest integer to num / den × 2^e, ties to even, as a magnitude. -/
def roundInt (num den : Nat) (e : Int) : Nat :=
  let n' := if e ≥ 0 then num * 2 ^ e.toNat else num
  let d' := if e ≥ 0 then den else den * 2 ^ (-e).toNat
  let n := n' / d'
  let r := n' % d'
  if 2 * r > d' || (2 * r = d' && n % 2 = 1) then n + 1 else n

/-- A signed nearest integer. -/
def roundIntS (neg : Bool) (num den : Nat) (e : Int) : Int :=
  if neg then -(roundInt num den e : Int) else roundInt num den e

end Sys2Proof.Machine
end

