-- ==== Sys2Proof/Machine/Flags.lean ====
section
/-! DEFINITION. The flag word (Table 3.4) and the counts that an operation makes beside its result: the counts of R191 against a
tensor, and the events of Table 4.6. -/

namespace Sys2Proof.Machine

/-- Flag bits (Table 3.4). -/
def flagNanIn : Byte := 0x01
def flagInfIn : Byte := 0x02
def flagProdOvf : Byte := 0x04
def flagAccOvf : Byte := 0x08
def flagUnderflow : Byte := 0x10
def flagInexact : Byte := 0x20

/-- A flag when a condition holds. -/
def Byte.when (f : Byte) (b : Bool) : Byte := if b then f else 0

/-- The flags that a rounding sets (R29). -/
def Rounded.flags (r : Rounded) : Byte :=
  Byte.when flagInexact r.inexact ||| Byte.when flagUnderflow r.under

/-- The same with ACC_OVF for an infinity made from finite operands (Table 3.4). -/
def Rounded.flagsOvf (r : Rounded) : Byte := r.flags ||| Byte.when flagAccOvf r.ovf

/-- NAN_IN or INF_IN for an input. -/
def FV.inFlags : FV → Byte
  | .nan _ => flagNanIn
  | .inf _ => flagInfIn
  | .fin _ _ _ => 0

/-- Flags and counts of an operation against one tensor; the last four fields are the events of Table 4.6 that QEV counts. -/
structure Tally where
  flags : Byte := 0
  c : Counts := {}
  constCh : Nat := 0
  floors : Nat := 0
  clamps : Nat := 0
  sideOvf : Nat := 0
  badTile : Nat := 0
  deriving DecidableEq, Repr, Inhabited

def Counts.plus (a b : Counts) : Counts :=
  { elems := a.elems + b.elems, zeros := a.zeros + b.zeros, sats := a.sats + b.sats, escs := a.escs + b.escs,
    nonfin := a.nonfin + b.nonfin, qev := a.qev + b.qev, reruns := a.reruns + b.reruns, accovf := a.accovf + b.accovf,
    dclamp := a.dclamp + b.dclamp }

def Tally.plus (a b : Tally) : Tally :=
  { flags := a.flags ||| b.flags, c := a.c.plus b.c, constCh := a.constCh + b.constCh, floors := a.floors + b.floors,
    clamps := a.clamps + b.clamps, sideOvf := a.sideOvf + b.sideOvf, badTile := a.badTile + b.badTile }

def Tally.sum (ts : List Tally) : Tally := ts.foldl Tally.plus {}

/-- The QEV count of a tally (R191): the events of Table 4.6 other than SATURATION and ESCAPE. -/
def Tally.withQev (t : Tally) : Tally :=
  { t with c := { t.c with qev := t.c.qev + t.constCh + t.floors + t.clamps + t.sideOvf } }

/-- Count one written element by its decoded value (R191). -/
def Tally.element (v : FV) : Tally :=
  { c := { elems := 1, zeros := bit01 v.isZero, nonfin := bit01 (!v.isFin) } }

/-- Conversion into a floating-point format (R29), saturating: the pattern, and its flags and saturation. FP32 is the
widest format: storing an FP32 value there is no conversion and sets no flag. -/
def Fmt.convert (f : Fmt) (v : FV) : Nat × Tally :=
  match v with
  | .nan _ => (f.nan, { flags := Byte.when flagNanIn (f.w ≠ 23) })
  | .inf n => (f.signed n f.inf, { flags := Byte.when flagInfIn (f.w ≠ 23) })
  | .fin n m e =>
    let r := f.round n m 1 e
    if r.ovf then (f.signed n f.maxFin, { flags := flagInexact, c := { sats := 1 } })
    else (r.bits, { flags := r.flags })

end Sys2Proof.Machine
end

