-- ==== Sys2Proof/Machine/Reduce.lean ====
section
/-! DEFINITION. The canonical reduction order (R54 to R56, R61 to R64) and Shenos 1 emulation of it (R71, R72). -/

namespace Sys2Proof.Machine

/-- An exact product, and whether one of its inputs was a NaN. -/
structure Prod where
  v : FV
  nanIn : Bool
  deriving DecidableEq, Repr, Inhabited

/-- The exact product of two elements; under an offset it is multiplied by 2^−off (R52, Table 3.6 step 5). -/
def prodOf (a b : FV) (off : Int := 0) : Prod := ⟨(a.mul b).scale (-off), a.isNan || b.isNan⟩

/-- The product of two elements of plain integer operands: an integer product has no signed zero (R57). -/
def Prod.integer (p : Prod) : Prod := if p.v.isZero then { p with v := .zero } else p

/-- The largest finite FP32 value. -/
def maxF32 : FV := .fin false (2 ^ 24 - 1) 104

/-- PROD_OVF for one product before any offset (Table 3.4). -/
def prodFlags (a b : FV) : Byte :=
  let p := a.mul b
  Byte.when flagProdOvf (p.isFin && maxF32.lt p.abs)

/-- Chunk length and field position of weight 2^emax (Tables 3.1 and 3.8). -/
def chunkLen (emu : Bool) : Nat := if emu then 32 else 64
def fieldTop (emu : Bool) : Int := if emu then 33 else 48

/-- A NaN result: the canonical NaN, or in emulation the NaN kept (R72). -/
def nanResult (emu : Bool) (p : Nat) : FV := if emu then .nan p else .canon

/-- Sum of one chunk (Table 3.3, then steps 3 and 4): the FP32 value and its flags. -/
def chunkSum (emu : Bool) (ps : List Prod) : FV × Byte :=
  match ps.find? (·.nanIn) with
  | some p => (match p.v with | .nan b => nanResult emu b | _ => .canon, 0)
  | none =>
    if ps.any (fun p => p.v.isNan) then (.canon, 0)
    else
      let pos := ps.any (fun p => p.v.isInf && !p.v.neg)
      let neg := ps.any (fun p => p.v.isInf && p.v.neg)
      if pos && neg then (.canon, 0)
      else if pos || neg then (.inf neg, 0)
      else
        let nz := (ps.map (·.v)).filter (fun v => !v.isZero)
        match nz with
        | [] => (.fin (ps ≠ [] && ps.all (fun p => p.v.neg)) 0 0, 0)
        | v :: vs =>
          let emax := vs.foldl (fun m x => max m x.log2) v.log2
          let unit := emax - fieldTop emu
          let entry (x : FV) : Int × Bool :=
            match x with
            | .fin n m e =>
              if e ≥ unit then ((if n then -1 else 1) * (m * 2 ^ (e - unit).toNat : Nat), false)
              else
                let d : Nat := 2 ^ (unit - e).toNat
                let q : Int := if n then -(ceilDiv m d : Int) else (m / d : Nat)
                (q, m % d ≠ 0)
            | _ => (0, false)
          let es := nz.map entry
          let f : Int := (es.map (·.1)).foldl (· + ·) 0
          let lost := es.any (·.2)
          if f = 0 then (.zero, Byte.when (flagInexact ||| flagUnderflow) lost)
          else
            let r := fp32.round (f < 0) f.natAbs 1 unit
            let small := r.bits % 2 ^ 31 < 2 ^ 23
            let flags := r.flags ||| Byte.when flagInexact lost ||| Byte.when flagUnderflow (lost && small)
            (if r.bits % 2 ^ 31 = 0 then .zero else fp32.decode r.bits, flags)

/-- Step 5 and the tree additions: an FP32 addition under the rules of Table 3.3 (R61, R63, R72). -/
def addTerms (emu : Bool) (a b : FV) : FV × Byte :=
  match a, b with
  | .nan p, _ => (nanResult emu p, 0)
  | _, .nan p => (nanResult emu p, 0)
  | a, b =>
    match a.add b with
    | .nan _ => (.canon, 0)
    | .inf n => (.inf n, 0)
    | v => let r := fp32.roundV v; (fp32.decode r.bits, r.flags)

/-- Cut a list into chunks of n. -/
def chunksOf {α : Type} (n : Nat) : Nat → List α → List (List α)
  | 0, _ => []
  | k + 1, l => if l.isEmpty then [] else l.take n :: chunksOf n k (l.drop n)

/-- What one element's reduction gives: value, flags, overflow from finite inputs (R66). -/
structure Reduced where
  v : FV
  flags : Byte
  ovf : Bool
  deriving DecidableEq, Repr, Inhabited

/-- Reduce the products of one element; `base` is none under OVW (R54, R58). -/
def reduceElem (emu : Bool) (ps : List Prod) (base : Option FV) : Reduced :=
  let fin := (match base with | none => true | some b => b.isFin) && ps.all (fun p => p.v.isFin && !p.nanIn)
  let out := (chunksOf (chunkLen emu) (ps.length + 1) ps).foldl
    (fun (acc : Option FV × Byte × Bool) ch =>
      let (c, f) := chunkSum emu ch
      match acc.1 with
      | none => (some c, acc.2.1 ||| f, acc.2.2 || !c.isFin)
      | some a => let (v, g) := addTerms emu a c; (some v, acc.2.1 ||| f ||| g, acc.2.2 || !c.isFin || !v.isFin))
    (base, 0, false)
  ⟨out.1.getD .zero, out.2.1, fin && out.2.2⟩

/-- One level of the rank tree (R61). -/
def treeLevel (emu : Bool) : List FV → List FV × Byte
  | a :: b :: rest =>
    let (v, f) := addTerms emu a b
    let (vs, g) := treeLevel emu rest
    (v :: vs, f ||| g)
  | l => (l, 0)

/-- The fixed binary tree over ranks (R61). -/
def treeSum (emu : Bool) : Nat → List FV → FV × Byte
  | 0, l => (l.headD .zero, 0)
  | n + 1, l =>
    match l with
    | [] => (.zero, 0)
    | [v] => (v, 0)
    | l =>
      let (m, f) := treeLevel emu l
      let (v, g) := treeSum emu n m
      (v, f ||| g)

end Sys2Proof.Machine
end

