-- ==== Sys2Proof/Machine/Formats.lean ====
section
/-! DEFINITION. Tensor descriptors (Table 6.2) and tile records: their layout (R43 to R45), decoding (R34 to R41) and encoding into
every format (R29, R31, R36 to R39, R82, R83, R85). -/

namespace Sys2Proof.Machine

/-- A descriptor's fields (Table 6.2). -/
structure Desc where
  tid : Nat
  ext0 : Nat
  ext1 : Nat
  tstride : Nat
  base : Nat
  aux : Nat
  srfb : Nat
  space : Nat
  fmt : Nat
  bsz : Bool
  esct : Bool
  escen : Bool
  baxis : Bool
  scm : Bool
  zp : Bool
  deriving DecidableEq, Repr, Inhabited

/-- Read a descriptor image. -/
def descOf (i : DescImage) : Desc :=
  let v := i.toNat
  { tid := bitsOf v 224 32, ext0 := bitsOf v 200 24, ext1 := bitsOf v 176 24, tstride := bitsOf v 160 16,
    base := bitsOf v 112 48, aux := bitsOf v 64 48, srfb := bitsOf v 52 12, space := bitsOf v 50 2, fmt := bitsOf v 12 4,
    bsz := bitOf v 11, esct := bitOf v 10, escen := bitOf v 9, baxis := bitOf v 8, scm := bitOf v 7, zp := bitOf v 6 }

/-- Format kinds (Table 2.1). -/
def isFloat (f : Nat) : Bool := f ≤ 2
def isPlain (f : Nat) : Bool := 3 ≤ f && f ≤ 6
def isBlock (f : Nat) : Bool := 7 ≤ f && f ≤ 11
/-- SB8 and SB4, the formats with a side list. -/
def hasSide (f : Nat) : Bool := f = 7 || f = 9
/-- Rate class in bits: 32 for FP32, 16, 8 or 4 (Table 2.9). -/
def rateClass (f : Nat) : Nat :=
  if f = 0 then 32 else if f ≤ 2 then 16 else if f = 5 || f = 6 || f = 9 || f = 10 then 4 else 8
/-- Bits of a stored element (Table 2.1). -/
def elemBits (f : Nat) : Nat :=
  if f = 0 then 32 else if f ≤ 2 then 16 else if f = 3 || f = 4 || f = 7 || f = 8 then 8 else 4

/-- The IEEE layout of a floating-point format code. -/
def fmtOf (f : Nat) : Fmt := if f = 0 then fp32 else if f = 1 then bf16 else fp16

/-- Code range and shift of a block-scaled format (Table 2.4). -/
def blockLo (f : Nat) : Int := if f = 7 then -127 else if f = 9 then -7 else if f = 11 then -128 else 0
def blockHi (f : Nat) : Int := if f = 7 then 127 else if f = 9 then 7 else if f = 8 then 255 else if f = 10 then 15 else 127
def blockShift (f : Nat) : Int := if f = 8 then 8 else if f = 9 then 3 else if f = 10 then 4 else 7
/-- Range of a plain integer format (R30). -/
def plainLo (f : Nat) : Int := if f = 3 then -128 else if f = 5 then -8 else 0
def plainHi (f : Nat) : Int := if f = 3 then 127 else if f = 4 then 255 else if f = 5 then 7 else 15

/-- Refusal conditions of a descriptor image (R129): true where the entry may be valid. -/
def descOk (i : DescImage) : Bool :=
  let d := descOf i
  d.fmt ≤ 11 && d.ext0 ≠ 0 && d.ext1 ≠ 0 && d.space ≠ 3 && d.base % 64 = 0 &&
    !(d.tstride ≠ 0 && d.tstride < ceilDiv d.ext1 64) && !(d.zp && (d.fmt = 3 || d.fmt = 5))

/-- Block size, blocks in a line. -/
def Desc.blk (d : Desc) : Nat := if d.bsz then 32 else 16
def Desc.perLine (d : Desc) : Nat := 64 / d.blk
/-- Bytes of the parts of a record (Table 2.6). -/
def Desc.expBytes (d : Desc) : Nat := if isBlock d.fmt then 4096 / d.blk else 0
def Desc.sideBytes (d : Desc) : Nat := if hasSide d.fmt then (if d.esct then 256 else 128) else 0
def Desc.codeBytes (d : Desc) : Nat := 4096 * elemBits d.fmt / 8
/-- Record size (Table 2.7). -/
def Desc.recSize (d : Desc) : Nat := 64 + d.expBytes + d.sideBytes + d.codeBytes

/-- Tiles along each axis, and the effective TSTRIDE (R130). -/
def Desc.tA (d : Desc) : Nat := ceilDiv d.ext0 64
def Desc.tB (d : Desc) : Nat := ceilDiv d.ext1 64
def Desc.ts (d : Desc) : Nat := if d.tstride = 0 then d.tB else d.tstride
/-- Offset of tile (a, b) (R130). -/
def Desc.tileOff (d : Desc) (a b : Nat) : Nat := d.base + (a * d.ts + b) * d.recSize
/-- Bytes from BASE to the end of the last record: the byte extent that interlocks compare (R105). -/
def Desc.extent (d : Desc) : Nat := ((d.tA - 1) * d.ts + d.tB) * d.recSize
/-- The tiles in tile order. -/
def Desc.tiles (d : Desc) : List (Nat × Nat) :=
  (List.range d.tA).flatMap (fun a => (List.range d.tB).map (fun b => (a, b)))
/-- Bytes of the tensor's records. -/
def Desc.total (d : Desc) : Nat := d.tA * d.tB * d.recSize
/-- Channels: indices along the axis that BAXIS does not name (R42). -/
def Desc.channels (d : Desc) : Nat := if d.baxis then d.ext0 else d.ext1
/-- Scale entries in use (R77). -/
def Desc.entries (d : Desc) : Nat := if d.scm then d.channels else 1
def Desc.sameExt (d e : Desc) : Bool := d.ext0 = e.ext0 && d.ext1 = e.ext1

/-- First-axis and second-axis index of element (l, p) of tile (a, b) (R44, R130). -/
def Desc.at (d : Desc) (a b l p : Nat) : Nat × Nat :=
  if d.baxis then (64 * a + l, 64 * b + p) else (64 * a + p, 64 * b + l)
/-- Element e of tile (a, b) lies inside the extent. -/
def Desc.inside (d : Desc) (a b e : Nat) : Bool :=
  let ij := d.at a b (e / 64) (e % 64)
  ij.1 < d.ext0 && ij.2 < d.ext1
/-- Channel of line l of tile (a, b). -/
def Desc.channel (d : Desc) (a b l : Nat) : Nat := if d.baxis then 64 * a + l else 64 * b + l
/-- Element index of tensor element (i, j) in its tile, and the tile. -/
def Desc.find (d : Desc) (i j : Nat) : Nat × Nat × Nat :=
  (i / 64, j / 64, if d.baxis then i % 64 * 64 + j % 64 else j % 64 * 64 + i % 64)

/-! ### Tile headers (Table 2.8) -/

structure TileHead where
  teo : Int := 0
  slcnt : Nat := 0
  escRaised : Bool := false
  nonfin : Bool := false
  accOvf : Bool := false
  reruns : Nat := 0
  deriving DecidableEq, Repr, Inhabited

def TileHead.value (h : TileHead) : Nat :=
  patternOf 8 h.teo + h.slcnt * 2 ^ 8 + bit01 h.escRaised * 2 ^ 16 + bit01 h.nonfin * 2 ^ 17 + bit01 h.accOvf * 2 ^ 18 +
    h.reruns * 2 ^ 19

def TileHead.ofValue (v : Nat) : TileHead :=
  { teo := signedOf 8 (bitsOf v 0 8), slcnt := bitsOf v 8 7, escRaised := bitOf v 16, nonfin := bitOf v 17, accOvf := bitOf v 18,
    reruns := bitsOf v 19 3 }

/-- The 64-byte header area. -/
def TileHead.bytes (h : TileHead) : List Byte := leBytes 8 h.value ++ List.replicate 56 0

/-! ### Decoding -/

/-- Table 2.5. -/
def nb4Default : List Int := [-127, -90, -69, -53, -39, -27, -16, -5, 5, 16, 27, 39, 53, 69, 90, 127]

/-- A decoded tile: one exact value for each element before TEO, zero outside the extent; surplus escapes (R40). -/
structure Tile where
  vals : Array FV
  head : TileHead
  surplus : Nat
  badCount : Bool
  deriving DecidableEq, Repr, Inhabited

/-- Code of element e. -/
def codeAt (f off : Nat) (r : Array Byte) (e : Nat) : Nat :=
  let byte (i : Nat) : Nat := (r.getD (off + i) 0).toNat
  if elemBits f = 32 then byte (4 * e) + 256 * byte (4 * e + 1) + 65536 * byte (4 * e + 2) + 16777216 * byte (4 * e + 3)
  else if elemBits f = 16 then byte (2 * e) + 256 * byte (2 * e + 1)
  else if elemBits f = 8 then byte e
  else byte (e / 2) / 16 ^ (e % 2) % 16

/-- Value of a block-scaled code under exponent E (R34). -/
def blockValue (f ex : Nat) (q : Int) : FV := .ofInt q ((ex : Int) - 127 - blockShift f)

/-- Decode the element codes of a tile record (R34 to R41). `levels l q` is the NB4 level of code q in line l. -/
def decodeTile (d : Desc) (a b : Nat) (levels : Nat → Nat → Int) (r : Array Byte) : Tile :=
  let head := TileHead.ofValue (leNat (r.toList.take 8))
  let sideOff := 64 + d.expBytes
  let codeOff := sideOff + d.sideBytes
  let limit := min head.slcnt 64
  let side (n : Nat) : FV :=
    if d.esct then fp32.decode (codeAt 0 sideOff r n) else bf16.decode (codeAt 1 sideOff r n)
  let go (acc : Array FV × Nat × Nat) (e : Nat) : Array FV × Nat × Nat :=
    let (vs, used, surplus) := acc
    if !d.inside a b e then (vs.push .zero, used, surplus)
    else
      let c := codeAt d.fmt codeOff r e
      if isFloat d.fmt then (vs.push ((fmtOf d.fmt).decode c), used, surplus)
      else if isPlain d.fmt then
        (vs.push (.ofInt (if d.fmt = 3 then signedOf 8 c else if d.fmt = 5 then signedOf 4 c else c) 0), used, surplus)
      else
        let ex := (r.getD (64 + e / 64 * d.perLine + e % 64 / d.blk) 0).toNat
        if ex = 255 then (vs.push .canon, used, surplus)
        else if (d.fmt = 7 && c = 128) || (d.fmt = 9 && c = 8) then
          if used < limit then (vs.push (side used), used + 1, surplus)
          else (vs.push .canon, used + 1, surplus + 1)
        else
          let q : Int := if d.fmt = 7 then signedOf 8 c else if d.fmt = 9 then signedOf 4 c
            else if d.fmt = 11 then levels (e / 64) c else c
          (vs.push (blockValue d.fmt ex q), used, surplus)
  let out := (List.range 4096).foldl go (#[], 0, 0)
  { vals := out.1, head := head, surplus := out.2.2, badCount := decide (head.slcnt > 64) }

/-! ### Encoding -/

/-- Pack codes of one element width (R32). -/
def packCodes (f : Nat) (cs : List Nat) : List Byte :=
  if elemBits f = 32 then cs.flatMap (leBytes 4)
  else if elemBits f = 16 then cs.flatMap (leBytes 2)
  else if elemBits f = 8 then cs.map (BitVec.ofNat 8)
  else
    let rec pairs : List Nat → List Byte
      | lo :: hi :: rest => BitVec.ofNat 8 (lo % 16 + 16 * (hi % 16)) :: pairs rest
      | [lo] => [BitVec.ofNat 8 (lo % 16)]
      | [] => []
    pairs cs

/-- INEXACT and UNDERFLOW of a finite input against its decoded value, NAN_IN and INF_IN of the others (R29, R36, R82). -/
def cmpFlags (x dec : FV) : Byte :=
  match x with
  | .nan _ => flagNanIn
  | .inf _ => flagInfIn
  | .fin _ _ _ =>
    if dec.eqv x then 0
    else if dec.isFin && !x.isZero && (dec.isZero || dec.log2 < -126) then flagInexact ||| flagUnderflow
    else flagInexact

/-- Encode into a plain integer format under an entry (s, o) (R31, R82): code and saturation. -/
def plainCode (f : Nat) (s o x : FV) : Int × Bool :=
  let lo := plainLo f
  let hi := plainHi f
  let clamp (q : Int) : Int × Bool := if q < lo then (lo, true) else if q > hi then (hi, true) else (q, false)
  match x with
  | .nan _ => (0, false)
  | .inf n => (if n then lo else hi, false)
  | .fin _ _ _ =>
    match s, x.sub o with
    | .nan _, _ => (0, false)
    | _, .nan _ => (0, false)
    | .inf _, .inf _ => (0, false)
    | .inf _, .fin _ _ _ => (0, false)
    | .fin sn _ _, .inf n => (if n != sn then lo else hi, true)
    | .fin sn sm se, .fin n m e =>
      if sm = 0 then (0, lo = 0 && x.lt o)
      else clamp (roundIntS (n != sn) m sm (e - se))

/-- Value of a plain code under an entry, times 2^teo, rounded once to FP32 (R74, R447). -/
def plainValue (s o : FV) (q : FV) (teo : Int) : Rounded := fp32.roundV (((q.mul s).add o).scale teo)

/-- One plain element: its code and what it counts. A non-finite input counts one non-finite value (R31); the entry's own
NaN or infinity is flagged for a finite element (R82). The flags in `mask` are not set by the conversion itself (R141, R448). -/
def plainElem (f : Nat) (s o x : FV) (mask : Byte := 0) : Nat × Tally :=
  let (q, sat) := plainCode f s o x
  let dec := fp32.decode (plainValue s o (.ofInt q 0) 0).bits
  (patternOf (elemBits f) q,
    { flags := (cmpFlags x dec &&& ~~~mask) ||| (if x.isFin then s.inFlags ||| o.inFlags else 0),
      c := { elems := 1, zeros := bit01 dec.isZero, sats := bit01 sat, nonfin := bit01 (!x.isFin) } })

/-- The reference magnitude of R83 among the block's finite non-zero elements, by ⌊log₂⌋ of the (Q + 1)-th largest. -/
def refExp (xs : List FV) (q : Nat) : Option Int :=
  let logs := ((xs.filter (fun x => x.isFin && !x.isZero)).map FV.log2).mergeSort (fun a b => b ≤ a)
  match logs.drop q with
  | l :: _ => some l
  | [] => logs.getLast?

/-- Block exponent (R83), and whether it was clamped. -/
def blockExp (xs : List FV) (q : Nat) : Nat × Bool :=
  match refExp xs q with
  | none => (0, false)
  | some l =>
    let e := l + 128
    if e < 0 then (0, true) else if e > 254 then (254, true) else (e.toNat, false)

/-- What an element of a block becomes. -/
inductive BCode where
  | code (q : Int) (sat : Bool)
  | esc
  | nonfinite
  deriving DecidableEq, Repr, Inhabited

/-- Nearest NB4 level (R85): ties to the even code, then to the lowest. -/
def nb4Code (levels : Nat → Int) (x : FV) (ex : Nat) : Int × Bool :=
  -- distances as scaled integers: x / step and the levels at the smaller exponent
  let y := x.scale (134 - (ex : Int))
  let e := min y.exp 0
  let v := y.scaled e
  let unit : Int := 2 ^ (-e).toNat
  let dist (c : Nat) : Nat := (v - levels c * unit).natAbs
  let better (c best : Nat) : Bool :=
    dist c < dist best || (dist c = dist best && c % 2 = 0 && best % 2 = 1)
  let c := (List.range 16).foldl (fun best c => if better c best then c else best) 0
  let all := (List.range 16).map levels
  let lo := all.foldl min (levels 0)
  let hi := all.foldl max (levels 0)
  (c, 2 * v < (2 * lo - 1) * unit || 2 * v > (2 * hi + 1) * unit)

/-- Encode one element of a block with exponent E (R35, R36, R85). -/
def blockElem (d : Desc) (levels : Nat → Int) (ex : Nat) (x : FV) : BCode :=
  if ex = 255 then .nonfinite
  else match x with
    | .fin n m e =>
      if d.fmt = 11 then let (c, sat) := nb4Code levels x ex; .code c sat
      else
        let q := roundIntS n m 1 (e - ((ex : Int) - 127 - blockShift d.fmt))
        if blockLo d.fmt ≤ q && q ≤ blockHi d.fmt then .code q false
        else if hasSide d.fmt && d.escen then .esc
        else .code (if q < 0 then blockLo d.fmt else blockHi d.fmt) true
    | _ => .esc

/-- A block of a tile while it is encoded: its elements by element index, its exponent, their codes. -/
structure BBlock where
  line : Nat
  elems : List (Nat × FV)
  ex : Nat
  codes : List BCode
  deriving DecidableEq, Repr, Inhabited

def BBlock.encode (d : Desc) (levels : Nat → Nat → Int) (k : BBlock) (ex : Nat) : BBlock :=
  { k with ex := ex, codes := k.elems.map (fun e => blockElem d (levels k.line) ex e.2) }

def BBlock.escapes (k : BBlock) : Nat := (k.codes.filter (· == .esc)).length
def BBlock.finiteEscape (k : BBlock) : Bool := (k.elems.zip k.codes).any (fun p => p.1.2.isFin && p.2 == .esc)

def tileEscapes (ks : List BBlock) : Nat := (ks.map BBlock.escapes).sum

/-- R39 steps 1 and 2. -/
def raiseBlocks (d : Desc) (levels : Nat → Nat → Int) : Nat → List BBlock → List BBlock
  | 0, ks => ks
  | n + 1, ks =>
    if tileEscapes ks ≤ 64 || !ks.any (fun k => k.finiteEscape && k.ex < 254) then ks
    else raiseBlocks d levels n
      (ks.map (fun k => if k.finiteEscape && k.ex < 254 then k.encode d levels (k.ex + 1) else k))

/-- R39 step 3, its first sentence: the finite escapes left are clamped. -/
def clampEscapes (d : Desc) (k : BBlock) : BBlock :=
  { k with codes := (k.elems.zip k.codes).map (fun p =>
      if p.1.2.isFin && p.2 == .esc then .code (if p.1.2.neg then blockLo d.fmt else blockHi d.fmt) true else p.2) }

/-- The block that holds the 65th escape in element order. -/
def escapeOwner (ks : List BBlock) : Option Nat :=
  let all := ks.flatMap (fun k => (k.elems.zip k.codes).filterMap (fun p => if p.2 == .esc then some (p.1.1, k.line, k.ex) else none))
  let sorted := (all.map (·.1)).mergeSort (· ≤ ·)
  sorted[64]?

/-- R39 step 3, the rest: a block with a non-finite element that finds the side list full becomes non-finite. A finite escape of it that was
clamped before counts no saturation then: the final codes count (DESIGN CHOICE, log entry 133). -/
def dropBlocks (d : Desc) (levels : Nat → Nat → Int) : Nat → List BBlock → List BBlock
  | 0, ks => ks
  | n + 1, ks =>
    match escapeOwner ks with
    | none => ks
    | some e => dropBlocks d levels n
        (ks.map (fun k => if k.elems.any (fun x => x.1 == e) then k.encode d levels 255 else k))

/-- The blocks of a tile, with exponents chosen under R83 and R35; the events counted are the clamps. -/
def chooseBlocks (d : Desc) (a b escq : Nat) (levels : Nat → Nat → Int) (xs : Array FV) : List BBlock × Nat :=
  let q := if hasSide d.fmt && d.escen then escq else 0
  let ks := (List.range (64 * d.perLine)).map (fun i =>
    let l := i / d.perLine
    let p := i % d.perLine * d.blk
    let es := ((List.range d.blk).map (fun j => 64 * l + p + j)).filter (fun e => d.inside a b e)
    let elems := es.map (fun e => (e, xs.getD e .zero))
    let bad := !hasSide d.fmt && elems.any (fun e => !e.2.isFin)
    let (ex, clamped) := if bad then (255, false) else blockExp (elems.map (·.2)) q
    (({ line := l, elems := elems, ex := ex, codes := [] } : BBlock).encode d levels ex, clamped))
  (ks.map (·.1), (ks.filter (·.2)).length)

/-- Encode a tile into a block-scaled format (R35 to R39, R83 to R85). The side-list entries beyond the last escape, which R37 and R40 only
call ignored on a read, are written as zero bytes (DESIGN CHOICE, log entry 101). -/
def encodeBlocks (d : Desc) (a b escq : Nat) (levels : Nat → Nat → Int) (head : TileHead) (xs : Array FV)
    (mask : Nat → Byte := fun _ => 0) : List Byte × Tally :=
  let (ks, clamps) := chooseBlocks d a b escq levels xs
  let full := tileEscapes ks > 64
  let ks := if full then
      let ks := raiseBlocks d levels 256 ks
      if tileEscapes ks > 64 then dropBlocks d levels 256 (ks.map (clampEscapes d)) else ks
    else ks
  let side := if d.esct then fp32 else bf16
  let one (k : BBlock) (p : (Nat × FV) × BCode) : Nat × Nat × Option Nat × Tally :=
    let x := p.1.2
    match p.2 with
    | .code q sat =>
      let dec := if d.fmt = 11 then blockValue 11 k.ex (levels k.line q.toNat) else blockValue d.fmt k.ex q
      (p.1.1, patternOf (elemBits d.fmt) q, none,
        { flags := cmpFlags x dec &&& ~~~mask p.1.1, c := { elems := 1, zeros := bit01 dec.isZero, sats := bit01 sat } })
    | .esc =>
      let (bits, t) := side.convert x
      let dec := side.decode bits
      (p.1.1, if d.fmt = 7 then 128 else 8, some bits,
        ({ flags := cmpFlags x dec &&& ~~~mask p.1.1, c := t.c } : Tally).plus ((Tally.element dec).plus { c := { escs := 1 } }))
    | .nonfinite => (p.1.1, 0, none, { flags := cmpFlags x .canon &&& ~~~mask p.1.1, c := { elems := 1, nonfin := 1 } })
  let done := (ks.flatMap (fun k => (k.elems.zip k.codes).map (one k))).mergeSort (fun x y => x.1 ≤ y.1)
  let entries := done.filterMap (fun x => x.2.2.1)
  let codes := done.foldl (fun (cs : Array Nat) x => cs.setIfInBounds x.1 x.2.1) (Array.replicate 4096 0)
  let t := Tally.sum (done.map (fun x => x.2.2.2))
  let head := { head with slcnt := entries.length, escRaised := full,
                          nonfin := head.nonfin || t.c.nonfin > 0 || ks.any (fun k => k.ex == 255) }
  let w := if d.esct then 4 else 2
  let sideBytes := if hasSide d.fmt then slice (entries.flatMap (leBytes w)) 0 d.sideBytes else []
  (head.bytes ++ ks.map (fun k => BitVec.ofNat 8 k.ex) ++ sideBytes ++ packCodes d.fmt codes.toList,
    t.plus { clamps := clamps, sideOvf := bit01 full })

/-- Encode a tile: `xs` holds the values before TEO, one for each element index; `entry c` is the scale entry of channel
c for a plain format; `mask e` the flags that the conversion of element e does not set. Elements outside the extent are written as zero
(R44). -/
def encodeTile (d : Desc) (a b escq : Nat) (levels : Nat → Nat → Int) (entry : Nat → FV × FV) (head : TileHead) (xs : Array FV)
    (mask : Nat → Byte := fun _ => 0) : List Byte × Tally :=
  if isBlock d.fmt then encodeBlocks d a b escq levels head xs mask
  else
    let one (e : Nat) : Nat × Tally :=
      if !d.inside a b e then (0, {})
      else
        let x := xs.getD e .zero
        if isPlain d.fmt then
          let so := entry (d.channel a b (e / 64))
          plainElem d.fmt so.1 so.2 x (mask e)
        else
          let (bits, t) := (fmtOf d.fmt).convert x
          (bits, { t with flags := t.flags &&& ~~~mask e }.plus (Tally.element ((fmtOf d.fmt).decode bits)))
    let done := (List.range 4096).map one
    let t := Tally.sum (done.map (·.2))
    let head := { head with nonfin := head.nonfin || (isFloat d.fmt && t.c.nonfin > 0) }
    (head.bytes ++ packCodes d.fmt (done.map (·.1)), t)

end Sys2Proof.Machine
end

