-- ==== Sys2Proof/Machine/Crypto.lean ====
section
/-! DEFINITION. The cryptography of the certified boundary (R419): SHA-256 (FIPS 180-4), HMAC (RFC 2104), RSASSA-PSS and RSAES-OAEP (RFC 8017)
with MGF1, all with SHA-256, the CRC-32 of IEEE 802.3 (R344), and AES-256 in XTS mode (FIPS 197, IEEE Std 1619; R308). -/

namespace Sys2Proof.Machine

/-! ### SHA-256 -/

/-- The eight working words. -/
structure ShaState where
  a : Word
  b : Word
  c : Word
  d : Word
  e : Word
  f : Word
  g : Word
  h : Word
  deriving DecidableEq, Repr, Inhabited

/-- Initial hash value: fractional parts of the square roots of the first eight primes. -/
def shaInit : ShaState :=
  ⟨0x6A09E667, 0xBB67AE85, 0x3C6EF372, 0xA54FF53A, 0x510E527F, 0x9B05688C, 0x1F83D9AB, 0x5BE0CD19⟩

/-- Round constants: fractional parts of the cube roots of the first 64 primes. -/
def shaK : List Word :=
  [0x428A2F98, 0x71374491, 0xB5C0FBCF, 0xE9B5DBA5, 0x3956C25B, 0x59F111F1, 0x923F82A4, 0xAB1C5ED5,
   0xD807AA98, 0x12835B01, 0x243185BE, 0x550C7DC3, 0x72BE5D74, 0x80DEB1FE, 0x9BDC06A7, 0xC19BF174] ++
  [0xE49B69C1, 0xEFBE4786, 0x0FC19DC6, 0x240CA1CC, 0x2DE92C6F, 0x4A7484AA, 0x5CB0A9DC, 0x76F988DA,
   0x983E5152, 0xA831C66D, 0xB00327C8, 0xBF597FC7, 0xC6E00BF3, 0xD5A79147, 0x06CA6351, 0x14292967] ++
  [0x27B70A85, 0x2E1B2138, 0x4D2C6DFC, 0x53380D13, 0x650A7354, 0x766A0ABB, 0x81C2C92E, 0x92722C85,
   0xA2BFE8A1, 0xA81A664B, 0xC24B8B70, 0xC76C51A3, 0xD192E819, 0xD6990624, 0xF40E3585, 0x106AA070] ++
  [0x19A4C116, 0x1E376C08, 0x2748774C, 0x34B0BCB5, 0x391C0CB3, 0x4ED8AA4A, 0x5B9CCA4F, 0x682E6FF3,
   0x748F82EE, 0x78A5636F, 0x84C87814, 0x8CC70208, 0x90BEFFFA, 0xA4506CEB, 0xBEF9A3F7, 0xC67178F2]

def shaRound (s : ShaState) (k w : Word) : ShaState :=
  let s1 := s.e.rotateRight 6 ^^^ s.e.rotateRight 11 ^^^ s.e.rotateRight 25
  let ch := (s.e &&& s.f) ^^^ (~~~ s.e &&& s.g)
  let t1 := s.h + s1 + ch + k + w
  let s0 := s.a.rotateRight 2 ^^^ s.a.rotateRight 13 ^^^ s.a.rotateRight 22
  let maj := (s.a &&& s.b) ^^^ (s.a &&& s.c) ^^^ (s.b &&& s.c)
  ⟨t1 + (s0 + maj), s.a, s.b, s.c, s.d + t1, s.e, s.f, s.g⟩

/-- The message schedule as a window of sixteen words: the next one is formed from it. -/
def shaExtend (ws : List Word) : List Word :=
  let x := ws.getD 14 0
  let y := ws.getD 1 0
  ws.drop 1 ++ [(x.rotateRight 17 ^^^ x.rotateRight 19 ^^^ (x >>> 10)) + ws.getD 9 0 +
    (y.rotateRight 7 ^^^ y.rotateRight 18 ^^^ (y >>> 3)) + ws.getD 0 0]

/-- One 512-bit block. -/
def shaBlock (h : ShaState) (ws : List Word) : ShaState :=
  let r := (shaK.foldl (fun (p : ShaState × List Word) k => (shaRound p.1 k (p.2.headD 0), shaExtend p.2)) (h, ws)).1
  ⟨h.a + r.a, h.b + r.b, h.c + r.c, h.d + r.d, h.e + r.e, h.f + r.f, h.g + r.g, h.h + r.h⟩

/-- Big-endian words of bytes. -/
def beWords : Nat → List Byte → List Word
  | 0, _ => []
  | n + 1, bs => BitVec.ofNat 32 (beNat (bs.take 4)) :: beWords n (bs.drop 4)

def shaBlocks : Nat → ShaState → List Byte → ShaState
  | 0, h, _ => h
  | n + 1, h, bs => shaBlocks n (shaBlock h (beWords 16 (bs.take 64))) (bs.drop 64)

/-- The padded message: a whole number of 64-byte blocks. -/
def shaPad (bs : List Byte) : List Byte :=
  bs ++ [0x80] ++ List.replicate ((119 - bs.length % 64) % 64) 0 ++ beBytes 8 (8 * bs.length)

def sha256 (bs : List Byte) : List Byte :=
  let p := shaPad bs
  let r := shaBlocks (p.length / 64) shaInit p
  [r.a, r.b, r.c, r.d, r.e, r.f, r.g, r.h].flatMap (fun w => beBytes 4 w.toNat)

/-! ### HMAC -/

def xorBytes (a b : List Byte) : List Byte := List.zipWith (· ^^^ ·) a b

/-- HMAC-SHA-256 under a key of at most 64 bytes. -/
def hmac (key msg : List Byte) : List Byte :=
  let k := slice key 0 64
  sha256 (xorBytes k (List.replicate 64 0x5C) ++ sha256 (xorBytes k (List.replicate 64 0x36) ++ msg))

/-! ### RSA (RFC 8017) -/

/-- b ^ e mod m, over `n` bits of e. -/
def powMod (m : Nat) : Nat → Nat → Nat → Nat
  | 0, _, _ => 1 % m
  | n + 1, b, e =>
    let r := powMod m n (b * b % m) (e / 2)
    if e % 2 = 1 then b * r % m else r

/-- Bytes of a modulus: 3,072 bits. -/
def rsaBytes : Nat := 384

/-- MGF1 with SHA-256. -/
def mgf1 (seed : List Byte) (n : Nat) : List Byte :=
  ((List.range (ceilDiv n 32)).flatMap (fun i => sha256 (seed ++ beBytes 4 i))).take n

/-- A byte string cleared in its leftmost bit. -/
def clearTop : List Byte → List Byte
  | [] => []
  | b :: bs => (b &&& 0x7F) :: bs

/-- EMSA-PSS verification with a 32-byte salt (RFC 8017, 9.1.2) of the hash of a message, 3,071 bits of encoded message. -/
def pssOk (hash em : List Byte) : Bool :=
  let dbLen := rsaBytes - 33
  let masked := em.take dbLen
  let h := slice em dbLen 32
  let db := clearTop (xorBytes masked (mgf1 h dbLen))
  let salt := db.drop (dbLen - 32)
  em.getLast? == some 0xBC && (masked.headD 0).toNat < 128 &&
    db.take (dbLen - 33) == List.replicate (dbLen - 33) 0 && db.getD (dbLen - 33) 0 == 0x01 &&
    sha256 (List.replicate 8 0 ++ hash ++ salt) == h

/-- RSASSA-PSS verification under a modulus and the public exponent 65,537 (R419). -/
def rsaVerify (modulus : Nat) (msg sig : List Byte) : Bool :=
  let x := beNat sig
  sig.length == rsaBytes && x < modulus && pssOk (sha256 msg) (beBytes rsaBytes (powMod modulus 17 x 65537))

/-- EMSA-PSS encoding of a hash with a salt (RFC 8017, 9.1.1). -/
def pssEncode (hash salt : List Byte) : List Byte :=
  let dbLen := rsaBytes - 33
  let h := sha256 (List.replicate 8 0 ++ hash ++ salt)
  clearTop (xorBytes (List.replicate (dbLen - 33) 0 ++ [1] ++ salt) (mgf1 h dbLen)) ++ h ++ [0xBC]

/-- RSASSA-PSS signature under a modulus and a private exponent (R419). -/
def rsaSign (modulus priv : Nat) (msg salt : List Byte) : List Byte :=
  beBytes rsaBytes (powMod modulus (8 * rsaBytes) (beNat (pssEncode (sha256 msg) salt)) priv)

/-- The message of an OAEP data block: zeros, a byte 0x01, then the message. -/
def oaepMessage : List Byte → Option (List Byte)
  | [] => none
  | b :: bs => if b = 0 then oaepMessage bs else if b = 1 then some bs else none

/-- EME-OAEP decoding (RFC 8017, 7.1.2). -/
def oaepOpen (label em : List Byte) : Option (List Byte) :=
  let maskedSeed := slice em 1 32
  let maskedDb := em.drop 33
  let seed := xorBytes maskedSeed (mgf1 maskedDb 32)
  let db := xorBytes maskedDb (mgf1 seed (rsaBytes - 33))
  if em.getD 0 0 == 0 && db.take 32 == sha256 label then oaepMessage (db.drop 32) else none

/-- RSAES-OAEP decryption under a modulus and a private exponent. -/
def rsaDecrypt (modulus priv : Nat) (label ct : List Byte) : Option (List Byte) :=
  if ct.length = rsaBytes && beNat ct < modulus then oaepOpen label (beBytes rsaBytes (powMod modulus (8 * rsaBytes) (beNat ct) priv)) else none

/-! ### CRC-32 -/

/-- One bit of the reflected CRC. -/
def crcBit (c : Word) : Word := if c.getLsbD 0 then (c >>> 1) ^^^ 0xEDB88320 else c >>> 1

def crcByte (c : Word) (b : Byte) : Word := (List.range 8).foldl (fun c _ => crcBit c) (c ^^^ b.setWidth 32)

/-- CRC-32 with the IEEE 802.3 polynomial. -/
def crc32 (bs : List Byte) : Word := ~~~ (bs.foldl crcByte 0xFFFFFFFF)

/-! ### AES-256 (FIPS 197) -/

/-- The substitution table. -/
def sboxList : List Byte :=
  [0x63, 0x7C, 0x77, 0x7B, 0xF2, 0x6B, 0x6F, 0xC5, 0x30, 0x01, 0x67, 0x2B, 0xFE, 0xD7, 0xAB, 0x76,
   0xCA, 0x82, 0xC9, 0x7D, 0xFA, 0x59, 0x47, 0xF0, 0xAD, 0xD4, 0xA2, 0xAF, 0x9C, 0xA4, 0x72, 0xC0,
   0xB7, 0xFD, 0x93, 0x26, 0x36, 0x3F, 0xF7, 0xCC, 0x34, 0xA5, 0xE5, 0xF1, 0x71, 0xD8, 0x31, 0x15,
   0x04, 0xC7, 0x23, 0xC3, 0x18, 0x96, 0x05, 0x9A, 0x07, 0x12, 0x80, 0xE2, 0xEB, 0x27, 0xB2, 0x75] ++
  [0x09, 0x83, 0x2C, 0x1A, 0x1B, 0x6E, 0x5A, 0xA0, 0x52, 0x3B, 0xD6, 0xB3, 0x29, 0xE3, 0x2F, 0x84,
   0x53, 0xD1, 0x00, 0xED, 0x20, 0xFC, 0xB1, 0x5B, 0x6A, 0xCB, 0xBE, 0x39, 0x4A, 0x4C, 0x58, 0xCF,
   0xD0, 0xEF, 0xAA, 0xFB, 0x43, 0x4D, 0x33, 0x85, 0x45, 0xF9, 0x02, 0x7F, 0x50, 0x3C, 0x9F, 0xA8,
   0x51, 0xA3, 0x40, 0x8F, 0x92, 0x9D, 0x38, 0xF5, 0xBC, 0xB6, 0xDA, 0x21, 0x10, 0xFF, 0xF3, 0xD2] ++
  [0xCD, 0x0C, 0x13, 0xEC, 0x5F, 0x97, 0x44, 0x17, 0xC4, 0xA7, 0x7E, 0x3D, 0x64, 0x5D, 0x19, 0x73,
   0x60, 0x81, 0x4F, 0xDC, 0x22, 0x2A, 0x90, 0x88, 0x46, 0xEE, 0xB8, 0x14, 0xDE, 0x5E, 0x0B, 0xDB,
   0xE0, 0x32, 0x3A, 0x0A, 0x49, 0x06, 0x24, 0x5C, 0xC2, 0xD3, 0xAC, 0x62, 0x91, 0x95, 0xE4, 0x79,
   0xE7, 0xC8, 0x37, 0x6D, 0x8D, 0xD5, 0x4E, 0xA9, 0x6C, 0x56, 0xF4, 0xEA, 0x65, 0x7A, 0xAE, 0x08] ++
  [0xBA, 0x78, 0x25, 0x2E, 0x1C, 0xA6, 0xB4, 0xC6, 0xE8, 0xDD, 0x74, 0x1F, 0x4B, 0xBD, 0x8B, 0x8A,
   0x70, 0x3E, 0xB5, 0x66, 0x48, 0x03, 0xF6, 0x0E, 0x61, 0x35, 0x57, 0xB9, 0x86, 0xC1, 0x1D, 0x9E,
   0xE1, 0xF8, 0x98, 0x11, 0x69, 0xD9, 0x8E, 0x94, 0x9B, 0x1E, 0x87, 0xE9, 0xCE, 0x55, 0x28, 0xDF,
   0x8C, 0xA1, 0x89, 0x0D, 0xBF, 0xE6, 0x42, 0x68, 0x41, 0x99, 0x2D, 0x0F, 0xB0, 0x54, 0xBB, 0x16]

def sbox : Array Byte := sboxList.toArray
def subByte (b : Byte) : Byte := sbox.getD b.toNat 0
/-- The inverse substitution: the place of the byte in the table. -/
def unsubByte (b : Byte) : Byte := BitVec.ofNat 8 (sboxList.idxOf b)

/-- Multiplication by x in GF(2⁸), and by a small constant. -/
def xtime (b : Byte) : Byte := if b.getLsbD 7 then (b <<< 1) ^^^ 0x1B else b <<< 1
def gfMul (k : Nat) (b : Byte) : Byte :=
  let b2 := xtime b
  let b4 := xtime b2
  (if bitOf k 0 then b else 0) ^^^ (if bitOf k 1 then b2 else 0) ^^^ (if bitOf k 2 then b4 else 0) ^^^ (if bitOf k 3 then xtime b4 else 0)

/-- The 60 words of the key schedule, four bytes each: `ws` holds those formed, the newest first. -/
def aesExpand : Nat → Nat → Byte → List (List Byte) → List (List Byte)
  | 0, _, _, ws => ws.reverse
  | n + 1, i, rcon, ws =>
    let t := ws.headD []
    let f := if i % 8 = 0 then xorBytes ((t.drop 1 ++ t.take 1).map subByte) [rcon, 0, 0, 0]
      else if i % 8 = 4 then t.map subByte else t
    aesExpand n (i + 1) (if i % 8 = 0 then xtime rcon else rcon) (xorBytes (ws.getD 7 []) f :: ws)

/-- The fifteen round keys of a 32-byte key. -/
def aesKeys (key : List Byte) : List (List Byte) :=
  let ws := aesExpand 52 8 1 ((List.range 8).map (fun i => slice key (4 * i) 4)).reverse
  (List.range 15).map (fun r => ((ws.drop (4 * r)).take 4).flatten)

/-- Rotate row r of the state by r columns, `sign` to the left or to the right; the state is in column order. -/
def shiftRows (left : Bool) (st : List Byte) : List Byte :=
  (List.range 16).map (fun i => let r := i % 4; st.getD ((4 * (if left then i / 4 + r else i / 4 + 4 - r) + r) % 16) 0)

/-- Multiply each column by the circulant matrix of a first row. -/
def mixColumns (row : List Nat) (st : List Byte) : List Byte :=
  (List.range 16).map (fun i => (List.range 4).foldl (fun (v : Byte) j =>
    v ^^^ gfMul (row.getD ((j + 4 - i % 4) % 4) 0) (st.getD (i / 4 * 4 + j) 0)) 0)

/-- The cipher and its inverse on one block of 16 bytes, under round keys. -/
def aesEnc (ks : List (List Byte)) (b : List Byte) : List Byte :=
  let s := (List.range 13).foldl (fun s r => xorBytes (mixColumns [2, 3, 1, 1] (shiftRows true (s.map subByte))) (ks.getD (r + 1) []))
    (xorBytes b (ks.getD 0 []))
  xorBytes (shiftRows true (s.map subByte)) (ks.getD 14 [])

def aesDec (ks : List (List Byte)) (b : List Byte) : List Byte :=
  let s := (List.range 13).foldl (fun s r => mixColumns [14, 11, 13, 9] (xorBytes ((shiftRows false s).map unsubByte) (ks.getD (13 - r) [])))
    (xorBytes b (ks.getD 14 []))
  xorBytes ((shiftRows false s).map unsubByte) (ks.getD 0 [])

/-! ### XTS (IEEE Std 1619; R308) -/

/-- The next tweak: multiplication by the primitive element of GF(2¹²⁸), the block taken as a little-endian number. -/
def nextTweak (t : Nat) : Nat := if t < 2 ^ 127 then 2 * t else Nat.xor (2 * t - 2 ^ 128) 0x87

/-- One data unit of 64 bytes under a 512-bit key pair: key 1 on the blocks, key 2 on the tweak, which is the unit's address divided by 64 as
a 128-bit little-endian number. -/
def xtsUnit (decrypt : Bool) (key : List Byte) (unit : Nat) (data : List Byte) : List Byte :=
  let k1 := aesKeys (key.take 32)
  let t := leNat (aesEnc (aesKeys (slice key 32 32)) (leBytes 16 unit))
  ((List.range 4).foldl (fun (acc : List Byte × Nat) i =>
    let w := leBytes 16 acc.2
    let b := xorBytes (slice data (16 * i) 16) w
    (acc.1 ++ xorBytes (if decrypt then aesDec k1 b else aesEnc k1 b) w, nextTweak acc.2)) ([], t)).1

end Sys2Proof.Machine
end

