-- ==== Sys2Proof/Machine/Dict.lean ====
section
/-! DEFINITION. The object dictionary (chapter 15) as a table: every object of indices 0x1000 to 0x7FFF with its type,
access class, storage, size, default and range, from the dictionary tables of every chapter. -/

namespace Sys2Proof.Machine

/-- Object types (Table 15.1), in the codes of DESCRIBE (Table 15.4). -/
inductive OType where
  | bool | u8 | u16 | u32 | u64 | i32 | f32 | octets | string
  deriving DecidableEq, Repr, Inhabited

/-- Access classes (Table 15.2), in the codes of DESCRIBE. -/
inductive Access where
  | ro | rw | wo | rwd | rwg
  deriving DecidableEq, Repr, Inhabited

def OType.code : OType → Nat
  | .bool => 0 | .u8 => 1 | .u16 => 2 | .u32 => 3 | .u64 => 4 | .i32 => 5 | .f32 => 6 | .octets => 7 | .string => 8

def Access.code : Access → Nat
  | .ro => 0 | .rw => 1 | .wo => 2 | .rwd => 3 | .rwg => 4

/-- Status codes of a Dorub answer (Table 15.5). -/
inductive Dst where
  | ok | clamped | ignored | noObject | noSub | readOnly | writeOnly | badLength | badValue | guarded | tooLarge | busy | xfer | auth
  | poweredOff | badService
  deriving DecidableEq, Repr, Inhabited

def Dst.code : Dst → Nat
  | .ok => 0 | .clamped => 1 | .ignored => 2 | .noObject => 0x10 | .noSub => 0x11 | .readOnly => 0x12 | .writeOnly => 0x13
  | .badLength => 0x14 | .badValue => 0x15 | .guarded => 0x16 | .tooLarge => 0x17 | .busy => 0x18 | .xfer => 0x19 | .auth => 0x1A
  | .poweredOff => 0x1B | .badService => 0x1C

/-- Codes below 0x10 say that the request was executed (R341). -/
def Dst.done (d : Dst) : Bool := d.code < 0x10

/-- One row of the dictionary: `n4` and `n2` consecutive indices on the TP4 and the TP2, subindices `sub` to `subHi`.
`stored`: 0 not stored, 1 in the profiles, 2 in the package store, 3 fused. `size` is the fixed size, or the maximum
of a variable value. `range` is the range whose nearest bound is stored. -/
structure ORow where
  index : Nat
  n4 : Nat
  n2 : Nat
  sub : Nat
  subHi : Nat
  typ : OType
  acc : Access
  stored : Nat
  size : Nat
  varSize : Bool := false
  dflt : Nat := 0
  range : Option (Int × Int) := none
  deriving DecidableEq, Repr, Inhabited

def OType.size : OType → Nat
  | .bool => 1 | .u8 => 1 | .u16 => 2 | .u32 => 4 | .u64 => 8 | .i32 => 4 | .f32 => 4 | .octets => 0 | .string => 255

/-- A scalar RO object. -/
def roRow (i s : Nat) (t : OType) (d : Nat := 0) : ORow := ⟨i, 1, 1, s, s, t, .ro, 0, t.size, t == .string, d, none⟩
/-- RO objects of consecutive subindices. -/
def roRows (i s h : Nat) (t : OType) : ORow := ⟨i, 1, 1, s, h, t, .ro, 0, t.size, false, 0, none⟩
/-- A scalar RW object. -/
def rwRow (i s : Nat) (t : OType) (st d : Nat) (r : Option (Int × Int) := none) : ORow :=
  ⟨i, 1, 1, s, s, t, .rw, st, t.size, false, d, r⟩
/-- An octet-string object. -/
def octRow (i s : Nat) (a : Access) (st size : Nat) (v : Bool := false) : ORow :=
  ⟨i, 1, 1, s, s, .octets, a, st, size, v, 0, none⟩
/-- A command object. -/
def woRow (i s : Nat) (t : OType) : ORow := ⟨i, 1, 1, s, s, t, .wo, 0, t.size, false, 0, none⟩
/-- The row for every index of a family. -/
def ORow.family (n4 n2 : Nat) (r : ORow) : ORow := { r with n4 := n4, n2 := n2 }

/-- Identity, communication and start-up (Tables 14.7, 15.7, 17.7). -/
def dictIdentity : List ORow :=
  [roRow 0x1000 1 .string, roRow 0x1000 2 .string, roRow 0x1000 3 .u8, ⟨0x1000, 1, 1, 4, 4, .string, .ro, 0, 16, false, 0, none⟩, roRow 0x1000 5 .u16,
   roRows 0x1001 1 4 .u16, roRow 0x1002 1 .u16 1,
   roRow 0x1003 1 .u8, roRow 0x1003 2 .u32, roRow 0x1003 3 .u8, ⟨0x1003, 1, 1, 4, 4, .u8, .rwg, 0, 1, false, 0, none⟩,
   roRow 0x1003 5 .u64, rwRow 0x1003 6 .u64 1 0xFFFFFFFFFFFFFFFF, octRow 0x1003 7 .ro 0 72,
   roRows 0x1004 1 4 .u64, roRow 0x1010 1 .u64]

def dictPorts : List ORow :=
  [(rwRow 0x1100 1 .bool 1 1).family 2 2,
   ⟨0x1100, 2, 2, 2, 2, .u8, .rwd, 1, 1, false, 0, some (0, 3)⟩, ⟨0x1100, 2, 2, 3, 3, .u64, .rwd, 1, 8, false, 0, none⟩,
   (roRow 0x1100 4 .u64).family 2 2, ⟨0x1100, 2, 2, 5, 5, .u16, .rwd, 1, 2, false, 0, some (0, 4094)⟩,
   ⟨0x1100, 2, 2, 6, 6, .u32, .rwd, 1, 4, false, 0, none⟩, ⟨0x1100, 2, 2, 7, 7, .u8, .rwd, 1, 1, false, 24, some (1, 32)⟩,
   ⟨0x1100, 2, 2, 8, 8, .octets, .rwd, 1, 16, false, 0, none⟩,
   ⟨0x1100, 2, 2, 9, 9, .u8, .rwd, 1, 1, false, 64, some (1, 128)⟩, (roRow 0x1100 10 .u32).family 2 2,
   rwRow 0x1110 1 .u8 1 255, rwRow 0x1110 2 .u8 1 8 (some (1, 255)), rwRow 0x1110 3 .u64 1 0, roRow 0x1110 4 .u64,
   rwRow 0x1120 1 .u32 1 200 (some (20, 100000)), rwRow 0x1120 2 .u32 1 60 (some (1, 3600)),
   rwRow 0x1120 3 .u32 1 1000 (some (100, 60000)), roRow 0x1120 4 .u32]

/-- Configuration (Tables 4.7, 5.10, 8.10, 13.7, 15.13, 16.7). -/
def dictConfig : List ORow :=
  [roRow 0x2000 1 .u8, ⟨0x2000, 1, 1, 2, 2, .u8, .rwg, 2, 1, false, 255, none⟩,
   ⟨0x2000, 1, 1, 3, 3, .u16, .rwg, 0, 2, false, 0, none⟩, roRow 0x2000 4 .u8 255, roRow 0x2000 5 .u32, roRow 0x2000 6 .u8,
   octRow 0x2000 7 .ro 0 16, rwRow 0x2000 8 .u32 0 0, rwRow 0x2000 15 .u32 0 0,
   rwRow 0x2240 1 .u16 1 3072 (some (0, 4096)),
   rwRow 0x2250 1 .u32 1 1000 (some (0, 1800)), rwRow 0x2250 2 .u8 1 0x0F, rwRow 0x2250 3 .u8 1 48, rwRow 0x2250 4 .u8 1 72,
   rwRow 0x2270 1 .u16 1 64 (some (2, 4095)), rwRow 0x2270 2 .u32 1 999000 (some (500000, 1000000)),
   rwRow 0x2270 3 .u32 1 10000, rwRow 0x2300 1 .u8 1 24 (some (1, 168)),
   rwRow 0x2400 1 .u32 1 0, rwRow 0x2400 2 .u8 1 0 (some (0, 19)), rwRow 0x2400 3 .u8 1 3 (some (1, 20)),
   rwRow 0x2400 4 .u16 1 10 (some (1, 1000)), rwRow 0x2400 5 .u32 1 100 (some (100, 10000)),
   rwRow 0x2400 6 .u32 1 1 (some (1, 100)), rwRow 0x2400 7 .u8 1 100 (some (85, 105)),
   rwRow 0x2400 8 .u8 1 90 (some (75, 95)), rwRow 0x2400 9 .u32 1 10 (some (10, 1000)),
   rwRow 0x2400 10 .u32 1 50 (some (20, 1000)), roRow 0x2400 11 .u32 1, roRow 0x2400 12 .u32 20]

/-- The fixed timers (Table 18.9), each in the unit that table shows. -/
def dictTimers : List ORow :=
  [roRow 0x2500 1 .u32 40, roRow 0x2500 2 .u32 200, roRow 0x2500 3 .u32 1000, roRow 0x2500 4 .u32 1000,
   roRow 0x2500 5 .u32 2000, roRow 0x2500 6 .u32 2000, roRow 0x2500 7 .u32 10000, roRow 0x2500 8 .u32 10000,
   roRow 0x2500 9 .u32 20000, roRow 0x2500 10 .u32 25000, roRow 0x2500 11 .u32 100000, roRow 0x2500 12 .u32 100000,
   roRow 0x2500 13 .u32 25000, roRow 0x2500 14 .u32 100000, roRow 0x2500 15 .u32 200000, roRow 0x2500 16 .u32 500000,
   roRow 0x2500 17 .u32 2000000, roRow 0x2500 18 .u32 10000000, roRow 0x2500 19 .u32 10000, roRow 0x2500 20 .u32 100000]

/-- Status and telemetry. -/
def dictStatus : List ORow :=
  [roRows 0x3240 1 6 .u64, roRows 0x3250 1 3 .u64, roRow 0x3250 4 .u32, roRows 0x3250 5 6 .u64, roRows 0x3260 1 3 .u64,
   roRows 0x3270 1 5 .u64, (roRows 0x3280 1 6 .u64).family 16 8, (roRows 0x3280 7 8 .u8).family 16 8,
   (roRows 0x3280 9 11 .u64).family 16 8, roRows 0x3290 1 12 .u64, roRows 0x32A0 1 10 .u64,
   (roRows 0x3300 1 2 .u64).family 24 12, (roRow 0x3300 3 .u32).family 24 12, (roRows 0x3300 4 7 .u64).family 24 12,
   (roRows 0x3320 1 4 .u64).family 3 3, roRows 0x3330 1 4 .u64,
   roRow 0x3400 1 .u32, roRows 0x3400 2 4 .u8, roRow 0x3400 5 .u32, roRow 0x3400 6 .f32, (octRow 0x3400 7 .ro 0 112).family 1 0,
   (octRow 0x3400 7 .ro 0 56).family 0 1, octRow 0x3400 8 .ro 0 8, (octRow 0x3400 9 .ro 0 720).family 1 0,
   (octRow 0x3400 9 .ro 0 360).family 0 1, roRows 0x3400 10 18 .u64,
   ⟨0x3500, 32, 16, 1, 3, .octets, .ro, 0, 64, false, 0, none⟩, (roRows 0x3520 1 6 .u64).family 16 8,
   roRows 0x3540 1 3 .u64, roRow 0x3540 4 .bool,
   octRow 0x4000 1 .ro 0 8192 true, woRow 0x4000 2 .u32, roRow 0x4000 3 .u16, rwRow 0x4000 4 .u64 0 0, rwRow 0x4000 5 .u64 0 0,
   rwRow 0x4000 6 .u64 0 0, rwRow 0x4000 7 .u64 0 0, roRow 0x4000 8 .u32, octRow 0x4000 9 .ro 0 32,
   (octRow 0x4010 1 .ro 0 2048 true).family 4 2, (octRow 0x4010 2 .ro 0 32).family 4 2]

/-- Security and lifecycle (Table 19.10). -/
def dictSecurity : List ORow :=
  [{ roRow 0x5000 1 .u8 with stored := 2 }, octRow 0x5000 2 .wo 0 896, { roRow 0x5000 3 .u32 with stored := 2 },
   octRow 0x5000 4 .ro 2 32, octRow 0x5000 5 .ro 2 32, octRow 0x5000 6 .ro 2 32,
   octRow 0x5010 1 .ro 3 4096 true, octRow 0x5010 2 .ro 3 4096 true, roRow 0x5010 3 .string,
   octRow 0x5020 1 .ro 0 32, octRow 0x5020 2 .wo 0 384, woRow 0x5020 3 .u8, roRow 0x5020 4 .u32,
   rwRow 0x5020 5 .u32 1 300 (some (10, 3600)),
   roRow 0x5100 1 .u8, woRow 0x5100 2 .u8, octRow 0x5100 3 .ro 0 32, octRow 0x5100 4 .ro 3 4, rwRow 0x5100 5 .u16 2 0,
   ⟨0x5101, 1, 1, 1, 64, .octets, .wo, 0, 131072, false, 0, none⟩,
   octRow 0x5200 1 .wo 0 416, woRow 0x5200 2 .u8, roRow 0x5200 3 .u32, roRow 0x5200 4 .u64 1, octRow 0x5200 5 .ro 0 1024,
   octRow 0x5200 6 .wo 2 32, octRow 0x5200 7 .ro 0 256, octRow 0x5300 1 .wo 0 32, octRow 0x5300 2 .ro 0 2688,
   octRow 0x5380 1 .ro 0 32, octRow 0x5380 2 .wo 0 448, roRow 0x5380 3 .u8, octRow 0x5400 1 .ro 2 1024,
   { roRow 0x5400 2 .u64 with stored := 2 }, roRow 0x5400 3 .u32 60, { roRow 0x5400 4 .u8 with stored := 3 }]

/-- Fabric and Almanac (Table 11.8, Table 17.7). -/
def dictFabric : List ORow :=
  [rwRow 0x6000 1 .u16 1 0, rwRow 0x6000 2 .u8 1 0, rwRow 0x6000 3 .u8 1 40 (some (33, 128)),
   rwRow 0x6000 4 .u8 1 0 (some (0, 1)), rwRow 0x6000 5 .u16 1 0, roRow 0x6000 6 .u16,
   woRow 0x6100 1 .u8, rwRow 0x6100 2 .u8 0 0, octRow 0x6100 3 .rw 0 131072, roRow 0x6100 4 .u8, roRow 0x6100 5 .u8,
   roRow 0x6100 6 .u32, rwRow 0x6100 7 .u32 1 10 (some (1, 10000)),
   (roRows 0x6200 1 9 .u64).family 32 16, ⟨0x6200, 32, 16, 10, 11, .octets, .ro, 0, 8, false, 0, none⟩,
   ⟨0x6200, 32, 16, 12, 12, .octets, .ro, 0, 64, false, 0, none⟩, roRows 0x6300 1 6 .u64]

/-- Step group, slots and job (Tables 8.3, 8.10, 9.1, 10.1, 10.4, 12.5, 12.9). -/
def dictJob : List ORow :=
  [woRow 0x7000 1 .u8, rwRow 0x7000 2 .u16 0 0, rwRow 0x7000 3 .u32 0 1 (some (1, 65536)), rwRow 0x7000 4 .u32 0 0,
   octRow 0x7000 5 .rw 0 131072 true, roRow 0x7000 6 .u32, rwRow 0x7000 7 .u32 1 5000 (some (10, 600000)),
   rwRow 0x7000 8 .u32 1 60000 (some (1000, 3600000)), rwRow 0x7000 9 .u8 1 3 (some (1, 255)), rwRow 0x7000 10 .u32 0 0,
   roRows 0x7000 11 12 .u32, roRow 0x7000 13 .u8, roRow 0x7000 14 .u64, roRow 0x7000 15 .u32,
   (rwRow 0x7100 1 .bool 0 0).family 16 8, ⟨0x7100, 16, 8, 2, 2, .u8, .rwd, 1, 1, false, 0x3F, none⟩,
   ⟨0x7100, 16, 8, 3, 4, .u8, .rwd, 1, 1, false, 16, none⟩,
   ⟨0x7100, 16, 8, 5, 5, .u32, .rwd, 1, 4, false, 1048576, some (64, 67108864)⟩,
   ⟨0x7100, 16, 8, 6, 7, .u64, .rwd, 1, 8, false, 0, none⟩, ⟨0x7100, 16, 8, 8, 9, .octets, .rwd, 1, 16, false, 0, none⟩,
   ⟨0x7100, 16, 8, 10, 10, .u8, .rwd, 1, 1, false, 8, some (1, 64)⟩,
   ⟨0x7100, 16, 8, 11, 11, .u8, .rwd, 1, 1, false, 0, some (0, 2)⟩,
   ⟨0x7200, 16, 8, 1, 1, .u32, .rwd, 1, 4, false, 1, some (1, 65536)⟩, ⟨0x7200, 16, 8, 2, 2, .u32, .rwd, 1, 4, false, 0, none⟩,
   ⟨0x7200, 16, 8, 3, 3, .octets, .rwd, 1, 262144, true, 0, none⟩, ⟨0x7200, 16, 8, 4, 4, .u64, .rwd, 1, 8, false, 0, none⟩,
   ⟨0x7200, 16, 8, 5, 5, .u16, .rwd, 1, 2, false, 0, some (0, 256)⟩,
   ⟨0x7200, 16, 8, 6, 6, .u32, .rwd, 1, 4, false, 10000, some (0, 1000000)⟩,
   roRow 0x7300 1 .i32, rwRow 0x7300 2 .i32 1 16 (some (-126, 127)), rwRow 0x7300 3 .i32 1 0 (some (-126, 127)),
   rwRow 0x7300 4 .i32 1 32 (some (-126, 127)), rwRow 0x7300 5 .u32 1 2000 (some (1, 1000000)), roRow 0x7300 6 .u32,
   roRows 0x7300 7 9 .u64,
   ⟨0x7400, 1, 1, 1, 8, .octets, .ro, 0, 66560, false, 0, none⟩, ⟨0x7400, 1, 0, 9, 16, .octets, .ro, 0, 66560, false, 0, none⟩, roRow 0x7400 32 .u32,
   octRow 0x7500 1 .rw 0 65536, roRow 0x7500 2 .u32,
   ⟨0x7600, 16, 8, 1, 1, .u16, .rwd, 1, 2, false, 0, some (0, 4096)⟩, ⟨0x7600, 16, 8, 2, 2, .octets, .rwd, 1, 16384, true, 0, none⟩,
   ⟨0x7600, 16, 8, 3, 3, .octets, .rwd, 1, 4096, true, 0, none⟩,
   ⟨0x7600, 16, 8, 4, 4, .u32, .rwd, 1, 4, false, 256, some (1, 65536)⟩, ⟨0x7600, 16, 8, 5, 5, .u64, .rwd, 1, 8, false, 0, none⟩,
   ⟨0x7600, 16, 8, 6, 6, .u8, .rwd, 1, 1, false, 1, some (0, 2)⟩,
   ⟨0x7600, 16, 8, 7, 7, .u32, .rwd, 1, 4, false, 64, some (1, 16777215)⟩,
   ⟨0x7600, 16, 8, 8, 8, .u8, .rwd, 1, 1, false, 1, some (0, 2)⟩,
   ⟨0x7600, 16, 8, 9, 9, .u32, .rwd, 1, 4, false, 64, some (1, 16777215)⟩,
   ⟨0x7600, 16, 8, 10, 10, .u32, .rwd, 1, 4, false, 0, none⟩,
   ⟨0x7700, 16, 8, 1, 1, .u64, .rwd, 1, 8, false, 0, none⟩, (roRow 0x7700 2 .u32).family 16 8,
   (roRows 0x7700 3 4 .u64).family 16 8, ⟨0x7700, 16, 8, 5, 5, .octets, .ro, 0, 32, false, 0, none⟩]

/-- The whole dictionary below the register window. -/
def dictionary : List ORow :=
  dictIdentity ++ dictPorts ++ dictConfig ++ dictTimers ++ dictStatus ++ dictSecurity ++ dictFabric ++ dictJob

/-- How many consecutive indices the row covers on the part. -/
def ORow.count (r : ORow) : Part → Nat
  | .tp4 => r.n4
  | .tp2 => r.n2

/-- Does the row define the object? -/
def ORow.covers (r : ORow) (p : Part) (index sub : Nat) : Bool :=
  r.index ≤ index && index < r.index + r.count p && r.sub ≤ sub && sub ≤ r.subHi

/-- The row of an object, if the part has it. -/
def findRow (p : Part) (index sub : Nat) : Option ORow := dictionary.find? (fun r => r.covers p index sub)

/-- Is there any object at the index (Table 15.5 NO_OBJECT)? -/
def indexExists (p : Part) (index : Nat) : Bool :=
  dictionary.any (fun r => r.index ≤ index && index < r.index + r.count p)

/-- The highest subindex defined at an index, the value of its subindex 0 (R335). -/
def highestSub (p : Part) (index : Nat) : Nat :=
  (dictionary.filter (fun r => r.index ≤ index && index < r.index + r.count p)).foldl (fun a r => max a r.subHi) 0

/-- Key of an object in the tables of the state. -/
def okey (index sub : Nat) : Nat := index * 256 + sub

/-- The default of a scalar object: that of its row, but PKG_CAP, whose default is the part's (Table 16.7). -/
def objDefault (p : Part) (key : Nat) : Nat :=
  if key = okey 0x2400 1 then Config.capMax p
  else match findRow p (key / 256) (key % 256) with
    | some r => r.dflt
    | none => 0

/-- The default of an octet-string object: zeros of its fixed size, empty where the size varies. -/
def octDefault (p : Part) (key : Nat) : List Byte :=
  match findRow p (key / 256) (key % 256) with
  | some r => if r.varSize then [] else List.replicate r.size 0
  | none => []

/-- The nearest value of the object's range, and whether that changed it (R338). -/
def ORow.clamp (r : ORow) (v : Nat) : Nat × Bool :=
  match r.range with
  | none => (v, false)
  | some (lo, hi) =>
    let x : Int := if r.typ = .i32 then signedOf 32 v else v
    let y := max lo (min hi x)
    (if r.typ = .i32 then patternOf 32 y else y.toNat, y ≠ x)

end Sys2Proof.Machine
end

