-- ==== Sys2Proof/Machine/Frames.lean ====
section
/-! DEFINITION. What travels on a fabric link (R251 to R253, R275, R276): the sizes, classes and KIND codes of packets, the bytes of the header
flit and of the payload, the packets of a message, flits in frames, and the fields of a frame's control word. -/

namespace Sys2Proof
open Machine

/-! ### The packet as it is sent (R251, R253) -/

/-- Bytes of a partial's lanes (R227, R229, R230): FP32 elements; codes of one byte in a leaf, lanes of 16 bits up to 256 ranks and of 32 bits
above, with an FP32 entry for each escape. -/
def Partial.laneBytes (p : Partial) : Nat :=
  let escs := (p.lanes.filter (fun l => match l with | .esc _ => true | .code _ => false)).length
  if !p.sb8 then 4 * p.lanes.length
  else p.lanes.length * (if p.level = 0 then 1 else if p.ranks ≤ 256 then 2 else 4) + 4 * escs

/-- Payload bytes of what a message carries. Where the spec gives the content and no layout, the bytes are those of the content (DESIGN CHOICE,
log entry 23). -/
def Body.size : Body → Nat
  | .more _ _ n _ => n
  | .write bs => bs.length
  | .readReq _ => 0
  | .readRsp bs => bs.length
  | .atomic _ => 8
  | .ack => 0
  | .queuePart q => 8 + q.bytes.length
  | .credit _ => 16
  | .exchPartial _ p => 32 + p.laneBytes + p.exps.length
  | .factorPart _ p => p.bytes.length
  | .exchDelivery d => d.bytes.length + d.exps.length
  | .commit _ r => if r.isSome then 64 else 32
  | .expert _ m => 16 + (m.rows.map (fun r => 8 + r.bytes.length)).sum
  | .settle _ m => 16 + 4 * m.unserved.length
  | .expReturn _ m => 16 + (m.rows.map (fun r => 8 + r.bytes.length)).sum
  | .reshard _ _ _ bs => 16 + bs.length
  | .notice _ _ _ => 16
  | .lantern _ => 16
  | .drainQuery => 0
  | .drainReply _ _ _ => 16
  | .retire _ => 1
  | .errorRsp _ => 1
  | .busy => 0

/-- Class of a packet (Table 11.2): 0 REQ, 1 RSP, 2 RED, 3 PIPE, 4 EXP, 5 MGT. -/
def Body.cls : Body → Nat
  | .more _ c _ _ => c
  | .write _ | .readReq _ | .atomic _ => 0
  | .readRsp _ | .ack | .errorRsp _ | .busy => 1
  | .exchPartial _ _ | .factorPart _ _ | .exchDelivery _ => 2
  | .queuePart _ | .credit _ => 3
  | .expert _ _ | .settle _ _ | .expReturn _ _ | .reshard _ _ _ _ | .notice _ _ _ => 4
  | .commit _ _ | .lantern _ | .drainQuery | .drainReply _ _ _ | .retire _ => 5

/-- KIND of a packet (Table 11.1). Factor parts travel as EXCH_PARTIAL, SETTLE and returned rows as EXPERT, notices as RESHARD, and the messages
of a drain round as DRAIN (DEDUCED, log entry 128). -/
def Body.kind : Body → Nat
  | .more k _ _ _ => k
  | .write _ => 0
  | .readReq _ => 1
  | .readRsp _ => 2
  | .atomic _ => 3
  | .ack => 4
  | .queuePart _ => 5
  | .credit _ => 6
  | .exchPartial _ _ | .factorPart _ _ => 7
  | .exchDelivery _ => 8
  | .commit _ _ => 9
  | .expert _ _ | .settle _ _ | .expReturn _ _ => 10
  | .reshard _ _ _ _ | .notice _ _ _ => 11
  | .lantern _ => 12
  | .drainQuery | .drainReply _ _ _ | .retire _ => 13
  | .errorRsp _ => 14
  | .busy => 15

/-- The 64 bytes of the header flit (Table 11.1). -/
def Packet.header (p : Packet) : List Byte :=
  leBytes 2 p.dst ++ leBytes 2 p.src ++ leBytes 1 p.sunit ++
    leBytes 1 (p.cls % 8 + 8 * bit01 p.pri + 16 * bit01 p.adp + 32 * bit01 p.dl + 64 * bit01 p.esc + 128 * bit01 p.close) ++
    leBytes 1 p.edition ++ leBytes 1 (p.hops % 64) ++ leBytes 2 p.msgid ++ leBytes 2 p.len ++ leBytes 2 p.count ++ leBytes 1 p.body.kind ++
    leBytes 1 p.key ++ leBytes 8 (p.addr % 2 ^ 48) ++
    leBytes 1 (bit01 p.line + 2 * bit01 p.mesh + 4 * (p.stages % 4) + 16 * (p.dim % 4)) ++
    leBytes 1 (p.order.getD 0 0 % 4 + 4 * (p.order.getD 1 0 % 4) + 16 * (p.order.getD 2 0 % 4)) ++
    (List.range 4).flatMap (fun i => leBytes 2 (p.lmask.getD i 0)) ++ leBytes 2 0 ++ leBytes 4 (p.cmask % 2 ^ 24) ++ leBytes 24 0

/-- KIND of a commit message (Table 10.8). -/
def CommitKind.code : CommitKind → Nat
  | .eveFirst => 1
  | .eve => 2
  | .feast => 3
  | .fastRepeat => 4
  | .fastSkip => 5
  | .formRec => 6
  | .formed => 7
  | .rejected => 8

/-- The 32 bytes of a commit message (Table 10.8). -/
def CommitMsg.bytes (m : CommitMsg) : List Byte :=
  leBytes 1 m.kind.code ++ leBytes 1 (bit01 m.stop) ++ leBytes 1 m.att ++ leBytes 1 (m.nextL % 256).toNat ++ leBytes 2 m.groupId ++
    leBytes 2 m.reason ++ leBytes 4 m.step ++ leBytes 4 m.count ++ leBytes 4 m.nfCount ++ leBytes 4 m.version ++ leBytes 8 0

/-- The 16 bytes of a Lantern message (Table 16.4). -/
def LanternMsg.bytes (m : LanternMsg) : List Byte :=
  leBytes 1 m.sub ++ leBytes 1 m.level ++ leBytes 2 m.groupId ++ leBytes 4 m.epoch ++ leBytes 4 m.count ++ leBytes 4 0

/-- Byte i of a packet's payload: data, where the payload is data or the spec lays it out, else the free value of its layout (log entry 23). -/
def Body.byte (b : Body) (i : Nat) : Byte :=
  match b with
  | .write bs | .readRsp bs => bs.getD i 0
  | .atomic v => (leBytes 8 v.toNat).getD i 0
  | .errorRsp st => BitVec.ofNat 8 st
  | .retire e => BitVec.ofNat 8 e
  | .lantern m => m.bytes.getD i 0
  | .commit m _ => if i < 32 then m.bytes.getD i 0 else Config.payloadByte b i
  | _ => Config.payloadByte b i

/-- Flits of a packet: the header flit and one for each 64 bytes of LEN, which is 2,048 at most (R251). -/
def Packet.flits (p : Packet) : Nat := 1 + ceilDiv (min 2048 p.len) 64
/-- Is the packet an answer? Every other packet is a request, which is answered (R256). -/
def Packet.isRsp (p : Packet) : Bool := p.cls == 1

/-- Class of a packet: that of its body, but for a Brim context's, which uses channels 0 and 1 alone (R255). -/
def Packet.clsOf (p : Packet) : Nat := if !p.pri then p.body.cls else if p.body.cls = 1 then 1 else 0

/-- LEN of the packet that carries the whole of a payload: what packets of 2,048 bytes before it leave over (R251). -/
def Body.lastLen (b : Body) : Nat := b.size - 2048 * (ceilDiv b.size 2048 - 1)

/-- Bytes in pieces of `c` at most, each with its place; one piece where there are none. -/
def pieces (c : Nat) (bs : List Byte) : List (Nat × List Byte) :=
  (List.range (max 1 (ceilDiv bs.length c))).map (fun i => (c * i, (bs.drop (c * i)).take c))

/-- What each packet of a message carries (R251, R269). A payload for memory is cut so that each packet holds 2,048 bytes at most with its own
fields, the exponents of a delivery in its last packet; any other goes whole in the closing packet, after ones that say its size; `die` is the
destination die of all of them. -/
def Body.parts (b : Body) (die : Nat) : List Body :=
  match b with
  | .queuePart q => (pieces 2040 q.bytes).map (fun e => .queuePart { q with off := e.1, bytes := e.2 })
  | .reshard c r o bs => (pieces 2032 bs).map (fun e => .reshard c r (o + e.1) e.2)
  | .factorPart k f => (pieces 2048 f.bytes).map (fun e => .factorPart k { f with off := e.1, bytes := e.2 })
  | .exchDelivery d =>
    let n := ceilDiv b.size 2048
    (List.range (max 1 n)).map (fun i => .exchDelivery { d with
      off := 2048 * i, total := d.bytes.length, bytes := (d.bytes.drop (2048 * i)).take 2048, exps := if i + 1 < n then [] else d.exps })
  | _ => (List.range (ceilDiv b.size 2048 - 1)).map (fun _ => .more b.kind b.cls 2048 die) ++ [b]

/-- Bytes of the whole delivery. -/
def Delivery.whole (d : Delivery) : Nat := if d.total = 0 then d.bytes.length else d.total
/-- Local address of a byte of a delivery: rows of `row` bytes lie `pitch` apart. -/
def Delivery.addrOf (d : Delivery) (o : Nat) : Nat := if d.row = 0 then d.base else d.base + o / d.row * d.pitch + o % d.row

/-- Address of a packet: that of its own bytes of a delivery, else the one given. -/
def Body.addrOf (b : Body) (a : Nat) : Nat :=
  match b with
  | .exchDelivery d => d.addrOf d.off
  | _ => a

/-- The packets of a payload. -/
def Packet.spread (p : Packet) (die : Nat) : List Packet :=
  (p.body.parts die).zipIdx.map (fun e => { p with body := e.1, addr := e.1.addrOf (p.addr + 2048 * e.2) })

/-- The packet of the next stage: masks and dimensions shifted down by one (R274). -/
def Packet.nextStage (p : Packet) : Packet :=
  { p with stages := p.stages - 1, dim := p.order.headD 0, order := p.order.tail, lmask := p.lmask.tail }

/-- Channel on which a packet travels: its class, or ESC0 or ESC1 by DL (R253, R259). -/
def Packet.vc (p : Packet) : Nat := if p.esc then (if p.dl then 7 else 6) else p.cls

/-- Chunks of four. -/
def chunks4 {α : Type} (l : List α) : Nat → List (List α)
  | 0 => []
  | n + 1 => match l with
    | [] => []
    | _ :: _ => l.take 4 :: chunks4 (l.drop 4) n

/-- The flits of a packet, each with its 64 bytes; what LEN leaves of the last one is zero. -/
def Packet.flitBytes (p : Packet) : List (Flit × List Byte) :=
  (.head p, p.header) :: (List.range (p.flits - 1)).map (fun i =>
    (.pay i, (List.range 64).map (fun j => if 64 * i + j < p.len then p.body.byte (64 * i + j) else 0)))

/-- The flits of a packet in frames of four. -/
def Packet.frames (p : Packet) : List (List (Flit × List Byte)) := chunks4 p.flitBytes p.flits

/-- Buffer of a virtual channel in flits (Table 11.2). -/
def vcBuffer (v : Nat) : Nat := if v < 6 then 128 else 64

/-! ### Link frames (Table 11.5) -/

/-- The field of `n` bits at bit `lo` of the control word. -/
def LinkFrame.field (f : LinkFrame) (lo n : Nat) : Nat := bitsOf f.control.toNat lo n
def LinkFrame.seq (f : LinkFrame) : Nat := f.field 108 12
def LinkFrame.ack (f : LinkFrame) : Nat := f.field 96 12
def LinkFrame.nak (f : LinkFrame) : Bool := f.field 95 1 = 1
def LinkFrame.typ (f : LinkFrame) : Nat := f.field 92 3
/-- The flits of the slots whose VALID bit is 1. -/
def LinkFrame.flits (f : LinkFrame) : List Flit := ((f.slots.take 4).zipIdx.filter (fun e => f.field (88 + e.2) 1 = 1)).map (·.1)
/-- The two credit returns, as channel and count. -/
def LinkFrame.credits (f : LinkFrame) : List (Nat × Nat) := [(f.field 85 3, f.field 78 7), (f.field 75 3, f.field 68 7)]

/-- Symbols that RS(544,514) corrects, 15 at most in a codeword, and codewords that it cannot (R275). -/
def LinkFrame.corrected (f : LinkFrame) : Nat := (f.codewords.filter (· ≤ 15)).sum
def LinkFrame.uncorrectable (f : LinkFrame) : Nat := (f.codewords.filter (15 < ·)).length

/-- The CRC-32 of a frame: over its flit slots and bits [119:32] of its control word, those from the low byte up (Table 11.5; DESIGN CHOICE, log
entry 129). -/
def frameCrc (raw : List Byte) (control : Nat) : Word := crc32 (raw ++ leBytes 11 (control / 2 ^ 32))

/-- The frame fails its checks (R277). -/
def LinkFrame.bad (f : LinkFrame) : Bool := frameCrc f.raw f.control.toNat ≠ f.control.setWidth 32 || 0 < f.uncorrectable

/-- The control word of a frame that a port sends: TYPE IDLE with no flit, else DATA, a VALID bit for each flit, and the CRC-32 of the frame. -/
def controlWord (seq ack : Nat) (nak : Bool) (flits : Nat) (rs : List (Nat × Nat)) (raw : List Byte) : BitVec 120 :=
  let c (i : Nat) : Nat × Nat := rs.getD i (0, 0)
  let v := seq % 4096 * 2 ^ 108 + ack % 4096 * 2 ^ 96 + bit01 nak * 2 ^ 95 + (if flits = 0 then 2 ^ 92 else 0) + (2 ^ flits - 1) * 2 ^ 88 +
    (c 0).1 % 8 * 2 ^ 85 + (c 0).2 % 128 * 2 ^ 78 + (c 1).1 % 8 * 2 ^ 75 + (c 1).2 % 128 * 2 ^ 68
  BitVec.ofNat 120 (v + (frameCrc raw v).toNat)

/-- A frame of the flits and the bytes of its four slots. -/
def LinkFrame.ofRaw (seq ack : Nat) (nak : Bool) (flits : List Flit) (raw : List Byte) (rs : List (Nat × Nat)) : LinkFrame :=
  { control := controlWord seq ack nak flits.length rs raw, slots := flits, raw := raw }

/-- A frame that a port sends; a slot with no flit is zero (DESIGN CHOICE, log entry 129). -/
def LinkFrame.make (seq ack : Nat) (nak : Bool) (flits : List (Flit × List Byte)) (rs : List (Nat × Nat)) : LinkFrame :=
  .ofRaw seq ack nak (flits.map (·.1)) (flits.flatMap (·.2) ++ List.replicate (256 - 64 * flits.length) 0) rs

/-- The frame as it is sent again after CREDIT_SYNC, its credit returns gone (R278). -/
def LinkFrame.noCredits (f : LinkFrame) : LinkFrame := .ofRaw f.seq f.ack f.nak f.flits f.raw []

end Sys2Proof
end

