-- ==== Sys2Proof/Machine/Ops.lean ====
section
/-! DEFINITION. The named operations over the state that every family shares: objects and totals, register blocks,
contexts, slots, error records with Vigil entry, events, and HBM, core memory and shared buffers with the access
checks and the outcomes of demand reads and writes. -/

namespace Sys2Proof.Machine

/-! ### Objects, totals, blocks, units -/

/-- The live value of a scalar object. -/
def State.obj (s : State) (index sub : Nat) : Nat :=
  Table.read (objDefault s.part (okey index sub)) (okey index sub) s.objs

/-- Set the live value of a scalar object. -/
def State.setObj (s : State) (index sub v : Nat) : State :=
  { s with objs := Table.write (objDefault s.part (okey index sub)) (okey index sub) v s.objs }

/-- The live value of an I32 object. -/
def State.objInt (s : State) (index sub : Nat) : Int := signedOf 32 (s.obj index sub)

/-- The live value of an octet-string object. -/
def State.oct (s : State) (index sub : Nat) : List Byte :=
  Table.read (octDefault s.part (okey index sub)) (okey index sub) s.octs

def State.setOct (s : State) (index sub : Nat) (v : List Byte) : State :=
  { s with octs := Table.write (octDefault s.part (okey index sub)) (okey index sub) v s.octs }

/-- A total or counter, by its object. -/
def State.tot (s : State) (index sub : Nat) : Nat := Table.read 0 (okey index sub) s.tots

/-- Does the object hold a conserved count, frozen at Vigil entry (R414)? -/
def isAudit (index : Nat) : Bool := (0x3500 ≤ index && index ≤ 0x3540) || index = 0x32A0

/-- Add to a total; totals saturate at 2⁶⁴ − 1. Audit counts stand still once frozen (R414). -/
def State.bump (s : State) (index sub n : Nat) : State :=
  if s.auditFrozen && isAudit index then s
  else { s with tots := Table.modify 0 (okey index sub) (fun v => satAdd 64 v n) s.tots }

/-- Set a counter that is not a running total (a maximum, a clear-on-read value). -/
def State.setTot (s : State) (index sub v : Nat) : State :=
  { s with tots := Table.write 0 (okey index sub) v s.tots }

/-- Block numbers (Table 15.8). -/
def blkCore (n : Nat) : Nat := n
def blkMc (stack : Nat) : Nat := 0x60 + stack
def blkFport (p : Nat) : Nat := 0x80 + p
def blkPipe (s : Nat) : Nat := 0xA0 + s
def blkHport : NetPort → Nat
  | .hostA => 0xB0 | .hostB => 0xB1 | .mgt => 0xB2
def blkDie (d : Nat) : Nat := 0xC0 + d
def blkAlmanac : Nat := 0xC8
def blkQsc (n : Nat) : Nat := 0x100 + n

/-- The kinds of register block. -/
inductive BlockKind where
  | core (n : Nat) | mc (stack : Nat) | fport (p : Nat) | pipe (s : Nat) | net (p : NetPort) | die (d : Nat) | almanac
  | qsc (n : Nat)
  deriving DecidableEq, Repr

/-- The block of a number, if the part has it (Table 15.8, R347). -/
def blockKind (p : Part) (b : Nat) : Option BlockKind :=
  if b < 0x60 then (if b < Config.cores p then some (.core b) else none)
  else if b < 0x80 then (if b - 0x60 < Config.stackCount p then some (.mc (b - 0x60)) else none)
  else if b < 0xA0 then (if b - 0x80 < Config.ports p then some (.fport (b - 0x80)) else none)
  else if b < 0xB0 then (if b - 0xA0 < Config.slots p then some (.pipe (b - 0xA0)) else none)
  else if b = 0xB0 then some (.net .hostA)
  else if b = 0xB1 then some (.net .hostB)
  else if b = 0xB2 then some (.net .mgt)
  else if 0xC0 ≤ b && b < 0xC4 then (if b - 0xC0 < Config.dies p then some (.die (b - 0xC0)) else none)
  else if b = 0xC8 then some .almanac
  else if 0x100 ≤ b && b < 0x160 then (if b - 0x100 < Config.cores p then some (.qsc (b - 0x100)) else none)
  else none

/-- CORE_CFG (Table 5.3) from its fields. -/
def coreCfg (brimen memsplit accsplit emask : Nat) : Nat :=
  brimen % 2 * 2 ^ 18 + memsplit % 128 * 2 ^ 11 + accsplit % 128 * 2 ^ 4 + emask % 16

/-- A block at reset: CFG at the reset value of its kind (Tables 4.3, 5.3, 13.4), everything else zero. -/
def blockDefault (b : Nat) : Block :=
  if b < 0x60 then { cfg := coreCfg 1 72 48 15 }
  else if b < 0x80 then { cfg := 24 * 2 + 1 }
  else if 0x100 ≤ b && b < 0x160 then { cfg := 3072 }
  else {}

def State.block (s : State) (b : Nat) : Block := Table.read (blockDefault b) b s.blocks
def State.setBlock (s : State) (b : Nat) (v : Block) : State :=
  { s with blocks := Table.write (blockDefault b) b v s.blocks }
def State.modBlock (s : State) (b : Nat) (f : Block → Block) : State := s.setBlock b (f (s.block b))

/-! ### Guards (R351) -/

/-- A write that a block's guard covers locks it (R351 rule 2). -/
def State.blkTouch (s : State) (b : Nat) : State := s.modBlock b (fun x => { x with guardOpen := false })

/-- A write to an RWG register: applied, and the guard locked, where the guard is unlocked; refused and counted otherwise. -/
def State.blkGuard (s : State) (b : Nat) : State × Bool :=
  if (s.block b).guardOpen then (s.blkTouch b, true)
  else (s.modBlock b (fun x => { x with guardRefused := satAdd 16 x.guardRefused 1 }), false)

/-- A write to a guard: the magic value unlocks a locked one, every write locks an unlocked one. -/
def guardAfter (isOpen : Bool) (v : Nat) : Bool := !isOpen && v == 0x7A5E91C3

/-- The package guard, which covers every object of 0x1000 to 0x7FFF. -/
def State.pkgTouch (s : State) : State := { s with profiles := { s.profiles with guardOpen := false } }
def State.pkgGuard (s : State) : State × Bool :=
  if s.profiles.guardOpen then (s.pkgTouch, true)
  else ({ s with profiles := { s.profiles with guardRefused := satAdd 32 s.profiles.guardRefused 1 } }, false)

/-- CORE_CFG fields of a core (Table 5.3). -/
def State.emask (s : State) (n : Nat) : Nat := bitsOf (s.block (blkCore n)).cfg 0 4
def State.accsplit (s : State) (n : Nat) : Nat := bitsOf (s.block (blkCore n)).cfg 4 7
def State.memsplit (s : State) (n : Nat) : Nat := bitsOf (s.block (blkCore n)).cfg 11 7
def State.brimen (s : State) (n : Nat) : Bool := bitOf (s.block (blkCore n)).cfg 18
/-- QSC_CFG.SPLIT of a core (Table 4.3). -/
def State.split (s : State) (n : Nat) : Nat := bitsOf (s.block (blkQsc n)).cfg 0 13

/-- Key of a context in the state's table. -/
def ctxKey (n : Nat) : Ctx → Nat
  | .crown => 2 * n
  | .brim => 2 * n + 1

def State.ctx (s : State) (n : Nat) (x : Ctx) : Context := Table.read {} (ctxKey n x) s.ctxs
def State.setCtx (s : State) (n : Nat) (x : Ctx) (c : Context) : State :=
  { s with ctxs := Table.write {} (ctxKey n x) c s.ctxs }
def State.modCtx (s : State) (n : Nat) (x : Ctx) (f : Context → Context) : State := s.setCtx n x (f (s.ctx n x))

def State.coreSt (s : State) (n : Nat) : CoreSt := Table.read {} n s.cores
def State.setCoreSt (s : State) (n : Nat) (c : CoreSt) : State := { s with cores := Table.write {} n c s.cores }

def State.slot (s : State) (k : Nat) : Slot := Table.read {} k s.slots
def State.setSlot (s : State) (k : Nat) (v : Slot) : State := { s with slots := Table.write {} k v s.slots }
def State.modSlot (s : State) (k : Nat) (f : Slot → Slot) : State := s.setSlot k (f (s.slot k))

def State.fport (s : State) (p : Nat) : FPort := Table.read {} p s.fports
def State.setFport (s : State) (p : Nat) (v : FPort) : State := { s with fports := Table.write {} p v s.fports }

/-- The die's local counter (R363). -/
def State.counter (s : State) (die : Nat) : Nat := Table.read 0 die s.counters

/-- READY, and no warm reset under way: cores, slots and the fabric interfaces act. -/
def State.up (s : State) : Bool := s.boot.state == .ready && !s.boot.warm

/-- In Vigil mode (R411). -/
def State.vigil (s : State) : Bool := s.boot.state == .vigil

/-- Die of a core, and the slot it belongs to with its position there (R10, R18). -/
def coreDie (n : Nat) : Nat := n / 24
def coreSlot (n : Nat) : Nat := n / 6
def corePos (n : Nat) : Nat := n % 6

/-- PART_MASK of a slot and the positions it names (Table 9.1). -/
def State.partMask (s : State) (k : Nat) : Nat := s.obj (0x7100 + k) 2 % 64
def State.positions (s : State) (k : Nat) : List Nat := setBits 6 (s.partMask k)
def State.slotEn (s : State) (k : Nat) : Bool := (s.block (blkPipe k)).en
def State.enabledSlots (s : State) : List Nat := (List.range (Config.slots s.part)).filter s.slotEn

/-- The key slot of a stage slot: that of the Crown context of its first named core (R196). -/
def State.slotKey (s : State) (k : Nat) : Nat :=
  match s.positions k with
  | [] => 0
  | p :: _ => (s.ctx (6 * k + p) .crown).key

/-! ### Writes that wait (R331, R343, R350) -/

/-- A command waits behind what the warden has under way. -/
def State.hold (s : State) (c : Instr) : State := { s with heldWrites := s.heldWrites ++ [.cmd c] }

/-- A MULTI_WRITE waits between its entries: it holds every other write back (R343). -/
def State.multiHolds (s : State) : Bool :=
  match s.multi with
  | some m => m.answer.isNone
  | none => false

/-- A write by any path, held back while a MULTI_WRITE waits. -/
def State.unlessMulti (s : State) (c : Instr) (t : State) : State := if s.multiHolds then s.hold c else t

/-- A Dorub write, which waits for every Dorub request before it (R331). -/
def State.inTurn (s : State) (c : Instr) (t : State) : State := if s.multi.isSome then s.hold c else t

/-! ### Events (R327, R450) -/

/-- Put a sequenced message on a session: sent while fewer than 256 are unacknowledged, otherwise it waits (R323). -/
def Session.push (ss : Session) (m : JMsg) : Session × Option JMsg :=
  let m := { m with seq := ss.txNext % 2 ^ 32 }
  if ss.unacked.length < 256 then
    ({ ss with txNext := (ss.txNext + 1) % 2 ^ 32, unacked := ss.unacked ++ [m] }, some m)
  else ({ ss with txNext := (ss.txNext + 1) % 2 ^ 32, waitingTx := ss.waitingTx ++ [m] }, none)

def State.session (s : State) (id : Nat) : Option Session := s.sessions.find? (fun ss => ss.id == id)

def State.setSession (s : State) (ss : Session) : State :=
  { s with sessions := s.sessions.map (fun t => if t.id = ss.id then ss else t) }

/-- Send a sequenced Jorto message on a session. -/
def State.jsend (s : State) (id : Nat) (m : JMsg) : State :=
  match s.session id with
  | none => s
  | some ss =>
    let (ss, out) := ss.push m
    let s := s.setSession ss
    match out with
    | none => s
    | some m => { s with net := s.net ++ [.jorto ss.port ss.ip ss.udp ss.id ss.rxNext m] }

/-- The 64 bytes of an event record (Table 14.6). -/
def eventBytes (code die source step time : Nat) (detail : List Byte) : List Byte :=
  leBytes 1 code ++ leBytes 1 die ++ leBytes 2 source ++ leBytes 4 step ++ leBytes 8 time ++ slice detail 0 48

/-- The sessions that receive an event: those opened for events of key slot 0, and for an event of a key slot those of its own (R327). -/
def State.receivers (s : State) (key : Option Nat) : List Nat :=
  (s.sessions.filter (fun ss => ss.events && (ss.key == 0 || some ss.key == key))).map (·.id)

/-- Queue one event for its receiving sessions; one with none is dropped and counted. -/
def State.queueEvent (s : State) (code die source step : Nat) (detail : List Byte) (key : Option Nat) : State :=
  let dest := s.receivers key
  if dest = [] then s.bump 0x3330 2 1
  else
    let e : Event := ⟨s.eventNext, code, die, source, step, s.counter die, detail, dest⟩
    let s := { s with events := s.events ++ [e], eventNext := s.eventNext + 1 }
    dest.foldl (fun s id => s.jsend id
      ⟨8, 0, 0, 0, 0, eventBytes code die source step (s.counter die) detail, some e.num⟩) s

/-- Places that the report of the lost events takes in the queue: one where it is due and a session receives it. -/
def State.lostReport (s : State) : Nat := bit01 (0 < s.eventsLostSince && !(s.receivers none).isEmpty)

/-- Raise an event (R327): `key` is the key slot of a context-fault or watch event, `none` for a package-wide one. One that no session
receives is dropped and counted. One for which the queue of 512 has no place, with the report of the lost events before it, is lost; the next
that enters is preceded by that report (DESIGN CHOICE: both need their place; log entry 123). -/
def State.event (s : State) (code die source step : Nat) (detail : List Byte) (key : Option Nat) : State :=
  if (s.receivers key).isEmpty then s.bump 0x3330 2 1
  else if 512 < s.events.length + 1 + s.lostReport then
    { s.bump 0x3330 1 1 with eventsLostSince := s.eventsLostSince + 1 }
  else
    let s := if s.eventsLostSince > 0 then
        { s.queueEvent 8 0 0xFFFF 0 (leBytes 8 s.eventsLostSince) none with eventsLostSince := 0 }
      else s
    s.queueEvent code die source step detail key

/-! ### The wear ledger's commit (R435) -/

/-- Commit: LEDGER_SEQ rises by one and the older copy is written; every 65,536 commits an epoch fuse is blown. -/
def Security.commit (z : Security) : Security :=
  let l := { z.ledger with seq := z.ledger.seq + 1, lcCount := z.lcCount }
  let fuse := if l.seq % 65536 = 0 then min 128 (z.epochFuses + 1) else z.epochFuses
  if z.ledgerA.valid && (!z.ledgerB.valid || z.ledgerB.l.seq ≤ z.ledgerA.l.seq) then
    { z with ledger := l, ledgerB := ⟨true, l⟩, epochFuses := fuse }
  else { z with ledger := l, ledgerA := ⟨true, l⟩, epochFuses := fuse }

/-- Change the live ledger. -/
def State.modLedger (s : State) (f : Ledger → Ledger) : State :=
  { s with security := { s.security with ledger := f s.security.ledger } }

/-- TX_FLITS of every port together (Table 19.8 FABRIC_BYTES). -/
def State.txFlits (s : State) : Nat := ((List.range (Config.ports s.part)).map (fun p => s.tot (0x6200 + p) 3)).sum

/-- Pass on what the ledger takes at a commit, the seconds powered and the energy drawn (R368, R435), and commit. -/
def State.commitLedger (s : State) : State :=
  let secs := (s.counter 0 - s.security.lastCommitTick) / 10 ^ 8
  let l := s.security.ledger
  let z := { s.security with lastCommitTick := s.security.lastCommitTick + secs * 10 ^ 8,
                             flitsPassed := s.txFlits,
                             ledger := { l with poweredS := satAdd 64 l.poweredS secs,
                                                fabricBytes := satAdd 64 l.fabricBytes (64 * (s.txFlits - s.security.flitsPassed)),
                                                energyNano := l.energyNano + (s.power.energyNano - s.power.energyPassed) } }
  { s with security := z.commit, power := { s.power with energyPassed := s.power.energyNano } }

/-! ### Vigil entry (R411) and error records (R402 to R409) -/

/-- An abandoned context: its operations are gone, nothing of them is delivered. -/
def Context.abandon (c : Context) : Context :=
  { c with qM := [], qV := [], qS := [], fM := none, fV := none, fS := none, halting := false, held := none }

/-- Packets of which a replay buffer holds a flit: the one that it begins in the middle of, and those whose header is there. -/
def FPort.heldPackets (f : FPort) : List Packet :=
  let fs := f.replay.flatMap (·.flits)
  (match fs with
    | .pay _ :: _ => f.replayHead.toList
    | _ => []) ++ fs.filterMap (fun x => match x with | .head p => some p | .pay _ => none)

/-- A port's replay buffer is discarded, each packet counted in LINK_DISCARDS (R279). -/
def State.discardReplay (s : State) (p : Nat) : State :=
  let f := s.fport p
  (s.setFport p { f with replay := [], replayHead := none, resends := 0, nakSent := false, rxPacket := none }).bump (0x6200 + p) 9
    f.heldPackets.length

/-- The port sends ABSENT frames from here on (R279). -/
def State.sendAbsent (s : State) (p : Nat) : State := s.setFport p { s.fport p with out := (s.fport p).out ++ [.absent] }
/-- While it trains, a port sends its node ID, direction and index (R250). -/
def State.sendTrain (s : State) (p : Nat) : State :=
  s.setFport p { s.fport p with out := (s.fport p).out ++ [.train s.boot.node (p % 8) (p / 8)] }

/-- In Vigil mode VDDC and the fabric lanes of VSER are off (R373, R442). -/
def Power.vigil (p : Power) : Power := { p with rails := p.rails.filter (fun e => e.2 ≠ 0), fabricLanes := [] }

/-- Entry into Vigil mode (R411): cores and contexts stop, ports send ABSENT only and drop their replay buffers, every held
packet is discarded, the step agent stops, counts are frozen (R414), core-island and fabric power is removed and the ledger is committed
(R435). -/
def State.enterVigil (s : State) : State :=
  if s.boot.state == .vigil then s
  else
    let s := { s with ctxs := s.ctxs.map (fun (e : Nat × Context) => (e.1, e.2.abandon)), boot := { s.boot with state := .vigil, warm := false },
                      router := [], inbox := [], msgTable := [], sent := [], reshards := [], auditFrozen := true }
    let s := (List.range (Config.ports s.part)).foldl (fun s p => (s.discardReplay p).sendAbsent p) s
    let s := { s with power := s.power.vigil }
    (s.modLedger (fun l => { l with vigilEntries := satAdd 32 l.vigilEntries 1 })).commitLedger

/-- Severity of an error class (Tables 18.2 and 19.9): 0 CE, 1 DE, 2 UC, 3 UF. -/
def classSev (c : Nat) : Nat :=
  if c ≤ 0x02 then 0
  else if c ≤ 0x1F then 1
  else if c ≤ 0x2F then 2
  else if c ≤ 0x3F then 3
  else if c = 0x40 then 3
  else 1

def State.errQueue (s : State) (die : Nat) : List ErrRec := Table.read [] die s.errors.queues
def State.setErrQueue (s : State) (die : Nat) (q : List ErrRec) : State :=
  { s with errors := { s.errors with queues := Table.write [] die q s.errors.queues } }

/-- The die's lost shares, in the order CE, DE, UC, UF (Table 18.4). -/
def State.lostShares (s : State) (die : Nat) : List Nat := Table.read [0, 0, 0, 0] die s.errors.lost

def State.countLost (s : State) (die sev : Nat) : State :=
  let l := s.lostShares die
  { s with errors := { s.errors with lost := Table.write [0, 0, 0, 0] die (l.set sev (satAdd 64 (l.getD sev 0) 1)) s.errors.lost } }

/-- The record to displace for a UC or UF capture (R409): the HANDLED CE of highest SEQ, else the HANDLED DE. -/
def displaced (q : List ErrRec) : Option ErrRec :=
  let pick (sev : Nat) := (q.filter (fun r => r.phase == .handled && r.sev == sev)).getLast?
  match pick 0 with
  | some r => some r
  | none => pick 1

/-- Where a record stands: step, attempt and address of its source. -/
structure ErrAt where
  die : Nat := 0
  source : Nat := 0xFFFF
  addr : Option Nat := none
  step : Option Nat := none
  att : Nat := 0
  syndrome : List Byte := []

/-- Corrected occurrences go into the wear ledger, by stack or fabric port (R405). -/
def State.ledgerCe (s : State) (cls source : Nat) : State :=
  if cls = 0x01 then s.modLedger (fun l => { l with stackCe := Table.modify 0 (source - 0x60) (fun v => satAdd 64 v 1) l.stackCe })
  else if cls = 0x02 then s.modLedger (fun l => { l with linkCe := Table.modify 0 (source - 0x80) (fun v => satAdd 64 v 1) l.linkCe })
  else s

/-- STEP of a record: that of its source, EXCH_STEP for the package as a whole (Table 18.1). -/
def State.recStep (s : State) (w : ErrAt) : Option Nat :=
  match w.step with
  | some x => some x
  | none => if w.source = 0xFFFF then some s.group.exchStep else none

/-- ATT of a record: that of its source, the attempt of EXCH_STEP for the package as a whole (Table 18.1). -/
def State.recAtt (s : State) (w : ErrAt) : Nat :=
  if w.step.isNone && w.source = 0xFFFF then Table.read 0 (s.group.exchStep % 2 ^ 32) s.group.atts % 256 else w.att

/-- The new record of a capture. -/
def State.newRec (s : State) (cls : Nat) (w : ErrAt) : ErrRec :=
  { seq := s.errors.seqNext, die := w.die, sev := classSev cls, cls := cls,
    flags := bit01 w.addr.isSome + 2 * bit01 (s.recStep w).isSome + 4 * bit01 s.vigil,
    source := w.source, count := 1, step := (s.recStep w).getD 0, time := s.counter w.die, addr := w.addr.getD 0,
    edition := s.almanac.curEd, att := s.recAtt w, syndrome := w.syndrome, phase := .pending }

/-- The record that a die controller handles: of the records not handled, one of highest severity; among equals the one under way,
and else the first (R407, R408). -/
def toHandle : List ErrRec → Option ErrRec
  | [] => none
  | r :: q =>
    match toHandle q with
    | none => if r.phase = .handled then none else some r
    | some t =>
      if r.phase ≠ .handled && (t.sev < r.sev || (t.sev = r.sev && t.phase ≠ .handling)) then some r else some t

/-- The controller takes that record; one it preempts returns to PENDING (R408). -/
def takeUp (q : List ErrRec) : List ErrRec :=
  match toHandle q with
  | none => q
  | some t => q.map (fun r => if r.phase = .handled then r else { r with phase := if r.seq = t.seq then .handling else .pending })

/-- Put a record into its die queue, or count it lost (R406, R409). -/
def State.enqueueRec (s : State) (r : ErrRec) : State :=
  let q := s.errQueue r.die
  let put (s : State) (q : List ErrRec) : State :=
    let s := s.setErrQueue r.die (takeUp (q ++ [r]))
    { s with errors := { s.errors with seqNext := (s.errors.seqNext + 1) % 2 ^ 32,
                                       captured := addNth s.errors.captured r.sev 1 } }
  if q.length < 32 then put s q
  else if r.sev < 2 then s.countLost r.die r.sev
  else match displaced q with
    | none => s.countLost r.die r.sev
    | some v => put (s.countLost r.die v.sev) (q.filter (fun x => x.seq != v.seq))

/-- The youngest CE record of the die, when DIE, SOURCE and CLASS equal the new occurrence's: it merges (R405). -/
def mergeInto (q : List ErrRec) (cls source : Nat) : Option ErrRec :=
  match (q.filter (fun r => r.sev == 0)).getLast? with
  | some r => if r.cls = cls && r.source = source then some r else none
  | none => none

/-- Bytes 0x00 to 0x2F of an error record (Tables 14.8, 18.1). -/
def errHead (r : ErrRec) : List Byte :=
  leBytes 4 r.seq ++ leBytes 1 r.die ++ leBytes 1 r.sev ++ leBytes 1 r.cls ++ leBytes 1 r.flags ++ leBytes 2 r.source ++
    leBytes 2 r.count ++ leBytes 4 r.step ++ leBytes 8 r.time ++ leBytes 8 r.addr ++ leBytes 1 r.edition ++ leBytes 1 r.att ++
    List.replicate 6 0 ++ slice r.syndrome 0 8

/-- The 64 bytes of an error record (Table 18.1). -/
def errBytes (r : ErrRec) : List Byte := (errHead r).take 40 ++ slice r.syndrome 0 24

/-- Capture an error occurrence (R402 to R409): merge a CE, queue the record or count it lost; a UF, queued or lost, puts the
package in Vigil mode (R411). The event of a UF that is queued is sent when it is handled (R407), of a lost one at once. -/
def State.capture (s : State) (cls : Nat) (w : ErrAt) : State :=
  let r := s.newRec cls w
  let s := if r.sev = 0 then s.ledgerCe cls w.source else s
  match (if r.sev = 0 then mergeInto (s.errQueue w.die) cls w.source else none) with
  | some m =>
    s.setErrQueue w.die ((s.errQueue w.die).map (fun x => if x.seq = m.seq then { x with count := satAdd 16 x.count 1 } else x))
  | none =>
    let before := s.errors.seqNext
    let s := s.enqueueRec r
    if r.sev = 3 then
      let s := s.modLedger (fun l => { l with ufRecords := satAdd 32 l.ufRecords 1 })
      let first := !s.vigil
      let s := s.enterVigil
      if first && s.errors.seqNext = before then s.event 7 r.die r.source r.step (errHead r) none else s
    else s

/-- A status bit whose cause queues an error record reads 1 until the queues hold no record of that cause (R355). -/
def State.recorded (s : State) (cls : Nat) (source : Option Nat) : Bool :=
  (List.range (Config.dies s.part)).any (fun d => (s.errQueue d).any (fun r =>
    r.cls == cls && (match source with | none => true | some b => r.source == b)))

/-! ### Address map and interleave (R302 to R304) -/

/-- What a local address names (Table 13.1). -/
inductive Region where
  | hbm (a : Nat)
  | core (n off : Nat)
  | shared (d off : Nat)
  | register (b w : Nat)
  | unmapped
  deriving DecidableEq, Repr

def coreBase (n : Nat) : Nat := 0x400000000000 + 0x800000 * n
def sharedBase (d : Nat) : Nat := 0x480000000000 + 0x4000000 * d
def coreMemBytes : Nat := 6 * 2 ^ 20
def sharedBytes : Nat := 48 * 2 ^ 20
/-- The shared buffer below the queue-head area of its top 8 MiB (R198). -/
def sharedDirect : Nat := 40 * 2 ^ 20

/-- Decode a local address (Table 13.1). -/
def region (p : Part) (a : Nat) : Region :=
  if a < Config.hbmBytes p then .hbm a
  else if a < 0x400000000000 then .unmapped
  else if a < 0x480000000000 then
    let n := (a - 0x400000000000) / 0x800000
    let o := (a - 0x400000000000) % 0x800000
    if n < Config.cores p && o < coreMemBytes then .core n o else .unmapped
  else if a < 0x7F0000000000 then
    let d := (a - 0x480000000000) / 0x4000000
    let o := (a - 0x480000000000) % 0x4000000
    if d < Config.dies p && o < sharedBytes then .shared d o else .unmapped
  else
    let b := (a - 0x7F0000000000) / 0x400
    if b < 0x8000 && (blockKind p b).isSome then .register b ((a - 0x7F0000000000) % 0x400 / 4) else .unmapped

/-- Stack of an HBM address (R304). -/
def stackOf (p : Part) (a : Nat) : Nat :=
  let n := Config.stackCount p
  let g := a / 2048
  let r := g / n
  let f := bitsOf r 0 5 ^^^ bitsOf r 5 5 ^^^ bitsOf r 10 5 ^^^ bitsOf r 15 5 ^^^ bitsOf r 20 5
  (g - r * n + f % n) % n

/-- Address within the stack (R304). -/
def inAddr (p : Part) (a : Nat) : Nat := a / 2048 / Config.stackCount p * 2048 + a % 2048

/-- The HBM address of an address within a stack: the inverse of R304. -/
def hbmOf (p : Part) (stack ia : Nat) : Nat :=
  let n := Config.stackCount p
  let r := ia / 2048
  let f := bitsOf r 0 5 ^^^ bitsOf r 5 5 ^^^ bitsOf r 10 5 ^^^ bitsOf r 15 5 ^^^ bitsOf r 20 5
  (r * n + (stack + n - f % n) % n) * 2048 + ia % 2048

/-! ### Key slots and windows (R306 to R309) -/

def State.keySlot (s : State) (k : Nat) : KeySlot := Table.read {} k s.security.keys
def State.setKeySlot (s : State) (k : Nat) (v : KeySlot) : State :=
  { s with security := { s.security with keys := Table.write {} k v s.security.keys } }

/-- Does the slot hold a key (SLOT_MAP)? -/
def State.hasKey (s : State) (k : Nat) : Bool := k < 64 && (s.keySlot k).gen != 0

/-- SLOT_MAP (Table 19.10). -/
def State.slotMap (s : State) : Nat := ((List.range 64).map (fun k => bit01 (s.keySlot k).listed * 2 ^ k)).sum

/-- Every loaded context, as (core, context, its data): those not EMPTY. -/
def State.loaded (s : State) : List (Nat × Context) := s.ctxs.filter (fun e => e.2.state != .empty)

/-- Does [a, a + n) lie within one of the windows? -/
def inWindows (ws : List (Nat × Nat)) (a n : Nat) : Bool := ws.any (fun w => w.1 ≤ a && a + n ≤ w.2)

/-- The key window table holds a window of the key slot that holds the whole range (R307). -/
def State.keyWindow (s : State) (k a n : Nat) : Bool :=
  s.loaded.any (fun e => e.2.key == k && inWindows e.2.windows a n)

/-- Stacks that a range of HBM addresses maps to. -/
def stacksOf (p : Part) (a n : Nat) : List Nat :=
  ((List.range ((a + n + 2047) / 2048 - a / 2048)).map (fun i => stackOf p ((a / 2048 + i) * 2048))).eraseDups

/-- Every controller the range maps to is enabled (R316). -/
def State.mcsOn (s : State) (a n : Nat) : Bool := (stacksOf s.part a n).all (fun k => (s.block (blkMc k)).en)

/-! ### HBM reads and writes (R308 to R313) -/

def State.codeOf (s : State) (u : Nat) : Codeword := Table.read {} u s.unitCode
def State.unitCondOf (s : State) (u : Nat) : UnitCond := (s.codeOf u).cond
def State.setCond (s : State) (u : Nat) (c : Codeword) : State :=
  { s with unitCode := Table.write {} u c s.unitCode }

/-- Count of poisoned units of a stack (POISONED_UNITS). -/
def State.poisonedUnits (s : State) (stack : Nat) : Nat :=
  (s.unitCode.filter (fun e => e.2.poison && stackOf s.part (e.1 * 64) == stack)).length

/-- The key generation that an HBM unit was last written under, 0 for none. -/
def State.unitGen (s : State) (u : Nat) : Nat :=
  let g := Table.read 0 u s.unitKey
  if g ≠ 0 then g
  else match s.fills.find? (fun f => f.1 ≤ u && u < f.2.1) with
    | some f => f.2.2
    | none => 0

/-- Write zeros into a range of whole HBM units under a key generation: fresh codewords (R432). -/
def State.fillUnits (s : State) (lo hi gen : Nat) : State :=
  { s with mem := Table.drop (64 * lo) (64 * hi) s.mem, unitKey := Table.drop lo hi s.unitKey, unitCode := Table.drop lo hi s.unitCode,
           fills := (lo, hi, gen) :: s.fills.filter (fun f => !(lo ≤ f.1 && f.2.1 ≤ hi)) }

/-- The XTS key pair of a key generation: 64 bytes (R308, R309, R431). -/
def State.xtsKey (s : State) (g : Nat) : List Byte :=
  match Table.read [] g s.security.genKeys with
  | [] => (List.range 64).map (Config.packageKeyByte g)
  | k => k

/-- The ciphertext that a stack holds for a unit that has been written: `mem` keeps the plaintext beside the key generation of the write
(R308). -/
def State.cipherUnit (s : State) (u : Nat) : List Byte :=
  xtsUnit false (s.xtsKey (s.unitGen u)) u (Table.readList 0 (64 * u) 64 s.mem)

/-- The byte that a reader of the key slot sees at an HBM address: what was written under its own key, and otherwise the decryption under the
reader's key (R308, R310). -/
def State.hbmByte (s : State) (k a : Nat) : Byte :=
  let g := (s.keySlot k).gen
  let w := s.unitGen (a / 64)
  if w = 0 then Config.foreignByte g a
  else if w = g then Table.read 0 a s.mem
  else (xtsUnit true (s.xtsKey g) (a / 64) (s.cipherUnit (a / 64))).getD (a % 64) 0

/-- MC_ERR counts of a stack (Table 13.6): corrections, uncorrected. -/
def State.mcCount (s : State) (stack ce uc : Nat) : State :=
  { s with mcErr := Table.modify (0, 0) stack (fun v => (satAdd 16 v.1 ce, satAdd 16 v.2 uc)) s.mcErr }

/-- Syndrome bytes of a memory class record (Table 18.1): stack, four syndromes (open values), in-stack address. -/
def memSyndrome (s : State) (u : Nat) : List Byte :=
  leBytes 1 (stackOf s.part (u * 64)) ++ (List.range 8).map (Config.syndromeByte s.errors.seqNext) ++
    leBytes 8 (inAddr s.part (u * 64))

/-- A demand read meets one unit (Table 13.3): the state after it, and whether it delivers data. A corrected codeword is queued for its
write-back, which the next demand access finds made; a demand write before that drops it (R315; DESIGN CHOICE, log entry 13). -/
def State.demandUnit (s : State) (u : Nat) : State × Bool :=
  let stack := stackOf s.part (u * 64)
  let w : ErrAt := { die := stack / 6, source := blkMc stack, addr := some (u * 64), syndrome := memSyndrome s u }
  if s.untrained.contains stack then (s, false)
  else match s.unitCondOf u with
    | .clean => (s.setCond u {}, true)
    | .correctable =>
      let s := ((s.mcCount stack 1 0).bump (0x3300 + stack) 1 1).capture 0x01 w
      (if bitOf (s.block (blkMc stack)).cfg 0 then s.setCond u { writeBack := true } else s, true)
    | .uncorrectable =>
      ((((s.setCond u { poison := true }).mcCount stack 0 1).bump (0x3300 + stack) 2 1).capture 0x21 w, false)
    | .poisoned => (((s.mcCount stack 0 1).bump (0x3300 + stack) 2 1).capture 0x21 w, false)

/-- Units of a byte range. -/
def unitsOf (a n : Nat) : List Nat := (List.range ((a + n + 63) / 64 - a / 64)).map (fun i => a / 64 + i)

/-- How many bytes of [a, a + n) lie in a unit. -/
def inUnit (a n u : Nat) : Nat := min (a + n) (u * 64 + 64) - max a (u * 64)

/-- An HBM access whose key slot holds no key is refused as one between tenants is, by the memory controller (R307, R309). -/
def State.keyRefused (s : State) (a : Nat) : State :=
  (s.bump 0x3250 6 1).capture 0x20 { die := stackOf s.part a / 6, source := blkMc (stackOf s.part a), addr := some a }

/-- Demand read of an HBM range through a key slot that holds a key: data when every unit delivers (R309, R312). -/
def State.hbmRead (s : State) (k a n : Nat) : State × Option (List Byte) :=
  if !s.hasKey k then (s.keyRefused a, none) else
  let r := (unitsOf a n).foldl (fun (p : State × Bool) u =>
    let q := p.1.demandUnit u
    (q.1.bump (0x3300 + stackOf s.part (u * 64)) 6 (inUnit a n u), p.2 && q.2)) (s, true)
  (r.1, if r.2 then some ((List.range n).map (fun i => s.hbmByte k (a + i))) else none)

/-- Bytes of the range that fall in a unit, by address. -/
def bytesIn (a : Nat) (bs : List Byte) (u : Nat) : List (Nat × Byte) :=
  (List.range 64).filterMap (fun i =>
    let x := u * 64 + i
    if a ≤ x && x < a + bs.length then some (x, bs.getD (x - a) 0) else none)

/-- Write one unit's share (R310, R313): whole units become fresh codewords; a partial write merges with what the reader of
the key sees, and is refused where the unit is poisoned or found uncorrectable. -/
def State.hbmWriteUnit (s : State) (k a : Nat) (bs : List Byte) (u : Nat) : State × Bool :=
  let part := bytesIn a bs u
  let g := (s.keySlot k).gen
  let s := s.bump (0x3300 + stackOf s.part (u * 64)) 5 (bit01 (s.codeOf u).writeBack)
  if part.length = 64 then
    let s := s.setCond u {}
    ({ s with mem := Table.writeList 0 (u * 64) (part.map (·.2)) s.mem, unitKey := Table.write 0 u g s.unitKey }, true)
  else
    let old := (List.range 64).map (fun i => s.hbmByte k (u * 64 + i))
    let (s, ok) := s.demandUnit u
    if !ok then (s, false)
    else
      let new := patch old ((part.headD (u * 64, 0)).1 - u * 64) (part.map (·.2))
      ({ s.setCond u {} with mem := Table.writeList 0 (u * 64) new s.mem, unitKey := Table.write 0 u g s.unitKey }, true)

/-- Write an HBM range through a key slot that holds a key, unit by unit; false where a unit refused its share (R309, R313). -/
def State.hbmWrite (s : State) (k a : Nat) (bs : List Byte) : State × Bool :=
  if !s.hasKey k then (s.keyRefused a, false) else
  (unitsOf a bs.length).foldl (fun (p : State × Bool) u =>
    let q := p.1.hbmWriteUnit k a bs u
    (if q.2 then q.1.bump (0x3300 + stackOf s.part (u * 64)) 7 (inUnit a bs.length u) else q.1, p.2 && q.2)) (s, true)

end Sys2Proof.Machine
end

