-- ==== Sys2Proof/Machine/Mem.lean ====
section
/-! DEFINITION. Core memory and shared buffers, the partitions of a core's contexts (R106, R108), and the checks that an access
from outside a core meets (R110, R303, R307). -/

namespace Sys2Proof.Machine

def unit64K : Nat := 65536

/-- Bytes of core memory or shared buffer at a local address. -/
def State.rawRead (s : State) (a n : Nat) : List Byte := Table.readList 0 a n s.mem
def State.rawWrite (s : State) (a : Nat) (bs : List Byte) : State := { s with mem := Table.writeList 0 a bs s.mem }
/-- Zero a range: nothing listed in it. -/
def State.rawClear (s : State) (a n : Nat) : State := { s with mem := Table.drop a (a + n) s.mem }

/-- Does an uncorrected error lie in a range of core memory or shared buffer (R69, R119)? -/
def State.coreBad (s : State) (a n : Nat) : Bool := s.coreUc.any (fun u => a < 64 * u + 64 && 64 * u < a + n)

/-- First byte and size of a context's core-memory partition, the suspension area left out (R106, R108). -/
def State.partStart (s : State) (n : Nat) : Ctx → Nat
  | .crown => 0
  | .brim => s.memsplit n * unit64K
def State.partSize (s : State) (n : Nat) : Ctx → Nat
  | .crown => s.memsplit n * unit64K
  | .brim => (96 - s.memsplit n - 1) * unit64K

/-- Local address of an offset in a context's partition. -/
def State.partAddr (s : State) (n : Nat) (x : Ctx) (off : Nat) : Nat := coreBase n + s.partStart n x + off

/-- Does [off, off + len) lie in the partition? -/
def State.inPart (s : State) (n : Nat) (x : Ctx) (off len : Nat) : Bool := off + len ≤ s.partSize n x

/-- Local address of an offset in a context's shared-buffer area, and whether a range lies in the area (R111, Table 5.4). -/
def State.sbAddr (s : State) (n : Nat) (x : Ctx) (off : Nat) : Nat :=
  sharedBase (coreDie n) + (s.ctx n x).sbBase * unit64K + off
def State.inSb (s : State) (n : Nat) (x : Ctx) (off len : Nat) : Bool :=
  off + len ≤ (s.ctx n x).sbSize * unit64K && (s.ctx n x).sbBase * unit64K + off + len ≤ sharedDirect

/-- Accumulator window and scale windows of a context: first index and size (R75, R106). -/
def State.accStart (s : State) (n : Nat) : Ctx → Nat
  | .crown => 0
  | .brim => s.accsplit n
def State.accSize (s : State) (n : Nat) : Ctx → Nat
  | .crown => s.accsplit n
  | .brim => 64 - s.accsplit n
def State.scaleStart (s : State) (n : Nat) : Ctx → Nat
  | .crown => 0
  | .brim => s.split n
def State.scaleSize (s : State) (n : Nat) : Ctx → Nat
  | .crown => s.split n
  | .brim => 4096 - s.split n

/-- Accumulator tile i of a core. -/
def State.acc (s : State) (n i : Nat) : AccTile := Table.read {} (64 * n + i) s.accs
def State.setAcc (s : State) (n i : Nat) (t : AccTile) : State :=
  { s with accs := Table.write {} (64 * n + i) t s.accs }

/-- Reset value of a scale or rescale entry (Tables 4.1, 4.2): scale 1.0, offset +0. -/
def scaleReset : Dword := 0x3F800000

/-- Entry of the scale register file, and of the rescale table, of a core. -/
def State.srfEntry (s : State) (n i : Nat) : Dword := Table.read scaleReset (4096 * n + i) s.srf
def State.setSrf (s : State) (n i : Nat) (v : Dword) : State :=
  { s with srf := Table.write scaleReset (4096 * n + i) v s.srf }
def State.rescaleEntry (s : State) (n i : Nat) : Dword := Table.read scaleReset (4096 * n + i) s.rescale
def State.setRescale (s : State) (n i : Nat) (v : Dword) : State :=
  { s with rescale := Table.write scaleReset (4096 * n + i) v s.rescale }

/-! ### Access from outside a core (R110, R303, R307) -/

/-- Who reaches into the storage of a core, a die or a stack (Table 5.4): a host over Jorto, the stream engine of a core of this package, or
another package. -/
inductive Who where
  | host
  | core (n : Nat) (x : Ctx)
  | remote
  deriving DecidableEq, Repr

/-- What the access checks find. -/
inductive Admit where
  | ok
  /-- Refused with an ISOLATION record: the place belongs to another key slot, or to no window of the requester's. -/
  | isolation
  /-- Refused as an unmapped address is: no context holds the place, or no access reaches it. -/
  | closed
  deriving DecidableEq, Repr

/-- The context that a 64 KiB unit of a core's memory belongs to (R303). -/
def State.unitCtx (s : State) (n u : Nat) : Ctx := if u < s.memsplit n then .crown else .brim

/-- The key slot of the context that holds a 64 KiB unit of a core's memory; none for the suspension area and for a
partition with no job loaded (R108, R303). -/
def State.unitOwner (s : State) (n u : Nat) : Option Nat :=
  let c := s.ctx n (s.unitCtx n u)
  if c.state = .empty || (u ≥ s.memsplit n && u = 95) then none else some c.key

/-- A context never reaches the partition of the other context of its core, whatever their key slots (Table 5.4). -/
def State.otherHalf (s : State) (w : Who) (n u : Nat) : Bool :=
  match w with
  | .core m x => m = n && s.unitCtx n u ≠ x
  | _ => false

/-- Two verdicts together: a place that nobody holds closes the access, and another tenant's place is isolation. -/
def Admit.both : Admit → Admit → Admit
  | .closed, _ => .closed
  | _, .closed => .closed
  | .isolation, _ => .isolation
  | _, .isolation => .isolation
  | .ok, .ok => .ok

/-- Verdict on a place held under a key slot. -/
def admitKey (owner : Option Nat) (k : Nat) : Admit :=
  match owner with
  | none => .closed
  | some o => if o = k then .ok else .isolation

def State.admitCore (s : State) (w : Who) (k n off len : Nat) : Admit :=
  if off + len > coreMemBytes then .closed
  else ((List.range ((off + len + unit64K - 1) / unit64K - off / unit64K)).map (fun i =>
    if s.otherHalf w n (off / unit64K + i) then .closed else admitKey (s.unitOwner n (off / unit64K + i)) k)).foldl Admit.both .ok

/-- The loaded contexts of a die, with their cores. -/
def State.dieContexts (s : State) (d : Nat) : List Context :=
  (s.loaded.filter (fun e => coreDie (e.1 / 2) == d)).map (·.2)

/-- Does the range lie in the context's shared-buffer area? -/
def Context.holdsSb (c : Context) (off len : Nat) : Bool :=
  c.sbBase * unit64K ≤ off && off + len ≤ (c.sbBase + c.sbSize) * unit64K

/-- A shared-buffer area is reached by the stream engines of its die's cores and by hosts, never from another die or package (Table 5.4). -/
def Who.atDie (w : Who) (d : Nat) : Bool :=
  match w with
  | .host => true
  | .core n _ => coreDie n = d
  | .remote => false

def State.admitShared (s : State) (w : Who) (k d off len : Nat) : Admit :=
  if off + len > sharedDirect || !w.atDie d then .closed
  else
    let cs := (s.dieContexts d).filter (fun c => c.holdsSb off len)
    if cs.any (fun c => c.key == k) then .ok
    else if cs = [] then .closed else .isolation

/-- HBM as a requester reaches it (R111, R307): a core of the package in its own context's windows, any other requester in a window of its key
slot. A range past the limit lies in no window; a local access that lies in none is closed, another's is isolation. -/
def State.admitHbm (s : State) (w : Who) (k a n : Nat) : Admit :=
  let inRange := a + n ≤ Config.hbmBytes s.part && s.hasKey k
  match w with
  | .core m x => if inRange && inWindows (s.ctx m x).windows a n && s.mcsOn a n then .ok else .closed
  | _ => if !inRange || !s.keyWindow k a n then .isolation else if !s.mcsOn a n then .closed else .ok

/-- Check an access from outside a core to a local range under a key slot. -/
def State.admission (s : State) (w : Who) (k a n : Nat) : Admit :=
  match region s.part a with
  | .hbm a => s.admitHbm w k a n
  | .core c off => s.admitCore w k c off n
  | .shared d off => s.admitShared w k d off n
  | .register _ _ => .closed
  | .unmapped => .closed

/-- Die that an address lies at: its controller's, its core's or its shared buffer's (R304, Table 13.1). -/
def State.dieAt (s : State) (a : Nat) : Nat :=
  match region s.part a with
  | .hbm a => stackOf s.part a / 6
  | .core c _ => coreDie c
  | .shared d _ => d
  | _ => 0

/-- The register block of the unit that an address lies at: its memory controller's or its core's; none for the rest (Table 18.1). -/
def State.blockAt (s : State) (a : Nat) : Nat :=
  match region s.part a with
  | .hbm a => 0x60 + stackOf s.part a
  | .core c _ => blkCore c
  | _ => 0xFFFF

/-- The record and the count of a refusal between tenants (R110, R307), by the unit that refused. -/
def State.isolated (s : State) (a : Nat) : State :=
  (s.bump 0x3250 6 1).capture 0x20 { die := s.dieAt a, source := s.blockAt a, addr := some a }

/-- How an access from outside ended. -/
inductive Ended where
  | ok | refused | uc
  deriving DecidableEq, Repr

/-- The checks of R110, R303 and R307 on a range, and what a refusal leaves behind. -/
def State.admitted (s : State) (w : Who) (k a n : Nat) : State × Bool :=
  match s.admission w k a n with
  | .isolation => (s.isolated a, false)
  | .closed => (s, false)
  | .ok => (s, true)

/-- Read a local range under a key slot. An uncorrected error in core memory or shared buffer delivers nothing (Table 6.3). -/
def State.outsideRead (s : State) (w : Who) (k a n : Nat) : State × Ended × List Byte :=
  match s.admitted w k a n with
  | (t, false) => (t, .refused, [])
  | (t, true) =>
    match region t.part a with
    | .hbm _ =>
      match t.hbmRead k a n with
      | (t, some bs) => (t, .ok, bs)
      | (t, none) => (t, .uc, [])
    | _ => if t.coreBad a n then (t, .uc, []) else (t, .ok, t.rawRead a n)

/-- Write a local range under a key slot. -/
def State.outsideWrite (s : State) (w : Who) (k a : Nat) (bs : List Byte) : State × Ended :=
  match s.admitted w k a bs.length with
  | (t, false) => (t, .refused)
  | (t, true) =>
    match region t.part a with
    | .hbm _ =>
      match t.hbmWrite k a bs with
      | (t, true) => (t, .ok)
      | (t, false) => (t, .uc)
    | _ => (t.rawWrite a bs, .ok)

/-- Stream status of an end (Table 6.3). -/
def Ended.status : Ended → Nat
  | .ok => 0
  | .refused => 1
  | .uc => 4

end Sys2Proof.Machine
end

