-- ==== Sys2Proof/Machine/Tensor.lean ====
section
/-! DEFINITION. Tensors in a context's core-memory partition: reading and widening a tile (R46, R447), writing one, the scan and its
derived scales (R78 to R81), and the delivery of an operation's counts (R90, R191). -/

namespace Sys2Proof.Machine

/-- The place an operation runs: its core, its context, the step it was issued under, and that step's attempt (R193). -/
structure Place where
  core : Nat
  x : Ctx
  step : Nat
  att : Nat
  deriving DecidableEq, Repr, Inhabited

/-- SCALE and OFFSET of an entry (Table 4.1), RM and RB of a rescale entry (Table 4.2). -/
def entryParts (v : Dword) : FV × FV := (fp32.decode (v.toNat % 2 ^ 32), fp32.decode (v.toNat / 2 ^ 32))

/-- Scale entry of a channel of a plain tensor, in the context's window (R75, R77). -/
def State.scaleOf (s : State) (w : Place) (d : Desc) (c : Nat) : FV × FV :=
  entryParts (s.srfEntry w.core (s.scaleStart w.core w.x + d.srfb + if d.scm then c else 0))

/-- Bytes at an offset of the context's partition. -/
def State.partRead (s : State) (w : Place) (off n : Nat) : List Byte := s.rawRead (s.partAddr w.core w.x off) n
def State.partWrite (s : State) (w : Place) (off : Nat) (bs : List Byte) : State := s.rawWrite (s.partAddr w.core w.x off) bs

/-- Bytes of a context's space (Table 6.2) as they stand now: its partition, its shared-buffer area, HBM. -/
def State.sourceBytes (s : State) (n : Nat) (x : Ctx) (sp base off len : Nat) : List Byte :=
  match sp with
  | 0 => s.rawRead (s.partAddr n x (base + off)) len
  | 1 => s.rawRead (s.sbAddr n x (base + off)) len
  | _ => (List.range len).map (fun i => s.hbmByte (s.ctx n x).key (base + off + i))

/-- NB4 levels of the lines of tile (a, b), from the table area in the space of the tensor (R42, R86, Table 6.2). -/
def State.nb4Levels (s : State) (w : Place) (d : Desc) (a b : Nat) : Nat → Nat → Int :=
  if d.fmt ≠ 11 || d.aux = 0 then fun _ q => nb4Default.getD q 0
  else
    let t := (s.sourceBytes w.core w.x d.space d.aux (16 * d.channel a b 0) 1024).toArray
    fun l q => signedOf 8 (t.getD (16 * l + q) 0).toNat

/-- Decode tile (a, b) from the bytes of its record. -/
def State.tileOf (s : State) (w : Place) (d : Desc) (a b : Nat) (bs : List Byte) : Tile :=
  decodeTile d a b (s.nb4Levels w d a b) bs.toArray
/-- Decode tile (a, b) as it lies in the partition. -/
def State.readTile (s : State) (w : Place) (d : Desc) (a b : Nat) : Tile := s.tileOf w d a b (s.partRead w (d.tileOff a b) d.recSize)

/-- What reading a tile counts: NAN_IN for surplus escapes, one non-finite value each, and the malformed tile (R40). -/
def Tile.tally (t : Tile) : Tally :=
  { flags := Byte.when flagNanIn (t.surplus > 0), c := { nonfin := t.surplus }, badTile := bit01 (t.surplus > 0 || t.badCount) }

/-- Exact elements of a tile with TEO applied (R46, R52), and the flags of its inputs. -/
def State.exactTile (s : State) (w : Place) (d : Desc) (a b : Nat) : Array FV × Tally :=
  let t := s.readTile w d a b
  let vs := t.vals.map (FV.scale t.head.teo)
  (vs, t.tally.plus { flags := vs.foldl (fun f v => f ||| v.inFlags) 0 })

/-- Elements of tile (a, b), decoded already, widened to FP32 (R46), plain integers at their real value (R447). A finite value beyond the
FP32 range becomes an infinity and counts one non-finite value (R46). -/
def State.widen (s : State) (w : Place) (d : Desc) (a b : Nat) (t : Tile) : Array FV × Tally :=
  let plain := isPlain d.fmt
  let out := (List.range 4096).foldl (fun (acc : Array FV × Byte × Nat) e =>
    if !d.inside a b e then (acc.1.push .zero, acc.2)
    else
      let v := t.vals.getD e .zero
      if plain then
        let so := s.scaleOf w d (d.channel a b (e / 64))
        let r := plainValue so.1 so.2 v t.head.teo
        (acc.1.push (fp32.decode r.bits), acc.2.1 ||| so.1.inFlags ||| so.2.inFlags ||| r.flagsOvf, acc.2.2 + bit01 r.ovf)
      else
        let r := fp32.roundV (v.scale t.head.teo)
        (acc.1.push (fp32.decode r.bits), acc.2.1 ||| v.inFlags ||| r.flagsOvf, acc.2.2 + bit01 r.ovf)) (#[], 0, 0)
  (out.1, t.tally.plus { flags := out.2.1, c := { nonfin := out.2.2 } })

/-- Elements of a tile of the partition widened to FP32. -/
def State.widenTile (s : State) (w : Place) (d : Desc) (a b : Nat) : Array FV × Tally := s.widen w d a b (s.readTile w d a b)

/-- Write tile (a, b) from values before TEO, one for each element index. -/
def State.writeTile (s : State) (w : Place) (d : Desc) (a b escq : Nat) (head : TileHead) (xs : Array FV)
    (mask : Nat → Byte := fun _ => 0) : State × Tally :=
  let (bs, t) := encodeTile d a b escq (s.nb4Levels w d a b) (s.scaleOf w d) head xs mask
  (s.partWrite w (d.tileOff a b) bs, t)

/-- Element (i, j) of a tensor tile given by element index. -/
def elemAt (d : Desc) (vs : Array FV) (i j : Nat) : FV := vs.getD (d.find i j).2.2 .zero

/-- Reorder a tile's elements from the element order of one descriptor to that of another with the same extents. -/
def reorder (d e : Desc) (vs : Array FV) : Array FV :=
  if d.baxis = e.baxis then vs
  else (Array.range 4096).map (fun i => vs.getD (i % 64 * 64 + i / 64) .zero)

/-! ### Delivery of counts (R90, R191) -/

/-- Add a tally to the package totals (Table 4.7) and, for a Crown operation, to the live counts of the watch (R191 to R193). -/
def State.count (s : State) (w : Place) (tid : Nat) (t : Tally) : State :=
  let s := ((((((s.bump 0x3240 1 t.constCh).bump 0x3240 2 t.floors).bump 0x3240 3 t.clamps).bump 0x3240 4 t.sideOvf).bump
    0x3240 5 t.c.sats).bump 0x3240 6 t.c.escs)
  let s := s.bump 0x3260 1 t.c.dclamp
  if w.x = .brim then s
  else
    let c := t.withQev.c
    if c = {} then s
    else
      let entry := ((s.watch.filter (fun e => e.1 ≠ 0 && e.2.valid && e.2.tid = tid)).head?.map (·.1)).getD 0
      match s.live.find? (fun l => l.step = w.step && l.att = w.att && l.entry = entry) with
      | none => { s with live := s.live ++ [⟨w.step, w.att, entry, c⟩] }
      | some _ => { s with live := s.live.map (fun l =>
          if l.step = w.step && l.att = w.att && l.entry = entry then { l with c := l.c.plus c } else l) }

/-- A malformed tile read queues a DE record of class TILE_FORMAT (R40): the tile at an address, with what its read found. -/
def State.badTileAt (s : State) (w : Place) (addr : Nat) (t : Tally) : State :=
  if t.badTile = 0 then s
  else s.capture 0x10 { die := coreDie w.core, source := blkCore w.core, addr := some addr, step := some w.step, att := w.att }

/-- The same for a tile at an offset of the partition. -/
def State.badTile (s : State) (w : Place) (off : Nat) (t : Tally) : State := s.badTileAt w (s.partAddr w.core w.x off) t

/-- A tile of a tensor has been read: its record where it is malformed, and what it counts (R40, R46): against the tensor read, besides what a
store of its elements counts against another (DESIGN CHOICE, log entry 133). -/
def State.readCount (s : State) (w : Place) (d : Desc) (a b : Nat) (t : Tally) : State :=
  (s.badTile w (d.tileOff a b) t).count w d.tid { c := t.c }

/-! ### Scan records and derived scales (R78 to R81) -/

/-- A scan record (Table 4.4). -/
structure ScanRec where
  maxabs : FV := .zero
  min : FV := .zero
  max : FV := .zero
  zeros : Nat := 0
  nonfin : Nat := 0
  finite : Nat := 0
  deriving DecidableEq, Repr, Inhabited

/-- a comes before b, −0 before +0. -/
def FV.below (a b : FV) : Bool := a.lt b || (a.isZero && b.isZero && a.neg && !b.neg)

/-- Take one element in. -/
def ScanRec.add (r : ScanRec) (v : FV) : ScanRec :=
  if !v.isFin then { r with nonfin := satAdd 32 r.nonfin 1 }
  else if r.finite = 0 then { r with maxabs := v.abs, min := v, max := v, zeros := bit01 v.isZero, finite := 1 }
  else { r with maxabs := if r.maxabs.lt v.abs then v.abs else r.maxabs, min := if v.below r.min then v else r.min,
                max := if r.max.below v then v else r.max, zeros := satAdd 32 r.zeros (bit01 v.isZero),
                finite := satAdd 32 r.finite 1 }

/-- Merge two records (R79). -/
def ScanRec.merge (a b : ScanRec) : ScanRec :=
  if b.finite = 0 then { a with nonfin := satAdd 32 a.nonfin b.nonfin }
  else if a.finite = 0 then { b with nonfin := satAdd 32 a.nonfin b.nonfin }
  else { maxabs := if a.maxabs.lt b.maxabs then b.maxabs else a.maxabs, min := if b.min.below a.min then b.min else a.min,
         max := if a.max.below b.max then b.max else a.max, zeros := satAdd 32 a.zeros b.zeros,
         nonfin := satAdd 32 a.nonfin b.nonfin, finite := satAdd 32 a.finite b.finite }

def ScanRec.bytes (r : ScanRec) : List Byte :=
  leBytes 4 (fp32.roundV r.maxabs).bits ++ leBytes 4 (fp32.roundV r.min).bits ++ leBytes 4 (fp32.roundV r.max).bits ++
    leBytes 4 r.zeros ++ leBytes 4 r.nonfin ++ leBytes 4 r.finite ++ List.replicate 8 0

/-- The entry of Table 4.5, with its events: constant channel, scale floor. -/
def deriveEntry (fmt : Nat) (zp : Bool) (r : ScanRec) : Dword × Bool × Bool :=
  let pack (s o : Nat) : Dword := BitVec.ofNat 64 (o * 2 ^ 32 + s)
  let minBits := (fp32.roundV r.min).bits
  let top : FV := .ofInt (plainHi fmt) 0
  let floor (q : Rounded) (o : Nat) : Dword × Bool × Bool :=
    if q.bits < 0x00800000 then (pack 0x00800000 o, false, true)
    else (pack q.bits o, false, false)
  if r.min.eqv r.max then (pack 0 minBits, true, false)
  else if !zp && (fmt = 3 || fmt = 5) then floor (divRound r.maxabs top) 0
  else if !zp then (if FV.zero.lt r.max then floor (divRound r.max top) 0 else (0, true, false))
  else floor (divRound (r.max.sub r.min) top) minBits

end Sys2Proof.Machine
end

