-- ==== Sys2Proof/Machine/Run.lean ====
section
/-! DEFINITION. Operations in their engines: the fields of a slot word, faults (R119), and the shared frame of every operation
command: find the dispatched operation, run its effect, leave its completion record. -/

namespace Sys2Proof.Machine

/-- Fault codes (Table 5.6). -/
def fIllegal : Nat := 1
def fFormat : Nat := 2
def fDescriptor : Nat := 3
def fScaleIndex : Nat := 4
def fScale : Nat := 5
def fAccess : Nat := 6
def fAccIndex : Nat := 7
def fEngineMask : Nat := 8
def fMemoryUc : Nat := 9

/-- Opcode of a slot word: [31:26] in the vector slot, [31:27] in the others (Tables 6.5, 6.7, 6.10). -/
def opcodeOf (k : Eng) (w : Word) : Nat :=
  match k with
  | .vector => bitsOf w.toNat 26 6
  | _ => bitsOf w.toNat 27 5

def Context.flight (c : Context) : Eng → Option Flight
  | .matrix => c.fM
  | .vector => c.fV
  | .stream => c.fS
def Context.setFlight (c : Context) (k : Eng) (f : Option Flight) : Context :=
  match k with
  | .matrix => { c with fM := f }
  | .vector => { c with fV := f }
  | .stream => { c with fS := f }
def Context.queue (c : Context) : Eng → List Op
  | .matrix => c.qM
  | .vector => c.qV
  | .stream => c.qS
def Context.setQueue (c : Context) (k : Eng) (q : List Op) : Context :=
  match k with
  | .matrix => { c with qM := q }
  | .vector => { c with qV := q }
  | .stream => { c with qS := q }

/-- Has the context an operation in an engine? -/
def Context.inFlight (c : Context) : Bool := c.fM.isSome || c.fV.isSome || c.fS.isSome
/-- Has it anything outstanding? -/
def Context.outstanding (c : Context) : Bool := c.inFlight || c.qM ≠ [] || c.qV ≠ [] || c.qS ≠ []

/-- The context becomes FAULTED (R119). A context that is FAULTED already, or BUSY with a command that leaves it FAULTED, keeps what its first
fault set, with no further record and no further event. -/
def State.faultContext (s : State) (n : Nat) (x : Ctx) (code : Nat) (pc : Dword) (step att : Nat) : State :=
  let c := s.ctx n x
  if c.state = .faulted || (c.state = .busy && c.busyAfter = .faulted) then s
  else
    let s := s.setCtx n x { c with state := .faulted, fault := code, faultAddr := pc, halting := false }
    let bytes := leBytes 1 code ++ leBytes 8 pc.toNat
    let s := s.capture 0x23 { die := coreDie n, source := blkCore n, step := some step, att := att, syndrome := bytes }
    s.event 1 (coreDie n) n step (leBytes 1 code ++ leBytes 1 (if x = .crown then 0 else 1) ++ List.replicate 6 0 ++
      leBytes 8 pc.toNat) (some c.key)

/-- A fault of an operation at dispatch or in execution: the operation ends, later operations of its queue are discarded
(R119). -/
def State.opFault (s : State) (n : Nat) (x : Ctx) (k : Eng) (op : Op) (code : Nat) : State :=
  (s.modCtx n x (fun c => (c.setFlight k none).setQueue k [])).faultContext n x code op.pc op.step op.att

/-- How an operation's effect ends. -/
inductive OpEnd where
  /-- Done, with its flag word or its stream status. -/
  | done (flags : Byte) (status : Nat)
  /-- A fault at dispatch or in execution. -/
  | fault (code : Nat)
  /-- Its queue, credit or peer condition is not met yet (latency class Q). -/
  | blocked
  /-- Its messages are on their way: done when each of them is answered (R143). -/
  | waiting (msgids : List Nat) (status : Nat)
  deriving DecidableEq, Repr

/-- Enter an end into the operation's flight. -/
def State.endOp (s : State) (n : Nat) (x : Ctx) (k : Eng) (f : Flight) : OpEnd → State
  | .done flags status =>
    s.modCtx n x (fun c => c.setFlight k (some { f with started := true, blocked := false, done := true, flags := flags, status := status }))
  | .fault code => s.opFault n x k f.op code
  | .blocked => s.modCtx n x (fun c => c.setFlight k (some { f with started := true, blocked := true }))
  | .waiting ids status =>
    s.modCtx n x (fun c => c.setFlight k
      (some { f with started := true, blocked := false, awaiting := ids, status := status, done := ids.isEmpty }))

/-- Run the operation that stands dispatched in the engine, where it is the one the command names: not done, not suspended
and not waiting for its messages. With no such operation the command finds nothing to do. -/
def State.runOp (s : State) (n : Nat) (x : Ctx) (k : Eng) (opc : Nat) (body : State → Place → Op → State × OpEnd) : State :=
  match (s.ctx n x).flight k with
  | none => s
  | some f =>
    if f.done || f.suspended || f.awaiting ≠ [] || opcodeOf k f.op.word ≠ opc then s
    else
      let r := body s ⟨n, x, f.op.step, f.op.att⟩ f.op
      r.1.endOp n x k f r.2

/-- Run a core operation: the part must have the core. -/
def runCore (n : Nat) (x : Ctx) (k : Eng) (opc : Nat) (body : State → Place → Op → State × OpEnd) (s : State) :
    Host.Outcome State Fault Refusal :=
  if n < Config.cores s.part then .next (s.runOp n x k opc body) else .next s

/-- Register operand i, and descriptor operand i, of an operation as captured at issue (R98). -/
def Op.reg (o : Op) (i : Nat) : Nat := (o.regs.getD i 0).toNat
def Op.desc (o : Op) (i : Nat) : Desc := descOf (o.descs.getD i 0)

/-- Does a range of the context's partition hold the whole region of a descriptor? -/
def State.holds (s : State) (w : Place) (d : Desc) : Bool := s.inPart w.core w.x d.base d.extent

/-- The NB4 table area of a tensor lies in the partition (R42, R111): 16 bytes for each channel that the tensor has. R86 fetches 1 KiB with
each tile; what an edge tile fetches beyond its last channel is read by nothing and is not checked (DESIGN CHOICE, log entry 105). -/
def State.holdsTables (s : State) (w : Place) (d : Desc) : Bool :=
  d.fmt ≠ 11 || d.aux = 0 || s.inPart w.core w.x d.aux (16 * d.channels)

/-- The scale vector of a plain tensor lies in the partition: `n` entries of it (R77). -/
def State.holdsScales (s : State) (w : Place) (d : Desc) (n : Nat) : Bool := s.inPart w.core w.x d.aux (8 * n)

/-- Does an uncorrected error lie in a range of the partition (R69)? -/
def State.badPart (s : State) (w : Place) (off n : Nat) : Bool := s.coreBad (s.partAddr w.core w.x off) n

/-- The NB4 table area of a tensor of the partition reads without an uncorrected error (R69, R86). -/
def State.tablesRead (s : State) (w : Place) (d : Desc) : Bool := d.fmt ≠ 11 || d.aux = 0 || !s.badPart w d.aux (16 * d.channels)

/-- Every record of a tensor, and its NB4 table area, reads without an uncorrected error (R69, R119); an operation that meets one ends with
MEMORY_UC before it writes anything (DESIGN CHOICE, log entry 108). -/
def State.readable (s : State) (w : Place) (d : Desc) : Bool :=
  d.tiles.all (fun ab => !s.badPart w (d.tileOff ab.1 ab.2) d.recSize) && s.tablesRead w d

/-- Deliver the counts of an operation's tensors. -/
def State.countAll (s : State) (w : Place) (ts : List (Nat × Tally)) : State :=
  ts.foldl (fun s t => s.count w t.1 t.2) s

end Sys2Proof.Machine
end

