-- ==== Sys2Proof/Machine/Trans.lean ====
section
/-! DEFINITION. The transcendental functions of R141, R160, R169 and R190, rounded once to FP32. Each value is formed in
fixed point with 640 fraction bits, several hundred more than the rounding needs; where the value is rational the exact
case is taken, and every other value carries the sticky bit, because it is irrational. -/

namespace Sys2Proof.Machine

/-- Fraction bits of the fixed-point forms. -/
def fxBits : Nat := 640
def fxOne : Int := 2 ^ fxBits

def fxMul (a b : Int) : Int := a * b / 2 ^ fxBits
def fxDiv (a b : Int) : Int := a * 2 ^ fxBits / b

/-- A finite value in fixed point, rounded down. -/
def FV.fx : FV → Int
  | .fin n m e =>
    let s := e + fxBits
    let v : Int := if s ≥ 0 then m * 2 ^ s.toNat else m / 2 ^ (-s).toNat
    if n then -v else v
  | _ => 0

/-- Σ of a series whose next term is the last one times x2 over the next divisor. -/
def seriesAux (x2 : Int) (step : Nat → Int) : Nat → Nat → Int → Int → Int
  | 0, _, _, acc => acc
  | k + 1, i, t, acc =>
    if t = 0 then acc else seriesAux x2 step k (i + 1) (fxMul t x2 / step i) (acc + t)

/-- Σ z^(2i+1) / (2i+1), the inverse hyperbolic tangent, for |z| ≤ 1/3. -/
def fxAtanhAux (z2 : Int) : Nat → Nat → Int → Int → Int
  | 0, _, _, acc => acc
  | k + 1, i, p, acc => if p = 0 then acc else fxAtanhAux z2 k (i + 2) (fxMul p z2) (acc + p / i)
def fxAtanh (z : Int) : Int := fxAtanhAux (fxMul z z) 400 1 z 0

def fxLn2 : Int := 2 * fxAtanh (fxOne / 3)

/-- Σ (−1)^i / ((2i+1) n^(2i+1)): the arc tangent of 1/n. -/
def fxAtanInv (n : Int) : Nat → Nat → Int → Int → Int
  | 0, _, _, acc => acc
  | k + 1, i, p, acc =>
    fxAtanInv n k (i + 2) (p / (n * n)) (if i % 4 = 1 then acc + p / i else acc - p / i)
def fxPi : Int := 16 * fxAtanInv 5 300 1 (fxOne / 5) 0 - 4 * fxAtanInv 239 300 1 (fxOne / 239) 0

/-- eˣ in fixed point for |x| below 400. -/
def fxExp (x : Int) : Int :=
  let l := fxLn2
  let k := x / l
  let r := x - k * l
  let s := seriesAux r (fun i => (i : Int) + 1) 300 0 fxOne 0
  if k ≥ 0 then s * 2 ^ k.toNat else s / 2 ^ (-k).toNat

/-- ln of a positive value m × 2^e. -/
def fxLn (m : Nat) (e : Int) : Int :=
  let b := Nat.log2 m
  let f : Int := (m * 2 ^ fxBits : Nat) / (2 ^ b : Nat)
  ((b : Int) + e) * fxLn2 + 2 * fxAtanh (fxDiv (f - fxOne) (f + fxOne))

def fxSqrt (x : Int) : Int := isqrt (x.toNat * 2 ^ fxBits)

/-- Φ(x) for |x| ≤ 16: 1/2 + φ(x) Σ x^(2n+1) / (1·3·…·(2n+1)). -/
def fxPhiDensity (x : Int) : Int := fxDiv (fxExp (-(fxMul x x) / 2)) (fxSqrt (2 * fxPi))
def fxPhi (x : Int) : Int :=
  fxOne / 2 + fxMul (fxPhiDensity x) (seriesAux (fxMul x x) (fun i => 2 * (i : Int) + 3) 1200 0 x 0)

/-- σ(x) for |x| below 400. -/
def fxSigmoid (x : Int) : Int :=
  let e := fxExp (-x.natAbs)
  if x ≥ 0 then fxDiv fxOne (fxOne + e) else fxDiv e (fxOne + e)

/-- tanh x for |x| below 200. -/
def fxTanh (x : Int) : Int :=
  let e := fxExp (-2 * x.natAbs)
  let t := fxDiv (fxOne - e) (fxOne + e)
  if x ≥ 0 then t else -t

/-- The sum of Taylor terms for sine (start 1) and cosine (start 0). -/
def fxTrig (x : Int) (start : Nat) : Int :=
  let x2 := -(fxMul x x)
  seriesAux x2 (fun i => ((2 * i + start + 1) * (2 * i + start + 2) : Nat)) 200 0 (if start = 0 then fxOne else x) 0

/-- The functions with a saved-output derivative, and those of Table 6.9 that are not rational. -/
inductive Fn where
  | relu | gelu | silu | sigmoid | tanh
  deriving DecidableEq, Repr

def Fn.fx : Fn → Int → Int
  | .relu, x => max x 0
  | .gelu, x => fxMul x (fxPhi x)
  | .silu, x => fxMul x (fxSigmoid x)
  | .sigmoid, x => fxSigmoid x
  | .tanh, x => fxTanh x

/-- The derivative (Table 7.5), from the input. -/
def Fn.dfx : Fn → Int → Int
  | .relu, x => if x > 0 then fxOne else 0
  | .gelu, x => fxPhi x + fxMul x (fxPhiDensity x)
  | .silu, x => let g := fxSigmoid x; fxMul g (fxOne + fxMul x (fxOne - g))
  | .sigmoid, x => let g := fxSigmoid x; fxMul g (fxOne - g)
  | .tanh, x => let e := fxExp (-2 * x.natAbs); fxDiv (fxMul (4 * e) fxOne) (fxMul (fxOne + e) (fxOne + e))

/-- Round a fixed-point approximation of an irrational value. -/
def roundFx (v : Int) : Rounded := fp32.round (v < 0) v.natAbs 1 (-(fxBits : Int)) true

/-- A value that is irrational and lies just below, or just above, a rational one. -/
def justBelow (neg : Bool) (m : Nat) (e : Int) : Rounded := fp32.round neg (m * 2 ^ 300 - 1) 1 (e - 300) true
def justAbove (neg : Bool) (m : Nat) (e : Int) : Rounded := fp32.round neg m 1 e true
/-- An irrational value far below the smallest subnormal. -/
def tinyRound (neg : Bool) : Rounded := fp32.round neg 1 1 (-1000) true

/-- Beyond this magnitude the function has reached its limit to within less than any FP32 rounding. -/
def Fn.limit : Fn → Nat
  | .gelu => 16
  | _ => 200

def FV.beyond (v : FV) (n : Nat) : Bool := (FV.fin false n 0).lt v.abs

/-- Function value rounded once to FP32 (R141, R169, Table 7.7). -/
def Fn.round (fn : Fn) (x : FV) : Rounded :=
  match x with
  | .nan _ => ⟨nan32, false, false, false⟩
  | .inf n => match fn with
    | .relu => ⟨if n then 0 else fp32.inf, false, false, false⟩
    | .gelu | .silu => ⟨if n then fp32.sign else fp32.inf, false, false, false⟩
    | .sigmoid => ⟨if n then 0 else 0x3F800000, false, false, false⟩
    | .tanh => ⟨if n then 0xBF800000 else 0x3F800000, false, false, false⟩
  | .fin n m e =>
    match fn with
    | .relu => if n || m = 0 then ⟨0, false, false, false⟩ else fp32.round false m 1 e
    | .sigmoid =>
      if m = 0 then ⟨0x3F000000, false, false, false⟩
      else if x.beyond 200 then (if n then tinyRound false else justBelow false 1 0)
      else roundFx (fxSigmoid x.fx)
    | .tanh =>
      if m = 0 then ⟨fp32.signed n 0, false, false, false⟩
      else if x.beyond 90 then justBelow n 1 0
      else roundFx (fxTanh x.fx)
    | .gelu | .silu =>
      if m = 0 then ⟨fp32.signed n 0, false, false, false⟩
      else if x.beyond fn.limit then (if n then tinyRound true else justBelow false m e)
      else roundFx (fn.fx x.fx)

/-- Derivative at the input, rounded once to FP32 (R169, Table 7.7). -/
def Fn.dround (fn : Fn) (x : FV) : Rounded :=
  match x with
  | .nan _ => ⟨nan32, false, false, false⟩
  | .inf n => match fn with
    | .relu | .gelu | .silu => ⟨if n then 0 else 0x3F800000, false, false, false⟩
    | .sigmoid | .tanh => ⟨0, false, false, false⟩
  | .fin n m _ =>
    match fn with
    | .relu => ⟨if n || m = 0 then 0 else 0x3F800000, false, false, false⟩
    | .sigmoid =>
      if m = 0 then ⟨0x3E800000, false, false, false⟩
      else if x.beyond 200 then tinyRound false else roundFx (fn.dfx x.fx)
    | .tanh =>
      if m = 0 then ⟨0x3F800000, false, false, false⟩
      else if x.beyond 90 then tinyRound false else roundFx (fn.dfx x.fx)
    | .gelu | .silu =>
      if m = 0 then ⟨0x3F000000, false, false, false⟩
      else if x.beyond fn.limit then (if n then tinyRound true else justAbove false 1 0)
      else roundFx (fn.dfx x.fx)

/-- eˣ rounded once (R141). -/
def expRound : FV → Rounded
  | .nan _ => ⟨nan32, false, false, false⟩
  | .inf n => ⟨if n then 0 else fp32.inf, false, false, false⟩
  | .fin n m e =>
    let x : FV := .fin n m e
    if m = 0 then ⟨0x3F800000, false, false, false⟩
    else if x.beyond 200 then (if n then tinyRound false else fp32.round false 1 1 1000 true)
    else roundFx (fxExp x.fx)

/-- ln x rounded once; ±0 gives −∞ (R141). -/
def logRound : FV → Rounded
  | .nan _ => ⟨nan32, false, false, false⟩
  | .inf true => ⟨nan32, false, false, false⟩
  | .inf false => ⟨fp32.inf, false, false, false⟩
  | .fin n m e =>
    if m = 0 then ⟨fp32.signed true fp32.inf, false, false, true⟩
    else if n then ⟨nan32, false, false, false⟩
    else if (FV.fin false m e).eqv .one then ⟨0, false, false, false⟩
    else roundFx (fxLn m e)

/-- Halve [lo, hi] `k` times towards the point where `p` turns from false to true. -/
def bisect (p : Int → Bool) : Nat → Int → Int → Int
  | 0, lo, _ => lo
  | k + 1, lo, hi =>
    let mid := (lo + hi) / 2
    if p mid then bisect p k lo mid else bisect p k mid hi

/-- The minimum point of GELU or SiLU (Table 7.3). -/
def Fn.xmin (fn : Fn) : Int := bisect (fun x => fn.dfx x > 0) (fxBits + 4) (-2 * fxOne) (-fxOne / 2)

/-- The branch bit (R156): is the input above the minimum point? -/
def Fn.branch (fn : Fn) (z : FV) : Bool :=
  match z with
  | .nan _ => false
  | .inf n => !n
  | .fin n m _ => if m = 0 || !n then true else if z.beyond 2 then false else fn.dfx z.fx > 0

/-- The derivative that VDTAB forms from the saved output (R160 to R162), rounded once, and whether it was clamped. -/
def Fn.fromOutput (fn : Fn) (y : FV) (b : Bool) : Rounded × Bool :=
  let none' : Rounded × Bool := (⟨0, false, false, false⟩, true)
  match y with
  | .nan _ => (⟨nan32, false, false, false⟩, false)
  | .inf n => match fn with
    | .relu => (⟨if n then 0 else 0x3F800000, false, false, false⟩, false)
    | .sigmoid => (fp32.roundV (y.mul (FV.one.sub y)), false)
    | .tanh => (fp32.roundV (FV.one.sub (y.mul y)), false)
    | .gelu | .silu => if !n && b then (⟨0x3F800000, false, false, false⟩, false) else none'
  | .fin n m e =>
    match fn with
    | .relu => (⟨if n || m = 0 then 0 else 0x3F800000, false, false, false⟩, false)
    | .sigmoid => (fp32.roundV (y.mul (FV.one.sub y)), false)
    | .tanh => (fp32.roundV (FV.one.sub (y.mul y)), false)
    | .gelu | .silu =>
      if m = 0 then (if b then (⟨0x3F000000, false, false, false⟩, false) else none')
      else if !n && !b then none'
      else if !n && y.beyond (fn.limit + 1) then (justAbove false 1 0, false)
      else if n && y.beyond 1 then none'
      else
        let xm := fn.xmin
        let t := y.fx
        if t ≤ fn.fx xm then none'
        else if b then
          let hi := (if n then 0 else (m * 2 ^ (e + fxBits).toNat : Nat)) + fxOne
          (roundFx (fn.dfx (bisect (fun x => fn.fx x ≥ t) (fxBits + 12) xm hi)), false)
        else
          let lo := -(fn.limit : Int) * fxOne
          (roundFx (fn.dfx (bisect (fun x => fn.fx x ≤ t) (fxBits + 12) lo xm)), false)

/-- √(−2 ln u1) cos(2π u2) with u1 = (a + 1) × 2⁻²⁴ and u2 = k × 2⁻²⁴ (Table 8.6), rounded once. An exact zero is +0. -/
def normalRound (a k : Nat) : Rounded :=
  let q : Nat := k / 2 ^ 22 % 4
  let r : Nat := k % 2 ^ 22
  if a + 1 = 2 ^ 24 || (r = 0 && q % 2 = 1) then ⟨0, false, false, false⟩
  else
    let s := fxSqrt (-2 * fxLn (a + 1) (-24))
    let th := 2 * fxPi * (r : Int) / 2 ^ 24
    let c := if q = 0 then fxTrig th 0 else if q = 1 then -(fxTrig th 1) else if q = 2 then -(fxTrig th 0) else fxTrig th 1
    roundFx (fxMul s c)

end Sys2Proof.Machine
end

