-- ==== Sys2Proof/Machine/Matrix.lean ====
section
/-! DEFINITION. The matrix slot: MZERO, MMUL and MDRAIN (R133 to R139), with the re-run of Table 3.6, Shenos 1 emulation
(R70 to R72), the drain stages of R87 to R89 and the drain functions of R169. -/

namespace Sys2Proof.Machine

/-- Fields of a matrix slot (Table 6.5) and its parameter word (Table 6.6). -/
structure MatOp where
  add : Bool
  ta : Bool
  tb : Bool
  dr : Bool
  acc : Nat
  rtb : Nat
  rten : Bool
  rax : Bool
  dfn : Nat
  count : Nat
  deriving DecidableEq, Repr, Inhabited

def matOp (word : Word) (par : Nat) : MatOp :=
  let v := word.toNat
  { add := bitOf v 26, ta := bitOf v 25, tb := bitOf v 24, dr := bitOf v 23, acc := bitsOf v 12 6, rtb := bitsOf v 0 12,
    rten := bitOf par 39, rax := bitOf par 38, dfn := bitsOf par 32 4, count := bitsOf par 0 7 }

/-- M, K of A, K of B, N under the orientation fields (Table 6.5). -/
def mkn (m : MatOp) (a b : Desc) : Nat × Nat × Nat × Nat :=
  (if m.ta then a.ext1 else a.ext0, if m.ta then a.ext0 else a.ext1, if m.tb then b.ext1 else b.ext0,
   if m.tb then b.ext0 else b.ext1)

/-- MZERO: T tiles at +0 with offset, code sums, re-run count and overflow bit zero (R137). -/
def zeroTiles (s : State) (w : Place) (first n : Nat) : State :=
  (List.range n).foldl (fun s i => s.setAcc w.core (s.accStart w.core w.x + first + i) {}) s

/-! ### Products -/

/-- A whole operand: its elements in rows with TEO applied, the same without it (the codes of a plain format), and what the read of each
tile found, by tile (R40, R46). -/
def State.readTensor (s : State) (w : Place) (d : Desc) : Array (Array FV) × Array (Array FV) × List ((Nat × Nat) × Tally) :=
  let tiles := (d.tiles.map (fun ab => s.readTile w d ab.1 ab.2)).toArray
  let pick (f : Tile → Nat → FV) : Array (Array FV) := (Array.range d.ext0).map (fun i => (Array.range d.ext1).map (fun j =>
    let (a, b, e) := d.find i j
    f (tiles.getD (a * d.tB + b) default) e))
  (pick (fun t e => (t.vals.getD e .zero).scale t.head.teo), pick (fun t e => t.vals.getD e .zero),
   d.tiles.zip (tiles.toList.map Tile.tally))

/-- The reads of an operand: one record for each malformed tile, and the counts of its tiles (R40), once for the operand and operation however
often its output tiles and their re-runs use a tile (DESIGN CHOICE, log entry 133). -/
def State.readCounts (s : State) (w : Place) (d : Desc) (ts : List ((Nat × Nat) × Tally)) : State :=
  ts.foldl (fun s t => s.readCount w d t.1.1 t.1.2 t.2) s

/-- Row m of A over k, or column n of B over k: the element along the free axis and along the reduction axis. -/
def along (rows : Array (Array FV)) (swap : Bool) (free k : Nat) : FV :=
  if swap then (rows.getD k #[]).getD free .zero else (rows.getD free #[]).getD k .zero

/-- Sum of codes over the reduction index (R87). -/
def codeSum (rows : Array (Array FV)) (swap : Bool) (free kk : Nat) : Int :=
  (List.range kk).foldl (fun a k => a + (along rows swap free k).scaled 0) 0

/-- One attempt at a tile with offset t0 + k (Table 3.6): the elements, flags, overflow from finite inputs. `plain` says that both operands
are plain integers. -/
def attempt (emu plain : Bool) (rowA colB : Nat → List FV) (old : AccTile) (add : Bool) (t0 k : Int) : Table Word × Byte × Bool :=
  let as := (Array.range 64).map rowA
  let bs := (Array.range 64).map colB
  let out := (List.range 4096).map (fun e =>
    let ra := as.getD (e / 64) []
    let cb := bs.getD (e % 64) []
    let ps := (ra.zip cb).map (fun p => if plain then (prodOf p.1 p.2 (t0 + k)).integer else prodOf p.1 p.2 (t0 + k))
    let pf := (ra.zip cb).foldl (fun f p => f ||| prodFlags p.1 p.2) 0
    let b0 := f32 (Table.read 0 e old.elems)
    let rb := if k = 0 || !b0.isFin then (⟨(Table.read 0 e old.elems).toNat, false, false, false⟩ : Rounded) else fp32.roundV (b0.scale (-k))
    let base := if add then some (fp32.decode rb.bits) else none
    let r := reduceElem emu ps base
    let bits : Word := BitVec.ofNat 32 (match r.v with | .nan p => if emu then p else nan32 | v => (fp32.roundV v).bits)
    (e, bits, r.flags ||| pf ||| (if add then b0.inFlags ||| rb.flags else 0), r.ovf))
  (out.filterMap (fun x => if x.2.1 = 0 then none else some (x.1, x.2.1)),
   out.foldl (fun f x => f ||| x.2.2.1) 0, out.any (fun x => x.2.2.2))

/-- Try the attempts in order, each from the before-image; the last one made is kept with its infinities (R66, R67), and with the NaN of an
element whose chunk sums are infinities of both signs (Table 3.3 rule 3; DESIGN CHOICE, log entry 134). The number counts the re-runs. -/
def attempts (emu plain : Bool) (rowA colB : Nat → List FV) (old : AccTile) (add : Bool) (t0 : Int) (n : Nat) :
    List Int → Table Word × Byte × Bool × Int × Nat
  | [] => (old.elems, 0, false, t0, n)
  | [k] => let (es, f, o) := attempt emu plain rowA colB old add t0 k; (es, f, o, t0 + k, n)
  | k :: ks =>
    let (es, f, o) := attempt emu plain rowA colB old add t0 k
    if o then attempts emu plain rowA colB old add t0 (n + 1) ks else (es, f, o, t0 + k, n)

/-- The product of one output tile into an accumulator tile (R58, R66 to R68, R87), with its flags. A tile of a backward product re-runs by its
own offset too, whatever R166 says of equal headers (DESIGN CHOICE, log entry 134). OVW starts the counts of R68 again, and
with them those that no drain has delivered (DESIGN CHOICE, log entry 103). -/
def productTile (emu : Bool) (rowA colB : Nat → List FV) (sumA sumB : Nat → Int) (plain : Bool) (kk : Nat) (add : Bool)
    (old : AccTile) : AccTile × Byte :=
  let old : AccTile := if add then old else {}
  let ks : List Int := 0 :: (if emu then [] else [8, 16, 32, 64].filter (fun k => old.off + k ≤ 127))
  let (es, f, o, t, n) := attempts emu plain rowA colB old add old.off 0 ks
  let sums (q : Table Int) (g : Nat → Int) : Table Int :=
    if plain then (List.range 64).foldl (fun q i => Table.modify 0 i (fun v => v + g i) q) q else q
  ({ elems := es, off := t, reruns := min 4 (old.reruns + n), ovf := old.ovf || o,
     due := old.due + n, ovfDue := old.ovfDue || (o && !old.ovf), k := old.k + kk,
     qa := sums old.qa sumA, qb := sums old.qb sumB },
   f ||| Byte.when flagAccOvf o)

/-- MMUL without its drain: every output tile (R134, R135). Code sums are formed where both operands are plain integers (R87; DEDUCED, log
entry 98). -/
def mmulTiles (s : State) (w : Place) (m : MatOp) (da db : Desc) : State × Byte :=
  let emu := (s.ctx w.core w.x).emulate
  let (M, K, _, N) := mkn m da db
  let (av, ac, tA) := s.readTensor w da
  let (bv, bc, tB) := s.readTensor w db
  let plain := isPlain da.fmt && isPlain db.fmt
  let inF (rows : Array (Array FV)) : Byte := rows.foldl (fun f r => r.foldl (fun f v => f ||| v.inFlags) f) 0
  let flags := (Tally.sum (tA.map (·.2))).flags ||| (Tally.sum (tB.map (·.2))).flags ||| inF av ||| inF bv
  let s := (s.readCounts w da tA).readCounts w db tB
  let col := ceilDiv N 64
  let base := s.accStart w.core w.x + m.acc
  let ks := List.range K
  (List.range (ceilDiv M 64 * col)).foldl (fun (acc : State × Byte) t =>
    let i := t / col
    let j := t % col
    let rowA (r : Nat) : List FV := ks.map (fun k => if 64 * i + r < M then along av m.ta (64 * i + r) k else .zero)
    let colB (c : Nat) : List FV := ks.map (fun k => if 64 * j + c < N then along bv (!m.tb) (64 * j + c) k else .zero)
    let sumA (r : Nat) : Int := if plain && 64 * i + r < M then codeSum ac m.ta (64 * i + r) K else 0
    let sumB (c : Nat) : Int := if plain && 64 * j + c < N then codeSum bc (!m.tb) (64 * j + c) K else 0
    let (tile, f) := productTile emu rowA colB sumA sumB plain K m.add (acc.1.acc w.core (base + t))
    (acc.1.setAcc w.core (base + t) tile, acc.2 ||| f)) (s, flags)

/-! ### The drain -/

/-- A stage result: its value at the stored scale × 2^t, its flags, and whether the stage made an infinity from finite terms. -/
structure Staged where
  v : FV
  flags : Byte
  made : Bool
  deriving DecidableEq, Repr, Inhabited

/-- Round a true value once, at the stored scale (R89). A NaN that a stage forms is the canonical NaN, in emulation too: R72 speaks of the
chunk sum, step 5, the tree and the narrowing alone (DESIGN CHOICE, log entry 104). -/
def roundTrue (t : Int) (v : FV) : Staged :=
  let r := fp32.roundV (v.scale (-t))
  ⟨(fp32.decode r.bits).scale t, r.flagsOvf, r.ovf⟩

/-- How the operands pair for the operand-scale stage (R87, R88). -/
inductive Pairing where
  | both | left | right | none
  deriving DecidableEq, Repr

def pairing (a b : Desc) : Pairing :=
  if isPlain a.fmt && isPlain b.fmt then .both
  else if isPlain a.fmt then .left
  else if isPlain b.fmt then .right
  else .none

/-- Operand-scale stage for one element with true value v (R87, R88). -/
def operandStage (p : Pairing) (t : Int) (ea eb : FV × FV) (qa qb : Int) (k : Nat) (v : FV) : Staged :=
  match p with
  | .none => ⟨v, 0, false⟩
  | .left => let r := roundTrue t (ea.1.mul v); { r with flags := r.flags ||| ea.1.inFlags ||| ea.2.inFlags }
  | .right => let r := roundTrue t (eb.1.mul v); { r with flags := r.flags ||| eb.1.inFlags ||| eb.2.inFlags }
  | .both =>
    let x := (((ea.1.mul eb.1).mul v).add ((ea.1.mul eb.2).mul (.ofInt qa 0))).add ((ea.2.mul eb.1).mul (.ofInt qb 0))
    let r := roundTrue t (x.add ((ea.2.mul eb.2).mul (.ofInt k 0)))
    { r with flags := r.flags ||| ea.1.inFlags ||| ea.2.inFlags ||| eb.1.inFlags ||| eb.2.inFlags }

/-- Drain function codes (Table 7.6): the function, and whether the derivative goes to DD + 1. -/
def drainFn (dfn : Nat) : Option (Fn × Bool) :=
  if dfn % 8 = 1 then some (.relu, dfn = 9)
  else if dfn % 8 = 2 then some (.gelu, dfn = 10)
  else if dfn % 8 = 3 then some (.silu, dfn = 11)
  else if dfn % 8 = 4 then some (.sigmoid, dfn = 12)
  else if dfn % 8 = 5 then some (.tanh, dfn = 13)
  else none

/-- Convert a drained FP32 value into the output format; a stage-made infinity passes with no INF_IN (R89), and in
emulation a NaN keeps its upper bits (R72). -/
def drainConvert (emu : Bool) (fmt : Nat) (x : Staged) : Nat × Tally :=
  let f := fmtOf fmt
  let (bits, t) := f.convert x.v
  let bits := match x.v with
    | .nan p => if emu then (if fmt = 0 then p else if fmt = 1 then p / 2 ^ 16 else bitsOf p 31 1 * 2 ^ 15 + 0x7C00 + bitsOf p 13 10) else bits
    | _ => bits
  (bits, (t.plus (Tally.element (f.decode bits))).plus { flags := x.flags } |>
    fun (u : Tally) => if x.made then { u with flags := u.flags &&& ~~~flagInfIn ||| (x.flags &&& flagInfIn) } else u)

/-- Write one drained tile of a floating-point tensor from its elements in element order. -/
def State.writeDrained (s : State) (w : Place) (emu : Bool) (d : Desc) (a b : Nat) (head : TileHead) (xs : Nat → Staged) :
    State × Tally :=
  let done := (List.range 4096).map (fun e => if d.inside a b e then drainConvert emu d.fmt (xs e) else (0, {}))
  let t := Tally.sum (done.map (·.2))
  let head := { head with nonfin := t.c.nonfin > 0 }
  (s.partWrite w (d.tileOff a b) (head.bytes ++ packCodes d.fmt (done.map (·.1))), t)

/-- One output element before conversion: stages, then the drain function (R89, R169). -/
def drainElem (s : State) (w : Place) (m : MatOp) (da db : Desc) (tile : AccTile) (mm nn : Nat) : Staged :=
  let e := mm % 64 * 64 + nn % 64
  let v := (f32 (Table.read 0 e tile.elems)).scale tile.off
  let x := operandStage (pairing da db) tile.off (s.scaleOf w da mm) (s.scaleOf w db nn)
    (Table.read 0 (mm % 64) tile.qa) (Table.read 0 (nn % 64) tile.qb) tile.k v
  if m.rten then
    let c := if m.rax then mm else nn
    let rb := entryParts (s.rescaleEntry w.core (s.scaleStart w.core w.x + m.rtb + c))
    let r := roundTrue tile.off ((x.v.mul rb.1).add rb.2)
    { v := r.v, flags := x.flags ||| r.flags ||| rb.1.inFlags ||| rb.2.inFlags, made := r.made || (x.made && r.v.isInf) }
  else x

/-- f(w) or f′(w) rounded once to FP32 (R169); an infinite w sets INF_IN, one that a stage made too (R170). The conversion that follows is
that of R29, which sets INF_IN for an infinity. -/
def drainFnElem (f : Rounded) (x : Staged) : Staged :=
  ⟨fp32.decode f.bits, x.flags ||| f.flagsOvf ||| Byte.when flagInfIn x.v.isInf, false⟩

/-- The tile once its counts have been delivered against an output tensor (R68). -/
def State.accCounted (s : State) (w : Place) (i : Nat) (tile : AccTile) : State :=
  if tile.due = 0 && !tile.ovfDue then s else s.setAcc w.core i { tile with due := 0, ovfDue := false }

/-- Drain the tiles of DD (R136, R138, R169). -/
def drainTiles (s : State) (w : Place) (m : MatOp) (da db dd de : Desc) : State × Byte :=
  let emu := (s.ctx w.core w.x).emulate
  let base := s.accStart w.core w.x + m.acc
  dd.tiles.foldl (fun (acc : State × Byte) ab =>
    let s := acc.1
    let at' := base + ab.1 * dd.tB + ab.2
    let tile := s.acc w.core at'
    let s := s.accCounted w at' tile
    let elems := (Array.range 4096).map (fun e =>
      let ij := dd.at ab.1 ab.2 (e / 64) (e % 64)
      if dd.inside ab.1 ab.2 e then drainElem s w m da db tile ij.1 ij.2 else ⟨.zero, 0, false⟩)
    let head : TileHead := { teo := tile.off, reruns := tile.reruns, accOvf := tile.ovf }
    let extra : Tally := { c := { reruns := tile.due, accovf := bit01 tile.ovfDue } }
    match drainFn m.dfn with
    | none =>
      let xs (e : Nat) : Staged := let x := elems.getD e ⟨.zero, 0, false⟩; { x with v := x.v.scale (-tile.off) }
      let (s, t) := s.writeDrained w emu dd ab.1 ab.2 head xs
      (s.count w dd.tid (t.plus extra), acc.2 ||| t.flags)
    | some (f, deriv) =>
      let h := { head with teo := 0 }
      let out (g : Fn → FV → Rounded) (e : Nat) : Staged := let x := elems.getD e ⟨.zero, 0, false⟩; drainFnElem (g f x.v) x
      let (s, t) := s.writeDrained w emu dd ab.1 ab.2 h (out Fn.round)
      let s := s.count w dd.tid (t.plus extra)
      if deriv then
        let r := de
        let ys (e : Nat) : Staged :=
          let ij := r.at ab.1 ab.2 (e / 64) (e % 64)
          out Fn.dround (dd.find ij.1 ij.2).2.2
        let (s, u) := s.writeDrained w emu r ab.1 ab.2 h ys
        ((s.count w r.tid u).bump 0x3260 3 1, acc.2 ||| t.flags ||| u.flags)
      else (s, acc.2 ||| t.flags)) (s, 0)

/-- Does the drain yield a derivative through DD + 1? -/
def MatOp.deriv (m : MatOp) : Bool := 9 ≤ m.dfn && m.dfn ≤ 13

/-- The regions that the operation reads or writes lie in the partition (R111). -/
def drainFits (s : State) (w : Place) (m : MatOp) (dd de : Desc) : Bool := s.holds w dd && (!m.deriv || s.holds w de)

/-! ### The three commands -/

/-- MZERO (R137). -/
def mzeroBody (s : State) (w : Place) (o : Op) : State × OpEnd :=
  let m := matOp o.word (o.reg 0)
  (zeroTiles s w m.acc m.count, .done 0 0)

def execMzero (n : Nat) (x : Ctx) (s : State) : Host.Outcome State Fault Refusal := runCore n x .matrix 1 mzeroBody s

/-- MMUL, with its drain where DR = 1 (R134 to R136). -/
def mmulBody (s : State) (w : Place) (o : Op) : State × OpEnd :=
  let m := matOp o.word (o.reg 0)
  let da := o.desc 0
  let db := o.desc 1
  if !(s.holds w da && s.holds w db && s.holdsTables w da && s.holdsTables w db && (!m.dr || drainFits s w m (o.desc 2) (o.desc 3)))
  then (s, .fault fAccess)
  else if !(s.readable w da && s.readable w db) then (s, .fault fMemoryUc)
  else
    let (s, f) := mmulTiles s w m da db
    if m.dr then let (s, g) := drainTiles s w m da db (o.desc 2) (o.desc 3); (s, .done (f ||| g) 0)
    else (s, .done f 0)

def execMmul (n : Nat) (x : Ctx) (s : State) : Host.Outcome State Fault Refusal := runCore n x .matrix 2 mmulBody s

/-- MDRAIN (R136). -/
def mdrainBody (s : State) (w : Place) (o : Op) : State × OpEnd :=
  let m := matOp o.word (o.reg 0)
  if !drainFits s w m (o.desc 2) (o.desc 3) then (s, .fault fAccess)
  else let (s, f) := drainTiles s w m (o.desc 0) (o.desc 1) (o.desc 2) (o.desc 3); (s, .done f 0)

def execMdrain (n : Nat) (x : Ctx) (s : State) : Host.Outcome State Fault Refusal := runCore n x .matrix 3 mdrainBody s

end Sys2Proof.Machine
end

