-- ==== Sys2Proof/Machine/Steps.lean ====
section
/-! DEFINITION. Step bookkeeping that slots and exchange share: which steps are closed, open or begun, their attempts, loss scales and
weight versions (R183, R184, R200, R208, R210, R211, R224). Step numbers wrap at 2³² and are compared by their difference. -/

namespace Sys2Proof.Machine

/-- a − b over 32-bit step numbers, signed. -/
def stepDiff (a b : Nat) : Int := signedOf 32 (a % 2 ^ 32 + (2 ^ 32 - b % 2 ^ 32))

/-- k steps before or after a step. -/
def stepAdd (a : Nat) (k : Int) : Nat := patternOf 32 ((a : Int) + k)

/-- Rank of a step: (x − FIRST_STEP + 1) mod 2³² (Table 14.5). -/
def Group.rankOf (g : Group) (k : Nat) : Nat := (k % 2 ^ 32 + (2 ^ 32 - g.firstStep % 2 ^ 32) + 1) % 2 ^ 32

/-- The step's outcome has reached the package (R220, R243). -/
def State.stepClosed (s : State) (k : Nat) : Bool :=
  (s.group.state == .active || s.group.state == .stalled) && stepDiff k s.group.exchStep < 0

/-- Attempt number of a step (R213, R243). -/
def State.attOf (s : State) (k : Nat) : Nat := Table.read 0 (k % 2 ^ 32) s.group.atts

/-- Name of the current attempt of a step, for a RESHARD, which names no step itself (R297). -/
def State.attemptTag (s : State) (step : Nat) : Nat := step % 2 ^ 32 * 2 ^ 32 + s.attOf step

/-- The exchange of the step has begun (Table 9.4). -/
def State.exchBegun (s : State) (k : Nat) : Bool := s.group.state == .active && stepDiff k s.group.exchStep ≤ 0

/-- The step's doorbell has reached the package (Table 14.5). -/
def State.doorbell (s : State) (k : Nat) : Bool :=
  1 ≤ s.group.rankOf k && s.group.rankOf k ≤ s.group.rankOf s.group.stepLimit

/-- VDELAY of a slot (Table 9.1). -/
def State.vdelay (s : State) (slot : Nat) : Nat := s.obj (0x7100 + slot) 11

/-- The step is open in the slot (R208). -/
def State.stepOpen (s : State) (slot k : Nat) : Bool :=
  s.group.state == .active && s.doorbell k && !s.stepClosed k && stepDiff k s.group.exchStep ≤ s.vdelay slot

/-- The open steps of a slot, lowest first: at most VDELAY + 1 (R208). -/
def State.openSteps (s : State) (slot : Nat) : List Nat :=
  ((List.range (s.vdelay slot + 1)).map (fun i => stepAdd s.group.exchStep i)).filter (s.stepOpen slot)

/-- The loss-scale exponent L: that of the group, and LS_INIT_EXP while there is none, as LS_EXP reads (R183, Table 8.3; DESIGN CHOICE, log
entry 107). -/
def State.lossNow (s : State) : Int :=
  if s.group.state = .active || s.group.state = .stalled then s.group.lossExp else s.objInt 0x7300 2

/-- Loss-scale exponent of a step, every earlier open step taken as ending in Feast (R183, R208, Table 8.2). -/
def State.lossFor (s : State) (k : Nat) : Int :=
  let d := stepDiff k s.group.exchStep
  if d ≤ 0 || (s.group.state ≠ .active && s.group.state ≠ .stalled) then s.lossNow
  else max s.group.lossExp (min s.group.lsMax (s.group.lossExp + (s.group.clean + d.toNat) / max 1 s.group.lsGrowth))

/-- Weight version that a step uses in a slot: the one current after the outcome of step k − VDELAY − 1 (R210, R220). -/
def State.versionOf (s : State) (slot k : Nat) : Nat :=
  let d := s.vdelay slot
  if s.group.rankOf k ≤ d + 1 then 0
  else Table.read s.group.version (stepAdd k (-(d + 1 : Int))) s.group.verAfter

/-- LSEXP, VTAG and ATT of the micro-batch word as a slot holds them for a step, as bits (Table 9.2). -/
def State.wordFields (s : State) (slot k : Nat) : Nat :=
  patternOf 8 (s.lossFor k) * 2 ^ 24 + s.versionOf slot k % 4 * 2 ^ 21 + s.attOf k % 16 * 2 ^ 14

end Sys2Proof.Machine
end

