-- ==== Sys2Proof/Machine/Vector.lean ====
section
/-! DEFINITION. The vector slot (R140 to R141, R447, R448, R78 to R82, R159 to R162, R176 to R190): scans, encodes, conversions, the
element-wise functions, derivatives, reductions, the optimiser step and CG-10. -/

namespace Sys2Proof.Machine

/-- Fields of a vector slot (Table 6.7). -/
def vecFn (w : Word) : Nat := bitsOf w.toNat 0 5
/-- The 48-bit offset of a parameter word. -/
def par48 (p : Nat) : Nat := p % 2 ^ 48

/-- Every region a vector operation reads or writes for a tensor lies in the partition (R111). -/
def State.fits (s : State) (w : Place) (d : Desc) : Bool := s.holds w d && s.holdsTables w d

/-- What one pass forms from its inputs: the elements in the destination's element order, the flags they raise, the
tallies of the sources, the bytes of a branch plane with their offset, and the flags that the conversion of an element does not set again
(R141, R448). -/
structure Pass where
  vals : Array FV
  flags : Byte := 0
  srcs : List (Desc × Tally) := []
  plane : Option (Nat × List Byte) := none
  mask : Nat → Byte := fun _ => 0

/-- Pass by pass (R112): for each tile of the destination, form its elements from the sources as they stand, then write it. -/
def State.mapTiles (s : State) (w : Place) (d : Desc) (escq : Nat) (f : State → Nat → Nat → Pass) : State × Byte :=
  d.tiles.foldl (fun (acc : State × Byte) ab =>
    let r := f acc.1 ab.1 ab.2
    let p := acc.1.writeTile w d ab.1 ab.2 escq {} r.vals r.mask
    let s := match r.plane with
      | some e => p.1.partWrite w e.1 e.2
      | none => p.1
    let s := s.count w d.tid p.2
    let s := r.srcs.foldl (fun s t => s.readCount w t.1 ab.1 ab.2 t.2) s
    (s, acc.2 ||| r.flags ||| p.2.flags)) (s, 0)

/-- VENC and VCVT: the widened source converted into the destination's format (R36, R82, R29). -/
def convertTensor (s : State) (w : Place) (dx dy : Desc) (escq : Nat) : State × Byte :=
  s.mapTiles w dy escq (fun s a b =>
    let (vs, t) := s.widenTile w dx a b
    { vals := reorder dx dy vs, flags := t.flags, srcs := [(dx, t)] })

/-- Write the scale vector of a plain tensor, one entry for each channel (R77). With SCM = 0 every channel has the one entry. -/
def State.storeScales (s : State) (w : Place) (d : Desc) : State :=
  (List.range d.channels).foldl (fun s c =>
    s.partWrite w (d.aux + 8 * c) (leBytes 8 (s.srfEntry w.core (s.scaleStart w.core w.x + d.srfb + if d.scm then c else 0)).toNat)) s

/-- VENC (R36, R82 to R85). R77 has the encode write the entries and the scale vector, and Table 6.8 lists the entries of a plain DY among what
VENC reads: VENC encodes by the entries as they stand, derived by a scan or written by VLDS, and writes the scale vector alone (DESIGN
CHOICE, log entry 106). -/
def vencBody (s : State) (w : Place) (o : Op) : State × OpEnd :=
  let dx := o.desc 0
  let dy := o.desc 1
  if !(s.fits w dx && s.fits w dy && (!isPlain dy.fmt || s.holdsScales w dy dy.channels)) then (s, .fault fAccess)
  else if !(s.readable w dx && s.tablesRead w dy) then (s, .fault fMemoryUc)
  else
    let (s, f) := convertTensor s w dx dy (vecFn o.word % 4)
    (if isPlain dy.fmt then s.storeScales w dy else s, .done f 0)

def execVenc (n : Nat) (x : Ctx) (s : State) : Host.Outcome State Fault Refusal := runCore n x .vector 2 vencBody s

/-- VCVT (Table 6.8). -/
def vcvtBody (s : State) (w : Place) (o : Op) : State × OpEnd :=
  let dx := o.desc 0
  let dy := o.desc 1
  if !(s.fits w dx && s.fits w dy) then (s, .fault fAccess)
  else if !(s.readable w dx && s.tablesRead w dy) then (s, .fault fMemoryUc)
  else let (s, f) := convertTensor s w dx dy 0; (s, .done f 0)

def execVcvt (n : Nat) (x : Ctx) (s : State) : Host.Outcome State Fault Refusal := runCore n x .vector 3 vcvtBody s

/-! ### VSCAN (R78 to R81) -/

/-- Take the elements of one tile of DX into the records of its channels. -/
def scanTile (d : Desc) (a b : Nat) (vs : Array FV) (rs : Array ScanRec) : Array ScanRec :=
  (List.range 4096).foldl (fun (rs : Array ScanRec) e =>
    if d.inside a b e then
      let c := d.channel a b (e / 64)
      rs.setIfInBounds c ((rs.getD c {}).add (vs.getD e .zero))
    else rs) rs

/-- The last tile, in tile order, of the channels that tile (a, b) holds: their records are complete after its pass. -/
def Desc.lastOfChannels (d : Desc) (a b : Nat) : Bool := if d.baxis then b + 1 = d.tB else a + 1 = d.tA

/-- Pass by pass over the tiles of DX (R112): read one, and after the last tile of its channels write their records before the next read. The
malformed tiles are recorded (R40); their elements count with the scan's own (R80). -/
def scanTensor (s : State) (w : Place) (d : Desc) (off : Nat) : State × Array ScanRec :=
  d.tiles.foldl (fun (acc : State × Array ScanRec) ab =>
    let r := acc.1.widenTile w d ab.1 ab.2
    let rs := scanTile d ab.1 ab.2 r.1 acc.2
    let s := acc.1.badTile w (d.tileOff ab.1 ab.2) r.2
    let first := d.channel ab.1 ab.2 0
    let bytes := ((List.range (min 64 (d.channels - first))).map (fun l => rs.getD (first + l) {})).flatMap ScanRec.bytes
    (if d.lastOfChannels ab.1 ab.2 then s.partWrite w (off + 32 * first) bytes else s, rs)) (s, Array.replicate d.channels {})

/-- What the watch counts of a scan (R80, R191). -/
def scanTally (rs : Array ScanRec) : Tally :=
  Tally.sum (rs.toList.map (fun r => { c := { elems := r.finite + r.nonfin, zeros := r.zeros, nonfin := r.nonfin } }))

/-- Derive entries from merged records into DY's window entries (R80, R81), with the events counted against DY. -/
def deriveEntries (s : State) (w : Place) (dy : Desc) (rs : List ScanRec) : State :=
  let rs := if dy.scm then rs else [rs.foldl ScanRec.merge {}]
  let one (s : State) (p : ScanRec × Nat) : State :=
    let (v, const, floor) := deriveEntry dy.fmt dy.zp p.1
    (s.setSrf w.core (s.scaleStart w.core w.x + dy.srfb + p.2) v).count w dy.tid { constCh := bit01 const, floors := bit01 floor }
  rs.zipIdx.foldl one s

/-- VSCAN (R78 to R81). -/
def vscanBody (s : State) (w : Place) (o : Op) : State × OpEnd :=
  let dx := o.desc 0
  let off := par48 (o.reg 0)
  if !(s.fits w dx && s.inPart w.core w.x off (32 * dx.channels)) then (s, .fault fAccess)
  else if !s.readable w dx then (s, .fault fMemoryUc)
  else
    let (s, rs) := scanTensor s w dx off
    let s := s.count w dx.tid (scanTally rs)
    (if vecFn o.word % 2 = 1 then deriveEntries s w (o.desc 1) rs.toList else s, .done 0 0)

def execVscan (n : Nat) (x : Ctx) (s : State) : Host.Outcome State Fault Refusal := runCore n x .vector 1 vscanBody s

/-! ### VLDS and VLDR -/

/-- VLDS: the scale vector at DX.AUX into the entries, bits unchanged (R77). -/
def vldsBody (s : State) (w : Place) (o : Op) : State × OpEnd :=
  let d := o.desc 0
  if !s.holdsScales w d d.entries then (s, .fault fAccess)
  else if s.badPart w d.aux (8 * d.entries) then (s, .fault fMemoryUc)
  else ((List.range d.entries).foldl (fun s i =>
      s.setSrf w.core (s.scaleStart w.core w.x + d.srfb + i) (BitVec.ofNat 64 (leNat (s.partRead w (d.aux + 8 * i) 8)))) s,
    .done 0 0)

def execVlds (n : Nat) (x : Ctx) (s : State) : Host.Outcome State Fault Refusal := runCore n x .vector 4 vldsBody s

/-- VLDR: a vector of 64-bit entries into the rescale window (Table 6.8). -/
def vldrBody (s : State) (w : Place) (o : Op) : State × OpEnd :=
  let off := par48 (o.reg 0)
  let first := bitsOf (o.reg 0) 52 12
  let count := bitsOf (o.reg 1) 0 13
  if !s.inPart w.core w.x off (8 * count) then (s, .fault fAccess)
  else if s.badPart w off (8 * count) then (s, .fault fMemoryUc)
  else ((List.range count).foldl (fun s i =>
      s.setRescale w.core (s.scaleStart w.core w.x + first + i) (BitVec.ofNat 64 (leNat (s.partRead w (off + 8 * i) 8)))) s,
    .done 0 0)

def execVldr (n : Nat) (x : Ctx) (s : State) : Host.Outcome State Fault Refusal := runCore n x .vector 5 vldrBody s

/-! ### VEW (R141, Table 6.9) -/

/-- The function code of a saved-output function (Tables 6.9, 7.5). -/
def fnOf (fn : Nat) : Option Fn :=
  if fn = 7 then some .relu else if fn = 8 then some .gelu else if fn = 9 then some .silu else if fn = 10 then some .sigmoid
  else if fn = 11 then some .tanh else none

/-- MAX and MIN: a NaN gives the canonical NaN, and −0 lies below +0 (R141). -/
def maxMin (hi : Bool) (x z : FV) : FV :=
  if x.isNan || z.isNan then .canon
  else
    let less := x.lt z || (x.isZero && z.isZero && x.neg && !z.neg)
    if less = hi then z else x

/-- The exact value of a function, rounded once to FP32 (Table 6.9). -/
def ewValue (fn : Nat) (x z c : FV) : Rounded :=
  match fnOf fn with
  | some f => f.round x
  | none =>
    if fn = 0 then fp32.roundV x
    else if fn = 1 then fp32.roundV (x.add z)
    else if fn = 2 then fp32.roundV (x.sub z)
    else if fn = 3 then fp32.roundV (x.mul z)
    else if fn = 4 then fp32.roundV (maxMin true x z)
    else if fn = 5 then fp32.roundV (maxMin false x z)
    else if fn = 6 then fp32.roundV (x.mul c)
    else if fn = 12 then expRound x
    else if fn = 13 then logRound x
    else if fn = 14 then divRound .one x
    else if fn = 15 then sqrtRound x
    else rsqrtRound x

/-- Is the function binary, with DZ as its second source? -/
def ewBinary (fn : Nat) : Bool := 1 ≤ fn && fn ≤ 5
/-- Does the operation write a branch plane (Table 6.9, R158)? -/
def ewBranch (fn par : Nat) : Bool := (fn = 8 || fn = 9) && bitOf par 32

/-- Bytes from a plane offset to the end of a tensor's branch plane (R157). -/
def planeExtent (d : Desc) : Nat := ((d.tA - 1) * d.ts + d.tB) * 512

/-- The 512 bytes of a tile's branch plane (R156, R157), from inputs in the tensor's element order. -/
def planeBytes (d : Desc) (a b : Nat) (f : Fn) (xs : Array FV) : List Byte :=
  (List.range 512).map (fun i => BitVec.ofNat 8 (((List.range 8).map (fun j =>
    if d.inside a b (8 * i + j) && f.branch (xs.getD (8 * i + j) .zero) then 2 ^ j else 0)).sum))

/-- One pass of VEW: elements in DY's order with the flags they raise. An infinity made from finite inputs passes the conversion with no
INF_IN (R141). An element that the widening of R46 made infinite is an infinite input here, and of VRED (DESIGN CHOICE, log entry 50). -/
def ewTile (s : State) (w : Place) (fn : Nat) (c : FV) (dx dy dz : Desc) (br : Bool) (plane a b : Nat) : Pass :=
  let (xv, tx) := s.widenTile w dx a b
  let (zv, tz) := if ewBinary fn then s.widenTile w dz a b else (#[], {})
  let xs := reorder dx dy xv
  let zs := reorder dz dy zv
  let zOf (e : Nat) : FV := if ewBinary fn then zs.getD e .zero else .zero
  let fin (e : Nat) : Bool := (xs.getD e .zero).isFin && (zOf e).isFin && (fn ≠ 6 || c.isFin)
  let out := (List.range 4096).foldl (fun (acc : Array FV × Byte) e =>
    if !dy.inside a b e then (acc.1.push .zero, acc.2)
    else
      let r := ewValue fn (xs.getD e .zero) (zOf e) c
      (acc.1.push (fp32.decode r.bits),
       acc.2 ||| r.flags ||| Byte.when flagAccOvf (fin e && (fp32.decode r.bits).isInf))) (#[], 0)
  { vals := out.1, flags := out.2 ||| tx.flags ||| tz.flags ||| Byte.when c.inFlags (fn = 6),
    srcs := (dx, tx) :: (if ewBinary fn then [(dz, tz)] else []),
    plane := match br, fnOf fn with
      | true, some g => some (plane + (a * dy.ts + b) * 512, planeBytes dy a b g xs)
      | _, _ => none
    mask := fun e => Byte.when flagInfIn (fin e && (out.1.getD e .zero).isInf) }

/-- VEW (R141, R156 to R158). -/
def vewBody (s : State) (w : Place) (o : Op) : State × OpEnd :=
  let fn := vecFn o.word
  let par := o.reg 0
  let dx := o.desc 0
  let dy := o.desc 1
  let dz := o.desc 2
  let br := ewBranch fn par
  let plane := par48 (o.reg 1)
  if !(s.fits w dx && s.fits w dy && (!ewBinary fn || s.fits w dz) && (!br || s.inPart w.core w.x plane (planeExtent dy)))
  then (s, .fault fAccess)
  else if !(s.readable w dx && s.tablesRead w dy && (!ewBinary fn || s.readable w dz)) then (s, .fault fMemoryUc)
  else
    let c := fp32.decode (par % 2 ^ 32)
    let (s, f) := s.mapTiles w dy 0 (fun s a b => ewTile s w fn c dx dy dz br plane a b)
    (s, .done f 0)

def execVew (n : Nat) (x : Ctx) (s : State) : Host.Outcome State Fault Refusal := runCore n x .vector 6 vewBody s

/-! ### VDTAB (R159 to R162) -/

/-- One pass: gy times the derivative from the saved output, and the clamps. -/
def dtabTile (s : State) (w : Place) (f : Fn) (plane : Nat) (dx dy dz : Desc) (a b : Nat) : Pass :=
  let (yv, ty) := s.widenTile w dx a b
  let (gv, tg) := s.widenTile w dz a b
  let bits := if f = .gelu || f = .silu then (s.partRead w (plane + (a * dx.ts + b) * 512) 512).toArray else #[]
  let gs := reorder dz dy gv
  let out := (List.range 4096).foldl (fun (acc : Array FV × Byte × Nat) e =>
    if !dy.inside a b e then (acc.1.push .zero, acc.2)
    else
      let ij := dy.at a b (e / 64) (e % 64)
      let ex := (dx.find ij.1 ij.2).2.2
      let (d, clamp) := f.fromOutput (yv.getD ex .zero) (bitOf (bits.getD (ex / 8) 0).toNat (ex % 8))
      let g := gs.getD e .zero
      let r := fp32.roundV (g.mul (fp32.decode d.bits))
      (acc.1.push (fp32.decode r.bits), acc.2.1 ||| d.flagsOvf ||| r.flagsOvf, acc.2.2 + bit01 clamp)) (#[], 0, 0)
  { vals := out.1, flags := out.2.1 ||| ty.flags ||| tg.flags,
    srcs := [(dx, ty), (dz, tg), (dy, { c := { dclamp := out.2.2 } })] }

/-- VDTAB (R159 to R162, R173). -/
def vdtabBody (s : State) (w : Place) (o : Op) : State × OpEnd :=
  let dx := o.desc 0
  let dy := o.desc 1
  let dz := o.desc 2
  let plane := par48 (o.reg 0)
  match fnOf (vecFn o.word) with
  | none => (s, .fault fIllegal)
  | some f =>
    if !(s.fits w dx && s.fits w dy && s.fits w dz &&
        (!(f = .gelu || f = .silu) || s.inPart w.core w.x plane (planeExtent dx))) then (s, .fault fAccess)
    else if !(s.readable w dx && s.tablesRead w dy && s.readable w dz) || ((f = .gelu || f = .silu) && s.badPart w plane (planeExtent dx)) then
      (s, .fault fMemoryUc)
    else
      let (s, g) := s.mapTiles w dy 0 (fun s a b => dtabTile s w f plane dx dy dz a b)
      (s.bump 0x3260 2 dy.tiles.length, .done g 0)

def execVdtab (n : Nat) (x : Ctx) (s : State) : Host.Outcome State Fault Refusal := runCore n x .vector 7 vdtabBody s

/-! ### VRED (R62, R448) -/

/-- MAXABS of a line (R448). -/
def maxAbs (xs : List FV) : FV :=
  if xs.any FV.isNan then .canon
  else if xs.any FV.isInf then .inf false
  else xs.foldl (fun m x => if m.lt x.abs then x.abs else m) .zero

/-- The result of one line and its flags. -/
def redLine (fn : Nat) (xs zs : List FV) : FV × Byte :=
  if fn = 3 then (maxAbs xs, 0)
  else
    let ys : List FV := if fn = 0 then xs.map (fun _ => FV.one) else if fn = 1 then xs else zs
    let r := reduceElem false ((xs.zip ys).map (fun p => prodOf p.1 p.2)) none
    (r.v, r.flags ||| (xs.zip ys).foldl (fun f p => f ||| prodFlags p.1 p.2) 0 ||| Byte.when flagAccOvf r.ovf)

/-- The tiles of the sources that a VRED has read so far, by tile number: DX's elements, and DZ's in DX's element order. -/
abbrev RedTiles := Array (Array FV × Array FV)

/-- The elements of line k of DX along the reduced axis, from its tiles, with those of DZ beside them. -/
def redElems (d : Desc) (axis k : Nat) (ts : RedTiles) : List (FV × FV) :=
  (List.range (if axis = 0 then d.ext0 else d.ext1)).map (fun i =>
    let (a, b, e) := if axis = 0 then d.find i k else d.find k i
    let t := ts.getD (a * d.tB + b) (#[], #[])
    (t.1.getD e .zero, t.2.getD e .zero))

/-- Number of the DY tile that the pass over tile (a, b) of DX completes: the results of its lines are all there (R112, R448). -/
def redDone (d : Desc) (axis a b : Nat) : Option (Nat × Nat) :=
  if axis = 0 then (if a + 1 = d.tA then some (0, b) else none) else if b + 1 = d.tB then some (a, 0) else none

/-- The results of the lines of DY tile (a, b) with their flags, and a line's inputs being all finite. -/
def redResults (fn axis : Nat) (dx : Desc) (a b : Nat) (ts : RedTiles) : Array (FV × Byte × Bool) :=
  ((List.range 64).map (fun l =>
    let k := 64 * (if axis = 0 then b else a) + l
    if k < (if axis = 0 then dx.ext1 else dx.ext0) then
      let es := redElems dx axis k ts
      let r := redLine fn (es.map (·.1)) (es.map (·.2))
      (r.1, r.2, es.all (fun x => x.1.isFin && (fn ≠ 2 || x.2.isFin)))
    else (.zero, 0, true))).toArray

/-- Write one DY tile of results. The conversion does not set INF_IN or NAN_IN again for a result that a non-finite input made non-finite
(R448). -/
def State.redWrite (s : State) (w : Place) (axis : Nat) (dy : Desc) (a b : Nat) (res : Array (FV × Byte × Bool)) : State × Byte :=
  let lineOf (e : Nat) : FV × Byte × Bool :=
    let ij := dy.at a b (e / 64) (e % 64)
    res.getD ((if axis = 0 then ij.2 else ij.1) % 64) (.zero, 0, true)
  let p := s.writeTile w dy a b 0 {} ((Array.range 4096).map (fun e => if dy.inside a b e then (lineOf e).1 else .zero))
    (fun e => let r := lineOf e; if !r.2.2 && !r.1.isFin then flagNanIn ||| flagInfIn else 0)
  (p.1.count w dy.tid p.2, p.2.flags ||| res.foldl (fun f r => f ||| r.2.1) 0)

/-- One pass of VRED: read a tile of each source, and write the results that it completes before the next pass reads (R112). -/
def redPass (w : Place) (fn axis : Nat) (dx dy dz : Desc) (acc : State × Byte × RedTiles) (ab : Nat × Nat) : State × Byte × RedTiles :=
  let x := acc.1.widenTile w dx ab.1 ab.2
  let z := if fn = 2 then acc.1.widenTile w dz ab.1 ab.2 else (#[], {})
  let ts := acc.2.2.push (x.1, reorder dz dx z.1)
  let s := acc.1.readCount w dx ab.1 ab.2 x.2
  let s := if fn = 2 then s.readCount w dz ab.1 ab.2 z.2 else s
  let f := acc.2.1 ||| x.2.flags ||| z.2.flags
  match redDone dx axis ab.1 ab.2 with
  | none => (s, f, ts)
  | some t =>
    let r := s.redWrite w axis dy t.1 t.2 (redResults fn axis dx t.1 t.2 ts)
    (r.1, f ||| r.2, ts)

/-- VRED (R448). The results of a line are written after the pass that reads the last tile of it. -/
def vredBody (s : State) (w : Place) (o : Op) : State × OpEnd :=
  let fn := vecFn o.word
  let dx := o.desc 0
  let dy := o.desc 1
  let dz := o.desc 2
  if !(s.fits w dx && s.fits w dy && (fn ≠ 2 || s.fits w dz)) then (s, .fault fAccess)
  else if !(s.readable w dx && s.tablesRead w dy && (fn ≠ 2 || s.readable w dz)) then (s, .fault fMemoryUc)
  else
    let r := dx.tiles.foldl (redPass w fn (o.reg 0 % 2) dx dy dz) (s, 0, #[])
    (r.1, .done r.2.1 0)

def execVred (n : Nat) (x : Ctx) (s : State) : Host.Outcome State Fault Refusal := runCore n x .vector 8 vredBody s

/-! ### VOPT (R176 to R182) -/

/-- A running computation in FP32: flags collected as it goes. -/
abbrev Flagged := FV × Byte

/-- One rounding of R181. -/
def rnd (v : FV) : Flagged := let r := fp32.roundV v; (fp32.decode r.bits, r.flagsOvf)
def rndR (r : Rounded) : Flagged := (fp32.decode r.bits, r.flagsOvf)

/-- Fields of the parameter block (Table 8.1). -/
structure OptBlock where
  lr : FV
  b1 : FV
  b2 : FV
  eps : FV
  wd : FV
  gs : FV
  bc1 : FV
  bc2 : FV
  deriving DecidableEq, Repr, Inhabited

def optBlock (bs : List Byte) : OptBlock :=
  let f (o : Nat) : FV := fp32.decode (leNat (slice bs o 4))
  ⟨f 0x08, f 0x0C, f 0x10, f 0x14, f 0x18, f 0x1C, f 0x20, f 0x24⟩

/-- One element of R181: m1n, m2n, mnew and the flags. -/
def optElem (am2 : Bool) (k : OptBlock) (l : Int) (g mst m1 m2 : FV) : FV × FV × FV × Byte :=
  let (gl, f0) := rnd (g.scale (-l))
  let (gt, f1) := rnd (gl.mul k.gs)
  if am2 then
    let (a1, f2) := rnd (FV.one.sub k.b1)
    let (p1, f3) := rnd (a1.mul gt)
    let (m1n, f4) := rnd ((k.b1.mul m1).add p1)
    let (a2, f5) := rnd (FV.one.sub k.b2)
    let (gg, f6) := rnd (gt.mul gt)
    let (p2, f7) := rnd (a2.mul gg)
    let (m2n, f8) := rnd ((k.b2.mul m2).add p2)
    let (vb, f9) := rnd (m2n.mul k.bc2)
    let (sq, f10) := rndR (sqrtRound vb)
    let (den, f11) := rnd (sq.add k.eps)
    let (nu, f12) := rnd (m1n.mul k.bc1)
    let (u, f13) := rndR (divRound nu den)
    let (d, f14) := rnd ((k.wd.mul mst).add u)
    let (mnew, f15) := rnd ((k.lr.negate.mul d).add mst)
    (m1n, m2n, mnew, [f0, f1, f2, f3, f4, f5, f6, f7, f8, f9, f10, f11, f12, f13, f14, f15].foldl (· ||| ·) 0)
  else
    let (m1n, f2) := rnd ((k.b1.mul m1).add gt)
    let (d, f3) := rnd ((k.wd.mul mst).add m1n)
    let (mnew, f4) := rnd ((k.lr.negate.mul d).add mst)
    (m1n, .zero, mnew, [f0, f1, f2, f3, f4].foldl (· ||| ·) 0)

/-- Raw 16-bit patterns of a tile (R179). A raw read takes no header and reports no malformed tile (DESIGN CHOICE, log entry 133). -/
def State.rawTile (s : State) (w : Place) (d : Desc) (a b : Nat) : Array Nat :=
  let r := (s.partRead w (d.tileOff a b) d.recSize).toArray
  (Array.range 4096).map (fun e => if d.inside a b e then codeAt 1 64 r e else 0)

/-- Write a tile of raw patterns with a header that holds NONFIN alone (R181). -/
def State.writeRaw (s : State) (w : Place) (d : Desc) (a b : Nat) (values : Bool) (xs : Array Nat) : State :=
  let cs := (List.range 4096).map (fun e => if d.inside a b e then xs.getD e 0 else 0)
  let bad := values && cs.any (fun c => bitsOf c 7 8 = 255)
  s.partWrite w (d.tileOff a b) (({ nonfin := bad } : TileHead).bytes ++ packCodes 1 cs)

/-- The descriptors of a parameter block: DW, DR, DM1, DM2, DRO, DM1O, DM2O (Table 8.1). -/
structure OptDescs where
  w : Desc
  r : Desc
  m1 : Desc
  m2 : Desc
  ro : Desc
  m1o : Desc
  m2o : Desc

/-- Results of one tile: for each element of DY's record the two moments, the master weight and its flags; with what the reads of DX, DM1 and
DM2 found. -/
def State.optElems (s : State) (p : Place) (am2 : Bool) (k : OptBlock) (l : Int) (dx dy : Desc) (q : OptDescs) (a b : Nat) :
    Array (FV × FV × FV × Byte) × List (Desc × Tally) :=
  let pick (d : Desc) (vs : Array FV) (e : Nat) : FV := let ij := dy.at a b (e / 64) (e % 64); elemAt d vs ij.1 ij.2
  let pickN (d : Desc) (vs : Array Nat) (e : Nat) : Nat := let ij := dy.at a b (e / 64) (e % 64); vs.getD (d.find ij.1 ij.2).2.2 0
  let (gv, tg) := s.widenTile p dx a b
  let wv := s.rawTile p q.w a b
  let rv := s.rawTile p q.r a b
  let (m1v, t1) := s.widenTile p q.m1 a b
  let (m2v, t2) := if am2 then s.widenTile p q.m2 a b else (#[], {})
  let out := (Array.range 4096).map (fun e =>
    if !dy.inside a b e then (FV.zero, FV.zero, FV.zero, (0 : Byte))
    else
      let mst := fp32.decode (pickN q.w wv e * 65536 + pickN q.r rv e)
      let r := optElem am2 k l (pick dx gv e) mst (pick q.m1 m1v e) (if am2 then pick q.m2 m2v e else .zero)
      (r.1, r.2.1, r.2.2.1, r.2.2.2 ||| mst.inFlags))
  (out, (dx, tg) :: (q.m1, t1) :: (if am2 then [(q.m2, t2)] else []))

/-- One tile's stores (R183): the weight's high and low halves, and the moments, each to the tile of its own descriptor. -/
def State.optStore (s : State) (p : Place) (am2 : Bool) (dy : Desc) (q : OptDescs) (a b : Nat) (out : Array (FV × FV × FV × Byte)) : State :=
  let get (d : Desc) (e : Nat) : FV × FV × FV × Byte :=
    let ij := d.at a b (e / 64) (e % 64)
    out.getD (dy.find ij.1 ij.2).2.2 (.zero, .zero, .zero, 0)
  let master (d : Desc) (e : Nat) : Nat := (fp32.roundV (get d e).2.2.1).bits
  let wOut := (Array.range 4096).map (fun e => master dy e / 65536)
  let s := s.writeRaw p dy a b true wOut
  let s := s.writeRaw p q.ro a b false ((Array.range 4096).map (fun e => master q.ro e % 65536))
  let inside := (List.range 4096).filter (fun e => dy.inside a b e)
  let s := s.count p dy.tid (Tally.sum (inside.map (fun e => Tally.element (bf16.decode (wOut.getD e 0)))))
  let r := s.writeTile p q.m1o a b 0 {} ((Array.range 4096).map (fun e => (get q.m1o e).1))
  let s := r.1.count p q.m1o.tid r.2
  if am2 then
    let r := s.writeTile p q.m2o a b 0 {} ((Array.range 4096).map (fun e => (get q.m2o e).2.1))
    r.1.count p q.m2o.tid r.2
  else s

/-- One tile of VOPT. -/
def optTile (s : State) (p : Place) (am2 : Bool) (k : OptBlock) (l : Int) (dx dy : Desc) (q : OptDescs) (a b : Nat) :
    State × Byte × Bool :=
  let r := s.optElems p am2 k l dx dy q a b
  ((r.2.foldl (fun s t => s.readCount p t.1 a b t.2) s).optStore p am2 dy q a b r.1,
   r.1.foldl (fun f r => f ||| r.2.2.2) 0 ||| (Tally.sum (r.2.map (·.2))).flags,
   r.1.any (fun r => !r.1.isFin || !r.2.1.isFin || !r.2.2.1.isFin))

/-- The descriptors that a parameter block names are those of the context now, since every DWR is held while a VOPT is outstanding
(R180). -/
def optImages (s : State) (w : Place) (bs : List Byte) (i : Nat) : DescImage := Table.read 0 (bs.getD i 0).toNat (s.ctx w.core w.x).descs

/-- VOPT (R179 to R182), under the loss-scale exponent that the operation took at issue: that of the step being updated. Without a
group that is LS_INIT_EXP (DESIGN CHOICE, log entry 107). -/
def voptBody (s : State) (w : Place) (o : Op) : State × OpEnd :=
  let off := par48 (o.reg 0)
  let am2 := vecFn o.word = 0
  if !s.inPart w.core w.x off 64 then (s, .fault fAccess)
  else if s.badPart w off 64 then (s, .fault fMemoryUc)
  else
    let bs := s.partRead w off 64
    let img := optImages s w bs
    let named := (List.range 7).filter (fun i => am2 || (i ≠ 3 && i ≠ 6))
    let ok := named.all (fun i => descOk (img i))
    let d (i : Nat) : Desc := descOf (img i)
    let dx := o.desc 0
    let dy := o.desc 1
    let k := optBlock bs
    if !(ok && dx.space = 0 && dy.space = 0 && dy.sameExt dx && named.all (fun i => (d i).space = 0 && (d i).sameExt dx))
    then (s, .fault fDescriptor)
    else if !(dx.fmt = 0 && dy.fmt = 1 && named.all (fun i => (d i).fmt = (if i = 0 || i = 1 || i = 4 then 1 else 0)))
    then (s, .fault fFormat)
    else if !(s.holds w dx && s.holds w dy && named.all (fun i => s.holds w (d i))) then (s, .fault fAccess)
    else if !(s.readable w dx && (named.filter (· < 4)).all (fun i => s.readable w (d i))) then (s, .fault fMemoryUc)
    else
      let q : OptDescs := ⟨d 0, d 1, d 2, d 3, d 4, d 5, d 6⟩
      let fs := if am2 then [k.lr, k.b1, k.b2, k.eps, k.wd, k.gs, k.bc1, k.bc2] else [k.lr, k.b1, k.wd, k.gs]
      let r := dy.tiles.foldl (fun (acc : State × Byte × Bool) ab =>
        let t := optTile acc.1 w am2 k o.lexp dx dy q ab.1 ab.2
        (t.1, acc.2.1 ||| t.2.1, acc.2.2 || t.2.2)) (s, fs.foldl (fun f v => f ||| v.inFlags) 0, false)
      (r.1.modCtx w.core w.x (fun c => { c with uflag := c.uflag || r.2.2 }), .done r.2.1 0)

def execVopt (n : Nat) (x : Ctx) (s : State) : Host.Outcome State Fault Refusal := runCore n x .vector 9 voptBody s


/-! ### VRNG (R186 to R190) -/

/-- The mixing function of R187. -/
def cgMix (m v : Word) : Word :=
  let p : Dword := m.setWidth 64 * v.setWidth 64
  let w : Word := (p >>> 32).setWidth 32 ^^^ p.setWidth 32
  w ^^^ (w >>> 15)

/-- One round (R187). -/
def cgRound (k0 k1 : Word) (x : Word × Word × Word × Word) : Word × Word × Word × Word :=
  let (x0, x1, x2, x3) := x
  (x1 ^^^ cgMix 0xE3A1C66B (x0 ^^^ k0), x2, x3 ^^^ cgMix 0x9D2F5C37 (x2 ^^^ k1), x0)

/-- CG-10 (R186 to R188). -/
def cg10 (key : Dword) (x : Word × Word × Word × Word) : Word × Word × Word × Word :=
  let k0 : Word := key.setWidth 32
  let k1 : Word := (key >>> 32).setWidth 32
  (List.range 10).foldl (fun x r =>
    cgRound (k0 + BitVec.ofNat 32 r * 0xA5D31E67) (k1 + BitVec.ofNat 32 r * 0x6C8E9B1D) x) x

/-- The value of one element and its flags (Table 8.6). -/
def rngValue (fn fmt par : Nat) (c : Word × Word × Word × Word) : FV × Byte :=
  let w0 := c.1.toNat
  if fn = 0 then
    (if fmt = 0 then .fin false (w0 / 2 ^ 8) (-24) else if fmt = 1 then .fin false (w0 / 2 ^ 24) (-8) else .fin false (w0 / 2 ^ 21) (-11), 0)
  else if fn = 1 then
    let r := normalRound (w0 / 2 ^ 8) (c.2.1.toNat / 2 ^ 8)
    (fp32.decode r.bits, r.flags)
  else (if w0 < par % 2 ^ 32 then fp32.decode (par / 2 ^ 32) else .zero, 0)

/-- VRNG (R189, R190). -/
def vrngBody (s : State) (w : Place) (o : Op) : State × OpEnd :=
  let fn := vecFn o.word
  let par := o.reg 0
  let dy := o.desc 1
  let key := (s.ctx w.core w.x).cgKey
  if !s.holds w dy then (s, .fault fAccess)
  else
    let (s, f) := s.mapTiles w dy 0 (fun _ a b =>
      let out := (Array.range 4096).map (fun e =>
        if !dy.inside a b e then (FV.zero, (0 : Byte))
        else
          let ij := dy.at a b (e / 64) (e % 64)
          let i := ij.1 * dy.ext1 + ij.2
          rngValue fn dy.fmt par (cg10 key (BitVec.ofNat 32 i, BitVec.ofNat 32 (i / 2 ^ 32), BitVec.ofNat 32 dy.tid, BitVec.ofNat 32 w.step)))
      { vals := out.map (·.1), flags := out.foldl (fun f r => f ||| r.2) 0 })
    let v := fp32.decode (par / 2 ^ 32)
    (s, .done ((if fn = 0 then 0 else f &&& (flagInexact ||| flagUnderflow)) ||| (if fn = 2 then v.inFlags else 0)) 0)

def execVrng (n : Nat) (x : Ctx) (s : State) : Host.Outcome State Fault Refusal := runCore n x .vector 10 vrngBody s

end Sys2Proof.Machine
end

