-- ==== Sys2Proof/Machine/Sets.lean ====
section
/-! DEFINITION. What an operation names: its slot fields, the registers and descriptor entries it reads, its read and write sets
(R102, R104, R105), the layer geometry of an exchange word (R163, R222), and the entries of the scale windows (R75). -/

namespace Sys2Proof.Machine

/-! ### Slot fields -/

/-- Slots of a bundle (Table 6.1). -/
def bundleSlot (b : Bundle) : Eng → Word
  | .matrix => b.extractLsb' 0 32
  | .vector => b.extractLsb' 32 32
  | .stream => b.extractLsb' 64 32
def bundleCtl (b : Bundle) : Word := b.extractLsb' 96 32

def strD1 (w : Word) : Nat := bitsOf w.toNat 19 8
def strD2 (w : Word) : Nat := bitsOf w.toNat 11 8
def strGa (w : Word) : Nat := bitsOf w.toNat 6 5
def strSub (w : Word) : Nat := bitsOf w.toNat 0 6
def vecGp (w : Word) : Nat := bitsOf w.toNat 21 5
def vecDx (w : Word) : Nat := bitsOf w.toNat 13 8
def vecDy (w : Word) : Nat := bitsOf w.toNat 5 8
def matGp (w : Word) : Nat := bitsOf w.toNat 18 5

/-- Descriptor fields of a matrix parameter word (Table 6.6), and DZ of a vector one. -/
def parDa (p : Nat) : Nat := bitsOf p 56 8
def parDb (p : Nat) : Nat := bitsOf p 48 8
def parDd (p : Nat) : Nat := bitsOf p 40 8

/-- General registers that a slot reads, as first and count (R127). A VEW GELU or SILU may read G(GP + 1). -/
def regSpan (k : Eng) (w : Word) : Nat × Nat :=
  let op := opcodeOf k w
  match k with
  | .matrix => (matGp w, if op = 0 then 0 else 1)
  | .vector =>
    (vecGp w, if op = 5 then 2 else if op = 6 then (if (vecFn w = 8 || vecFn w = 9) && vecGp w < 31 then 2 else 1)
      else if op = 0 || op = 2 || op = 3 || op = 4 then 0 else 1)
  | .stream =>
    (strGa w, if op = 2 then 3 else if op = 3 then (if bitOf (strSub w) 0 then 2 else 1)
      else if op = 4 || op = 5 || op = 12 || op = 16 || op = 17 || op = 18 || op = 19 then 1
      else if op = 8 || op = 10 || op = 11 || op = 20 then 2 else 0)

/-- Does the slot hold an operation (any opcode but the NOP)? -/
def isOp (k : Eng) (w : Word) : Bool := opcodeOf k w ≠ 0

/-- Opcodes that the slot defines (Table 6.15). -/
def opDefined (k : Eng) (op : Nat) : Bool :=
  match k with
  | .matrix => op ≤ 3
  | .vector => op ≤ 10
  | .stream => op ≤ 5 || (8 ≤ op && op ≤ 12) || (16 ≤ op && op ≤ 20)

/-! ### The exchange word and the layer table (R163, R222, R223) -/

def xwLayer (v : Nat) : Nat := bitsOf v 56 8
def xwSlice (v : Nat) : Nat := bitsOf v 40 16
def xwNf (v : Nat) : Bool := bitOf v 32
def xwStep (v : Nat) : Nat := v % 2 ^ 32

/-- Slices of a layer (R222). -/
def LayerEntry.slices (e : LayerEntry) : Nat := if e.rows = 0 then 0 else ceilDiv e.irows e.rows
/-- Rows of slice j: first and count (R163). -/
def LayerEntry.sliceRows (e : LayerEntry) (j : Nat) : Nat × Nat := (j * e.rows, min e.rows (e.irows - j * e.rows))
/-- Index of a core position among those named in PART_MASK. -/
def State.posIndex (s : State) (slot pos : Nat) : Nat := ((s.positions slot).filter (· < pos)).length
/-- Columns of a position of the slot: first and count (R222). -/
def State.sliceCols (s : State) (slot : Nat) (e : LayerEntry) (pos : Nat) : Nat × Nat :=
  let p := (s.positions slot).length
  let n := if p = 0 then 0 else e.cols / p
  (s.posIndex slot pos * n, n)

def State.xchSize (s : State) (slot : Nat) : Nat := s.obj (0x7200 + slot) 1
def State.xchRank (s : State) (slot : Nat) : Nat := s.obj (0x7200 + slot) 2
/-- Does the slot's rank own the slice (R174)? -/
def State.ownsSlice (s : State) (slot j : Nat) : Bool := s.xchRank slot = j % max 1 (s.xchSize slot)

def State.layer (s : State) (slot l : Nat) : Option LayerEntry :=
  match (s.slot slot).layers[l]? with
  | some e => if e.valid then some e else none
  | none => none

/-- The layer that an exchange word of the slot names, with a slice below the slice count (R223). -/
def State.xwEntry (s : State) (slot v : Nat) : Option LayerEntry :=
  match s.layer slot (xwLayer v) with
  | some e => if xwSlice v < e.slices then some e else none
  | none => none

/-- Are the agreed exponents of bank b of the layer valid (R228)? -/
def State.bankValid (s : State) (slot l b : Nat) : Bool := s.group.expValid.contains (slot, l, b)

/-! ### Descriptor entries that an operation reads -/

/-- Does the SREDUCE of this word read D1, and D2 (R225, R233)? -/
def State.sreduceReads (s : State) (n v : Nat) : Bool × Bool :=
  match s.xwEntry (coreSlot n) v with
  | none => (true, false)
  | some e =>
    if e.factor then (s.posIndex (coreSlot n) (corePos n) = 0, true)
    else (true, s.ownsSlice (coreSlot n) (xwSlice v))

/-- Descriptor entries that an operation reads, from its word and its register operands (R103). -/
def State.entriesOf (s : State) (n : Nat) (k : Eng) (w : Word) (r0 : Nat) : List Nat :=
  let op := opcodeOf k w
  match k with
  | .matrix =>
    let m := matOp w r0
    let out := parDd r0 :: (if m.deriv then [parDd r0 + 1] else [])
    if op = 2 then parDa r0 :: parDb r0 :: (if m.dr then out else [])
    else if op = 3 then parDa r0 :: parDb r0 :: out
    else []
  | .vector =>
    let dx := vecDx w
    let dy := vecDy w
    let dz := parDa r0
    if op = 1 then dx :: (if vecFn w % 2 = 1 then [dy] else [])
    else if op = 2 || op = 3 || op = 9 then [dx, dy]
    else if op = 4 then [dx]
    else if op = 6 then dx :: dy :: (if ewBinary (vecFn w) then [dz] else [])
    else if op = 7 then [dx, dy, dz]
    else if op = 8 then dx :: dy :: (if vecFn w = 2 then [dz] else [])
    else if op = 10 then [dy]
    else []
  | .stream =>
    let d1 := strD1 w
    let d2 := strD2 w
    if op = 1 || op = 20 then [d1, d2]
    else if op = 3 || op = 5 || op = 8 || op = 18 then [d1]
    else if op = 4 || op = 9 then [d2]
    else if op = 19 then [d1, d2]
    else if op = 11 then (if bitOf (strSub w) 1 then [d1] else [])
    else if op = 16 then
      let r := s.sreduceReads n r0
      (if r.1 then [d1] else []) ++ (if r.2 then [d2] else [])
    else if op = 17 then (if s.ownsSlice (coreSlot n) (xwSlice r0) then [d1, d2] else [])
    else []

/-! ### Scale windows (R75) -/

/-- A range of a resource: core partition 0, shared-buffer area 1, HBM 2 (Table 6.2), scale entries 8, rescale entries 9,
accumulator tiles 10. -/
structure Rng where
  sp : Nat
  lo : Nat
  hi : Nat
  deriving DecidableEq, Repr, Inhabited

def Rng.hits (a b : Rng) : Bool := a.sp == b.sp && a.lo < b.hi && b.lo < a.hi
def anyHit (xs ys : List Rng) : Bool := xs.any (fun a => ys.any (fun b => a.hits b))
def Rng.isMem (a : Rng) : Bool := a.sp ≤ 2

/-- Scale entries that a plain tensor uses. -/
def plainRng (d : Desc) (count : Nat) : List Rng := if isPlain d.fmt then [⟨8, d.srfb, d.srfb + if d.scm then count else 1⟩] else []
/-- Scale entries that a vector operation uses for a tensor. -/
def tensorEntries (d : Desc) : List Rng := plainRng d d.channels
/-- Byte extent of a tensor (R105). -/
def Desc.rng (d : Desc) : Rng := ⟨d.space, d.base, d.base + d.extent⟩

/-- Entries that the drain of a product M × N reads (R87 to R89). -/
def drainEntries (m : MatOp) (da db : Desc) (mm nn : Nat) : List Rng :=
  (if pairing da db = .none then [] else plainRng da mm ++ plainRng db nn) ++
    (if m.rten then [⟨9, m.rtb, m.rtb + if m.rax then mm else nn⟩] else [])

/-- Does the operation drain? -/
def drains (op : Nat) (m : MatOp) : Bool := op = 3 || m.dr

/-- M and N of a matrix operation: of its operands, or of DD for MDRAIN (R134, R136). -/
def matDims (op : Nat) (m : MatOp) (da db dd : Desc) : Nat × Nat :=
  if op = 3 then (dd.ext0, dd.ext1) else ((mkn m da db).1, (mkn m da db).2.2.2)

/-- The scale and rescale ranges that an operation reads, and those it writes. -/
def entrySets (k : Eng) (w : Word) (regs : List Nat) (descs : List Desc) : List Rng × List Rng :=
  let op := opcodeOf k w
  let d (i : Nat) : Desc := descs.getD i default
  let r (i : Nat) : Nat := regs.getD i 0
  match k with
  | .matrix =>
    let m := matOp w (r 0)
    let mn := matDims op m (d 0) (d 1) (d 2)
    (if op ≠ 1 && drains op m then drainEntries m (d 0) (d 1) mn.1 mn.2 else [], [])
  | .vector =>
    if op = 1 then ([], if vecFn w % 2 = 1 then tensorEntries (d 1) else [])
    else if op = 2 then (tensorEntries (d 1), [])
    else if op = 3 then (tensorEntries (d 0), [])
    else if op = 4 then ([], tensorEntries (d 0))
    else if op = 5 then ([], [⟨9, bitsOf (r 0) 52 12, bitsOf (r 0) 52 12 + bitsOf (r 1) 0 13⟩])
    else if op = 6 then (tensorEntries (d 0) ++ tensorEntries (d 1) ++ (if ewBinary (vecFn w) then tensorEntries (d 2) else []), [])
    else if op = 7 then (tensorEntries (d 0), [])
    else if op = 8 then (tensorEntries (d 0) ++ tensorEntries (d 1) ++ (if vecFn w = 2 then tensorEntries (d 2) else []), [])
    else ([], [])
  | .stream => ([], [])

/-! ### Memory regions (R102, R104, R105) -/

/-- A local address range as the context itself reaches it, where it lies in its partition, its area or HBM. -/
def State.localRng (s : State) (n : Nat) (x : Ctx) (a len : Nat) : List Rng :=
  match region s.part a with
  | .hbm a => [⟨2, a, a + len⟩]
  | .core c off =>
    if c = n && s.partStart n x ≤ off then [⟨0, off - s.partStart n x, off - s.partStart n x + len⟩] else []
  | .shared d off =>
    let b := (s.ctx n x).sbBase * unit64K
    if d = coreDie n && b ≤ off then [⟨1, off - b, off - b + len⟩] else []
  | _ => []

/-- A global address range: only a range of this package can be the context's own. -/
def State.globalRng (s : State) (n : Nat) (x : Ctx) (g len : Nat) : List Rng :=
  if g / 2 ^ 48 = s.boot.node then s.localRng n x (g % 2 ^ 48) len else []

/-- Bytes of a routing table (R288). -/
def State.tableBytes (s : State) (n : Nat) (x : Ctx) (off : Nat) : Nat :=
  let h := s.rawRead (s.partAddr n x off) 16
  if (h.getD 9 0) = 1 then 32 else 32 + 8 * leNat (slice h 4 4) * (h.getD 8 0).toNat

/-- Bytes of a reshard plan (R295, Table 12.8). -/
def State.planBytes (s : State) (n : Nat) (x : Ctx) (off : Nat) : Nat :=
  let h := s.rawRead (s.partAddr n x off) 16
  32 + 8 * leNat (slice h 4 2) + 24 * leNat (slice h 8 4)

/-- Bank b of the exchange remainder of a layer (Table 10.5). -/
def LayerEntry.remRng (e : LayerEntry) (b : Nat) : Rng :=
  ⟨2, e.remBase + 2 * b * e.irows * e.cols, e.remBase + 2 * (b + 1) * e.irows * e.cols⟩

/-- Regions of an SREDUCE (R225): D1, D2 at the owner, and the remainder banks. -/
def State.sreduceSets (s : State) (n v sub : Nat) (d1 d2 : Desc) : List Rng × List Rng :=
  let slot := coreSlot n
  match s.xwEntry slot v with
  | none => ([d1.rng], [])
  | some e =>
    let use := s.sreduceReads n v
    if e.factor then ((if use.1 then [d1.rng] else []) ++ [d2.rng], [])
    else
      let b := s.group.version % 2
      ([d1.rng] ++ (if sub % 2 = 1 && s.bankValid slot (xwLayer v) b then [e.remRng b] else []),
       (if use.2 then [d2.rng] else []) ++ [e.remRng ((b + 1) % 2)])

/-- Regions of a VOPT (R180): its block and those of DX, DW, DR, DM1 and DM2; and those of DY, DRO, DM1O and DM2O. -/
def State.voptSets (s : State) (n : Nat) (x : Ctx) (off : Nat) (am2 : Bool) (dx dy : Desc) : List Rng × List Rng :=
  let bs := s.rawRead (s.partAddr n x off) 64
  let d (i : Nat) : Desc := descOf (Table.read 0 (bs.getD i 0).toNat (s.ctx n x).descs)
  (⟨0, off, off + 64⟩ :: dx.rng :: ([0, 1, 2] ++ if am2 then [3] else []).map (fun i => (d i).rng),
   dy.rng :: ([4, 5] ++ if am2 then [6] else []).map (fun i => (d i).rng))

/-- Memory regions that an operation reads and writes. -/
def State.memSets (s : State) (n : Nat) (x : Ctx) (k : Eng) (w : Word) (regs : List Nat) (descs : List Desc) :
    List Rng × List Rng :=
  let op := opcodeOf k w
  let d (i : Nat) : Desc := descs.getD i default
  let r (i : Nat) : Nat := regs.getD i 0
  match k with
  | .matrix =>
    let m := matOp w (r 0)
    let out := (d 2).rng :: (if m.deriv then [(d 3).rng] else [])
    if op = 2 then ([(d 0).rng, (d 1).rng], if m.dr then out else [])
    else if op = 3 then ([], out)
    else ([], [])
  | .vector =>
    let off := par48 (r 0)
    let fn := vecFn w
    if op = 1 then ([(d 0).rng], [⟨0, off, off + 32 * (d 0).channels⟩])
    else if op = 2 then ([(d 0).rng], (d 1).rng :: (if isPlain (d 1).fmt then [⟨0, (d 1).aux, (d 1).aux + 8 * (d 1).channels⟩] else []))
    else if op = 3 then ([(d 0).rng], [(d 1).rng])
    else if op = 4 then ([⟨0, (d 0).aux, (d 0).aux + 8 * (d 0).entries⟩], [])
    else if op = 5 then ([⟨0, off, off + 8 * bitsOf (r 1) 0 13⟩], [])
    else if op = 6 then
      ((d 0).rng :: (if ewBinary fn then [(d 2).rng] else []),
       (d 1).rng :: (if ewBranch fn (r 0) then [⟨0, par48 (r 1), par48 (r 1) + planeExtent (d 1)⟩] else []))
    else if op = 7 then
      ([(d 0).rng, (d 2).rng] ++ (if fn = 8 || fn = 9 then [⟨0, off, off + planeExtent (d 0)⟩] else []), [(d 1).rng])
    else if op = 8 then ((d 0).rng :: (if fn = 2 then [(d 2).rng] else []), [(d 1).rng])
    else if op = 9 then s.voptSets n x off (fn = 0) (d 0) (d 1)
    else if op = 10 then ([], [(d 1).rng])
    else ([], [])
  | .stream =>
    let sub := strSub w
    if op = 1 then ([(d 0).rng], [(d 1).rng])
    else if op = 2 then ([⟨sub % 4, r 0, r 0 + r 2⟩], [⟨sub / 4 % 4, r 1, r 1 + r 2⟩])
    else if op = 3 then
      ([(d 0).rng],
       if bitOf sub 0 then
         (setBits 24 (r 1)).flatMap (fun c =>
           match region s.part (r 0 % 2 ^ 48) with
           | .core c0 off => if r 0 / 2 ^ 48 = s.boot.node then s.localRng n x (coreBase (c0 / 24 * 24 + c) + off) (d 0).extent else []
           | _ => [])
       else s.globalRng n x (r 0) (d 0).extent)
    else if op = 4 then (s.globalRng n x (r 0) (d 1).total, [(d 1).rng])
    else if op = 5 then ([(d 0).rng], [])
    else if op = 8 then ([(d 0).rng], [])
    else if op = 9 then ([], [(d 1).rng])
    else if op = 10 then (s.globalRng n x (r 0) 8, s.globalRng n x (r 0) 8)
    else if op = 11 then
      ([⟨sub % 2, par48 (r 0), par48 (r 0) + 8⟩], if bitOf sub 1 then [(d 0).rng] else [])
    else if op = 16 then s.sreduceSets n (r 0) sub (d 0) (d 1)
    else if op = 17 then
      (if s.ownsSlice (coreSlot n) (xwSlice (r 0)) then ([(d 0).rng], [(d 1).rng]) else ([], []))
    else if op = 18 then
      let t := par48 (r 0)
      ([(d 0).rng, ⟨0, t, t + s.tableBytes n x t⟩], [⟨0, t, t + s.tableBytes n x t⟩])
    else if op = 19 then
      let t := par48 (r 0)
      ([(d 0).rng, ⟨0, t, t + s.tableBytes n x t⟩], [(d 1).rng])
    else if op = 20 then
      let t := par48 (r 0)
      ([(d 0).rng, ⟨0, t, t + s.planBytes n x t⟩], [(d 1).rng])
    else ([], [])

/-- Accumulator tiles that a matrix operation reads and writes. -/
def accSets (w : Word) (r0 : Nat) (da db dd : Desc) : List Rng × List Rng :=
  let op := opcodeOf .matrix w
  let m := matOp w r0
  let mn := matDims op m da db dd
  let t : Rng := ⟨10, m.acc, m.acc + if op = 1 then m.count else ceilDiv mn.1 64 * ceilDiv mn.2 64⟩
  if op = 1 then ([], [t])
  else if op = 2 then (if m.add then [t] else [], [t])
  else if op = 3 then ([t], [])
  else ([], [])

/-- Read set and write set of an operation for R104. -/
def State.sets (s : State) (n : Nat) (x : Ctx) (k : Eng) (w : Word) (regs : List Nat) (descs : List Desc) : List Rng × List Rng :=
  let a := if k = .matrix then accSets w (regs.getD 0 0) (descs.getD 0 default) (descs.getD 1 default) (descs.getD 2 default) else ([], [])
  let e := entrySets k w regs descs
  let m := s.memSets n x k w regs descs
  (a.1 ++ e.1 ++ m.1, a.2 ++ e.2 ++ m.2)

/-- The sets of an issued operation, as its words and the memory that they name stand. -/
def State.plainSets (s : State) (n : Nat) (x : Ctx) (o : Op) : List Rng × List Rng :=
  s.sets n x o.eng o.word (o.regs.map (·.toNat)) (o.descs.map descOf)

/-- Every outstanding operation of a context: those in its queues and those in its engines. -/
def Context.ops (c : Context) : List Op :=
  c.qM ++ c.qV ++ c.qS ++ c.fM.toList.map (·.op) ++ c.fV.toList.map (·.op) ++ c.fS.toList.map (·.op)

/-- A VOPT whose parameter block an earlier outstanding operation still writes: the regions that it names are not known yet (R180). -/
def State.blockOpen (s : State) (n : Nat) (x : Ctx) (o : Op) : Bool :=
  let off := par48 (o.reg 0)
  o.eng == .vector && opcodeOf .vector o.word == 9 &&
    ((s.ctx n x).ops.filter (fun e => e.seq < o.seq)).any (fun e => anyHit (s.plainSets n x e).2 [⟨0, off, off + 64⟩])

/-- The sets of an issued operation (R104). A VOPT whose block is still written stands for the whole partition until it is known what the
block names. -/
def State.opSets (s : State) (n : Nat) (x : Ctx) (o : Op) : List Rng × List Rng :=
  if s.blockOpen n x o then ([⟨0, 0, 2 ^ 48⟩], [⟨0, 0, 2 ^ 48⟩]) else s.plainSets n x o

/-- Does an earlier-issued outstanding operation conflict with this one (R104)? -/
def State.conflicts (s : State) (n : Nat) (x : Ctx) (o : Op) : Bool :=
  let me := s.opSets n x o
  ((s.ctx n x).ops.filter (fun e => e.seq < o.seq)).any (fun e =>
    let t := s.opSets n x e
    anyHit t.2 (me.1 ++ me.2) || anyHit t.1 me.2)

end Sys2Proof.Machine
end

