-- ==== Sys2Proof/Machine/Issue.lean ====
section
/-! DEFINITION. Issue, dispatch and completion (R93 to R104, R119, R125 to R132, R147 to R149): the checks of a bundle at issue, the
control slot, and what leaves a queue for its engine and an engine for the context. -/

namespace Sys2Proof.Machine

/-! ### Registers -/

def Context.reg (c : Context) (g : Nat) : Dword := Table.read 0 g c.regs
def Context.setReg (c : Context) (g : Nat) (v : Dword) : Context := { c with regs := Table.write 0 g v c.regs }
def Context.pred (c : Context) (p : Nat) : Bool := bitOf c.preds.toNat p
def Context.setPred (c : Context) (p : Nat) (b : Bool) : Context :=
  { c with preds := c.preds &&& ~~~(BitVec.ofNat 8 (2 ^ p)) ||| BitVec.ofNat 8 (bit01 b * 2 ^ p) }
def Context.desc (c : Context) (i : Nat) : DescImage := Table.read 0 i c.descs

/-- Completion counter of a kind: 0 matrix, 1 vector, 2 stream, 3 control (R148). -/
def Context.counter (c : Context) (kind : Nat) : Half :=
  if kind = 0 then c.cntM else if kind = 1 then c.cntV else if kind = 2 then c.cntS else c.cntC

/-! ### The control slot (Tables 6.13, 6.14) -/

/-- Fields of a control slot. -/
def ctlOp (w : Word) : Nat := bitsOf w.toNat 26 6
def ctlGd (w : Word) : Nat := bitsOf w.toNat 21 5
def ctlGa (w : Word) : Nat := bitsOf w.toNat 16 5
def ctlGb (w : Word) : Nat := bitsOf w.toNat 11 5
/-- GA of a WAITC, and of a DWR. -/
def waitGa (w : Word) : Nat := bitsOf w.toNat 19 5
def dwrDi (w : Word) : Nat := bitsOf w.toNat 18 8
def dwrGa (w : Word) : Nat := bitsOf w.toNat 13 5
def dwrPd (w : Word) : Nat := bitsOf w.toNat 10 3
def cmpPd (w : Word) : Nat := bitsOf w.toNat 23 3
def cmpCond (w : Word) : Nat := bitsOf w.toNat 20 3
def cmpGa (w : Word) : Nat := bitsOf w.toNat 15 5
def cmpGb (w : Word) : Nat := bitsOf w.toNat 10 5

/-- Opcodes that the control slot defines (Table 6.14). -/
def ctlDefined (op : Nat) : Bool := op ≤ 10 || (12 ≤ op && op ≤ 19)

/-- Registers that the control slot reads. -/
def ctlReads (w : Word) : List Nat :=
  let op := ctlOp w
  if op = 1 then [ctlGd w]
  else if 2 ≤ op && op ≤ 9 then [ctlGa w, ctlGb w]
  else if op = 10 then [ctlGa w]
  else if op = 12 then [cmpGa w, cmpGb w]
  else if op = 14 then [waitGa w]
  else if op = 15 then [dwrGa w, dwrGa w + 1, dwrGa w + 2, dwrGa w + 3]
  else []

/-- The register that the control slot writes. -/
def ctlWrites (w : Word) : List Nat :=
  let op := ctlOp w
  if (1 ≤ op && op ≤ 10) || op = 16 || op = 17 then [ctlGd w] else []

/-- ALU result (Table 6.14). -/
def aluResult (op : Nat) (a b : Dword) : Dword :=
  if op = 2 then a + b
  else if op = 3 then a - b
  else if op = 4 then a &&& b
  else if op = 5 then a ||| b
  else if op = 6 then a ^^^ b
  else if op = 7 then a <<< (b.toNat % 64)
  else if op = 8 then a >>> (b.toNat % 64)
  else a.sshiftRight (b.toNat % 64)

/-- Condition of CMP (Table 6.14). -/
def cmpHolds (cond : Nat) (a b : Dword) : Bool :=
  if cond = 0 then a == b
  else if cond = 1 then a != b
  else if cond = 2 then a.ult b
  else if cond = 3 then a.slt b
  else if cond = 4 then !a.ult b
  else !a.slt b

/-- What RDSR selects (Table 6.14). -/
def State.special (s : State) (n : Nat) (x : Ctx) (c : Context) (sel : Nat) : Dword :=
  if sel = 0 then BitVec.ofNat 64 c.step
  else if sel = 1 then BitVec.ofNat 64 n
  else if sel = 2 then BitVec.ofNat 64 s.boot.node
  else if sel = 3 then (match x with | .crown => 0 | .brim => 1)
  else if sel ≤ 7 then (c.counter (sel - 4)).setWidth 64
  else if sel = 8 then c.flags.setWidth 64
  else if sel = 9 then c.lastMatrix.setWidth 64
  else if sel = 10 then c.lastVector.setWidth 64
  else BitVec.ofNat 64 c.sstat

/-- The descriptor image that a DWR writes (Table 6.14). -/
def dwrImage (c : Context) (ga : Nat) : DescImage :=
  (c.reg (ga + 3)) ++ (c.reg (ga + 2)) ++ (c.reg (ga + 1)) ++ (c.reg ga)

/-- Effect of the control slot on its context, but for the bundle address and the counter. -/
def State.ctlEffect (s : State) (n : Nat) (x : Ctx) (w : Word) (c : Context) : Context :=
  let op := ctlOp w
  if op = 1 then
    let lane := bitsOf w.toNat 19 2
    let imm := BitVec.ofNat 64 (bitsOf w.toNat 3 16)
    c.setReg (ctlGd w) ((c.reg (ctlGd w) &&& ~~~((0xFFFF : Dword) <<< (16 * lane))) ||| (imm <<< (16 * lane)))
  else if 2 ≤ op && op ≤ 9 then c.setReg (ctlGd w) (aluResult op (c.reg (ctlGa w)) (c.reg (ctlGb w)))
  else if op = 10 then
    c.setReg (ctlGd w) (c.reg (ctlGa w) + BitVec.signExtend 64 (BitVec.ofNat 16 (bitsOf w.toNat 0 16)))
  else if op = 12 then c.setPred (cmpPd w) (cmpHolds (cmpCond w) (c.reg (cmpGa w)) (c.reg (cmpGb w)))
  else if op = 15 then
    let img := dwrImage c (dwrGa w)
    ({ c with descs := Table.write 0 (dwrDi w) img c.descs }).setPred (dwrPd w) (descOk img)
  else if op = 16 then c.setReg (ctlGd w) (BitVec.ofNat 64 (s.counter (coreDie n)))
  else if op = 17 then c.setReg (ctlGd w) (s.special n x c (ctlGa w))
  else if op = 18 then { c with flags := 0, sstat := 0 }
  else if op = 19 then { c with ended := true }
  else c

/-- Address of the next bundle (Table 6.14 BR). -/
def nextPc (w : Word) (c : Context) : Dword :=
  if ctlOp w = 13 && (bitOf w.toNat 21 || c.pred (bitsOf w.toNat 23 3) = bitOf w.toNat 22) then
    c.pc + BitVec.signExtend 64 (BitVec.ofNat 21 (bitsOf w.toNat 0 21))
  else c.pc + 1

/-! ### Refusals decided from the bundle alone (R98, R126, R127, R147) -/

def engines : List Eng := [.matrix, .vector, .stream]

/-- A slot that is refused for its own fields. -/
def slotIllegal (s : State) (n : Nat) (x : Ctx) (k : Eng) (w : Word) : Bool :=
  let op := opcodeOf k w
  let sp := regSpan k w
  !opDefined k op || 32 < sp.1 + sp.2 ||
  (match k with
    | .matrix => false
    | .vector =>
      let fn := vecFn w
      (op = 6 && 16 < fn) || (op = 7 && !(7 ≤ fn && fn ≤ 11)) || (op = 8 && 3 < fn) || (op = 9 && 1 < fn) || (op = 10 && 2 < fn)
    | .stream =>
      let sub := strSub w
      let inMask := (s.positions (coreSlot n)).contains (corePos n)
      (op = 2 && (sub % 4 = 3 || sub / 4 % 4 = 3)) ||
      ((op = 8 || op = 9 || op = 12 || 16 ≤ op && op ≤ 19) && x = .brim) ||
      (op = 9 && (sub % 4 = 3 || !inMask ||
        (match Table.read 0 (s.ctx n x).step (s.slot (coreSlot n)).popMode with
          | 0 => false
          | m => m ≠ (if sub % 4 = 2 then 2 else 1)))) ||
      ((op = 12 || op = 16 || op = 17) && (!s.slotEn (coreSlot n) || !inMask)) ||
      ((op = 18 || op = 19) && (s.positions (coreSlot n)).head? ≠ some (corePos n)) ||
      (op = 12 && 1 < sub))

/-- A bundle that its bits alone refuse: a reserved opcode, a register run beyond G31, two slots that write one register, a
field value listed as refused. -/
def bundleIllegal (s : State) (n : Nat) (x : Ctx) (b : Bundle) : Bool :=
  let c := bundleCtl b
  let t := bundleSlot b .stream
  engines.any (fun k => slotIllegal s n x k (bundleSlot b k)) ||
  !ctlDefined (ctlOp c) || (ctlOp c = 15 && 28 < dwrGa c) || (ctlOp c = 12 && 5 < cmpCond c) || (ctlOp c = 17 && 11 < ctlGa c) ||
  (opcodeOf .stream t = 9 && (ctlWrites c).contains (strGa t))

/-! ### Waits at issue (R97, R103, R104, R148, R149) -/

/-- Registers that outstanding operations will write: a QPOP's G(GA) (R103, R144). -/
def Context.pendingRegs (c : Context) : List Nat :=
  (c.ops.filter (fun o => o.eng == .stream && opcodeOf .stream o.word == 9)).map (fun o => strGa o.word)

/-- Registers that a bundle reads or writes. -/
def bundleRegs (b : Bundle) : List Nat :=
  let c := bundleCtl b
  let t := bundleSlot b .stream
  ctlReads c ++ ctlWrites c ++ (if opcodeOf .stream t = 9 then [strGa t] else []) ++
    engines.flatMap (fun k => let sp := regSpan k (bundleSlot b k); (List.range sp.2).map (fun i => sp.1 + i))

/-- Is a DWR of the entry held (R103, R149, R180)? -/
def State.dwrHeld (s : State) (n : Nat) (c : Context) (di : Nat) : Bool :=
  c.ops.any (fun o => (o.eng == .vector && opcodeOf .vector o.word == 9) ||
    (s.entriesOf n o.eng o.word (o.reg 0)).contains di)

/-- Capacity of a queue (R97). -/
def queueSize : Eng → Nat
  | .stream => 16
  | _ => 8

/-- Does the WAITC condition hold (R148)? -/
def waitcHolds (c : Context) (w : Word) : Bool :=
  ((c.counter (bitsOf w.toNat 24 2)) - (c.reg (waitGa w)).setWidth 16).toNat < 2 ^ 15

/-- Register and parameter operands of a slot at issue (R98). -/
def slotRegs (c : Context) (k : Eng) (w : Word) : List Dword :=
  match k with
  | .matrix => [c.reg (matGp w)]
  | .vector => [c.reg (vecGp w), c.reg (vecGp w + 1)]
  | .stream => (List.range 4).map (fun i => c.reg (strGa w + i))

/-- Descriptor images of a slot at issue. -/
def slotDescs (c : Context) (k : Eng) (w : Word) : List DescImage :=
  let r0 := ((slotRegs c k w).getD 0 0).toNat
  match k with
  | .matrix => [c.desc (parDa r0), c.desc (parDb r0), c.desc (parDd r0), if parDd r0 = 255 then 0 else c.desc (parDd r0 + 1)]
  | .vector => [c.desc (vecDx w), c.desc (vecDy w), c.desc (parDa r0)]
  | .stream => [c.desc (strD1 w), c.desc (strD2 w)]

/-- Attempt that an exchange operation belongs to (R224): none where its step is closed, before the group's first step, or where no
group is ACTIVE or FORMING. -/
def State.exchTag (s : State) (v : Nat) : Option Nat :=
  let k := xwStep v
  if s.group.state = .forming then some 0
  else if s.group.state ≠ .active || s.stepClosed k then none
  else some (s.attOf k)

/-- The operation of a slot. -/
def State.mkOp (s : State) (c : Context) (k : Eng) (w : Word) (seq : Nat) : Op :=
  let regs := slotRegs c k w
  let op := opcodeOf k w
  let current := if s.group.state = .active then some (s.attemptTag s.group.exchStep) else none
  { eng := k, word := w, pc := c.pc, regs := regs, descs := slotDescs c k w, step := c.step, att := c.att, seq := seq,
    tag := if k = .stream && (op = 12 || op = 16 || op = 17) then s.exchTag ((regs.getD 0 0).toNat)
      else if k = .stream && op = 20 then current else none,
    lexp := s.lossNow }

/-- The operations of a bundle, in slot order. -/
def State.bundleOps (s : State) (c : Context) (b : Bundle) : List Op :=
  ((engines.filter (fun k => isOp k (bundleSlot b k))).zipIdx).map (fun e => s.mkOp c e.1 (bundleSlot b e.1) (c.issued + e.2))

/-- Does an operation have a memory region (R104)? -/
def State.hasMem (s : State) (n : Nat) (x : Ctx) (o : Op) : Bool :=
  let t := s.opSets n x o
  t.1.any Rng.isMem || t.2.any Rng.isMem

/-- Interlock waits at issue: registers, a held DWR, the limit of 32 operations with memory regions. -/
def State.interlocked (s : State) (n : Nat) (x : Ctx) (c : Context) (b : Bundle) : Bool :=
  let w := bundleCtl b
  (bundleRegs b).any (fun g => c.pendingRegs.contains g) ||
  (ctlOp w = 15 && s.dwrHeld n c (dwrDi w)) ||
  (let new := ((s.bundleOps c b).filter (s.hasMem n x)).length
   0 < new && 32 < (c.ops.filter (s.hasMem n x)).length + new)

/-- Waits for a queue entry or for the control slot's condition (R97). -/
def Context.notReady (c : Context) (b : Bundle) : Bool :=
  engines.any (fun k => isOp k (bundleSlot b k) && queueSize k ≤ (c.queue k).length) ||
  (ctlOp (bundleCtl b) = 14 && !waitcHolds c (bundleCtl b))

/-! ### Refusals from registers and descriptors (Table 6.4) -/

/-- Faults of conditions that hold. -/
def faults (l : List (Bool × Nat)) : List Nat := (l.filter (·.1)).map (·.2)

/-- Every scale range lies in the window, and the tables are enabled (R75). -/
def State.scaleFaults (s : State) (n : Nat) (x : Ctx) (e : List Rng × List Rng) : List Nat :=
  let all := e.1 ++ e.2
  faults [(all ≠ [] && (!(s.block (blkQsc n)).en || all.any (fun r => s.scaleSize n x < r.hi)), fScaleIndex)]

/-- Does a plain operand's entry have a non-zero OFFSET (R88)? -/
def State.offsetIn (s : State) (n : Nat) (x : Ctx) (rs : List Rng) : Bool :=
  rs.any (fun r => (List.range (r.hi - r.lo)).any (fun i =>
    !(entryParts (s.srfEntry n (s.scaleStart n x + r.lo + i))).2.isZero))

/-- The block axis of an operand lies along the reduction axis (R50). -/
def axisOk (first : Bool) (t : Bool) (d : Desc) : Bool := !isBlock d.fmt || d.baxis = (if first then !t else t)

/-- Operand pairs that R48 accepts. -/
def pairOk (a b : Desc) : Bool :=
  (rateClass a.fmt = 16 && rateClass b.fmt = 16) || (rateClass a.fmt ≤ 8 && rateClass b.fmt ≤ 8)

/-- Some tile of an operand has a TEO other than 0 (R70). -/
def State.anyTeo (s : State) (n : Nat) (x : Ctx) (d : Desc) : Bool :=
  s.inPart n x d.base d.extent &&
    d.tiles.any (fun ab => s.rawRead (s.partAddr n x (d.tileOff ab.1 ab.2)) 1 ≠ [0])

/-- Refusals of a matrix slot (R11, R134 to R138, R169, R70, R75). Its outputs DD and DD + 1 with SPACE other than 0 are refused with
DESCRIPTOR, as A and B are (DESIGN CHOICE, log entry 120). -/
def State.matFaults (s : State) (n : Nat) (x : Ctx) (c : Context) (w : Word) (r0 : Nat) (imgs : List DescImage) : List Nat :=
  let op := opcodeOf .matrix w
  let m := matOp w r0
  if op = 1 then faults [(m.count = 0, fIllegal), (s.accSize n x < m.acc + m.count, fAccIndex)]
  else
    let im (i : Nat) : DescImage := imgs.getD i 0
    let da := descOf (im 0)
    let db := descOf (im 1)
    let dd := descOf (im 2)
    let de := descOf (im 3)
    let dr := drains op m
    let (mm, nn) := matDims op m da db dd
    let k := mkn m da db
    let mul := op = 2
    let es := entrySets .matrix w [r0] (imgs.map descOf)
    let low := s.scaleFaults n x es
    faults [(dr && m.dfn ≠ 0 && (drainFn m.dfn).isNone, fIllegal), (s.emask n = 0, fEngineMask),
      (!descOk (im 0) || !descOk (im 1), fDescriptor), (mul && (da.space ≠ 0 || db.space ≠ 0 || k.2.1 ≠ k.2.2.1), fDescriptor),
      (dr && (!descOk (im 2) || dd.space ≠ 0 || dd.ext0 ≠ mm || dd.ext1 ≠ nn), fDescriptor),
      (dr && m.deriv && (parDd r0 = 255 || !descOk (im 3) || de.space ≠ 0 || de.ext0 ≠ mm || de.ext1 ≠ nn), fDescriptor),
      (mul && !(pairOk da db && axisOk true m.ta da && axisOk false m.tb db), fFormat),
      (dr && (!isFloat dd.fmt || (m.deriv && !isFloat de.fmt)), fFormat),
      (mul && c.emulate && (!(1 ≤ da.fmt && da.fmt ≤ 4 && 1 ≤ db.fmt && db.fmt ≤ 4) || s.anyTeo n x da || s.anyTeo n x db), fFormat),
      (s.accSize n x < m.acc + ceilDiv mm 64 * ceilDiv nn 64, fAccIndex)] ++ low ++
    faults [(low = [] && dr && (pairing da db = .left && isBlock db.fmt || pairing da db = .right && isBlock da.fmt) &&
      s.offsetIn n x (plainRng da mm ++ plainRng db nn), fScale)]

/-- Does a copy of records keep their meaning: the format and, where the format reads them, BSZ and ESCT alike (R25, Table 6.11)? -/
def Desc.sameForm (d e : Desc) : Bool := d.fmt = e.fmt && (!isBlock d.fmt || d.bsz = e.bsz) && (!hasSide d.fmt || d.esct = e.esct)

/-- Refusals of a vector slot (Table 6.8, R140, R158, R159, R180, R190). DX and DY are checked where the operation uses that descriptor
(DESIGN CHOICE, log entry 121). -/
def State.vecFaults (s : State) (n : Nat) (x : Ctx) (w : Word) (regs : List Nat) (imgs : List DescImage) : List Nat :=
  let op := opcodeOf .vector w
  let fn := vecFn w
  let r0 := regs.getD 0 0
  let r1 := regs.getD 1 0
  let im (i : Nat) : DescImage := imgs.getD i 0
  let dx := descOf (im 0)
  let dy := descOf (im 1)
  let dz := descOf (im 2)
  let bad (i : Nat) : Bool := !descOk (im i) || (descOf (im i)).space ≠ 0
  let useX := op ≠ 5 && op ≠ 10
  let useY := !(op = 4 || op = 5 || (op = 1 && fn % 2 = 0))
  let useZ := (op = 6 && ewBinary fn) || op = 7 || (op = 8 && fn = 2)
  let same := op = 2 || op = 3 || op = 6 || op = 7
  let derv := op = 1 && fn % 2 = 1
  let br := op = 6 && ewBranch fn r0
  let n5 := bitsOf r1 0 13
  faults [(op = 5 && (n5 = 0 || 4096 < n5), fIllegal), (br && (vecGp w = 31 || par48 r1 % 64 ≠ 0), fIllegal),
    (op = 7 && (fn = 8 || fn = 9) && par48 r0 % 64 ≠ 0, fIllegal), (op = 9 && par48 r0 % 64 ≠ 0, fIllegal),
    (useX && bad 0 || useY && bad 1 || useZ && bad 2, fDescriptor),
    (same && !(dx.sameExt dy && (!useZ || dx.sameExt dz)), fDescriptor),
    (derv && !(dx.sameExt dy && dx.baxis = dy.baxis), fDescriptor),
    (op = 8 && ((fn = 2 && !dx.sameExt dz) || (if r0 % 2 = 0 then dy.ext0 ≠ 1 || dy.ext1 ≠ dx.ext1 else dy.ext1 ≠ 1 || dy.ext0 ≠ dx.ext0)),
      fDescriptor),
    ((op = 1 || op = 2) && !isFloat dx.fmt, fFormat), (derv && !isPlain dy.fmt, fFormat),
    ((op = 3 || op = 10) && !isFloat dy.fmt, fFormat), (op = 4 && !isPlain dx.fmt, fFormat),
    (op = 7 && !(isFloat dz.fmt && isFloat dy.fmt), fFormat)] ++
  s.scaleFaults n x (entrySets .vector w regs (imgs.map descOf))

/-- Refusals of an SREDUCE by its word and descriptors (R225, R233). -/
def State.sreduceFaults (s : State) (n v sub : Nat) (i1 i2 : DescImage) : List Nat :=
  let slot := coreSlot n
  match s.xwEntry slot v with
  | none => [fIllegal]
  | some e =>
    let d1 := descOf i1
    let d2 := descOf i2
    let rows := (e.sliceRows (xwSlice v)).2
    let cols := (s.sliceCols slot e (corePos n)).2
    let use := s.sreduceReads n v
    if e.factor then
      let part (d : Desc) (m : Nat) : Bool := d.ext0 = e.tokens && d.ext1 = m && d.space = 0
      let form (d : Desc) : Bool := d.fmt = 7 && d.bsz && !d.baxis && d.esct
      faults [(sub % 2 = 1, fIllegal), (use.1 && !(descOk i1 && part d1 rows), fDescriptor), (!(descOk i2 && part d2 cols), fDescriptor),
        (use.1 && !form d1, fFormat), (!form d2, fFormat)]
    else
      let ok (i : DescImage) (d : Desc) : Bool := descOk i && d.space = 0 && d.ext0 = rows && d.ext1 = cols
      faults [(!ok i1 d1, fDescriptor), (use.2 && !ok i2 d2, fDescriptor), (d1.fmt ≠ 0, fFormat), (use.2 && d2.fmt ≠ 0, fFormat)]

/-- Refusals of a stream slot (Tables 6.11, 6.12, R223, R225, R235, R236, R288, R295). -/
def State.strFaults (s : State) (n : Nat) (w : Word) (regs : List Nat) (imgs : List DescImage) : List Nat :=
  let op := opcodeOf .stream w
  let sub := strSub w
  let r (i : Nat) : Nat := regs.getD i 0
  let i1 := imgs.getD 0 0
  let i2 := imgs.getD 1 0
  let d1 := descOf i1
  let d2 := descOf i2
  let slot := coreSlot n
  if op = 1 then
    faults [(!descOk i1 || !descOk i2 || !d1.sameForm d2 || !d1.sameExt d2, fDescriptor)]
  else if op = 2 then faults [(r 2 = 0 || 2 ^ 32 < r 2, fIllegal)]
  else if op = 3 then faults [(bitOf sub 0 && r 1 % 2 ^ 24 = 0, fIllegal), (!descOk i1, fDescriptor)]
  else if op = 4 || op = 9 then faults [(!descOk i2, fDescriptor)]
  else if op = 5 || op = 8 then faults [(!descOk i1, fDescriptor)]
  else if op = 11 then faults [(bitOf sub 1 && !descOk i1, fDescriptor)]
  else if op = 12 then faults [(sub = 0 && (s.xwEntry slot (r 0)).isNone, fIllegal)]
  else if op = 16 then s.sreduceFaults n (r 0) sub i1 i2
  else if op = 17 then
    if (s.xwEntry slot (r 0)).isNone then [fIllegal]
    else if s.ownsSlice slot (xwSlice (r 0)) then
      faults [(!descOk i1 || !descOk i2 || d2.space ≠ 2, fDescriptor), (d1.fmt ≠ 1, fFormat)]
    else []
  else if op = 18 then faults [(par48 (r 0) % 64 ≠ 0, fIllegal), (!descOk i1, fDescriptor)]
  else if op = 19 then faults [(par48 (r 0) % 64 ≠ 0, fIllegal), (!descOk i2, fDescriptor), (!isFloat d2.fmt, fFormat)]
  else if op = 20 then faults [(par48 (r 0) % 64 ≠ 0, fIllegal), (!descOk i1 || !descOk i2, fDescriptor)]
  else []

/-- Refusals of one operation. -/
def State.opFaults (s : State) (n : Nat) (x : Ctx) (c : Context) (o : Op) : List Nat :=
  let regs := o.regs.map (·.toNat)
  match o.eng with
  | .matrix => s.matFaults n x c o.word (regs.getD 0 0) o.descs
  | .vector => s.vecFaults n x o.word regs o.descs
  | .stream => s.strFaults n o.word regs o.descs

/-- Which fault a bundle that meets several is refused with: the first in this order. -/
def faultOrder : List Nat := [fIllegal, fEngineMask, fDescriptor, fFormat, fAccIndex, fScaleIndex, fScale]

def firstFault (l : List Nat) : Option Nat := faultOrder.find? (fun f => l.contains f)

/-- An MMUL or MDRAIN whose SCALE check reads entries waits for the earlier writers of them (Table 6.4). -/
def State.scaleWait (s : State) (n : Nat) (x : Ctx) (c : Context) (o : Op) : Bool :=
  let e := (entrySets .matrix o.word (o.regs.map (·.toNat)) (o.descs.map descOf)).1
  let da := o.desc 0
  let db := o.desc 1
  o.eng == .matrix && (pairing da db = .left && isBlock db.fmt || pairing da db = .right && isBlock da.fmt) &&
    c.ops.any (fun p => anyHit (s.opSets n x p).2 (e.filter (fun r => r.sp == 8)))

/-! ### Issue -/

/-- What an attempt to issue a bundle finds. -/
inductive IssueEnd where
  | go
  | wait (interlock : Bool)
  | refused (code : Nat)
  deriving DecidableEq, Repr

/-- The checks of a bundle at issue, in the order: its bits, its waits, its registers and descriptors. -/
def State.issueEnd (s : State) (n : Nat) (x : Ctx) (b : Bundle) : IssueEnd :=
  let c := s.ctx n x
  if bundleIllegal s n x b then .refused fIllegal
  else if s.interlocked n x c b then .wait true
  else if c.notReady b then .wait false
  else
    let os := s.bundleOps c b
    match firstFault (os.flatMap (s.opFaults n x c)) with
    | some f => if f = fScale && os.any (s.scaleWait n x c) then .wait true else .refused f
    | none => if os.any (s.scaleWait n x c) then .wait true else .go

/-- An operation that is held at a suspension point: no request of it is outstanding, and it is not done (R116, R121). -/
def Flight.atPoint (f : Flight) : Bool := f.suspended && f.awaiting = [] && !f.done

/-- Operations in the engines that a halt waits for: those not held at a suspension point. -/
def Context.busyFlights (c : Context) : Bool :=
  [c.fM, c.fV, c.fS].any (fun f => match f with | none => false | some f => !f.atPoint)

/-- An ended context with nothing outstanding is IDLE (Table 6.14 END); a halting one without operations in its engines, but for those at
suspension points, HALTED (Table 5.8). -/
def Context.settle (c : Context) : Context :=
  if c.halting && !c.busyFlights && (c.state = .running || c.state = .waiting || c.state = .suspended) then { c with state := .halted, halting := false }
  else if c.ended && !c.outstanding && (c.state = .running || c.state = .waiting) then { c with state := .idle, ended := false }
  else c

/-- The same for a context of a core: a Brim context under preemption settles only when the preemption is done (R116, Table 5.8 HALT). -/
def State.settleCtx (s : State) (n : Nat) (x : Ctx) (c : Context) : Context :=
  if x = .brim && (s.coreSt n).preempting then c else c.settle

/-- The context after its bundle has issued. -/
def State.issued (s : State) (n : Nat) (x : Ctx) (b : Bundle) : Context :=
  let c := s.ctx n x
  let w := bundleCtl b
  let os := s.bundleOps c b
  let d := s.ctlEffect n x w c
  let d := os.foldl (fun (d : Context) o => d.setQueue o.eng (d.queue o.eng ++ [o])) d
  { d with pc := nextPc w c, state := .running, issued := c.issued + os.length,
           cntC := if ctlOp w = 0 then c.cntC else c.cntC + 1 }.settle

/-- An issued QPOP fixes the kind of pop that its slot uses in the context's current step (R210). -/
def State.markPop (s : State) (n : Nat) (x : Ctx) (b : Bundle) : State :=
  let w := bundleSlot b .stream
  if opcodeOf .stream w = 9 then
    s.modSlot (coreSlot n) (fun v => { v with popMode := Table.write 0 (s.ctx n x).step (if strSub w % 4 = 2 then 2 else 1) v.popMode })
  else s

/-- Is the operation of a registered RESHARD still outstanding? -/
def State.reshardLive (s : State) (r : Reshard) : Bool :=
  (s.ctx r.core r.x).ops.any (fun o => o.eng == .stream && o.seq == r.seq && opcodeOf .stream o.word == 20)

/-- An issued RESHARD registers RID and D2 at its core, RID and SENDERS as its plan holds them (R296, Table 12.8). -/
def State.registerReshard (s : State) (n : Nat) (x : Ctx) (o : Op) : State :=
  let h := s.rawRead (s.partAddr n x (par48 (o.reg 0))) 16
  let r : Reshard := { core := n, x := x, seq := o.seq, rid := leNat (slice h 0 4), desc := o.descs.getD 1 0, expected := o.reg 1,
                       senders := leNat (slice h 12 4), notices := 0, total := 0, written := 0 }
  { s with reshards := s.reshards.filter s.reshardLive ++ [r] }

/-- The registrations of a context's restored RESHARDs: one that is held already for the same operation stays, with its counts; any other
begins anew (R121, R296; DESIGN CHOICE, log entry 110). -/
def State.remarkReshards (s : State) (n : Nat) (x : Ctx) : State :=
  ((s.ctx n x).ops.filter (fun o => o.eng == .stream && opcodeOf .stream o.word == 20 &&
      !s.reshards.any (fun r => r.core == n && r.x == x && r.seq == o.seq && r.desc == o.descs.getD 1 0))).foldl
    (fun s o => s.registerReshard n x o) s

def State.markReshards (s : State) (n : Nat) (x : Ctx) (os : List Op) : State :=
  (os.filter (fun o => o.eng == .stream && opcodeOf .stream o.word == 20)).foldl (fun s o => s.registerReshard n x o) s

/-- One attempt to issue a bundle in a context (R97, R104, R119). -/
def State.issue (s : State) (n : Nat) (x : Ctx) (b : Bundle) : State :=
  let c := s.ctx n x
  match s.issueEnd n x b with
  | .refused code => s.faultContext n x code c.pc c.step c.att
  | .wait lock =>
    let s := s.setCtx n x { c with state := .waiting }
    if lock then s.bump 0x3250 5 1 else s
  | .go => (((s.setCtx n x (s.issued n x b)).markPop n x b).markReshards n x (s.bundleOps c b)).setCoreSt n { s.coreSt n with switching := false, resumed := false }

/-- The next bundle of a context does not wait: it issues, or its fetch or its checks refuse it (R114). -/
def State.nextReady (s : State) (n : Nat) (x : Ctx) : Bool :=
  let c := s.ctx n x
  let off := 16 * c.pc.toNat
  !s.inPart n x off 16 || s.coreBad (s.partAddr n x off) 16 ||
    (match s.issueEnd n x (BitVec.ofNat 128 (leNat (s.rawRead (s.partAddr n x off) 16))) with
      | .wait _ => false
      | _ => true)

/-- The Crown context is ready (R114). -/
def State.crownReady (s : State) (n : Nat) : Bool :=
  let c := s.ctx n .crown
  (c.state = .running || c.state = .waiting) && !c.ended && !c.halting && s.nextReady n .crown

/-- The core may issue from its active context (R93, R109, R118): from Brim never while Crown can issue. -/
def State.canIssue (s : State) (n : Nat) : Bool :=
  let x := (s.coreSt n).active
  let c := s.ctx n x
  s.up && (s.block (blkCore n)).en && !(s.coreSt n).disabling && (c.state = .running || c.state = .waiting) && !c.ended && !c.halting &&
    (x = .crown || !s.crownReady n)

/-- The Brim context is active: the core has turned to it, and it has work (R93, R115). -/
def State.brimLive (s : State) (n : Nat) : Bool :=
  let c := s.ctx n .brim
  (s.coreSt n).active = .brim && (c.state = .running || c.state = .waiting || c.state = .suspended)

/-- Cycle counters of a slot (R217): the core's Crown context WAITING behind a QPUSH without credit, WAITING on a QPOP; the Brim
context active. -/
def State.countCycle (s : State) (n : Nat) : State :=
  let slot := coreSlot n
  if !(s.positions slot).contains (corePos n) then s
  else
    let c := s.ctx n .crown
    let oldest := match c.fS with | some f => some (opcodeOf .stream f.op.word, f.blocked) | none => c.qS.head?.map (fun o => (opcodeOf .stream o.word, false))
    let s :=
      if c.state ≠ .waiting then s
      else match oldest with
        | some (8, true) => s.bump (0x3280 + slot) 1 1
        | some (9, _) => s.bump (0x3280 + slot) 2 1
        | _ => s
    if s.brimLive n then s.bump (0x3280 + slot) 3 1 else s

/-- Fetch the bundle at the bundle address and try to issue it (R96, R97); a fetch that meets an uncorrected error faults the context (R119). -/
def State.fetchIssue (s : State) (n : Nat) (x : Ctx) : State :=
  let c := s.ctx n x
  let off := 16 * c.pc.toNat
  if !s.inPart n x off 16 then s.faultContext n x fAccess c.pc c.step c.att
  else if s.coreBad (s.partAddr n x off) 16 then s.faultContext n x fMemoryUc c.pc c.step c.att
  else s.issue n x (BitVec.ofNat 128 (leNat (s.rawRead (s.partAddr n x off) 16)))

/-- One issue cycle of a core (R93, R97, R217). -/
def execBundleIssue (n : Nat) (s : State) : Host.Outcome State Fault Refusal :=
  if n < Config.cores s.part then
    .next ((if s.canIssue n then s.fetchIssue n (s.coreSt n).active else s).countCycle n)
  else .next s

/-! ### Control-slot operations as bundles of their own (Table 6.14) -/

/-- Issue a bundle that holds a control slot and three NOPs, in the core's active context. -/
def issueCtl (n : Nat) (w : Word) (s : State) : Host.Outcome State Fault Refusal :=
  if n < Config.cores s.part then
    .next (if s.canIssue n then s.issue n (s.coreSt n).active (w ++ (0 : BitVec 96)) else s)
  else .next s

/-- Control slots in the formats of Table 6.13. -/
def ctlR (op gd ga gb : Nat) : Word := BitVec.ofNat 32 (op * 2 ^ 26 + gd % 32 * 2 ^ 21 + ga % 32 * 2 ^ 16 + gb % 32 * 2 ^ 11)

def execLi (n gd lane : Nat) (imm : Half) (s : State) : Host.Outcome State Fault Refusal :=
  issueCtl n (BitVec.ofNat 32 (1 * 2 ^ 26 + gd % 32 * 2 ^ 21 + lane % 4 * 2 ^ 19 + imm.toNat * 2 ^ 3)) s
def execAddR (n gd ga gb : Nat) (s : State) : Host.Outcome State Fault Refusal := issueCtl n (ctlR 2 gd ga gb) s
def execSubR (n gd ga gb : Nat) (s : State) : Host.Outcome State Fault Refusal := issueCtl n (ctlR 3 gd ga gb) s
def execAndR (n gd ga gb : Nat) (s : State) : Host.Outcome State Fault Refusal := issueCtl n (ctlR 4 gd ga gb) s
def execOrR (n gd ga gb : Nat) (s : State) : Host.Outcome State Fault Refusal := issueCtl n (ctlR 5 gd ga gb) s
def execXorR (n gd ga gb : Nat) (s : State) : Host.Outcome State Fault Refusal := issueCtl n (ctlR 6 gd ga gb) s
def execShl (n gd ga gb : Nat) (s : State) : Host.Outcome State Fault Refusal := issueCtl n (ctlR 7 gd ga gb) s
def execShr (n gd ga gb : Nat) (s : State) : Host.Outcome State Fault Refusal := issueCtl n (ctlR 8 gd ga gb) s
def execSra (n gd ga gb : Nat) (s : State) : Host.Outcome State Fault Refusal := issueCtl n (ctlR 9 gd ga gb) s
def execAddi (n gd ga : Nat) (imm : Half) (s : State) : Host.Outcome State Fault Refusal :=
  issueCtl n (BitVec.ofNat 32 (10 * 2 ^ 26 + gd % 32 * 2 ^ 21 + ga % 32 * 2 ^ 16 + imm.toNat)) s
def execCmp (n pd cond ga gb : Nat) (s : State) : Host.Outcome State Fault Refusal :=
  issueCtl n (BitVec.ofNat 32 (12 * 2 ^ 26 + pd % 8 * 2 ^ 23 + cond % 8 * 2 ^ 20 + ga % 32 * 2 ^ 15 + gb % 32 * 2 ^ 10)) s
def execBr (n p : Nat) (sense always : Bool) (off : BitVec 21) (s : State) : Host.Outcome State Fault Refusal :=
  issueCtl n (BitVec.ofNat 32 (13 * 2 ^ 26 + p % 8 * 2 ^ 23 + bit01 sense * 2 ^ 22 + bit01 always * 2 ^ 21 + off.toNat)) s
def execWaitc (n kind ga : Nat) (s : State) : Host.Outcome State Fault Refusal :=
  issueCtl n (BitVec.ofNat 32 (14 * 2 ^ 26 + kind % 4 * 2 ^ 24 + ga % 32 * 2 ^ 19)) s
def execDwr (n di ga pd : Nat) (s : State) : Host.Outcome State Fault Refusal :=
  issueCtl n (BitVec.ofNat 32 (15 * 2 ^ 26 + di % 256 * 2 ^ 18 + ga % 32 * 2 ^ 13 + pd % 8 * 2 ^ 10)) s
def execTime (n gd : Nat) (s : State) : Host.Outcome State Fault Refusal := issueCtl n (ctlR 16 gd 0 0) s
def execRdsr (n gd sel : Nat) (s : State) : Host.Outcome State Fault Refusal := issueCtl n (ctlR 17 gd sel 0) s
def execFlagclr (n : Nat) (s : State) : Host.Outcome State Fault Refusal := issueCtl n (ctlR 18 0 0 0) s
def execEndIssue (n : Nat) (s : State) : Host.Outcome State Fault Refusal := issueCtl n (ctlR 19 0 0 0) s

/-! ### Dispatch and completion (R99, R104, R115, R116, R131) -/

/-- May an operation of this context enter the engine (R115, R116)? A Brim operation goes behind the Crown operations of that engine, and
enters only once its context has begun to issue or its held work goes on, or is FAULTED (R119, log entry 100); a Crown operation waits while Brim work
that is not suspended or blocked holds the engine. -/
def State.engineFree (s : State) (n : Nat) (x : Ctx) (k : Eng) : Bool :=
  ((s.ctx n x).flight k).isNone &&
  (match x with
    | .brim =>
      let c := s.ctx n .crown
      (((s.coreSt n).active = .brim && (!(s.coreSt n).switching || (s.coreSt n).resumed)) || (s.ctx n .brim).state = .faulted) &&
      (c.queue k = [] || c.halting || !(c.state = .running || c.state = .waiting || c.state = .faulted)) &&
      (match c.flight k with
        | none => true
        | some f => f.blocked || f.awaiting ≠ [] || f.done)
    | .crown =>
      match (s.ctx n .brim).flight k with
      | none => true
      | some f => f.suspended || f.blocked || f.awaiting ≠ [] || f.done)

/-- A context whose queued operations may dispatch (R118, R119, R120). -/
def Context.dispatches (c : Context) : Bool :=
  (c.state = .running || c.state = .waiting || c.state = .faulted) && !c.halting

/-- The front of a queue leaves for its engine when nothing earlier conflicts; a conflict counts one stall cycle (R104). -/
def State.dispatch (s : State) (n : Nat) (x : Ctx) (k : Eng) : State :=
  let c := s.ctx n x
  match c.queue k with
  | [] => s
  | o :: os =>
    if !(s.up && (s.block (blkCore n)).en && c.dispatches && s.engineFree n x k) then s
    else if s.conflicts n x o then s.bump 0x3250 5 1
    else s.setCtx n x ((c.setQueue k os).setFlight k (some { op := o }))

def execOperationDispatch (n : Nat) (x : Ctx) (k : Eng) (s : State) : Host.Outcome State Fault Refusal :=
  if n < Config.cores s.part then .next (s.dispatch n x k) else .next s

/-- Raise the completion counter of an engine kind (R99). -/
def Context.count (c : Context) : Eng → Context
  | .matrix => { c with cntM := c.cntM + 1 }
  | .vector => { c with cntV := c.cntV + 1 }
  | .stream => { c with cntS := c.cntS + 1 }

/-- Deliver the completion record (R65, R131). -/
def Context.deliver (c : Context) (f : Flight) : Eng → Context
  | .matrix => { c with lastMatrix := f.flags, flags := c.flags ||| f.flags }
  | .vector => { c with lastVector := f.flags, flags := c.flags ||| f.flags }
  | .stream => if f.status = 0 then c else { c with sstat := f.status }

/-- A non-zero stream status queues a record of class STREAM_STATUS (R131, Table 18.2). -/
def State.statusRecord (s : State) (n : Nat) (o : Op) (status : Nat) : State :=
  s.capture 0x22 { die := coreDie n, source := blkCore n, step := some o.step, att := o.att,
                   syndrome := leBytes 1 status ++ leBytes 8 o.pc.toNat }

/-- An operation that is done leaves its engine. -/
def State.complete (s : State) (n : Nat) (x : Ctx) (k : Eng) : State :=
  let c := s.ctx n x
  match c.flight k with
  | none => s
  | some f =>
    if !f.done then s
    else
      let s := s.setCtx n x (s.settleCtx n x (((c.setFlight k none).deliver f k).count k))
      if f.status = 0 then s else s.statusRecord n f.op f.status

/-- Operations that end while they are still queued for the stream engine: they leave the queue, count as complete and deliver their
status (R99, R131, R223, R224). -/
def State.endQueued (s : State) (n : Nat) (x : Ctx) (gone : Op → Bool) (status : Nat) : State :=
  let c := s.ctx n x
  let os := c.qS.filter gone
  if os = [] then s
  else
    let s := s.setCtx n x (s.settleCtx n x { c with qS := c.qS.filter (fun o => !gone o), cntS := c.cntS + BitVec.ofNat 16 os.length,
                                                    sstat := if status = 0 then c.sstat else status })
    if status = 0 then s else os.foldl (fun s o => s.statusRecord n o status) s

def execOperationComplete (n : Nat) (x : Ctx) (k : Eng) (s : State) : Host.Outcome State Fault Refusal :=
  if n < Config.cores s.part then .next (s.complete n x k) else .next s

end Sys2Proof.Machine
end

