-- ==== Sys2Proof/Machine/Fabric.lean ====
section
/-! DEFINITION. Packets of the package's own: stamping and injection, answers, messages and their ends, LINE stages; and the router
(R248 to R274): editions, route entries, channels, ports and credits. -/

namespace Sys2Proof.Machine

/-- The fabric of the package is at work: READY, a warm reset included, and not in Vigil mode. -/
def State.fabricOn (s : State) : Bool := s.boot.state == .ready

/-! ### Coordinates (R248, R249) -/

/-- Size k of dimension d (R249). -/
def dimSize (dim d : Nat) : Nat := bitsOf dim (4 * d) 4 + 1
/-- Coordinate of a node in dimension d (R248). -/
def coordOf (node d : Nat) : Nat := bitsOf node (4 * d) 4
/-- The node with another coordinate in dimension d. -/
def withCoord (node d c : Nat) : Nat := node - coordOf node d * 16 ^ d + c * 16 ^ d
/-- The neighbour in direction 2d (+) or 2d + 1 (−) (R16, R249). -/
def neighbour (dim node dir : Nat) : Nat :=
  let d := dir / 2
  let k := dimSize dim d
  withCoord node d ((coordOf node d + if dir % 2 = 0 then 1 else k - 1) % k)
/-- Does the node belong to the torus? -/
def inTorus (dim node : Nat) : Bool := (List.range 4).all (fun d => coordOf node d < dimSize dim d)
/-- (to − from) mod k in dimension d. -/
def ahead (dim src dst d : Nat) : Nat := (coordOf dst d + dimSize dim d - coordOf src d % dimSize dim d) % dimSize dim d
/-- A packet sent in this direction from this node crosses a wraparound link (R249). -/
def wraps (dim node dir : Nat) : Bool :=
  let d := dir / 2
  if dir % 2 = 0 then coordOf node d + 1 = dimSize dim d else coordOf node d = 0

/-- The entry that edition 0 holds for a destination (R257). -/
def generatedEntry (dim node dst : Nat) : Nat :=
  if dst = node then 0x8800
  else if !inTorus dim dst then 0
  else
    let diff := (List.range 4).filter (fun d => coordOf node d ≠ coordOf dst d)
    let half (d : Nat) : Nat := dimSize dim d
    let edir := match diff with
      | [] => 8
      | d :: _ => 2 * d + if 2 * ahead dim node dst d ≤ half d then 0 else 1
    let amask := (diff.map (fun d =>
      let a := 2 * ahead dim node dst d
      2 ^ (2 * d) * (if a < half d then 1 else if half d < a then 2 else 3))).sum
    0x8000 + edir * 256 + amask

/-- A SHADOW_TABLE entry that nothing has written: VALID resets to 1 (Table 11.3); EDIR and AMASK, for which the table gives no value, to 0 (DESIGN
CHOICE, log entry 111). -/
def routeReset : Half := 0x8000

/-- Route entry of a destination. -/
def Routes.entry : Routes → Nat → Nat
  | .generated node dim, dst => generatedEntry dim node dst
  | .loaded t, dst => (Table.read routeReset dst t).toNat

/-- The bank that holds an edition (R262). -/
def Almanac.bank (a : Almanac) (e : Nat) : Option Routes :=
  if a.curEd = e then some a.cur
  else if (a.bank2 = .shadow || a.bank2 = .previous) && a.secondEd = e then some a.second
  else none

/-- Count a packet stamped or accepted, by its edition (ACC of R265). -/
def Almanac.tally (a : Almanac) (e : Nat) : Almanac :=
  if e = a.curEd then { a with accCur := a.accCur + 1 }
  else if a.bank2 = .previous && e = a.secondEd then { a with accPrev := a.accPrev + 1 }
  else if e = (a.curEd + 1) % 256 then { a with accNext := a.accNext + 1 }
  else a

def State.setAlmanac (s : State) (f : Almanac → Almanac) : State := { s with almanac := f s.almanac }

/-! ### Packets and messages (R251, R252, R256) -/

/-- Source units (Table 11.1): a core, a die's exchange unit, a die's management and security controller. -/
def unitExch (die : Nat) : Nat := 0x70 + die
def unitMgt (die : Nat) : Nat := 0x78 + die
def unitDie (u : Nat) : Nat := if u < 0x60 then coreDie u else u % 8

/-- Die of the destination interface that consumes a packet. -/
def State.destDie (s : State) (p : Packet) : Nat :=
  match p.body with
  | .more _ _ _ d => d % Config.dies s.part
  | .write _ | .readReq _ | .atomic _ => s.dieAt p.addr
  | .queuePart q => q.slot % Config.slots s.part / 4
  | .credit c => (match c with | .grant k .. => k | .ret k .. => k | .revoke k .. => k) % Config.slots s.part / 4
  | .exchPartial k _ => k % Config.slots s.part / 4
  | .factorPart k _ => k % Config.slots s.part / 4
  | .expert k _ => k % Config.slots s.part / 4
  | .settle k _ => k % Config.slots s.part / 4
  | .expReturn k _ => k % Config.slots s.part / 4
  | .reshard c .. => c % Config.cores s.part / 24
  | .notice c .. => c % Config.cores s.part / 24
  | _ => if p.isRsp then unitDie p.sunit % Config.dies s.part else 0

/-- Stamp a packet and hand it to the router of a die (R257, R258, R262, R265). -/
def State.injectAt (s : State) (die : Nat) (p : Packet) : State :=
  let cls := p.clsOf
  let p := { p with src := s.boot.node, cls := cls, len := p.body.lastLen, edition := s.almanac.curEd, hops := 0, dl := false, esc := false,
                    adp := cls ≠ 5 && !p.line && bitOf (s.obj 0x6000 2) cls }
  { s.setAlmanac (fun a => { a with accCur := a.accCur + 1 }) with router := s.router ++ [{ p := p, port := none, die := die, vc := cls, home := die }] }

/-- A packet of a unit enters at the unit's die. -/
def State.inject (s : State) (p : Packet) : State := s.injectAt (unitDie p.sunit) p

/-- Answer a request from a die (R256, R260): the answer carries the request's SUNIT and MSGID back to its source (DESIGN CHOICE, log
entry 23). -/
def State.respondAt (s : State) (die : Nat) (p : Packet) (b : Body) : State :=
  if p.isRsp then s
  else s.injectAt die { dst := p.src, src := 0, sunit := p.sunit, cls := 1, pri := p.pri, msgid := p.msgid, key := p.key, addr := p.addr, body := b }

/-- Answer from the die whose interface takes the request. -/
def State.respond (s : State) (p : Packet) (b : Body) : State := s.respondAt (s.destDie p) p b

/-- ACK, or ERROR_RSP with the status. -/
def State.answerAt (s : State) (die : Nat) (p : Packet) (status : Nat) : State :=
  s.respondAt die p (if status = 0 then .ack else .errorRsp status)
def State.answer (s : State) (p : Packet) (status : Nat) : State := s.answerAt (s.destDie p) p status

/-- A message number of the unit that no outstanding message of it uses (R252), and the state with the counter moved on. -/
def State.freshId (s : State) (u : Nat) : State × Nat :=
  let from_ := Table.read 0 u s.msgidNext
  let used (i : Nat) : Bool := s.sent.any (fun m => m.sunit == u && m.msgid == i)
  let id := ((List.range (s.sent.length + 1)).map (fun i => (from_ + i) % 65536)).find? (fun i => !used i) |>.getD from_
  ({ s with msgidNext := Table.write 0 u ((id + 1) % 65536) s.msgidNext }, id)

/-- Give consecutive packets of one message their COUNT and CLOSE. -/
def closing (n : Nat) (ps : List Packet) : List Packet :=
  ps.zipIdx.map (fun (e : Packet × Nat) => { e.1 with count := n, close := e.2 + 1 == n })

/-- Send one message; its number and the state in which it is outstanding. -/
def State.send (s : State) (u : Nat) (ps : List Packet) (acks : Nat) (op : Option (Nat × Ctx)) (off : Nat) :
    State × Nat :=
  let r := s.freshId u
  let ps := ps.flatMap (fun p => p.spread (s.destDie p))
  let ps := (closing ps.length ps).map (fun p => { p with sunit := u, msgid := r.2, src := s.boot.node })
  let s := { r.1 with sent := r.1.sent ++ [{ sunit := u, msgid := r.2, packets := ps, acks := acks, op := op, off := off }] }
  (ps.foldl State.inject s, r.2)

/-- One message of one packet from a unit of the package to a node. -/
def State.post (s : State) (u dst key : Nat) (b : Body) : State :=
  (s.send u [{ dst := dst, src := 0, sunit := u, cls := b.cls, key := key, body := b }] 1 none 0).1

/-! ### LINE stages (R273, R274) -/

/-- The nodes ahead and behind that a half line reaches. -/
def halfLine (dim node d : Nat) (plus : Bool) : List Nat :=
  let k := dimSize dim d
  (List.range (if plus then k / 2 else (k - 1) / 2)).map (fun i =>
    withCoord node d ((coordOf node d + if plus then i + 1 else k - (i + 1)) % k))

/-- Nodes of the line that the current LMASK names, the starting node left out. -/
def lineNodes (dim node d mask : Nat) : List Nat :=
  (halfLine dim node d true ++ halfLine dim node d false).filter (fun n => bitOf mask (coordOf n d))

/-- Start a stage from this node: one copy for each half line, addressed to its last node. -/
def State.startLine (s : State) (u : Nat) (ps : List Packet) (op : Option (Nat × Ctx)) (parent : Option Packet) : State × List Nat :=
  match ps with
  | [] => (s, [])
  | p :: _ =>
    let mask := p.lmask.headD 0
    let acks := (lineNodes s.boot.dim s.boot.node p.dim mask).length
    if acks = 0 then (s, [])
    else
      let r := s.freshId u
      let ps := ps.flatMap (fun p => p.spread (s.destDie p))
      let ps := (closing ps.length ps).map (fun p => { p with sunit := u, msgid := r.2, src := s.boot.node, line := true })
      let s := { r.1 with sent := r.1.sent ++ [{ sunit := u, msgid := r.2, packets := ps, acks := acks, op := op, parent := parent }] }
      let copies (plus : Bool) : List Packet := match (halfLine s.boot.dim s.boot.node p.dim plus).getLast? with
        | none => []
        | some n => ps.map (fun p => { p with dst := n })
      ((copies true ++ copies false).foldl State.inject s, [r.2])

/-- A stage and the `n` later ones that a packet carries, each started along this node's own line (R274, R237): by the originating node,
and by a node that delivered the stage before, which is the source of the stages left (DEDUCED, log entry 55). One message for each. -/
def State.startStages (s : State) (u : Nat) (op : Option (Nat × Ctx)) (parent : Option Packet) : Nat → Packet → State × List Nat
  | 0, p => s.startLine u [p] op parent
  | n + 1, p =>
    let r := s.startLine u [p] op parent
    let q := r.1.startStages u op parent n p.nextStage
    (q.1, r.2 ++ q.2)

/-! ### Records in memory -/

/-- Offset of record byte o within the region of a descriptor: tile rows lie TS records apart. -/
def Desc.recordOff (d : Desc) (o : Nat) : Nat :=
  let row := d.tB * d.recSize
  if row = 0 then o else o / row * (d.ts * d.recSize) + o % row

/-- Bytes [off, off + len) of the records of a descriptor in tile order, as they stand now. -/
def State.recordBytes (s : State) (n : Nat) (x : Ctx) (d : Desc) (off len : Nat) : List Byte :=
  let row := max 1 (d.tB * d.recSize)
  let first := off / row
  let last := (off + len + row - 1) / row
  ((List.range (last - first)).flatMap (fun i =>
    let lo := max off ((first + i) * row)
    let hi := min (off + len) ((first + i + 1) * row)
    s.sourceBytes n x d.space d.base (d.recordOff lo) (hi - lo)))

/-- Write bytes into a context's space; false where HBM refuses a unit (R313). -/
def State.spaceWrite (s : State) (n : Nat) (x : Ctx) (sp off : Nat) (bs : List Byte) : State × Bool :=
  match sp with
  | 0 => (s.rawWrite (s.partAddr n x off) bs, true)
  | 1 => (s.rawWrite (s.sbAddr n x off) bs, true)
  | _ => s.hbmWrite (s.ctx n x).key off bs

/-- Write bytes [off, off + bs.length) of the records of a descriptor in tile order. -/
def State.writeRecords (s : State) (n : Nat) (x : Ctx) (d : Desc) (off : Nat) (bs : List Byte) : State × Bool :=
  let row := max 1 (d.tB * d.recSize)
  let first := off / row
  let last := (off + bs.length + row - 1) / row
  (List.range (last - first)).foldl (fun (r : State × Bool) i =>
    let lo := max off ((first + i) * row)
    let hi := min (off + bs.length) ((first + i + 1) * row)
    let w := r.1.spaceWrite n x d.space (d.base + d.recordOff lo) (slice bs (lo - off) (hi - lo))
    (w.1, r.2 && w.2)) (s, true)

/-! ### What a context reaches, reads and writes (R110, R111, R307, R312, R313) -/

/-- May the context's stream engine reach the range of its space (R111, R307)? -/
def State.reaches (s : State) (w : Place) (sp off len : Nat) : Bool :=
  match sp with
  | 0 => s.inPart w.core w.x off len
  | 1 => s.inSb w.core w.x off len
  | _ =>
    let c := s.ctx w.core w.x
    inWindows c.windows off len && off + len ≤ Config.hbmBytes s.part && s.hasKey c.key && s.mcsOn off len
def State.reachesDesc (s : State) (w : Place) (d : Desc) : Bool := s.reaches w d.space d.base d.extent

/-- Demand reads of an HBM range, unit by unit; the units that deliver no data (R312). -/
def State.demand (s : State) (a n : Nat) : State × List Nat :=
  (unitsOf a n).foldl (fun (p : State × List Nat) u =>
    let q := p.1.demandUnit u
    (q.1.bump (0x3300 + stackOf s.part (u * 64)) 6 (inUnit a n u), if q.2 then p.2 else p.2 ++ [u])) (s, [])

/-- Local address of an offset in core memory or shared buffer as a context's space has it. -/
def State.spaceAddr (s : State) (w : Place) (sp off : Nat) : Nat :=
  if sp = 0 then s.partAddr w.core w.x off else s.sbAddr w.core w.x off

/-- Read a range of a context's space: the bytes, none where HBM delivers none and where core memory or shared buffer has an uncorrected
error. -/
def State.spaceReads (s : State) (w : Place) (sp off len : Nat) : State × List (Option Byte) :=
  if sp ≤ 1 then
    (s, (s.sourceBytes w.core w.x sp 0 off len).zipIdx.map (fun e =>
      if s.coreBad (s.spaceAddr w sp (off + e.2)) 1 then none else some e.1))
  else
    let r := s.demand off len
    (r.1, (List.range len).map (fun i =>
      if r.2.contains ((off + i) / 64) then none else some (s.hbmByte (s.ctx w.core w.x).key (off + i))))

/-- Read the records of a descriptor in tile order. -/
def State.recordReads (s : State) (w : Place) (d : Desc) : State × List (Option Byte) :=
  (List.range d.tA).foldl (fun (p : State × List (Option Byte)) a =>
    let r := p.1.spaceReads w d.space (d.tileOff a 0) (d.tB * d.recSize)
    (r.1, p.2 ++ r.2)) (s, [])

/-- The bytes, where every one was delivered. -/
def whole (bs : List (Option Byte)) : Option (List Byte) :=
  if bs.all (·.isSome) then some (bs.map (fun b => b.getD 0)) else none

/-- A destination that is left unspecified (R143): each 64-byte unit holds what the operation carries for it, or what it held; a unit
whose source data was not delivered keeps what it held. Which of them were written is a free value (log entry 6). -/
def State.writeSome (s : State) (w : Place) (sp off : Nat) (bs : List (Option Byte)) : State :=
  (unitsOf off bs.length).foldl (fun s u =>
    let lo := max off (u * 64) - off
    let part := (bs.drop lo).take (inUnit off bs.length u)
    match whole part with
    | some new => if Config.unspecifiedUnit s.unspecCount u then (s.spaceWrite w.core w.x sp (off + lo) new).1 else s
    | none => s) s
def State.writeSomeRecords (s : State) (w : Place) (d : Desc) (bs : List (Option Byte)) : State :=
  let row := d.tB * d.recSize
  (List.range d.tA).foldl (fun s a => s.writeSome w d.space (d.tileOff a 0) ((bs.drop (a * row)).take row)) s
/-- One more outcome that is left unspecified. -/
def State.unspecified (s : State) : State := { s with unspecCount := s.unspecCount + 1 }

/-! ### How a message ends (R143, R256, R274) -/

def State.sentMsg (s : State) (u id : Nat) : Option SrcMsg := s.sent.find? (fun m => m.sunit == u && m.msgid == id)
def State.setSent (s : State) (m : SrcMsg) : State :=
  { s with sent := s.sent.map (fun x => if x.sunit = m.sunit && x.msgid = m.msgid then m else x) }

/-- The operation that waits for the message hears its end: it is done when none of its messages is outstanding (R143), but for a RESHARD
whose own check has still to pass (R296). -/
def Flight.heard (f : Flight) (id status : Nat) : Flight :=
  if !f.awaiting.contains id then f
  else
    let rest := f.awaiting.filter (· ≠ id)
    let status := if f.status = 0 then status else f.status
    let more := opcodeOf .stream f.op.word = 20 && status = 0
    { f with awaiting := rest, status := status, done := rest.isEmpty && !more, blocked := rest.isEmpty && more }

/-- A halting context stops once the last outstanding request of its held operations has completed (R116, Table 5.8 HALT). -/
def State.heardCtx (s : State) (n : Nat) (x : Ctx) (c : Context) : Context := if c.halting then s.settleCtx n x c else c

/-- An SPUT, SGET or SATOM whose global address names its own package: a local access (R110, R303; log entry 25). -/
def State.localAccess (s : State) (o : Op) : Bool :=
  let p := opcodeOf .stream o.word
  (p = 3 && !bitOf o.word.toNat 0 || p = 4 || p = 10) && o.reg 0 / 2 ^ 48 = s.boot.node

/-- A local access that was refused ends its operation with ACCESS, one that met no valid data with MEMORY_UC (R303, Table 13.3). -/
def State.localEnd (s : State) (n : Nat) (x : Ctx) : State :=
  match (s.ctx n x).fS with
  | none => s
  | some f =>
    if f.done && s.localAccess f.op && (f.status = 1 || f.status = 4) then
      s.opFault n x .stream f.op (if f.status = 1 then fAccess else fMemoryUc)
    else s

/-- A bank whose return is acknowledged is free (R292). -/
def XBank.acked (b : XBank) (u id : Nat) : Option XBank :=
  if b.returning.contains (u, id) then
    let rest := b.returning.filter (· ≠ (u, id))
    if rest = [] then none else some { b with returning := rest }
  else some b

/-- Two messages sent on behalf of one LINE packet. -/
def SrcMsg.sibling (m k : SrcMsg) : Bool :=
  match m.parent, k.parent with
  | some p, some q => p.src == q.src && p.sunit == q.sunit && p.msgid == q.msgid
  | _, _ => false

/-- A message is over: its operation hears of it, or the packet that it was sent on behalf of once the last such message is over. -/
def State.endMsg (s : State) (m : SrcMsg) : State :=
  let s := { s with sent := s.sent.filter (fun x => !(x.sunit == m.sunit && x.msgid == m.msgid)) }
  let s := match m.op with
    | none => s
    | some (n, x) =>
      ((s.modCtx n x (fun c => s.heardCtx n x { c with fS := c.fS.map (fun f => f.heard m.msgid m.status) })).localEnd n x).modSlot (coreSlot n)
        (fun v => { v with xbanks := v.xbanks.filterMap (fun b => b.acked m.sunit m.msgid) })
  match m.parent with
  | none => s
  | some p =>
    match s.sent.find? m.sibling with
    | some k => s.setSent { k with status := if k.status = 0 then m.status else k.status }
    | none => s.answer p m.status

/-- One answer to a message. -/
def State.answered (s : State) (u id status : Nat) : State :=
  match s.sentMsg u id with
  | none => s
  | some m =>
    let m := { m with acks := m.acks - 1, status := if m.status = 0 then status else m.status }
    if m.acks = 0 then s.endMsg m else s.setSent m

/-- Data of a read arrive: into the records of D2 from the message's first byte on, while the operation is there to take them. -/
def State.readData (s : State) (u id : Nat) (bs : List Byte) : State :=
  match s.sentMsg u id with
  | none => s
  | some m =>
    match m.op with
    | none => s.answered u id 0
    | some (n, x) =>
      match (s.ctx n x).fS with
      | none => s.answered u id 0
      | some f =>
        if !f.awaiting.contains id then s.answered u id 0
        else
          let r := s.writeRecords n x (f.op.desc 1) m.off bs
          r.1.answered u id (if r.2 then 0 else 4)

/-- A packet as it goes again to the node that refused it: a LINE packet's copy for that node alone (R271, R273). -/
def againTo (node : Nat) (p : Packet) : Packet :=
  if p.line then { p with dst := node, lmask := 2 ^ coordOf node p.dim :: p.lmask.tail } else p

/-- A source receives a BUSY refusal: the packet waits to be sent again (R271). -/
def State.refusedBusy (s : State) (u id : Nat) (p : Packet) : State :=
  match s.sentMsg u id with
  | none => s
  | some m => s.setSent { m with busy := m.busy ++ [p] }

/-- The packet of a message that a BUSY answer names, by its address. -/
def SrcMsg.packetAt (m : SrcMsg) (addr : Nat) : Option Packet := m.packets.find? (fun p => p.addr == addr)

def execAck (sunit msgid node : Nat) (s : State) : Host.Outcome State Fault Refusal :=
  .next (if s.fabricOn && node < 65536 then s.answered sunit msgid 0 else s)

def execErrorRsp (sunit msgid status : Nat) (s : State) : Host.Outcome State Fault Refusal :=
  .next (if s.fabricOn then s.answered sunit msgid status else s)

def execBusy (sunit msgid : Nat) (p : Packet) (s : State) : Host.Outcome State Fault Refusal :=
  .next (if s.fabricOn then s.refusedBusy sunit msgid p else s)

/-! ### Output: flits into link frames (R254, R276, R277) -/

/-- Direction and index of a port (R16), and ports of a direction. -/
def portDir (p : Nat) : Nat := p % 8
def portIdx (p : Nat) : Nat := p / 8
def State.portsOf (s : State) (dir : Nat) : List Nat := (List.range (Config.dies s.part)).map (fun j => 8 * j + dir)
def State.portUp (s : State) (p : Nat) : Bool := (s.fport p).state == .up

/-- Up to two credit returns that the port owes, and what it then owes still (Table 11.5). -/
def FPort.takeOwed (f : FPort) : FPort × List (Nat × Nat) :=
  let vs := ((List.range 8).filter (fun v => f.owed.getD v 0 ≠ 0)).take 2
  let rs := vs.map (fun v => (v, min 127 (f.owed.getD v 0)))
  ({ f with owed := rs.foldl (fun o r => o.set r.1 (o.getD r.1 0 - r.2)) f.owed }, rs)

/-- Put one frame into the replay buffer as it is sent, with the last SEQ accepted and credit returns; with NAK, the request to send again
(R277). -/
def FPort.pushFrame (f : FPort) (nak : Bool) (flits : List (Flit × List Byte)) : FPort :=
  let (f, rs) := f.takeOwed
  { f with txNext := (f.txNext + 1) % 4096, replay := f.replay ++ [.make f.txNext f.rxLast nak flits rs] }

/-- Return credits without waiting for a packet: IDLE frames while the port may send (R254). -/
def FPort.returnCredits (f : FPort) : FPort :=
  if f.state = .up && f.replay.length < 1024 && f.owed.any (· ≠ 0) then f.pushFrame false [] else f

/-- Input occupancy of a port in flits, for a channel (VC_DEPTH). -/
def State.vcDepth (s : State) (p v : Nat) : Nat :=
  ((s.router.filter (fun h => h.port == some p && h.vc == v && !h.left)).map (fun h => h.p.flits)).sum +
    (match (s.fport p).rxPacket with
      | some (q, n) => if q.vc = v then n else 0
      | none => 0)

/-- Flits that left the input buffer of a port are credited to its peer (R254). -/
def State.creditPeer (s : State) (p v n : Nat) : State :=
  let f := s.fport p
  s.setFport p ({ f with owed := addNth f.owed v n }.returnCredits)

/-- Flits of a channel that stand in the peer's input buffer or on their way there, or whose credits are. -/
def FPort.outstanding (f : FPort) (v : Nat) : Nat := vcBuffer v - f.credits.getD v 0
/-- Flits of PRI = 1 packets that the peer's buffer of a channel may hold (R255). -/
def FPort.brimHeld (f : FPort) (v : Nat) : Nat := ((f.inPeer.filter (fun r => r.1 = v && r.2.1)).map (·.2.2)).sum
/-- The youngest `m` flits of a channel stay outstanding: credits come back for the oldest (DESIGN CHOICE, log entry 130). -/
def keepYoungest (v m : Nat) (rs : List (Nat × Bool × Nat)) : List (Nat × Bool × Nat) :=
  (rs.foldr (fun r (a : List (Nat × Bool × Nat) × Nat) =>
    if r.1 ≠ v then (r :: a.1, a.2)
    else
      let n := min r.2.2 a.2
      (if n = 0 then a.1 else (v, r.2.1, n) :: a.1, a.2 - n)) ([], m)).1

/-- Send a packet on a port (R254, R259, R261): HOPS rises, credits are consumed, counters rise. -/
def State.transmit (s : State) (p : Nat) (q : Packet) : State :=
  let q := { q with hops := q.hops + 1 }
  let f := s.fport p
  let f := { f with credits := f.credits.set q.vc (f.credits.getD q.vc 0 - q.flits),
                    flitsSent := f.flitsSent.set q.vc (satAdd 64 (f.flitsSent.getD q.vc 0) q.flits),
                    inPeer := f.inPeer ++ [(q.vc, q.pri, q.flits)] }
  let s := s.setFport p (q.frames.foldl (fun f fs => f.pushFrame false fs) f)
  (s.bump (0x6200 + p) 1 1).bump (0x6200 + p) 3 q.flits

/-! ### The router (R258 to R261) -/

/-- What the router does with a packet. -/
inductive Hop where
  | deliver
  | out (port : Nat) (esc : Bool)
  /-- Held: its port's channel lacks credit, or its port room in the replay buffer. -/
  | wait (port vc : Nat)
  | unreachable
  | loop
  | noPort
  | stale
  deriving DecidableEq, Repr

/-- DL as the packet leaves in a direction: cleared when the dimension changes (R259). -/
def HeldPacket.dlOut (h : HeldPacket) (dir : Nat) : Bool :=
  match h.port with
  | some p => if portDir p / 2 = dir / 2 then h.p.dl else false
  | none => false

/-- Port for a packet that leaves in a direction on a channel: the named one, else the UP port with most free credits (R260). -/
def State.portFor (s : State) (h : HeldPacket) (dir vc : Nat) : Option Nat :=
  let named := 8 * (match h.port with | some p => portIdx p | none => h.home) + dir
  if s.portUp named && portIdx named < Config.dies s.part then some named
  else
    ((s.portsOf dir).filter s.portUp).foldl (fun (b : Option Nat) p =>
      match b with
      | none => some p
      | some q => if ((s.fport q).credits.getD vc 0) < ((s.fport p).credits.getD vc 0) then some p else some q) none

/-- The channel of a port has credits for every flit of the packet, and for a PRI = 1 packet room in its share BRIM_SHARE of the peer's
buffer (R254, R255). -/
def State.hasCredit (s : State) (p vc : Nat) (q : Packet) : Bool :=
  let f := s.fport p
  q.flits ≤ f.credits.getD vc 0 && (!q.pri || f.brimHeld vc + q.flits ≤ s.obj 0x6000 3)

/-- The port has credits for the packet, and room for its frames in the replay buffer (R254, R277). -/
def State.admits (s : State) (p vc : Nat) (q : Packet) : Bool :=
  s.hasCredit p vc q && (s.fport p).replay.length + ceilDiv q.flits 4 ≤ 1024

/-- The best candidate direction of the class channel: most free credits, lowest direction on a tie (R258 step 1). -/
def State.classPort (s : State) (h : HeldPacket) (dirs : List Nat) : Option Nat :=
  (dirs.filterMap (fun d => s.portFor h d h.p.cls)).foldl (fun (b : Option Nat) p =>
    if !s.admits p h.p.cls h.p then b
    else match b with
      | none => some p
      | some q => if ((s.fport q).credits.getD h.p.cls 0) < ((s.fport p).credits.getD h.p.cls 0) then some p else some q) none

/-- The routing decision (R258, R261, R262). -/
def State.hop (s : State) (h : HeldPacket) : Hop :=
  match s.almanac.bank h.p.edition with
  | none => .stale
  | some r =>
    let e := r.entry h.p.dst
    let edir := bitsOf e 8 4
    if h.copy then .deliver
    else if !bitOf e 15 then .unreachable
    else if edir = 8 then .deliver
    else if h.p.hops ≥ 63 then .loop
    else
      let adp := h.p.adp && !h.p.line
      let dirs := if h.p.esc then [] else if adp then (setBits 8 (e % 256)).filter (fun d => (s.portFor h d h.p.cls).isSome) else [edir]
      match s.classPort h dirs with
      | some p => .out p false
      | none =>
        let ev := if h.dlOut edir then 7 else 6
        match s.portFor h edir ev with
        | some p => if s.admits p ev h.p then .out p true else .wait p (if h.p.esc then ev else h.p.cls)
        | none =>
          match dirs.filterMap (fun d => s.portFor h d h.p.cls) with
          | [] => .noPort
          | p :: _ => .wait p h.p.cls

/-- The packet as it leaves on a port. -/
def HeldPacket.outgoing (h : HeldPacket) (p : Nat) (esc : Bool) : Packet := { h.p with dl := h.dlOut (portDir p), esc := h.p.esc || esc }

/-! ### Between dies (R14, R15, R260) -/

/-- The next die on the way to another: the grid column first, then the row (R15, Table 1.4). -/
def nextDie (a b : Nat) : Nat := if a % 2 ≠ b % 2 then Nat.xor a 1 else Nat.xor a 2

/-- An edge between two neighbouring dies, passed on the stripe of a hash: four stripes across, six down (R14, R304). -/
def crossing (a b h : Nat) : Crossing :=
  let v := decide (a % 2 = b % 2)
  ⟨v, h % (if v then 6 else 4)⟩

/-- What chooses a packet's stripe: the stack of the address that it reads, writes or answers, else its source unit (R14; log entry 131). -/
def State.stripeHash (s : State) (p : Packet) : Nat :=
  match p.body with
  | .write _ | .readReq _ | .readRsp _ | .atomic _ | .exchDelivery _ => stackOf s.part p.addr
  | _ => p.sunit

/-- The edges between the die of a core and that of the stack which holds an HBM address: the path of the core's own access to it (R14, R15,
R305). Nothing else depends on it. -/
def State.hbmPath (s : State) (n a : Nat) : List Crossing :=
  let k := stackOf s.part a
  let c := coreDie n
  let d := k / 6
  if c = d then []
  else
    let m := nextDie c d
    crossing c m k :: (if m = d then [] else [crossing m d k])

/-- Its flits leave the input buffer of the port that a packet came in on, once. -/
def State.unbuffer (s : State) (h : HeldPacket) : State :=
  match h.port with
  | some p => if h.left then s else s.creditPeer p h.vc h.p.flits
  | none => s

/-- A held packet crosses one die-to-die edge toward a die. -/
def State.cross (s : State) (n : Nat) (h : HeldPacket) (die : Nat) : State :=
  let d := nextDie h.die die
  { s.unbuffer h with router := s.router.set n { h with die := d, left := true, crossed := h.crossed ++ [crossing h.die d (s.stripeHash h.p)] } }

/-! ### The order of service (R254, R255) -/

/-- Places and channels of the packets that can leave on a port, in the order in which the routers hold them. -/
def State.ready (s : State) (p : Nat) : List (Nat × Nat × Packet) :=
  s.router.zipIdx.filterMap (fun e => match s.hop e.1 with
    | .out q esc => if q = p && e.1.die = portIdx p then some (e.2, (e.1.outgoing p esc).vc, e.1.p) else none
    | _ => none)

/-- Channels in the order in which an output serves them: MGT, ESC1, ESC0, then VCs 0 to 4 in round robin. -/
def FPort.order (f : FPort) : List Nat := [5, 7, 6] ++ (List.range 5).map (fun i => (f.rrNext + i) % 5)

/-- The packet that an output serves next: a PRI = 1 packet once 15 flits have passed it by; else of the first channel in order a PRI = 0 packet
before a PRI = 1 one. -/
def State.served (s : State) (p : Nat) : Option (Nat × Nat × Packet) :=
  let f := s.fport p
  let rs := s.ready p
  let starved := if 15 ≤ f.brimWait then rs.find? (fun r => r.2.2.pri) else none
  match starved with
  | some r => some r
  | none => (f.order.filterMap (fun v =>
      match rs.find? (fun r => r.2.1 = v && !r.2.2.pri) with
      | some r => some r
      | none => rs.find? (fun r => r.2.1 = v))).head?

/-- Is it the n-th packet's turn at a port? -/
def State.turn (s : State) (p n : Nat) : Bool := (s.served p).any (fun r => r.1 = n)

/-- What an output notes as it serves a channel: the next channel of the round, and the flits that have passed waiting PRI = 1 packets by, 15 for
each flit that these are given. -/
def State.noteServed (s : State) (p n : Nat) (q : Packet) : State :=
  let waits := (s.ready p).any (fun r => r.2.2.pri && r.1 ≠ n)
  let f := s.fport p
  s.setFport p { f with rrNext := if q.vc < 5 then (q.vc + 1) % 5 else f.rrNext,
                        brimWait := if !waits then 0 else if q.pri then f.brimWait - 15 * q.flits else f.brimWait + q.flits }

/-! ### A packet leaves the router -/

/-- A packet leaves the router: its flits leave the input buffer of the port it came in on. -/
def State.leave (s : State) (n : Nat) (h : HeldPacket) : State :=
  { s with router := s.router.eraseIdx n }.unbuffer h

/-- Where a record of the router stands: the port that the packet came in on, else the package. -/
def HeldPacket.errAt (h : HeldPacket) : ErrAt :=
  match h.port with
  | some p => { die := portIdx p, source := blkFport p, addr := some (h.p.dst * 2 ^ 48 + h.p.addr % 2 ^ 48) }
  | none => { die := h.die, addr := some (h.p.dst * 2 ^ 48 + h.p.addr % 2 ^ 48) }

/-- A node on the way of a LINE packet that its mask names also delivers it (R273): a copy goes to the interface. -/
def State.lineDeliver (s : State) (h : HeldPacket) : State :=
  if h.p.line && h.port.isSome && bitOf (h.p.lmask.headD 0) (coordOf s.boot.node h.p.dim) then
    { s with router := s.router ++ [{ p := h.p, port := h.port, die := h.die, vc := h.vc, home := h.home, left := true, copy := true }] }
  else s

/-- The nodes that a LINE packet has still to be delivered at, past this one (R273). -/
def lineAhead (dim node : Nat) (p : Packet) : List Nat :=
  let half := halfLine dim p.src p.dim ((halfLine dim p.src p.dim true).contains p.dst)
  let upTo := half.take (half.findIdx (fun n => n == p.dst) + 1)
  let rest := if node = p.src then upTo else upTo.drop (upTo.findIdx (fun n => n == node) + 1)
  rest.filter (fun n => bitOf (p.lmask.headD 0) (coordOf n p.dim))

/-- A request that is discarded is answered with a status (R258, R261, R279): one of a LINE packet for each node that it does not reach, with its
closing packet (DESIGN CHOICE, log entry 112). -/
def State.turnedAway (s : State) (die : Nat) (p : Packet) (status : Nat) : State :=
  if !p.line then s.answerAt die p status
  else if !p.close then s
  else (lineAhead s.boot.dim s.boot.node p).foldl (fun s _ => s.answerAt die p status) s

/-- A packet of an edition that no bank holds is discarded, counted and recorded (R262). It never reaches its nodes, so its message ends with
UNREACHABLE (DESIGN CHOICE, log entry 112): for a LINE packet, this node where it was to deliver it and those ahead. -/
def State.staleAway (s : State) (h : HeldPacket) : State :=
  let s := (s.bump 0x6300 3 1).capture 0x13 h.errAt
  let s := if h.copy then s else s.turnedAway h.die h.p 2
  let here := h.copy || (h.p.line && h.port.isSome && bitOf (h.p.lmask.headD 0) (coordOf s.boot.node h.p.dim))
  if here && h.p.close then s.answerAt h.die h.p 2 else s

/-- Route the n-th packet that the package's routers hold: across the die-to-die edges to the die of its interface or its port first, and out
of its port when the output serves it. -/
def State.route (s : State) (n : Nat) : State :=
  match s.router[n]? with
  | none => s
  | some h =>
    match s.hop h with
    | .wait _ _ => s
    | .stale => (s.leave n h).staleAway h
    | .unreachable => (((s.leave n h).lineDeliver h).bump 0x6300 1 1).turnedAway h.die h.p 2
    | .deliver =>
      if h.p.line && !h.copy then (s.leave n h).lineDeliver h
      else if h.die ≠ s.destDie h.p then s.cross n h (s.destDie h.p)
      else { s.leave n h with inbox := s.inbox ++ [(h.die, h.p)] }
    | .loop => ((((s.leave n h).lineDeliver h).bump 0x6300 2 1).capture 0x28 h.errAt).turnedAway h.die h.p 2
    | .noPort => ((((s.leave n h).lineDeliver h).bump 0x6300 1 1).capture 0x29 h.errAt).turnedAway h.die h.p 2
    | .out p esc =>
      if h.die ≠ portIdx p then s.cross n h (portIdx p)
      else if s.turn p n then
        (((s.noteServed p n (h.outgoing p esc)).leave n h).lineDeliver h).transmit p (h.outgoing p esc)
      else s

def execPacketRoute (n : Nat) (s : State) : Host.Outcome State Fault Refusal :=
  .next (if s.fabricOn then s.route n else s)

end Sys2Proof.Machine
end

