-- ==== Sys2Proof/Machine/Clock.lean ====
section
/-! DEFINITION. What passes with no command: a tick of 10 ns on every die's local counter (R363), with the stall time of packets that wait
for credit (R280). -/

namespace Sys2Proof.Machine

/-- The die is out of reset: die 0 once PORST_N is released, each other once start-up has released it, which powers its VAUX (R442); in a
stand-alone test the die under test alone (R363, R390, R399). -/
def State.dieOut (s : State) (d : Nat) : Bool :=
  match s.boot.state with
  | .rom => false
  | .dieTest => d = s.boot.testDie
  | .ready => true
  | _ => s.power.rails.contains (d, 3)

/-- The counter of every die that is out of reset rises by one. -/
def State.countUp (s : State) : State :=
  ((List.range (Config.dies s.part)).filter s.dieOut).foldl
    (fun s d => { s with counters := Table.modify 0 d (fun v => (v + 1) % 2 ^ 64) s.counters }) s

/-- Port and channel that a held packet leaves on or waits for. -/
def State.aim (s : State) (h : HeldPacket) : Option (Nat × Nat) :=
  match s.hop h with
  | .out p esc => some (p, (h.outgoing p esc).vc)
  | .wait p v => some (p, v)
  | _ => none

/-- Output ports and channels whose head packet waits for credit (R280). -/
def State.stalled (s : State) : List (Nat × Nat) :=
  let aims := s.router.filterMap (fun h => (s.aim h).map (fun a => (a, h.p)))
  ((aims.map (·.1)).eraseDups).filter (fun a => match aims.find? (fun e => e.1 = a) with
    | some e => !s.hasCredit a.1 a.2 e.2
    | none => false)

/-- One tick, while the reference clock runs (R363, R384). -/
def tick (s : State) : State :=
  if s.power.refLost then s
  else s.stalled.foldl (fun s e =>
    let f := s.fport e.1
    s.setFport e.1 { f with stall := f.stall.set e.2 (satAdd 64 (f.stall.getD e.2 0) 1) }) s.countUp

end Sys2Proof.Machine
end

