-- ==== Sys2Proof/Machine/Almanac.lean ====
section
/-! DEFINITION. The Almanac's editions (R262 to R268): loading and sealing, the switch, drain rounds and retirement. -/

namespace Sys2Proof.Machine

/-- INFL: packets of an edition that the package holds (R265): in its routers, at its interfaces, arriving on a link, and in replay
buffers until every flit is acknowledged. -/
def State.infl (s : State) (e : Nat) : Nat :=
  let links (f : FPort) : Nat :=
    (f.heldPackets.filter (fun p => p.edition == e)).length + (match f.rxPacket with | some (p, _) => bit01 (p.edition = e) | none => 0)
  (s.router.filter (fun h => h.p.edition == e)).length + (s.inbox.filter (fun h => h.2.edition == e)).length +
    (s.fports.map (fun (q : Nat × FPort) => links q.2)).sum

/-- The edition before the current one. -/
def Almanac.prevEd (a : Almanac) : Nat := (a.curEd + 255) % 256

/-- A LOAD_OPEN or SWITCH is rejected (R268). -/
def State.switchRefused (s : State) : State :=
  (s.setAlmanac (fun a => { a with switchRejected := true })).bump 0x6300 6 1

def State.loadOpen (s : State) : State :=
  if s.almanac.bank2 = .free || s.almanac.bank2 = .shadow then
    s.setAlmanac (fun a => { a with bank2 := .loading, switchRejected := false })
  else s.switchRefused

/-- The direction names a dimension of size 1. -/
def deadDir (dim dir : Nat) : Bool := dimSize dim (dir / 2) = 1

/-- A valid entry that a seal refuses (R263). -/
def entryBad (dim dst e : Nat) : Bool :=
  bitOf e 15 &&
    (9 ≤ bitsOf e 8 4 || (bitsOf e 8 4 < 8 && deadDir dim (bitsOf e 8 4)) || (setBits 8 (e % 256)).any (deadDir dim) || !inTorus dim dst)

/-- Does R263 allow the seal? -/
def State.sealOk (s : State) : Bool :=
  let a := s.almanac
  a.bank2 = .loading && a.shadowEd = (a.curEd + 1) % 256 && Table.read routeReset s.boot.node a.shadowTable = (0x8800 : Half) &&
    (List.range 65536).all (fun n => !entryBad s.boot.dim n (Table.read routeReset n a.shadowTable).toNat)

def State.loadSeal (s : State) : State :=
  s.setAlmanac (fun a =>
    if s.sealOk then { a with bank2 := .shadow, second := .loaded a.shadowTable, secondEd := a.shadowEd, sealFail := false }
    else { a with sealFail := true })

def State.switchNow (s : State) : State :=
  if s.almanac.bank2 = .shadow then
    s.setAlmanac (fun a => { a with cur := a.second, curEd := a.secondEd, bank2 := .previous, second := a.cur, secondEd := a.curEd,
                                    accPrev := a.accCur, accCur := a.accNext, accNext := 0, switchRejected := false })
  else s.switchRefused

/-- The PREVIOUS bank becomes FREE. -/
def Almanac.freed (a : Almanac) : Almanac := if a.bank2 = .previous then { a with bank2 := .free, drainLate := false } else a

/-- Nodes whose entry is valid in the CURRENT bank (R266). -/
def Almanac.nodes (a : Almanac) : List Nat := (List.range 65536).filter (fun n => bitOf (a.cur.entry n) 15)

/-- Open a drain round: a DRAIN query to each of those nodes. -/
def State.openRound (s : State) : State :=
  let q := s.almanac.nodes
  q.foldl (fun s n => s.post (unitMgt 0) n 0 .drainQuery) (s.setAlmanac (fun a => { a with queried := q, replies := [] }))

/-- START_DRAIN on a switched package (R266). -/
def State.startDrain (s : State) : State :=
  if s.almanac.bank2 = .previous && !s.almanac.coord then
    (s.setAlmanac (fun a => { a with coord := true, lastRound := none })).openRound
  else s

/-- What the package reports: its CURRENT edition, INFL and ACC of its PREVIOUS one. -/
def State.drainReport (s : State) : Nat × Nat × Nat :=
  let a := s.almanac
  if a.bank2 = .previous then (a.curEd, s.infl a.secondEd, a.accPrev) else (a.curEd, 0, 0)

/-- A DRAIN query is answered (R266). -/
def State.drainAsked (s : State) (src : Nat) : State :=
  let r := s.drainReport
  s.post (unitMgt 0) src 0 (.drainReply r.1 r.2.1 r.2.2)

/-- Every node reports the coordinator's CURRENT edition and INFL = 0. -/
def Almanac.qualifies (a : Almanac) (rs : List DrainRep) : Bool := rs.all (fun r => r.current == a.curEd && r.infl == 0)
/-- Every node's ACC is the same in both rounds. -/
def sameAcc (xs ys : List DrainRep) : Bool := xs.all (fun x => ys.any (fun y => y.node == x.node && y.acc == x.acc))

/-- The round is complete: RETIRE after two that qualify alike, else the next round (R266). -/
def State.judgeRound (s : State) : State :=
  let a := s.almanac
  let ok := a.qualifies a.replies
  let twice := match a.lastRound with | none => false | some rs => sameAcc a.replies rs && sameAcc rs a.replies
  if ok && twice then
    let s := a.queried.foldl (fun s n => if n = s.boot.node then s else s.post (unitMgt 0) n 0 (.retire a.prevEd)) s
    let s := s.setAlmanac (fun a => { a.freed with coord := false, queried := [], replies := [], lastRound := none })
    s.event 3 0 0xC8 0 (leBytes 1 a.prevEd ++ leBytes 1 a.curEd) none
  else (s.setAlmanac (fun a => { a with lastRound := if ok then some a.replies else none })).openRound

def State.drainReplied (s : State) (r : DrainRep) : State :=
  let a := s.almanac
  if !a.coord || !a.queried.contains r.node || a.replies.any (fun x => x.node == r.node) then s
  else
    let s := s.setAlmanac (fun a => { a with replies := a.replies ++ [r] })
    if s.almanac.replies.length = a.queried.length then s.judgeRound else s

/-- RETIRE: the PREVIOUS bank becomes FREE if it holds the named edition (R266). -/
def State.retired (s : State) (edition : Nat) : State :=
  if s.almanac.bank2 = .previous && s.almanac.secondEd = edition then s.setAlmanac Almanac.freed else s

/-- DRAIN_TIMEOUT ran out before RETIRE (R267). -/
def State.drainLate (s : State) : State :=
  let a := s.almanac
  if !a.coord || a.drainLate then s
  else
    let s := (s.setAlmanac (fun a => { a with drainLate := true })).capture 0x14 { source := blkAlmanac }
    s.event 4 0 0xC8 0 (leBytes 1 a.prevEd ++ leBytes 1 a.curEd) none

/-- A command to a package at work. -/
def whenOn (s t : State) : Host.Outcome State Fault Refusal := .next (if s.fabricOn then t else s)

def execLoadOpen (s : State) : Host.Outcome State Fault Refusal := whenOn s (s.unlessMulti .loadOpen s.pkgTouch.loadOpen)
def execLoadSeal (s : State) : Host.Outcome State Fault Refusal := whenOn s (s.unlessMulti .loadSeal s.pkgTouch.loadSeal)
def execSwitchEdition (s : State) : Host.Outcome State Fault Refusal := 
  whenOn s (s.unlessMulti .switchEdition s.pkgTouch.switchNow)
def execStartDrain (s : State) : Host.Outcome State Fault Refusal := whenOn s (s.unlessMulti .startDrain s.pkgTouch.startDrain)
def execForceRetire (s : State) : Host.Outcome State Fault Refusal := 
  whenOn s (s.unlessMulti .forceRetire (s.pkgTouch.setAlmanac Almanac.freed))
def execDrain (src : Nat) (s : State) : Host.Outcome State Fault Refusal := whenOn s (s.drainAsked (src % 65536))
def execDrainReply (node current infl acc : Nat) (s : State) : Host.Outcome State Fault Refusal :=
  whenOn s (s.drainReplied ⟨node, current, infl, acc⟩)
def execRetire (edition : Nat) (s : State) : Host.Outcome State Fault Refusal := whenOn s (s.retired edition)
def execDrainTimeout (s : State) : Host.Outcome State Fault Refusal := whenOn s s.drainLate

end Sys2Proof.Machine
end

