-- ==== Sys2Proof/Machine/Firmware.lean ====
section
/-! DEFINITION. The firmware store (R420 to R423): the two slots, the images they hold, and what verifies. -/

namespace Sys2Proof.Machine

/-- SERIAL: 16 fused characters (Table 15.7). -/
def serial : List Byte := (List.range 16).map (Config.fusedByte (okey 0x1000 4))

def chunkBytes : Nat := 131072

/-- A byte that was placed at manufacture in firmware slot w (an open value). -/
def factoryByte (w : Nat) (o : Nat) : Byte := Config.fusedByte (okey 0x5101 (128 + w)) o

/-- Bytes of a firmware slot. -/
def FwSlot.read (w : Nat) (f : FwSlot) (o n : Nat) : List Byte :=
  (List.range n).map (fun i =>
    match f with
    | .factory _ _ => factoryByte w (o + i)
    | .chunks c =>
      match c.find? (fun (e : Nat × List Byte) => e.1 == (o + i) / chunkBytes + 1) with
      | some e => e.2.getD ((o + i) % chunkBytes) 0
      | none => factoryByte w (o + i))

/-- A chunk lands in a slot (R423). -/
def FwSlot.put (f : FwSlot) (n : Nat) (bs : List Byte) : FwSlot :=
  match f with
  | .factory _ _ => .chunks [(n, bs)]
  | .chunks c => .chunks (Table.insert n bs c)

/-- A little-endian field of an image header (Table 19.1). -/
def FwSlot.field (w : Nat) (f : FwSlot) (o off n : Nat) : Nat := leNat (f.read w (o + off) n)

/-- Where the die-controller image begins: after the warden image, padded to 64 bytes (R423). -/
def FwSlot.dieAt (w : Nat) (f : FwSlot) : Nat := 64 * ceilDiv (512 + f.field w 0 0x10 4) 64

def Security.fw (z : Security) (w : Nat) : FwSlot := if w = 0 then z.fwA else z.fwB
def Security.setFw (z : Security) (w : Nat) (f : FwSlot) : Security := if w = 0 then { z with fwA := f } else { z with fwB := f }

/-- Type 1 is the warden image of the slot, type 2 its die-controller image: where it begins. -/
def Security.imageAt (z : Security) (w typ : Nat) : Nat := if typ = 1 then 0 else (z.fw w).dieAt w

/-- VERSION and SVN of an image. -/
def Security.imageVersion (z : Security) (w typ : Nat) : Nat × Nat :=
  match z.fw w with
  | .factory v svn => (v, svn)
  | .chunks _ => let o := z.imageAt w typ; ((z.fw w).field w o 8 4, (z.fw w).field w o 12 2)

/-- Fused SVN of a type. -/
def Security.fusedSvn (z : Security) (typ : Nat) : Nat := if typ = 1 then z.fusedSvnW else z.fusedSvnD

/-- Does an image verify (R420)? The images of manufacture are taken as formed under key 0 (DESIGN CHOICE, log entry 30). -/
def Security.imageOk (z : Security) (w typ : Nat) : Bool :=
  let f := z.fw w
  let o := z.imageAt w typ
  let svn := (z.imageVersion w typ).2
  z.fusedSvn typ ≤ svn && z.fwMinSvn ≤ svn &&
  (match f with
    | .factory _ _ => !z.revoked.contains 0
    | .chunks _ =>
      let key := f.field w o 7 1
      let size := f.field w o 0x10 4
      f.field w o 0 4 == 0x49584657 && f.field w o 4 2 == 1 && f.field w o 6 1 == typ && key ≤ 2 && !z.revoked.contains key &&
        svn ≤ 64 && size % 64 == 0 && o + 512 + size ≤ 64 * chunkBytes &&
        rsaVerify (Config.ixmerModulus key) (f.read w o 0x80) (f.read w (o + 0x80) 384) &&
        sha256 (f.read w (o + 512) size) == f.read w (o + 0x40) 32)

/-- DIGEST of a running image (Table 19.2). -/
def Security.digest (z : Security) (typ : Nat) : List Byte :=
  (z.fw z.fwBooted).read z.fwBooted (z.imageAt z.fwBooted typ + 0x40) 32

/-- FW_STS (R423). -/
def Security.fwSts (z : Security) : Nat :=
  z.fwBooted % 2 + z.fwActive % 2 * 2 + bit01 z.stagedOk * 4 + bit01 (z.fwBooted ≠ z.fwActive) * 8

/-- FW_VERSIONS (Table 19.10). -/
def Security.fwVersions (z : Security) : List Byte :=
  [(0, 1), (0, 2), (1, 1), (1, 2)].flatMap (fun (e : Nat × Nat) =>
    let v := z.imageVersion e.1 e.2
    leBytes 4 v.1 ++ leBytes 2 v.2 ++ leBytes 2 0)

end Sys2Proof.Machine
end

