-- ==== Sys2Proof/Machine/Save.lean ====
section
/-! DEFINITION. Save records (R121, Table 5.9). The table fixes the parts and their offsets; the fields of the header, of the entries of
queued and in-flight operations, and of the spare bytes of the block at 0x0040 are laid out here (DESIGN CHOICE, log
entry 20). -/

namespace Sys2Proof.Machine

def encEng : Eng → Nat
  | .matrix => 0
  | .vector => 1
  | .stream => 2
def decEng (v : Nat) : Eng := if v = 0 then .matrix else if v = 1 then .vector else .stream

/-! ### Entries of operations, 64 bytes -/

/-- Word at 0, engine 4, attempt 5, exchange attempt 6, loss-scale exponent 7, step 8, issue number 12, address 20, four registers 28. -/
def opBytes (o : Op) : List Byte :=
  leBytes 4 o.word.toNat ++ leBytes 1 (encEng o.eng) ++ leBytes 1 o.att ++ leBytes 1 (o.tag.getD 255) ++ leBytes 1 (patternOf 8 o.lexp) ++
    leBytes 4 o.step ++ leBytes 8 o.seq ++ leBytes 8 o.pc.toNat ++ (slice (o.regs.flatMap (fun r => leBytes 8 r.toNat)) 0 32) ++
    List.replicate 4 0

/-- Rebuild an operation from its entry. The record has no place for the descriptor images that the operation named at issue: they are those of
the restored table, which R103 keeps unchanged while the operation is outstanding; a DWR of such an entry in the operation's own bundle is
the one case that differs (DESIGN CHOICE, log entry 102). -/
def opOfBytes (c : Context) (bs : List Byte) : Op :=
  let k := decEng (leNat (slice bs 4 1))
  let w : Word := BitVec.ofNat 32 (leNat (slice bs 0 4))
  let regs := (List.range (match k with | .matrix => 1 | .vector => 2 | .stream => 4)).map (fun i =>
    BitVec.ofNat 64 (leNat (slice bs (28 + 8 * i) 8)))
  let r0 := (regs.getD 0 0).toNat
  let d : List DescImage := match k with
    | .matrix => [c.desc (parDa r0), c.desc (parDb r0), c.desc (parDd r0), if parDd r0 = 255 then 0 else c.desc (parDd r0 + 1)]
    | .vector => [c.desc (vecDx w), c.desc (vecDy w), c.desc (parDa r0)]
    | .stream => [c.desc (strD1 w), c.desc (strD2 w)]
  let tag := leNat (slice bs 6 1)
  { eng := k, word := w, pc := BitVec.ofNat 64 (leNat (slice bs 20 8)), regs := regs, descs := d, step := leNat (slice bs 8 4),
    att := leNat (slice bs 5 1), seq := leNat (slice bs 12 8), tag := if tag = 255 then none else some tag,
    lexp := signedOf 8 (leNat (slice bs 7 1)) }

/-- An entry that holds no operation has a zero word. -/
def entryUsed (bs : List Byte) : Bool := leNat (slice bs 0 4) ≠ 0

/-- A queue's entries in a fixed number of places. -/
def queueBytes (places : Nat) (q : List Op) : List Byte := slice (q.flatMap opBytes) 0 (64 * places)

def opsOf (c : Context) (bs : List Byte) (first places : Nat) : List Op :=
  ((List.range places).map (fun i => slice bs (first + 64 * i) 64)).filter entryUsed |>.map (opOfBytes c)

/-- The in-flight entries of a record describe operations at suspension points (R121): no other operation of an engine has one. -/
def atPoint (f : Option Flight) : Option Flight := f.filter Flight.atPoint

/-- A flight's entry: its operation's, with byte 60 the marks started, done and suspended, 61 its flags, 62 its status. -/
def flightBytes (f : Option Flight) : List Byte :=
  match f with
  | none => List.replicate 64 0
  | some f => (opBytes f.op).take 60 ++ leBytes 1 (bit01 f.started + 2 * bit01 f.done + 4 * bit01 f.suspended) ++ [f.flags] ++
      leBytes 1 f.status ++ [0]

def flightOf (c : Context) (bs : List Byte) (at' : Nat) : Option Flight :=
  let e := slice bs at' 64
  if !entryUsed e then none
  else
    let m := leNat (slice e 60 1)
    some { op := opOfBytes c e, started := bitOf m 0, done := bitOf m 1, suspended := bitOf m 2, flags := e.getD 61 0,
           status := leNat (slice e 62 1) }

/-! ### The architectural part -/

/-- Window sizes of a context: core-memory units, accumulator tiles, scale entries. -/
def State.windowSizes (s : State) (n : Nat) (x : Ctx) : Nat × Nat × Nat :=
  (s.partSize n x / unit64K, s.accSize n x, s.scaleSize n x)

/-- The header, 64 bytes: version 0, RUN, FULL and mode bits 2, key slot 3, memory units 4, tiles 5, entries 6, four windows 8, area
base and size 56 and 58, step 60. -/
def State.saveHeader (s : State) (n : Nat) (x : Ctx) (full : Bool) : List Byte :=
  let c := s.ctx n x
  let z := s.windowSizes n x
  leBytes 2 1 ++ leBytes 1 (bit01 (c.state = .halted) + 2 * bit01 full + 4 * bit01 c.emulate) ++ leBytes 1 c.key ++
    leBytes 1 z.1 ++ leBytes 1 z.2.1 ++ leBytes 2 z.2.2 ++
    slice (c.windows.flatMap (fun w => leBytes 6 w.1 ++ leBytes 6 w.2)) 0 48 ++
    leBytes 2 c.sbBase ++ leBytes 2 c.sbSize ++ leBytes 4 c.step

/-- Bytes 0x0040 to 0x007F: the fields of Table 5.9 and R131, R235, then the last flag words, the END mark and the issue count. -/
def Context.coreBytes (c : Context) : List Byte :=
  slice (leBytes 8 c.pc.toNat ++ [c.flags, c.preds] ++ leBytes 8 c.cgKey.toNat ++ leBytes 2 c.cntM.toNat ++ leBytes 2 c.cntV.toNat ++
    leBytes 2 c.cntS.toNat ++ leBytes 2 c.cntC.toNat ++ leBytes 8 c.faultAddr.toNat ++ leBytes 1 c.sstat ++ leBytes 1 (bit01 c.uflag) ++
    [c.lastMatrix, c.lastVector] ++ leBytes 1 (bit01 c.ended) ++ leBytes 8 c.issued) 0 64

/-- Bytes 0x0000 to 0x2FFF. -/
def State.archRecord (s : State) (n : Nat) (x : Ctx) (full : Bool) : List Byte :=
  let c := s.ctx n x
  s.saveHeader n x full ++ c.coreBytes ++ (List.range 32).flatMap (fun g => leBytes 8 (c.reg g).toNat) ++
    queueBytes 8 c.qM ++ queueBytes 8 c.qV ++ queueBytes 16 c.qS ++
    flightBytes (atPoint c.fM) ++ List.replicate 192 0 ++ flightBytes (atPoint c.fV) ++ flightBytes (atPoint c.fS) ++ List.replicate 1280 0 ++
    (List.range 256).flatMap (fun i => leBytes 32 (c.desc i).toNat)

/-! ### The storage windows -/

/-- An accumulator tile as an FP32 tile record (Table 5.9, R68). -/
def AccTile.record (t : AccTile) : List Byte :=
  let bad := t.elems.any (fun e => !(f32 e.2).isFin)
  ({ teo := t.off, reruns := t.reruns, accOvf := t.ovf, nonfin := bad } : TileHead).bytes ++
    (Table.readList 0 0 4096 t.elems).flatMap (fun w => leBytes 4 w.toNat)

/-- Its code-sum record. -/
def AccTile.sums (t : AccTile) : List Byte :=
  leBytes 8 t.k ++ List.replicate 56 0 ++ (Table.readList 0 0 64 t.qa).flatMap (fun q => leBytes 8 (patternOf 64 q)) ++
    (Table.readList 0 0 64 t.qb).flatMap (fun q => leBytes 8 (patternOf 64 q))

/-- A restored tile: what its record does not hold, the counts that no drain has delivered, are taken to be those of its header
(DESIGN CHOICE, log entry 103). -/
def accOf (rec sums : List Byte) : AccTile :=
  let h := TileHead.ofValue (leNat (rec.take 8))
  let r := (rec.drop 64).toArray
  let word (i : Nat) : Word := BitVec.ofNat 32 (leNat ((List.range 4).map (fun b => r.getD (4 * i + b) 0)))
  let sum (o i : Nat) : Int := signedOf 64 (leNat (slice sums (o + 8 * i) 8))
  { elems := Table.entries 0 0 ((List.range 4096).map word), off := h.teo, reruns := h.reruns, ovf := h.accOvf,
    due := h.reruns, ovfDue := h.accOvf, k := leNat (sums.take 8),
    qa := Table.entries 0 0 ((List.range 64).map (sum 64)), qb := Table.entries 0 0 ((List.range 64).map (sum 576)) }

/-- Bytes from 0x3000 (Table 5.9). -/
def State.storageRecord (s : State) (n : Nat) (x : Ctx) : List Byte :=
  let tiles := (List.range (s.accSize n x)).map (fun i => s.acc n (s.accStart n x + i))
  let es := List.range (s.scaleSize n x)
  tiles.flatMap AccTile.record ++ tiles.flatMap AccTile.sums ++
    es.flatMap (fun i => leBytes 8 (s.srfEntry n (s.scaleStart n x + i)).toNat) ++
    es.flatMap (fun i => leBytes 8 (s.rescaleEntry n (s.scaleStart n x + i)).toNat) ++
    s.rawRead (s.partAddr n x 0) (s.partSize n x)

/-- Size of the whole record. -/
def State.fullSize (s : State) (n : Nat) (x : Ctx) : Nat :=
  0x3000 + s.accSize n x * (16448 + 1088) + s.scaleSize n x * 16 + s.partSize n x

/-- Restore the storage windows from bytes 0x3000 on. -/
def State.restoreStorage (s : State) (n : Nat) (x : Ctx) (bs : List Byte) : State :=
  let t := s.accSize n x
  let e := s.scaleSize n x
  let sums := t * 16448
  let srf := sums + t * 1088
  let s := (List.range t).foldl (fun s i => s.setAcc n (s.accStart n x + i) (accOf (slice bs (i * 16448) 16448) (slice bs (sums + i * 1088) 1088))) s
  let s := (List.range e).foldl (fun s i =>
    (s.setSrf n (s.scaleStart n x + i) (BitVec.ofNat 64 (leNat (slice bs (srf + 8 * i) 8)))).setRescale n (s.scaleStart n x + i)
      (BitVec.ofNat 64 (leNat (slice bs (srf + 8 * e + 8 * i) 8)))) s
  s.rawWrite (s.partAddr n x 0) (slice bs (srf + 16 * e) (s.partSize n x))

/-! ### Reading a record -/

/-- Fields of a record's header. -/
structure Header where
  version : Nat
  run : Bool
  full : Bool
  emulate : Bool
  key : Nat
  sizes : Nat × Nat × Nat
  windows : List (Nat × Nat)
  sbBase : Nat
  sbSize : Nat
  step : Nat
  deriving DecidableEq, Repr

/-- A window whose base and limit are both zero is unused. -/
def headerOf (bs : List Byte) : Header :=
  let f := leNat (slice bs 2 1)
  { version := leNat (slice bs 0 2), run := bitOf f 0, full := bitOf f 1, emulate := bitOf f 2, key := leNat (slice bs 3 1),
    sizes := (leNat (slice bs 4 1), leNat (slice bs 5 1), leNat (slice bs 6 2)),
    windows := ((List.range 4).map (fun i => (leNat (slice bs (8 + 12 * i) 6), leNat (slice bs (14 + 12 * i) 6)))).filter (fun w => w ≠ (0, 0)),
    sbBase := leNat (slice bs 56 2), sbSize := leNat (slice bs 58 2), step := leNat (slice bs 60 4) }

/-- Windows are multiples of 64 KiB below the HBM limit, and overlap no window of a loaded context of another key slot (R306). -/
def State.windowsOk (s : State) (n : Nat) (x : Ctx) (h : Header) : Bool :=
  h.windows.all (fun w => w.1 % unit64K = 0 && w.2 % unit64K = 0 && w.1 < w.2 && w.2 ≤ Config.hbmBytes s.part) &&
  s.loaded.all (fun e => e.1 = ctxKey n x || e.2.key = h.key ||
    e.2.windows.all (fun v => h.windows.all (fun w => v.2 ≤ w.1 || w.2 ≤ v.1)))

/-- The context that a record describes. -/
def contextOf (old : Context) (h : Header) (bs : List Byte) : Context :=
  let c : Context :=
    { state := .busy, busyAfter := if h.run then .running else .idle, pc := BitVec.ofNat 64 (leNat (slice bs 0x40 8)),
      flags := bs.getD 0x48 0, preds := bs.getD 0x49 0, cgKey := BitVec.ofNat 64 (leNat (slice bs 0x4A 8)),
      cntM := BitVec.ofNat 16 (leNat (slice bs 0x52 2)), cntV := BitVec.ofNat 16 (leNat (slice bs 0x54 2)),
      cntS := BitVec.ofNat 16 (leNat (slice bs 0x56 2)), cntC := BitVec.ofNat 16 (leNat (slice bs 0x58 2)),
      faultAddr := BitVec.ofNat 64 (leNat (slice bs 0x5A 8)), sstat := leNat (slice bs 0x62 1), uflag := bitOf (leNat (slice bs 0x63 1)) 0,
      lastMatrix := bs.getD 0x64 0, lastVector := bs.getD 0x65 0, ended := bitOf (leNat (slice bs 0x66 1)) 0,
      issued := leNat (slice bs 0x67 8),
      regs := Table.entries 0 0 ((List.range 32).map (fun g => BitVec.ofNat 64 (leNat (slice bs (0x80 + 8 * g) 8)))),
      descs := Table.entries 0 0 ((List.range 256).map (fun i => BitVec.ofNat 256 (leNat (slice bs (0x1000 + 32 * i) 32)))),
      emulate := h.emulate, key := h.key, windows := h.windows, sbBase := h.sbBase, sbSize := h.sbSize, step := h.step,
      held := old.held, cmdAddrLo := old.cmdAddrLo, cmdAddrHi := old.cmdAddrHi }
  { c with qM := opsOf c bs 0x180 8, qV := opsOf c bs 0x380 8, qS := opsOf c bs 0x580 16,
           fM := flightOf c bs 0x980, fV := flightOf c bs 0xA80, fS := flightOf c bs 0xAC0 }

def Flight.release (f : Flight) : Flight := { f with suspended := false }
/-- Every held operation continues from its suspension point (R117). -/
def Context.release (c : Context) : Context :=
  { c with fM := c.fM.map Flight.release, fV := c.fV.map Flight.release, fS := c.fS.map Flight.release, suspHeld := false }

/-- Windows registered for a key slot since its key was loaded: at most 256 ranges (R432). -/
def KeySlot.register (k : KeySlot) (ws : List (Nat × Nat)) : KeySlot :=
  let rs := (k.ranges ++ ws).eraseDups
  { k with ranges := rs.take 256, tooMany := k.tooMany || 256 < rs.length }

/-- The watch table at its defaults: entry 0 valid (Table 8.10, R195). -/
def State.clearWatch (s : State) : State :=
  { s with watch := [(0, { valid := true, zsLimit := s.obj 0x2270 1, zsPpm := s.obj 0x2270 2, satPpm := s.obj 0x2270 3 })],
           watchNew := [], live := [], watchDue := [] }

/-- Is a LOAD of a Crown context for a new job (R195)? When no other loaded Crown context holds its key slot (DESIGN CHOICE, log
entry 21). -/
def State.newJob (s : State) (n : Nat) (x : Ctx) (key : Nat) : Bool :=
  x = .crown && s.loaded.all (fun e => e.1 = ctxKey n x || e.1 % 2 = 1 || e.2.key ≠ key)

/-- Zero a context's storage, with its windows of the scale and rescale tables at their reset values (Table 5.8 CLEAR). -/
def State.clearStorage (s : State) (n : Nat) (x : Ctx) : State :=
  let s := { s with mem := Table.drop (s.partAddr n x 0) (s.partAddr n x 0 + s.partSize n x + if x = .brim then unit64K else 0) s.mem,
                    accs := Table.drop (64 * n + s.accStart n x) (64 * n + s.accStart n x + s.accSize n x) s.accs,
                    srf := Table.drop (4096 * n + s.scaleStart n x) (4096 * n + s.scaleStart n x + s.scaleSize n x) s.srf,
                    rescale := Table.drop (4096 * n + s.scaleStart n x) (4096 * n + s.scaleStart n x + s.scaleSize n x) s.rescale }
  match x with
  | .crown => s
  | .brim => s.setCoreSt n { s.coreSt n with spill := [] }

/-! ### The three record commands -/

/-- HBM address of a context command (Table 15.12). -/
def Context.cmdAddr (c : Context) : Nat := c.cmdAddrHi.toNat * 2 ^ 32 + c.cmdAddrLo.toNat

/-- Length of a record: the whole of it where FULL is set, the context part otherwise (R121). -/
def State.recordSize (s : State) (n : Nat) (x : Ctx) (full : Bool) : Nat := if full then s.fullSize n x else 0x3000

/-- The units that a failed SAVE has reached hold bytes that the spec leaves unspecified (R452; log entry 119). A record begins at a unit, so
that all but its last unit are covered whole. -/
def State.spoil (s : State) (k a len : Nat) : State :=
  let t := (List.range (len / 64)).foldl (fun t i =>
    (t.hbmWriteUnit k (a + 64 * i) ((List.range 64).map (fun j => Config.unspecifiedByte s.unspecCount (a + 64 * i + j))) (a / 64 + i)).1) s
  { t with unspecCount := s.unspecCount + 1 }

/-- SAVE or SAVE_FULL: the state after it, and whether it was made (R121, R452). -/
def State.saveRecord (s : State) (n : Nat) (x : Ctx) (full : Bool) : State × Bool :=
  let c := s.ctx n x
  let a := c.cmdAddr
  let len := s.recordSize n x full
  if a % 64 ≠ 0 || !inWindows c.windows a len || !s.hasKey c.key || !s.mcsOn a len then (s, false)
  else match s.hbmWrite c.key a (s.archRecord n x full ++ if full then s.storageRecord n x else []) with
    | (t, true) => (t, true)
    | (t, false) => (t.spoil c.key a len, false)

/-- Before-images of the Brim context that a LOAD replaces are forgotten. -/
def State.dropSpill (s : State) (n : Nat) (x : Ctx) : State :=
  if x = .brim then s.setCoreSt n { s.coreSt n with spill := [] } else s

/-- Put a record that has been read and checked into the context (R121, R195): `fresh` says that it begins a new job. The operations of a
Crown context are never held (R118); those of a Brim context stay at their suspension points until it is active (R117). -/
def State.installRecord (s : State) (n : Nat) (x : Ctx) (kslot : Nat) (old : Context) (fresh : Bool) (h : Header) (bs : List Byte) : State :=
  let s := if fresh then s.clearWatch else s
  let s := s.setCtx n x (if x = .crown then (contextOf old h bs).release else contextOf old h bs)
  let s := s.dropSpill n x
  let s := s.setKeySlot kslot ((s.keySlot kslot).register h.windows)
  (if h.full then s.restoreStorage n x (bs.drop 0x3000) else s).remarkReshards n x

/-- LOAD: the state after it, and whether the record was taken (R95, R121, R306, R360, R432). -/
def State.loadRecord (s : State) (n : Nat) (x : Ctx) (kslot : Nat) : State × Bool :=
  let old := s.ctx n x
  let a := old.cmdAddr
  if a % 64 ≠ 0 || !s.hasKey kslot || (s.keySlot kslot).erasing || (x = .brim && !s.brimen n) || (s.profiles.active = 3 && kslot ≠ 0) ||
      Config.hbmBytes s.part < a + 64 || !s.mcsOn a 64 then (s, false)
  else match s.hbmRead kslot a 64 with
    | (t, none) => (t, false)
    | (t, some hb) =>
      let h := headerOf hb
      let len := s.recordSize n x h.full
      if h.version ≠ 1 || h.key ≠ kslot || h.sizes ≠ s.windowSizes n x || !inWindows h.windows a len || !s.windowsOk n x h ||
          !s.mcsOn a len then (t, false)
      else match t.hbmRead kslot (a + 64) (len - 64) with
        | (u, none) => (u, false)
        | (u, some bs) => (u.installRecord n x kslot old (s.newJob n x kslot) h (hb ++ bs), true)

end Sys2Proof.Machine
end

