-- ==== Sys2Proof/Machine/Contexts.lean ====
section
/-! DEFINITION. Switching and preemption (R114 to R118), context commands (R120, R121) and the core's enable (R109). -/

namespace Sys2Proof.Machine

/-! ### Readiness (R114) -/

/-- The Brim context is eligible (R114). What a SUSPENDED context waited on is withdrawn, so it waits on nothing (R116, log entry 100). -/
def State.brimEligible (s : State) (n : Nat) : Bool :=
  let c := s.ctx n .brim
  s.brimen n && !c.halting &&
    (c.state = .running || (c.state = .waiting && s.nextReady n .brim) || c.state = .suspended)

/-- The core is enabled and at work. -/
def State.coreLive (s : State) (n : Nat) : Bool := s.up && (s.block (blkCore n)).en && !(s.coreSt n).disabling

/-! ### Switching (R115 to R117) -/

/-- The holdoff ended with Crown still WAITING and Brim eligible: the sequencer activates the Brim context (R93, R115). -/
def execBrimActivate (n : Nat) (s : State) : Host.Outcome State Fault Refusal :=
  if n < Config.cores s.part then
    .next (if s.coreLive n && (s.coreSt n).active = .crown && (s.ctx n .crown).state = .waiting && !s.crownReady n && s.brimEligible n then
        (s.setCoreSt n { s.coreSt n with active := .brim, switching := true, resumed := false }).bump 0x3250 1 1
      else s)
  else .next s

/-- A flight held at its suspension point; nothing that is done is held. -/
def Flight.suspend (f : Flight) : Flight := if f.done then f else { f with suspended := true }

/-- Brim work at its boundaries (R116 steps 2 to 5): matrix, vector and stream operations are held, and a blocked queue or
synchronisation operation goes back to the front of its queue without effect. -/
def Context.preempt (c : Context) : Context :=
  let c := { c with fM := c.fM.map Flight.suspend, fV := c.fV.map Flight.suspend }
  match c.fS with
  | none => c
  | some f =>
    if f.blocked && !f.done then { c with fS := none, qS := f.op :: c.qS }
    else { c with fS := some f.suspend }

/-- Crown became ready before the first Brim bundle: the switch is abandoned and counted (R115). Work of a Brim context that BRIM_RESUME let go on
before that bundle is held again, as R116 holds it (log entry 100). -/
def execSwitchAbandoned (n : Nat) (s : State) : Host.Outcome State Fault Refusal :=
  if n < Config.cores s.part then
    .next (if s.coreLive n && (s.coreSt n).active = .brim && (s.coreSt n).switching && s.crownReady n then
        let again := (s.coreSt n).resumed && s.brimLive n
        ((if again then s.modCtx n .brim Context.preempt else s).setCoreSt n
          { s.coreSt n with active := .crown, switching := false, resumed := false, preempting := (s.coreSt n).preempting || again }).bump 0x3250 3 1
      else s)
  else .next s

/-- Crown became ready while Brim is active: Brim is preempted, and Crown issues next (R116). A Brim context that is IDLE, FAULTED or HALTED
by then is not preempted: Crown takes the core back (log entry 100). -/
def execBrimPreempt (n : Nat) (s : State) : Host.Outcome State Fault Refusal :=
  if n < Config.cores s.part then
    .next (if s.coreLive n && (s.coreSt n).active = .brim && !(s.coreSt n).switching && s.crownReady n then
        if s.brimLive n then
          ((s.modCtx n .brim Context.preempt).setCoreSt n { s.coreSt n with active := .crown, preempting := true }).bump 0x3250 2 1
        else s.setCoreSt n { s.coreSt n with active := .crown }
      else s)
  else .next s

/-- Tiles whose before-images a suspended matrix operation has in the engines: those of its first tile round (R116). -/
def State.roundTiles (s : State) (n : Nat) (f : Flight) : List Nat :=
  let d (i : Nat) : Desc := f.op.desc i
  match (accSets f.op.word (f.op.reg 0) (d 0) (d 1) (d 2)).2 with
  | [] => []
  | r :: _ => ((List.range (r.hi - r.lo)).take (popcount 4 (s.emask n))).map (fun i => s.accStart n .brim + r.lo + i)

/-- The last spill ended: the Brim context is SUSPENDED, HALTED where a HALT waits for it and no request of a held operation is outstanding, or
IDLE where it has ended with nothing outstanding; the interval since Crown's readiness is recorded (R116, R123, Tables 5.8, 6.14). -/
def execBrimSuspended (n latencyNs : Nat) (s : State) : Host.Outcome State Fault Refusal :=
  if n < Config.cores s.part then
    .next (if (s.coreSt n).preempting then
        let c := s.ctx n .brim
        let tiles := match c.fM with | some f => if f.suspended then s.roundTiles n f else [] | none => []
        let spill := tiles.foldl (fun t i => Table.write {} i (s.acc n i) t) []
        let c := if !(c.state = .running || c.state = .waiting) then c
          else if c.ended && !c.outstanding && !c.halting then { c with state := .idle, ended := false }
          else { c with state := .suspended, suspHeld := tiles ≠ [] }.settle
        ((s.setCtx n .brim c).setCoreSt n { s.coreSt n with preempting := false, spill := spill }).setTot 0x3250 4
          (min (2 ^ 32 - 1) (max (s.tot 0x3250 4) latencyNs))
      else s)
  else .next s

/-- A Brim context that was loaded or resumed by command with work of its record or of its suspension (R117, R121). -/
def State.brimHolds (s : State) (n : Nat) : Bool :=
  let c := s.ctx n .brim
  (c.state = .running || c.state = .waiting) && !(s.coreSt n).preempting &&
    (((s.coreSt n).switching && !(s.coreSt n).resumed && c.outstanding) || [c.fM, c.fV, c.fS].any (fun f => match f with | none => false | some f => f.suspended))

/-- Resumption: before-images come back from the suspension area, and the held operations continue (R117). The switch lasts until
the first bundle issues (R115). -/
def execBrimResume (n : Nat) (s : State) : Host.Outcome State Fault Refusal :=
  if n < Config.cores s.part then
    .next (if s.coreLive n && (s.coreSt n).active = .brim && !s.crownReady n && !(s.ctx n .brim).halting &&
          ((s.ctx n .brim).state = .suspended || s.brimHolds n) then
        let t := (s.coreSt n).spill.foldl (fun s e => s.setAcc n e.1 e.2) s
        (t.modCtx n .brim (fun c => { c.release with state := .running }.settle)).setCoreSt n { s.coreSt n with resumed := true, spill := [] }
      else s)
  else .next s

/-! ### Context commands (R120) -/

/-- Halt issue at the next bundle boundary and wait for the operations in the engines; a SUSPENDED Brim stops at its suspension points, once
no request of a held operation is outstanding, and one under preemption when its spill is done (Table 5.8 HALT). -/
def State.halted (s : State) (n : Nat) (x : Ctx) (c : Context) : Context :=
  if c.state = .running || c.state = .waiting || c.state = .suspended then s.settleCtx n x { c with halting := true } else c

def CtxCmd.code : CtxCmd → Nat
  | .load => 1 | .save => 2 | .saveFull => 3 | .halt => 4 | .resume => 5 | .clear => 6

/-- Is the command ignored in the state (R120)? -/
def CtxCmd.ignored (k : CtxCmd) (st : CtxState) : Bool :=
  match k with
  | .load | .save | .saveFull => !(st = .halted || st = .idle || st = .faulted || st = .empty)
  | .resume => st ≠ .halted
  | .halt => st = .idle || st = .faulted || st = .empty || st = .halted
  | .clear => false

/-- Core status: a context command was ignored (CORE_STS.WR_IGNORED). -/
def State.cmdIgnored (s : State) (n : Nat) : State := s.modBlock (blkCore n) (fun b => { b with wrIgnored := true })
/-- CORE_STS.CMD_REFUSED is set by a LOAD, SAVE or SAVE_FULL that is refused or fails, and clears when one that does neither completes (R121,
R124, R452). -/
def State.cmdResult (s : State) (n : Nat) (x : Ctx) (ok : Bool) : State :=
  if ok then s.modCtx n x (fun c => { c with cmdOk := true }) else s.modBlock (blkCore n) (fun b => { b with cmdRefused := true })

/-- A context that CLEAR leaves: everything zero (Table 5.8), the held command and the address words of the block apart. -/
def clearedCtx (c : Context) : Context :=
  { state := .busy, busyAfter := .empty, held := c.held, cmdAddrLo := c.cmdAddrLo, cmdAddrHi := c.cmdAddrHi }

/-- The messages of a context's abandoned operations are forgotten, and their packets that no link or memory has taken yet are discarded: no
other write of the context completes (R120). -/
def State.dropMessages (s : State) (n : Nat) (x : Ctx) : State :=
  let ms := s.sent.filter (fun m => m.op == some (n, x))
  let mine (p : Packet) : Bool := p.cls ≠ 1 && p.src == s.boot.node && ms.any (fun m => m.sunit == p.sunit && m.msgid == p.msgid)
  { s with sent := s.sent.filter (fun m => m.op != some (n, x)), router := s.router.filter (fun h => !(h.port.isNone && mine h.p)),
           inbox := s.inbox.filter (fun e => !mine e.2) }

/-- CLEAR: the operations are abandoned, then the storage is zeroed (R120). -/
def State.clearCtx (s : State) (n : Nat) (x : Ctx) : State :=
  ((s.dropMessages n x).clearStorage n x).setCtx n x (clearedCtx (s.ctx n x))

/-- A Brim context that a command starts or clears becomes active only under R115. -/
def State.leaveBrim (s : State) (n : Nat) (x : Ctx) : State :=
  if x = .brim then s.setCoreSt n { s.coreSt n with active := .crown, switching := false, resumed := false } else s

/-- A command acts on a context that is not BUSY; its effect stands at once, and the context stays BUSY until it is done. -/
def State.ctxAct (s : State) (n : Nat) (x : Ctx) (k : CtxCmd) (kslot : Nat) : State :=
  let c := s.ctx n x
  if k.ignored c.state then s.cmdIgnored n
  else match k with
    | .halt => s.setCtx n x (s.halted n x c)
    | .resume => (s.setCtx n x (Context.settle { (if x = Ctx.crown then c.release else c) with state := .running })).leaveBrim n x
    | .clear => (s.clearCtx n x).leaveBrim n x
    | .load =>
      let r := s.loadRecord n x kslot
      ((if r.2 then r.1 else r.1.modCtx n x (fun c => { c with state := .busy, busyAfter := c.state })).leaveBrim n x).cmdResult n x r.2
    | .save =>
      let r := s.saveRecord n x false
      (r.1.modCtx n x (fun c => { c with state := .busy, busyAfter := c.state })).cmdResult n x r.2
    | .saveFull =>
      let r := s.saveRecord n x true
      (r.1.modCtx n x (fun c => { c with state := .busy, busyAfter := c.state })).cmdResult n x r.2

/-- A context command as written (R120): a BUSY context holds one HALT or CLEAR and ignores every other. -/
def State.ctxCommand (s : State) (n : Nat) (x : Ctx) (k : CtxCmd) (kslot : Nat) : State :=
  let c := s.ctx n x
  if !s.up then s
  else if c.state = .busy then
    if (k = .halt || k = .clear) && c.held.isNone then s.setCtx n x { c with held := some k } else s.cmdIgnored n
  else s.ctxAct n x k kslot

/-- The command in progress ends: the context leaves BUSY, and the held command acts on what it left (R120); the HALT that a disable of the
core holds is no command that could be ignored (R109). -/
def State.ctxDone (s : State) (n : Nat) (x : Ctx) : State :=
  let c := s.ctx n x
  if c.state ≠ .busy then s
  else
    let s := s.setCtx n x { c with state := c.busyAfter, busyAfter := .empty, held := none, cmdOk := false }.settle
    let s := if c.cmdOk then s.modBlock (blkCore n) (fun b => { b with cmdRefused := false }) else s
    match c.held with
    | none => s
    | some k =>
      if k = .halt && (s.coreSt n).disabling then s.setCtx n x (s.halted n x (s.ctx n x)) else s.ctxAct n x k 0

/-- A write of CTXn_CMD, which consumes the block's guard (R351) but in Vigil mode (R356), and waits while a MULTI_WRITE does (R343). -/
def ctxCmd (c : Instr) (n : Nat) (x : Ctx) (k : CtxCmd) (kslot : Nat) (s : State) : Host.Outcome State Fault Refusal :=
  if n < Config.cores s.part then
    .next (s.unlessMulti c (if s.vigil then s else (s.blkTouch (blkCore n)).ctxCommand n x k kslot))
  else .next s

def execLoad (n : Nat) (x : Ctx) (kslot : Nat) (s : State) : Host.Outcome State Fault Refusal := ctxCmd (.load n x kslot) n x .load (kslot % 64) s
def execSave (n : Nat) (x : Ctx) (s : State) : Host.Outcome State Fault Refusal := ctxCmd (.save n x) n x .save 0 s
def execSaveFull (n : Nat) (x : Ctx) (s : State) : Host.Outcome State Fault Refusal := ctxCmd (.saveFull n x) n x .saveFull 0 s
def execHalt (n : Nat) (x : Ctx) (s : State) : Host.Outcome State Fault Refusal := ctxCmd (.halt n x) n x .halt 0 s
def execResume (n : Nat) (x : Ctx) (s : State) : Host.Outcome State Fault Refusal := ctxCmd (.resume n x) n x .resume 0 s
def execClear (n : Nat) (x : Ctx) (s : State) : Host.Outcome State Fault Refusal := ctxCmd (.clear n x) n x .clear 0 s

def execContextCmdDone (n : Nat) (x : Ctx) (s : State) : Host.Outcome State Fault Refusal :=
  if n < Config.cores s.part then .next (s.ctxDone n x) else .next s

/-! ### Enable and disable (R109) -/

/-- Does R109 refuse the enable? -/
def State.coreCfgBad (s : State) (n : Nat) : Bool :=
  s.memsplit n = 0 || s.accsplit n = 0 || (s.brimen n && (94 < s.memsplit n || s.accsplit n = 64))

/-- CORE_CTL.EN from 0 to 1; false where it is refused (R109, R451). -/
def State.enableCore (s : State) (n : Nat) : State × Bool :=
  if (s.block (blkCore n)).en then (s, true)
  else if s.coreCfgBad n then (s.modBlock (blkCore n) (fun b => { b with cfgBad := true }), false)
  else (s.modBlock (blkCore n) (fun b => { b with en := true, cfgBad := false }), true)

/-- A context of a core that is being disabled halts as HALT does: one that is BUSY when its command ends (R109, R120). -/
def State.disableCtx (s : State) (n : Nat) (x : Ctx) : State :=
  let c := s.ctx n x
  if c.state = .busy then s.setCtx n x { c with held := some (c.held.getD .halt) } else s.setCtx n x (s.halted n x c)

/-- CORE_CTL.EN from 1 to 0: both contexts halt, and the core waits for their in-flight operations (R109). -/
def State.disableCore (s : State) (n : Nat) : State :=
  if !(s.block (blkCore n)).en || (s.coreSt n).disabling then s
  else (((s.disableCtx n .crown).disableCtx n .brim).setCoreSt n { s.coreSt n with disabling := true })

/-- A write of CORE_CTL, which is RWG: it acts only where the block's guard is unlocked (R351). -/
def State.coreCtl (s : State) (n : Nat) (f : State → State) : State :=
  let r := s.blkGuard (blkCore n)
  if r.2 then f r.1 else r.1

def execCoreEnable (n : Nat) (s : State) : Host.Outcome State Fault Refusal :=
  if n < Config.cores s.part then .next (s.unlessMulti (.coreEnable n) (if s.up then s.coreCtl n (fun s => (s.enableCore n).1) else s)) else .next s

def execCoreDisable (n : Nat) (s : State) : Host.Outcome State Fault Refusal :=
  if n < Config.cores s.part then .next (s.unlessMulti (.coreDisable n) (if s.up then s.coreCtl n (fun s => s.disableCore n) else s)) else .next s

/-- Nothing of a context holds up the disable of its core: no command, no operation in an engine, no spill in progress. -/
def State.ctxQuiet (s : State) (n : Nat) (x : Ctx) : Bool :=
  (s.ctx n x).state ≠ .busy && !(s.ctx n x).busyFlights && !(x = .brim && (s.coreSt n).preempting)

/-- The in-flight operations of a disabling core have completed: the core is disabled (R109). -/
def State.coreDisabled (s : State) (n : Nat) : State :=
  if (s.coreSt n).disabling && s.ctxQuiet n .crown && s.ctxQuiet n .brim then
    (s.modBlock (blkCore n) (fun b => { b with en := false })).setCoreSt n
      { s.coreSt n with disabling := false, active := .crown, switching := false, resumed := false }
  else s

end Sys2Proof.Machine
end

