-- ==== Sys2Proof/Machine/Errors.lean ====
section
/-! DEFINITION. Handling error records and retiring them (R407, R410), and the error objects of Tables 18.3 and 18.4. -/

namespace Sys2Proof.Machine

/-- The handling of the record under way ends: its event is sent, and the controller takes the next (R407). -/
def State.handle (s : State) (die : Nat) : State :=
  match (s.errQueue die).find? (fun r => r.phase == .handling) with
  | none => s
  | some r =>
    let q := (s.errQueue die).map (fun x => if x.seq = r.seq then { x with phase := .handled } else x)
    let s := s.setErrQueue die (takeUp q)
    if r.sev = 0 then s else s.event 7 r.die r.source r.step (errHead r) none

def execRecordHandling (die : Nat) (s : State) : Host.Outcome State Fault Refusal :=
  if die < Config.dies s.part then .next (s.handle die) else .next s

/-- Is SEQ a at or below b, as serial numbers (R406)? -/
def seqAtMost (a b : Nat) : Bool := (b + 2 ^ 32 - a % 2 ^ 32) % 2 ^ 32 < 2 ^ 31

/-- ERR_ACK: every HANDLED record with SEQ at or below the value leaves its queue (R410). -/
def State.errAck (s : State) (v : Nat) : State :=
  (List.range (Config.dies s.part)).foldl (fun s d =>
    s.setErrQueue d ((s.errQueue d).filter (fun r => !(r.phase == .handled && seqAtMost r.seq v)))) s

/-- A write of LOST_CE to LOST_UF: the severity's share of every die is cleared (R410). -/
def State.clearLost (s : State) (sev : Nat) : State :=
  (List.range (Config.dies s.part)).foldl (fun s d =>
    { s with errors := { s.errors with lost := Table.write [0, 0, 0, 0] d ((s.lostShares d).set sev 0) s.errors.lost } }) s

def execErrAck (seq : Word) (s : State) : Host.Outcome State Fault Refusal := 
  .next (s.unlessMulti (.errAck seq) (s.pkgTouch.errAck seq.toNat))
def execLostCountWrite (sev : Nat) (s : State) : Host.Outcome State Fault Refusal := 
  .next (s.unlessMulti (.lostCountWrite sev) (s.pkgTouch.clearLost sev))

/-! ### What the error objects read as -/

/-- Records of every die in SEQ order: each goes before the first that is later. -/
def insertRec (r : ErrRec) : List ErrRec → List ErrRec
  | [] => [r]
  | t :: q => if seqAtMost t.seq r.seq then t :: insertRec r q else r :: t :: q

def State.errView (s : State) : List ErrRec :=
  ((List.range (Config.dies s.part)).flatMap s.errQueue).foldl (fun q r => insertRec r q) []

def State.lostTotal (s : State) (sev : Nat) : Nat :=
  min Config.satMax (((List.range (Config.dies s.part)).map (fun d => (s.lostShares d).getD sev 0)).sum)

/-- DIE_ERR (Table 18.3). -/
def State.dieErr (s : State) (d : Nat) : Nat :=
  let q := s.errQueue d
  let has (sev : Nat) := bit01 (q.any (fun r => r.sev == sev))
  q.length * 2 ^ 20 + bit01 (q.any (fun r => r.phase == .handling)) * 2 ^ 7 + bit01 (32 ≤ q.length) * 2 ^ 6 +
    bit01 ((s.lostShares d).any (· ≠ 0)) * 2 ^ 5 + has 3 * 2 ^ 3 + has 2 * 2 ^ 2 + has 1 * 2 + has 0

end Sys2Proof.Machine
end

