-- ==== Sys2Proof/Machine/Links.lean ====
section
/-! DEFINITION. The link layer of a fabric port (R250, R275 to R279, R415, R416): frames accepted and rejected, resends, training and
CREDIT_SYNC, DOWN and ABSENT. -/

namespace Sys2Proof.Machine

def State.modFport (s : State) (p : Nat) (f : FPort → FPort) : State := s.setFport p (f (s.fport p))

/-- The packet of each flit in a run of frames: that of the last header before it, or the one that the run begins in. -/
def flitPackets : Option Packet → List Flit → List (Option Packet)
  | _, [] => []
  | _, .head p :: fs => some p :: flitPackets (some p) fs
  | v, .pay _ :: fs => v :: flitPackets v fs

/-- The packet under way after a run of frames. -/
def packetAfter (before : Option Packet) (fs : List LinkFrame) : Option Packet :=
  match (flitPackets before (fs.map (·.flits)).flatten).getLast? with
  | none => before
  | some v => v

/-- Frames of the replay buffer up to and including SEQ `ack` are acknowledged; whether any was (R277). -/
def FPort.acked (f : FPort) (ack : Nat) : FPort × Bool :=
  match f.replay.findIdx? (fun fr => fr.seq == ack) with
  | none => (f, false)
  | some i =>
    ({ f with replay := f.replay.drop (i + 1), replayHead := packetAfter f.replayHead (f.replay.take (i + 1)), resends := 0 }, true)

/-- SYNDROME of the link classes: port, direction, SEQ (Table 18.1). -/
def linkSyndrome (p seq : Nat) : List Byte := leBytes 1 p ++ leBytes 1 (portDir p) ++ leBytes 2 seq

def linkAt (p seq : Nat) : ErrAt := { die := portIdx p, source := blkFport p, syndrome := linkSyndrome p seq }

/-- The port goes to RETRAINING with its replay buffer kept, and sends its training data (R250, R278). -/
def State.retrain (s : State) (p : Nat) : State :=
  ((s.modFport p (fun f => { f with state := .retraining, trained := false, attempts := 0, resends := 0 })).sendTrain p).bump (0x6200 + p) 8 1

/-- Fresh training, from DISABLED, DOWN or ABSENT: sequence 0, no credits before CREDIT_SYNC, an empty replay buffer, and the port's
audit counts at zero (R278, R415). -/
def FPort.fresh (f : FPort) : FPort :=
  { f with state := .training, trained := false, attempts := 0, resends := 0, txNext := 0, rxLast := 4095, nakSent := false, nakDue := false,
           replay := [], replayHead := none, rxPacket := none, inPeer := [], credits := List.replicate 8 0, owed := List.replicate 8 0,
           flitsSent := List.replicate 8 0, creditsBack := List.replicate 8 0, flitsRecvd := List.replicate 8 0 }

/-- A port starts to train afresh. -/
def State.trainAfresh (s : State) (p : Nat) : State := (s.modFport p FPort.fresh).sendTrain p

/-- An AUDIT record of a port and channel (R416). -/
def State.auditBroken (s : State) (p v : Nat) : State :=
  s.capture 0x2C { die := portIdx p, source := blkFport p, syndrome := leBytes 1 p ++ leBytes 1 v }

/-- Credits come back on a channel. A return that would lift the free count above the buffer breaks R415: an AUDIT record, and the
port retrains (R416). -/
def State.creditBack (s : State) (p v n : Nat) : State :=
  let f := s.fport p
  if f.credits.getD v 0 + n > vcBuffer v then
    ((s.setFport p { f with creditsBack := f.creditsBack.set v (satAdd 64 (f.creditsBack.getD v 0) n) }).auditBroken p v).retrain p
  else
    s.setFport p { f with inPeer := keepYoungest v (f.outstanding v - n) f.inPeer, credits := addNth f.credits v n,
                          creditsBack := f.creditsBack.set v (satAdd 64 (f.creditsBack.getD v 0) n) }

/-- DL as a packet arrives: set when it came over a wraparound link (R259). The peer in direction d sent it the opposite way. -/
def State.arrive (s : State) (p : Nat) (q : Packet) : Packet :=
  if wraps s.boot.dim (neighbour s.boot.dim s.boot.node (portDir p)) (Nat.xor (portDir p) 1) then { q with dl := true } else q

/-- A packet whose last flit has arrived stands in the router (R258, R265). -/
def State.arrived (s : State) (p : Nat) (q : Packet) : State :=
  let s := { s with router := s.router ++ [({ p := s.arrive p q, port := some p, die := portIdx p, vc := q.vc } : HeldPacket)] }
  s.bump (0x6200 + p) 2 1

/-- One flit of an accepted frame. A packet is accepted, and counted for ACC, with its header. -/
def State.takeFlit (s : State) (p : Nat) (x : Flit) : State :=
  let count (s : State) (q : Packet) : State :=
    let s := s.modFport p (fun f => { f with flitsRecvd := f.flitsRecvd.set q.vc (satAdd 64 (f.flitsRecvd.getD q.vc 0) 1),
                                             depthMax := f.depthMax.set q.vc (max (f.depthMax.getD q.vc 0) (s.vcDepth p q.vc)) })
    s.bump (0x6200 + p) 4 1
  match x with
  | .head q =>
    let s := s.setAlmanac (fun a => a.tally q.edition)
    if q.flits = 1 then count ((s.modFport p (fun f => { f with rxPacket := none })).arrived p q) q
    else count (s.modFport p (fun f => { f with rxPacket := some (q, 1) })) q
  | .pay _ =>
    match (s.fport p).rxPacket with
    | none => s
    | some (q, n) =>
      if n + 1 = q.flits then count ((s.modFport p (fun f => { f with rxPacket := none })).arrived p q) q
      else count (s.modFport p (fun f => { f with rxPacket := some (q, n + 1) })) q

/-- Resend from the oldest unacknowledged frame; the 16th resend without progress retrains (R277). -/
def State.resend (s : State) (p : Nat) : State :=
  let f := s.fport p
  if f.replay = [] then s
  else
    let s := (s.setFport p { f with resends := f.resends + 1 }).bump (0x6200 + p) 7 1
    if f.resends + 1 ≥ 16 then s.retrain p else s

/-- A DATA or IDLE frame in sequence: its acknowledgement, credits, flits and NAK take effect (R277). -/
def State.acceptFrame (s : State) (p : Nat) (f : LinkFrame) : State :=
  let s := s.modFport p (fun g => { (g.acked f.ack).1 with rxLast := f.seq, nakSent := false, nakDue := false })
  let s := f.credits.foldl (fun s c => s.creditBack p c.1 c.2) s
  let s := f.flits.foldl (fun s x => s.takeFlit p x) s
  if f.nak then s.resend p else s

/-- Send the NAK of a rejection once, in an IDLE frame with the last SEQ accepted; with the replay buffer full it waits for room (R277). -/
def FPort.sendNak (f : FPort) : FPort :=
  if f.replay.length < 1024 then { f.pushFrame true [] with nakSent := true, nakDue := false } else { f with nakSent := true, nakDue := true }

/-- A NAK that waited goes out. -/
def FPort.nakLate (f : FPort) : FPort := if f.nakDue then f.sendNak else f

/-- A rejected frame: discarded, a NAK sent once (R277), a CE record (Table 18.2). -/
def State.rejectFrame (s : State) (p : Nat) (f : LinkFrame) : State :=
  if (s.fport p).nakSent then s.modFport p FPort.nakLate
  else (s.modFport p FPort.sendNak).capture 0x02 (linkAt p f.seq)

/-- A link frame arrives. Only an UP port accepts one, and only DATA and IDLE frames carry SEQ. -/
def State.linkFrame (s : State) (p : Nat) (f : LinkFrame) : State :=
  if (s.fport p).state ≠ .up || 1 < f.typ then s
  else
    let s := (s.bump (0x6200 + p) 5 f.corrected).bump (0x6200 + p) 6 f.uncorrectable
    if f.bad || f.seq ≠ ((s.fport p).rxLast + 1) % 4096 then s.rejectFrame p f
    else s.acceptFrame p f

/-! ### Packets that a link loses (R216, R279) -/

/-- No packet can leave for the node: its entry is not valid, or no port of the direction is UP (R258, R261, Table 9.6). -/
def State.noWay (s : State) (node : Nat) : Bool :=
  let e := s.almanac.cur.entry node
  !bitOf e 15 || (bitsOf e 8 4 ≠ 8 && (s.portsOf (bitsOf e 8 4)).all (fun p => !s.portUp p))

/-- A packet lost with a replay buffer: its message ends with UNREACHABLE (Table 6.3). A closing request is answered so; one that is not leaves
its closing packet to the hold of R270; an answer is replaced by that status (DESIGN CHOICE, log entry 112). -/
def State.lost (s : State) (die : Nat) (q : Packet) : State :=
  if q.isRsp then s.injectAt die { q with body := .errorRsp 2, esc := false, dl := false }
  else if q.close then s.turnedAway die q 2 else s

/-- Messages of operations to a neighbour that no port leads to any more end with UNREACHABLE (R216). -/
def State.endUnreachable (s : State) (node : Nat) : State :=
  if !s.noWay node then s
  else (s.sent.filter (fun m => m.op.isSome && m.packets.any (fun p => p.dst == node && !p.line))).foldl (fun s m =>
    s.endMsg { m with status := if m.status = 0 then 2 else m.status }) s

/-- The replay buffer is discarded, and the messages of its packets end. -/
def State.loseReplay (s : State) (p : Nat) : State :=
  (s.fport p).heldPackets.foldl (fun s q => s.lost (portIdx p) q) (s.discardReplay p)

/-- What the neighbour of a port can no longer be reached by. -/
def State.afterLoss (s : State) (p : Nat) : State := s.endUnreachable (neighbour s.boot.dim s.boot.node (portDir p))

/-- A command on a fabric port; one that the part does not have is no unit (R16, R347). -/
def onPort (p : Nat) (s : State) (t : State) : Host.Outcome State Fault Refusal :=
  .next (if p < Config.ports s.part && s.fabricOn then t else s)

def execLinkFrame (port : Nat) (f : LinkFrame) (s : State) : Host.Outcome State Fault Refusal := onPort port s (s.linkFrame port f)

/-- A NAK acknowledges up to ACK and asks for the rest again (R277). -/
def execNak (port ack : Nat) (s : State) : Host.Outcome State Fault Refusal :=
  onPort port s (if (s.fport port).state = .up then (s.modFport port (fun f => (f.acked ack).1.nakLate)).resend port else s)

def execLinkRetry (port : Nat) (s : State) : Host.Outcome State Fault Refusal :=
  onPort port s (if (s.fport port).state = .up then s.resend port else s)

/-- The cabling check of R250: the opposite direction, the same index, and the neighbour that this direction leads to. -/
def State.peerOk (s : State) (p peerNode peerDir peerIndex : Nat) : Bool :=
  peerDir = Nat.xor (portDir p) 1 && peerIndex = portIdx p && dimSize s.boot.dim (portDir p / 2) ≠ 1 &&
    peerNode = neighbour s.boot.dim s.boot.node (portDir p)

/-- The CREDIT_SYNC that a port sends after a successful attempt (R278). Its free counts include the credits that the port owes until then. -/
def State.ownSync (s : State) (p : Nat) : PortOut :=
  .creditSync ((List.range 8).map (fun v => vcBuffer v - s.vcDepth p v)) (s.fport p).rxLast

def execTrain (port peerNode peerDir peerIndex : Nat) (s : State) : Host.Outcome State Fault Refusal :=
  onPort port s (
    let f := s.fport port
    if f.state = .training || f.state = .retraining then
      if s.peerOk port peerNode peerDir peerIndex then
        s.setFport port { f with trained := true, laneLock := 15, peerMismatch := false, owed := List.replicate 8 0, out := f.out ++ [s.ownSync port] }
      else s.setFport port { f with laneLock := 15, peerMismatch := true }
    else s)

/-- A port whose attempts all failed goes DOWN (R279). -/
def State.portDown (s : State) (p : Nat) : State :=
  let s := ((s.loseReplay p).modFport p (fun f => { f with state := .down, trained := false, laneLock := 0 })).afterLoss p
  (s.capture 0x2A (linkAt p 0)).event 5 (portIdx p) p 0
    (leBytes 1 (portDir p) ++ leBytes 1 (portIdx p) ++ leBytes 1 4) none

/-- A training attempt ran out. After three the port goes DOWN (R278, R279); one whose peer fails the cabling check stays in
TRAINING (R250). -/
def execTrainingAttemptTimeout (port : Nat) (s : State) : Host.Outcome State Fault Refusal :=
  onPort port s (
    let f := s.fport port
    if f.state = .retraining || (f.state = .training && !f.peerMismatch) then
      if f.attempts + 1 ≥ 3 then s.portDown port else s.setFport port { f with attempts := f.attempts + 1, trained := false }
    else s)

/-- Flits of a channel among those of frames to be sent again, `before` being the packet under way. -/
def flitsOn (before : Option Packet) (fs : List LinkFrame) (v : Nat) : Nat :=
  ((flitPackets before (fs.map (·.flits)).flatten).filter (fun c => c.any (fun p => p.vc = v))).length

/-- The free counts that a peer reports break R415 on a channel: more than its buffer, or, on a port that has kept its counters, fewer than this
side's account leaves it (R416; DEDUCED, log entry 24). -/
def FPort.syncBroken (f : FPort) (free credits : List Nat) (v : Nat) : Bool :=
  vcBuffer v < free.getD v 0 || (f.state = .retraining && credits.getD v 0 < f.credits.getD v 0)

/-- CREDIT_SYNC (R278): the frames that the peer accepted are acknowledged, the credit counters take the peer's free counts, less the
flits that are sent again, and credits that this side owed at its own CREDIT_SYNC stand in that, no longer in its frames. The credits that the
handshake gives back are counted, so that R415 goes on holding (DEDUCED, log entry 24); a channel on which it does not is recorded, and the port
retrains (R416). -/
def State.creditSync (s : State) (p : Nat) (free : List Nat) (lastSeq : Nat) : State :=
  let f := s.fport p
  if !f.trained || !(f.state = .training || f.state = .retraining) then s
  else
    let done := match f.replay.findIdx? (fun fr => fr.seq == lastSeq) with | some i => i + 1 | none => 0
    let before := packetAfter f.replayHead (f.replay.take done)
    let replay := (f.replay.drop done).map (·.noCredits)
    let credits := (List.range 8).map (fun v => min (vcBuffer v) (free.getD v 0) - flitsOn before replay v)
    let back := (List.range 8).map (fun v =>
      max (f.creditsBack.getD v 0) (f.flitsSent.getD v 0 - (vcBuffer v - credits.getD v 0)))
    let t := s.setFport p { f with state := .up, replay := replay, replayHead := before, credits := credits, creditsBack := back,
                                   inPeer := (List.range 8).foldl (fun rs v => keepYoungest v (vcBuffer v - credits.getD v 0) rs) f.inPeer,
                                   resends := 0, attempts := 0, nakSent := false, nakDue := false }
    match (List.range 8).filter (f.syncBroken free credits) with
    | [] => t
    | vs => (vs.foldl (fun t v => t.auditBroken p v) t).retrain p

def execCreditSync (port : Nat) (free : List Nat) (lastSeq : Nat) (s : State) : Host.Outcome State Fault Refusal :=
  onPort port s (s.creditSync port free lastSeq)

/-- ABSENT frames arrive: the replay buffer is discarded as if the port were DOWN (R279). -/
def execAbsent (port : Nat) (s : State) : Host.Outcome State Fault Refusal :=
  onPort port s (
    let f := s.fport port
    if f.state = .disabled || f.state = .down || f.state = .absent then s
    else ((s.loseReplay port).modFport port (fun f => { f with state := .absent, trained := false, laneLock := 0 })).afterLoss port)

def execAbsentEnd (port : Nat) (s : State) : Host.Outcome State Fault Refusal :=
  onPort port s (if (s.fport port).state = .absent then s.trainAfresh port else s)

/-- FPORT_CTL.EN from 0 to 1: the port trains (R278, R279). With a node ID outside the torus every port stays DISABLED (R388, R449). -/
def State.fportOn (s : State) (p : Nat) : State :=
  if (s.block (blkFport p)).en || s.boot.nodeBad then s
  else (s.modBlock (blkFport p) (fun b => { b with en := true })).trainAfresh p

/-- FPORT_CTL.EN to 0: the port sends only ABSENT frames, accepts nothing, and drops its replay buffer (R279). -/
def State.fportOff (s : State) (p : Nat) : State :=
  if !(s.block (blkFport p)).en then s
  else ((((s.modBlock (blkFport p) (fun b => { b with en := false })).loseReplay p).modFport p
    (fun f => { f with state := .disabled, trained := false, laneLock := 0, peerMismatch := false })).sendAbsent p).afterLoss p

def execFportEnable (port : Nat) (s : State) : Host.Outcome State Fault Refusal := 
  onPort port s (s.unlessMulti (.fportEnable port) ((s.blkTouch (blkFport port)).fportOn port))
def execFportDisable (port : Nat) (s : State) : Host.Outcome State Fault Refusal := 
  onPort port s (s.unlessMulti (.fportDisable port) ((s.blkTouch (blkFport port)).fportOff port))

end Sys2Proof.Machine
end

