-- ==== Sys2Proof/Machine/Memory.lean ====
section
/-! DEFINITION. What a memory controller does on its own: the patrol scrub (R314) and the loss of a stack (R301). -/

namespace Sys2Proof.Machine

/-- Units of a stack: 48 GiB of 64 bytes (R300). -/
def stackUnits : Nat := 48 * 2 ^ 30 / 64

/-- The HBM unit that the patrol of a stack reads next, in ascending stack address. -/
def State.scrubUnit (s : State) (stack : Nat) : Nat := hbmOf s.part stack (64 * Table.read 0 stack s.scrubAt) / 64

/-- What the scrub does to one unit: it rewrites a corrected one, poisons one it finds uncorrectable, and counts nothing for one that is
poisoned already (R314, R316). -/
def State.scrubOne (s : State) (stack u : Nat) : State :=
  let w : ErrAt := { die := stack / 6, source := blkMc stack, addr := some (u * 64), syndrome := memSyndrome s u }
  match s.unitCondOf u with
  | .clean | .poisoned => s
  | .correctable => (((s.setCond u {}).mcCount stack 1 0).bump (0x3300 + stack) 1 1).capture 0x01 w
  | .uncorrectable => (((s.setCond u { poison := true }).mcCount stack 0 1).bump (0x3300 + stack) 2 1).capture 0x15 w

/-- The patrol moves on; a pass ends with the last unit of the stack. -/
def State.scrubNext (s : State) (stack : Nat) : State :=
  let i := Table.read 0 stack s.scrubAt
  if i + 1 < stackUnits then { s with scrubAt := Table.write 0 stack (i + 1) s.scrubAt }
  else { s with scrubAt := Table.write 0 stack 0 s.scrubAt }.bump (0x3300 + stack) 4 1

/-- The stacks are powered and trained: at work, or in Vigil mode (Table 18.5). -/
def State.memoryOn (s : State) (stack : Nat) : Bool :=
  (s.boot.state == .ready || s.boot.state == .vigil) && !s.untrained.contains stack

def execPatrolScrub (stack : Nat) (s : State) : Host.Outcome State Fault Refusal :=
  if stack < Config.stackCount s.part then
    .next (if s.memoryOn stack then (s.scrubOne stack (s.scrubUnit stack)).scrubNext stack else s)
  else .next s

/-- A stack or controller loses training: a UF record, and Vigil mode. It serves no read from then on (R301, R413). -/
def execStackFail (stack : Nat) (s : State) : Host.Outcome State Fault Refusal :=
  if stack < Config.stackCount s.part then
    .next (if s.memoryOn stack then
        { s with untrained := s.untrained ++ [stack] }.capture 0x30 { die := stack / 6, source := blkMc stack }
      else s)
  else .next s

end Sys2Proof.Machine
end

