-- ==== Sys2Proof/Machine/Sessions.lean ====
section
/-! DEFINITION. Host ports and Jorto sessions as the rest of the package sees them: a port's link, the end of a session with what it does to
the event queue (R320, R323, R327, R328), and acknowledgements. -/

namespace Sys2Proof.Machine

/-- Number of a port: 0 host port A, 1 host port B, 2 the management port. -/
def netNo : NetPort → Nat
  | .hostA => 0 | .hostB => 1 | .mgt => 2

def State.link (s : State) (p : NetPort) : LinkState := Table.read .disabled (netNo p) s.links
def State.setLink (s : State) (p : NetPort) (l : LinkState) : State := { s with links := Table.write .disabled (netNo p) l s.links }

/-- PORT_EN and PORT_RATE of a host port (Tables 14.1, 14.7). -/
def State.portEn (s : State) (p : NetPort) : Bool := s.obj (0x1100 + netNo p) 1 ≠ 0
def State.portRate (s : State) (p : NetPort) : Nat := s.obj (0x1100 + netNo p) 2

/-- The state an enabled port comes up in: rate 3 disables it, else the link is up once the partner is there (R317). -/
def State.portUpState (s : State) (p : NetPort) (partner : Bool) : LinkState :=
  if !s.portEn p || s.portRate p = 3 then .disabled else if partner then .up else .down

/-- The addresses of a host port (R319); zero: not configured. -/
def State.ipv4 (s : State) (p : NetPort) : Nat := s.obj (0x1100 + netNo p) 6
def State.ipv6 (s : State) (p : NetPort) : Nat := beNat (s.oct (0x1100 + netNo p) 8)

def State.ownIp (s : State) (p : NetPort) (v6 : Bool) : Nat := if v6 then s.ipv6 p else s.ipv4 p

/-- Is it the address of an IPv4 source? It is held IPv4-mapped. -/
def isIpv4 (ip : Nat) : Bool := ip / 2 ^ 32 = 0xFFFF
/-- A datagram is for the port's own address: the port has one of the datagram's kind, and the datagram names no other (R318, R319). -/
def State.toOwn (s : State) (p : NetPort) (v6 : Bool) (f : EthFrame) : Bool := s.ownIp p v6 ≠ 0 && f.ip.getD (s.ownIp p v6) = s.ownIp p v6

/-- Corrected codewords that come with a frame at a host port go into the wear ledger, HOST_CE (Table 19.8). -/
def State.fecIn (s : State) (p : NetPort) (f : EthFrame) : State :=
  if p = .mgt || f.corrected = 0 || s.link p ≠ .up then s
  else s.modLedger (fun l => { l with hostCe := Table.modify 0 (netNo p) (fun v => satAdd 64 v f.corrected) l.hostCe })

/-- A frame is discarded and counted (R318, R322). -/
def State.frameDiscard (s : State) (p : NetPort) : State := s.bump (0x3320 + netNo p) 1 1

/-! ### Sessions -/

/-- Does it leave by the management port? -/
def NetOut.onMgt : NetOut → Bool
  | .dorub r => r.req.port = .mgt
  | .heartbeat _ _ _ _ => true
  | _ => false

/-- The coordinator of the management segment opens each cycle with a beacon for PLCA_NODE_COUNT nodes (R332; DESIGN CHOICE: the model shows
that of the cycles in which the package sends, log entry 122). -/
def State.plca (s : State) (o : NetOut) : List NetOut := if o.onMgt && s.boot.plcaNode = 0 then [.plcaBeacon (s.obj 0x1110 2)] else []

/-- What the package puts on a link. -/
def State.emit (s : State) (o : NetOut) : State := { s with net := s.net ++ s.plca o ++ [o] }

/-- A session no longer waits for an event; one that every receiver has acknowledged leaves the queue (R327). -/
def dropReceiver (id : Nat) (which : Event → Bool) (es : List Event) : List Event :=
  (es.map (fun e => if which e then { e with sessions := e.sessions.filter (· ≠ id) } else e)).filter (fun e => e.sessions ≠ [])

/-- A session ends: one CLOSE where it is sent, its unsent events counted as undelivered, its place in the event queue given up (R323,
R327). -/
def State.closeSession (s : State) (id : Nat) (send : Bool) : State :=
  match s.session id with
  | none => s
  | some ss =>
    let s := if send then s.emit (.jorto ss.port ss.ip ss.udp ss.id ss.rxNext ⟨3, ss.txNext, 0, 0, 0, [], none⟩) else s
    { s with sessions := s.sessions.filter (fun t => t.id ≠ id), events := dropReceiver id (fun _ => true) s.events }.bump 0x3330 2
      (ss.waitingTx.filter (fun (m : JMsg) => m.event.isSome)).length

/-- Every session that a test picks ends. -/
def State.closeSessions (s : State) (which : Session → Bool) (send : Bool) : State :=
  ((s.sessions.filter which).map (fun ss => ss.id)).foldl (fun s id => s.closeSession id send) s

/-- A host port's link goes down: its sessions close without CLOSE messages (R320, R328). -/
def State.linkOff (s : State) (p : NetPort) (l : LinkState) : State :=
  (s.closeSessions (fun ss => ss.port == p) false).setLink p l

/-- A write of PORT_EN, which is also HPORT CTL.EN: from 1 to 0 the link goes down and its sessions close, from 0 to 1 it comes up (R320). -/
def State.writePortEn (s : State) (p : NetPort) (en : Bool) : State :=
  let t := s.setObj (0x1100 + netNo p) 1 (bit01 en)
  if en = s.portEn p then s
  else if en then t.setLink p (t.portUpState p false)
  else t.linkOff p .disabled

/-! ### Acknowledgements (R323) -/

/-- Does ACK = n acknowledge SEQ q? It names every message below n. -/
def ackCovers (n q : Nat) : Bool := let d := (n + 2 ^ 32 - q % 2 ^ 32) % 2 ^ 32; 0 < d && d < 2 ^ 31

/-- Messages that waited go out while fewer than 256 are unacknowledged. -/
def State.sendWaiting (s : State) (id : Nat) : State :=
  match s.session id with
  | none => s
  | some ss =>
    let n := 256 - ss.unacked.length
    let out := ss.waitingTx.take n
    let s := s.setSession { ss with unacked := ss.unacked ++ out, waitingTx := ss.waitingTx.drop n }
    out.foldl (fun s m => s.emit (.jorto ss.port ss.ip ss.udp ss.id ss.rxNext m)) s

/-- The host acknowledges every message below n: its events are acknowledged with it, and the resend timer starts anew. -/
def State.acked (s : State) (id n : Nat) : State :=
  match s.session id with
  | none => s
  | some ss =>
    let gone := ss.unacked.filter (fun m => ackCovers n m.seq)
    if gone = [] then s
    else
      let s := s.setSession { ss with unacked := ss.unacked.filter (fun m => !ackCovers n m.seq), resends := 0, rtoUs := s.obj 0x1120 1 }
      let s := { s with events := dropReceiver id (fun e => gone.any (fun m => m.event == some e.num)) s.events }
      s.sendWaiting id

end Sys2Proof.Machine
end

