-- ==== Sys2Proof/Machine/Watch.lean ====
section
/-! DEFINITION. The numerics watch (R191 to R195): the watch table as the host reads and writes it, and the evaluation of an attempt. -/

namespace Sys2Proof.Machine

def State.watchEntry (s : State) (i : Nat) : WatchEntry := Table.read {} i s.watch
/-- The entry as last written, effective at the next evaluation (R192). -/
def State.watchWritten (s : State) (i : Nat) : WatchEntry := Table.read (s.watchEntry i) i s.watchNew

/-- The 64 bytes of an entry (Table 8.7). -/
def WatchEntry.bytes (w : WatchEntry) (c : WatchEntry) : List Byte :=
  let u16 (v : Nat) := leBytes 2 (min v 65535)
  let u32 (v : Nat) := leBytes 4 (min v (2 ^ 32 - 1))
  let u64 (v : Nat) := leBytes 8 (min v (2 ^ 64 - 1))
  leBytes 4 w.tid ++ leBytes 1 (bit01 w.valid) ++ leBytes 1 0 ++ leBytes 2 w.zsLimit ++ leBytes 4 w.zsPpm ++ leBytes 4 w.satPpm ++
    u16 w.streak ++ u16 c.c.reruns ++ u16 c.c.accovf ++ leBytes 2 0 ++ u64 c.c.elems ++ u64 c.c.zeros ++ u32 c.c.sats ++ u32 c.c.escs ++
    u32 c.c.nonfin ++ u32 c.c.qev ++ u32 c.c.dclamp ++ leBytes 4 0

/-- The 65,536 bytes of WATCH_TABLE. -/
def State.watchBytes (s : State) : List Byte :=
  (List.range 1024).flatMap (fun i => (s.watchWritten i).bytes (s.watchEntry i))

/-- Nearest value of a range. -/
def clampTo (lo hi v : Nat) : Nat := max lo (min hi v)

/-- The entry after a write that covers bytes [lo, hi) of it. A write that sets VALID takes the default of a limit that it does not
itself write (R192; DESIGN CHOICE, log entry 22). -/
def State.watchAfter (s : State) (old : WatchEntry) (img : List Byte) (lo hi : Nat) : WatchEntry :=
  let covers (o n : Nat) : Bool := lo < o + n && o < hi
  let valid := bitOf (leNat (slice img 4 1)) 0
  let set := valid && !old.valid
  let f (o n : Nat) (dflt : Nat) (now a b : Nat) : Nat :=
    if covers o n then clampTo a b (leNat (slice img o n)) else if set then dflt else now
  let tid := leNat (slice img 0 4)
  { tid := tid, valid := valid, zsLimit := f 6 2 (s.obj 0x2270 1) old.zsLimit 2 4095,
    zsPpm := f 8 4 (s.obj 0x2270 2) old.zsPpm 500000 1000000, satPpm := f 12 4 (s.obj 0x2270 3) old.satPpm 0 1000000,
    streak := if tid ≠ old.tid || valid ≠ old.valid then 0 else old.streak, c := old.c }

/-- A host write of bytes at an offset of WATCH_TABLE (R192). The catch-all counts whatever its VALID says. -/
def State.writeWatch (s : State) (offset : Nat) (bs : List Byte) : State :=
  let first := offset / 64
  let last := (offset + bs.length + 63) / 64
  (List.range (min 1024 last - first)).foldl (fun s k =>
    let i := first + k
    let old := s.watchWritten i
    let lo := max offset (64 * i) - 64 * i
    let hi := min (offset + bs.length) (64 * i + 64) - 64 * i
    let img := patch (old.bytes old) lo (slice bs (64 * i + lo - offset) (hi - lo))
    let w := s.watchAfter old img lo hi
    { s with watchNew := Table.insert i w s.watchNew }) s

def execWatchTableWrite (offset : Nat) (bytes : List Byte) (s : State) : Host.Outcome State Fault Refusal :=
  .next (s.unlessMulti (.watchTableWrite offset bytes)
    (if s.boot.state = .ready || s.vigil then s.pkgTouch.writeWatch offset bytes else s))

/-! ### Evaluation (R193, R194) -/

/-- Key slot whose sessions receive watch events: that of the first enabled slot's Crown contexts. -/
def State.watchKey (s : State) : Option Nat := s.enabledSlots.head?.map s.slotKey

/-- A rule fires: one event with the evaluated step, its total raised; ZERO_STREAK queues a record, whose source is the package (R193). -/
def State.fireRule (s : State) (code entry tid step count : Nat) : State :=
  let s := (s.bump 0x3270 code 1).event 2 0 0xFFFF step
    (leBytes 1 code ++ leBytes 1 0 ++ leBytes 2 entry ++ leBytes 4 tid ++ leBytes 8 count) s.watchKey
  if code = 5 then s.capture 0x12 {} else s

/-- Rules 1 to 3 of Table 8.8 that the counts fire. -/
def countRules (w : WatchEntry) (c : Counts) : List (Nat × Nat) :=
  (if 0 < c.nonfin then [(1, c.nonfin)] else []) ++
  (if 0 < w.satPpm && 0 < c.elems && w.satPpm * c.elems ≤ c.sats * 10 ^ 6 then [(2, c.sats)] else []) ++
  (if 0 < c.accovf then [(3, c.accovf)] else [])

/-- The streak after an evaluation (R194). -/
def nextStreak (w : WatchEntry) (c : Counts) : Nat :=
  if c.elems = 0 then w.streak
  else if w.zsPpm * c.elems ≤ c.zeros * 10 ^ 6 then min 65535 (w.streak + 1)
  else 0

/-- Rules 4 and 5 fire as the streak rises to a limit. -/
def streakRules (w : WatchEntry) (k : Nat) : List (Nat × Nat) :=
  if k ≤ w.streak then []
  else (if k = ceilDiv w.zsLimit 2 then [(4, k)] else []) ++ (if 0 < w.zsLimit && k % w.zsLimit = 0 then [(5, k)] else [])

/-- Live counts of an entry in an attempt. -/
def State.liveOf (s : State) (step att entry : Nat) : Counts :=
  match s.live.find? (fun l => l.step = step && l.att = att && l.entry = entry) with
  | some l => l.c
  | none => {}

/-- Evaluate one entry. -/
def State.evalEntry (s : State) (step att i : Nat) : State :=
  let w := s.watchEntry i
  let c := s.liveOf step att i
  let k := nextStreak w c
  let s := { s with watch := Table.insert i { w with streak := k, c := c } s.watch }
  (countRules w c ++ streakRules w k).foldl (fun s r => s.fireRule r.1 i w.tid step r.2) s

/-- Is every Crown operation issued under the attempt complete (R193)? -/
def State.attemptDone (s : State) (step att : Nat) : Bool :=
  s.ctxs.all (fun e => e.1 % 2 = 1 || e.2.ops.all (fun o => !(o.step == step && o.att == att)))

/-- Evaluate an attempt, or clear its counts (R193). Host writes since the last evaluation take effect first (R192). -/
def State.evaluate (s : State) (d : WatchDue) : State :=
  let done (s : State) : State := { s with live := s.live.filter (fun l => !(l.step == d.step && l.att == d.att)),
                                           watchDue := s.watchDue.erase d }
  if !d.evaluate then done s
  else
    let s := { s with watch := s.watchNew.foldl (fun t (e : Nat × WatchEntry) => Table.write {} e.1 e.2 t) s.watch, watchNew := [] }
    let ids := (s.watch.filter (fun (e : Nat × WatchEntry) => e.2.valid || e.1 = 0)).map (fun e => e.1)
    (done (ids.foldl (fun s i => s.evalEntry d.step d.att i) s)).setTot 0x7500 2 d.step

/-- The watch evaluates the first attempt that is due and whose operations have completed. -/
def execWatchEvaluation (s : State) : Host.Outcome State Fault Refusal :=
  .next (match s.watchDue.find? (fun d => s.attemptDone d.step d.att) with
    | none => s
    | some d => s.evaluate d)

end Sys2Proof.Machine
end

