-- ==== Sys2Proof/Machine/Profiles.lean ====
section
/-! DEFINITION. The stored profiles and their commands (R357 to R360), the load of a profile at a reset, and the owner authorisation that the
warden's commands ask for (Table 19.3). -/

namespace Sys2Proof.Machine

/-! ### When the warden answers -/

/-- Does Dorub answer on the port (R331, R384, R400, R412, R421)? The host ports once they are up; the management port from the moment the
warden's firmware runs, and, of a die under stand-alone test, for die 0 alone. -/
def State.dorubPort (s : State) (p : NetPort) : Bool :=
  match s.boot.state with
  | .ready => p = .mgt || s.link p = .up
  | .vigil => p = .mgt || (!s.security.bootRomOnly && s.link p = .up)
  | .dieTest => p = .mgt && s.boot.testDie = 0
  | .release => p = .mgt
  | _ => false

/-- Does Dorub answer the requester: on a port that answers, which over a host port has an address of the requester's kind (R319)? -/
def State.dorubOn (s : State) (r : Requester) : Bool := s.dorubPort r.port && (r.port = .mgt || s.toOwn r.port (!isIpv4 r.addr) {})

/-- What a port that does not answer the requester does with its datagram: one that is up discards and counts it (R318). -/
def State.unaddressed (s : State) (r : Requester) : State := if s.dorubPort r.port then s.frameDiscard r.port else s

/-- Which indices the boot ROM serves when no firmware verifies (R421), and a die under test (R400). -/
def State.serves (s : State) (index : Nat) : Bool :=
  if s.boot.state = .dieTest then index = 0x1003
  else !s.security.bootRomOnly || index = 0x1000 || index = 0x4000 || (0x5000 ≤ index && index ≤ 0x5101)

/-- A write that a requester makes reaches the warden, which may serve its object, in its turn (R331). -/
def whenServed (c : Instr) (r : Requester) (index : Nat) (s t : State) : Host.Outcome State Fault Refusal :=
  .next (if !s.dorubOn r then s.unaddressed r else if s.serves index then s.inTurn c t else s)

/-! ### Authority (R359, R385, R427) -/

/-- Does the lifecycle state ask for an open owner authorisation of PROFILE_CMD, PROFILE_OVERRIDE, RESET_CMD, ERASE and SLOT0_SECRET
(Table 19.3)? -/
def Lifecycle.guardedByOwner : Lifecycle → Bool
  | .owned | .leased | .retired => true
  | _ => false

/-- The requester holds what Table 19.3 asks of those writes. -/
def State.authorised (s : State) (r : Requester) : Bool :=
  !s.security.lifecycle.guardedByOwner || s.security.auth = some r

/-- A write to an RWG object of 0x1000 to 0x7FFF: the package guard first (R351). -/
def State.underGuard (s : State) (f : State → State × Dst) : State × Dst :=
  let g := s.pkgGuard
  if g.2 then f g.1 else (g.1, .guarded)

/-! ### The store (R357) -/

def State.setProfiles (s : State) (f : Profiles → Profiles) : State := { s with profiles := f s.profiles }
def Profiles.get (p : Profiles) (n : Nat) : Profile := Table.read {} n p.profiles
def Profiles.put (p : Profiles) (n : Nat) (v : Profile) : Profiles := { p with profiles := Table.write {} n v p.profiles }

/-- The valid copy of higher generation. -/
def Profile.copy (p : Profile) : Option ProfileCopy :=
  match p.a.ok, p.b.ok with
  | true, true => some (if p.a.gen < p.b.gen then p.b else p.a)
  | true, false => some p.a
  | false, true => some p.b
  | false, false => none

/-- A save writes the older copy. -/
def Profile.save (p : Profile) (vals : Table Nat) (octs : Table (List Byte)) : Profile :=
  let c : ProfileCopy := { gen := max p.a.gen p.b.gen + 1, ok := true, vals := vals, octs := octs }
  if p.a.ok && (!p.b.ok || p.b.gen ≤ p.a.gen) then { p with b := c } else { p with a := c }

/-- Is the object kept in the profiles? -/
def storedKey (p : Part) (key : Nat) : Bool :=
  match findRow p (key / 256) (key % 256) with
  | some r => r.stored = 1
  | none => false

def State.storedVals (s : State) : Table Nat := s.objs.filter (fun (e : Nat × Nat) => storedKey s.part e.1)
def State.storedOcts (s : State) : Table (List Byte) := s.octs.filter (fun (e : Nat × List Byte) => storedKey s.part e.1)

/-! ### Commands (R359, R360) -/

/-- Profile 3 is written only in VENDOR and REFURBISH (R360). -/
def State.mayWrite (s : State) (n : Nat) : Bool := n ≠ 3 || s.security.lifecycle = .vendor || s.security.lifecycle = .refurbish

/-- SAVE or DEFAULTS starts: its values are fixed now. -/
def State.startSave (s : State) (save : Bool) (n : Nat) : State × Dst :=
  if !s.mayWrite n then (s, .auth)
  else
    (s.setProfiles (fun p => { p with
      saving := some ⟨n, save, if save then s.storedVals else [], if save then s.storedOcts else []⟩ }), .ok)

/-- A write of PROFILE_CMD that its guard has let through (Table 15.14). -/
def State.profileCmd (s : State) (r : Requester) (v : Nat) : State × Dst :=
  let n := v % 4
  if !s.authorised r then (s, .auth)
  else if s.profiles.saving.isSome then (s, .busy)
  else match bitsOf v 8 8 with
    | 1 => s.startSave true n
    | 2 => (s.setProfiles (fun p => { p with next := n }), .ok)
    | 3 => s.startSave false n
    | 4 => (s.setProfiles (fun p => { p with next := 255 }), .ok)
    | _ => (s, .badValue)

/-- A write of PROFILE_OVERRIDE that its guard has let through. -/
def State.profileOverride (s : State) (r : Requester) (v : Nat) : State × Dst :=
  if !s.authorised r then (s, .auth)
  else if v ≤ 3 || v = 255 then (s.setProfiles (fun p => { p with override := v }), .ok)
  else (s, .badValue)

/-- The save in progress completes into the older copy. A SAVE to the active profile ends the cause of DEFAULTS_LOADED (R358). -/
def State.saveDone (s : State) : State :=
  match s.profiles.saving with
  | none => s
  | some w =>
    s.setProfiles (fun p =>
      let q := p.get w.profile
      let q := (if w.save then { q with saves := q.saves + 1 } else q).save w.vals w.octs
      { p.put w.profile q with saving := none, defaultsLoaded := p.defaultsLoaded && !(w.save && w.profile = p.active) })

/-- The profile that a reset selects (R358). -/
def Profiles.select (p : Profiles) (cold : Bool) (sel : Nat) : Nat :=
  if cold then (if p.override ≤ 3 then p.override else sel % 4) else if p.next ≤ 3 then p.next else p.active

/-- Load a profile into the live values of every Stored object, the defaults where it is invalid; objects that no profile keeps return to
their defaults (R358; DESIGN CHOICE for the latter, log entry 29). -/
def State.loadProfile (s : State) (n : Nat) : State :=
  match (s.profiles.get n).copy with
  | some c =>
    { s with objs := c.vals, octs := c.octs }.setProfiles (fun p => { p with active := n, next := 255, defaultsLoaded := false })
  | none =>
    ({ s with objs := [], octs := [] }.setProfiles (fun p => { p with active := n, next := 255, defaultsLoaded := true })).capture 0x16 {}

/-! ### Blocks at a reset (Table 17.1, R351, R354, R449) -/

/-- CFG at reset, from the objects that Tables 4.3, 5.3 and 13.4 name. -/
def State.cfgAtReset (s : State) (b : Nat) : Nat :=
  if b < 0x60 then coreCfg 1 (min 96 (s.obj 0x2250 4)) (min 64 (s.obj 0x2250 3)) (s.obj 0x2250 2 % 16)
  else if b < 0x80 then s.obj 0x2300 1 * 2 + 1
  else if 0x100 ≤ b then min 4096 (s.obj 0x2240 1)
  else 0

/-- Every block of the part (Table 15.8). -/
def allBlocks (p : Part) : List Nat := (List.range 0x160).filter (fun b => (blockKind p b).isSome)

/-- Blocks that start-up enables and a warm reset leaves enabled: all but CORE, QSC and PIPE (R449). -/
def keepsEn (b : Nat) : Bool := 0x60 ≤ b && b < 0x100 && !(0xA0 ≤ b && b < 0xB0)

/-- Every block's registers at their reset values, CTL.EN as given. -/
def State.resetBlocks (s : State) (en : Nat → Bool) : State :=
  { s with blocks := (allBlocks s.part).foldl (fun t b =>
      Table.write (blockDefault b) b { cfg := s.cfgAtReset b, en := en b } t) [] }

/-! ### The direct commands -/

/-- PROFILE_CMD as one requester writes it. -/
def State.writeProfileCmd (s : State) (r : Requester) (v : Nat) : State × Dst := s.underGuard (fun s => s.profileCmd r v)

def execProfileSave (r : Requester) (profile : Nat) (s : State) : Host.Outcome State Fault Refusal :=
  whenServed (.profileSave r profile) r 0x2000 s (s.writeProfileCmd r (0x100 + profile % 4)).1
def execSelectNext (r : Requester) (profile : Nat) (s : State) : Host.Outcome State Fault Refusal :=
  whenServed (.selectNext r profile) r 0x2000 s (s.writeProfileCmd r (0x200 + profile % 4)).1
def execDefaults (r : Requester) (profile : Nat) (s : State) : Host.Outcome State Fault Refusal :=
  whenServed (.defaults r profile) r 0x2000 s (s.writeProfileCmd r (0x300 + profile % 4)).1
def execCancelNext (r : Requester) (s : State) : Host.Outcome State Fault Refusal := whenServed (.cancelNext r) r 0x2000 s (s.writeProfileCmd r 0x400).1
def execProfileSaveDone (s : State) : Host.Outcome State Fault Refusal := .next s.saveDone

end Sys2Proof.Machine
end

