-- ==== Sys2Proof/Machine/Pipe.lean ====
section
/-! DEFINITION. Stage slots (chapter 9): credits, queue parts and where they lie, the scheduler's decisions, the weight version store, and
what outcomes and a disable do to a slot. -/

namespace Sys2Proof.Machine

/-! ### Configuration of a slot (Table 9.1) -/

def State.partMax (s : State) (k : Nat) : Nat := s.obj (0x7100 + k) 5
def State.headUnits (s : State) (k : Nat) : QKind → Nat
  | .forward => s.obj (0x7100 + k) 3
  | .backward => s.obj (0x7100 + k) 4
def State.spillBase (s : State) (k : Nat) : QKind → Nat
  | .forward => s.obj (0x7100 + k) 6
  | .backward => s.obj (0x7100 + k) 7

/-- Producers of a queue: node and slot with a share that is not 0 (R198). -/
def State.producers (s : State) (k : Nat) (q : QKind) : List (NodeSlot × Nat) :=
  let bs := s.oct (0x7100 + k) (match q with | .forward => 8 | .backward => 9)
  ((List.range 4).map (fun i =>
    ((⟨leNat (slice bs (4 * i) 2), leNat (slice bs (4 * i + 2) 1)⟩ : NodeSlot), leNat (slice bs (4 * i + 3) 1)))).filter (fun p => p.2 ≠ 0)

def Slot.queue (v : Slot) : QKind → List QEntry
  | .forward => v.fwd
  | .backward => v.bwd
def Slot.setQueue (v : Slot) (q : QKind) (es : List QEntry) : Slot :=
  match q with
  | .forward => { v with fwd := es, fwdMax := max v.fwdMax es.length }
  | .backward => { v with bwd := es, bwdMax := max v.bwdMax es.length }

/-- Fields of a micro-batch word (Table 9.2). -/
def mbStep (w : Nat) : Nat := bitsOf w 32 32
def mbPart (w : Nat) : Nat := bitsOf w 18 3
def mbAtt (w : Nat) : Nat := bitsOf w 14 4
def mbMbi (w : Nat) : Nat := bitsOf w 0 14
def mbKey (w : Nat) : EntryKey := ⟨mbStep w, mbAtt w, mbMbi w⟩

/-- The word that a QPUSH sends: STEP, PART and MBI of the program, the other fields as the slot holds them, RESTART 0 (R200). -/
def State.sendWord (s : State) (k w : Nat) : Nat :=
  mbStep w * 2 ^ 32 + mbPart w * 2 ^ 18 + mbMbi w + s.wordFields k (mbStep w)

/-- The attempt of a step that came with a part or a message has ended: it lies before the current one, the step is closed (R213), or the group
stopped in it (R221, R245). ATT has four bits: one to seven before the current attempt is before it, the rest is of an attempt that this package has yet to
reach (DESIGN CHOICE, log entry 117). -/
def State.attEnded (s : State) (step att : Nat) : Bool :=
  s.stepClosed step || s.group.overAtts.contains (step % 2 ^ 32, att % 16) || (let d := (s.attOf step % 16 + 16 - att % 16) % 16; 1 ≤ d && d < 8)

/-- The attempt that a context holds for its step is an ended one: a context is never ahead of its own package (R213). -/
def State.attPast (s : State) (step att : Nat) : Bool :=
  s.stepClosed step || s.group.overAtts.contains (step % 2 ^ 32, att % 16) || att % 16 ≠ s.attOf step % 16

/-! ### Credits of a producing slot (R203) -/

def Slot.credit (v : Slot) (d : NodeSlot) (q : QKind) : Option Credit := v.credits.find? (fun c => c.dst == d && c.queue == q)
def Slot.setCredit (v : Slot) (c : Credit) : Slot :=
  { v with credits := v.credits.map (fun x => if x.dst = c.dst && x.queue = c.queue then c else x) }

/-- A grant arrives: a new counter, for up to eight destination queues, or a renewed one. A ninth queue's grant finds no counter: its
credits are counted as received and revoked (DESIGN CHOICE, log entry 116). -/
def State.granted (s : State) (k : Nat) (d : NodeSlot) (q : QKind) (share : Nat) : State :=
  let v := s.slot k
  match v.credit d q with
  | some c =>
    ((s.setSlot k (v.setCredit { c with free := share, outbound := [] })).bump (0x3520 + k) 3 share).bump (0x3520 + k) 6 c.free
  | none =>
    if v.credits.length < 8 then
      (s.setSlot k { v with credits := v.credits ++ [{ dst := d, queue := q, free := share }] }).bump (0x3520 + k) 3 share
    else (s.bump (0x3520 + k) 3 share).bump (0x3520 + k) 6 share

/-- A credit comes back, naming its entry, whose key leaves the outbound table. One that finds no counter any more, or whose key the table
does not hold, gives no credit: it is counted as received and revoked (DEDUCED: R203, R415). -/
def State.creditReturned (s : State) (k : Nat) (d : NodeSlot) (q : QKind) (e : EntryKey) : State :=
  let v := s.slot k
  let s := s.bump (0x3520 + k) 5 1
  match v.credit d q with
  | none => s.bump (0x3520 + k) 6 1
  | some c =>
    if c.outbound.contains e then s.setSlot k (v.setCredit { c with free := c.free + 1, outbound := c.outbound.filter (· ≠ e) })
    else s.bump (0x3520 + k) 6 1

/-- A revocation deletes the counter and its table; the credits it held are counted. -/
def State.revoked (s : State) (k : Nat) (d : NodeSlot) (q : QKind) : State :=
  let v := s.slot k
  match v.credit d q with
  | none => s
  | some c => (s.setSlot k { v with credits := v.credits.filter (fun x => !(x.dst == d && x.queue == q)) }).bump (0x3520 + k) 6 c.free

/-- A credit message that arrives during a warm reset gives no credits: those it brings are counted as received and revoked (R384, R414, Table
18.7; log entry 76). -/
def State.warmCredit (s : State) : CreditMsg → State
  | .grant k _ _ share => if k < Config.slots s.part then (s.bump (0x3520 + k) 3 share).bump (0x3520 + k) 6 share else s
  | .ret k _ _ _ => if k < Config.slots s.part then (s.bump (0x3520 + k) 5 1).bump (0x3520 + k) 6 1 else s
  | .revoke _ _ _ => s

/-- A command to a slot that the part has. -/
def onSlot (k : Nat) (s t : State) : Host.Outcome State Fault Refusal :=
  if k < Config.slots s.part then .next (if s.up then t else s) else .next s

/-- A credit message for a slot that the part has. -/
def onCredit (s : State) (m : CreditMsg) (k : Nat) (t : State) : Host.Outcome State Fault Refusal :=
  .next (if Config.slots s.part ≤ k then s else if s.up then t else if s.boot.state = .ready then s.warmCredit m else s)

def execGrant (producer : Nat) (dst : NodeSlot) (queue : QKind) (share : Nat) (s : State) : Host.Outcome State Fault Refusal :=
  onCredit s (.grant producer dst queue share) producer (s.granted producer dst queue share)
def execCreditReturn (producer : Nat) (dst : NodeSlot) (queue : QKind) (key : EntryKey) (s : State) : Host.Outcome State Fault Refusal :=
  onCredit s (.ret producer dst queue key) producer (s.creditReturned producer dst queue key)
def execRevoke (producer : Nat) (dst : NodeSlot) (queue : QKind) (s : State) : Host.Outcome State Fault Refusal :=
  onCredit s (.revoke producer dst queue) producer (s.revoked producer dst queue)

/-! ### Parts and entries (R202, R205, R206) -/

/-- The slot that this slot is, for the fabric. -/
def State.here (s : State) (k : Nat) : NodeSlot := ⟨s.boot.node, k⟩

/-- Send the credit of an entry back to the slot that opened it (R203). -/
def State.returnCredit (s : State) (k : Nat) (q : QKind) (producer : NodeSlot) (e : EntryKey) : State :=
  (s.bump (0x3520 + k) 2 1).post (unitExch (k / 4)) producer.node (s.slotKey k) (.credit (.ret producer.slot (s.here k) q e))

/-- Units of the head area that a part of n bytes uses. -/
def partUnits (n : Nat) : Nat := ceilDiv n unit64K
/-- Units in use by a queue's parts that lie in the head area. -/
def unitsUsed (es : List QEntry) : Nat :=
  ((es.flatMap (·.parts)).map (fun p => if p.spilled || p.popped then 0 else partUnits p.size)).sum

/-- HBM address of a spilled part (R205). -/
def State.spillAddr (s : State) (k : Nat) (q : QKind) (ring pos : Nat) : Nat :=
  s.spillBase k q + (ring * (s.positions k).length + s.posIndex k pos) * s.partMax k

/-- First free ring position. -/
def freeRing (es : List QEntry) : Option Nat := (List.range 64).find? (fun r => es.all (fun e => e.ring ≠ r))

def QEntry.part (e : QEntry) (pos : Nat) : Option PartSt := e.parts.find? (fun p => p.pos == pos)
/-- A part for every position in PART_MASK has arrived. -/
def State.complete? (s : State) (k : Nat) (e : QEntry) : Bool := (s.positions k).all (fun p => (e.part p).isSome)

/-- Put the entry back into its queue, or take it out. -/
def replaceEntry (es : List QEntry) (e : QEntry) : List QEntry := es.map (fun x => if x.key = e.key then e else x)
def dropEntry (es : List QEntry) (key : EntryKey) : List QEntry := es.filter (fun x => x.key ≠ key)

/-- Has an entry of this producer and key come to be here? Its credit is then returned with it, not with a part of it. -/
def State.entryHere (s : State) (k : Nat) (q : QueuePart) : Bool :=
  ((s.slot k).queue q.queue).any (fun e => e.key == mbKey q.word.toNat && e.producer == q.producer)

/-- Return the credit that a part consumed which opens no entry here: none, where it joined one at its source (R202, R203, R213, R214). -/
def State.returnOpened (s : State) (k : Nat) (q : QueuePart) : State :=
  if q.opens && !s.entryHere k q then s.returnCredit k q.queue q.producer (mbKey q.word.toNat) else s

/-- A refused part: REMOTE_ACCESS, counted, and the credit it consumed returned (R202). -/
def State.refusePart (s : State) (k : Nat) (q : QueuePart) : State × Nat :=
  ((s.bump (0x3280 + k) 11 1).returnOpened k q, 1)

/-- Store a part that passed every check, in the entry given or a new one (R202, R205). A part that finds no free ring position is refused
(DESIGN CHOICE, log entry 115). -/
def State.storePart (s : State) (k : Nat) (q : QueuePart) : State × Nat :=
  let w := q.word.toNat
  let es := (s.slot k).queue q.queue
  let old := es.find? (fun e => e.key == mbKey w)
  match (match old with | some e => some e.ring | none => freeRing es) with
  | none => s.refusePart k q
  | some ring =>
    let fits := unitsUsed es + partUnits q.bytes.length ≤ s.headUnits k q.queue
    let part : PartSt := { pos := mbPart w, word := q.word, size := q.bytes.length, bytes := if fits then q.bytes else [], spilled := !fits }
    let es := match old with
      | some e => replaceEntry es { e with parts := e.parts ++ [part] }
      | none => es ++ [{ ring := ring, key := mbKey w, producer := q.producer, parts := [part] }]
    let s := s.modSlot k (fun v => v.setQueue q.queue es)
    if fits then (s, 0)
    else (((s.hbmWrite q.key (s.spillAddr k q.queue ring (mbPart w)) q.bytes).1).bump (0x3280 + k) 6 1, 0)

/-- The slot holds values of a word's step and attempt: the step is open, in that attempt (R208, R214). -/
def State.wordDue (s : State) (k w : Nat) : Bool := s.stepOpen k (mbStep w) && mbAtt w = s.attOf (mbStep w) % 16

/-- LSEXP or VTAG of a word differs from the slot's (R214). -/
def State.versionWrong (s : State) (k w : Nat) : Bool :=
  bitsOf w 24 8 ≠ bitsOf (s.wordFields k (mbStep w)) 24 8 || bitsOf w 21 2 ≠ bitsOf (s.wordFields k (mbStep w)) 21 2

/-- What a mismatch leaves: VERSION_ERR until the outcome of the part's step, and a record of class PIPE_VERSION (R214, Table 9.7). -/
def State.versionError (s : State) (k w : Nat) : State :=
  (s.modSlot k (fun v => { v with versionErr := mbStep w :: v.versionErr.filter (· ≠ mbStep w) })).capture 0x24
    { die := k / 4, source := blkPipe k, step := some (mbStep w), att := mbAtt w }

/-- A part reaches its destination slot: what becomes of it, and the status that its QPUSH completes with (R202, R206, R213, R214, R453).
Where two of the checks hold, the first in this order counts (DESIGN CHOICE, log entry 114). A part of a step that is not open yet is held
against the slot's values when the step opens. -/
def State.placePart (s : State) (q : QueuePart) : State × Nat :=
  let k := q.slot
  let w := q.word.toNat
  let step := mbStep w
  let es := (s.slot k).queue q.queue
  let old := es.find? (fun e => e.key == mbKey w)
  if !s.slotEn k then (s.bump (0x3280 + k) 11 1, 2)
  else if !(s.producers k q.queue).any (fun p => p.1 == q.producer) || q.key ≠ s.slotKey k then
    (s.refusePart k q).map (fun t => t.capture 0x20 { die := k / 4, source := blkPipe k, step := some step, att := mbAtt w }) id
  else if s.attEnded step (mbAtt w) then ((s.bump (0x3280 + k) 9 1).returnOpened k q, 0)
  else if s.wordDue k w && s.versionWrong k w then ((s.returnOpened k q).versionError k w, 1)
  else if !(s.positions k).contains (mbPart w) || q.bytes.length > s.partMax k ||
      (match old with | none => false | some e => (e.part (mbPart w)).isSome || e.producer ≠ q.producer) then s.refusePart k q
  else s.storePart k q

/-- Parts that came before their step opened in the attempt meet the slot's values when it opens: those that differ are discarded, and an
entry that holds none any more leaves the queue with its credit (R214). `s0` is the package before the event. -/
def State.checkEntries (s0 : State) (s : State) (k : Nat) (q : QKind) : State :=
  ((s.slot k).queue q).foldl (fun s e =>
    let bad (p : PartSt) : Bool := !s0.wordDue k p.word.toNat && s.wordDue k p.word.toNat && s.versionWrong k p.word.toNat
    let gone := e.parts.filter bad
    if gone = [] then s
    else
      let keep := e.parts.filter (fun p => !bad p)
      let s := gone.foldl (fun s p => s.versionError k p.word.toNat) s
      if keep = [] then (s.modSlot k (fun v => v.setQueue q (dropEntry (v.queue q) e.key))).returnCredit k q e.producer e.key
      else s.modSlot k (fun v => v.setQueue q (replaceEntry (v.queue q) { e with parts := keep }))) s

/-- The same for every enabled slot, after an event by which steps open. -/
def State.checkVersions (s0 : State) (s : State) : State :=
  s.enabledSlots.foldl (fun s k => s0.checkEntries (s0.checkEntries s k .forward) k .backward) s

def execQueuePart (q : QueuePart) (s : State) : Host.Outcome State Fault Refusal := onSlot q.slot s (s.placePart q).1

/-! ### Decisions (R208 to R210) -/

/-- Entry order: the lowest step, within it the lowest MBI. -/
def keyBefore (a b : EntryKey) : Bool := stepDiff a.step b.step < 0 || (a.step = b.step && a.mbi < b.mbi)

/-- The lowest complete entry of open steps that is not yet selected. -/
def State.lowestEntry (s : State) (k : Nat) (q : QKind) : Option QEntry :=
  (((s.slot k).queue q).filter (fun e =>
    !e.selected && s.stepOpen k e.key.step && e.key.att = s.attOf e.key.step % 16 && s.complete? k e)).foldl
    (fun (b : Option QEntry) e => match b with
      | none => some e
      | some c => if keyBefore e.key c.key then some e else some c) none

/-- FWD_AHEAD (Table 9.1). -/
def State.fwdAhead (s : State) (k : Nat) : Nat := s.obj (0x7100 + k) 10

/-- What the next decision of a sequence would select (R209, R210). -/
def State.nextDecision (s : State) (k mode : Nat) : Option (QKind × QEntry) :=
  if mode = 1 then (s.lowestEntry k .forward).map (fun e => (.forward, e))
  else if mode = 2 then (s.lowestEntry k .backward).map (fun e => (.backward, e))
  else match s.lowestEntry k .backward with
    | some e => some (.backward, e)
    | none =>
      if (s.slot k).flying.length < s.fwdAhead k then (s.lowestEntry k .forward).map (fun e => (.forward, e)) else none

/-- Make the next decision of the sequence, where one can be made. -/
def State.decide (s : State) (k mode : Nat) : State :=
  match s.nextDecision k mode with
  | none => s
  | some (q, e) =>
    s.modSlot k (fun v =>
      let v := v.setQueue q (replaceEntry (v.queue q) { e with selected := true })
      { v with decisions := v.decisions ++ [⟨mode, q, e.key⟩],
               flying := if mode ≠ 0 then v.flying
                         else match q with
                           | .forward => v.flying ++ [e.key]
                           | .backward => v.flying.filter (· ≠ e.key) })

/-- The sequence of decisions of a mode, and how many of it a position has taken. -/
def Slot.sequence (v : Slot) (mode : Nat) : List Decision := v.decisions.filter (fun d => d.mode == mode)
def Slot.takenBy (v : Slot) (mode pos : Nat) : Nat := Table.read 0 (pos + 8 * mode) v.taken

/-- The next decision that the position has not taken and whose entry is still there, and the count of decisions then taken. -/
def Slot.nextFor (v : Slot) (mode pos : Nat) : Option (QKind × QEntry × Nat) :=
  let ds := (v.sequence mode).zipIdx.drop (v.takenBy mode pos)
  match ds.find? (fun d => (v.queue d.1.queue).any (fun e => e.key == d.1.key)) with
  | none => none
  | some d => ((v.queue d.1.queue).find? (fun e => e.key == d.1.key)).map (fun e => (d.1.queue, e, d.2 + 1))

/-- Mode of a QPOP by its SUB field. -/
def popMode (sub : Nat) : Nat := if sub % 4 = 2 then 0 else sub % 4 + 1

/-- A QPOP of the slot's cores waits for the next decision of the scheduler; one whose result is the restart word asks for none (R209, R213). -/
def State.asked (s : State) (k : Nat) : Bool :=
  (s.positions k).any (fun p =>
    match (s.ctx (6 * k + p) .crown).fS with
    | some f => !(s.slot k).restart.contains p && f.blocked && opcodeOf .stream f.op.word = 9 && popMode (strSub f.op.word) = 0 && ((s.slot k).nextFor 0 p).isNone
    | none => false)

def execSchedulerDecision (slot : Nat) (s : State) : Host.Outcome State Fault Refusal :=
  onSlot slot s (if s.slotEn slot && s.asked slot then s.decide slot 0 else s)

/-- Copy a spilled part of the complete entry that is selected next into free head units (R205). A part whose read fails stays. -/
def State.spillCopy (s : State) (k : Nat) (q : QKind) : State :=
  let es := (s.slot k).queue q
  let free := s.headUnits k q - unitsUsed es
  let cands := es.filter (fun e => s.complete? k e && e.parts.any (fun p => p.spilled && !p.popped && partUnits p.size ≤ free))
  match cands.foldl (fun (b : Option QEntry) e => match b with
      | none => some e
      | some c => if keyBefore e.key c.key then some e else some c) none with
  | none => s
  | some e =>
    match e.parts.find? (fun p => p.spilled && !p.popped && partUnits p.size ≤ free) with
    | none => s
    | some p =>
      match s.hbmRead (s.slotKey k) (s.spillAddr k q e.ring p.pos) p.size with
      | (t, none) => t
      | (t, some bs) =>
        t.modSlot k (fun v => v.setQueue q (replaceEntry (v.queue q)
          { e with parts := e.parts.map (fun x => if x.pos = p.pos then { x with bytes := bs, spilled := false } else x) }))

def execSpillCopy (slot : Nat) (queue : QKind) (s : State) : Host.Outcome State Fault Refusal :=
  onSlot slot s (if s.slotEn slot then s.spillCopy slot queue else s)

/-! ### The weight version store (R211, R212) -/

def Slot.version (v : Slot) (tag : Nat) : VerState × Nat := Table.read (.free, 0) tag v.versions
def Slot.setVersion (v : Slot) (tag : Nat) (x : VerState × Nat) : Slot := { v with versions := Table.write (.free, 0) tag x v.versions }

/-- Versions that the open steps of a slot use (R208, R211, R212). -/
def State.versionsUsed (s : State) (k : Nat) : List Nat := (s.openSteps k).map (s.versionOf k)

/-- The exchange of a step may begin: tag (N + 1) mod 4 becomes STAGED (Table 9.4). -/
def State.stageVersion (s : State) (k : Nat) : State :=
  s.modSlot k (fun v => v.setVersion ((s.group.version + 1) % 4) (.staged, s.group.version + 1))

/-- The store of a slot as the group stands: the CURRENT version alone. -/
def State.initVersions (s : State) (k : Nat) : State :=
  s.modSlot k (fun v => { v with versions := Table.write (.free, 0) (s.group.version % 4) (.current, s.group.version) [] })

/-- The STAGED version becomes FREE. -/
def State.dropStaged (s : State) (k : Nat) : State :=
  s.modSlot k (fun v => { v with versions := v.versions.filter (fun (e : Nat × (VerState × Nat)) => e.2.1 != .staged) })

/-- HELD versions that no open step uses become FREE (Table 9.4). -/
def State.releaseVersions (s : State) (k : Nat) : State :=
  s.modSlot k (fun v => { v with versions := v.versions.filter (fun (e : Nat × (VerState × Nat)) =>
    e.2.1 != .held || (s.versionsUsed k).contains e.2.2) })

/-- Feast: STAGED becomes CURRENT, the former CURRENT is HELD until no open step uses it (Table 9.4). The group's version is N + 1
already. -/
def State.feastVersions (s : State) (k : Nat) : State :=
  let n := s.group.version
  (s.modSlot k (fun v => (v.setVersion ((n + 3) % 4) (.held, n - 1)).setVersion (n % 4) (.current, n))).releaseVersions k

/-- Fast: STAGED becomes FREE (Table 9.4). -/
def State.fastVersions (s : State) (k : Nat) : State :=
  (s.dropStaged k).releaseVersions k

/-! ### Outcomes and disable (R213, Table 9.6) -/

/-- Free the entries of ended attempts, their credits returned (R213 step 1). -/
def State.freeEnded (s : State) (k : Nat) (q : QKind) (ended : EntryKey → Bool) : State :=
  let gone := ((s.slot k).queue q).filter (fun e => ended e.key)
  let s := s.modSlot k (fun v => v.setQueue q ((v.queue q).filter (fun e => !ended e.key)))
  gone.foldl (fun s e => s.returnCredit k q e.producer e.key) s

/-- A slot after a Fast: entries of the attempts that it ended are freed, the decisions cleared, and, where steps reopen, a restart word
waits for every position (R213). The group's attempts and step are the new ones. -/
def State.slotFast (s : State) (k reopened : Nat) (reopen : Bool) : State :=
  let ended (e : EntryKey) : Bool := s.attEnded e.step e.att
  let s := (s.freeEnded k .forward ended).freeEnded k .backward ended
  let word := reopened % 2 ^ 32 * 2 ^ 32 + 2 ^ 23 + s.wordFields k reopened
  let s := s.modSlot k (fun v => { v with flying := [], decisions := [], taken := [],
                                          versionErr := v.versionErr.filter (· ≠ s.group.lastStep),
                                          restart := if reopen then s.positions k else [],
                                          restartWord := BitVec.ofNat 64 word,
                                          fwd := v.fwd.map (fun e => { e with selected := false }),
                                          bwd := v.bwd.map (fun e => { e with selected := false }) })
  let s := s.fastVersions k
  if reopen then s.bump (0x3280 + k) 10 1 else s

/-- A slot after a Feast: the step closes, its entries leave the queues, and later steps go on (R213). -/
def State.slotFeast (s : State) (k : Nat) : State :=
  let closed (e : EntryKey) : Bool := s.stepClosed e.step
  let s := (s.freeEnded k .forward closed).freeEnded k .backward closed
  (s.modSlot k (fun v => { v with versionErr := v.versionErr.filter (· ≠ s.group.lastStep) })).feastVersions k

/-- Is it SNOTE, SREDUCE or SMCAST? -/
def Op.isExch (o : Op) : Bool :=
  let p := opcodeOf .stream o.word
  p = 12 || p = 16 || p = 17

/-- Exchange operations outstanding when their slot is disabled end with UNREACHABLE (R223). -/
def endExchange (c : Context) : Context :=
  { c with fS := c.fS.map (fun f =>
      if !f.done && f.op.isExch then { f with blocked := false, done := true, status := 2, awaiting := [] } else f) }

/-- Waiting queue operations of the slot's cores end with UNREACHABLE (Table 9.6). -/
def endWaiting (c : Context) : Context :=
  { c with fS := c.fS.map (fun f =>
      if f.blocked && (opcodeOf .stream f.op.word = 8 || opcodeOf .stream f.op.word = 9) then { f with blocked := false, done := true, status := 2 }
      else f) }

/-- Node and slot records of an octet string, 4 bytes each. -/
def nodeSlots (bs : List Byte) : List NodeSlot :=
  (List.range (bs.length / 4)).map (fun i => ⟨leNat (slice bs (4 * i) 2), leNat (slice bs (4 * i + 2) 1)⟩)

/-- Experts of a slot and their holders (Table 12.5). -/
def State.expCount (s : State) (k : Nat) : Nat := s.obj (0x7600 + k) 1
def State.expMap (s : State) (k : Nat) : List NodeSlot := (nodeSlots (s.oct (0x7600 + k) 2)).take (s.expCount k)
def State.holders (s : State) (k : Nat) : List NodeSlot := (s.expMap k).eraseDups

/-- Has a source SETTLE from every holder? -/
def State.settledAll (s : State) (k : Nat) (x : XSource) : Bool := (s.holders k).all (fun h => x.settledBy.contains h)

/-- Expert messages, banks and SETTLEs that wait for others, of attempts that are over, are discarded, each counted as stale, and a source
forgets its own record (R294). -/
def State.endExperts (s : State) (k : Nat) (isOver : Nat → Nat → Bool) : State :=
  let v := s.slot k
  let gone := ((v.xholds.filter (fun h => isOver h.step h.att)).map (fun h => h.msgs.length)).sum +
    (v.xbanks.filter (fun b => isOver b.step b.att)).length +
    ((v.xsources.filter (fun x => isOver x.step x.att && !s.settledAll k x)).map (fun x => x.settledBy.length)).sum
  (s.setSlot k { v with xholds := v.xholds.filter (fun h => !isOver h.step h.att),
                        xbanks := v.xbanks.filter (fun b => !isOver b.step b.att),
                        xsources := v.xsources.filter (fun b => !isOver b.step b.att) }).bump 0x32A0 7 gone

/-- SLOT_EN to 0 (R203, R223, Table 9.6): entries are freed, grants revoked, credits held from others discarded, and its cores' waiting
queue operations and every outstanding exchange operation, queued ones too, end. What it holds of experts is discarded, counted as stale. -/
def State.slotOff (s : State) (k : Nat) : State :=
  if !s.slotEn k then s
  else
    let s := s.endExperts k (fun _ _ => true)
    let v := s.slot k
    let s := s.modBlock (blkPipe k) (fun b => { b with en := false })
    let s := s.bump (0x3520 + k) 6 (v.credits.map (·.free)).sum
    let s := v.granted.foldl (fun s g => s.post (unitExch (k / 4)) g.1.node (s.slotKey k) (.credit (.revoke g.1.slot (s.here k) g.2.1))) s
    let s := s.setSlot k { fwdMax := v.fwdMax, bwdMax := v.bwdMax, declReason := v.declReason, footprint := v.footprint, quota := v.quota,
                           plan := v.plan }
    (List.range 6).foldl (fun s p =>
      (s.modCtx (6 * k + p) .crown (fun c => endExchange (endWaiting c))).endQueued (6 * k + p) .crown Op.isExch 2) s

end Sys2Proof.Machine
end

