-- ==== Sys2Proof/Machine/Power.lean ====
section
/-! DEFINITION. Power, clocks, Lantern and thermal control (chapter 16): the running level and its changes, the cap loop, the group level,
the thermal loop and the trips. -/

namespace Sys2Proof.Machine

def State.setPower (s : State) (f : Power → Power) : State := { s with power := f s.power }

/-! ### Levels (R364, R366, R367, R372) -/

/-- Duty of a level in sixteenths (Table 16.2). -/
def dutyOf (l : Nat) : Nat := if l ≤ 7 then 16 else 23 - l

/-- The allowed level A (R372). -/
def State.allowed (s : State) : Nat := max s.power.aCap (max s.power.aTh (s.obj 0x2400 2))

/-- The running level (R372). -/
def State.running (s : State) : Nat :=
  if s.group.state = .active then max s.allowed s.power.groupLevel else s.allowed

/-- Decide a level change where the running level is another than the last one decided (R367). -/
def State.retarget (s : State) : State :=
  let l := s.running
  if l = s.power.target then s
  else
    (s.setPower (fun p => { p with target := l, dutyTarget := dutyOf l, changing := min l 7 ≠ p.level })).bump 0x3400 11 1

/-! ### Lantern (R375 to R378) -/

/-- Coordinates that the members of the group take in a dimension. -/
def Group.coordMask (g : Group) (d : Nat) : Nat :=
  ((List.range 16).map (fun c => if g.members.any (fun n => coordOf n d == c) then 2 ^ c else 0)).sum

/-- A Lantern message to every member, by a four-stage LINE multicast. -/
def State.lanternCast (s : State) (m : LanternMsg) : State :=
  let p : Packet := { dst := s.boot.node, src := 0, sunit := unitMgt 0, cls := 5, line := true, stages := 3, dim := 0, order := [1, 2, 3],
                      lmask := (List.range 4).map s.group.coordMask, body := .lantern m }
  ((s.startStages (unitMgt 0) none none 3 p).1).bump 0x3400 16 1

/-- DOWN with the current epoch raises H, and G with it (R376). -/
def Power.down (p : Power) (m : Nat) : Power :=
  let h := max p.pendingLevel m
  { p with pendingLevel := h, groupLevel := max p.groupLevel h }

/-- The member's A has risen above G: it sends DOWN(E, A) and acts on it (R376). -/
def State.lanternCheck (s : State) : State :=
  if s.group.state = .active && s.power.groupLevel < s.allowed then
    let a := s.allowed
    let s := s.lanternCast { sub := 1, level := a, groupId := s.group.id, epoch := s.power.epoch, count := 0 }
    s.setPower (fun p => p.down a)
  else s

/-- After a change of A or of the group: the DOWN that it calls for, and the level. -/
def State.levels (s : State) : State := s.lanternCheck.retarget

/-- On FORMED (R375). -/
def State.lanternFormed (s : State) : State :=
  let a := s.allowed
  let s := s.setPower (fun p => { p with epoch := 0, groupLevel := a, pendingLevel := a, kept1 := 0, kept2 := 0, settleDue := false,
                                         roundOpen := false, callSeen := none, replies := [] })
  (if a > 0 then s.lanternCast { sub := 1, level := a, groupId := s.group.id, epoch := 0, count := 0 } else s).retarget

def State.lanternStale (s : State) : State := s.bump 0x3400 17 1

/-- A DOWN arrives (R376). -/
def State.lanternDown (s : State) (m : LanternMsg) : State :=
  let e := s.power.epoch
  if s.group.state ≠ .active || m.groupId ≠ s.group.id then s.lanternStale
  else if m.epoch = e then (s.setPower (fun p => p.down m.level)).retarget
  else if m.epoch = e + 1 then s.setPower (fun p => { p with kept1 := max p.kept1 m.level })
  else if m.epoch = e + 2 then s.setPower (fun p => { p with kept2 := max p.kept2 m.level })
  else s.lanternStale

/-- A SET arrives: it is applied only when its epoch is later (R378). -/
def State.lanternSet (s : State) (m : LanternMsg) : State :=
  let e := s.power.epoch
  if s.group.state ≠ .active || m.groupId ≠ s.group.id then s.lanternStale
  else if m.epoch ≤ e then s
  else
    let kept := if m.epoch = e + 1 then s.power.kept1 else if m.epoch = e + 2 then s.power.kept2 else 0
    let s := s.setPower (fun p => { p with epoch := m.epoch, pendingLevel := max m.level kept,
                                           kept1 := if m.epoch = e + 1 then p.kept2 else 0, kept2 := 0 })
    let a := s.allowed
    let s := if a > s.power.pendingLevel then
        (s.lanternCast { sub := 1, level := a, groupId := s.group.id, epoch := m.epoch, count := 0 }).setPower (fun p => p.down a)
      else s
    if s.power.groupLevel ≤ s.power.pendingLevel then
      (s.setPower (fun p => { p with groupLevel := p.pendingLevel, settleDue := false })).retarget
    else s.setPower (fun p => { p with settleDue := true })

/-- Rank of the parent and ranks of the children in the commit tree (R240). -/
def Group.parent (g : Group) : Nat := (g.rank - 1) / 2
def Group.children (g : Group) : List Nat := [2 * g.rank + 1, 2 * g.rank + 2].filter (· < g.size)
/-- Node of a rank. -/
def Group.nodeOf (g : Group) (r : Nat) : Nat := g.members.getD r 0

/-- Send a Lantern message to a rank over the commit tree. -/
def State.lanternPost (s : State) (r : Nat) (m : LanternMsg) : State :=
  (s.post (unitMgt 0) (s.group.nodeOf r) 0 (.lantern m)).bump 0x3400 16 1

/-- A round is complete at this member when every child has replied: REPLY goes up, or the root sends SET (R377). -/
def State.lanternRound (s : State) : State :=
  let g := s.group
  if g.children.any (fun r => !(s.power.replies.any (fun x => x.1 == r))) then s
  else
    let level := (s.power.replies.map (·.2.1)).foldl max s.allowed
    let count := 1 + (s.power.replies.map (·.2.2)).sum
    if g.rank = 0 then
      if s.power.roundOpen && count = g.size then
        let m : LanternMsg := { sub := 4, level := level, groupId := g.id, epoch := s.power.roundEpoch, count := 0 }
        ((s.setPower (fun p => { p with roundOpen := false })).lanternCast m).lanternSet m
      else s
    else match s.power.callSeen with
      | none => s
      | some (e, n) => (s.setPower (fun p => { p with callSeen := none })).lanternPost g.parent
          { sub := 3, level := level, groupId := g.id, epoch := e, count := count, round := n }

/-- CALL of a round to every child (R377). -/
def State.callChildren (s : State) (epoch round : Nat) : State :=
  s.group.children.foldl (fun s r =>
    s.lanternPost r { sub := 2, level := 0, groupId := s.group.id, epoch := epoch, count := 0, round := round }) s

/-- The root's beacon: CALL for the next epoch; a round still open is abandoned (R377). -/
def State.beacon (s : State) : State :=
  if s.group.state ≠ .active || s.group.rank ≠ 0 then s
  else
    let e := s.power.epoch + 1
    let n := s.power.roundNo + 1
    let s := s.setPower (fun p => { p with roundOpen := true, roundEpoch := e, roundNo := n, replies := [] })
    (s.callChildren e n).lanternRound

/-- A CALL goes on to the children; the member replies once it holds theirs (R377). -/
def State.lanternCall (s : State) (m : LanternMsg) : State :=
  if s.group.state ≠ .active || m.groupId ≠ s.group.id || s.group.rank = 0 then s.lanternStale
  else
    let s := s.setPower (fun p => { p with callSeen := some (m.epoch, m.round), replies := [] })
    (s.callChildren m.epoch m.round).lanternRound

/-- A REPLY from a child (R377). A late one, also of an abandoned round for the same epoch, is counted as stale (log entry 124). -/
def State.lanternReply (s : State) (child : Nat) (m : LanternMsg) : State :=
  let due := if s.group.rank = 0 then (if s.power.roundOpen then some (s.power.roundEpoch, s.power.roundNo) else none) else s.power.callSeen
  if s.group.state ≠ .active || m.groupId ≠ s.group.id || due ≠ some (m.epoch, m.round) || !s.group.children.contains child ||
      s.power.replies.any (fun x => x.1 == child) then s.lanternStale
  else (s.setPower (fun p => { p with replies := p.replies ++ [(child, m.level, m.count)] })).lanternRound

/-- LANTERN_SETTLE has passed (R378). -/
def State.settled (s : State) : State :=
  if s.group.state = .active && s.power.settleDue then
    (s.setPower (fun p => { p with groupLevel := p.pendingLevel, settleDue := false })).retarget
  else s

/-! ### The cap loop (R368 to R371) -/

def State.powerSample (s : State) (mw : Nat) (rails : List Nat) : State :=
  s.setPower (fun p => { p with capWatts := if p.samples = 0 then s.obj 0x2400 1 else p.capWatts, energyNano := p.energyNano + mw,
                                sampleSum := p.sampleSum + mw, samples := p.samples + 1, railPower := rails })

/-- Levels have no effect in Vigil mode (Table 18.5). -/
def State.levelsOn (s : State) : State := if s.fabricOn then s.levels else s

/-- The end of a CAP_PERIOD. -/
def State.capLoop (s : State) : State :=
  let p := s.power
  if p.samples = 0 then s
  else
    let cap := p.capWatts * 1000 * p.samples
    let hi := p.sampleSum > cap
    let low := p.sampleSum * 100 < cap * (100 - s.obj 0x2400 3)
    let unmet := hi && p.aCap = 19
    let count := if low then p.lowPeriods + 1 else 0
    let drop := low && s.obj 0x2400 4 ≤ count && s.running = p.aCap && 0 < p.aCap
    let s := s.setPower (fun p => { p with
      aCap := if hi && p.aCap < 19 then p.aCap + 1 else if drop then p.aCap - 1 else p.aCap,
      lowPeriods := if drop then 0 else count, capUnmet := unmet, pkgPower := (p.sampleSum, p.samples), sampleSum := 0, samples := 0 })
    let s := if unmet then s.bump 0x3400 12 1 else s
    (if unmet && !p.capUnmet then s.capture 0x17 {} else s).levelsOn

/-- A write of PKG_CAP (R369): whether it was clamped. -/
def State.writeCap (s : State) (w : Nat) : State × Bool :=
  let lo := Config.capFloor s.part
  let hi := Config.capMax s.part
  let t := s.setObj 0x2400 1 (max lo (min hi w))
  (if w < lo then t.bump 0x3400 13 1 else t, w < lo || hi < w)

/-! ### Thermal control (R380, R381) -/

/-- Bin of TEMP_BINS for a Tj (Table 19.8). -/
def tempBin (t : Nat) : Nat :=
  if t < 50 then 0 else if t < 60 then 1 else if t < 70 then 2 else if t < 80 then 3 else if t < 90 then 4 else if t < 100 then 5
  else if t < 105 then 6 else 7

/-- What the ledger takes from a thermal period of so many milliseconds (Table 19.8). -/
def Ledger.thermal (l : Ledger) (tj ts ms : Nat) : Ledger :=
  { l with tjPeak := max l.tjPeak (min 255 tj), tsPeak := max l.tsPeak (min 255 ts), tempBins := Table.modify 0 (tempBin tj) (· + ms) l.tempBins,
           thermalCycles := if tj < 40 && l.hot then satAdd 32 l.thermalCycles 1 else l.thermalCycles,
           hot := if 80 ≤ tj then true else if tj < 40 then false else l.hot }

/-- PWR_STS.AT_LIMIT reads 1 while a record of its cause is queued, too (R355). -/
def State.atLimit (s : State) : Bool := s.power.atLimit || s.recorded 0x18 none

/-- The end of a THERMAL_PERIOD, with every sensor's reading in °C. -/
def State.thermalLoop (s : State) (junction stack : List Nat) : State :=
  let tj := junction.foldl max 0
  let ts := stack.foldl max 0
  let th := s.obj 0x2400 7
  let tsh := s.obj 0x2400 8
  let limit := 105 ≤ tj || 95 ≤ ts
  let was := s.atLimit
  let s := s.setPower (fun p =>
    let p := { p with tj := tj, ts := ts, temps := junction ++ stack, atLimit := limit }
    if limit then { p with aTh := 19, coolPeriods := 0 }
    else if th ≤ tj || tsh ≤ ts then { p with aTh := min 19 (p.aTh + 1), coolPeriods := 0 }
    else if tj + 5 < th && ts + 5 < tsh then
      (if p.coolPeriods + 1 ≥ 10 then { p with aTh := p.aTh - 1, coolPeriods := 0 } else { p with coolPeriods := p.coolPeriods + 1 })
    else { p with coolPeriods := 0 })
  let s := s.modLedger (fun l => l.thermal tj ts (s.obj 0x2400 6))
  let s := if limit then s.bump 0x3400 18 1 else s
  (if limit && !was then s.capture 0x18 {} else s).levelsOn

/-! ### The commands -/

/-- A command to a part at work. -/
def whenReady (s t : State) : Host.Outcome State Fault Refusal := .next (if s.fabricOn then t else s)

def execPowerSample (milliwatts : Nat) (railMilliwatts : List Nat) (s : State) : Host.Outcome State Fault Refusal :=
  .next (s.powerSample milliwatts railMilliwatts)
/-- The power and thermal loops run in Vigil mode too (Table 18.5). -/
def whenLoops (s t : State) : Host.Outcome State Fault Refusal := .next (if s.fabricOn || s.vigil then t else s)
def execCapLoop (s : State) : Host.Outcome State Fault Refusal := whenLoops s s.capLoop
def execPkgCapWrite (watts : Nat) (s : State) : Host.Outcome State Fault Refusal := 
  .next (s.unlessMulti (.pkgCapWrite watts) (s.pkgTouch.writeCap watts).1)
/-- PLL and voltage are reached: the islands run at the new point. A change that is under way when the package enters Vigil mode ends too
(R367). -/
def execLevelChangeDone (s : State) : Host.Outcome State Fault Refusal :=
  whenLoops s (if s.power.changing then s.setPower (fun p => { p with level := min 7 p.target, changing := false }) else s)
/-- The next 16-cycle window begins (R366). -/
def execDutyChange (s : State) : Host.Outcome State Fault Refusal := whenLoops s (s.setPower (fun p => { p with duty := p.dutyTarget }))
def execThermalLoop (junction stack : List Nat) (s : State) : Host.Outcome State Fault Refusal :=
  whenLoops s (s.thermalLoop junction stack)
/-- A critical reading: power is removed and THERMTRIP_N asserted (R381). -/
def execThermalTrip (die tj ts : Nat) (s : State) : Host.Outcome State Fault Refusal :=
  if die < Config.dies s.part then
    .next (if 115 ≤ tj || 105 ≤ ts then
        ((s.setPower (fun p => { p with thermtrip := true, tj := max p.tj tj, ts := max p.ts ts })).modLedger
          (fun l => { l with tjPeak := max l.tjPeak (min 255 tj), tsPeak := max l.tsPeak (min 255 ts) })).capture 0x33 { die := die, source := blkDie die }
      else s)
  else .next s
/-- Onset of a droop (R374). -/
def execDroop (core : Nat) (s : State) : Host.Outcome State Fault Refusal :=
  if core < Config.cores s.part then
    .next (if s.fabricOn && !(s.coreSt core).stretched then
        (s.setCoreSt core { s.coreSt core with stretched := true }).bump 0x3400 14 1
      else s)
  else .next s
def execDroopRecovery (core stretchedNs : Nat) (s : State) : Host.Outcome State Fault Refusal :=
  if core < Config.cores s.part then
    .next (if (s.coreSt core).stretched then
        (s.setCoreSt core { s.coreSt core with stretched := false }).bump 0x3400 15 stretchedNs
      else s)
  else .next s
/-- Set voltage in millivolts of a die's rail (Table 20.2); that of VDDC is the one fused for the operating point, at or below Table 16.2's
(R365). -/
def railMv (die point : Nat) : Nat → Nat
  | 0 => min (Config.fusedCoreMv die point) ([800, 775, 750, 720, 695, 670, 645, 620].getD point 620)
  | 1 | 5 => 750
  | 2 => 850
  | 4 => 1050
  | _ => 1800

/-- Current in amperes at which a rail's regulator trips (Table 20.2). -/
def railAmps (k : Nat) : Nat := [1100, 150, 110, 10, 100, 120, 12].getD k 0

/-- Does the regulator of a rail trip (R373, R440, R441)? On an input below 5.2 V for 5 µs or above 6.9 V, on an output at 110 % of its set
voltage, or on an output at its trip current. -/
def tripFires (die point k : Nat) : TripCause → Bool
  | .inputUnder mv us => mv < 5200 && 5 ≤ us
  | .inputOver mv => 6900 < mv
  | .outputOver mv => railMv die point k * 110 ≤ mv * 100
  | .outputCurrent ma => railAmps k * 1000 ≤ ma

/-- A regulator has removed its rail. -/
def Power.dropRail (p : Power) (die k : Nat) : Power :=
  { p with rails := p.rails.filter (· ≠ (die, k)), railsOff := p.railsOff ++ [(die, k)],
           fabricLanes := if k = 2 then p.fabricLanes.filter (· ≠ die) else p.fabricLanes }

/-- A regulator that trips removes its rail, and the record names rail and die (R373); one whose measure is within its limits goes on. -/
def execRegTrip (die : Nat) (rail : RailTrip) (s : State) : Host.Outcome State Fault Refusal :=
  .next (if die < Config.dies s.part && rail.k < 7 && tripFires die s.power.level rail.k rail.cause then
      (s.setPower (fun p => p.dropRail die rail.k)).capture 0x32 { die := die, source := blkDie die, syndrome := leBytes 1 rail.k ++ leBytes 1 die }
    else s)
/-- The reference clock is lost, or a PLL does not lock: no PLL is locked and the counters stop (R363, R392). -/
def State.loseRef (s : State) : State := (s.setPower (fun p => { p with refLost := true, locked := false })).capture 0x31 {}
def execRefclkLoss (s : State) : Host.Outcome State Fault Refusal := .next s.loseRef
def execLanternDown (m : LanternMsg) (s : State) : Host.Outcome State Fault Refusal := whenReady s (s.lanternDown m)
def execLanternBeacon (s : State) : Host.Outcome State Fault Refusal := whenReady s s.beacon
def execLanternCall (m : LanternMsg) (s : State) : Host.Outcome State Fault Refusal := whenReady s (s.lanternCall m)
def execLanternReply (child : Nat) (m : LanternMsg) (s : State) : Host.Outcome State Fault Refusal := whenReady s (s.lanternReply child m)
def execLanternSet (m : LanternMsg) (s : State) : Host.Outcome State Fault Refusal := whenReady s (s.lanternSet m)
def execLanternSettle (s : State) : Host.Outcome State Fault Refusal := whenReady s s.settled

end Sys2Proof.Machine
end

