-- ==== Sys2Proof/Machine/Commit.lean ====
section
/-! DEFINITION. The step group and the commit (chapter 10, R183 to R185): formation over the commit tree, Eves, the root's decision, what a
member does on an outcome, self-fast and resolution. -/

namespace Sys2Proof.Machine

def State.setGroup (s : State) (f : Group → Group) : State := { s with group := f s.group }

/-- A commit message to a rank (R240). -/
def State.sendCommit (s : State) (r : Nat) (m : CommitMsg) (rec : Option FormRecord) : State :=
  s.post (unitMgt 0) (s.group.nodeOf r) 0 (.commit { m with groupId := s.group.id } rec)

/-- The same message to every child. -/
def State.toChildren (s : State) (m : CommitMsg) : State := s.group.children.foldl (fun s r => s.sendCommit r m none) s

/-- A stale operation, delivery or message (Table 10.15). -/
def State.staleExch (s : State) : State := s.bump 0x3290 7 1

/-! ### Exchange operations and the end of an attempt (R224, R244) -/

/-- Step that an exchange operation names. -/
def Op.xstep (o : Op) : Nat := xwStep (o.reg 0)

/-- The attempt that an exchange operation belongs to is over: its step is closed, another attempt of it is current, or there was no
open attempt when it issued (R224). -/
def State.exchOver (s : State) (o : Op) : Bool :=
  s.stepClosed o.xstep || o.tag ≠ some (s.attOf o.xstep) || !(s.group.state = .active || s.group.state = .forming)

/-- The group has stopped: it is neither ACTIVE nor FORMING (R224). -/
def State.stopped (s : State) : Bool := !(s.group.state = .active || s.group.state = .forming)

/-- The attempt that an XDISP, XCOMB or RESHARD belongs to is over (R294, R297). -/
def State.mapOver (s : State) (o : Op) : Bool :=
  let p := opcodeOf .stream o.word
  if p = 18 || p = 19 then s.attPast o.step o.att
  else if p = 20 then (match o.tag with
    | none => false
    | some t => s.group.state ≠ .active || t ≠ s.attemptTag s.group.exchStep)
  else false

/-- Is a queued operation over? An exchange operation that had no open attempt when it issued ends where it runs, and is counted there
(R224). -/
def State.queuedOver (s : State) (o : Op) : Bool := (o.tag.isSome && o.isExch && s.exchOver o) || s.mapOver o

/-- Exchange operations of a context that wait, queued or in the engine, and are over. -/
def State.waitingOver (s : State) (c : Context) : Nat :=
  (c.qS.filter (fun o => o.isExch && s.queuedOver o)).length +
    (match c.fS with | some f => bit01 (f.blocked && f.op.isExch && s.exchOver f.op) | none => 0)

/-- Operations in the stream engines and their queues whose attempt is over complete with OK; where the group has stopped, each exchange
operation that waited is counted as stale (R224, R294, R297). -/
def State.endExchOps (s : State) : State :=
  let stale := if s.stopped then (s.ctxs.map (fun (e : Nat × Context) => s.waitingOver e.2)).sum else 0
  let t := { s with ctxs := s.ctxs.map (fun (e : Nat × Context) =>
      (e.1, { e.2 with fS := e.2.fS.map (fun f =>
        if !f.done && ((f.op.isExch && s.exchOver f.op) || s.mapOver f.op) then
          { f with blocked := false, done := true, status := 0, awaiting := [] }
        else f) })) }
  (s.ctxs.foldl (fun (t : State) (e : Nat × Context) =>
    t.endQueued (e.1 / 2) (if e.1 % 2 = 0 then .crown else .brim) s.queuedOver 0) t).bump 0x3290 7 stale

/-- What the step agent and the exchange units forget when an attempt ends. Partials and factor parts of attempts that are not over, sent
by members that went on before, are kept (R244). -/
def Group.endAttempt (g : Group) (isOver : Nat → Nat → Bool) : Group :=
  { g with reports := [], nf := false, eveFirstSent := false, firstEveKnown := false, eveSent := false, eves := [], stopped := [],
           sums := [], partials := g.partials.filter (fun h => !isOver h.p.step h.p.att), factors := g.factors.filter (fun f => !isOver f.step f.att) }

/-- The exchange of the current step begins: version N + 1 is staged, and the exponent bank that it writes becomes invalid (R228, Table
9.4). -/
def State.beginExchange (s : State) : State :=
  let b := (s.group.version + 1) % 2
  let s := s.setGroup (fun g => { g with expValid := g.expValid.filter (fun (e : Nat × Nat × Nat) => e.2.2 ≠ b) })
  s.enabledSlots.foldl (fun s k => s.stageVersion k) s

/-- The group is about to stop: its attempts of the steps that are open in some member, or may be by the next outcome, end without an outcome
(R221, R245). -/
def State.endOpen (s : State) : State :=
  if s.group.state ≠ .active then s
  else
    let ahead := (s.enabledSlots.map s.vdelay).foldl max 0
    s.setGroup (fun g => { g with overAtts := (List.range (ahead + 2)).map (fun i => let k := stepAdd g.exchStep i; (k, s.attOf k % 16)) })

/-- The group stops without reopening: waiting queue operations of its slots end, exchange operations and the experts' attempts are over, the
staged version goes unless it is held in doubt (R221, R244, R245, R294). -/
def State.stopGroup (s : State) (keep : Bool) : State :=
  let s := s.endExchOps
  s.enabledSlots.foldl (fun s k =>
    let s := (List.range 6).foldl (fun s p => s.modCtx (6 * k + p) .crown endWaiting) (s.endExperts k s.attEnded)
    if keep then s else s.dropStaged k) s

/-! ### Self-fast (R245): a member that had sent EVE stays in doubt, with N + 1 and what its owned slices summed to (R239) -/

def State.selfFast (s : State) (reason : Nat) : State :=
  let doubt := (s.group.eveSent || s.group.inDoubt) && s.group.rank ≠ 0
  let step := s.group.exchStep
  let att := s.attOf step
  let s := (s.endOpen.bump 0x3290 4 1).setGroup (fun g => { g with
    state := .stalled, reason := reason, partition := true, inDoubt := doubt,
    inDoubtStep := if doubt then step else g.inDoubtStep, inDoubtAtt := if doubt then att else g.inDoubtAtt })
  let s := s.stopGroup doubt
  let s := s.setGroup (fun g => { g.endAttempt (fun k a => k == step && a == att) with sums := if doubt then g.sums else [] })
  let s := s.retarget
  let s := s.capture 0x27 { step := some step, att := att }
  s.event 6 0 0xFFFF step (leBytes 2 s.group.id ++ leBytes 2 0 ++ leBytes 4 s.group.rank ++ leBytes 1 (bit01 doubt)) none

/-! ### Outcomes (R184, R213, R239, R243, R244) -/

/-- L and C after an outcome, with the total that it counts (Table 8.2). -/
def Group.lossAfter (g : Group) (k : CommitKind) : Int × Nat × Option Nat :=
  match k with
  | .feast =>
    if g.clean + 1 < g.lsGrowth then (g.lossExp, g.clean + 1, none)
    else if g.lossExp < g.lsMax then (g.lossExp + 1, 0, some 8)
    else (g.lossExp, 0, none)
  | .fastSkip => if g.lsMin < g.lossExp then (g.lossExp - 1, 0, some 7) else (g.lossExp, 0, some 9)
  | _ => (g.lossExp, g.clean, none)

/-- FP32 sum of patterns in the given order. -/
def sumWords (ws : List Word) : Word :=
  BitVec.ofNat 32 (ws.foldl (fun (a : Nat) w => (fp32.roundV ((fp32.decode a).add (f32 w))).bits) 0)

/-- Record of one layer of a slot in a noise ring entry (Table 10.7): S1 and S2 over its owned slices and positions in ascending order. -/
def State.noiseLayer (s : State) (k l : Nat) (e : LayerEntry) : NoiseLayer :=
  let mine := (List.range e.slices).filter (s.ownsSlice k)
  let sums := mine.flatMap (fun j => (s.positions k).filterMap (fun p =>
    s.group.sums.find? (fun x => x.slot == k && x.layer == l && x.slice == j && x.pos == p)))
  { layer := l, factor := e.factor, nonfin := sums.any (·.nonfin), slices := mine.length,
    s1 := if e.factor then 0 else sumWords (sums.map (·.s1)), s2 := if e.factor then 0 else sumWords (sums.map (·.s2)) }

/-- Write the entry of an outcome into every enabled slot's ring, and raise NOISE_HEAD (R239). -/
def State.writeNoise (s : State) (step outcome att : Nat) (l : Int) : State :=
  let head := s.group.noiseHead
  let s := s.enabledSlots.foldl (fun s k =>
    let ls := (s.slot k).layers.zipIdx.filterMap (fun (e : LayerEntry × Nat) => if e.1.valid then some (s.noiseLayer k e.2 e.1) else none)
    { s with noise := Table.insert (16 * k + head % 16) ⟨step, outcome, att, l, s.xchSize k, ls⟩ s.noise }) s
  s.setGroup (fun g => { g with noiseHead := (g.noiseHead + 1) % 2 ^ 32 })

/-- Steps from s onward that are open in some enabled slot. -/
def State.laterOpen (s : State) (step : Nat) : List Nat :=
  ((s.enabledSlots.flatMap s.openSteps).filter (fun k => 0 < stepDiff k step)).eraseDups

/-- The outcome is entered, counted, and its noise ring entry written (R239, R241, R243). -/
def State.noteOutcome (s : State) (kind : CommitKind) (step att : Nat) (total : Option Nat) (lossExp : Int) : State :=
  let s := s.setGroup (fun g => { g with lastStep := step, lastAtt := att, lastKind := kind.code })
  let s := s.bump 0x3290 (match kind with | .feast => 1 | .fastRepeat => 2 | _ => 3) 1
  let s := match total with | some t => s.bump 0x7300 t 1 | none => s
  if kind = .fastRepeat then s else s.writeNoise step kind.code att lossExp

/-- The group's step, attempts, version and loss exponent after an outcome (R222, R241, R243, R246). -/
def Group.afterOutcome (g : Group) (kind : CommitKind) (stop : Bool) (nextL : Int) (clean next : Nat) (again : List Nat) : Group :=
  let version := if kind ≠ .feast then g.version else g.version + 1
  { g with
    lossExp := nextL, clean := clean, version := version, exchStep := next, inDoubt := false,
    repeats := if kind = .fastRepeat then g.repeats + 1 else 0,
    verAfter := if kind = .fastRepeat then g.verAfter else Table.insert g.exchStep version g.verAfter,
    atts := if kind ≠ .feast then again.foldl (fun t k => Table.write 0 k (Table.read 0 k t + 1) t) g.atts else g.atts,
    state := if stop then .stalled else g.state, reason := if stop then 7 else g.reason }

/-- The slots and their expert engines after an outcome (R212 to R214, R293). -/
def State.slotsOutcome (s : State) (fast : Bool) (next : Nat) (reopen : Bool) : State :=
  let s := s.enabledSlots.foldl (fun t k => t.endExperts k s.attEnded) s.endExchOps
  s.enabledSlots.foldl (fun s k => if fast then s.slotFast k next reopen else s.slotFeast k) s

/-- A member applies an outcome that it has found to be its own (R243). On a Fast the attempts of later open steps end with it, without an
outcome of their own: their live counts are cleared and not evaluated (DESIGN CHOICE, log entry 136). -/
def State.outcome (s : State) (kind : CommitKind) (stop : Bool) (nextL : Int) : State :=
  let before := s
  let step := s.group.exchStep
  let att := s.attOf step
  let fast := kind ≠ .feast
  let later := if fast then s.laterOpen step else []
  let loss := s.group.lossAfter kind
  let next := if kind = .fastRepeat then step else stepAdd step 1
  let due : List WatchDue := ⟨step, att, kind ≠ .fastRepeat⟩ :: later.map (fun k => ⟨k, s.attOf k, false⟩)
  let reopen := s.group.state = .active && !stop
  let s := s.noteOutcome kind step att loss.2.2 s.group.lossExp
  let s := if loss.1 ≠ nextL then s.capture 0x11 { step := some step, att := att } else s
  let s := { s with watchDue := s.watchDue ++ due }
  let s := s.setGroup (fun g => g.afterOutcome kind stop nextL loss.2.1 next (step :: later))
  let s := s.setGroup (fun g => g.endAttempt (fun k a => stepDiff k next < 0 || a < s.attOf k))
  let s := s.slotsOutcome fast next reopen
  if reopen then (before.checkVersions s).beginExchange else (s.stopGroup false).retarget

/-- Forward an outcome, check its version, apply it (R243). -/
def State.applyOutcome (s : State) (m : CommitMsg) : State :=
  let s := s.toChildren m
  if s.group.version + (if m.kind = .feast then 1 else 0) ≠ m.version then
    (s.capture 0x26 { step := some s.group.exchStep, att := s.attOf s.group.exchStep }).selfFast 9
  else s.outcome m.kind m.stop m.nextL

/-- The root decides (R242). -/
def State.decideOutcome (s : State) (kind : CommitKind) : State :=
  let g := s.group
  s.applyOutcome { kind := kind, stop := kind = .fastRepeat && g.repeatLimit ≤ g.repeats + 1, att := s.attOf g.exchStep % 256,
                   nextL := (g.lossAfter kind).1, step := g.exchStep, version := g.version + (if kind = .feast then 1 else 0) }

/-! ### Eves (R238, R241, R242) -/

/-- Locally complete for the exchange step (R238). -/
def State.localComplete (s : State) : Bool :=
  let rs := s.group.reports
  s.enabledSlots ≠ [] && s.enabledSlots.all (fun k => (s.positions k).all (fun p =>
    rs.contains ⟨1, k, p, 0, 0⟩ &&
    (s.slot k).layers.zipIdx.all (fun (e : LayerEntry × Nat) =>
      !e.1.valid || (List.range e.1.slices).all (fun j => rs.contains ⟨if s.ownsSlice k j then 0 else 2, k, p, e.2, j⟩))))

def State.eveMsg (s : State) (kind : CommitKind) (count nf : Nat) : CommitMsg :=
  { kind := kind, att := s.attOf s.group.exchStep % 256, step := s.group.exchStep, count := count, nfCount := nf, version := s.group.version }

/-- EVE_FIRST, once in an attempt. -/
def State.eveFirst (s : State) : State :=
  let g := s.group
  if g.rank = 0 then s.setGroup (fun g => { g with firstEveKnown := true, eveFirstSent := true })
  else if g.eveFirstSent then s
  else (s.sendCommit g.parent (s.eveMsg .eveFirst 0 0) none).setGroup (fun g => { g with eveFirstSent := true })

/-- What the package's progress now calls for: EVE_FIRST, EVE, or the root's decision (R241, R242). -/
def State.advance (s : State) : State :=
  if s.group.state ≠ .active || s.group.eveSent || !s.localComplete then s
  else
    let s := s.eveFirst
    let g := s.group
    if g.children.any (fun r => !g.eves.any (fun e => e.1 == r)) then s
    else
      let count := 1 + (g.eves.map (·.2.1)).sum
      let nf := bit01 g.nf + (g.eves.map (·.2.2)).sum
      if g.rank = 0 then (if count = g.size then s.decideOutcome (if nf = 0 then .feast else .fastSkip) else s)
      else ((s.sendCommit g.parent (s.eveMsg .eve count nf) none).bump 0x3540 1 1).setGroup (fun g => { g with eveSent := true })

/-- A report or delivery counts for the open attempt (R235, R236). -/
def State.report (s : State) (r : Report) (nf : Bool) : State :=
  (s.setGroup (fun g => { g with reports := if g.reports.contains r then g.reports else g.reports ++ [r], nf := g.nf || nf })).advance

/-- The message is of the member's group, step and open attempt (R240). -/
def State.commitFits (s : State) (m : CommitMsg) : Bool :=
  m.groupId = s.group.id && m.step = s.group.exchStep && m.att = s.attOf s.group.exchStep % 256

def State.gotEveFirst (s : State) (child : Nat) (m : CommitMsg) : State :=
  if s.group.state = .active && s.commitFits m && s.group.children.contains child then s.eveFirst else s.staleExch

def State.gotEve (s : State) (child : Nat) (m : CommitMsg) : State :=
  let g := s.group
  if g.state = .active && s.commitFits m && g.children.contains child && !g.eves.any (fun e => e.1 == child) then
    ((s.bump 0x3540 2 1).setGroup (fun g => { g with eves := g.eves ++ [(child, m.count, m.nfCount)] })).advance
  else (s.bump 0x3540 3 1).staleExch

/-- An Eve that arrives during a warm reset finds no group: it is counted as stale (R384, R414; log entry 76). -/
def State.warmEve (s : State) : State := (s.bump 0x3540 3 1).staleExch

/-- An outcome arrives from the parent (R243, R245). -/
def State.gotOutcome (s : State) (m : CommitMsg) : State :=
  let g := s.group
  let live := g.state = .active || (g.inDoubt && g.exchStep = g.inDoubtStep)
  if live && g.rank ≠ 0 && s.commitFits m then s.applyOutcome m else s.staleExch

/-! ### Formation (R220, R221) -/

/-- The member's own formation record. -/
def State.ownRecord (s : State) : FormRecord :=
  let g := s.group
  ⟨s.part, g.id, g.size, g.eveTimeoutMs, g.watchdogMs, g.repeatLimit, g.lsInit, g.lsMin, g.lsMax, g.lsGrowth⟩

/-- The reason for which records are refused: the first difference in the order of Table 10.3, 0 for none. -/
def recordReason (a : FormRecord) (rs : List FormRecord) : Nat :=
  if rs.any (fun r => r.part != a.part) then 1
  else if rs.any (fun r => r.lsInit != a.lsInit || r.lsMin != a.lsMin || r.lsMax != a.lsMax || r.lsGrowth != a.lsGrowth) || a.lsMax < a.lsMin then 2
  else if rs.any (fun r => r.eveTimeout != a.eveTimeout || r.watchdog != a.watchdog || r.repeatLimit != a.repeatLimit) then 3
  else if rs.any (fun r => r.groupSize != a.groupSize) then 4
  else 0

/-- FORMED: the group is ACTIVE with version 0 current, and its first exchange begins (R220 step 5, R375). Partials and parts that members
already ACTIVE sent for its first attempt are kept. -/
def State.formedNow (s0 : State) : State :=
  let s := s0.toChildren { kind := .formed, step := s0.group.firstStep }
  let s := s.setGroup (fun g =>
    { (g.endAttempt (fun _ _ => false)) with
      state := .active, version := 0, exchStep := g.firstStep, atts := [], verAfter := [], expValid := [], repeats := 0, clean := 0,
      lossExp := max g.lsMin (min g.lsMax g.lsInit), childRecs := [], childRejects := [] })
  let s := s.enabledSlots.foldl (fun s k => s.initVersions k) s
  ((s0.checkVersions s).beginExchange).lanternFormed

/-- REJECTED goes down the tree, and the member records the reason (R220 steps 4 and 6). -/
def State.rejectedNow (s : State) (reason : Nat) : State :=
  (((s.toChildren { kind := .rejected, reason := reason }).setGroup
    (fun g => { g with state := .rejected, reason := reason, childRecs := [], childRejects := [] }))).endExchOps

/-- Once the member holds its own record and an answer from each child, one record or REJECTED goes up, or the root answers (R220). -/
def State.formAdvance (s : State) : State :=
  let g := s.group
  if g.state ≠ .forming || g.formSent then s
  else if g.children.any (fun r => !(g.childRecs.any (fun e => e.1 == r) || g.childRejects.any (fun e => e.1 == r))) then s
  else
    let s := s.setGroup (fun g => { g with formSent := true })
    let own := recordReason s.ownRecord ((g.childRecs.filter (fun e => g.children.contains e.1)).map (·.2))
    let all := ((if own = 0 then [] else [own]) ++ (g.childRejects.filter (fun e => g.children.contains e.1)).map (·.2.2))
    let reason := match all with | [] => 0 | r :: rs => rs.foldl min r
    if g.rank = 0 then (if reason = 0 then s.formedNow else s.rejectedNow reason)
    else if reason = 0 then s.sendCommit g.parent { kind := .formRec } (some s.ownRecord)
    else s.sendCommit g.parent { kind := .rejected, reason := reason } none

/-- Node IDs of MEMBERS. -/
def State.memberList (s : State) : List Nat :=
  let bs := s.oct 0x7000 5
  (List.range (bs.length / 2)).map (fun i => leNat (slice bs (2 * i) 2))

/-- Rank, in a list of members, of a sender known by its rank or, as 65,536 + its ID, by its node. -/
def rankIn (ms : List Nat) (r : Nat) : Nat := if 65536 ≤ r then (ms.findIdx? (fun n => n == r - 65536)).getD r else r

/-- GROUP_CMD = FORM (R220 steps 1 and 2); false where it is refused (R221). A group that is ACTIVE or FORMING ends first, as DISSOLVE ends
one (DEDUCED, log entry 63). Records and rejections of another GROUP_ID that came before are discarded as stale (R240). -/
def State.form (s : State) : State × Bool :=
  if s.group.inDoubt then (s.setGroup (fun g => { g with reason := 6 }), false)
  else
    let s := if s.stopped then s else (s.endOpen.setGroup (fun g => { g with state := .none })).stopGroup false
    let s := s.setGroup (fun g => g.endAttempt (fun _ _ => true))
    let s := s.bump 0x3290 7 ((s.group.childRecs.filter (fun e => e.2.groupId != s.obj 0x7000 2)).length +
      (s.group.childRejects.filter (fun e => e.2.1 != s.obj 0x7000 2)).length)
    let ms := s.memberList
    let size := s.obj 0x7000 3
    let rank := s.obj 0x7000 4
    let ok := rank < size && (s.oct 0x7000 5).length = 2 * size && ms.Nodup && ms.getD rank 65536 = s.boot.node
    let first := s.obj 0x7000 10
    let s := s.setGroup (fun g => { g with
      state := if ok then .forming else .rejected, reason := if ok then 0 else 4, partition := if ok then false else g.partition,
      id := s.obj 0x7000 2, size := size, rank := rank, members := ms, eveTimeoutMs := s.obj 0x7000 7, watchdogMs := s.obj 0x7000 8,
      repeatLimit := s.obj 0x7000 9, firstStep := first, lsInit := s.objInt 0x7300 2, lsMin := s.objInt 0x7300 3,
      lsMax := s.objInt 0x7300 4, lsGrowth := s.obj 0x7300 5, formSent := false,
      childRecs := (g.childRecs.filter (fun e => e.2.groupId == s.obj 0x7000 2)).map (fun e => (rankIn ms e.1, e.2)),
      childRejects := (g.childRejects.filter (fun e => e.2.1 == s.obj 0x7000 2)).map (fun e => (rankIn ms e.1, e.2)),
      noiseHead := if ok then 0 else g.noiseHead, stepLimit := if ok then stepAdd first (-1) else g.stepLimit,
      expValid := if ok then [] else g.expValid, atts := if ok then [] else g.atts, overAtts := if ok then [] else g.overAtts })
    (s.retarget.formAdvance, true)

/-- GROUP_CMD = DISSOLVE; false where it is refused (R221). -/
def State.dissolve (s : State) : State × Bool :=
  if s.group.inDoubt then (s.setGroup (fun g => { g with reason := 6 }), false)
  else
    let s := s.endOpen.setGroup (fun g => { (g.endAttempt (fun _ _ => true)) with state := .none, childRecs := [], childRejects := [] })
    ((s.stopGroup false).retarget, true)

/-- RESOLVE_FEAST and RESOLVE_FAST: the outcome for the in-doubt step, not forwarded (R246). A Fast acts as FAST_REPEAT (DEDUCED, log
entry 64). -/
def State.resolve (s : State) (feast : Bool) : State :=
  if !s.group.inDoubt then s
  else
    let k : CommitKind := if feast then .feast else .fastRepeat
    s.outcome k false (s.group.lossAfter k).1

/-- A child's formation record arrives. One of another GROUP_ID than the member's own, the configured one before its FORM, is stale (R240).
One that comes before the member's own FORM is kept (DEDUCED, log entry 63), under its rank, or under 65,536 + its node ID where no list of members
names the node yet. -/
def State.gotFormRec (s : State) (child : Nat) (r : FormRecord) : State :=
  if r.groupId ≠ (if s.stopped then s.obj 0x7000 2 else s.group.id) then s.staleExch
  else (s.setGroup (fun g => { g with childRecs := g.childRecs.filter (fun e => e.1 ≠ child) ++ [(child, r)] })).formAdvance

def State.gotFormed (s : State) (m : CommitMsg) : State :=
  if s.group.state = .forming && s.group.rank ≠ 0 && m.groupId = s.group.id then s.formedNow else s.staleExch

/-- REJECTED from a child goes toward the root; from the parent it ends the formation (R220). One that comes before the member's own FORM is kept
as a child's record is (DEDUCED, log entry 63). -/
def State.gotRejected (s : State) (src : Nat) (m : CommitMsg) : State :=
  let g := s.group
  let keep (s : State) : State :=
    s.setGroup (fun g => { g with childRejects := g.childRejects.filter (fun e => e.1 ≠ src) ++ [(src, m.groupId, m.reason)] })
  if s.stopped && m.groupId = s.obj 0x7000 2 then keep s
  else if g.state ≠ .forming || m.groupId ≠ g.id then s.staleExch
  else if g.children.contains src then (keep s).formAdvance
  else if g.rank ≠ 0 && src = g.parent then s.rejectedNow m.reason
  else s.staleExch

/-- A slot is disabled; the package may so become locally complete (R241). -/
def State.slotDisable (s : State) (k : Nat) : State := (s.slotOff k).advance

/-! ### The commands -/

def execSlotDisable (slot : Nat) (s : State) : Host.Outcome State Fault Refusal := 
  onSlot slot s (s.unlessMulti (.slotDisable slot) ((s.pkgTouch.blkTouch (blkPipe slot)).slotDisable slot))

/-- The step agent acts while the package is at work and no reset is under way. -/
def whenUp (s t : State) : Host.Outcome State Fault Refusal := .next (if s.up then t else s)

def execForm (s : State) : Host.Outcome State Fault Refusal := whenUp s (s.unlessMulti .form s.pkgTouch.form.1)
def execDissolve (s : State) : Host.Outcome State Fault Refusal := whenUp s (s.unlessMulti .dissolve s.pkgTouch.dissolve.1)
def execResolveFeast (s : State) : Host.Outcome State Fault Refusal := 
  whenUp s (s.unlessMulti .resolveFeast (s.pkgTouch.resolve true))
def execResolveFast (s : State) : Host.Outcome State Fault Refusal := 
  whenUp s (s.unlessMulti .resolveFast (s.pkgTouch.resolve false))
def execFormRec (child : Nat) (r : FormRecord) (s : State) : Host.Outcome State Fault Refusal := whenUp s (s.gotFormRec child r)
def execFormed (m : CommitMsg) (s : State) : Host.Outcome State Fault Refusal := whenUp s (s.gotFormed m)
def execRejected (src : Nat) (m : CommitMsg) (s : State) : Host.Outcome State Fault Refusal := whenUp s (s.gotRejected src m)
def execFormTimeout (s : State) : Host.Outcome State Fault Refusal :=
  whenUp s (if s.group.state = .forming then
      (s.setGroup (fun g => { g with state := .rejected, reason := 5, childRecs := [], childRejects := [] })).endExchOps
    else s)
def execEveFirst (child : Nat) (m : CommitMsg) (s : State) : Host.Outcome State Fault Refusal := whenUp s (s.gotEveFirst child m)
def execEve (child : Nat) (m : CommitMsg) (s : State) : Host.Outcome State Fault Refusal :=
  .next (if s.up then s.gotEve child m else if s.boot.state = .ready then s.warmEve else s)
/-- EVE_TIMEOUT after the first EVE_FIRST known at the root (Table 10.9 row 3). -/
def execEveTimeout (s : State) : Host.Outcome State Fault Refusal :=
  whenUp s (if s.group.state = .active && s.group.rank = 0 && s.group.firstEveKnown then
      (s.bump 0x3290 5 1).decideOutcome .fastRepeat
    else s)
/-- STEP_WATCHDOG after the root's exchange begin (Table 10.9 row 4). -/
def execStepWatchdog (s : State) : Host.Outcome State Fault Refusal :=
  whenUp s (if s.group.state = .active && s.group.rank = 0 then (s.bump 0x3290 6 1).decideOutcome .fastRepeat else s)
def execFeast (m : CommitMsg) (s : State) : Host.Outcome State Fault Refusal := whenUp s (s.gotOutcome { m with kind := .feast })
def execFastRepeat (m : CommitMsg) (s : State) : Host.Outcome State Fault Refusal := whenUp s (s.gotOutcome { m with kind := .fastRepeat })
def execFastSkip (m : CommitMsg) (s : State) : Host.Outcome State Fault Refusal := whenUp s (s.gotOutcome { m with kind := .fastSkip })
/-- A member's deadline passes with no outcome (R245). -/
def execSelfFast (s : State) : Host.Outcome State Fault Refusal :=
  whenUp s (if s.group.state = .active && s.group.rank ≠ 0 then s.selfFast 8 else s)

end Sys2Proof.Machine
end

