-- ==== Sys2Proof/Machine/Exchange.lean ====
section
/-! DEFINITION. The gradient exchange (R222 to R239): leaves and their wire forms, the reduction tree, the owner's sum, factor parts,
SMCAST deliveries, and the operations SREDUCE, SMCAST and SNOTE. -/

namespace Sys2Proof.Machine

/-- A slice of a layer at a position of a slot: its rows, the position's columns, its key slot, and the banks that the exchange reads and
writes (R222, R228). -/
structure Geo where
  slot : Nat
  layer : Nat
  e : LayerEntry
  slice : Nat
  pos : Nat
  row0 : Nat
  rows : Nat
  col0 : Nat
  cols : Nat
  key : Nat
  rd : Nat
  wr : Nat

def State.geo (s : State) (k l : Nat) (e : LayerEntry) (j pos : Nat) : Geo :=
  let r := e.sliceRows j
  let c := s.sliceCols k e pos
  ⟨k, l, e, j, pos, r.1, r.2, c.1, c.2, s.slotKey k, s.group.version % 2, (s.group.version + 1) % 2⟩

/-- Address of the remainder of element (i, 0) of the position's columns (Table 10.5). -/
def Geo.remAddr (g : Geo) (bank i : Nat) : Nat :=
  g.e.remBase + 2 * (bank * g.e.irows * g.e.cols + (g.row0 + i) * g.e.cols + g.col0)
/-- Address of the exponent of the first block of row i of the position's columns. -/
def Geo.expAddr (g : Geo) (bank i : Nat) : Nat :=
  g.e.auxBase + bank * g.e.irows * g.e.cols / 32 + (g.row0 + i) * g.e.cols / 32 + g.col0 / 32
def Geo.blocks (g : Geo) : Nat := g.cols / 32

/-- Report of this slice and position. -/
def Geo.report (g : Geo) (kind : Nat) : Report := ⟨kind, g.slot, g.pos, g.layer, g.slice⟩

/-! ### Leaves (R227 to R229, R232) -/

/-- FP32 pattern of a value. A NaN is the canonical one; in Shenos 1 emulation it keeps its payload (R28, R72). -/
def wordOf (emu : Bool) : FV → Word
  | .nan p => BitVec.ofNat 32 (if emu then p else nan32)
  | v => BitVec.ofNat 32 (fp32.roundV v).bits
/-- FP32 pattern of a value outside emulation. -/
def word32 (v : FV) : Word := wordOf false v

/-- FP32 elements of a tensor of core memory in row order, at their true values (R46), and what reading its tiles counts (R40). -/
def State.elems32 (s : State) (w : Place) (emu : Bool) (d : Desc) : State × List (List Word) :=
  let ts := d.tiles.map (fun ab => (ab, s.readTile w d ab.1 ab.2))
  let ws := (ts.map (fun t => (t.2.vals, s.widen w d t.1.1 t.1.2 t.2))).toArray
  let s := (ts.zip ws.toList).foldl (fun s t => s.readCount w d t.1.1.1 t.1.1.2 t.2.2.2) s
  (s, (List.range d.ext0).map (fun i => (List.range d.ext1).map (fun j =>
    let (a, b, e) := d.find i j
    let t := ws.getD (a * d.tB + b) default
    match t.1.getD e .zero with
    | .nan p => wordOf emu (.nan p)
    | _ => wordOf emu (t.2.1.getD e .zero))))

/-- What one row of a leaf gives: lanes, observed exponents, new remainders, and the counts of R229. -/
structure LeafRow where
  lanes : List Lane
  obs : List Nat
  rem : List Byte
  lost : Nat
  nonzero : Nat
  escapes : Nat

/-- ⌊log₂ a⌋ + 128, clamped, for the largest finite magnitude of a block; 0 with no finite non-zero element (R232). -/
def observed (xs : List FV) : Nat :=
  let ms := xs.filter (fun v => v.isFin && !v.isZero)
  match ms with
  | [] => 0
  | _ => (min (0xFE : Int) (max 0 ((ms.map (fun (v : FV) => (v.log2 + 128 : Int))).foldl max (-1000 : Int)))).toNat

/-- One element on the SB8 wire (R229): its lane, its new remainder, lost, escaped. -/
def sb8Elem (emu : Bool) (ex : Nat) (g : Word) (rem : Nat) : Lane × Nat × FV × Bool × Bool :=
  let xp := (addTerms emu (f32 g) (bf16.decode rem)).1
  match xp with
  | .fin neg m e =>
    let q := roundIntS neg m 1 (e - ((ex : Int) - 134))
    if q = 0 && !xp.isZero then (.code 0, (bf16.roundV xp).bits, xp, true, false)
    else if q.natAbs ≤ 127 then (.code q, 0, xp, false, false)
    else (.esc (wordOf emu xp), 0, xp, false, true)
  | _ => (.esc (wordOf emu xp), 0, xp, false, true)

/-- The blocks of 32 of a row. -/
def blocksOf {α : Type} (xs : List α) : List (List α) := chunksOf 32 (xs.length + 1) xs

/-- A row on the SB8 wire, with the agreed exponents and remainders of its bank. -/
def sb8Row (emu : Bool) (exps : List Byte) (rems : List Byte) (xs : List Word) : LeafRow :=
  let es := xs.zipIdx.map (fun (x : Word × Nat) => sb8Elem emu (exps.getD (x.2 / 32) 0).toNat x.1 (leNat (slice rems (2 * x.2) 2)))
  { lanes := es.map (·.1), obs := (blocksOf (es.map (·.2.2.1))).map observed, rem := es.flatMap (fun e => leBytes 2 e.2.1),
    lost := (es.filter (·.2.2.2.1)).length, nonzero := (es.filter (fun e => e.2.2.1.isFin && !e.2.2.1.isZero)).length,
    escapes := (es.filter (·.2.2.2.2)).length }

/-- A row on the FP32 wire: remainders +0, observed exponents of the values themselves (R228). -/
def fp32Row (xs : List Word) : LeafRow :=
  { lanes := xs.map .esc, obs := (blocksOf (xs.map f32)).map observed, rem := List.replicate (2 * xs.length) 0, lost := 0, nonzero := 0,
    escapes := 0 }

/-- Encode one row: read its bank, write the new remainders; none where HBM delivers no data. -/
def State.leafRow (s : State) (g : Geo) (emu sb8 : Bool) (i : Nat) (xs : List Word) : State × Option LeafRow :=
  let put (s : State) (r : LeafRow) : State × Option LeafRow :=
    let w := s.hbmWrite g.key (g.remAddr g.wr i) r.rem
    (w.1, if w.2 then some r else none)
  if sb8 then
    match s.hbmRead g.key (g.expAddr g.rd i) g.blocks with
    | (s, none) => (s, none)
    | (s, some ex) =>
      match s.hbmRead g.key (g.remAddr g.rd i) (2 * g.cols) with
      | (s, none) => (s, none)
      | (s, some rem) => put s (sb8Row emu ex rem xs)
  else put s (fp32Row xs)

/-- All rows, first to last. -/
def State.leafRows (s : State) (g : Geo) (emu sb8 : Bool) : Nat → List (List Word) → State × Option (List LeafRow)
  | _, [] => (s, some [])
  | i, xs :: rest =>
    match s.leafRow g emu sb8 i xs with
    | (s, none) => (s, none)
    | (s, some r) =>
      match s.leafRows g emu sb8 (i + 1) rest with
      | (s, none) => (s, none)
      | (s, some rs) => (s, some (r :: rs))

/-- Sum of squares under R62. -/
def sumSquares (xs : List FV) : Word := word32 (redLine 1 xs xs).1

/-- The leaf of a slice and position (R227, R229, R239), with its totals counted. -/
def State.leaf (s : State) (g : Geo) (emu sb8 : Bool) (att : Nat) (xs : List (List Word)) : State × Option Partial :=
  match s.leafRows g emu sb8 0 xs with
  | (s, none) => (s, none)
  | (s, some rs) =>
    let lost := (rs.map (·.lost)).sum
    let s := (s.bump 0x3290 9 (rs.map (·.escapes)).sum).bump 0x3290 10 lost
    (s, some { layer := g.layer, slice := g.slice, pos := g.pos, step := s.group.exchStep, att := att, level := 0, index := s.xchRank g.slot,
               sb8 := sb8, lanes := rs.flatMap (·.lanes), exps := rs.flatMap (·.obs),
               lower := sb8 && lost * 10 ^ 6 > s.obj (0x7200 + g.slot) 6 * (rs.map (·.nonzero)).sum,
               s1 := sumSquares (xs.flatten.map f32), emulate := emu })

/-! ### The tree (R226, R230) -/

/-- c × step as an FP32 value, an infinity where it lies beyond the range (R230, R231). -/
def laneValue (ex : Nat) : Lane → FV
  | .esc v => f32 v
  | .code c =>
    let v : FV := .ofInt c ((ex : Int) - 134)
    if maxF32.lt v.abs then .inf (c < 0) else v

/-- Combine two lanes of a block with agreed exponent E. -/
def addLanes (emu : Bool) (ex : Nat) : Lane → Lane → Lane
  | .code a, .code b => .code (a + b)
  | a, b => .esc (wordOf emu (addTerms emu (laneValue ex a) (laneValue ex b)).1)

/-- Combine the partials of two siblings, the left one first and in its mode (R70, R72); `exps` are the agreed exponents, block by block. -/
def joinPartials (a b : Partial) (exps : List Byte) : Partial :=
  { a with level := a.level + 1, index := a.index / 2,
           lanes := (a.lanes.zip b.lanes).zipIdx.map (fun (e : (Lane × Lane) × Nat) => addLanes a.emulate (exps.getD (e.2 / 32) 0).toNat e.1.1 e.1.2),
           exps := (a.exps.zip b.exps).map (fun (e : Nat × Nat) => max e.1 e.2), lower := a.lower || b.lower,
           s1 := wordOf a.emulate (addTerms a.emulate (f32 a.s1) (f32 b.s1)).1, ranks := a.ranks + b.ranks }

/-- Agreed exponents of a slice's columns in the bank that the exchange reads, row by row, each a demand read (R312); none where a unit
delivers none. -/
def State.agreed (s : State) (g : Geo) : State × Option (List Byte) :=
  (List.range g.rows).foldl (fun (r : State × Option (List Byte)) i =>
    match r.2 with
    | none => r
    | some bs => match r.1.hbmRead g.key (g.expAddr g.rd i) g.blocks with
      | (s, some x) => (s, some (bs ++ x))
      | (s, none) => (s, none)) (s, some [])

/-- The agreed exponents that a partial's lanes need: none on the FP32 wire. -/
def State.exponents (s : State) (g : Geo) (sb8 : Bool) : State × Option (List Byte) := if sb8 then s.agreed g else (s, some [])

/-- Node and slot of an exchange rank (Table 10.4). -/
def State.xchMember (s : State) (k r : Nat) : NodeSlot :=
  let bs := s.oct (0x7200 + k) 3
  ⟨leNat (slice bs (4 * r) 2), leNat (slice bs (4 * r + 2) 1)⟩

/-- Rank whose package combines tree node (level, index): the owner's where it lies under the node, else the lowest (R226). -/
def State.combiner (s : State) (k slice level index : Nat) : Nat :=
  let owner := slice % max 1 (s.xchSize k)
  if index * 2 ^ level ≤ owner && owner < (index + 1) * 2 ^ level then owner else index * 2 ^ level

/-- Write agreed exponents of a slice's columns into the bank that the exchange fills; a bank that holds those of every slice and position
of the layer is valid (R228). False, and nothing of the bank noted, where HBM refuses a unit (R452). -/
def State.writeExps (s : State) (g : Geo) (exps : List Nat) : State × Bool :=
  let r := (List.range g.rows).foldl (fun (r : State × Bool) i =>
    let w := r.1.hbmWrite g.key (g.expAddr g.wr i) ((slice (exps.map (BitVec.ofNat 8)) (i * g.blocks) g.blocks))
    (w.1, r.2 && w.2)) (s, true)
  if !r.2 then r
  else
    let s := r.1.setGroup (fun gr => { gr with reports := if gr.reports.contains (g.report 4) then gr.reports else gr.reports ++ [g.report 4] })
    let full := (s.positions g.slot).all (fun p => (List.range g.e.slices).all (fun j => s.group.reports.contains ⟨4, g.slot, p, g.layer, j⟩))
    (if full && !s.bankValid g.slot g.layer g.wr then
      s.setGroup (fun gr => { gr with expValid := gr.expValid ++ [(g.slot, g.layer, g.wr)] })
    else s, true)

/-- The root value at the owner: the sum, the agreed exponents of the next exchange, S1 and S2 (R227, R231, R232, R239). -/
def State.rootSum (s : State) (g : Geo) (p : Partial) : State :=
  match s.exponents g p.sb8 with
  | (s, none) => s
  | (s, some ag) =>
    let vals := p.lanes.zipIdx.map (fun (e : Lane × Nat) => match e.1 with
      | .esc v => v
      | .code _ => word32 (laneValue (ag.getD (e.2 / 32) 0).toNat e.1))
    let bad := (vals.filter (fun v => !(f32 v).isFin)).length
    let exps := p.exps.map (fun m => min 0xFE (m + if p.lower then 0 else 1))
    let s := (s.bump 0x3290 12 bad).bump 0x3290 11 (bit01 p.lower)
    let sum : OwnerSum := { slot := g.slot, layer := g.layer, slice := g.slice, pos := g.pos, step := p.step, att := p.att, exps := exps,
                            s1 := p.s1, s2 := sumSquares (vals.map f32), nonfin := bad ≠ 0, lanes := vals.map .esc }
    ((s.setGroup (fun gr => { gr with sums := gr.sums ++ [sum] })).writeExps g exps).1

/-- Does a held partial belong to the tree node (level of `p`, `index`) of `p`'s sum? -/
def HeldPartial.fits (h : HeldPartial) (k : Nat) (p : Partial) (index : Nat) : Bool :=
  h.slot == k && h.p.layer == p.layer && h.p.slice == p.slice && h.p.pos == p.pos && h.p.step == p.step && h.p.att == p.att &&
    h.p.level == p.level && h.p.index == index

/-- A partial climbs the tree: passed on to the package that combines its parent node, combined there with its sibling or held for it,
and at the root made the owner's sum (R226, R228). Each turn climbs one level. -/
def State.climb (s : State) (k : Nat) : Nat → Partial → State
  | 0, _ => s
  | n + 1, p =>
    let width := ceilDiv (s.xchSize k) (2 ^ p.level)
    match s.layer k p.layer with
    | none => s
    | some e =>
      let g := s.geo k p.layer e p.slice p.pos
      if width ≤ 1 then s.rootSum g p
      else
        let dst := s.xchMember k (s.combiner k p.slice (p.level + 1) (p.index / 2))
        if dst ≠ s.here k then s.post (unitExch (k / 4)) dst.node (s.slotKey k) (.exchPartial dst.slot p)
        else
          let sib := Nat.xor p.index 1
          if width ≤ sib then s.climb k n { p with level := p.level + 1, index := p.index / 2 }
          else match s.group.partials.find? (fun h => h.fits k p sib) with
            | none => s.setGroup (fun gr => { gr with partials := gr.partials ++ [⟨k, p⟩] })
            | some h =>
              let s := s.setGroup (fun gr => { gr with partials := gr.partials.filter (fun x => !x.fits k p sib) })
              if h.p.sb8 ≠ p.sb8 then
                (s.setGroup (fun gr => { gr with stopped := gr.stopped ++ [(k, p.layer, p.slice, p.pos)] })).capture 0x25
                  { die := k / 4, source := blkPipe k, step := some p.step, att := p.att }
              else match s.exponents g p.sb8 with
                | (s, none) => s
                | (s, some ag) => s.climb k n (if p.index % 2 = 0 then joinPartials p h.p ag else joinPartials h.p p ag)

/-- Is the attempt of a message over (R236, R244)? A member that is still FORMING takes what members that are ACTIVE already send it for
attempt 0 of FIRST_STEP. -/
def State.attOver (s : State) (step att : Nat) : Bool :=
  match s.group.state with
  | .active => s.stepClosed step || stepDiff step s.group.exchStep < 0 || att < s.attOf step
  | .forming => stepDiff step s.group.firstStep < 0
  | _ => true

/-- A leaf or partial reaches the package's exchange units (R226). One that comes before FORMED is held until this member's own leaves climb. -/
def State.gotPartial (s : State) (k : Nat) (p : Partial) : State :=
  if s.attOver p.step p.att || !s.slotEn k then s.staleExch
  else if s.group.stopped.contains (k, p.layer, p.slice, p.pos) then s
  else if s.group.state = .forming then s.setGroup (fun g => { g with partials := g.partials ++ [⟨k, p⟩] })
  else s.climb k 18 p

/-! ### Runs of bytes from another package (R233, R237) -/

/-- Pieces of bytes [off, off + n) of a region of runs of `row` bytes that lie `pitch` apart: place in the bytes, distance from the region's
start, and length. -/
def runPieces (row pitch off n : Nat) : List (Nat × Nat × Nat) :=
  if row = 0 then []
  else (List.range (ceilDiv (off + n) row - off / row)).map (fun i =>
    let lo := max off ((off / row + i) * row)
    let hi := min (off + n) ((off / row + i + 1) * row)
    (lo - off, (off / row + i) * pitch + lo % row, hi - lo))

/-- A region that a message fills: runs of `row` bytes from `base` on, `pitch` apart, `size` bytes in all. -/
structure RunRegion where
  base : Nat
  row : Nat
  pitch : Nat
  size : Nat
  deriving DecidableEq, Repr

/-- What the checks of R307 find for a region, of which each run must lie in one window. -/
def State.runsAdmit (s : State) (key : Nat) (g : RunRegion) : Admit :=
  (runPieces g.row g.pitch 0 g.size).foldl (fun v e => v.both (s.admission .remote key (g.base + e.2.1) e.2.2)) .ok

/-- Write bytes from a place of a region on; the first status that is not OK. -/
def State.writeRuns (s : State) (key : Nat) (g : RunRegion) (off : Nat) (bs : List Byte) : State × Nat :=
  (runPieces g.row g.pitch off bs.length).foldl (fun (r : State × Nat) e =>
    let w := r.1.outsideWrite .remote key (g.base + e.2.1) ((bs.drop e.1).take e.2.2)
    (w.1, if r.2 = 0 then w.2.status else r.2)) (s, 0)

/-- Bytes of a region that a packet carries: written where the whole region is admitted. A refusal is recorded with the packet that closes its
message. -/
def State.landRuns (s : State) (key : Nat) (g : RunRegion) (off : Nat) (bs : List Byte) (close : Bool) : State × Nat :=
  match s.runsAdmit key g with
  | .ok => s.writeRuns key g off bs
  | .isolation => (if close then s.isolated g.base else s, 1)
  | .closed => (s, 1)

/-! ### Factor parts (R233) -/

/-- Bytes of an SB8 tile record with BSZ = 1 and ESCT = 1 (Table 2.7). -/
def factorRec : Nat := 4544

/-- Where a factor part lies in the owner's receive area (R233): X in one run, gz in one run for each row of tiles. -/
def State.factorPlace (s : State) (k : Nat) (e : LayerEntry) (f : FactorPart) : RunRegion :=
  let d := max 1 (s.xchSize k)
  let tt := ceilDiv e.tokens 64
  let bx := tt * ceilDiv e.rows 64 * factorRec
  let bg := tt * (e.cols / 64) * factorRec
  let base := e.auxBase + f.slice / d * d * (bx + bg) + f.rank * (bx + bg)
  let c := s.sliceCols k e f.pos
  let row := c.2 / 64 * factorRec
  if f.gz then ⟨base + bx + c.1 / 64 * factorRec, row, e.cols / 64 * factorRec, tt * row⟩ else ⟨base, bx, bx, f.off + f.bytes.length⟩

/-- A packet of a factor part reaches the owner's receive area, under its key slot (R307, R309); the status of the write. With the packet that
closes it the part counts, unless a write of it was refused (R233, R452). `close` is none for a packet that does not close its message, and else
the status that those before it left. -/
def State.gotFactor (s : State) (k : Nat) (f : FactorPart) (close : Option Nat := some 0) : State × Nat :=
  if s.attOver f.step f.att || !s.slotEn k then (if close.isSome then s.staleExch else s, 0)
  else match s.layer k f.layer with
    | none => (s, 0)
    | some e =>
      match s.landRuns f.key (s.factorPlace k e f) f.off f.bytes close.isSome, close with
      | (s, 0), some 0 =>
        (s.setGroup (fun g => { g with factors := g.factors ++ [⟨k, f.layer, f.slice, f.pos, f.rank, f.gz, f.step, f.att⟩] }), 0)
      | r, _ => r

/-- Every part of every rank of the slice has arrived. -/
def State.factorsIn (s : State) (k l j step att : Nat) : Bool :=
  let has (pos rank : Nat) (gz : Bool) : Bool :=
    s.group.factors.any (fun f => f.slot == k && f.layer == l && f.slice == j && f.pos == pos && f.rank == rank && f.gz == gz &&
      f.step == step && f.att == att)
  (List.range (s.xchSize k)).all (fun r => (s.positions k).all (fun p => has p r true) && has ((s.positions k).headD 0) r false)

/-- A part goes to the owner's receive area, on this package or another. -/
def State.sendFactor (s : State) (k : Nat) (f : FactorPart) : State :=
  let dst := s.xchMember k (f.slice % max 1 (s.xchSize k))
  if dst = s.here k then (s.gotFactor k { f with key := s.slotKey k }).1
  else s.post (unitExch (k / 4)) dst.node (s.slotKey k) (.factorPart dst.slot { f with key := s.slotKey k })

/-! ### Deliveries (R236, R237) -/

/-- Slots of this package that belong to the exchange group of an owner, the owner's own left out. -/
def State.memberSlots (s : State) (owner : NodeSlot) : List Nat :=
  s.enabledSlots.filter (fun k => s.here k ≠ owner && (List.range (s.xchSize k)).any (fun r => s.xchMember k r == owner))

/-- Where a delivery lies: rows of `row` bytes, `pitch` apart (R236). -/
def deliveryPlace (d : Delivery) : RunRegion := ⟨d.base, d.row, d.pitch, d.whole⟩

/-- The agreed exponents of a delivery go into every member slot's bank; the status of the writes (R236). -/
def State.deliverExps (s : State) (ks : List Nat) (d : Delivery) : State × Nat :=
  if d.factor then (s, 0)
  else ks.foldl (fun (q : State × Nat) k =>
    match q.1.layer k d.layer with
    | none => q
    | some e =>
      let w := q.1.writeExps (q.1.geo k d.layer e d.slice d.pos) d.exps
      (w.1, if w.2 then q.2 else 4)) (s, 0)

/-- A packet of a delivery reaches the node, whose HBM takes its bytes once; the status of the writes. With the packet that closes it the
delivery counts for every member slot (R236, R237). `close` is as for a factor part. -/
def State.deliver (s : State) (d : Delivery) (close : Option Nat := some 0) : State × Nat :=
  let ks := s.memberSlots d.owner
  if s.attOver d.step d.att || !s.exchBegun d.step then (if close.isSome then s.staleExch else s, 0)
  else match s.landRuns d.key (deliveryPlace d) d.off d.bytes close.isSome, close with
    | (s, 0), some 0 =>
      (match s.deliverExps ks d with
        | (s, 0) => (ks.foldl (fun s k => s.report ⟨2, k, d.pos, d.layer, d.slice⟩ false) s, 0)
        | r => r)
    | r, _ => r

/-! ### The operations -/

/-- What an exchange operation finds before its own effect (R223, R224). -/
inductive XGate where
  | go
  | wait
  | stale
  | ended
  | off
  deriving DecidableEq, Repr

def State.xgate (s : State) (n : Nat) (o : Op) : XGate :=
  if !s.slotEn (coreSlot n) then .off
  else if o.tag.isNone || !(s.group.state = .active || s.group.state = .forming) || s.stepClosed o.xstep then .stale
  else if o.tag ≠ some (s.attOf o.xstep) then .ended
  else if !s.exchBegun o.xstep then .wait
  else .go

/-- Run an exchange operation behind its gate. -/
def gated (body : State → Place → Op → State × OpEnd) (s : State) (w : Place) (o : Op) : State × OpEnd :=
  match s.xgate w.core o with
  | .off => (s, .done 0 2)
  | .stale => (s.staleExch, .done 0 0)
  | .ended => (s, .done 0 0)
  | .wait => (s, .blocked)
  | .go => body s w o

/-- Note what has happened in the attempt. -/
def State.note (s : State) (r : Report) : State :=
  s.setGroup (fun g => { g with reports := if g.reports.contains r then g.reports else g.reports ++ [r] })

/-- SNOTE (R235). -/
def snoteBody (s : State) (w : Place) (o : Op) : State × OpEnd :=
  let k := coreSlot w.core
  let v := o.reg 0
  let nf := xwNf v || (s.ctx w.core w.x).uflag
  let s := s.modCtx w.core w.x (fun c => { c with uflag := false })
  let r : Report := if strSub o.word = 0 then ⟨0, k, corePos w.core, xwLayer v, xwSlice v⟩ else ⟨1, k, corePos w.core, 0, 0⟩
  (s.report r nf, .done 0 0)

/-- Write the owner's sum to D2: FP32 tile records (R225, R227). -/
def State.writeSum (s : State) (w : Place) (d : Desc) (vals : Array Word) : State :=
  d.tiles.foldl (fun s ab =>
    let cs := (List.range 4096).map (fun e =>
      if d.inside ab.1 ab.2 e then
        let ij := d.at ab.1 ab.2 (e / 64) (e % 64)
        (vals.getD (ij.1 * d.ext1 + ij.2) 0).toNat
      else 0)
    let bad := cs.any (fun c => bitsOf c 23 8 = 255)
    s.partWrite w (d.tileOff ab.1 ab.2) (({ nonfin := bad } : TileHead).bytes ++ packCodes 0 cs)) s

/-- SREDUCE of a dense slice (R225 to R232): the leaf first, once; at the owner the sum, when it is there. -/
def sreduceDense (s : State) (w : Place) (o : Op) (g : Geo) : State × OpEnd :=
  let att := s.attOf o.xstep
  let owner := s.ownsSlice g.slot g.slice
  let d1 := o.desc 0
  if !s.holds w d1 || (owner && !s.holds w (o.desc 1)) then (s, .fault fAccess)
  else if !s.readable w d1 then (s, .fault fMemoryUc)
  else
    let emu := (s.ctx w.core w.x).emulate
    let sent := s.group.reports.contains (g.report 3)
    let want := strSub o.word % 2 = 1
    let sb8 := want && s.bankValid g.slot g.layer g.rd
    let (s, ok) :=
      if sent then (s, true)
      else
        let s := if want && !sb8 then s.bump 0x3290 8 1 else s
        let xs := s.elems32 w emu d1
        match xs.1.leaf g emu sb8 att xs.2 with
        | (s, none) => (s, false)
        | (s, some p) => ((s.note (g.report 3)).climb g.slot 18 p, true)
    if !ok then (s, .fault fMemoryUc)
    else if !owner then (s, .done 0 0)
    else match s.group.sums.find? (fun x => x.slot == g.slot && x.layer == g.layer && x.slice == g.slice && x.pos == g.pos && x.att == att) with
      | none => (s, .blocked)
      | some x =>
        let vals := (x.lanes.map (fun l => match l with | .esc v => v | .code _ => 0)).toArray
        ((s.writeSum w (o.desc 1) vals).note (g.report 5), .done 0 0)

/-- SREDUCE of a factor-exchanged slice (R233): the parts first, once, X of D1 from the first position and gz of D2 from every one; at the
owner, until every part of every rank is there. -/
def sreduceFactor (s : State) (w : Place) (o : Op) (g : Geo) : State × OpEnd :=
  let att := s.attOf o.xstep
  let first := s.posIndex g.slot g.pos = 0
  let owner := s.ownsSlice g.slot g.slice
  if (first && !s.holds w (o.desc 0)) || !s.holds w (o.desc 1) then (s, .fault fAccess)
  else if (first && !s.readable w (o.desc 0)) || !s.readable w (o.desc 1) then (s, .fault fMemoryUc)
  else
    let part (gz : Bool) (d : Desc) (s : State) : FactorPart :=
      ⟨g.layer, g.slice, g.pos, s.xchRank g.slot, s.group.exchStep, att, gz, s.recordBytes w.core w.x d 0 d.total, 0, 0⟩
    let s :=
      if s.group.reports.contains (g.report 3) then s
      else
        let s := if first then s.sendFactor g.slot (part false (o.desc 0) s) else s
        (s.sendFactor g.slot (part true (o.desc 1) s)).note (g.report 3)
    if !owner || s.factorsIn g.slot g.layer g.slice s.group.exchStep att then (s, .done 0 0) else (s, .blocked)

def sreduceBody (s : State) (w : Place) (o : Op) : State × OpEnd :=
  let k := coreSlot w.core
  let v := o.reg 0
  match s.xwEntry k v with
  | none => (s, .done 0 0)
  | some e =>
    let g := s.geo k (xwLayer v) e (xwSlice v) (corePos w.core)
    if e.factor then sreduceFactor s w o g else sreduceDense s w o g

/-- Node set of an exchange group, its spanned dimensions and the coordinate mask of each (R237). -/
def State.xchNodes (s : State) (k : Nat) : List Nat := ((List.range (s.xchSize k)).map (fun r => (s.xchMember k r).node)).eraseDups
def spanned (ns : List Nat) : List Nat := (List.range 4).filter (fun d => ((ns.map (fun n => coordOf n d)).eraseDups).length > 1)
def maskOf (ns : List Nat) (d : Nat) : Nat := (((ns.map (fun n => coordOf n d)).eraseDups).map (fun c => 2 ^ c)).sum

/-- SMCAST (R236, R237). -/
def smcastBody (s : State) (w : Place) (o : Op) : State × OpEnd :=
  let k := coreSlot w.core
  let v := o.reg 0
  match s.xwEntry k v with
  | none => (s, .done 0 0)
  | some e =>
    let g := s.geo k (xwLayer v) e (xwSlice v) (corePos w.core)
    if !s.ownsSlice k g.slice then (s, .done 0 0)
    else if !e.factor && !s.group.reports.contains (g.report 5) then (s, .blocked)
    else
      let d1 := o.desc 0
      let d2 := o.desc 1
      if !s.reachesDesc w d1 then (s, .fault fAccess)
      else
        let exps := match s.group.sums.find? (fun x => x.slot == k && x.layer == g.layer && x.slice == g.slice && x.pos == g.pos) with
          | some x => if e.factor then [] else x.exps
          | none => []
        let r := s.recordReads w d1
        match whole r.2 with
        | none => (r.1, .fault fMemoryUc)
        | some bs =>
          let s := r.1
          let del : Delivery :=
            { owner := s.here k, layer := g.layer, slice := g.slice, pos := g.pos, step := s.group.exchStep, att := s.attOf o.xstep,
              base := d2.base, row := d1.tB * d1.recSize, pitch := d2.ts * d2.recSize, bytes := bs, exps := exps, factor := e.factor,
              key := g.key }
          let own := if s.memberSlots (s.here k) = [] then (s, 0) else s.deliver del
          let s := own.1
          let ns := s.xchNodes k
          if own.2 ≠ 0 then (s, .fault (if own.2 = 1 then fAccess else fMemoryUc))
          else match spanned ns with
          | [] => (s, .done 0 0)
          | d :: ds =>
            let p : Packet := { dst := s.boot.node, src := 0, sunit := w.core, cls := 2, key := g.key, addr := d2.base, line := true,
                                stages := ds.length, dim := d, order := ds, lmask := (d :: ds).map (maskOf ns), body := .exchDelivery del }
            let r := s.startStages w.core (some (w.core, w.x)) none ds.length p
            (r.1, if r.2 = [] then .done 0 0 else .waiting r.2 0)

def execSnote (n : Nat) (x : Ctx) (s : State) : Host.Outcome State Fault Refusal := runCore n x .stream 12 (gated snoteBody) s
def execSreduce (n : Nat) (x : Ctx) (s : State) : Host.Outcome State Fault Refusal := runCore n x .stream 16 (gated sreduceBody) s
def execSmcast (n : Nat) (x : Ctx) (s : State) : Host.Outcome State Fault Refusal := runCore n x .stream 17 (gated smcastBody) s

def execExchPartial (slot : Nat) (p : Partial) (s : State) : Host.Outcome State Fault Refusal := onSlot slot s (s.gotPartial slot p)
def execFactorPart (slot : Nat) (p : FactorPart) (s : State) : Host.Outcome State Fault Refusal := onSlot slot s (s.gotFactor slot p).1
def execExchDelivery (d : Delivery) (s : State) : Host.Outcome State Fault Refusal := whenUp s (s.deliver d).1

end Sys2Proof.Machine
end

