-- ==== Sys2Proof/Machine/Stream.lean ====
section
/-! DEFINITION. The stream engine's data movement, synchronisation and queue operations (R142 to R146, Tables 6.11 and 6.12, R204, R207,
R213). -/

namespace Sys2Proof.Machine

/-! ### SMOV and SCPY -/

/-- SMOV: the records of D1, all read before the first is written, in tile order into D2. -/
def smovBody (s : State) (w : Place) (o : Op) : State × OpEnd :=
  let d1 := o.desc 0
  let d2 := o.desc 1
  if !s.reachesDesc w d1 || !s.reachesDesc w d2 then (s, .fault fAccess)
  else
    let r := s.recordReads w d1
    match whole r.2 with
    | none => ((r.1.writeSomeRecords w d2 r.2).unspecified, .fault fMemoryUc)
    | some bs =>
      let q := r.1.writeRecords w.core w.x d2 0 bs
      (q.1, if q.2 then .done 0 0 else .fault fMemoryUc)

/-- SCPY: a byte range from one space of the context to another. -/
def scpyBody (s : State) (w : Place) (o : Op) : State × OpEnd :=
  let sub := strSub o.word
  let src := sub % 4
  let dst := sub / 4 % 4
  let len := o.reg 2
  if !s.reaches w src (o.reg 0) len || !s.reaches w dst (o.reg 1) len then (s, .fault fAccess)
  else
    let r := s.spaceReads w src (o.reg 0) len
    match whole r.2 with
    | none => ((r.1.writeSome w dst (o.reg 1) r.2).unspecified, .fault fMemoryUc)
    | some bs =>
      let q := r.1.spaceWrite w.core w.x dst (o.reg 1) bs
      (q.1, if q.2 then .done 0 0 else .fault fMemoryUc)

/-! ### SPUT, SGET, SLINE, SATOM -/

/-- Pieces of a range of bytes at an address, as offset and length: none crosses a 2 KiB granule (R113). -/
def granules (addr len : Nat) : List (Nat × Nat) :=
  (List.range (ceilDiv (addr % 2048 + len) 2048)).map (fun i =>
    let lo := i * 2048 - addr % 2048
    (lo, min len ((i + 1) * 2048 - addr % 2048) - lo))

/-- Is the local address one of HBM? Its granules may lie at different dies. -/
def isHbmAddr (a : Nat) : Bool := a < 0x400000000000

/-- Message groups of pieces: a granule of HBM goes as a message of its own, everything else of an operation as one message (DESIGN
CHOICE, log entry 23). -/
def messages {α : Type} (addr : Nat) (ps : List α) : List (List α) := if isHbmAddr addr then ps.map (fun p => [p]) else [ps]

/-- The template of an operation's packet. -/
def State.opPacket (s : State) (w : Place) (dst addr : Nat) (b : Body) : Packet :=
  { dst := dst, src := s.boot.node, sunit := w.core, cls := b.cls, pri := w.x == .brim, key := (s.ctx w.core w.x).key, addr := addr, body := b }

/-- Send messages on behalf of the operation: each with the offset of its first byte in the operation's records. -/
def State.sendFor (s : State) (w : Place) (ms : List (Nat × List Packet)) : State × List Nat :=
  ms.foldl (fun (r : State × List Nat) m =>
    let q := r.1.send w.core m.2 1 (some (w.core, w.x)) m.1
    (q.1, r.2 ++ [q.2])) (s, [])

/-- The WRITE packets that carry the bytes to an address: with the offset of each, and whether all its bytes were delivered. -/
def State.writePackets (s : State) (w : Place) (dst addr : Nat) (bs : List (Option Byte)) : List (Nat × Packet × Bool) :=
  (granules addr bs.length).map (fun g =>
    let part := (bs.drop g.1).take g.2
    (g.1, { s.opPacket w dst (addr + g.1) (.write (part.map (fun b => b.getD 0))) with base := addr, span := bs.length }, (whole part).isSome))

/-- A source that did not deliver all its data (R143): of the packets that were delivered whole, those that a free value picks have gone
out already, along a line where they are LINE packets (log entry 6). -/
def State.sendSome (s : State) (w : Place) (ps : List (Nat × Packet × Bool)) : State :=
  (ps.foldl (fun s p =>
    if p.2.2 && Config.unspecifiedUnit s.unspecCount (p.2.1.addr / 64) then
      (if p.2.1.line then (s.startLine w.core [p.2.1] none none).1 else (s.send w.core [p.2.1] 1 none 0).1)
    else s) s).unspecified

/-- Is the address one of a core's memory (Table 13.1)? -/
def isCoreAddr (a : Nat) : Bool :=
  0x400000000000 ≤ a && (a - 0x400000000000) / 0x800000 < 96 && (a - 0x400000000000) % 0x800000 < coreMemBytes

/-- SPUT (Table 6.11). At the address the records lie together in tile order, whatever TSTRIDE says of D1 (DESIGN CHOICE, log entry 113). -/
def sputBody (s : State) (w : Place) (o : Op) : State × OpEnd :=
  let d := o.desc 0
  let dst := o.reg 0 / 2 ^ 48
  let addr := o.reg 0 % 2 ^ 48
  let mesh := bitOf (strSub o.word) 0
  if !s.reachesDesc w d then (s, .fault fAccess)
  else if mesh && !isCoreAddr addr then (s, .done 0 1)
  else
    let r := s.recordReads w d
    let ps := (r.1.writePackets w dst addr r.2).map (fun p =>
      (p.1, (if mesh then { p.2.1 with mesh := true, cmask := o.reg 1 % 2 ^ 24 } else p.2.1), p.2.2))
    if ps.any (fun p => !p.2.2) then (r.1.sendSome w ps, .fault fMemoryUc)
    else
      let q := r.1.sendFor w ((messages addr ps).map (fun g => ((g.map (·.1)).headD 0, g.map (·.2.1))))
      (q.1, .waiting q.2 0)

/-- Pieces of the source of an SGET: granules of the source where its units are those of D2, and otherwise 2 KiB of D2 each, so that every unit
of D2 is written whole, from one answer (R113, R143; DESIGN CHOICE, log entry 23). -/
def getPieces (addr len : Nat) : List (Nat × Nat) := granules (if addr % 64 = 0 then addr else 0) len

/-- SGET: one READ_REQ for each piece; each answer's data go into the records of D2 (`State.readData`). Table 6.11 has it read "D2's record size of
bytes": the bytes of all D2's tile records together, as the records of D1 are what an SPUT writes (DEDUCED, log entry 113). -/
def sgetBody (s : State) (w : Place) (o : Op) : State × OpEnd :=
  let d := o.desc 1
  let addr := o.reg 0 % 2 ^ 48
  if !s.reachesDesc w d then (s, .fault fAccess)
  else
    let q := s.sendFor w ((getPieces addr d.total).map (fun g =>
      (g.1, [{ s.opPacket w (o.reg 0 / 2 ^ 48) (addr + g.1) (.readReq g.2) with base := addr, span := d.total }])))
    (q.1, .waiting q.2 0)

/-- Coordinates of the line of this node in a dimension whose nodes are members of the step group. -/
def State.lineMask (s : State) (d : Nat) : Nat :=
  if s.group.state = .none then 0
  else (((List.range (dimSize s.boot.dim d)).filter (fun c => s.group.members.contains (withCoord s.boot.node d c))).map (fun c => 2 ^ c)).sum

/-- SLINE: one stage along one dimension, to the members of the step group on this node's line (R273, R274). -/
def slineBody (s : State) (w : Place) (o : Op) : State × OpEnd :=
  let d := o.desc 0
  let dim := strSub o.word % 4
  let addr := o.reg 0 % 2 ^ 48
  if !s.reachesDesc w d then (s, .fault fAccess)
  else
    let r := s.recordReads w d
    let ps := (r.1.writePackets w s.boot.node addr r.2).map (fun p =>
      (p.1, ({ p.2.1 with line := true, dim := dim, lmask := [s.lineMask dim] } : Packet), p.2.2))
    if ps.any (fun p => !p.2.2) then (r.1.sendSome w ps, .fault fMemoryUc)
    else
      let q := (messages addr ps).foldl (fun (q : State × List Nat) g =>
        let t := q.1.startLine w.core (g.map (·.2.1)) (some (w.core, w.x)) none
        (t.1, q.2 ++ t.2)) (r.1, [])
      (q.1, if q.2 = [] then .done 0 0 else .waiting q.2 0)

/-- SATOM: earlier stream operations of the context are complete, since its engine runs one at a time in order (R145). -/
def satomBody (s : State) (w : Place) (o : Op) : State × OpEnd :=
  let q := s.sendFor w [(0, [s.opPacket w (o.reg 0 / 2 ^ 48) (o.reg 0 % 2 ^ 48) (.atomic (o.regs.getD 1 0))])]
  (q.1, .waiting q.2 0)

/-- SWAIT (R146). -/
def swaitBody (s : State) (w : Place) (o : Op) : State × OpEnd :=
  let sp := strSub o.word % 2
  let off := par48 (o.reg 0)
  if !s.reaches w sp off 8 then (s, .fault fAccess)
  else if s.coreBad (s.spaceAddr w sp off) 8 then (s, .fault fMemoryUc)
  else if o.reg 1 ≤ leNat (s.sourceBytes w.core w.x sp 0 off 8) then (s, .done 0 0)
  else (s, .blocked)

/-! ### QPUSH (R200, R203, R204, R213, R453) -/

/-- Destination of a QPUSH, and its queue (Table 6.12). -/
def pushDst (r0 : Nat) : NodeSlot := ⟨bitsOf r0 0 16, bitsOf r0 16 4⟩
def pushQueue (r0 : Nat) : QKind := if bitOf r0 20 then .backward else .forward

/-- Send the part as one message. -/
def State.sendPart (s : State) (w : Place) (dst : NodeSlot) (q : QKind) (word : Nat) (bs : List Byte) (opens : Bool) : State × OpEnd :=
  let k := coreSlot w.core
  let part : QueuePart := ⟨dst.slot, q, s.here k, BitVec.ofNat 64 word, bs, (s.ctx w.core w.x).key, opens, 0⟩
  let r := s.sendFor w [(0, [s.opPacket w dst.node 0 (.queuePart part)])]
  (r.1, .waiting r.2 0)

def qpushBody (s : State) (w : Place) (o : Op) : State × OpEnd :=
  let k := coreSlot w.core
  let dst := pushDst (o.reg 0)
  let q := pushQueue (o.reg 0)
  let c := s.ctx w.core w.x
  let step := mbStep (o.reg 1)
  let d := o.desc 0
  if !s.slotEn k then (s, .done 0 2)
  else if !s.reachesDesc w d then (s, .fault fAccess)
  else if step = c.step && s.attPast step c.att then (s.bump (0x3280 + k) 9 1, .done 0 0)
  else
    let word := s.sendWord k (o.reg 1)
    let key := mbKey word
    match (s.slot k).credit dst q with
    | none => (s, if s.noWay dst.node then .done 0 2 else .blocked)
    | some cr =>
      let joins := cr.outbound.contains key
      if !joins && cr.free = 0 then (s, if s.noWay dst.node then .done 0 2 else .blocked)
      else
        let r := s.recordReads w d
        match whole r.2 with
        | none => (r.1, .fault fMemoryUc)
        | some bs =>
          let t := if joins then r.1
            else (r.1.modSlot k (fun v => v.setCredit { cr with free := cr.free - 1, outbound := cr.outbound ++ [key] })).bump (0x3520 + k) 4 1
          t.sendPart w dst q word bs !joins

/-! ### QPOP (R201, R207, R209, R210, R213) -/

/-- Deliver a micro-batch word: G(GA), and the step and attempt of the context (R201). -/
def State.popWord (s : State) (w : Place) (o : Op) (word : Dword) : State :=
  s.modCtx w.core w.x (fun c => { c.setReg (strGa o.word) word with step := mbStep word.toNat, att := mbAtt word.toNat })

/-- The position has popped its part of an entry: the entry is freed after its last part, and its credit returned (R203, R207). -/
def State.popped (s : State) (k pos mode : Nat) (q : QKind) (e : QEntry) (taken : Nat) : State :=
  let e := { e with parts := e.parts.map (fun p => if p.pos = pos then { p with popped := true, bytes := [] } else p) }
  let s := s.modSlot k (fun v => { v with taken := Table.write 0 (pos + 8 * mode) taken v.taken })
  if (s.positions k).all (fun p => match e.part p with | some x => x.popped | none => true) then
    (((s.modSlot k (fun v => v.setQueue q (dropEntry (v.queue q) e.key))).bump (0x3280 + k) (match q with | .forward => 4 | .backward => 5) 1).returnCredit
      k q e.producer e.key)
  else s.modSlot k (fun v => v.setQueue q (replaceEntry (v.queue q) e))

/-- Take the part of the position: into D2, its word into G(GA) (R144, R207). -/
def State.takePart (s : State) (w : Place) (o : Op) (mode : Nat) (q : QKind) (e : QEntry) (taken : Nat) : State × OpEnd :=
  let k := coreSlot w.core
  let pos := corePos w.core
  let d := o.desc 1
  match e.part pos with
  | none => (s, .blocked)
  | some p =>
    if p.size ≠ d.total then (s, .fault fDescriptor)
    else
      let r := if p.spilled then s.hbmRead (s.slotKey k) (s.spillAddr k q e.ring pos) p.size else (s, some p.bytes)
      match r.2 with
      | none => (r.1, .fault fMemoryUc)
      | some bs =>
        let t := r.1.writeRecords w.core w.x d 0 bs
        if !t.2 then (t.1, .fault fMemoryUc)
        else ((t.1.popped k pos mode q e taken).popWord w o p.word, .done 0 0)

def qpopBody (s : State) (w : Place) (o : Op) : State × OpEnd :=
  let k := coreSlot w.core
  let pos := corePos w.core
  let mode := popMode (strSub o.word)
  if !s.slotEn k then (s, .done 0 2)
  else if (s.slot k).restart.contains pos then
    ((s.modSlot k (fun v => { v with restart := v.restart.filter (· ≠ pos) })).popWord w o (s.slot k).restartWord, .done 0 0)
  else if !s.reachesDesc w (o.desc 1) then (s, .fault fAccess)
  else
    let t := if mode ≠ 0 && ((s.slot k).nextFor mode pos).isNone then s.decide k mode else s
    match (t.slot k).nextFor mode pos with
    | none => (t, .blocked)
    | some (q, e, taken) => t.takePart w o mode q e taken

/-! ### The commands -/

def execSmov (n : Nat) (x : Ctx) (s : State) : Host.Outcome State Fault Refusal := runCore n x .stream 1 smovBody s
def execScpy (n : Nat) (x : Ctx) (s : State) : Host.Outcome State Fault Refusal := runCore n x .stream 2 scpyBody s
def execSput (n : Nat) (x : Ctx) (s : State) : Host.Outcome State Fault Refusal := runCore n x .stream 3 sputBody s
def execSget (n : Nat) (x : Ctx) (s : State) : Host.Outcome State Fault Refusal := runCore n x .stream 4 sgetBody s
def execSline (n : Nat) (x : Ctx) (s : State) : Host.Outcome State Fault Refusal := runCore n x .stream 5 slineBody s
def execQpush (n : Nat) (x : Ctx) (s : State) : Host.Outcome State Fault Refusal := runCore n x .stream 8 qpushBody s
def execQpop (n : Nat) (x : Ctx) (s : State) : Host.Outcome State Fault Refusal := runCore n x .stream 9 qpopBody s
def execSatom (n : Nat) (x : Ctx) (s : State) : Host.Outcome State Fault Refusal := runCore n x .stream 10 satomBody s
def execSwait (n : Nat) (x : Ctx) (s : State) : Host.Outcome State Fault Refusal := runCore n x .stream 11 swaitBody s

end Sys2Proof.Machine
end

