-- ==== Sys2Proof/Machine/Experts.lean ====
section
/-! DEFINITION. The expert exchange (R288 to R294): XDISP in both modes, the holder's messages, settling and banks, the source's SETTLE and
returned rows, and XCOMB. -/

namespace Sys2Proof.Machine

/-! ### Configuration of a slot (Table 12.5) -/

def State.expSources (s : State) (k : Nat) : List NodeSlot := nodeSlots (s.oct (0x7600 + k) 3)
def State.expCap (s : State) (k : Nat) : Nat := s.obj (0x7600 + k) 4
/-- Experts that the slot holds itself, by their index in EXP_MAP. -/
def State.localExperts (s : State) (k : Nat) : List Nat :=
  (List.range (s.expMap k).length).filter (fun e => (s.expMap k)[e]? == some (s.here k))

/-- A plain floating-point tensor of the expert engine: BAXIS = 1, TSTRIDE 0. -/
def expDesc (space base rows cols fmt : Nat) : Desc :=
  { (default : Desc) with ext0 := rows, ext1 := cols, base := base, space := space, fmt := fmt, baxis := true, tstride := 0 }

/-- The receive tensor of bank b of local expert l, and its status record's address (R293). -/
def State.bankBase (s : State) (k l b : Nat) : Nat :=
  let bin := (expDesc 2 0 (s.expCap k) (s.obj (0x7600 + k) 7) (s.obj (0x7600 + k) 6)).total
  s.obj (0x7600 + k) 5 + (2 * l + b) * (64 + bin)
def State.bankDesc (s : State) (k l b : Nat) : Desc :=
  expDesc 2 (s.bankBase k l b + 64) (s.expCap k) (s.obj (0x7600 + k) 7) (s.obj (0x7600 + k) 6)
/-- The return area of a source: TOKENS × TOPK rows at RET_OFF (R292), of which no alignment is asked (DESIGN CHOICE, log entry 133). -/
def State.returnDesc (s : State) (k off rows : Nat) : Desc := expDesc 0 off rows (s.obj (0x7600 + k) 9) (s.obj (0x7600 + k) 8)

/-! ### The routing table (Tables 12.6, 12.7) -/

structure RouteHead where
  xseq : Nat
  tokens : Nat
  topk : Nat
  ret : Bool
  res : Bool
  lexp : Nat
  retOff : Nat
  deriving DecidableEq, Repr, Inhabited

def State.routeHead (s : State) (w : Place) (off : Nat) : RouteHead :=
  let h := s.partRead w off 32
  { xseq := leNat (slice h 0 4), tokens := leNat (slice h 4 4), topk := leNat (slice h 8 1), ret := leNat (slice h 9 1) = 1,
    res := leNat (slice h 10 1) = 1, lexp := leNat (slice h 12 2), retOff := leNat (slice h 16 8) }

/-- One choice of a token: expert, SERVED, gate. -/
structure Choice where
  token : Nat
  choice : Nat
  expert : Nat
  served : Bool
  gate : Word
  deriving DecidableEq, Repr, Inhabited

/-- Offset of entry (t, c). -/
def RouteHead.entry (h : RouteHead) (off t c : Nat) : Nat := off + 32 + 8 * (t * h.topk + c)

/-- Every (token, choice) pair, ascending. -/
def RouteHead.pairs (h : RouteHead) : List (Nat × Nat) :=
  (List.range h.tokens).flatMap (fun t => (List.range h.topk).map (fun c => (t, c)))

/-- The valid choices of the table: those whose EXPERT is not 0xFFFF. -/
def State.choices (s : State) (w : Place) (off : Nat) (h : RouteHead) : List Choice :=
  (h.pairs.map (fun tc =>
    let e := s.partRead w (h.entry off tc.1 tc.2) 8
    ({ token := tc.1, choice := tc.2, expert := leNat (slice e 0 2), served := bitOf (leNat (slice e 2 1)) 0,
       gate := BitVec.ofNat 32 (leNat (slice e 4 4)) } : Choice))).filter (fun c => c.expert ≠ 0xFFFF)

/-- Write the FLAGS field of an entry. -/
def State.setFlags (s : State) (w : Place) (off : Nat) (h : RouteHead) (t c v : Nat) : State :=
  s.partWrite w (h.entry off t c + 2) (leBytes 1 v)

/-! ### Rows of plain floating-point tensors -/

/-- Records of a tensor, one array for each tile in tile order. -/
def tileArrays (d : Desc) (bs : List Byte) : Array (Array Byte) :=
  ((List.range (d.tA * d.tB)).map (fun i => ((bs.drop (i * d.recSize)).take d.recSize).toArray)).toArray

/-- Codes of row i, as bytes. -/
def rowBytes (d : Desc) (tiles : Array (Array Byte)) (i : Nat) : List Byte :=
  (List.range d.ext1).flatMap (fun j =>
    let f := d.find i j
    leBytes (elemBits d.fmt / 8) (codeAt d.fmt 64 (tiles.getD (f.1 * d.tB + f.2.1) #[]) f.2.2))

/-- Code j of a row's bytes. -/
def rowCode (fmt : Nat) (bs : List Byte) (j : Nat) : Nat := leNat (slice bs (j * (elemBits fmt / 8)) (elemBits fmt / 8))

/-- A record of floating-point codes: TEO 0, NF as its codes are (Table 2.8). -/
def floatRecord (fmt : Nat) (codes : List Nat) : List Byte :=
  ({ nonfin := codes.any (fun c => !((fmtOf fmt).decode c).isFin) } : TileHead).bytes ++ packCodes fmt codes

/-- The records of a tensor whose first rows are given; the others are +0. -/
def rowRecords (d : Desc) (rows : List (List Byte)) : List Byte :=
  d.tiles.flatMap (fun ab => floatRecord d.fmt ((List.range 4096).map (fun e =>
    if d.inside ab.1 ab.2 e then
      let ij := d.at ab.1 ab.2 (e / 64) (e % 64)
      rowCode d.fmt (rows.getD ij.1 []) ij.2
    else 0)))

/-- Write row i of a tensor in the partition; the other rows of its tiles keep their codes, and what lies outside the extent is +0.0 (R44). -/
def State.writeRow (s : State) (w : Place) (d : Desc) (i : Nat) (row : List Byte) : State :=
  (List.range d.tB).foldl (fun s b =>
    let a := i / 64
    let old := (s.partRead w (d.tileOff a b) d.recSize).toArray
    let codes := (List.range 4096).map (fun e =>
      let ij := d.at a b (e / 64) (e % 64)
      if !d.inside a b e then 0 else if ij.1 = i then rowCode d.fmt row ij.2 else codeAt d.fmt 64 old e)
    s.partWrite w (d.tileOff a b) (floatRecord d.fmt codes)) s

/-! ### XDISP (R289, R292) -/

/-- D1's records read whole, with TEO 0 in every tile, or the fault that ends the operation. -/
def State.plainRows (s : State) (w : Place) (d : Desc) : State × (Nat ⊕ Array (Array Byte)) :=
  let r := s.recordReads w d
  match whole r.2 with
  | none => (r.1, .inl fMemoryUc)
  | some bs =>
    let ts := tileArrays d bs
    (r.1, if ts.any (fun t => t.getD 0 0 ≠ 0) then .inl fDescriptor else .inr ts)

def State.setSources (s : State) (k : Nat) (f : List XSource → List XSource) : State := s.modSlot k (fun v => { v with xsources := f v.xsources })
def State.setBanks (s : State) (k : Nat) (f : List XBank → List XBank) : State := s.modSlot k (fun v => { v with xbanks := f v.xbanks })

/-- DISPATCH: one message to every holder, with the rows of its experts (R289). -/
def State.dispatchRows (s : State) (w : Place) (off : Nat) (h : RouteHead) (d : Desc) (rank : Nat) (ts : Array (Array Byte)) : State × OpEnd :=
  let k := coreSlot w.core
  let cs := s.choices w off h
  let map := s.expMap k
  let s := h.pairs.foldl (fun s tc => s.setFlags w off h tc.1 tc.2 0) (s.bump 0x32A0 1 cs.length)
  let s := s.setSources k (fun l => l.filter (fun x => !(x.xseq == h.xseq && x.step == w.step && x.att == w.att)) ++
    [{ xseq := h.xseq, step := w.step, att := w.att, core := w.core, table := off, retOff := h.retOff, tokens := h.tokens, topk := h.topk,
       settledBy := [], unserved := [], returned := [] }])
  let msg (holder : NodeSlot) : ExpertMsg :=
    { rank := rank, xseq := h.xseq, step := w.step, att := w.att,
      rows := (cs.filter (fun c => map[c.expert]? == some holder)).map (fun c => ⟨c.token, c.choice, c.expert, rowBytes d ts c.token⟩) }
  let r := s.sendFor w ((s.holders k).map (fun x => (0, [s.opPacket w x.node 0 (.expert x.slot (msg x))])))
  (r.1, .waiting r.2 0)

/-- RETURN: the served rows of a bank go back to their sources (R292). -/
def State.returnRows (s : State) (w : Place) (h : RouteHead) (d : Desc) (b : XBank) (ts : Array (Array Byte)) : State × OpEnd :=
  let k := coreSlot w.core
  let rows := b.served.zipIdx
  let msgs := (s.expSources k).zipIdx.filterMap (fun (src : NodeSlot × Nat) =>
    let mine := rows.filter (fun (r : (Nat × Nat × Nat) × Nat) => r.1.1 == src.2)
    if mine = [] then none
    else
      let m : ReturnMsg := ⟨h.xseq, b.step, b.att, mine.map (fun r => ⟨r.1.2.1, r.1.2.2, b.expert, rowBytes d ts r.2⟩)⟩
      some (0, [s.opPacket w src.1.node 0 (.expReturn src.1.slot m)]))
  let r := s.sendFor w msgs
  let same (x : XBank) : Bool := x.expert == b.expert && x.xseq == b.xseq && x.step == b.step && x.att == b.att
  (r.1.setBanks k (fun l => if r.2 = [] then l.filter (fun x => !same x) else l.map (fun x => if same x then { x with returning := r.2.map (w.core, ·) } else x)),
    .waiting r.2 0)

/-- XDISP. A RETURN waits until its bank is settled. -/
def xdispBody (s : State) (w : Place) (o : Op) : State × OpEnd :=
  let k := coreSlot w.core
  let off := par48 (o.reg 0)
  let d := o.desc 0
  if s.mapOver o then (s, .done 0 0)
  else if !s.inPart w.core w.x off 32 || !s.inPart w.core w.x off (s.tableBytes w.core w.x off) || !s.reachesDesc w d then (s, .fault fAccess)
  else if s.badPart w off (s.tableBytes w.core w.x off) then (s, .fault fMemoryUc)
  else
    let h := s.routeHead w off
    let io := if h.ret then 8 else 6
    let rank := (s.expSources k).findIdx? (fun x => x == s.here k)
    if h.ret then
      if d.ext0 ≠ s.expCap k || d.ext1 ≠ s.obj (0x7600 + k) 9 then (s, .fault fDescriptor)
      else if d.fmt ≠ s.obj (0x7600 + k) io then (s, .fault fFormat)
      else match (s.slot k).xbanks.find? (fun b => b.expert == h.lexp && b.xseq == h.xseq && b.step == w.step && b.att == w.att && b.returning == []) with
        | none => (s, .blocked)
        | some b =>
          match s.plainRows w d with
          | (s, .inl f) => (s, .fault f)
          | (s, .inr ts) => s.returnRows w h d b ts
    else if !s.inPart w.core w.x h.retOff (s.returnDesc k h.retOff (h.tokens * h.topk)).total then (s, .fault fAccess)
    else if d.ext0 ≠ h.tokens || d.ext1 ≠ s.obj (0x7600 + k) 7 || !d.baxis || (s.choices w off h).any (fun c => s.expCount k ≤ c.expert) then
      (s, .fault fDescriptor)
    else if d.fmt ≠ s.obj (0x7600 + k) io then (s, .fault fFormat)
    else match rank with
      | none => (s, .fault fDescriptor)
      | some r =>
        match s.plainRows w d with
        | (s, .inl f) => (s, .fault f)
        | (s, .inr ts) => s.dispatchRows w off h d r ts

/-! ### The holder (R290, R291, R293, R294) -/

/-- How an expert message ends at its destination. -/
inductive Taken where
  | ok
  | busy
  | refused (status : Nat)
  deriving DecidableEq, Repr

/-- The slot still holds another XSEQ of the same bank: messages not settled, or a bank not returned (R293). -/
def Slot.bankHeld (v : Slot) (xseq step att : Nat) : Bool :=
  let other (a b c : Nat) : Bool := a % 2 == xseq % 2 && !(a == xseq && b == step && c == att)
  v.xholds.any (fun h => other h.xseq h.step h.att) || v.xbanks.any (fun b => other b.xseq b.step b.att)

/-- A source's dispatch message reaches its holder. A second message of one rank changes nothing. Its rows count in EXP_RECEIVED when their XSEQ
settles, those of an attempt that ends before never, so that R299 holds at any time (DEDUCED, log entry 132). -/
def State.gotExpert (s : State) (k : Nat) (m : ExpertMsg) : State × Taken :=
  let v := s.slot k
  if !s.slotEn k then (s, .refused 2)
  else if s.attEnded m.step m.att then (s.bump 0x32A0 7 1, .ok)
  else if v.bankHeld m.xseq m.step m.att then (s, .busy)
  else
    let mine (h : XHold) : Bool := h.xseq == m.xseq && h.step == m.step && h.att == m.att
    match v.xholds.find? mine with
    | none => (s.setSlot k { v with xholds := v.xholds ++ [⟨m.xseq, m.step, m.att, [m]⟩] }, .ok)
    | some h =>
      if h.msgs.any (fun x => x.rank == m.rank) then (s, .ok)
      else (s.setSlot k { v with xholds := v.xholds.map (fun h => if mine h then { h with msgs := h.msgs ++ [m] } else h) }, .ok)

/-- Put a row into its place by (t, c). -/
def placeRow (x : ExpertRow) : List ExpertRow → List ExpertRow
  | [] => [x]
  | y :: ys => if x.token < y.token || (x.token = y.token && x.choice ≤ y.choice) then x :: y :: ys else y :: placeRow x ys

/-- Offers of an expert by source rank, each in ascending (t, c). -/
def XHold.offers (h : XHold) (e n : Nat) : List (List ExpertRow) :=
  (List.range n).map (fun r =>
    (((h.msgs.filter (fun m => m.rank == r)).flatMap (·.rows)).filter (fun x => x.expert == e)).foldr placeRow [])

/-- The round-robin of R290: each turn takes the next offer of one rank; `fuel` bounds the turns. -/
def serve : Nat → Nat → Nat → List (List ExpertRow) → List (Nat × ExpertRow)
  | 0, _, _, _ => []
  | fuel + 1, cap, r, os =>
    if cap = 0 || os.all (·.isEmpty) then []
    else
      let next := (r + 1) % os.length
      match os.getD r [] with
      | [] => serve fuel cap next os
      | x :: rest => (r, x) :: serve fuel (cap - 1) next (os.set r rest)

/-- Write a settled bank into the receive area: its status record and its tensor (R293). -/
def State.writeBank (s : State) (k l : Nat) (h : XHold) (served : List (Nat × ExpertRow)) (unserved : Nat) : State :=
  let b := h.xseq % 2
  let head := leBytes 4 h.xseq ++ leBytes 4 h.step ++ leBytes 1 h.att ++ [0, 0, 0] ++ leBytes 4 served.length ++ leBytes 4 unserved ++
    List.replicate 44 0
  let rows := rowRecords (s.bankDesc k l b) (served.map (fun x => x.2.bytes))
  (s.hbmWrite (s.slotKey k) (s.bankBase k l b) (head ++ rows)).1

/-- Add to the word at EXP_READY_OFF of a Crown context's shared-buffer area (R291). -/
def State.raiseReady (s : State) (k n : Nat) (p : Nat) : State :=
  let core := 6 * k + p
  let off := s.obj (0x7600 + k) 10
  if s.inSb core .crown off 8 then
    s.rawWrite (s.sbAddr core .crown off) (leBytes 8 (leNat (s.rawRead (s.sbAddr core .crown off) 8) + n))
  else s

/-- What the holder's local experts serve of one XSEQ (R290): for each its bank and expert, the rows served with their ranks, and the offers
by rank. -/
def State.holdServed (s : State) (k : Nat) (h : XHold) : List (Nat × Nat × List (Nat × ExpertRow) × List (List ExpertRow)) :=
  let n := (s.expSources k).length
  let start := (h.step + h.xseq) % max 1 n
  (s.localExperts k).zipIdx.map (fun (e : Nat × Nat) =>
    let os := h.offers e.1 n
    let total := (os.map (·.length)).sum
    (e.2, e.1, serve ((total + 1) * (n + 1)) (s.expCap k) start os, os))

/-- The (token, choice) pairs of a rank that no expert served. -/
def unservedOf (done : List (Nat × Nat × List (Nat × ExpertRow) × List (List ExpertRow))) (r : Nat) : List (Nat × Nat) :=
  done.flatMap (fun (e : Nat × Nat × List (Nat × ExpertRow) × List (List ExpertRow)) =>
    ((e.2.2.2.getD r []).filter (fun x => !(e.2.2.1.any (fun y => y.1 == r && y.2.token == x.token && y.2.choice == x.choice)))).map
      (fun x => (x.token, x.choice)))

/-- One expert's bank is written, entered and counted. -/
def State.settleBank (s : State) (k : Nat) (h : XHold) (e : Nat × Nat × List (Nat × ExpertRow) × List (List ExpertRow)) : State :=
  let total := (e.2.2.2.map (·.length)).sum
  let s := s.writeBank k e.1 h e.2.2.1 (total - e.2.2.1.length)
  let s := s.setBanks k (fun l => l ++ [⟨e.1, h.xseq, h.step, h.att, e.2.2.1.map (fun x => (x.1, x.2.token, x.2.choice)), []⟩])
  ((s.bump 0x32A0 4 total).bump 0x32A0 5 e.2.2.1.length).bump 0x32A0 6 (total - e.2.2.1.length)

/-- Settle an XSEQ: select, write the banks, send SETTLE, raise the ready words (R290, R291). -/
def State.settleHold (s : State) (k : Nat) (h : XHold) : State :=
  let done := s.holdServed k h
  let s := done.foldl (fun s e => s.settleBank k h e) s
  let s := s.modSlot k (fun v => { v with xholds := v.xholds.filter (fun x => x ≠ h) })
  let s := (s.expSources k).zipIdx.foldl (fun s (src : NodeSlot × Nat) =>
    s.post (unitExch (k / 4)) src.1.node (s.slotKey k) (.settle src.1.slot ⟨s.here k, h.xseq, h.step, h.att, unservedOf done src.2⟩)) s
  (s.positions k).foldl (fun s p => s.raiseReady k done.length p) s

/-- The holder settles the XSEQ where it holds the messages of every source. -/
def State.settleX (s : State) (k xseq : Nat) : State :=
  match (s.slot k).xholds.find? (fun h => h.xseq == xseq &&
      (List.range (s.expSources k).length).all (fun r => h.msgs.any (fun m => m.rank == r))) with
  | none => s
  | some h => if s.slotEn k then s.settleHold k h else s

/-! ### The source (R291, R292) -/

/-- Place of a source's routing table and return area. -/
def XSource.place (x : XSource) : Place := ⟨x.core, .crown, x.step, x.att⟩

/-- Every holder has settled: mark each valid choice SERVED or UNSERVED (R291). -/
def State.markChoices (s : State) (k : Nat) (x : XSource) : State :=
  let h : RouteHead := { xseq := x.xseq, tokens := x.tokens, topk := x.topk, ret := false, res := false, lexp := 0, retOff := x.retOff }
  let w := x.place
  (s.choices w x.table h).foldl (fun s c =>
    let un := x.unserved.contains (c.token, c.choice)
    (s.setFlags w x.table h c.token c.choice (if un then 2 else 1)).bump 0x32A0 (if un then 3 else 2) 1) s
  |> fun s => s.setSources k (fun l => l.map (fun y => if y.xseq = x.xseq && y.step = x.step && y.att = x.att then x else y))

/-- SETTLE reaches a source. -/
def State.gotSettle (s : State) (k : Nat) (m : SettleMsg) : State :=
  match (s.slot k).xsources.find? (fun x => x.xseq == m.xseq && x.step == m.step && x.att == m.att) with
  | none => s.bump 0x32A0 7 1
  | some x =>
    if s.attEnded m.step m.att then s.bump 0x32A0 7 1
    else if x.settledBy.contains m.holder then s
    else
      let x := { x with settledBy := x.settledBy ++ [m.holder], unserved := x.unserved ++ m.unserved }
      if s.settledAll k x then s.markChoices k x
      else s.setSources k (fun l => l.map (fun y => if y.xseq = x.xseq && y.step = x.step && y.att = x.att then x else y))

/-- Returned rows reach a source's return area (R292). -/
def State.gotReturn (s : State) (k : Nat) (m : ReturnMsg) : State :=
  match (s.slot k).xsources.find? (fun x => x.xseq == m.xseq && x.step == m.step && x.att == m.att) with
  | none => s.bump 0x32A0 7 1
  | some x =>
    if s.attEnded m.step m.att then s.bump 0x32A0 7 1
    else
      let d := s.returnDesc k x.retOff (x.tokens * x.topk)
      let s := (m.rows.filter (fun r => r.token < x.tokens && r.choice < x.topk)).foldl (fun s r =>
        s.writeRow x.place d (r.token * x.topk + r.choice) r.bytes) s
      s.setSources k (fun l => l.map (fun y =>
        if y.xseq = x.xseq && y.step = x.step && y.att = x.att then
          { y with returned := y.returned ++ m.rows.map (fun r => (r.token, r.choice)) }
        else y))

/-! ### XCOMB (R292) -/

/-- One element: the residual or +0, then one fused multiply-add for each served choice. -/
def combineElem (res : Option FV) (terms : List (FV × FV)) : FV :=
  terms.foldl (fun acc t => fp32.decode (fp32.roundV ((t.1.mul t.2).add acc)).bits) (res.getD .zero)

/-- Widened tiles of a tensor from its records. -/
def State.widenAll (s : State) (w : Place) (d : Desc) (bs : List Byte) : Array (Array FV) :=
  let ts := tileArrays d bs
  ((d.tiles.zipIdx).map (fun (e : (Nat × Nat) × Nat) => (s.widen w d e.1.1 e.1.2 (s.tileOf w d e.1.1 e.1.2 (ts.getD e.2 #[]).toList)).1)).toArray

/-- The reads of those tiles: one record for each malformed tile, and the counts (R40, R46). -/
def State.widenCounts (s : State) (w : Place) (d : Desc) (bs : List Byte) : State :=
  let ts := tileArrays d bs
  (d.tiles.zipIdx).foldl (fun s e =>
    let t := (s.widen w d e.1.1 e.1.2 (s.tileOf w d e.1.1 e.1.2 (ts.getD e.2 #[]).toList)).2
    let off := d.tileOff e.1.1 e.1.2
    (s.badTileAt w (if d.space ≤ 1 then s.spaceAddr w d.space off else off) t).count w d.tid { c := t.c }) s

/-- Element (i, j) of widened tiles. -/
def tileElem (d : Desc) (vs : Array (Array FV)) (i j : Nat) : FV :=
  let f := d.find i j
  (vs.getD (f.1 * d.tB + f.2.1) #[]).getD f.2.2 .zero

/-- The NB4 table area of a tensor of any space is one that the context reaches (R42, R111, Table 6.2). -/
def State.reachesTables (s : State) (w : Place) (d : Desc) : Bool := d.fmt ≠ 11 || d.aux = 0 || s.reaches w d.space d.aux (16 * d.channels)

/-- Read it; false where the space delivers no data (R69, R312). -/
def State.tableReads (s : State) (w : Place) (d : Desc) : State × Bool :=
  if d.fmt ≠ 11 || d.aux = 0 then (s, true)
  else
    let r := s.spaceReads w d.space d.aux (16 * d.channels)
    (r.1, (whole r.2).isSome)

/-- The records of D2 that XCOMB writes, and what their conversion counts (R29, R90). -/
def State.combined (s : State) (w : Place) (cs : List Choice) (topk : Nat) (rd d2 : Desc) (ret : Array (Array FV)) (res : Option (Desc × Array (Array FV))) :
    List Byte × Tally :=
  let ts := d2.tiles.map (fun ab =>
    let xs := ((List.range 4096).map (fun e =>
      if d2.inside ab.1 ab.2 e then
        let ij := d2.at ab.1 ab.2 (e / 64) (e % 64)
        combineElem (res.map (fun r => tileElem r.1 r.2 ij.1 ij.2))
          ((cs.filter (fun c => c.token == ij.1)).map (fun c => (f32 c.gate, tileElem rd ret (c.token * topk + c.choice) ij.2)))
      else .zero)).toArray
    encodeTile d2 ab.1 ab.2 0 (s.nb4Levels w d2 ab.1 ab.2) (s.scaleOf w d2) {} xs)
  (ts.flatMap (·.1), Tally.sum (ts.map (·.2)))

/-- XCOMB: blocked until every holder has settled and every SERVED choice is back. The source keeps its record until the step's outcome, so
that a further XCOMB of the table completes too. -/
def xcombBody (s : State) (w : Place) (o : Op) : State × OpEnd :=
  let k := coreSlot w.core
  let off := par48 (o.reg 0)
  let d1 := o.desc 0
  let d2 := o.desc 1
  if s.mapOver o then (s, .done 0 0)
  else if !s.inPart w.core w.x off 32 || !s.inPart w.core w.x off (s.tableBytes w.core w.x off) then (s, .fault fAccess)
  else if s.badPart w off (s.tableBytes w.core w.x off) then (s, .fault fMemoryUc)
  else
    let h := s.routeHead w off
    let rd := s.returnDesc k h.retOff (h.tokens * h.topk)
    if !s.reachesDesc w d2 || (h.res && !(s.reachesDesc w d1 && s.reachesTables w d1)) || !s.inPart w.core w.x rd.base rd.total then (s, .fault fAccess)
    else if d2.ext0 ≠ h.tokens || d2.ext1 ≠ s.obj (0x7600 + k) 9 || (h.res && !(descOk (o.descs.getD 0 0) && d1.sameExt d2)) then (s, .fault fDescriptor)
    else if !isFloat d2.fmt then (s, .fault fFormat)
    else match (s.slot k).xsources.find? (fun x => x.xseq == h.xseq && x.step == w.step && x.att == w.att) with
      | none => (s, .blocked)
      | some x =>
        let cs := (s.choices w off h).filter (·.served)
        if !s.settledAll k x || !cs.all (fun c => x.returned.contains (c.token, c.choice)) then (s, .blocked)
        else
          let t := if h.res then s.tableReads w d1 else (s, true)
          let r := if h.res then t.1.recordReads w d1 else (s, [])
          match (if t.2 && !s.badPart w rd.base rd.total then whole r.2 else none) with
          | none => ((r.1.writeSomeRecords w d2 []).unspecified, .fault fMemoryUc)
          | some bs =>
            let ret := s.widenAll w rd (s.partRead w rd.base rd.total)
            let res := if h.res then some (d1, s.widenAll w d1 bs) else none
            let p := if h.res then r.1.widenCounts w d1 bs else r.1
            let c := s.combined w cs h.topk rd d2 ret res
            let q := ((p.widenCounts w rd (s.partRead w rd.base rd.total)).count w d2.tid c.2).writeRecords w.core w.x d2 0 c.1
            (q.1, if q.2 then .done 0 0 else .fault fMemoryUc)

/-! ### The commands -/

def execXdisp (n : Nat) (x : Ctx) (s : State) : Host.Outcome State Fault Refusal := runCore n x .stream 18 xdispBody s
def execXcomb (n : Nat) (x : Ctx) (s : State) : Host.Outcome State Fault Refusal := runCore n x .stream 19 xcombBody s
def execExpert (slot : Nat) (m : ExpertMsg) (s : State) : Host.Outcome State Fault Refusal := onSlot slot s (s.gotExpert slot m).1
def execExpertSettle (slot xseq : Nat) (s : State) : Host.Outcome State Fault Refusal := onSlot slot s (s.settleX slot xseq)
def execSettle (slot : Nat) (m : SettleMsg) (s : State) : Host.Outcome State Fault Refusal := onSlot slot s (s.gotSettle slot m)
def execExpertReturn (slot : Nat) (m : ReturnMsg) (s : State) : Host.Outcome State Fault Refusal := onSlot slot s (s.gotReturn slot m)

end Sys2Proof.Machine
end

