-- ==== Sys2Proof/Machine/Reshard.lean ====
section
/-! DEFINITION. RESHARD (R295 to R297): its plan, the transfers and notices of a sender, the receiver's writes and byte-count check. -/

namespace Sys2Proof.Machine

/-! ### The plan (Table 12.8) -/

structure PlanDest where
  node : Nat
  core : Nat
  deriving DecidableEq, Repr, Inhabited

structure PlanMove where
  dest : Nat
  len : Nat
  src : Nat
  dst : Nat
  deriving DecidableEq, Repr, Inhabited

/-- RID, destinations and transfers of the plan at an offset of the partition. -/
def State.plan (s : State) (w : Place) (off : Nat) : Nat × List PlanDest × List PlanMove :=
  let h := s.partRead w off 32
  let nd := leNat (slice h 4 2)
  let dests := (List.range nd).map (fun i =>
    let r := s.partRead w (off + 32 + 8 * i) 8
    ({ node := leNat (slice r 0 2), core := leNat (slice r 2 1) } : PlanDest))
  let moves := (List.range (leNat (slice h 8 4))).map (fun i =>
    let r := s.partRead w (off + 32 + 8 * nd + 24 * i) 24
    ({ dest := leNat (slice r 0 2), len := leNat (slice r 4 4), src := leNat (slice r 8 8), dst := leNat (slice r 16 8) } : PlanMove))
  (leNat (slice h 0 4), dests, moves)

/-! ### Receiver -/

/-- The RESHARD registered at a core under an identifier whose operation is outstanding. -/
def State.receiver (s : State) (core rid : Nat) : Option Reshard :=
  s.reshards.find? (fun r => r.core == core && r.rid == rid && s.reshardLive r)

def State.setReshard (s : State) (r : Reshard) : State :=
  { s with reshards := s.reshards.map (fun y => if y.core = r.core && y.x = r.x && y.seq = r.seq then r else y) }

/-- The byte-count check, once the notices of every sender are there (R296). -/
def State.checkReshard (s : State) (r : Reshard) : State :=
  if r.checked || r.notices < r.senders then s.setReshard r
  else if r.total = r.written && r.total = r.expected then s.setReshard { r with checked := true }
  else
    ((s.setReshard { r with checked := true, failed := true }).bump 0x32A0 10 1).capture 0x2B
      { die := coreDie r.core, source := blkCore r.core, step := some (s.ctx r.core r.x).step, att := (s.ctx r.core r.x).att }

/-- Reshard bytes that were refused are counted (R299, R415, Table 18.6); no object holds the count, which is the model's own (log entry 139). -/
def State.reshardRefused (s : State) (n : Nat) : State := s.bump 0x32A0 11 n

/-- A transfer packet at its receiver: written, refused with REMOTE_ACCESS beyond D2's region, or BUSY with no receiver registered. -/
def State.gotTransfer (s : State) (core rid off : Nat) (bs : List Byte) : State × Taken :=
  match s.receiver core rid with
  | none => (s, .busy)
  | some r =>
    let d := descOf r.desc
    let w : Place := ⟨core, r.x, 0, 0⟩
    if d.extent < off + bs.length || !s.reaches w d.space (d.base + off) bs.length then (s.reshardRefused bs.length, .refused 1)
    else
      let q := s.spaceWrite core r.x d.space (d.base + off) bs
      if q.2 then ((q.1.setReshard { r with written := r.written + bs.length }).bump 0x32A0 9 bs.length, .ok) else (q.1.reshardRefused bs.length, .refused 4)

/-- A NOTICE at its receiver. -/
def State.gotNotice (s : State) (core rid total : Nat) : State × Taken :=
  match s.receiver core rid with
  | none => (s, .busy)
  | some r => (s.checkReshard { r with notices := r.notices + 1, total := r.total + total }, .ok)

/-! ### Sender -/

/-- Send every transfer, then one NOTICE to each destination. -/
def State.sendMoves (s : State) (w : Place) (d : Desc) (rid : Nat) (dests : List PlanDest) (moves : List PlanMove) : State × OpEnd :=
  let r := moves.foldl (fun (r : State × List (PlanMove × List (Option Byte))) m =>
    let q := r.1.spaceReads w d.space (d.base + m.src) m.len
    (q.1, r.2 ++ [(m, q.2)])) (s, [])
  if r.2.any (fun m => (whole m.2).isNone) then (r.1, .fault fMemoryUc)
  else
    let t (m : PlanMove) : PlanDest := dests.getD m.dest default
    let transfers := r.2.map (fun m =>
      (m.1.src, [s.opPacket w (t m.1).node 0 (.reshard (t m.1).core rid m.1.dst (m.2.map (fun b => b.getD 0)))]))
    let notices := dests.zipIdx.map (fun (e : PlanDest × Nat) =>
      (0, [s.opPacket w e.1.node 0 (.notice e.1.core rid ((moves.filter (fun m => m.dest == e.2)).map (·.len)).sum)]))
    let q := (r.1.bump 0x32A0 8 (moves.map (·.len)).sum).sendFor w (transfers ++ notices)
    (q.1, .waiting q.2 0)

/-- RESHARD: send, then wait for the acknowledgements and for its own check. A transfer that names no destination record ends it with
ACCESS, as one outside D1's region does (DESIGN CHOICE, log entry 26). -/
def reshardBody (s : State) (w : Place) (o : Op) : State × OpEnd :=
  let off := par48 (o.reg 0)
  let d1 := o.desc 0
  let d2 := o.desc 1
  if s.mapOver o then (s, .done 0 0)
  else if !s.inPart w.core w.x off 32 || !s.inPart w.core w.x off (s.planBytes w.core w.x off) || !s.reachesDesc w d1 || !s.reachesDesc w d2 then
    (s, .fault fAccess)
  else if s.badPart w off (s.planBytes w.core w.x off) then (s, .fault fMemoryUc)
  else
    let (rid, dests, moves) := s.plan w off
    if moves.any (fun m => d1.extent < m.src + m.len || dests.length ≤ m.dest) then (s, .fault fAccess)
    else match s.reshards.find? (fun r => r.core == w.core && r.x == w.x && r.seq == o.seq) with
      | none => (s, .blocked)
      | some r =>
        if r.sent then (s, if !r.checked then .blocked else .done 0 (if r.failed then 1 else 0))
        else
          let s := s.checkReshard { r with sent := true }
          let q := s.sendMoves w d1 rid dests moves
          if q.2 = .waiting [] 0 then (q.1, .blocked) else q

/-! ### The commands -/

def execReshard (n : Nat) (x : Ctx) (s : State) : Host.Outcome State Fault Refusal := runCore n x .stream 20 reshardBody s

/-- A message to a core that the part has. -/
def onCore (n : Nat) (s t : State) : Host.Outcome State Fault Refusal :=
  if n < Config.cores s.part then .next (if s.up then t else s) else .next s

def execReshardTransfer (core rid off : Nat) (bytes : List Byte) (s : State) : Host.Outcome State Fault Refusal :=
  onCore core s (s.gotTransfer core rid off bytes).1
def execNotice (core rid total : Nat) (s : State) : Host.Outcome State Fault Refusal := onCore core s (s.gotNotice core rid total).1

end Sys2Proof.Machine
end

