-- ==== Sys2Proof/Machine/Slots.lean ====
section
/-! DEFINITION. Enabling a stage slot: the checks of R199 and R222, the stage declaration with its footprint and retention plan (R283 to
R286), and the grants of R203. -/

namespace Sys2Proof.Machine

/-! ### Ranges in windows -/

/-- Does the union of the windows hold [a, a + n)? Each turn moves the covered end on. -/
def covers (ws : List (Nat × Nat)) (a n : Nat) : Bool :=
  a + n ≤ ws.foldl (fun (r : Nat) _ => ws.foldl (fun (r : Nat) w => if w.1 ≤ r && r < w.2 then w.2 else r) r) a

/-- Bytes of the union: each window adds what those before it do not hold. -/
def unionBytes (ws : List (Nat × Nat)) : Nat :=
  let cuts := ((ws.flatMap (fun w => [w.1, w.2])).eraseDups)
  (cuts.map (fun c =>
    match (cuts.filter (fun d => c < d)).min? with
    | some d => if ws.any (fun w => w.1 ≤ c && d ≤ w.2) then d - c else 0
    | none => 0)).sum

/-- HBM windows of the slot's Crown contexts. -/
def State.slotWindows (s : State) (k : Nat) : List (Nat × Nat) := (s.positions k).flatMap (fun p => (s.ctx (6 * k + p) .crown).windows)
def State.inSlot (s : State) (k a n : Nat) : Bool := covers (s.slotWindows k) a n

/-! ### R199 -/

/-- Bytes of each spill region. -/
def State.spillBytes (s : State) (k : Nat) : Nat := 64 * (s.positions k).length * s.partMax k

def overlap (a n b m : Nat) : Bool := a < b + m && b < a + n

/-- Enabled slots of a slot's die, the slot itself left out. -/
def State.dieSlots (s : State) (k : Nat) : List Nat := s.enabledSlots.filter (fun j => j / 4 = k / 4 && j ≠ k)

/-- May the slot be enabled by R199? -/
def State.slotOk (s : State) (k : Nat) : Bool :=
  let units (j : Nat) : Nat := s.headUnits j .forward + s.headUnits j .backward
  let cs := (s.positions k).map (fun p => s.ctx (6 * k + p) .crown)
  let f := s.spillBase k .forward
  let b := s.spillBase k .backward
  let n := s.spillBytes k
  s.positions k ≠ [] &&
  ((k :: s.dieSlots k).map units).sum ≤ 128 &&
  s.partMax k % 64 = 0 &&
  f % 64 = 0 && b % 64 = 0 && s.inSlot k f n && s.inSlot k b n && !overlap f n b n &&
  cs.all (fun c => c.state ≠ .empty && c.key = s.slotKey k) &&
  ((s.producers k .forward).map (·.2)).sum ≤ 64 && ((s.producers k .backward).map (·.2)).sum ≤ 64 &&
  s.enabledSlots.all (fun j => j = k || s.slotKey j ≠ s.slotKey k || s.vdelay j = s.vdelay k)

/-! ### R222 -/

/-- A read that the package makes on its own account through the slot's key: none where a unit delivers no data. -/
def State.slotRead (s : State) (k a n : Nat) : State × Option (List Byte) :=
  if s.mcsOn a n then s.hbmRead (s.slotKey k) a n else (s, none)

/-- A layer table entry (Table 10.5). -/
def layerOf (b : List Byte) : LayerEntry :=
  let fl := leNat (slice b 0 1)
  { valid := bitOf fl 0, factor := bitOf fl 1, rows := leNat (slice b 2 2), irows := leNat (slice b 4 4), cols := leNat (slice b 8 4),
    tokens := leNat (slice b 12 4), remBase := leNat (slice b 16 8), auxBase := leNat (slice b 24 8) }

/-- Bytes of the factor receive area (R233). -/
def LayerEntry.factorArea (e : LayerEntry) (d : Nat) : Nat :=
  let tt := ceilDiv e.tokens 64
  ceilDiv e.slices d * d * (tt * ceilDiv e.rows 64 * factorRec + tt * (e.cols / 64) * factorRec)

/-- Is a valid layer one that the slot can exchange? -/
def State.layerOk (s : State) (k : Nat) (e : LayerEntry) : Bool :=
  let p := (s.positions k).length
  0 < e.rows && e.rows ≤ 256 && e.rows % 64 = 0 && 0 < e.irows && e.cols % (64 * max 1 p) = 0 &&
  s.inSlot k e.remBase (4 * e.irows * e.cols) &&
  s.inSlot k e.auxBase (if e.factor then e.factorArea (max 1 (s.xchSize k)) else e.irows * e.cols / 16) &&
  (!e.factor || (List.range e.slices).all (fun j =>
    let m := (e.sliceRows j).2
    e.tokens * (m + e.cols) * 2 < m * e.cols))

/-- A product set (R237). -/
def productSet (ns : List Nat) : Bool :=
  ns.length = ((List.range 4).map (fun d => ((ns.map (fun n => coordOf n d)).eraseDups).length)).foldl (· * ·) 1

/-- May the slot's exchange be set up, its layer table left out? -/
def State.xchOk (s : State) (k : Nat) : Bool :=
  let t := s.obj (0x7200 + k) 4
  (s.oct (0x7200 + k) 3).length = 4 * s.xchSize k && s.xchRank k < s.xchSize k && s.xchMember k (s.xchRank k) = s.here k &&
  t % 64 = 0 && s.inSlot k t (32 * s.obj (0x7200 + k) 5) && productSet (s.xchNodes k)

/-- The layer table, where the slot may take it. -/
def State.layerTable (s : State) (k : Nat) : State × Option (List LayerEntry) :=
  let n := s.obj (0x7200 + k) 5
  match s.slotRead k (s.obj (0x7200 + k) 4) (32 * n) with
  | (s, none) => (s, none)
  | (s, some bs) =>
    let es := (List.range n).map (fun i => layerOf (slice bs (32 * i) 32))
    (s, if es.all (fun e => !e.valid || s.layerOk k e) then some es else none)

/-! ### The stage declaration (R283 to R286) -/

/-- Reason codes of Table 12.4. -/
inductive DeclEnd where
  | refused (code : Nat)
  | ok (plan : List Nat) (footprint : Nat)
  deriving DecidableEq, Repr

/-- Is a layer record good for a valid layer? -/
def layerRecOk (b : List Byte) : Bool :=
  let dpath := leNat (slice b 0 1)
  let fn := leNat (slice b 1 1)
  dpath ≤ 2 && (if dpath = 2 then fn = 0 else 7 ≤ fn && fn ≤ 11) && leNat (slice b 2 1) ≠ 0

/-- The layers retained within a budget, of (RPRI, index, GBYTES) in ascending order (R286). -/
def retain : Nat → List (Nat × Nat × Nat) → List Nat
  | _, [] => []
  | budget, (_, i, g) :: rest => if g ≤ budget then i :: retain (budget - g) rest else retain budget rest

/-- The retention plan of the declared layers. -/
def planOf (es : List LayerEntry) (recs : List (List Byte)) (budget : Nat) : List Nat :=
  let cands := (es.zip recs).zipIdx.filterMap (fun (e : (LayerEntry × List Byte) × Nat) =>
    let g := leNat (slice e.1.2 8 8)
    let r := leNat (slice e.1.2 3 1)
    if e.1.1.valid && 0 < g && r ≠ 0xFF then some (r, e.2, g) else none)
  retain budget (cands.mergeSort (fun a b => a.1 < b.1 || (a.1 = b.1 && a.2.1 ≤ b.2.1)))

/-- PLAN: bit i mod 8 of byte ⌊i / 8⌋ for each retained layer (Table 12.2). -/
def planBits (p : List Nat) : List Byte := leBytes 32 ((p.map (fun i => 2 ^ i)).sum)

/-- Footprint beyond the six declared byte counts (R284). -/
def State.footprintOf (s : State) (k : Nat) (es : List LayerEntry) : Nat :=
  let layer (e : LayerEntry) : Nat :=
    if !e.valid then 0
    else if e.factor then e.factorArea (max 1 (s.xchSize k))
    else 4 * e.irows * e.cols + e.irows * e.cols / 16
  2 * s.spillBytes k + (es.map layer).sum +
    (if s.expCount k = 0 then 0 else s.bankBase k (s.localExperts k).length 0 - s.bankBase k 0 0)

/-- Read the declaration and apply its checks in the order of R283. -/
def State.declare (s : State) (k : Nat) (es : List LayerEntry) : State × DeclEnd :=
  let a := s.obj (0x7700 + k) 1
  if a = 0 || a % 64 ≠ 0 || !s.inSlot k a 128 then (s, .refused 1)
  else match s.slotRead k a 128 with
    | (s, none) => (s, .refused 5)
    | (s, some h) =>
      let n := leNat (slice h 2 2)
      if leNat (slice h 0 2) ≠ 1 || n ≠ es.length then (s, .refused 2)
      else if !s.inSlot k a (128 + 32 * n) then (s, .refused 1)
      else match s.slotRead k (a + 128) (32 * n) with
        | (s, none) => (s, .refused 5)
        | (s, some bs) =>
          let recs := (List.range n).map (fun i => slice bs (32 * i) 32)
          if (es.zip recs).any (fun e => e.1.valid && !layerRecOk e.2) then (s, .refused 3)
          else
            let declared := ((List.range 6).map (fun i => leNat (slice h (8 + 8 * i) 8))).sum
            let fp := declared + s.footprintOf k es
            if unionBytes (s.slotWindows k) < fp then (s, .refused 4)
            else
              let plan := planOf es recs (leNat (slice h 0x28 8))
              match s.hbmWrite (s.slotKey k) (a + 0x40) (planBits plan) with
              | (s, false) => (s, .refused 5)
              | (s, true) => (s, .ok plan fp)

/-! ### Enable -/

/-- A refused enable: PIPE_STS.CFG_BAD. -/
def State.slotBad (s : State) (k : Nat) : State := s.modBlock (blkPipe k) (fun b => { b with cfgBad := true })

/-- Grants to the producers of a queue (R203). -/
def State.sendGrants (s : State) (k : Nat) (q : QKind) : State :=
  (s.producers k q).foldl (fun s p =>
    ((s.modSlot k (fun v => { v with granted := v.granted ++ [(p.1, q, p.2)] })).bump (0x3520 + k) 1 p.2).post
      (unitExch (k / 4)) p.1.node (s.slotKey k) (.credit (.grant p.1.slot (s.here k) q p.2))) s

/-- SLOT_EN from 0 to 1; true where the enable is accepted. -/
def State.slotOn (s : State) (k : Nat) : State × Bool :=
  if s.slotEn k then (s, true)
  else if !s.slotOk k || !s.xchOk k then (s.slotBad k, false)
  else match s.layerTable k with
    | (s, none) => (s.slotBad k, false)
    | (s, some es) =>
      match s.declare k es with
      | (s, .refused code) => ((s.modSlot k (fun v => { v with declReason := code })).slotBad k, false)
      | (s, .ok plan fp) =>
        let s := s.modSlot k (fun v => { v with declReason := 0, plan := plan, layers := es, footprint := fp,
                                                quota := unionBytes (s.slotWindows k) })
        let s := s.modBlock (blkPipe k) (fun b => { b with en := true, cfgBad := false })
        let s := if s.group.state = .active then (s.initVersions k).stageVersion k else s
        ((s.sendGrants k .forward).sendGrants k .backward, true)

def execSlotEnable (slot : Nat) (s : State) : Host.Outcome State Fault Refusal := 
  onSlot slot s (s.unlessMulti (.slotEnable slot) ((s.pkgTouch.blkTouch (blkPipe slot)).slotOn slot).1)

end Sys2Proof.Machine
end

