-- ==== Sys2Proof/Machine/Registers.lean ====
section
/-! DEFINITION. The register window (R347 to R356, R451): what each word of a block reads as, and what a write of it does. -/

namespace Sys2Proof.Machine

/-! ### Codes of the status fields -/

/-- Table 5.1. -/
def CtxState.code : CtxState → Nat
  | .empty => 0 | .idle => 1 | .running => 2 | .waiting => 3 | .suspended => 4 | .faulted => 5 | .halted => 6 | .busy => 7

/-- Table 11.6. -/
def PortState.code : PortState → Nat
  | .disabled => 0 | .training => 1 | .up => 2 | .retraining => 3 | .down => 4 | .absent => 5

/-- Table 11.7. -/
def Bank2.code : Bank2 → Nat
  | .free => 0 | .shadow => 1 | .previous => 2 | .loading => 3

/-! ### Status words -/

/-- CORE_STS (Table 5.11). -/
def State.coreSts (s : State) (n : Nat) : Nat :=
  let b := s.block (blkCore n)
  let d := (s.coreSt n).disabling
  bit01 b.cmdRefused * 16 + bit01 d * 8 + bit01 b.cfgBad * 4 + bit01 b.wrIgnored * 2 + bit01 (b.en && !d)

/-- The stack's interface is trained: start-up has passed its training step, and the stack has not been lost since. -/
def State.trained (s : State) (k : Nat) : Bool := s.memoryOn k

/-- MC_STS (Table 13.5). SCRUB_BEHIND is a matter of time, which the model leaves out. -/
def State.mcSts (s : State) (k : Nat) : Nat :=
  let b := s.block (blkMc k)
  bit01 (0 < s.poisonedUnits k) * 16 + bit01 b.wrIgnored * 4 + bit01 (s.trained k) * 2 + bit01 (b.en && s.trained k)

/-- FPORT_STS (Table 11.6). -/
def State.fportSts (s : State) (p : Nat) : Nat :=
  let f := s.fport p
  f.laneLock % 16 * 2 ^ 16 + bit01 (s.block (blkFport p)).wrIgnored * 2 ^ 7 + bit01 f.peerMismatch * 2 ^ 6 + f.state.code

/-- A core of the slot waits on a stream operation of the opcode (Table 9.7). -/
def State.slotWaits (s : State) (k opc : Nat) : Bool :=
  (List.range 6).any (fun p =>
    match (s.ctx (6 * k + p) .crown).fS with
    | some f => f.blocked && opcodeOf .stream f.op.word == opc
    | none => false)

/-- PIPE_STS (Table 9.7). -/
def State.pipeSts (s : State) (k : Nat) : Nat :=
  let v := s.slot k
  let b := s.block (blkPipe k)
  let vres := ((List.range 4).map (fun t => bit01 ((v.version t).1 ≠ .free) * 2 ^ t)).sum
  v.fwd.length % 128 * 2 ^ 24 + v.bwd.length % 128 * 2 ^ 16 + vres * 2 ^ 8 + bit01 (v.restart ≠ []) * 2 ^ 7 + bit01 (s.slotWaits k 8) * 2 ^ 6 +
    bit01 (s.slotWaits k 9) * 2 ^ 5 + bit01 b.cfgBad * 2 ^ 4 + bit01 (v.versionErr ≠ [] || s.recorded 0x24 (some (blkPipe k))) * 2 ^ 3 +
    bit01 b.wrIgnored * 2 + bit01 b.en

/-- ALMANAC_STS (Table 11.7). DRAIN_LATE reads 1 until its condition has ended and no record of it is queued (R355). -/
def State.almanacSts (s : State) : Nat :=
  let a := s.almanac
  bit01 a.switchRejected * 2 ^ 7 + bit01 (a.drainLate || s.recorded 0x14 none) * 2 ^ 6 + bit01 a.coord * 2 ^ 5 + bit01 a.sealFail * 2 ^ 4 + a.bank2.code * 2 ^ 2

/-- STS of a block. The spec gives HPORT, MPORT and DIE no layout: theirs read as zero. -/
def State.stsWord (s : State) (b : Nat) : BlockKind → Nat
  | .core n => s.coreSts n
  | .mc k => s.mcSts k
  | .fport p => s.fportSts p
  | .pipe k => s.pipeSts k
  | .almanac => s.almanacSts
  | .qsc _ => bit01 (s.block b).wrIgnored * 2 + bit01 (s.block b).en
  | .net _ | .die _ => 0

/-- CTL.EN of a block: PORT_EN is that of a host port (R449). -/
def State.enOf (s : State) (b : Nat) : BlockKind → Bool
  | .net p => if p = .mgt then (s.block b).en else s.portEn p
  | _ => (s.block b).en

/-- CORE_CTXn_STS (Table 5.7). -/
def Context.sts (c : Context) : Nat := c.fault % 256 * 2 ^ 24 + bit01 c.suspHeld * 2 ^ 19 + c.state.code * 2 ^ 16

/-- Words 16 to 31 of a CORE block for Crown, 32 to 47 for Brim (Table 15.12), by the offset in the sixteen. -/
def Context.word (c : Context) : Nat → Nat
  | 0 => c.sts
  | 2 => c.cmdAddrLo.toNat
  | 3 => c.cmdAddrHi.toNat
  | 4 => c.faultAddr.toNat % 2 ^ 32
  | 5 => c.faultAddr.toNat / 2 ^ 32
  | 6 => c.cntM.toNat + c.cntV.toNat * 2 ^ 16
  | 7 => c.cntS.toNat + c.cntC.toNat * 2 ^ 16
  | 8 => c.flags.toNat + c.sstat % 256 * 2 ^ 8 + bit01 c.uflag * 2 ^ 16
  | _ => 0

/-- The context that a CORE word belongs to. -/
def wordCtx (w : Nat) : Ctx := if w < 32 then .crown else .brim

/-- Access class of a word (Tables 15.9, 15.12, 13.6, 18.3); none for a reserved word. -/
def wordAccess (k : BlockKind) (w : Nat) : Option Access :=
  match w with
  | 0 => some (match k with | .core _ | .mc _ => .rwg | _ => .rw)
  | 1 => some .rwd
  | 2 => some .ro
  | 3 => match k with | .mc _ => some .rw | .die _ => some .ro | _ => none
  | 4 | 5 => some .rw
  | _ =>
    match k with
    | .core _ =>
      if w < 16 || 48 ≤ w then none
      else match w % 16 with
        | 1 => some .wo
        | 2 | 3 => some .rw
        | 0 | 4 | 5 | 6 | 7 | 8 => some .ro
        | _ => none
    | _ => none

/-- Powered off in Vigil mode (R356). -/
def BlockKind.off : BlockKind → Bool
  | .core _ | .qsc _ | .pipe _ | .fport _ | .almanac => true
  | _ => false

/-- A word of a block (R348); reserved words read as zero. -/
def State.wordOf (s : State) (b w : Nat) (k : BlockKind) : Nat :=
  let v := s.block b
  match w with
  | 0 => bit01 (s.enOf b k)
  | 1 => v.cfg
  | 2 => s.stsWord b k
  | 3 => match k with
    | .mc m => let e := Table.read (0, 0) m s.mcErr; e.1 * 2 ^ 16 + e.2
    | .die d => s.dieErr d
    | _ => 0
  | 4 => bit01 v.guardOpen
  | 5 => v.guardRefused * 2 ^ 16 + v.wrIgn
  | _ => match k with
    | .core n => if 16 ≤ w && w < 48 then (s.ctx n (wordCtx w)).word (w % 16) else 0
    | _ => 0

/-- Read a word: its status and value (R342, R347, R356). -/
def State.readWord (s : State) (b w : Nat) : Dst × Nat :=
  match blockKind s.part b with
  | none => (.noObject, 0)
  | some k =>
    if s.vigil && k.off then (.ok, 0)
    else if wordAccess k w = some .wo then (.writeOnly, 0)
    else (.ok, s.wordOf b w k)

/-! ### Writes -/

/-- A rejected configuration write (R353). -/
def State.rejectCfg (s : State) (b : Nat) : State × Dst :=
  (s.modBlock b (fun v => { v with wrIgnored := true, wrIgn := satAdd 16 v.wrIgn 1 }), .ignored)

/-- An accepted configuration write clears WR_IGNORED (R354). -/
def State.acceptCfg (s : State) (b : Nat) : State := s.modBlock b (fun v => { v with wrIgnored := false })

/-- May the block's configuration be written now: CTL.EN is 0, and both contexts of a core are EMPTY (R109, R353). -/
def State.cfgFree (s : State) (b : Nat) (k : BlockKind) : Bool :=
  !s.enOf b k && (match k with | .core n => (s.ctx n .crown).state = .empty && (s.ctx n .brim).state = .empty | _ => true)

/-- The CFG value that is stored, and whether a field was clamped (Tables 4.3, 5.3, 13.4). -/
def cfgStored (k : BlockKind) (v : Nat) : Nat × Bool :=
  match k with
  | .core _ =>
    let m := bitsOf v 11 7
    let a := bitsOf v 4 7
    (coreCfg (bitsOf v 18 1) (min 96 m) (min 64 a) (bitsOf v 0 4), 96 < m || 64 < a)
  | .mc _ =>
    let h := bitsOf v 1 8
    let c := max 1 (min 168 h)
    (c * 2 + v % 2, c ≠ h)
  | .qsc _ =>
    let x := bitsOf v 0 13
    (min 4096 x, 4096 < x)
  | _ => (0, false)

/-- A write of CFG. -/
def State.writeCfg (s : State) (b v : Nat) (k : BlockKind) : State × Dst :=
  if !s.cfgFree b k then s.rejectCfg b
  else
    let c := cfgStored k v
    ((s.acceptCfg b).modBlock b (fun x => { x with cfg := c.1 }), if c.2 then .clamped else .ok)

/-- Every context of the package is EMPTY. -/
def State.allEmpty (s : State) : Bool := s.loaded.isEmpty

/-- A write of CTL.EN (R109, R199, R279, R320, R451, and MC_CTL in chapter 13). -/
def State.writeEn (s : State) (b : Nat) (en : Bool) : BlockKind → State × Dst
  | .core n => if en then (let r := s.enableCore n; (r.1, if r.2 then .ok else .badValue)) else (s.disableCore n, .ok)
  | .mc _ =>
    if !en && (s.block b).en && !s.allEmpty then s.rejectCfg b
    else (s.modBlock b (fun v => { v with en := en }), .ok)
  | .fport p => (if en then s.fportOn p else s.fportOff p, .ok)
  | .pipe k => if en then (let r := s.slotOn k; (r.1, if r.2 then .ok else .badValue)) else (s.slotDisable k, .ok)
  | .net p => (if p = .mgt then s.modBlock b (fun v => { v with en := en }) else s.writePortEn p en, .ok)
  | .die _ | .almanac | .qsc _ => (s.modBlock b (fun v => { v with en := en }), .ok)

/-- A context command by its code (Table 5.8). -/
def cmdOf : Nat → Option CtxCmd
  | 1 => some .load | 2 => some .save | 3 => some .saveFull | 4 => some .halt | 5 => some .resume | 6 => some .clear
  | _ => none

/-- A write of a CORE word of a context (Table 15.12). A command of code 0 or 7 is ignored and sets WR_IGNORED (R120). -/
def State.writeCtxWord (s : State) (n w v : Nat) : State :=
  let x := wordCtx w
  match w % 16 with
  | 1 => match cmdOf (v % 8) with
    | some k => s.ctxCommand n x k (bitsOf v 8 6)
    | none => if s.up then s.cmdIgnored n else s
  | 2 => s.modCtx n x (fun c => { c with cmdAddrLo := BitVec.ofNat 32 v })
  | 3 => s.modCtx n x (fun c => { c with cmdAddrHi := BitVec.ofNat 16 v })
  | _ => s

/-- A write that the guard has let through, by the word's class (R337, R348, R353, R355). -/
def State.writeClass (s : State) (b w v : Nat) (k : BlockKind) : State × Dst :=
  match wordAccess k w with
  | none => (s, .ok)
  | some .ro => (s, .readOnly)
  | some .rwd => s.writeCfg b v k
  | some _ =>
    if w = 0 then s.writeEn b (v % 2 = 1) k
    else if w = 5 then (s.modBlock b (fun x => { x with guardRefused := 0, wrIgn := 0 }), .ok)
    else match k with
      | .mc m => ({ s with mcErr := Table.erase m s.mcErr }, .ok)
      | .core n => (s.writeCtxWord n w v, .ok)
      | _ => (s, .ok)

/-- Words that are also objects of 0x1000 to 0x7FFF: SLOT_EN, PORT_EN and ALMANAC_STS (R348). A write by either name is one that both guards
cover. -/
def alsoObject : BlockKind → Nat → Bool
  | .pipe _, w => w = 0
  | .net p, w => p ≠ .mgt && w = 0
  | .almanac, w => w = 2
  | _, _ => false

/-- Write a whole word of a block, by whatever path (R349 to R356). -/
def State.writeWord (s : State) (b w v : Nat) : State × Dst :=
  match blockKind s.part b with
  | none => (s, .noObject)
  | some k =>
    if s.vigil && k.off then (s, .poweredOff)
    else if w = 4 then (s.modBlock b (fun x => { x with guardOpen := guardAfter x.guardOpen v }), .ok)
    else if wordAccess k w = some .rwg then
      let g := s.blkGuard b
      if g.2 then g.1.writeClass b w v k else (g.1, .guarded)
    else ((if alsoObject k w then s.pkgTouch else s).blkTouch b).writeClass b w v k

/-- Registers answer: the package runs, or is in Vigil mode. -/
def State.windowOn (s : State) : Bool := s.boot.state == .ready || s.boot.state == .vigil

/-- A write of WRCNT, of any value (Table 15.11). -/
def execWrcntWrite (block : Nat) (value : Word) (s : State) : Host.Outcome State Fault Refusal :=
  if (blockKind s.part block).isSome then
    .next (s.unlessMulti (.wrcntWrite block value) (if s.windowOn then (s.writeWord block 5 value.toNat).1 else s)) else .next s

/-- A write of MC_ERR, of any value, clears both its counts (Table 13.6). -/
def execMcErrWrite (stack : Nat) (value : Word) (s : State) : Host.Outcome State Fault Refusal :=
  if stack < Config.stackCount s.part then
    .next (s.unlessMulti (.mcErrWrite stack value) (if s.windowOn then (s.writeWord (blkMc stack) 3 value.toNat).1 else s))
  else .next s

/-- A write of a block's GUARD or of PKG_GUARD (R351). -/
def execGuardWrite (g : GuardId) (value : Word) (s : State) : Host.Outcome State Fault Refusal :=
  match g with
  | .block b =>
    if (blockKind s.part b).isSome then
      .next (s.unlessMulti (.guardWrite g value) (if s.windowOn then (s.writeWord b 4 value.toNat).1 else s))
    else .next s
  | .pkg => .next (s.unlessMulti (.guardWrite g value) (s.setProfiles (fun p => { p with guardOpen := guardAfter p.guardOpen value.toNat })))

end Sys2Proof.Machine
end

