-- ==== Sys2Proof/Machine/Values.lean ====
section
/-! DEFINITION. What every object of the dictionary reads as (chapter 15): values that live in other fields of the state, byte layouts of
telemetry objects, the wear ledger (Table 19.8) and the attestation report (Table 19.2). -/

namespace Sys2Proof.Machine

/-! ### Identity (R321, R346, R393) -/

/-- MAC_BASE: fused, universally administered and unicast (R321); first transmitted octet in [47:40]. -/
def macBase : Nat :=
  (Config.fusedByte (okey 0x1010 1) 0 &&& 0xFC).toNat * 2 ^ 40 + beNat ((List.range 5).map (fun i => Config.fusedByte (okey 0x1010 1) (i + 1)))

/-- The MAC address in use on a host port. -/
def State.macAddr (s : State) (p : Nat) : Nat :=
  let o := s.obj (0x1100 + p) 3
  if o ≠ 0 then o else (macBase + p) % 2 ^ 48

def State.mgtMac (s : State) : Nat := if s.boot.mgtMac ≠ 0 then s.boot.mgtMac else (macBase + 2) % 2 ^ 48

def State.dieRev (s : State) (d : Nat) : Nat := if d < Config.dies s.part then s.boot.revs.getD d 0xFFFF else 0xFFFF

/-- DIE_FEATURES of a revision (Table 17.5). -/
def revFeatures (rev : Nat) : Nat := if rev = 0x0100 then 1 else if rev = 0x0101 then 3 else if rev = 0x0200 then 15 else 0

def text (s : String) : List Byte := s.toList.map (fun c => BitVec.ofNat 8 c.toNat)

def orderCode : Part → List Byte
  | .tp4 => text "IXS-TP4-1152"
  | .tp2 => text "IXS-TP2-576"

def partCode : Part → Nat
  | .tp4 => 0 | .tp2 => 1

/-- A fused string of an open length up to a maximum. -/
def fusedString (key most : Nat) : List Byte :=
  (List.range (1 + leNat [Config.fusedByte key most, Config.fusedByte key (most + 1)] % most)).map (Config.fusedByte key)

/-- BOOT_STATE (Table 17.7); it leaves READY while a warm reset runs (R384). -/
def BootState.code : BootState → Nat
  | .rom => 0 | .verify => 1 | .release => 2 | .negotiate => 3 | .train => 4 | .selftest => 5 | .ready => 6 | .vigil => 7 | .dieTest => 8
def State.bootCode (s : State) : Nat := if s.boot.warm then 0 else s.boot.state.code

/-- SELFTEST_RESULT (Table 17.7). -/
def State.selftestResult (s : State) : List Byte :=
  let t := s.boot.state = .dieTest && s.boot.testDie = 0
  leBytes 12 (if t then s.boot.testCore else s.boot.coreFail) ++
  (if t then leBytes 48 s.boot.testEngine
    else leBytes 48 ((List.range 96).map (fun n => Table.read 0 n s.boot.engineFail % 16 * 16 ^ n)).sum) ++
  leBytes 4 (if t then s.boot.testPass else 0) ++ leBytes 4 (if t then s.boot.testStack else 0) ++ leBytes 4 0

/-! ### Security (chapter 19) -/

def Lifecycle.code : Lifecycle → Nat
  | .manufacture => 0 | .vendor => 1 | .owned => 2 | .leased => 3 | .refurbish => 4 | .retired => 5

/-- The hash of a key (R419), zero where there is none. -/
def keyHash (modulus : Nat) : List Byte := if modulus = 0 then List.replicate 32 0 else sha256 (beBytes 384 modulus)

def State.randomBytes (n : Nat) : List Byte := (List.range 32).map (Config.randomByte n)

/-- Bytes of a fixed width, missing ones zero. -/
def fixed (n : Nat) (bs : List Byte) : List Byte := (bs ++ List.replicate n 0).take n

def State.keyTags (s : State) : List Byte := (List.range 64).flatMap (fun k => fixed 16 (s.keySlot k).tag)

/-! ### The device's certificates (R424, RFC 5280) -/

/-- A DER element: its tag, its length in the short or the long form, its content. -/
def der (tag : Byte) (c : List Byte) : List Byte :=
  tag :: ((if c.length < 128 then leBytes 1 c.length else if c.length < 256 then 0x81 :: leBytes 1 c.length else 0x82 :: beBytes 2 c.length) ++ c)

/-- SubjectPublicKeyInfo of an RSA key with public exponent 65,537. -/
def spki (modulus : Nat) : List Byte :=
  der 0x30 (der 0x30 [0x06, 0x09, 0x2A, 0x86, 0x48, 0x86, 0xF7, 0x0D, 0x01, 0x01, 0x01, 0x05, 0x00] ++
    der 0x03 (0 :: der 0x30 (der 0x02 (0 :: beBytes 384 modulus) ++ der 0x02 [1, 0, 1])))

/-- A part of a certificate that the spec does not give. -/
def certPart (k i : Nat) : List Byte := (Config.certPart k i).take 512

/-- What a certificate's signature covers: the subject, as far as it is known, and its key stand between open parts. -/
def tbs (k : Nat) (subject : List Byte) (modulus : Nat) : List Byte := der 0x30 (certPart k 0 ++ subject ++ spki modulus ++ certPart k 1)

/-- A certificate, signed. -/
def cert (k : Nat) (body sig : List Byte) : List Byte := der 0x30 (body ++ certPart k 2 ++ der 0x03 (0 :: sig))

/-- DEVICE_CERT: the device CA certifies the DIK, in the name of SERIAL (log entry 4). -/
def deviceCert : List Byte := cert 0 (tbs 0 serial Config.dikModulus) (certPart 0 4)

/-- DEK_CERT: the DIK certifies the DEK. -/
def dekCert : List Byte :=
  let body := tbs 1 [] Config.dekModulus
  cert 1 body (rsaSign Config.dikModulus Config.dikPrivate body (fixed 32 (certPart 1 3)))

/-- JORTO_CTR of a key slot: that of slot 0 is kept in the package store (R431). -/
def State.jortoCtr (s : State) (k : Nat) : Nat := if k = 0 then s.security.slot0Ctr else (s.keySlot k).ctr

/-- The copy of the ledger that a start takes, and whether none qualifies: then it restarts (R435). -/
def Security.chooseLedger (z : Security) : Ledger × Bool :=
  let ok (c : LedgerCopy) : Bool := c.valid && z.epochFuses ≤ c.l.seq / 65536
  match ok z.ledgerA, ok z.ledgerB with
  | true, true => (if z.ledgerA.l.seq < z.ledgerB.l.seq then z.ledgerB.l else z.ledgerA.l, false)
  | true, false => (z.ledgerA.l, false)
  | false, true => (z.ledgerB.l, false)
  | false, false => ({ seq := z.epochFuses * 65536, restarted := true }, true)

/-- The last committed ledger, the restarted one before its first commit. -/
def Security.lastCommit (z : Security) : Ledger := z.chooseLedger.1

/-- The 1,024 bytes of a ledger (Table 19.8). -/
def Ledger.bytes (l : Ledger) : List Byte :=
  let u64 (v : Nat) := leBytes 8 (min v Config.satMax)
  let u32 (v : Nat) := leBytes 4 (min v (2 ^ 32 - 1))
  u64 l.seq ++ u64 l.poweredS ++ u64 (l.energyNano / 10 ^ 9) ++ u32 l.powerCycles ++ u32 l.uncleanStops ++ u32 l.thermalCycles ++
    u32 l.vigilEntries ++ u32 l.ufRecords ++ u32 l.erases ++ u32 l.debugUnlocks ++ u32 l.lcCount ++ leBytes 1 l.tjPeak ++ leBytes 1 l.tsPeak ++
    leBytes 2 (bit01 l.restarted + 2 * bit01 l.dieTestRun) ++ leBytes 4 0 ++
    (List.range 8).flatMap (fun i => u64 (Table.read 0 i l.tempBins / 1000)) ++ u64 l.fabricBytes ++ List.replicate 24 0 ++
    (List.range 24).flatMap (fun i => u64 (Table.read 0 i l.stackCe)) ++ (List.range 32).flatMap (fun i => u64 (Table.read 0 i l.linkCe)) ++
    (List.range 2).flatMap (fun i => u64 (Table.read 0 i l.hostCe)) ++ List.replicate 400 0

/-- The erase under way: the first of the queue. -/
def State.erasing (s : State) : Option EraseJob := s.security.eraseQueue.head?

/-- ERASE_STS (Table 19.10). -/
def State.eraseSts (s : State) : Nat :=
  (match s.erasing with
    | some j => j.slot % 256 + 2 ^ 8
    | none => 0) + bit01 s.security.erasePendingFound * 2 ^ 9

/-- The last report that the warden has ready for a requester (R425); before the first, zeros. -/
def State.reportOf (s : State) (r : Requester) : List Byte :=
  match s.security.reports.find? (fun a => a.req == r && a.ready) with
  | some a => a.bytes
  | none => List.replicate 2688 0

/-! ### Power (chapter 16) -/

/-- F32 of num / den. -/
def f32Bytes (num den : Nat) : List Byte := leBytes 4 (fp32.round false num den 0).bits

/-- PWR_STS (Table 16.6). -/
def State.pwrSts (s : State) : Nat :=
  let p := s.power
  let a := s.allowed
  bit01 p.capUnmet * 2 ^ 7 + bit01 (0 < p.aCap && p.aCap = a) * 2 ^ 6 + bit01 (0 < p.aTh && p.aTh = a) * 2 ^ 5 +
    bit01 (0 < s.obj 0x2400 2 && s.obj 0x2400 2 = a) * 2 ^ 4 + bit01 (s.group.state = .active && a < p.groupLevel) * 2 ^ 3 +
    bit01 s.atLimit * 2 ^ 2 + bit01 p.changing * 2 + bit01 p.locked

/-! ### Group and slots (chapters 9 to 12) -/

def GroupState.code : GroupState → Nat
  | .none => 0 | .forming => 1 | .active => 2 | .stalled => 3 | .rejected => 4

/-- GROUP_STS (Table 10.2). -/
def Group.sts (g : Group) : Nat := g.reason % 256 * 2 ^ 24 + bit01 g.partition * 2 ^ 5 + bit01 g.inDoubt * 2 ^ 4 + g.state.code

/-- LS_EXP: the live exponent of a group, LS_INIT_EXP without one (Table 8.3). -/
def State.lsExp (s : State) : Nat := patternOf 32 s.lossNow

/-- A noise ring entry with the zeros that fill its place (Table 10.7). -/
def NoiseEntry.bytes (e : NoiseEntry) : List Byte :=
  fixed 4160 (leBytes 4 e.step ++ leBytes 1 e.outcome ++ leBytes 1 e.att ++ leBytes 1 (patternOf 8 e.l) ++ leBytes 1 0 ++ leBytes 4 e.d ++
    leBytes 2 e.layers.length ++ List.replicate 50 0 ++
    e.layers.flatMap (fun l => leBytes 1 l.layer ++ leBytes 1 (bit01 l.factor + 2 * bit01 l.nonfin) ++ leBytes 2 l.slices ++
      leBytes 4 l.s1.toNat ++ leBytes 4 l.s2.toNat ++ leBytes 4 0))

def State.noiseRing (s : State) (k : Nat) : List Byte :=
  (List.range 16).flatMap (fun i =>
    match s.noise.find? (fun (e : Nat × NoiseEntry) => e.1 == 16 * k + i) with
    | some e => e.2.bytes
    | none => List.replicate 4160 0)

/-! ### Numbers -/

/-- A number that the state holds elsewhere than among the stored objects and totals. -/
def State.numberOf (s : State) (r : Requester) (i sub : Nat) : Option Nat :=
  if i = 0x1000 then (if sub = 3 then some (partCode s.part) else if sub = 5 then some s.boot.effective else none)
  else if i = 0x1001 then some (s.dieRev (sub - 1))
  else if i = 0x1003 then
    (if sub = 1 then some s.bootCode else if sub = 2 then some s.boot.timeMs
      else if sub = 3 then some (s.boot.cause % 4 + s.boot.testSampled % 4 * 4)
      else if sub = 5 then some s.boot.features else if sub = 6 then some (s.obj 0x1003 6 ||| 1) else none)
  else if i = 0x1004 then some (if sub - 1 < Config.dies s.part then revFeatures (s.dieRev (sub - 1)) else 0)
  else if i = 0x1010 then some macBase
  else if i = 0x2500 && sub = 17 && s.part = .tp2 then some 1500000
  else if i = 0x1100 || i = 0x1101 then
    (if sub = 4 then some (s.macAddr (i - 0x1100))
      else if sub = 10 then
        let p : NetPort := if i = 0x1100 then .hostA else .hostB
        some ((match s.link p with | .disabled => 0 | .down => 1 | .up => 2) + s.portRate p * 2 ^ 8)
      else none)
  else if i = 0x1110 then (if sub = 4 then some s.mgtMac else none)
  else if i = 0x1120 then (if sub = 4 then some s.group.stepLimit else none)
  else if i = 0x2000 then
    let p := s.profiles
    (if sub = 1 then some p.active else if sub = 2 then some p.override else if sub = 3 then some 0 else if sub = 4 then some p.next
      else if sub = 5 then
        some (((List.range 4).map (fun n => bit01 (p.get n).copy.isSome * 2 ^ n)).sum +
          bit01 (p.defaultsLoaded || s.recorded 0x16 none) * 2 ^ 4 + bit01 p.saving.isSome * 2 ^ 5)
      else if sub = 6 then some s.boot.profileSel else if sub = 8 then some p.guardRefused
      else if sub = 15 then some (bit01 p.guardOpen) else none)
  else if 0x3280 ≤ i && i < 0x3290 then
    (if sub = 7 then some (s.slot (i - 0x3280)).fwdMax else if sub = 8 then some (s.slot (i - 0x3280)).bwdMax else none)
  else if 0x3300 ≤ i && i < 0x3318 then (if sub = 3 then some (s.poisonedUnits (i - 0x3300)) else none)
  else if i = 0x3400 then
    (if sub = 1 then some s.pwrSts else if sub = 2 then some s.running else if sub = 3 then some s.allowed
      else if sub = 4 then some (if s.group.state = .active then s.power.groupLevel else 0)
      else if sub = 5 then some s.power.epoch
      else if sub = 6 then some (fp32.round false s.power.pkgPower.1 (1000 * s.power.pkgPower.2) 0).bits
      else if sub = 10 then some (min Config.satMax (s.power.energyNano / 10 ^ 9)) else none)
  else if i = 0x3540 then (if sub = 4 then some (bit01 s.auditFrozen) else none)
  else if i = 0x4000 then
    (if sub = 3 then some s.errView.length else if 4 ≤ sub && sub ≤ 7 then some (s.lostTotal (sub - 4))
      else if sub = 8 then some s.errors.seqNext else none)
  else if i = 0x5000 then (if sub = 1 then some s.security.lifecycle.code else if sub = 3 then some s.security.lcCount else none)
  else if i = 0x5020 then
    (if sub = 4 then some (bit01 s.security.auth.isSome + 2 * bit01 (s.security.auth = some r)) else none)
  else if i = 0x5100 then
    (if sub = 1 then some s.security.fwSts else if sub = 5 then some s.security.fwMinSvn else none)
  else if i = 0x5200 then (if sub = 3 then some s.eraseSts else if sub = 4 then some s.slotMap else none)
  else if i = 0x5380 then (if sub = 3 then some s.security.debugScope else none)
  else if i = 0x5400 then (if sub = 2 then some s.security.lastCommit.seq else if sub = 4 then some s.security.epochFuses else none)
  else if i = 0x6000 then (if sub = 6 then some s.boot.node else none)
  else if i = 0x6100 then
    (if sub = 2 then some s.almanac.shadowEd else if sub = 4 then some s.almanac.curEd
      else if sub = 5 then some (if s.almanac.bank2 = .previous then s.almanac.secondEd else 0)
      else if sub = 6 then some (if s.vigil then 0 else s.almanacSts) else none)
  else if i = 0x7000 then
    let g := s.group
    (if sub = 6 then some g.sts else if sub = 11 then some g.version else if sub = 12 then some g.exchStep
      else if sub = 13 then some (Table.read 0 g.exchStep g.atts)
      else if sub = 14 then some (g.lastStep * 2 ^ 32 + g.lastAtt % 256 * 2 ^ 8 + g.lastKind % 256)
      else if sub = 15 then some g.inDoubtStep else none)
  else if 0x7100 ≤ i && i < 0x7110 then (if sub = 1 then some (bit01 (!s.vigil && s.slotEn (i - 0x7100))) else none)
  else if i = 0x7300 then (if sub = 1 then some s.lsExp else if sub = 6 then some s.group.clean else none)
  else if i = 0x7400 then (if sub = 32 then some s.group.noiseHead else none)
  else if 0x7700 ≤ i && i < 0x7710 then
    let v := s.slot (i - 0x7700)
    (if sub = 2 then some (v.declReason * 2 ^ 24) else if sub = 3 then some v.footprint else if sub = 4 then some v.quota else none)
  else none

/-! ### Byte strings -/

/-- A byte string that the state holds elsewhere than among the stored objects. -/
def State.bytesOf (s : State) (r : Requester) (i sub : Nat) : Option (List Byte) :=
  let u64s (l : List Nat) := l.flatMap (leBytes 8)
  if i = 0x1000 then some (if sub = 1 then text "Ixmer" else if sub = 2 then orderCode s.part else serial)
  else if i = 0x1003 then some s.selftestResult
  else if i = 0x2000 then some ((List.range 4).flatMap (fun n => leBytes 4 (s.profiles.get n).saves))
  else if i = 0x3400 then
    (if sub = 7 then some ((List.range (7 * Config.dies s.part)).flatMap (fun k => f32Bytes (s.power.railPower.getD k 0) 1000))
      else if sub = 8 then some (f32Bytes s.power.tj 1 ++ f32Bytes s.power.ts 1)
      else some ((List.range (Config.junctionSensors s.part + Config.stackCount s.part)).flatMap (fun k => f32Bytes (s.power.temps.getD k 0) 1)))
  else if 0x3500 ≤ i && i < 0x3520 then
    let f := s.fport (i - 0x3500)
    some (u64s (if sub = 1 then f.flitsSent else if sub = 2 then f.creditsBack else f.flitsRecvd))
  else if i = 0x4000 then
    some (if sub = 1 then s.errView.flatMap errBytes else u64s s.errors.captured)
  else if 0x4010 ≤ i && i < 0x4014 then
    some (if sub = 1 then (s.errQueue (i - 0x4010)).flatMap errBytes else u64s (s.lostShares (i - 0x4010)))
  else if i = 0x5000 then
    (if sub = 4 then some (keyHash s.security.owner) else if sub = 5 then some (keyHash s.security.nextOwner)
      else some (fixed 32 s.security.lessee))
  else if i = 0x5010 then some (if sub = 1 then deviceCert else if sub = 2 then dekCert else fusedString (okey i sub) 255)
  else if i = 0x5020 then some (State.randomBytes s.security.challengeNo)
  else if i = 0x5100 then some (if sub = 3 then s.security.fwVersions else leBytes 2 s.security.fusedSvnW ++ leBytes 2 s.security.fusedSvnD)
  else if i = 0x5200 then some (if sub = 5 then s.keyTags else (List.range 64).flatMap (fun k => leBytes 4 (s.jortoCtr k)))
  else if i = 0x5300 then some (s.reportOf r)
  else if i = 0x5380 then some (State.randomBytes s.security.debugChallengeNo)
  else if i = 0x5400 then some s.security.lastCommit.bytes
  else if i = 0x6100 then some ((Table.readList routeReset 0 65536 s.almanac.shadowTable).flatMap (fun (h : Half) => leBytes 2 h.toNat))
  else if 0x6200 ≤ i && i < 0x6220 then
    let p := i - 0x6200
    some (if sub = 10 then (List.range 8).flatMap (fun v => leBytes 1 (s.vcDepth p v))
      else if sub = 11 then (s.fport p).depthMax.flatMap (leBytes 1) else u64s (s.fport p).stall)
  else if i = 0x7400 then some (s.noiseRing (sub - 1))
  else if i = 0x7500 then some s.watchBytes
  else if 0x7700 ≤ i && i < 0x7710 then some (planBits (s.slot (i - 0x7700)).plan)
  else none

/-! ### A whole value -/

/-- The value of an object that is no command, as its bytes. A total that its table gives no other source is a total of the state; a
read-only number with a default is fixed. -/
def State.valueOf (s : State) (r : Requester) (row : ORow) (i sub : Nat) : List Byte :=
  match row.typ with
  | .octets | .string =>
    match (if row.acc = .ro || i = 0x6100 || i = 0x7500 then s.bytesOf r i sub else none) with
    | some bs => bs
    | none => s.oct i sub
  | _ =>
    leBytes row.size (match s.numberOf r i sub with
      | some v => v
      | none => if row.acc = .ro then (if row.dflt ≠ 0 then row.dflt else s.tot i sub) else s.obj i sub)

/-- Fields that clear when they are read (Tables 9.8, 11.8). -/
def State.clearOnRead (s : State) (i sub : Nat) : State :=
  if 0x3280 ≤ i && i < 0x3290 && sub = 7 then s.modSlot (i - 0x3280) (fun v => { v with fwdMax := 0 })
  else if 0x3280 ≤ i && i < 0x3290 && sub = 8 then s.modSlot (i - 0x3280) (fun v => { v with bwdMax := 0 })
  else if 0x6200 ≤ i && i < 0x6220 && sub = 11 then s.setFport (i - 0x6200) { s.fport (i - 0x6200) with depthMax := List.replicate 8 0 }
  else s

/-- Read an object (R335, R337, R341, R342, R347): the state after it, the status and the value. -/
def State.readObj (s : State) (r : Requester) (i sub : Nat) : State × Dst × List Byte :=
  if 0x8000 ≤ i then
    let w := s.readWord (i - 0x8000) sub
    (s, w.1, if w.1 = .ok then leBytes 4 w.2 else [])
  else if i < 0x1000 || !indexExists s.part i then (s, .noObject, [])
  else if sub = 0 then (s, .ok, leBytes 1 (highestSub s.part i))
  else match findRow s.part i sub with
    | none => (s, .noSub, [])
    | some row => if row.acc = .wo then (s, .writeOnly, []) else (s.clearOnRead i sub, .ok, s.valueOf r row i sub)

/-! ### The attestation report (R425, Table 19.2) -/

/-- A key goes into a rising list of keys. -/
def insertKey (k : Nat) : List Nat → List Nat
  | [] => [k]
  | j :: l => if k < j then k :: j :: l else if k = j then j :: l else j :: insertKey k l

/-- Keys of the objects that the profiles keep, in ascending index and subindex order. -/
def storedKeys (p : Part) : List Nat :=
  ((dictionary.filter (fun r => r.stored = 1)).flatMap (fun r =>
    (List.range (r.count p)).flatMap (fun n => (List.range (r.subHi + 1 - r.sub)).map (fun m => okey (r.index + n) (r.sub + m))))).foldl
      (fun l k => insertKey k l) []

/-- PROFILE_DIGEST. -/
def State.profileDigest (s : State) (r : Requester) : List Byte :=
  sha256 ((storedKeys s.part).flatMap (fun k =>
    match findRow s.part (k / 256) (k % 256) with
    | some row => s.valueOf r row (k / 256) (k % 256)
    | none => []))

/-- Bytes 0x000 to 0x8FF of a report. -/
def State.reportHead (s : State) (r : Requester) (nonce : List Byte) : List Byte :=
  let z := s.security
  leBytes 2 1 ++ leBytes 1 (partCode s.part) ++ leBytes 1 z.lifecycle.code ++ leBytes 2 s.boot.effective ++ leBytes 1 z.debugScope ++
    leBytes 1 s.bootCode ++ serial ++ fixed 32 nonce ++ leBytes 8 s.boot.features ++ keyHash z.owner ++
    (if z.lifecycle = .leased then fixed 32 z.lessee else List.replicate 32 0) ++ leBytes 4 z.lcCount ++ leBytes 2 z.fusedSvnW ++
    leBytes 2 z.fusedSvnD ++ leBytes 2 z.fwMinSvn ++ leBytes 1 z.fwSts ++ List.replicate 5 0 ++ z.digest 1 ++ z.digest 2 ++
    s.profileDigest r ++ leBytes 8 s.slotMap ++ List.replicate 8 0 ++ s.keyTags ++ z.lastCommit.bytes

/-- The 2,688 bytes of a report: RSASSA-PSS by the device identity key over its first 0x900 bytes, its salt the next random string. -/
def State.report2 (s : State) (r : Requester) (nonce : List Byte) : List Byte :=
  let head := s.reportHead r nonce
  head ++ rsaSign Config.dikModulus Config.dikPrivate head (State.randomBytes s.security.randomNext)

end Sys2Proof.Machine
end

