-- ==== Sys2Proof/Machine/Security.lean ====
section
/-! DEFINITION. The warden's commands (chapter 19): owner authorisation, lifecycle records, tenant keys, crypto-erase, debug tokens, firmware
update, attestation and the commits of the wear ledger. -/

namespace Sys2Proof.Machine

def State.setSec (s : State) (f : Security → Security) : State := { s with security := f s.security }

/-- The AUTH_FAIL record and its kin: DE records of the package as a whole (Table 19.9). -/
def State.secRecord (s : State) (cls : Nat) : State := s.capture cls {}

/-! ### Answers that come when the work is done (R331, R429, R432) -/

/-- A Dorub response goes out; the package keeps it for its requester, one of the last 32 (R331). -/
def State.reply (s : State) (a : DorubRsp) : State :=
  let ks := s.kept.filter (fun k => k.req ≠ a.req) ++ [a]
  { s with kept := ks.drop (ks.length - 32) }.emit (.dorub a)

/-- The answer of a write whose response waits, with the status that it ended in. For a write that is an entry of a MULTI_WRITE, service 3,
the MULTI_WRITE can go on. -/
def State.finish (s : State) (ans : Option DorubRsp) (d : Dst) : State :=
  match ans with
  | none => s
  | some a =>
    if a.service = 3 then { s with multi := s.multi.map (fun m => { m with ready := true }) }
    else s.reply { a with status := d.code }

/-! ### Authority (R427, Table 19.3) -/

/-- What a command that only an owner authorises in OWNED and LEASED, and that RETIRED refuses, lacks; `early` is the answer of MANUFACTURE,
VENDOR and REFURBISH. -/
def State.ownerOnly (s : State) (r : Requester) (early : Option Dst) : Option Dst :=
  match s.security.lifecycle with
  | .manufacture | .vendor | .refurbish => early
  | .owned | .leased => if s.security.auth = some r then none else some .auth
  | .retired => some .badValue

/-! ### Owner authorisation (R426) -/

/-- The bytes that an AUTH_OPEN signature covers. -/
def State.authMessage (s : State) : List Byte := State.randomBytes s.security.challengeNo ++ serial ++ leBytes 4 s.security.lcCount

def State.newChallenge (s : State) : State :=
  s.setSec (fun z => { z with challengeNo := z.randomNext, randomNext := z.randomNext + 1 })

def State.authOpen (s : State) (r : Requester) (sig : List Byte) : State × Dst :=
  let ok := s.security.lifecycle.guardedByOwner && rsaVerify s.security.owner s.authMessage sig
  let t := s.newChallenge
  if ok then (t.setSec (fun z => { z with auth := some r }), .ok) else (t.secRecord 0x42, .auth)

/-- AUTH_CLOSE from the requester that holds the authorisation. -/
def State.authClose (s : State) (r : Requester) : State :=
  if s.security.auth = some r then s.setSec (fun z => { z with auth := none }) else s

/-! ### Crypto-erase (R432, R433) -/

/-- Key slots that a job erases. -/
def EraseJob.keys (j : EraseJob) : List Nat := if j.slot = 255 then (List.range 64).drop 1 else [j.slot]

/-- Stage slots whose Crown contexts use one of the keys give up their queue entries (step 5), with the credits returned while the fabric is at
work; in Vigil mode the units alone are freed. -/
def State.dropQueues (s : State) (ks : List Nat) : State :=
  ((List.range (Config.slots s.part)).filter (fun k => (s.positions k).any (fun p =>
      (s.ctx (6 * k + p) .crown).state ≠ .empty && ks.contains (s.ctx (6 * k + p) .crown).key))).foldl
    (fun s k => if s.vigil then s.modSlot k (fun v => { v with fwd := [], bwd := [] })
      else (s.freeEnded k .forward (fun _ => true)).freeEnded k .backward (fun _ => true)) s

/-- The bytes of the parts in a queue's head area, which is part of a shared buffer, are zeroed (R198, R432). -/
def QEntry.zeroed (e : QEntry) : QEntry := { e with parts := e.parts.map (fun p => { p with bytes := p.bytes.map (fun _ => 0) }) }

/-- Contexts of the keys are abandoned and cleared (step 2). -/
def State.dropContexts (s : State) (ks : List Nat) : State :=
  (s.loaded.filter (fun e => ks.contains e.2.key)).foldl (fun s e =>
    let n := e.1 / 2
    let x : Ctx := if e.1 % 2 = 0 then .crown else .brim
    (((s.dropMessages n x).clearStorage n x).setCtx n x { cmdAddrLo := e.2.cmdAddrLo, cmdAddrHi := e.2.cmdAddrHi }).leaveBrim n x) s

/-- Steps 1 to 4: the slots are ERASING, their contexts, sessions and keys are gone. -/
def State.startErase (s : State) (j : EraseJob) : State :=
  let ks := j.keys
  let s := if s.fabricOn || s.vigil then s.dropQueues ks else s
  let s := if s.vigil then s else s.dropContexts ks
  let s := s.closeSessions (fun ss => ks.contains ss.key) true
  let s := ks.foldl (fun s k => s.setKeySlot k { s.keySlot k with gen := 0, secret := [], useJorto := false, erasing := true }) s
  s.setSec (fun z => { z with erasePending := true })

/-- Zero all HBM and every shared buffer, the queue-head areas with them, under key slot 0. -/
def State.zeroAll (s : State) : State :=
  let s := s.fillUnits 0 (Config.hbmBytes s.part / 64) (s.keySlot 0).gen
  { s with mem := Table.drop (sharedBase 0) (sharedBase (Config.dies s.part)) s.mem,
           slots := s.slots.map (fun (e : Nat × Slot) => (e.1, { e.2 with fwd := e.2.fwd.map QEntry.zeroed, bwd := e.2.bwd.map QEntry.zeroed })) }

/-- Zero the units of the windows that were registered for a slot. -/
def State.zeroWindows (s : State) (ws : List (Nat × Nat)) : State :=
  ws.foldl (fun s w => s.fillUnits (w.1 / 64) (ceilDiv w.2 64) (s.keySlot 0).gen) s

/-- Steps 5 and 6. -/
def State.endErase (s : State) (j : EraseJob) : State :=
  let s := if j.slot = 255 || (s.keySlot j.slot).tooMany then s.zeroAll else s.zeroWindows (s.keySlot j.slot).ranges
  let s := j.keys.foldl (fun s k => s.setKeySlot k {}) s
  let s := s.setSec (fun z => { z with erasePending := false })
  (s.modLedger (fun l => { l with erases := satAdd 32 l.erases 1 })).commitLedger

/-- ERASE as one requester writes it: the value and the authority (R427, R432). -/
def State.eraseCheck (s : State) (r : Requester) (v : Nat) : Option Dst :=
  if !s.authorised r then some .auth else if (1 ≤ v && v ≤ 63) || v = 255 then none else some .badValue

/-- An erase starts, or waits behind the one under way. -/
def State.queueErase (s : State) (j : EraseJob) : State :=
  let t := s.setSec (fun z => { z with eraseQueue := z.eraseQueue ++ [j] })
  if s.security.eraseQueue = [] then t.startErase j else t

/-! ### Lifecycle records (R428, R429) -/

def recKind (b : List Byte) : Nat := leNat (slice b 0 1)
def recOwner (b : List Byte) : Nat := beNat (slice b 0x40 384)
def recLessee (b : List Byte) : List Byte := slice b 0x20 32
def allZero (b : List Byte) : Bool := b.all (· == 0)

/-- The key that signs a record of the kind from the state; none where Table 19.6 has no such transition. -/
def Security.signer (z : Security) (kind : Nat) : Option Nat :=
  match kind, z.lifecycle with
  | 1, .vendor => some (Config.ixmerModulus 3)
  | 1, .owned | 1, .leased | 2, .owned | 3, .leased | 4, .owned | 6, .owned => some z.owner
  | 5, .refurbish | 6, .refurbish => some z.nextOwner
  | _, _ => none

/-- KIND of the record that blows a revocation fuse, and the key that it names (R420; log entry 138). -/
def revokeKind : Nat := 7 + Config.revocationRecord 0 % 249
def revokedKey (b : List Byte) : Nat := leNat (slice b (1 + Config.revocationRecord 1 % 511) 1) % 3

/-- A firmware key that is not revoked signed the bytes (R420). -/
def Security.firmwareSigned (z : Security) (msg sig : List Byte) : Bool :=
  (List.range 3).any (fun k => !z.revoked.contains k && rsaVerify (Config.ixmerModulus k) msg sig)

/-- Does the record need a crypto-erase of every tenant slot? -/
def recErases (kind : Nat) : Bool := kind = 3 || kind = 4 || kind = 6

/-- Has the record the signature that its kind needs? None where its kind is not allowed from the state: Table 19.6 has no such transition, or,
for a revocation, the state is neither VENDOR nor REFURBISH. -/
def Security.signedBy (z : Security) (b : List Byte) : Option Bool :=
  if recKind b = revokeKind then
    (if z.lifecycle = .vendor || z.lifecycle = .refurbish then some (z.firmwareSigned (slice b 0 0x200) (slice b 0x200 384)) else none)
  else (z.signer (recKind b)).map (fun m => rsaVerify m (slice b 0 0x200) (slice b 0x200 384))

/-- Does the object refuse the record, and with which status? Signature, LC_COUNT and SERIAL come before the conditions. -/
def State.recRefused (s : State) (b : List Byte) : Option Dst :=
  let z := s.security
  let kind := recKind b
  match z.signedBy b with
  | none => some .badValue
  | some good =>
    if !good || leNat (slice b 4 4) ≠ z.lcCount || slice b 8 16 ≠ serial then some .auth
    else if kind = 1 && recOwner b = 0 then some .badValue
    else if kind = 1 && z.lifecycle = .owned && s.slotMap / 2 ≠ 0 then some .badValue
    else if kind = 2 && allZero (recLessee b) then some .badValue
    else none

/-- The effects of an accepted record on what the store holds, by its kind and the state before, in the order of Table 19.6; every record raises
LC_COUNT. -/
def StoreVals.applyRec (v : StoreVals) (b : List Byte) (was : Lifecycle) : StoreVals :=
  let v := { v with lcCount := v.lcCount + 1 }
  match recKind b with
  | 1 => if was = .vendor then { v with owner := recOwner b, lifecycle := .owned } else { v with owner := recOwner b, slot0Secret := [] }
  | 2 => { v with lessee := recLessee b, lifecycle := .leased }
  | 3 => { v with lessee := [], lifecycle := .owned }
  | 4 => { v with nextOwner := if recOwner b = 0 then v.owner else recOwner b, slot0Secret := [], lifecycle := .refurbish }
  | 5 => { v with owner := v.nextOwner, lifecycle := .owned }
  | _ => v

/-- The effects of an accepted record on the store and the fuses, the crypto-erase apart: RETIRE blows its fuse, and a revocation that of the key
(R420, R428). -/
def Security.applyRec (z : Security) (b : List Byte) : Security :=
  let w := z.keep (fun v => v.applyRec b z.lifecycle)
  if recKind b = 6 then { w with retiredFuse := true }
  else if recKind b = revokeKind then { w with revoked := (w.revoked ++ [revokedKey b]).eraseDups }
  else w

/-- An accepted record takes effect: LC_COUNT rises, the authorisation closes, NEXT_PROFILE follows, the ledger is committed (R360, R426). -/
def State.applyRec (s : State) (b : List Byte) : State :=
  let kind := recKind b
  let s := s.setSec (fun z => { z.applyRec b with auth := none })
  let s := if kind = 4 then s.setProfiles (fun p => { p with next := 3 })
    else if kind = 5 then s.setProfiles (fun p => { p with next := 255 }) else s
  s.commitLedger

/-- Is a record being executed? The next waits for its end (R331, R429). -/
def State.recBusy (s : State) : Bool :=
  s.security.eraseQueue.any (fun j => match j.what with | .record _ => true | _ => false)

/-- Judge a record and execute it, or give the erase it begins with. -/
def State.judgeRec (s : State) (b : List Byte) (r : Requester) (ans : Option DorubRsp) : State × Option EraseJob :=
  match s.recRefused b with
  | some d => ((if d = .auth then s.secRecord 0x42 else s).finish ans d, none)
  | none =>
    if recErases (recKind b) then (s, some ⟨255, .record b, r, ans⟩)
    else ((s.applyRec b).finish ans .ok, none)

/-- A write of LC_RECORD. -/
def State.lcRecord (s : State) (r : Requester) (b : List Byte) (ans : Option DorubRsp) : State :=
  if s.recBusy then s.setSec (fun z => { z with eraseQueue := z.eraseQueue ++ [⟨0, .record b, r, ans⟩] })
  else
    let t := s.judgeRec b r ans
    match t.2 with
    | none => t.1
    | some j => t.1.queueErase j

/-! ### Debug (R434) -/

/-- Does the object refuse the token, and with which status? -/
def State.tokenRefused (s : State) (r : Requester) (b : List Byte) : Option Dst :=
  match s.ownerOnly r none with
  | some d => some d
  | none =>
    if slice b 0 16 ≠ serial || slice b 16 32 ≠ State.randomBytes s.security.debugChallengeNo ||
        !rsaVerify (Config.ixmerModulus 4) (slice b 0 64) (slice b 64 384) then some .auth
    else if (s.security.lifecycle = .owned || s.security.lifecycle = .leased) && bitOf (leNat (slice b 48 4)) 1 then some .badValue
    else none

/-- An accepted token takes effect once every tenant slot is erased. -/
def State.unlock (s : State) (scope : Nat) : State :=
  let s := s.setSec (fun z => { z with debugScope := if z.lifecycle = .manufacture then 3 else scope % 256 })
  ((s.modLedger (fun l => { l with debugUnlocks := satAdd 32 l.debugUnlocks 1 })).secRecord 0x46).commitLedger

/-- A write of DEBUG_TOKEN; the challenge is renewed at each. -/
def State.debugToken (s : State) (r : Requester) (b : List Byte) (ans : Option DorubRsp) : State :=
  let d := s.tokenRefused r b
  let s := s.setSec (fun z => { z with debugChallengeNo := z.randomNext, randomNext := z.randomNext + 1 })
  match d with
  | some d => (s.secRecord 0x42).finish ans d
  | none => s.queueErase ⟨255, .token (leNat (slice b 48 4)), r, ans⟩

/-! ### The end of an erase -/

/-- What the erase was part of takes effect, and its answer goes out. -/
def State.jobDone (s : State) (j : EraseJob) : State :=
  (match j.what with
    | .itself => s
    | .record b => s.applyRec b
    | .token scope => s.unlock scope).finish j.answer .ok

/-- Take up the jobs that wait: records are judged now, and the first erase starts. -/
def State.takeJobs (s : State) : List EraseJob → State
  | [] => s.setSec (fun z => { z with eraseQueue := [] })
  | j :: js =>
    match j.slot, j.what with
    | 0, .record b =>
      let t := s.judgeRec b j.req j.answer
      (match t.2 with
        | none => t.1.takeJobs js
        | some k => (t.1.setSec (fun z => { z with eraseQueue := k :: js })).startErase k)
    | _, _ => (s.setSec (fun z => { z with eraseQueue := j :: js })).startErase j

/-- An erase of every tenant slot completes any slot erase that waits (R433). -/
def State.completeWaiting (s : State) (js : List EraseJob) : State × List EraseJob :=
  let (done, rest) := js.partition (fun j => j.what = .itself && j.slot ≠ 255)
  (done.foldl (fun s j => s.finish j.answer .ok) s, rest)

/-- The erase under way completes. -/
def State.eraseDone (s : State) : State :=
  match s.security.eraseQueue with
  | [] => s
  | j :: js =>
    let s := (s.endErase j).jobDone j
    let t := if j.slot = 255 then s.completeWaiting js else (s, js)
    t.1.takeJobs t.2

/-! ### Tenant keys (R430, R431) -/

/-- Does R430 refuse the load of the record? The plaintext of its ciphertext where not. -/
def State.keyPlain (s : State) (b : List Byte) : Option (List Byte) :=
  let k := leNat (slice b 0 1)
  let v := s.keySlot k
  if k = 0 || 63 < k || v.gen ≠ 0 || v.listed || v.erasing || s.profiles.active = 3 then none
  else match rsaDecrypt Config.dekModulus Config.dekPrivate (serial ++ leBytes 1 k) (slice b 0x20 384) with
    | none => none
    | some p => if p.length = 96 && slice p 0 32 ≠ slice p 32 32 then some p else none

def State.keyLoad (s : State) (r : Requester) (b : List Byte) : State × Dst :=
  match s.ownerOnly r (some .badValue) with
  | some d => (s, d)
  | none => match s.keyPlain b with
    | none => (s.secRecord 0x44, .badValue)
    | some p =>
      let k := leNat (slice b 0 1)
      let uses := bitOf (leNat (slice b 1 1)) 0
      let s := s.setKeySlot k { gen := s.security.genNext, listed := true, tag := slice b 0x10 16,
                                secret := if uses then slice p 64 32 else [], useJorto := uses }
      (s.setSec (fun z => { z with genNext := z.genNext + 1, genKeys := Table.write [] z.genNext (slice p 0 64) z.genKeys }), .ok)

def State.slot0Secret (s : State) (r : Requester) (b : List Byte) : State × Dst :=
  if s.authorised r then (s.setSec (fun z => z.keep (fun v => { v with slot0Secret := b })), .ok) else (s, .auth)

/-! ### Firmware (R421 to R423) -/

/-- The slot that is not booted, into which chunks go. -/
def Security.staged (z : Security) : Nat := 1 - z.fwBooted % 2

def State.fwChunk (s : State) (r : Requester) (n : Nat) (b : List Byte) : State × Dst :=
  match s.ownerOnly r none with
  | some d => (s, d)
  | none => (s.setSec (fun z => { z.setFw z.staged ((z.fw z.staged).put n b) with stagedOk := false }), .ok)

/-- FW_CMD (Table 19.10). With no warden image running there is no running image whose SVN could be committed. -/
def State.fwCmd (s : State) (r : Requester) (v : Nat) : State × Dst :=
  match s.ownerOnly r none with
  | some d => (s, d)
  | none =>
    let z := s.security
    match v with
    | 1 => (s.setSec (fun z => { z with stagedOk := z.imageOk z.staged 1 && z.imageOk z.staged 2 }), .ok)
    | 2 => if z.stagedOk then (s.setSec (fun z => { z with activated := true }), .ok) else (s, .badValue)
    | 3 =>
      if z.bootRomOnly then (s, .ok)
      else (s.setSec (fun z => { z with fusedSvnW := max z.fusedSvnW (z.imageVersion z.fwBooted 1).2,
                                        fusedSvnD := max z.fusedSvnD (z.imageVersion z.fwBooted 2).2 }), .ok)
    | _ => (s, .badValue)

/-- FW_MIN_SVN only rises, and not above the lower SVN of the running images (R422). -/
def State.fwMinSvn (s : State) (r : Requester) (v : Nat) : State × Dst :=
  match s.ownerOnly r none with
  | some d => (s, d)
  | none =>
    let z := s.security
    if v < z.fwMinSvn || min (z.imageVersion z.fwBooted 1).2 (z.imageVersion z.fwBooted 2).2 < v then (s, .badValue)
    else (s.setSec (fun z => { z with fwMinSvn := v }), .ok)

/-! ### Attestation (R425) -/

/-- A write of ATT_NONCE: the report is built from the state at this instant, and is ready when ATT_REPORT_READY says so. -/
def State.attNonce (s : State) (r : Requester) (nonce : List Byte) : State :=
  let a : Report2 := ⟨r, nonce, false, s.report2 r nonce⟩
  s.setSec (fun z => { z with reports := z.reports.filter (fun x => !(x.req == r && !x.ready)) ++ [a], randomNext := z.randomNext + 1 })

/-- Of the reports that can be read, one for each requester, the oldest beyond the last 32 requesters go. -/
def lastReports (rs : List Report2) : List Report2 :=
  let ready := rs.filter (·.ready)
  let old := ready.take (ready.length - 32)
  rs.filter (fun x => !old.contains x)

/-- A report is ready: it takes the place of its requester's last one (R425). -/
def State.reportReady (s : State) (r : Requester) : State :=
  match s.security.reports.find? (fun a => a.req == r && !a.ready) with
  | none => s
  | some a => s.setSec (fun z => { z with reports := lastReports (z.reports.filter (fun x => x.req ≠ r) ++ [{ a with ready := true }]) })

/-! ### Manufacture and the ledger (R428, R434, R435) -/

/-- Manufacturing test blows the VENDOR fuse, and debug is locked from then on; private instructions select BYPASS (R395, R434). -/
def State.toVendor (s : State) : State :=
  if s.security.lifecycle = .manufacture then
    { s with taps := s.taps.map (fun (e : Nat × Tap) => (e.1, e.2.unprivate)) }.setSec (fun z => { z with vendorFuse := true, debugScope := 0 })
  else s

/-- The warden runs: from its firmware's start on, and not under stand-alone test. -/
def State.wardenOn (s : State) : Bool := s.boot.state ≠ .rom && s.boot.state ≠ .dieTest

/-! ### The commands as one requester writes them -/

def execAuthOpen (r : Requester) (sig : List Byte) (s : State) : Host.Outcome State Fault Refusal :=
  whenServed (.authOpen r sig) r 0x5020 s (s.pkgTouch.authOpen r sig).1
def execAuthClose (r : Requester) (s : State) : Host.Outcome State Fault Refusal := whenServed (.authClose r) r 0x5020 s (s.pkgTouch.authClose r)
/-- AUTH_IDLE has passed without a request from its requester. -/
def execAuthIdle (s : State) : Host.Outcome State Fault Refusal := .next (s.setSec (fun z => { z with auth := none }))

/-- A lifecycle record of a kind: the row's name is that of Table 19.6, and a record of another length or kind is not this command. -/
def lifecycleCmd (c : Instr) (kind : Nat) (r : Requester) (b : List Byte) (s : State) : Host.Outcome State Fault Refusal :=
  whenServed c r 0x5000 s (if b.length = 896 && recKind b = kind then s.pkgTouch.lcRecord r b none else s)

def execTransfer (r : Requester) (rec : List Byte) (s : State) : Host.Outcome State Fault Refusal := lifecycleCmd (.transfer r rec) 1 r rec s
def execLease (r : Requester) (rec : List Byte) (s : State) : Host.Outcome State Fault Refusal := lifecycleCmd (.lease r rec) 2 r rec s
def execEndLease (r : Requester) (rec : List Byte) (s : State) : Host.Outcome State Fault Refusal := lifecycleCmd (.endLease r rec) 3 r rec s
def execRefurbish (r : Requester) (rec : List Byte) (s : State) : Host.Outcome State Fault Refusal := lifecycleCmd (.refurbish r rec) 4 r rec s
def execFinish (r : Requester) (rec : List Byte) (s : State) : Host.Outcome State Fault Refusal := lifecycleCmd (.finish r rec) 5 r rec s
def execRetireRecord (r : Requester) (rec : List Byte) (s : State) : Host.Outcome State Fault Refusal := lifecycleCmd (.retireRecord r rec) 6 r rec s

def execKeyLoad (r : Requester) (rec : List Byte) (s : State) : Host.Outcome State Fault Refusal :=
  whenServed (.keyLoad r rec) r 0x5200 s (if rec.length = 416 then (s.pkgTouch.keyLoad r rec).1 else s)

/-- ERASE: refused at once, or its answer comes at completion (R432). -/
def State.eraseCmd (s : State) (r : Requester) (v : Nat) (ans : Option DorubRsp) : State × Option Dst :=
  match s.eraseCheck r v with
  | some d => (s, some d)
  | none => (s.queueErase ⟨v, .itself, r, ans⟩, none)

def execErase (r : Requester) (value : Nat) (s : State) : Host.Outcome State Fault Refusal :=
  whenServed (.erase r value) r 0x5200 s (s.pkgTouch.eraseCmd r value none).1
def execSlot0Secret (r : Requester) (bytes : List Byte) (s : State) : Host.Outcome State Fault Refusal :=
  whenServed (.slot0Secret r bytes) r 0x5200 s (if bytes.length = 32 then (s.pkgTouch.slot0Secret r bytes).1 else s)
def execDebugToken (r : Requester) (bytes : List Byte) (s : State) : Host.Outcome State Fault Refusal :=
  whenServed (.debugToken r bytes) r 0x5380 s (if bytes.length = 448 then s.pkgTouch.debugToken r bytes none else s)

def execFwVerify (r : Requester) (s : State) : Host.Outcome State Fault Refusal := whenServed (.fwVerify r) r 0x5100 s (s.pkgTouch.fwCmd r 1).1
def execFwActivate (r : Requester) (s : State) : Host.Outcome State Fault Refusal := whenServed (.fwActivate r) r 0x5100 s (s.pkgTouch.fwCmd r 2).1
def execCommitSvn (r : Requester) (s : State) : Host.Outcome State Fault Refusal := whenServed (.commitSvn r) r 0x5100 s (s.pkgTouch.fwCmd r 3).1
def execFwMinSvn (r : Requester) (value : Nat) (s : State) : Host.Outcome State Fault Refusal :=
  whenServed (.fwMinSvn r value) r 0x5100 s (s.pkgTouch.fwMinSvn r value).1
def execFwChunk (r : Requester) (n : Nat) (bytes : List Byte) (s : State) : Host.Outcome State Fault Refusal :=
  whenServed (.fwChunk r n bytes) r 0x5101 s (if 1 ≤ n && n ≤ 64 && bytes.length = chunkBytes then (s.pkgTouch.fwChunk r n bytes).1 else s)

def execAttNonce (r : Requester) (nonce : List Byte) (s : State) : Host.Outcome State Fault Refusal :=
  whenServed (.attNonce r nonce) r 0x5300 s (if nonce.length = 32 then s.pkgTouch.attNonce r nonce else s)
def execAttReportReady (r : Requester) (s : State) : Host.Outcome State Fault Refusal := .next (s.reportReady r)

def execManufacturingTest (s : State) : Host.Outcome State Fault Refusal := .next s.toVendor
/-- The end of a minute of die 0's counter (R435). -/
def execLedgerCommit (s : State) : Host.Outcome State Fault Refusal := .next (if s.wardenOn then s.commitLedger else s)

end Sys2Proof.Machine
end

