-- ==== Sys2Proof/Machine/Boot.lean ====
section
/-! DEFINITION. The resets (R383 to R385, Table 17.1) and the start-up sequence (R386 to R393, R449), with the stand-alone die test (R399). -/

namespace Sys2Proof.Machine

/-! ### Cold reset -/

/-- The warden's state at a cold reset: a new key in slot 0 and none in the others, challenges renewed, nothing open or staged; the stored
part is kept (Table 17.1, R309, R423, R426, R434). -/
def Security.cold (z : Security) : Security :=
  { z with keys := [(0, { gen := z.genNext, listed := true })], genNext := z.genNext + 1, auth := none, challengeNo := z.randomNext,
           debugChallengeNo := z.randomNext + 1, randomNext := z.randomNext + 2, stagedOk := false,
           fwActive := if z.activated then z.staged else z.fwActive, activated := false, eraseQueue := [], erasePendingFound := false,
           debugScope := if z.lifecycle = .manufacture then 3 else 0, reports := [], lastCommitTick := 0, flitsPassed := 0, bootRomOnly := false }

/-- A cold reset: the cold column of Table 17.1. A pending NEXT_PROFILE is discarded, and a save in progress leaves the older contents. -/
def State.coldReset (s : State) (powerOn clean : Bool) : State :=
  let s := if clean && s.wardenOn then s.commitLedger else s
  { State.reset with
    part := s.part, pending := s.pending, mem := s.mem.filter (fun c => c.1 < coreBase 0), unitKey := s.unitKey, fills := s.fills,
    unitCode := s.unitCode, unspecCount := s.unspecCount, net := s.net, security := s.security.cold,
    profiles := { s.profiles with next := 255, saving := none, guardOpen := false, guardRefused := 0, defaultsLoaded := false },
    boot := { revs := s.boot.revs, tapSel := s.boot.tapSel, cause := if powerOn then 0 else 1, unclean := s.boot.unclean || (powerOn && !clean) },
    taps := s.taps.map (fun (e : Nat × Tap) => (e.1, { e.2.unprivate with held := false, driving := false })) }

/-- PORST_N goes low, or the power comes on. A stop is clean when PORST_N goes low while the 6.0 V rail is in range (R436). -/
def execColdReset (powerOn railInRange : Bool) (s : State) : Host.Outcome State Fault Refusal := .next (s.coldReset powerOn railInRange)

/-! ### Start-up -/

/-- A step of start-up that runs only where none before it has failed (R392). -/
def State.andThen (s : State) (f : State → State) : State := if s.vigil then s else f s

def State.setBoot (s : State) (f : Boot → Boot) : State := { s with boot := f s.boot }

/-- May TESTMODE 0b10 start the stand-alone die test (R399)? -/
def State.testPermitted (s : State) : Bool := s.part = .tp4 && !s.security.lifecycle.guardedByOwner

/-- LEDGER_FAULT where no copy of the ledger qualified (R435). -/
def State.ledgerFault (s : State) (bad : Bool) : State := if bad then s.secRecord 0x45 else s

/-- The ledger that the start takes, with the power cycle and the unclean stop that it counts, and LEDGER_FAULT where it restarts (R435, R436);
ERASE_PENDING is found (Table 19.10). -/
def State.startLedger (s : State) : State :=
  let r := s.security.chooseLedger
  let l := r.1
  let l := { l with powerCycles := if s.boot.cause = 0 then satAdd 32 l.powerCycles 1 else l.powerCycles,
                    uncleanStops := if s.boot.unclean then satAdd 32 l.uncleanStops 1 else l.uncleanStops, lcCount := s.security.lcCount }
  ((s.setSec (fun z => { z with ledger := l, erasePendingFound := z.erasePending })).setBoot (fun b => { b with unclean := false })).ledgerFault r.2

/-- Steps 1 and 2 (R442): VAUX of die 0, straps and die 0's PLLs. No stack is trained yet. -/
def State.startStraps (s : State) (i : StartInputs) : State :=
  let s := s.setBoot (fun b => { b with profileSel := i.profileSel % 4, jtagSel := i.jtagSel % 4, testSampled := i.testMode % 4 })
  let s := { s with untrained := List.range (Config.stackCount s.part), power := { s.power with rails := [(0, 3)], fabricLanes := [] } }
  if i.pllOk then s else s.loseRef

/-- Step 3 (R421): the warden image that passes first, and the die-controller image of its slot. -/
def State.startFirmware (s : State) : State :=
  let s := s.setBoot (fun b => { b with state := .verify })
  let act := s.security.fwActive % 2
  let s := s.setSec (fun z => { z with fwBooted := act })
  let s := if s.security.imageOk act 1 then s
    else
      let s := s.secRecord 0x41
      if s.security.imageOk (1 - act) 1 then s.setSec (fun z => { z with fwBooted := 1 - act })
      else (s.setSec (fun z => { z with bootRomOnly := true })).capture 0x40 {}
  s.andThen (fun s =>
    if s.security.imageOk s.security.fwBooted 2 then s else (s.setSec (fun z => { z with bootRomOnly := true })).capture 0x40 {})

/-- The DIE and MPORT blocks run with the firmware; the MC blocks once the stacks are trained. -/
def earlyEn (b : Nat) : Bool := 0xB2 ≤ b && b < 0xC4
def trainedEn (b : Nat) : Bool := earlyEn b || (0x60 ≤ b && b < 0x80)

/-- Step 9: a host port comes up as its objects and its partner have it (R317, R390). -/
def State.startLinks (s : State) (a b : Bool) : State :=
  (s.setLink .hostA (s.portUpState .hostA a)).setLink .hostB (s.portUpState .hostB b)

/-- Step 4 (R332, R358, R388, R389): the profile, the node ID and what else takes effect at a reset. -/
def State.startProfile (s : State) (i : StartInputs) : State :=
  let s := s.loadProfile (s.profiles.select true i.profileSel)
  let node := if s.obj 0x6000 4 = 1 then s.obj 0x6000 5 else i.nodeBalls % 65536
  let dim := s.obj 0x6000 1
  let s := s.setBoot (fun b => { b with node := node, dim := dim, nodeBad := !inTorus dim node, plcaNode := s.obj 0x1110 1,
                                        mgtMac := s.obj 0x1110 3 })
  let s := (s.resetBlocks earlyEn).clearWatch
  let s := if s.boot.nodeBad then s.capture 0x19 {} else s
  if s.boot.testSampled = 0 then s else s.capture 0x1A {}

/-- The identity check of R387. -/
def identityOk (p : Part) (i : StartInputs) : Bool :=
  let ids := i.dieIds.take (Config.dies p)
  ids.eraseDups.length = ids.length && ids.all (· < Config.dies p) && i.pkgType.all (· == p)

/-- Table 17.6: a revision that it does not list pairs with nothing. -/
def pairable (a b : Nat) : Bool :=
  let known (r : Nat) : Bool := r = 0x0100 || r = 0x0101 || r = 0x0200
  known a && known b && !(a = 0x0100 && b = 0x0200) && !(a = 0x0200 && b = 0x0100)

/-- The first pair of dies that cannot be paired, in ascending order of die numbers (R393). -/
def State.badPair (s : State) : Option (Nat × Nat) :=
  let n := Config.dies s.part
  ((List.range n).flatMap (fun a => ((List.range n).filter (a < ·)).map (fun b => (a, b)))).find?
    (fun e => !pairable (s.dieRev e.1) (s.dieRev e.2))

/-- Step 6: identity and feature negotiation, both the warden's on die 0 (R387, R393). -/
def State.startNegotiate (s : State) (i : StartInputs) : State :=
  let s := s.setBoot (fun b => { b with state := .negotiate })
  if !identityOk s.part i then s.capture 0x34 {}
  else match s.badPair with
    | some (a, b) => s.capture 0x35 { die := 0, source := blkDie 0, syndrome := leBytes 1 a ++ leBytes 1 b }
    | none =>
      let revs := (List.range (Config.dies s.part)).map s.dieRev
      let feats := revs.foldl (fun f r => f &&& revFeatures r) ((s.obj 0x1003 6) ||| 1)
      s.setBoot (fun b => { b with effective := revs.foldl min 0xFFFF, features := feats })

/-- Step 7, with the erase that a start owes (R433). -/
def State.startTrain (s : State) (i : StartInputs) : State :=
  let s := s.setBoot (fun b => { b with state := .train })
  if !i.ddiOk then s.capture 0x36 {}
  else
    let bad := (List.range (Config.stackCount s.part)).filter (fun k => !i.stackOk.getD k true)
    let s := { s with untrained := bad }
    match bad with
    | k :: _ => s.capture 0x30 { die := k / 6, source := blkMc k }
    | [] =>
      let s := s.resetBlocks trainedEn
      if s.security.erasePending then s.zeroAll.setSec (fun z => { z with erasePending := false }) else s

/-- Step 8: every core that fails is recorded. -/
def State.startSelftest (s : State) (i : StartInputs) : State :=
  let fails := i.engineFail.filter (fun e => e.1 < Config.cores s.part && e.2 % 16 ≠ 0)
  let cores := (i.coreFail.filter (· < Config.cores s.part) ++ fails.map (·.1)).eraseDups
  let s := s.setBoot (fun b => { b with state := .selftest, coreFail := (cores.map (fun n => 2 ^ n)).sum,
                                        engineFail := fails.foldl (fun t e => Table.write 0 e.1 (e.2 % 16) t) [] })
  if cores = [] then s else s.capture 0x37 {}

/-- The broadcast of R333. -/
def State.beat (s : State) : State := s.emit (.heartbeat s.boot.node s.security.lifecycle.code s.vigil (s.counter 0))

/-- Step 9 (R257, R449): READY at level 7, unless a cap or ceiling asks for another. -/
def State.startReady (s : State) (i : StartInputs) : State :=
  let s := s.resetBlocks (fun b => keepsEn b && !(s.boot.nodeBad && 0x80 ≤ b && b < 0xA0))
  let s := { s with
    boot := { s.boot with state := .ready, timeMs := i.bootMs % 2 ^ 32 },
    almanac := { cur := .generated s.boot.node s.boot.dim },
    power := { s.power with locked := true, capWatts := s.obj 0x2400 1 },
    fports := (List.range (Config.ports s.part)).map (fun p =>
      (p, if s.boot.nodeBad then { out := [.absent] } else { FPort.fresh {} with out := [.train s.boot.node (p % 8) (p / 8)] })) }
  (s.startLinks i.linkUpA i.linkUpB).beat.retarget

/-- A die is released: its rails are powered (R442). -/
def Power.release (p : Power) (d : Nat) : Power :=
  { p with rails := p.rails ++ ((List.range 7).map (fun k => (d, k))).filter (fun e => !p.rails.contains e), fabricLanes := p.fabricLanes ++ [d] }

/-- The junction readings of a round. -/
def Power.junction (p : Power) (r : List Nat) : Power := { p with tj := r.foldl max 0, temps := r }

/-- Every reading is below 95 °C (R391). -/
def coolRound (r : List Nat) : Bool := r.all (· < 95)

/-- The dies in their turns (R390, R391): each is released at the first round of readings, from that of its turn on, with every reading below
95 °C, and waits where there is none; with no round left the last one stands. The next turn comes when the die has answered. -/
def Power.releaseDies (answered : Nat) : List Nat → List (List Nat) → Power → Power
  | [], _, p => p
  | d :: ds, rounds, p =>
    match rounds.dropWhile (fun r => !coolRound r), rounds.getLast? with
    | r :: rest, _ =>
      let q := (p.junction r).release d
      if d < answered then Power.releaseDies answered ds rest q else q
    | [], some r => p.junction r
    | [], none =>
      let q := p.release d
      if d < answered then Power.releaseDies answered ds [] q else q

/-- Start-up has released every die. -/
def State.allReleased (s : State) : Bool := (List.range (Config.dies s.part)).all (fun d => s.power.rails.contains (d, 0))

/-- Step 5 (R390 to R392, R442): the dies' releases in turn, and their PLLs. Where a die waits for its rails, or does not answer, the sequence
waits. -/
def State.startRelease (s : State) (i : StartInputs) : State :=
  let s := s.setBoot (fun b => { b with state := .release, answered := i.dieIds.length })
  let s := s.setPower (Power.releaseDies i.dieIds.length (List.range (Config.dies s.part)) i.junction)
  if !s.power.rails.contains (0, 0) then s
  else if !i.pllsOk then s.loseRef
  else if s.allReleased then s.setPower (fun p => { p with locked := true }) else s

/-- The cold start from the ROM. Where fewer dies answer than the part has, the sequence stands at RELEASE until DIE_RELEASE_TIMEOUT. -/
def State.coldStart (s : State) (i : StartInputs) : State :=
  let s := (s.startLedger.startStraps i).andThen State.startFirmware
  let s := s.andThen (fun s => s.startProfile i)
  s.andThen (fun s =>
    (s.startRelease i).andThen (fun s =>
    if !s.allReleased || i.dieIds.length < Config.dies s.part then s
    else
      (((s.startNegotiate i).andThen (fun s => s.startTrain i)).andThen (fun s => s.startSelftest i)).andThen (fun s => s.startReady i)))

/-- PORST_N is released. With TESTMODE 0b10 where the test is permitted, DIE_TEST is what happens. -/
def execColdStart (i : StartInputs) (s : State) : Host.Outcome State Fault Refusal :=
  .next (if s.boot.state = .rom && !(i.testMode = 2 && s.testPermitted) then s.coldStart i else s)

/-- Start-up waits for the answer of a die that it has released; a wait for the die's rails does not count (R387, R391). -/
def State.answerDue (s : State) (die : Nat) : Bool :=
  s.boot.state = .release && die < Config.dies s.part && s.power.rails.contains (die, 0) && s.boot.answered ≤ die

/-- A die has not answered its release within 100 ms: the warden, on die 0, finds it (R387). -/
def execDieReleaseTimeout (die : Nat) (s : State) : Host.Outcome State Fault Refusal :=
  .next (if s.answerDue die then s.capture 0x34 { die := 0, source := blkDie 0, syndrome := leBytes 1 die } else s)

/-! ### Stand-alone die test (R399, R400) -/

/-- The boot ROM runs the tests of R399 on the die that JTAG_SEL names, which alone is released, and the ledger records the test. -/
def State.dieTest (s : State) (die : Nat) (i : DieTestInputs) : State :=
  let s := s.startLedger.modLedger (fun l => { l with dieTestRun := true })
  let s := s.setPower (fun p => { p with rails := ((0, 3) :: (List.range 7).map (fun k => (die, k))).eraseDups, fabricLanes := [die] })
  s.commitLedger.setBoot (fun b => { b with state := .dieTest, testSampled := 2, jtagSel := die, testDie := die, testPass := i.passMask % 32,
                                            testCore := i.coreFail % 2 ^ 24, testEngine := i.engineFail % 2 ^ 96,
                                            testStack := i.stackFail % 64 })

def execDieTest (testMode die : Nat) (i : DieTestInputs) (s : State) : Host.Outcome State Fault Refusal :=
  if die < 4 then .next (if s.boot.state = .rom && testMode = 2 && s.testPermitted then s.dieTest die i else s)
  else .next s

/-! ### Warm reset (R384, R385) -/

/-- What a warm reset does at once: the warm column of Table 17.1. Credits that slots hold which are not enabled are revoked, counted (R414). A droop goes on (R374), and the queue maxima stay (R217). PORT_EN is HPORT's
EN, which stays as it stood (R449). -/
def State.warmReset (s : State) : State :=
  let s := s.enabledSlots.foldl (fun s k => s.slotOff k) s
  let s := s.slots.foldl (fun (t : State) (e : Nat × Slot) => t.bump (0x3520 + e.1) 6 (e.2.credits.map (·.free)).sum) s
  let s := s.closeSessions (fun _ => true) false
  let en (b : Nat) : Bool := keepsEn b && (s.block b).en
  let a := s.obj 0x1100 1
  let b := s.obj 0x1101 1
  let s := { s with
    ctxs := [], cores := s.cores.filterMap (fun (e : Nat × CoreSt) => if e.2.stretched then some (e.1, { stretched := true }) else none),
    accs := [], srf := [], rescale := [], mem := s.mem.filter (fun c => c.1 < coreBase 0), coreUc := [],
    slots := s.slots.filterMap (fun (e : Nat × Slot) =>
      if e.2.fwdMax = 0 && e.2.bwdMax = 0 then none else some (e.1, { fwdMax := e.2.fwdMax, bwdMax := e.2.bwdMax })), group := {},
    noise := [], msgTable := [], sent := [], reshards := [],
    almanac := { s.almanac with bank2 := .free, shadowEd := 0, shadowTable := [], coord := false, drainLate := false, sealFail := false,
                                switchRejected := false, queried := [], replies := [], lastRound := none } }
  let s := s.loadProfile (s.profiles.select false 0)
  let s := ((s.setObj 0x1100 1 a).setObj 0x1101 1 b).resetBlocks en
  let s := s.clearWatch.setProfiles (fun p => { p with guardOpen := false, guardRefused := 0 })
  let s := s.setSec (fun z => { z with auth := none, challengeNo := z.randomNext, debugChallengeNo := z.randomNext + 1,
                                       randomNext := z.randomNext + 2 })
  (s.setBoot (fun b => { b with warm := true, cause := 2, mgtMac := s.obj 0x1110 3 })).retarget

/-- A write of RESET_CMD that its guard has let through (R385). -/
def State.resetCmd (s : State) (r : Requester) (v : Nat) : State × Dst :=
  if !s.authorised r then (s, .auth)
  else if v ≠ 1 || s.boot.state ≠ .ready || s.group.inDoubt then (s, .badValue)
  else (s.warmReset, .ok)

def execWarmReset (r : Requester) (s : State) : Host.Outcome State Fault Refusal :=
  whenServed (.warmReset r) r 0x1003 s (s.underGuard (fun s => s.resetCmd r 1)).1

/-- The warm reset ends: BOOT_STATE returns to READY. -/
def execWarmResetDone (s : State) : Host.Outcome State Fault Refusal := .next (s.setBoot (fun b => { b with warm := false }))

/-- HEARTBEAT_PERIOD has passed (R333), in Vigil mode too (Table 18.5). -/
def execHeartbeat (s : State) : Host.Outcome State Fault Refusal :=
  .next (if s.boot.state = .ready || s.vigil then s.beat else s)

end Sys2Proof.Machine
end

