-- ==== Sys2Proof/Machine/Objects.lean ====
section
/-! DEFINITION. Writing an object of the dictionary (R335 to R338, R351 to R356, R451): the access classes, the guards, the owning blocks, and
the objects whose write is a command or whose value lives elsewhere. -/

namespace Sys2Proof.Machine

/-- The owning block of an RWD object (R337). -/
def ownerBlock (i : Nat) : Option Nat :=
  if i = 0x1100 || i = 0x1101 then some (0xB0 + (i - 0x1100))
  else if 0x7100 ≤ i && i < 0x7800 then some (blkPipe (i % 16))
  else none

/-- Is the write one to a block that Vigil mode powers off (R356)? -/
def writtenOff (row : ORow) (i sub : Nat) : Bool :=
  (0x7100 ≤ i && i < 0x7800 && row.acc == .rwd) || (0x7100 ≤ i && i < 0x7110 && sub == 1) || i == 0x6100

/-- A locally administered unicast address, or none (R321). -/
def overrideOk (v : Nat) : Bool := v = 0 || (v < 2 ^ 48 && bitOf v 41 && !bitOf v 40)

/-- Halves of a byte string, from a key upward. -/
def halves : List Byte → List Half
  | a :: b :: bs => BitVec.ofNat 16 (a.toNat + 256 * b.toNat) :: halves bs
  | _ => []

/-- Reserved bytes of an object's records read as zero (R6): the last of the four of each member (Table 10.4), expert and source (Table 12.5). -/
def reserved4 (i sub : Nat) : Bool := (0x7200 ≤ i && i < 0x7210 && sub = 3) || (0x7600 ≤ i && i < 0x7610 && (sub = 2 || sub = 3))
def zero4 (bs : List Byte) : List Byte := bs.zipIdx.map (fun e => if e.2 % 4 = 3 then 0 else e.1)

/-- Store a value: the nearest bound where it lies outside the object's range (R338). -/
def State.store (s : State) (row : ORow) (i sub : Nat) (bs : List Byte) : State × Dst :=
  match row.typ with
  | .octets | .string => (s.setOct i sub (if reserved4 i sub then zero4 bs else bs), .ok)
  | _ =>
    let c := row.clamp (leNat bs)
    let v := if 0x7100 ≤ i && i < 0x7110 && sub = 2 then c.1 % 64 else c.1
    (s.setObj i sub v, if c.2 then .clamped else .ok)

/-- Acceptance of a command that may be refused. -/
def accepted (p : State × Bool) : State × Dst := (p.1, if p.2 then .ok else .badValue)

/-- GROUP_CMD (Table 10.1). -/
def State.groupCmd (s : State) (v : Nat) : State × Dst :=
  if !s.up then (s, .badValue)
  else if v = 1 then accepted s.form
  else if v = 2 then accepted s.dissolve
  else if v = 3 then (s.resolve true, .ok)
  else if v = 4 then (s.resolve false, .ok)
  else (s, .badValue)

/-- ALMANAC_CMD (Table 11.8). -/
def State.almanacCmd (s : State) (v : Nat) : State × Dst :=
  if v = 1 then (let t := s.loadOpen; accepted (t, !t.almanac.switchRejected))
  else if v = 2 then (let t := s.loadSeal; accepted (t, !t.almanac.sealFail))
  else if v = 3 then (let t := s.switchNow; accepted (t, !t.almanac.switchRejected))
  else if v = 4 then (s.startDrain, .ok)
  else if v = 5 then (s.setAlmanac Almanac.freed, .ok)
  else (s, .badValue)

/-- A write that class, guard, length and owning block let through: commands, values that live elsewhere, and the rest. None means that the
answer comes later. -/
def State.putObj (s : State) (r : Requester) (row : ORow) (i sub : Nat) (bs : List Byte) (ans : Option DorubRsp) : State × Option Dst :=
  let v := leNat bs
  let now (p : State × Dst) : State × Option Dst := (p.1, some p.2)
  let ok (t : State) : State × Option Dst := (t, some .ok)
  if i = 0x1003 && sub = 4 then now (s.resetCmd r v)
  else if (i = 0x1100 || i = 0x1101) && sub = 1 then ok (s.writePortEn (if i = 0x1100 then .hostA else .hostB) (v = 1))
  else if i = 0x2000 then
    (if sub = 2 then now (s.profileOverride r v) else if sub = 3 then now (s.profileCmd r v)
      else if sub = 8 then ok (s.setProfiles (fun p => { p with guardRefused := 0 }))
      else ok (s.setProfiles (fun p => { p with guardOpen := guardAfter p.guardOpen v })))
  else if i = 0x2400 && sub = 1 then (let p := s.writeCap v; now (p.1, if p.2 then .clamped else .ok))
  else if i = 0x2400 && sub = 2 then (let p := s.store row i sub bs; now (if p.1.fabricOn then p.1.levels else p.1, p.2))
  else if i = 0x4000 then ok (if sub = 2 then s.errAck v else s.clearLost (sub - 4))
  else if i = 0x5000 then (s.lcRecord r bs ans, none)
  else if i = 0x5020 && sub = 2 then now (s.authOpen r bs)
  else if i = 0x5020 && sub = 3 then ok (s.authClose r)
  else if i = 0x5100 then now (if sub = 2 then s.fwCmd r v else s.fwMinSvn r v)
  else if i = 0x5101 then now (s.fwChunk r sub bs)
  else if i = 0x5200 && sub = 1 then now (s.keyLoad r bs)
  else if i = 0x5200 && sub = 2 then s.eraseCmd r v ans
  else if i = 0x5200 then now (s.slot0Secret r bs)
  else if i = 0x5300 then ok (s.attNonce r bs)
  else if i = 0x5380 then (s.debugToken r bs ans, none)
  else if i = 0x6100 && sub = 1 then now (s.almanacCmd v)
  else if i = 0x6100 && sub = 2 then ok (s.setAlmanac (fun a => { a with shadowEd := v }))
  else if i = 0x6100 && sub = 3 then ok (s.setAlmanac (fun a => { a with shadowTable := Table.entries routeReset 0 ((halves bs).map (· &&& 0x8FFF)) }))
  else if i = 0x7000 && sub = 1 then now (s.groupCmd v)
  else if 0x7100 ≤ i && i < 0x7110 && sub = 1 then
    (if v = 1 then (if s.up then now (accepted (s.slotOn (i - 0x7100))) else (s, some .badValue)) else ok (s.slotDisable (i - 0x7100)))
  else if i = 0x7500 then ok (if s.windowOn then s.writeWatch 0 bs else s)
  else now (s.store row i sub bs)

/-- A configuration write to the owning block of an RWD object: accepted only while its EN is 0 (R353, R354). A value that the object's own
rule refuses is no accepted write. -/
def State.configWrite (s : State) (i : Nat) (refused : Bool) (f : State → State × Option Dst) : State × Option Dst :=
  match ownerBlock i with
  | none => f s
  | some b =>
    match blockKind s.part b with
    | none => f s
    | some k =>
      if !s.cfgFree b k then (let p := s.rejectCfg b; (p.1, some p.2))
      else if refused then (s, some .badValue)
      else f (s.acceptCfg b)

/-- The block of which an object is a register too (R348). -/
def alsoBlock (i sub : Nat) : Option Nat :=
  if (i = 0x1100 || i = 0x1101) && sub = 1 then some (0xB0 + (i - 0x1100))
  else if 0x7100 ≤ i && i < 0x7110 && sub = 1 then some (blkPipe (i - 0x7100))
  else if i = 0x6100 && sub = 6 then some blkAlmanac
  else none

/-- A write of an object that is no RWG one: every guard that covers it is locked (R348, R351). -/
def State.objTouch (s : State) (i sub : Nat) : State :=
  match alsoBlock i sub with
  | some b => s.pkgTouch.blkTouch b
  | none => s.pkgTouch

/-- The value's length is the object's, or within its maximum (Table 15.5). -/
def ORow.fits (row : ORow) (n : Nat) : Bool := if row.varSize then 1 ≤ n && n ≤ row.size else n = row.size

/-- A write by the object's class, the package guard already consumed. -/
def State.writeByClass (s : State) (r : Requester) (row : ORow) (i sub : Nat) (bs : List Byte) (ans : Option DorubRsp) : State × Option Dst :=
  if row.acc = .ro then (s, some .readOnly)
  else if !row.fits bs.length then (s, some .badLength)
  else if row.typ = .bool && 1 < leNat bs then (s, some .badValue)
  else if i = 0x1110 && sub = 3 && !overrideOk (leNat bs) then (s, some .badValue)
  else if row.acc = .rwd then
    s.configWrite i ((i = 0x1100 || i = 0x1101) && sub = 3 && !overrideOk (leNat bs)) (fun s => s.putObj r row i sub bs ans)
  else s.putObj r row i sub bs ans

/-- Write an object (R335, R337, R347, R351 to R356): the state after it and the status, none where the answer comes later. Every write of an
object of 0x1000 to 0x7FFF locks an open package guard, but for a write to a block that Vigil mode has powered off. -/
def State.writeObj (s : State) (r : Requester) (i sub : Nat) (bs : List Byte) (ans : Option DorubRsp) : State × Option Dst :=
  if 0x8000 ≤ i then
    (if (blockKind s.part (i - 0x8000)).isSome && bs.length ≠ 4 then (s, some .badLength)
    else (let p := s.writeWord (i - 0x8000) sub (leNat bs); (p.1, some p.2)))
  else if i < 0x1000 || !indexExists s.part i then (s, some .noObject)
  else if sub = 0 then (s.pkgTouch, some .readOnly)
  else match findRow s.part i sub with
    | none => (s, some .noSub)
    | some row =>
      if s.vigil && writtenOff row i sub then (s, some .poweredOff)
      else if i = 0x2000 && sub = 15 then
        (if bs.length = 4 then s.putObj r row i sub bs ans else (s.pkgTouch, some .badLength))
      else if row.acc = .rwg then
        (let g := s.pkgGuard
          if g.2 then g.1.writeByClass r row i sub bs ans else (g.1, some .guarded))
      else (s.objTouch i sub).writeByClass r row i sub bs ans

/-- A register or object written by the path that the command names (R348, R349): a Jorto session reaches the register window alone. -/
def execRegisterWrite (p : Path) (index sub : Nat) (value : List Byte) (s : State) : Host.Outcome State Fault Refusal :=
  match p with
  | .dorub r => whenServed (.registerWrite p index sub value) r index s (s.writeObj r index sub value none).1
  | .jorto =>
    .next (s.unlessMulti (.registerWrite p index sub value)
      (if s.windowOn && 0x8000 ≤ index && value.length = 4 then (s.writeWord (index - 0x8000) sub (leNat value)).1 else s))

end Sys2Proof.Machine
end

