-- ==== Sys2Proof/Machine/Dorub.lean ====
section
/-! DEFINITION. Dorub (R330, R331, R339 to R344): requests executed one at a time, the responses kept for repeated requests, the ten services, and
a MULTI_WRITE or a WRITE that waits for a core's disable or for an erase. -/

namespace Sys2Proof.Machine

/-- Data bytes of a PDU on a port (R339). -/
def pduMax : NetPort → Nat
  | .mgt => 1480
  | _ => 8180

/-- A response of a service about an object, its status to be filled in. -/
def rsp (r : Requester) (tid service index sub : Nat) : DorubRsp := { req := r, tid := tid, service := service, status := 0, index := index, sub := sub }

/-- The request has been answered, or its answer is still to come (R331). -/
def State.repeated (s : State) (r : Requester) (tid : Nat) : Option State :=
  match s.kept.find? (fun k => k.req == r && k.tid == tid) with
  | some k => some (s.emit (.dorub k))
  | none =>
    if s.security.eraseQueue.any (fun j => match j.answer with | some a => a.req == r && a.tid == tid | none => false) then some s else none

/-! ### Frames and envelopes (R318, R330) -/

/-- MAC addresses that a host port accepts: its own, broadcast, and its IPv6 solicited-node multicast address. -/
def State.ownMac (s : State) (p : NetPort) (mac : Nat) : Bool :=
  mac = s.macAddr (netNo p) || mac = 0xFFFFFFFFFFFF || (s.ipv6 p ≠ 0 && mac = 0x3333FF000000 + s.ipv6 p % 2 ^ 24)

/-- A host port accepts the frame: its length, check sequence, VLAN tag and address are as R318 says, it is no IP fragment, and its UDP checksum
is right or, over IPv4 alone, zero. -/
def State.frameOk (s : State) (p : NetPort) (v6 : Bool) (f : EthFrame) : Bool :=
  f.length ≤ 9022 && f.fcsOk && !f.fragment &&
    (match f.tag with | none => true | some v => v ≠ 0 && v = s.obj (0x1100 + netNo p) 5) &&
    (match f.dst with | none => true | some mac => s.ownMac p mac) &&
    (match f.checksum with | none => !v6 | some ok => ok)

/-- The frame carries a UDP datagram for the port number; one that names none is for the port that its command is for. -/
def forUdp (f : EthFrame) (n : Nat) : Bool := f.udp.getD n = n

/-- A host port takes the frame as a Dorub datagram to its own address; the management segment carries no IP (R318, R319, R330). -/
def State.dorubTakes (s : State) (r : Requester) (f : EthFrame) : Bool :=
  r.port = .mgt || (s.frameOk r.port (!isIpv4 r.addr) f && s.toOwn r.port (!isIpv4 r.addr) f && forUdp f 49711)

/-- A Dorub message arrives in its frame and envelope: a frame that the port does not accept and a message of another PROTO or VER are discarded
and counted. -/
def State.enveloped (s : State) (r : Requester) (e : Envelope) (f : State → State) : State :=
  let s := s.fecIn r.port e.frame
  if !s.dorubPort r.port then s
  else if !s.dorubTakes r e.frame then s.frameDiscard r.port
  else if e.proto ≠ 0x0D0B || e.ver ≠ 1 then s.bump 0x3330 3 1
  else f s

/-- SERVICE values that Table 15.4 does not list (R340). -/
def unknownService (v : Nat) : Bool := v = 0 || 10 < v

/-! ### READ, WRITE and DESCRIBE -/

/-- Bytes that an object reads as, without what a read clears: for the length alone. -/
def State.readSize (s : State) (r : Requester) (index sub : Nat) : Nat := (s.readObj r index sub).2.2.length

def State.dorubRead (s : State) (r : Requester) (tid index sub : Nat) : State :=
  let a := rsp r tid 1 index sub
  if !s.serves index then s.reply { a with status := Dst.noObject.code }
  else if pduMax r.port < s.readSize r index sub then s.reply { a with status := Dst.tooLarge.code }
  else
    let p := s.readObj r index sub
    p.1.reply { a with status := p.2.1.code, data := p.2.2 }

/-- A write to CORE_CTL leaves the core's disable to wait for. -/
def State.awaits (s : State) (i sub : Nat) : Option Nat :=
  if 0x8000 ≤ i && i < 0x8060 && sub = 0 && (s.coreSt (i - 0x8000)).disabling then some (i - 0x8000) else none

/-- A write whose response carries its status, when it has taken effect (R342): a disable of a core is waited for. -/
def State.writeAnswered (s : State) (r : Requester) (a : DorubRsp) (index sub : Nat) (bs : List Byte) : State :=
  if !s.serves index then s.reply { a with status := Dst.noObject.code }
  else
    let p := s.writeObj r index sub bs (some a)
    match p.2 with
    | none => p.1
    | some d =>
      match p.1.awaits index sub with
      | some n => { p.1 with multi := some ⟨r, a.tid, some n, false, 0, 0, [], some { a with status := d.code }⟩ }
      | none => p.1.reply { a with status := d.code }

/-- A value that does not fit one PDU of the path is answered with TOO_LARGE and not written (R339, Table 15.5; DEDUCED, log entry 81). -/
def State.dorubWrite (s : State) (r : Requester) (tid index sub : Nat) (bs : List Byte) : State :=
  let a := rsp r tid 2 index sub
  if pduMax r.port < bs.length then s.reply { a with status := Dst.tooLarge.code } else s.writeAnswered r a index sub bs

/-- TYPE, ACCESS, STORED and SIZE of an object (Table 15.4), or the status that says why not. -/
def State.describe (s : State) (i sub : Nat) : Dst × List Byte :=
  let d (t a st n : Nat) : Dst × List Byte := (.ok, leBytes 1 t ++ leBytes 1 a ++ leBytes 1 st ++ leBytes 1 0 ++ leBytes 4 n)
  if 0x8000 ≤ i then
    match blockKind s.part (i - 0x8000) with
    | none => (.noObject, [])
    | some k => d OType.u32.code ((wordAccess k sub).getD .rw).code 0 4
  else if i < 0x1000 || !indexExists s.part i then (.noObject, [])
  else if sub = 0 then d OType.u8.code 0 0 1
  else match findRow s.part i sub with
    | none => (.noSub, [])
    | some row => d row.typ.code row.acc.code row.stored row.size

def State.dorubDescribe (s : State) (r : Requester) (tid index sub : Nat) : State :=
  let p := if s.serves index then s.describe index sub else (.noObject, [])
  s.reply { rsp r tid 4 index sub with status := p.1.code, data := p.2 }

/-! ### MULTI_WRITE (R343, R353) -/

/-- How many low bytes of VALUE an entry carries: the object's size; none where the object is larger than 8 bytes. -/
def State.entrySize (s : State) (i sub : Nat) : Option Nat :=
  if 0x8000 ≤ i then some 4
  else match findRow s.part i sub with
    | none => some 1
    | some row => if row.size ≤ 8 then some row.size else none

/-- The first status code other than OK of the entries applied. -/
def firstOf (first : Nat) (d : Dst) : Nat := if first = 0 then d.code else first

/-- The response of a MULTI_WRITE. -/
def State.multiEnd (s : State) (r : Requester) (tid applied status : Nat) : State :=
  s.reply { rsp r tid 3 0 0 with status := status, count := applied }

/-- Apply entries in order; the first that fails ends the service, and one that must wait leaves the rest for later. -/
def State.runMulti (s : State) (r : Requester) (tid : Nat) : List MwEntry → Nat → Nat → State
  | [], applied, first => s.multiEnd r tid applied first
  | e :: es, applied, first =>
    if !s.serves e.index then s.multiEnd r tid applied Dst.noObject.code
    else match s.entrySize e.index e.sub with
      | none => s.multiEnd r tid applied Dst.badLength.code
      | some n =>
        let p := s.writeObj r e.index e.sub (leBytes n e.value.toNat) (some (rsp r tid 3 e.index e.sub))
        match p.2 with
        | none => { p.1 with multi := some ⟨r, tid, none, false, applied + 1, first, es, none⟩ }
        | some d =>
          if !d.done then p.1.multiEnd r tid applied d.code
          else match p.1.awaits e.index e.sub with
            | some n => { p.1 with multi := some ⟨r, tid, some n, false, applied + 1, firstOf first d, es, none⟩ }
            | none => p.1.runMulti r tid es (applied + 1) (firstOf first d)

def State.multiWrite (s : State) (r : Requester) (tid : Nat) (es : List MwEntry) : State :=
  if 255 < es.length || pduMax r.port < 12 * es.length then s.multiEnd r tid 0 Dst.tooLarge.code else s.runMulti r tid es 0 0

/-! ### Block transfers (R344) -/

def xferBytes : Nat := 262144

def State.xfer (s : State) (h : Nat) : Option Xfer := s.xfers.find? (fun x => x.handle == h)
def State.dropXfer (s : State) (h : Nat) : State := { s with xfers := s.xfers.filter (fun x => x.handle ≠ h) }
def State.setXfer (s : State) (x : Xfer) : State := { s with xfers := s.xfers.map (fun y => if y.handle = x.handle then x else y) }

/-- Handles are 16-bit numbers from 1 upward, none of them one in use. -/
def State.newHandle (s : State) : Nat :=
  ((List.range 5).map (fun k => (s.xferNext - 1 + k) % 65535 + 1)).find? (fun h => (s.xfer h).isNone) |>.getD 0

/-- A transfer takes one of the four buffers. -/
def State.openXfer (s : State) (a : DorubRsp) (write : Bool) (size : Nat) (buf : Table Byte) : State :=
  if 4 ≤ s.xfers.length then s.reply { a with status := Dst.busy.code }
  else
    let h := s.newHandle
    let s := { s with xfers := s.xfers ++ [(⟨h, write, a.index, a.sub, size, buf, []⟩ : Xfer)], xferNext := h % 65535 + 1 }
    s.reply { a with xfer := h, offset := if write then 0 else size }

def State.blockReadStart (s : State) (r : Requester) (tid index sub : Nat) : State :=
  let a := rsp r tid 5 index sub
  if !s.serves index then s.reply { a with status := Dst.noObject.code }
  else if 4 ≤ s.xfers.length then s.reply { a with status := Dst.busy.code }
  else
    let p := s.readObj r index sub
    if p.2.1 ≠ .ok then s.reply { a with status := p.2.1.code }
    else p.1.openXfer a false p.2.2.length (Table.entries 0 0 p.2.2)

def State.blockReadSeg (s : State) (r : Requester) (tid h offset len : Nat) : State :=
  let a := { rsp r tid 6 0 0 with xfer := h, offset := offset }
  match s.xfer h with
  | none => s.reply { a with status := Dst.xfer.code }
  | some x =>
    let a := { a with index := x.index, sub := x.sub }
    if x.write || x.size < offset + len then s.reply { a with status := Dst.xfer.code }
    else if pduMax r.port < len then s.reply { a with status := Dst.tooLarge.code }
    else s.reply { a with data := Table.readList 0 offset len x.buf }

/-- Does a block write of the total size suit the object (R344)? -/
def State.blockSize (s : State) (i sub size : Nat) : Dst :=
  if 0x8000 ≤ i then (if (blockKind s.part (i - 0x8000)).isNone then .noObject else if size = 4 then .ok else .badLength)
  else if i < 0x1000 || !indexExists s.part i then .noObject
  else if sub = 0 then .readOnly
  else match findRow s.part i sub with
    | none => .noSub
    | some row => if row.acc = .ro then .readOnly else if row.fits size then .ok else .badLength

def State.blockWriteStart (s : State) (r : Requester) (tid index sub size : Nat) : State :=
  let a := rsp r tid 7 index sub
  let d := if s.serves index then s.blockSize index sub size else .noObject
  if d ≠ .ok then s.reply { a with status := d.code } else s.openXfer a true size []

def State.blockWriteSeg (s : State) (r : Requester) (tid h offset : Nat) (bs : List Byte) : State :=
  let a := { rsp r tid 8 0 0 with xfer := h, offset := offset }
  if pduMax r.port < bs.length then s.reply { a with status := Dst.tooLarge.code }
  else match s.xfer h with
    | none => s.reply { a with status := Dst.xfer.code }
    | some x =>
      let a := { a with index := x.index, sub := x.sub }
      if !x.write || x.size < offset + bs.length then s.reply { a with status := Dst.xfer.code }
      else
        (s.setXfer { x with buf := Table.writeList 0 offset bs x.buf,
                            seen := Table.writeList false offset (List.replicate bs.length true) x.seen }).reply a

/-- END: every byte has been written, and the CRC-32 of the whole agrees. The value is then written as one write, and END carries its status. -/
def State.blockWriteEnd (s : State) (r : Requester) (tid h : Nat) (crc : Word) : State :=
  let a := { rsp r tid 9 0 0 with xfer := h }
  match s.xfer h with
  | none => s.reply { a with status := Dst.xfer.code }
  | some x =>
    let a := { a with index := x.index, sub := x.sub }
    if !x.write then s.reply { a with status := Dst.xfer.code }
    else
      let bs := Table.readList 0 0 x.size x.buf
      let s := s.dropXfer h
      if x.seen.length < x.size || crc32 bs ≠ crc then s.reply { a with status := Dst.xfer.code }
      else s.writeAnswered r a x.index x.sub bs

def State.blockAbort (s : State) (r : Requester) (tid h : Nat) : State :=
  let a := { rsp r tid 10 0 0 with xfer := h }
  if (s.xfer h).isNone then s.reply { a with status := Dst.xfer.code } else (s.dropXfer h).reply a

/-! ### Requests in order (R331) -/

/-- Requester and transaction of a request. -/
def requestOf : Instr → Option (Requester × Nat)
  | .dorubRead ⟨r, _⟩ t _ _ | .dorubWrite r t _ _ _ | .multiWrite r t _ | .describe r t _ _ | .blockReadStart r t _ _ | .blockReadSeg r t _ _ _
  | .blockWriteStart r t _ _ _ | .blockWriteSeg r t _ _ _ | .blockWriteEnd r t _ _ | .blockAbort r t _ => some (r, t)
  | _ => none

/-- What a request does once its turn has come. -/
def State.serve (s : State) : Instr → State
  | .dorubRead ⟨r, e⟩ t i k =>
    if unknownService e.service then s.reply { rsp r t e.service i k with status := Dst.badService.code } else s.dorubRead r t i k
  | .dorubWrite r t i k v => s.dorubWrite r t i k v
  | .multiWrite r t es => s.multiWrite r t es
  | .describe r t i k => s.dorubDescribe r t i k
  | .blockReadStart r t i k => s.blockReadStart r t i k
  | .blockReadSeg r t h o n => s.blockReadSeg r t h o n
  | .blockWriteStart r t i k n => s.blockWriteStart r t i k n
  | .blockWriteSeg r t h o bs => s.blockWriteSeg r t h o bs
  | .blockWriteEnd r t h c => s.blockWriteEnd r t h c
  | .blockAbort r t h => s.blockAbort r t h
  | _ => s

/-- A request arrives: held while one before it waits, answered again where it is a repeat, and executed otherwise. One to an address that its
port does not have is discarded and counted. -/
def State.request (s : State) (c : Instr) : State :=
  match requestOf c with
  | none => s
  | some (r, t) =>
    if !s.dorubOn r then s.unaddressed r
    else s.inTurn c (match s.repeated r t with
      | some u => u
      | none => s.serve c)

/-- The MULTI_WRITE that waits goes on, and a WRITE that waits is answered. -/
def State.resumeMulti (s : State) : State :=
  match s.multi with
  | none => s
  | some m =>
    let go := match m.core with
      | some n => !(s.coreSt n).disabling
      | none => m.ready
    if !go then s
    else match m.answer with
      | some a => { s with multi := none }.reply a
      | none => { s with multi := none }.runMulti m.req m.tid m.rest m.applied m.first

/-! ### The commands -/

/-- READ, and every message that is discarded or asks for an unknown service. -/
def execDorubRead (r : Enveloped) (tid index sub : Nat) (s : State) : Host.Outcome State Fault Refusal :=
  .next (s.enveloped r.req r.env (fun s => s.request (.dorubRead r tid index sub)))
def execDorubWrite (r : Requester) (tid index sub : Nat) (value : List Byte) (s : State) : Host.Outcome State Fault Refusal :=
  .next (s.request (.dorubWrite r tid index sub value))
def execMultiWrite (r : Requester) (tid : Nat) (entries : List MwEntry) (s : State) : Host.Outcome State Fault Refusal :=
  .next (s.request (.multiWrite r tid entries))
def execDescribe (r : Requester) (tid index sub : Nat) (s : State) : Host.Outcome State Fault Refusal := .next (s.request (.describe r tid index sub))
def execBlockReadStart (r : Requester) (tid index sub : Nat) (s : State) : Host.Outcome State Fault Refusal :=
  .next (s.request (.blockReadStart r tid index sub))
def execBlockReadSeg (r : Requester) (tid xfer offset len : Nat) (s : State) : Host.Outcome State Fault Refusal :=
  .next (s.request (.blockReadSeg r tid xfer offset len))
def execBlockWriteStart (r : Requester) (tid index sub size : Nat) (s : State) : Host.Outcome State Fault Refusal :=
  .next (s.request (.blockWriteStart r tid index sub size))
def execBlockWriteSeg (r : Requester) (tid xfer offset : Nat) (bytes : List Byte) (s : State) : Host.Outcome State Fault Refusal :=
  .next (s.request (.blockWriteSeg r tid xfer offset bytes))
def execBlockWriteEnd (r : Requester) (tid xfer : Nat) (crc : Word) (s : State) : Host.Outcome State Fault Refusal :=
  .next (s.request (.blockWriteEnd r tid xfer crc))
def execBlockAbort (r : Requester) (tid xfer : Nat) (s : State) : Host.Outcome State Fault Refusal := .next (s.request (.blockAbort r tid xfer))
/-- A transfer is released after 10 s without a request that names it. -/
def execBlockTransferIdle (xfer : Nat) (s : State) : Host.Outcome State Fault Refusal := .next (s.dropXfer xfer)

end Sys2Proof.Machine
end

