-- ==== Sys2Proof/Machine/Jorto.lean ====
section
/-! DEFINITION. Jorto and the host ports (R317 to R329, R431): sessions and their credentials, ordered messages, doorbells, what a port answers of
ARP, neighbour discovery and echo, and its link. -/

namespace Sys2Proof.Machine

/-! ### Ports -/

/-- Jorto answers on the port: its link is up, on a part at work or in the restricted form of Vigil mode (R329). -/
def State.jortoOn (s : State) (p : NetPort) : Bool :=
  p ≠ .mgt && s.link p = .up && (s.boot.state = .ready || (s.vigil && !s.security.bootRomOnly))

/-! ### OPEN (R322, R431) -/

/-- The message that an OPEN's HMAC covers. -/
def credential (slot : Nat) (m : JortoMsg) (ctr : Nat) : List Byte :=
  serial ++ leBytes 1 slot ++ leBytes 1 (netNo m.port) ++ beBytes 16 m.ip ++ leBytes 2 m.udp ++ leBytes 4 ctr

/-- The Jorto secret of a key slot, none where it opens no session. -/
def State.jortoSecret (s : State) (k : Nat) : Option (List Byte) :=
  if k = 0 then (if allZero s.security.slot0Secret then none else some s.security.slot0Secret)
  else
    let v := s.keySlot k
    if k < 64 && v.gen ≠ 0 && v.useJorto then some v.secret else none

def State.credentialOk (s : State) (m : JortoMsg) (k : Nat) : Bool :=
  match s.jortoSecret k with
  | none => false
  | some key =>
    let ctr := leNat (slice m.data 0 4)
    m.data.length = 36 && hmac key (credential k m ctr) == slice m.data 4 32 && s.jortoCtr k < ctr

def State.setCtr (s : State) (k ctr : Nat) : State :=
  if k = 0 then s.setSec (fun z => { z with slot0Ctr := ctr }) else s.setKeySlot k { s.keySlot k with ctr := ctr }

/-- A session number that no open session has. -/
def State.newSession (s : State) : Nat :=
  ((List.range 129).map (fun k => (s.sessionNext - 1 + k) % (2 ^ 32 - 1) + 1)).find? (fun i => (s.session i).isNone) |>.getD 0

def State.jortoOpen (s : State) (m : JortoMsg) (k : Nat) (events : Bool) : State :=
  let no (s : State) : State := s.emit (.openAck m.port m.ip m.udp 0 18)
  if (k < 64 && (s.keySlot k).erasing) || 64 ≤ (s.sessions.filter (fun ss => ss.port == m.port)).length then no s
  else if !s.credentialOk m k then no (s.secRecord 0x43)
  else
    let id := s.newSession
    let ss : Session := { id := id, port := m.port, ip := m.ip, udp := m.udp, key := k, events := events, rtoUs := s.obj 0x1120 1 }
    let s := s.setCtr k (leNat (slice m.data 0 4))
    { s with sessions := s.sessions ++ [ss], sessionNext := id % (2 ^ 32 - 1) + 1 }.emit (.openAck m.port m.ip m.udp id 0)

/-- The port takes the datagram (R318, R319, R329). -/
def State.jortoTakes (s : State) (m : JortoMsg) : Bool :=
  s.jortoOn m.port && s.toOwn m.port (!isIpv4 m.ip) m.frame && s.frameOk m.port (!isIpv4 m.ip) m.frame && forUdp m.frame 49710

/-- A datagram for Jorto on a port; one that the port cannot take is discarded. -/
def onJorto (m : JortoMsg) (s : State) (f : State → State) : Host.Outcome State Fault Refusal :=
  let s := s.fecIn m.port m.frame
  .next (if s.jortoTakes m then f s else if m.port ≠ .mgt && s.link m.port ≠ .up then s else s.frameDiscard m.port)

def execJortoOpen (m : JortoMsg) (keySlot : Nat) (events : Bool) (s : State) : Host.Outcome State Fault Refusal :=
  onJorto m s (fun s => s.jortoOpen m keySlot events)

/-! ### What a message does (R324 to R326, R329, R349) -/

/-- The address field of a WRITE, a READ_REQ or a WORD doorbell. -/
def localAddr (m : JortoMsg) : Nat := m.addr % 2 ^ 48

def isRegister (p : Part) (a : Nat) : Bool :=
  match region p a with
  | .register _ _ => true
  | _ => false

/-- An ERROR: SEQ of the failed request in ADDR, its tag echoed. -/
def State.jError (s : State) (id : Nat) (m : JortoMsg) (status : Nat) : State :=
  s.jsend id ⟨10, 0, status, m.seq % 2 ^ 32, m.tag, [], none⟩

/-- Refused accesses answer with ERROR (Table 14.4), an executed write with its acknowledgement alone. -/
def State.jStatus (s : State) (id : Nat) (m : JortoMsg) (status : Nat) : State := if status = 0 then s else s.jError id m status

/-- Words of the register window in ascending order, each a write of its own; a word that a guard refuses ends the WRITE (R349). -/
def State.writeWords (s : State) : Nat → List Byte → Nat → State × Bool
  | _, _, 0 => (s, true)
  | a, bs, n + 1 =>
    match region s.part a with
    | .register b w =>
      let r := s.writeWord b w (leNat (slice bs 0 4))
      if r.2 = .guarded then (r.1, false) else r.1.writeWords (a + 4) (bs.drop 4) n
    | _ => (s, false)

/-- Every word of a range is one of the register window. -/
def allRegisters (p : Part) (a n : Nat) : Bool := (List.range n).all (fun i => isRegister p (a + 4 * i))

def State.jWrite (s : State) (ss : Session) (m : JortoMsg) : State :=
  let a := (localAddr m)
  let n := m.data.length
  if s.vigil then s.jError ss.id m 16
  else if m.len ≠ n || n = 0 || 8192 < n then s.jError ss.id m 17
  else if isRegister s.part a then
    (if ss.key ≠ 0 then s.jError ss.id m 1
    else if a % 4 ≠ 0 || n % 4 ≠ 0 then s.jError ss.id m 17
    else if !allRegisters s.part a (n / 4) then s.jError ss.id m 1
    else
      let r := s.writeWords a m.data (n / 4)
      r.1.jStatus ss.id m (if r.2 then 0 else 1))
  else
    let r := s.outsideWrite .host ss.key a m.data
    r.1.jStatus ss.id m r.2.status

/-- READ_RSP with its data. -/
def State.jData (s : State) (id : Nat) (m : JortoMsg) (bs : List Byte) : State := s.jsend id ⟨6, 0, 0, (localAddr m), m.tag, bs, none⟩

/-- The words of a register range; none where one of them may not be read. -/
def State.readWords (s : State) (a n : Nat) : Option (List Byte) :=
  (List.range n).foldl (fun (r : Option (List Byte)) i =>
    match r, region s.part (a + 4 * i) with
    | some bs, .register b w => (let v := s.readWord b w; if v.1 = .ok then some (bs ++ leBytes 4 v.2) else none)
    | _, _ => none) (some [])

def isHbm (p : Part) (a : Nat) : Bool :=
  match region p a with
  | .hbm _ => true
  | _ => false

def State.jRead (s : State) (ss : Session) (m : JortoMsg) : State :=
  let a := (localAddr m)
  if s.vigil && !(isHbm s.part a && s.power.ts < 95) then s.jError ss.id m 16
  else if m.data ≠ [] || m.len = 0 || 8192 < m.len then s.jError ss.id m 17
  else if isRegister s.part a then
    (if ss.key ≠ 0 then s.jError ss.id m 1
    else if a % 4 ≠ 0 || m.len % 4 ≠ 0 then s.jError ss.id m 17
    else match s.readWords a (m.len / 4) with
      | some bs => s.jData ss.id m bs
      | none => s.jError ss.id m 1)
  else
    let r := s.outsideRead .host ss.key a m.len
    if r.2.1 = .ok then r.1.jData ss.id m r.2.2 else r.1.jError ss.id m r.2.1.status

/-- STEP: the limit rises when the rank of the new one exceeds that of the old (Table 14.5). -/
def State.stepDoorbell (s : State) (l : Nat) : State :=
  if s.group.rankOf s.group.stepLimit < s.group.rankOf l then s.checkVersions { s with group := { s.group with stepLimit := l % 2 ^ 32 } } else s

/-- WORD: an atomic addition, as SATOM's (Table 14.5). -/
def State.wordDoorbell (s : State) (key a addend : Nat) : State × Nat :=
  let r := s.outsideRead .host key a 8
  if r.2.1 ≠ .ok then (r.1, r.2.1.status)
  else
    let w := r.1.outsideWrite .host key a (leBytes 8 (leNat r.2.2 + addend))
    (w.1, w.2.status)

def State.jDoorbell (s : State) (ss : Session) (m : JortoMsg) : State :=
  let kind := m.addr / 2 ^ 56 % 256
  if s.vigil then s.jError ss.id m 16
  else if kind = 1 && m.data = [] && m.len = 0 then
    (if s.enabledSlots.all (fun k => s.slotKey k == ss.key) then s.stepDoorbell (m.addr % 2 ^ 32) else s.jError ss.id m 1)
  else if kind = 2 && m.len = 8 && m.data.length = 8 && (localAddr m) % 8 = 0 then
    (let r := s.wordDoorbell ss.key (localAddr m) (leNat m.data); r.1.jStatus ss.id m r.2)
  else s.jError ss.id m 17

/-! ### Order (R323) -/

/-- Messages from the host are acknowledged up to the next that is expected. -/
def State.jAck (s : State) (id : Nat) : State :=
  match s.session id with
  | none => s
  | some ss => s.emit (.jortoAck ss.port ss.ip ss.udp ss.id ss.rxNext)

/-- Apply the message whose turn it is. A CLOSE is acknowledged as the session ends. -/
def State.applyMsg (s : State) (ss : Session) (e : Nat × Early × JortoMsg) : State :=
  let ss := { ss with rxNext := (ss.rxNext + 1) % 2 ^ 32, early := ss.early.filter (fun x => x.1 ≠ e.1) }
  let s := s.setSession ss
  match e.2.1 with
  | .close => (s.jAck ss.id).closeSession ss.id false
  | .write => s.jWrite ss e.2.2
  | .readReq => s.jRead ss e.2.2
  | .doorbell => s.jDoorbell ss e.2.2

/-- A write to the register window waits while a MULTI_WRITE holds other writes back (R343, R350). -/
def State.heldBack (s : State) (e : Nat × Early × JortoMsg) : Bool := s.multiHolds && e.2.1 = .write && isRegister s.part (localAddr e.2.2)

/-- How many messages of the session are due: those that have come without a gap from the next expected on. -/
def Session.due (ss : Session) : Nat := ((List.range 256).takeWhile (fun i => ss.early.any (fun e => e.1 == (ss.rxNext + i) % 2 ^ 32))).length

/-- Is SEQ number `a` at or after `b`? -/
def seqFrom (a b : Nat) : Bool := (a + 2 ^ 32 - b % 2 ^ 32) % 2 ^ 32 < 2 ^ 31

/-- Messages of the session that are due, at most so many, take their place among the writes that wait: one place for what one arrival made
due. -/
def State.holdSession (s : State) (ss : Session) (n : Nat) : State :=
  let upto := (ss.rxNext + min n ss.due) % 2 ^ 32
  if s.heldWrites.any (fun h => match h with | .session i u => i = ss.id && seqFrom u upto | .cmd _ => false) then s
  else { s with heldWrites := s.heldWrites ++ [.session ss.id upto] }

/-- A response of the session waits for room among its 256 unacknowledged messages. -/
def State.rspWaits (s : State) (id : Nat) : Bool :=
  match s.session id with
  | none => false
  | some ss => ss.waitingTx.any (fun m => m.event.isNone)

/-- Messages that have come are applied strictly in SEQ order, at most so many. One whose response cannot be sent yet is not applied: its ACK says
that the response was sent (R323). -/
def State.drain (s : State) (id : Nat) : Nat → State
  | 0 => s
  | n + 1 =>
    match s.session id with
    | none => s
    | some ss =>
      match ss.early.find? (fun e => e.1 == ss.rxNext) with
      | none => s
      | some e =>
        if s.heldBack e then s.holdSession ss (n + 1)
        else if (s.applyMsg ss e).rspWaits id then s
        else (s.applyMsg ss e).drain id n

/-- A message's ACK counts; the room that it makes lets messages that waited be applied. -/
def State.takeAck (s : State) (id n : Nat) : State := (s.acked id n).drain id 256

/-- A sequenced message arrives on a session: its ACK counts, it is held within 256 of the next expected, and what is due is applied. -/
def State.sequenced (s : State) (k : Early) (m : JortoMsg) : State :=
  match s.session m.session with
  | none => s.frameDiscard m.port
  | some ss =>
    if ss.port ≠ m.port || ss.ip ≠ m.ip || ss.udp ≠ m.udp then s.frameDiscard m.port
    else
      let s := s.takeAck ss.id m.ack
      match s.session ss.id with
      | none => s
      | some ss =>
        let d := (m.seq + 2 ^ 32 - ss.rxNext) % 2 ^ 32
        if 2 ^ 31 ≤ d || ss.early.any (fun e => e.1 == m.seq) then (s.bump (0x3320 + netNo m.port) 3 1).jAck ss.id
        else if 256 ≤ d then (s.frameDiscard m.port).jAck ss.id
        else
          let s := s.setSession { ss with early := ss.early ++ [(m.seq, k, m)] }
          (s.drain ss.id 256).jAck ss.id

def execJortoClose (m : JortoMsg) (s : State) : Host.Outcome State Fault Refusal := onJorto m s (fun s => s.sequenced .close m)
def execJortoWrite (m : JortoMsg) (s : State) : Host.Outcome State Fault Refusal := onJorto m s (fun s => s.sequenced .write m)
def execJortoReadReq (m : JortoMsg) (s : State) : Host.Outcome State Fault Refusal := onJorto m s (fun s => s.sequenced .readReq m)
def execStepDoorbell (m : JortoMsg) (s : State) : Host.Outcome State Fault Refusal := onJorto m s (fun s => s.sequenced .doorbell m)
def execWordDoorbell (m : JortoMsg) (s : State) : Host.Outcome State Fault Refusal := onJorto m s (fun s => s.sequenced .doorbell m)

/-- Messages that waited for a session's turn are applied, and acknowledged. -/
def State.drainAck (s : State) (id : Nat) : State :=
  match s.session id with
  | none => s
  | some ss => if ss.early.any (fun e => e.1 == ss.rxNext) then (s.drain id 256).jAck id else s

/-- An ACK from the host; it makes room for a response that waited. -/
def State.jortoAck (s : State) (m : JortoMsg) : State :=
  match s.session m.session with
  | none => s.frameDiscard m.port
  | some ss =>
    if ss.port ≠ m.port || ss.ip ≠ m.ip || ss.udp ≠ m.udp then s.frameDiscard m.port else (s.acked ss.id m.ack).drainAck ss.id

def execJortoAck (m : JortoMsg) (s : State) : Host.Outcome State Fault Refusal := onJorto m s (fun s => s.jortoAck m)

/-- JORTO_RTO runs out: the oldest unacknowledged message is sent again and the interval doubles, up to 100 ms; after 16 resends of one message
the session closes. -/
def State.rto (s : State) (id : Nat) : State :=
  match s.session id with
  | none => s
  | some ss => match ss.unacked with
    | [] => s
    | m :: _ =>
      if 16 ≤ ss.resends then (s.closeSession id true).bump (0x3320 + netNo ss.port) 4 1
      else
        let s := s.setSession { ss with resends := ss.resends + 1, rtoUs := min 100000 (2 * ss.rtoUs) }
        (s.bump (0x3320 + netNo ss.port) 2 1).emit (.jorto ss.port ss.ip ss.udp ss.id ss.rxNext m)

def execJortoRto (session : Nat) (s : State) : Host.Outcome State Fault Refusal := .next (s.rto session)

/-- SESSION_IDLE has passed without a datagram from the host. -/
def State.idleClose (s : State) (id : Nat) : State :=
  match s.session id with
  | none => s
  | some ss => (s.closeSession id true).bump (0x3320 + netNo ss.port) 4 1

def execSessionIdle (session : Nat) (s : State) : Host.Outcome State Fault Refusal := .next (s.idleClose session)

/-! ### Frames below Jorto (R318, R319) -/

/-- A frame that reaches a port with its link up: one that the port takes has its effect, every other is discarded and counted. -/
def onFrame (q : PortFrame) (takes : State → Bool) (f : State → State) (s : State) : Host.Outcome State Fault Refusal :=
  let s := s.fecIn q.port q.frame
  let p := q.port
  .next (if s.jortoOn p then (if takes s then f s else s.frameDiscard p) else if p = .mgt && s.dorubPort p then s.frameDiscard p else s)

/-- The port takes a frame of the protocols that it answers itself: it accepts the frame, and the address asked for is its own. -/
def State.answers (s : State) (p : NetPort) (v6 : Bool) (addr : Nat) (f : EthFrame) : Bool :=
  s.frameOk p v6 f && addr ≠ 0 && addr = s.ownIp p v6

def execArpRequest (port : PortFrame) (target : Nat) (s : State) : Host.Outcome State Fault Refusal :=
  onFrame port (fun s => s.answers port.port false target port.frame) (fun s => s.emit (.arp port.port target (s.macAddr (netNo port.port)))) s
def execNeighborSolicitation (port : PortFrame) (target : Nat) (s : State) : Host.Outcome State Fault Refusal :=
  onFrame port (fun s => s.answers port.port true target port.frame) (fun s => s.emit (.neighbor port.port target (s.macAddr (netNo port.port)))) s
def execEchoRequest (port : PortFrame) (dst : Nat) (v6 : Bool) (data : List Byte) (s : State) : Host.Outcome State Fault Refusal :=
  onFrame port (fun s => s.answers port.port v6 dst port.frame) (fun s => s.emit (.echo port.port dst v6 data)) s

/-- A frame of no protocol that the port answers, or a datagram: discarded and counted, unless the filter accepts it as one for Jorto or Dorub,
whose own commands say what it does (R318). -/
def execFrameDiscard (port : PortFrame) (s : State) : Host.Outcome State Fault Refusal :=
  onFrame port (fun s => s.frameOk port.port port.frame.ip6 port.frame && s.toOwn port.port port.frame.ip6 port.frame &&
    (port.frame.udp = some 49710 || port.frame.udp = some 49711)) id s

/-! ### The link (R317, R320, R328) -/

/-- The partner is lost: the port goes down and its sessions close without CLOSE messages. -/
def execHostLinkDown (port : NetPort) (s : State) : Host.Outcome State Fault Refusal :=
  .next (if s.link port = .up then s.linkOff port .down else s)
def execHostLinkUp (port : NetPort) (s : State) : Host.Outcome State Fault Refusal :=
  .next (if s.link port = .down then s.setLink port .up else s)

/-- PORT_EN of a host port, an object under the package guard; the management port has none (Table 14.7). -/
def execPortEnWrite (port : NetPort) (en : Bool) (s : State) : Host.Outcome State Fault Refusal :=
  if port = .mgt then .next s else
    .next (s.unlessMulti (.portEnWrite port en) (if s.windowOn then (s.pkgTouch.blkTouch (blkHport port)).writePortEn port en else s))

/-- A collision on the management segment, counted with PLCA on (R332). -/
def execPlcaCollision (s : State) : Host.Outcome State Fault Refusal :=
  .next (if s.boot.plcaNode ≠ 255 then s.bump 0x3330 4 1 else s)

/-! ### What waits for a MULTI_WRITE (R331, R343, R350) -/

/-- The meaning of a write that may have waited; every other command that may is a Dorub request. -/
def heldCmd : Instr → State → Host.Outcome State Fault Refusal
  | .load n x k => execLoad n x k
  | .save n x => execSave n x
  | .saveFull n x => execSaveFull n x
  | .halt n x => execHalt n x
  | .resume n x => execResume n x
  | .clear n x => execClear n x
  | .coreEnable n => execCoreEnable n
  | .coreDisable n => execCoreDisable n
  | .registerWrite p i k v => execRegisterWrite p i k v
  | .guardWrite g v => execGuardWrite g v
  | .wrcntWrite b v => execWrcntWrite b v
  | .mcErrWrite k v => execMcErrWrite k v
  | .slotEnable k => execSlotEnable k
  | .slotDisable k => execSlotDisable k
  | .form => execForm
  | .dissolve => execDissolve
  | .resolveFeast => execResolveFeast
  | .resolveFast => execResolveFast
  | .watchTableWrite o bs => execWatchTableWrite o bs
  | .fportEnable p => execFportEnable p
  | .fportDisable p => execFportDisable p
  | .loadOpen => execLoadOpen
  | .loadSeal => execLoadSeal
  | .switchEdition => execSwitchEdition
  | .startDrain => execStartDrain
  | .forceRetire => execForceRetire
  | .portEnWrite p e => execPortEnWrite p e
  | .pkgCapWrite w => execPkgCapWrite w
  | .errAck v => execErrAck v
  | .lostCountWrite v => execLostCountWrite v
  | .profileSave r n => execProfileSave r n
  | .selectNext r n => execSelectNext r n
  | .defaults r n => execDefaults r n
  | .cancelNext r => execCancelNext r
  | .warmReset r => execWarmReset r
  | .fwVerify r => execFwVerify r
  | .fwActivate r => execFwActivate r
  | .commitSvn r => execCommitSvn r
  | .fwChunk r n bs => execFwChunk r n bs
  | .fwMinSvn r v => execFwMinSvn r v
  | .attNonce r bs => execAttNonce r bs
  | .authOpen r bs => execAuthOpen r bs
  | .authClose r => execAuthClose r
  | .transfer r bs => execTransfer r bs
  | .lease r bs => execLease r bs
  | .endLease r bs => execEndLease r bs
  | .refurbish r bs => execRefurbish r bs
  | .finish r bs => execFinish r bs
  | .retireRecord r bs => execRetireRecord r bs
  | .keyLoad r bs => execKeyLoad r bs
  | .erase r v => execErase r v
  | .slot0Secret r bs => execSlot0Secret r bs
  | .debugToken r bs => execDebugToken r bs
  | c => fun s => .next (s.request c)

/-- A command that has waited acts now. -/
def State.replay (s : State) (c : Instr) : State :=
  match heldCmd c s with
  | .next t => t
  | _ => s

/-- Messages of a session that waited in one place are applied, and acknowledged. -/
def State.drainUpto (s : State) (id upto : Nat) : State :=
  match s.session id with
  | none => s
  | some ss =>
    let n := (upto + 2 ^ 32 - ss.rxNext) % 2 ^ 32
    if n = 0 || 256 < n then s else (s.drain id n).jAck id

/-- What waited goes on in order of arrival: a command, or a session's messages. -/
def State.goOn (s : State) : Held → State
  | .cmd c => s.replay c
  | .session id upto => s.drainUpto id upto

/-- The MULTI_WRITE or WRITE that waits goes on, and after it what waited behind it. -/
def State.resumeAll (s : State) : State :=
  let t := s.resumeMulti
  if t.multi.isSome then t else t.heldWrites.foldl State.goOn { t with heldWrites := [] }

/-- The erase under way completes (R432), and a MULTI_WRITE that waited for it goes on. -/
def execEraseDone (s : State) : Host.Outcome State Fault Refusal := .next s.eraseDone.resumeAll

/-- The in-flight operations of a disabling core have completed (R109), and what waited for it goes on (R342, R353). -/
def execCoreDisableDone (core : Nat) (s : State) : Host.Outcome State Fault Refusal :=
  if core < Config.cores s.part then .next (s.coreDisabled core).resumeAll else .next s

end Sys2Proof.Machine
end

