-- ==== Sys2Proof/Machine/Receive.lean ====
section
/-! DEFINITION. The destination interfaces of the dies (R256, R269 to R274): the message table, what a packet of each KIND does when it
takes effect, answers, holds and their ends. -/

namespace Sys2Proof.Machine

/-- What the interface answers a request with. -/
inductive Reply where
  | status (n : Nat)
  | data (bs : List Byte)
  | busy
  deriving DecidableEq, Repr

def Taken.reply : Taken → Reply
  | .ok => .status 0
  | .busy => .busy
  | .refused n => .status n

/-! ### Writes, reads and atomics (R110, R145, R272, R303, R307) -/

/-- The range that a packet's operation reads or writes as a whole: a packet of it that is refused leaves the whole as it was (Table 6.3). -/
def accessRange (p : Packet) (len : Nat) : Nat × Nat := if p.span = 0 then (p.addr, len) else (p.base, p.span)

/-- Who sends a request: a core of this package, or another package. -/
def State.sender (s : State) (p : Packet) : Who :=
  if p.src = s.boot.node && p.sunit < 0x60 then .core p.sunit (if p.pri then .brim else .crown) else .remote

/-- Is the whole range of a packet's operation admitted? A refusal is recorded with the packet that closes its message. -/
def State.admitWhole (s : State) (p : Packet) (a n : Nat) : State × Bool :=
  if p.close then s.admitted (s.sender p) p.key a n else (s, s.admission (s.sender p) p.key a n = .ok)

/-- A WRITE (R110, R303, R307). -/
def State.plainWrite (s : State) (p : Packet) (bs : List Byte) : State × Nat :=
  let g := accessRange p bs.length
  match s.admitWhole p g.1 g.2 with
  | (t, false) => (t, 1)
  | (t, true) =>
    let w := t.outsideWrite (t.sender p) p.key p.addr bs
    (w.1, w.2.status)

/-- A WRITE under MESH: each masked core of the die checks the whole of it and takes it at the offset (R272, Table 6.11). -/
def State.meshWrite (s : State) (p : Packet) (bs : List Byte) : State × Nat :=
  match region s.part p.addr with
  | .core c _ =>
    (setBits 24 p.cmask).foldl (fun (r : State × Nat) i =>
      let shift (a : Nat) : Nat := a + coreBase (c / 24 * 24 + i) - coreBase c
      let w := r.1.plainWrite { p with addr := shift p.addr, base := shift p.base } bs
      (w.1, if r.2 = 0 then w.2 else r.2)) (s, 0)
  | _ => (s, 1)

/-- A READ_REQ. -/
def State.readAnswer (s : State) (p : Packet) (len : Nat) : State × Reply :=
  let g := accessRange p len
  match s.admitWhole p g.1 g.2 with
  | (t, false) => (t, .status 1)
  | (t, true) =>
    let r := t.outsideRead (t.sender p) p.key p.addr len
    (r.1, if r.2.1 = .ok then .data r.2.2 else .status r.2.1.status)

/-- An ATOMIC adds to a word as one action (R145). An address that is not 8-byte aligned is refused (DESIGN CHOICE, log entry 27). -/
def State.atomicAdd (s : State) (p : Packet) (addend : Dword) : State × Nat :=
  if p.addr % 8 ≠ 0 then (s, 1)
  else
    let r := s.outsideRead (s.sender p) p.key p.addr 8
    if r.2.1 ≠ .ok then (r.1, r.2.1.status)
    else
      let w := r.1.outsideWrite (s.sender p) p.key p.addr (leBytes 8 (leNat r.2.2 + addend.toNat))
      (w.1, w.2.status)

/-! ### Messages to slots, cores and agents -/

/-- A message for a slot of this package under the slot's key slot (R110); one for a slot that the part lacks finds nobody. -/
def State.forSlot (s : State) (p : Packet) (k : Nat) (f : State → State × Reply) : State × Reply :=
  if Config.slots s.part ≤ k then (s, .status 2)
  else if s.slotEn k && p.key ≠ s.slotKey k then
    ((s.bump 0x3250 6 1).capture 0x20 { die := k / 4, source := blkPipe k }, .status 1)
  else f s

/-- A reshard message for a core: the key slot of the context that registered it must be the packet's (R110). A refusal is recorded with the
packet that closes its message, with the step and attempt of that context (Table 18.1). -/
def State.forReceiver (s : State) (p : Packet) (core rid : Nat) (f : State → State × Reply) : State × Reply :=
  match s.receiver core rid with
  | none => (s, .busy)
  | some r =>
    let c := s.ctx core r.x
    if c.key = p.key then f s
    else (if p.close then
        (s.bump 0x3250 6 1).capture 0x20 { die := coreDie core, source := blkCore core, step := some c.step, att := c.att }
      else s, .status 1)

/-- Rank of a node in the step group; a node that the group does not name, or not yet, counts as 65,536 + its ID. -/
def Group.rankOfNode (g : Group) (node : Nat) : Nat :=
  match g.members.findIdx? (fun n => n == node) with
  | some r => r
  | none => 65536 + node

/-- A commit message that a packet carries (Table 10.8). -/
def State.commitPacket (s : State) (src : Nat) (m : CommitMsg) (r : Option FormRecord) : State :=
  let rank := s.group.rankOfNode src
  match m.kind with
  | .eveFirst => s.gotEveFirst rank m
  | .eve => s.gotEve rank m
  | .feast | .fastRepeat | .fastSkip => s.gotOutcome m
  | .formRec => (match r with | some r => s.gotFormRec rank r | none => s)
  | .formed => s.gotFormed m
  | .rejected => s.gotRejected rank m

/-- A Lantern message that a packet carries (Table 16.4). -/
def State.lanternPacket (s : State) (src : Nat) (m : LanternMsg) : State :=
  if m.sub = 1 then s.lanternDown m
  else if m.sub = 2 then s.lanternCall m
  else if m.sub = 3 then s.lanternReply (s.group.rankOfNode src) m
  else if m.sub = 4 then s.lanternSet m
  else s

def State.creditPacket (s : State) : CreditMsg → State
  | .grant k dst q share => if k < Config.slots s.part then s.granted k dst q share else s
  | .ret k dst q key => if k < Config.slots s.part then s.creditReturned k dst q key else s
  | .revoke k dst q => if k < Config.slots s.part then s.revoked k dst q else s

/-- A transfer whose key slot is not its receiver's is refused before it reaches it, and its bytes count as refused (R110, R415). -/
def State.transferRefused (s : State) (p : Packet) (core rid n : Nat) : State :=
  match s.receiver core rid with
  | some r => if (s.ctx core r.x).key = p.key then s else s.reshardRefused n
  | none => s

/-- What a request that meets a warm reset counts: it is answered with UNREACHABLE and has no effect (R384), but the conserved quantities that
it carries are counted (R414; log entry 76). -/
def State.warmCount (s : State) : Body → State
  | .credit c => s.warmCredit c
  | .commit m _ => if m.kind = .eve then s.warmEve else s
  | .reshard _ _ _ bs => s.reshardRefused bs.length
  | _ => s

/-- The effect of a request, and what it is answered with (R256). A packet that does not close its message writes its payload and does no
more; `before` is the status that the packets before the closing one left (R269). -/
def State.effect (s : State) (p : Packet) (before : Nat := 0) : State × Reply :=
  let st (r : State × Nat) : State × Reply := (r.1, .status r.2)
  let ok (t : State) : State × Reply := (t, .status 0)
  let close : Option Nat := if p.close then some before else none
  match p.body with
  | .write bs =>
    st (if p.mesh then s.meshWrite p bs else s.plainWrite p bs)
  | .readReq len => s.readAnswer p len
  | .more _ _ _ _ => (s, .status 0)
  | .atomic v => st (s.atomicAdd p v)
  | .queuePart q =>
    if Config.slots s.part ≤ q.slot then (s, .status 2)
    else if p.close then st (s.placePart { q with key := p.key }) else ok s
  | .credit c => ok (s.creditPacket c)
  | .exchPartial k v => if k < Config.slots s.part then ok (s.gotPartial k v) else (s, .status 2)
  | .factorPart k v => if k < Config.slots s.part then st (s.gotFactor k { v with key := p.key } close) else (s, .status 2)
  | .exchDelivery d => st (s.deliver { d with key := p.key } close)
  | .commit m r => ok (s.commitPacket p.src m r)
  | .expert k m => s.forSlot p k (fun s => let r := s.gotExpert k m; (r.1, r.2.reply))
  | .settle k m => s.forSlot p k (fun s => ok (s.gotSettle k m))
  | .expReturn k m => s.forSlot p k (fun s => ok (s.gotReturn k m))
  | .reshard c rid off bs => (s.transferRefused p c rid bs.length).forReceiver p c rid (fun s => let r := s.gotTransfer c rid off bs; (r.1, r.2.reply))
  | .notice c rid n => s.forReceiver p c rid (fun s => let r := s.gotNotice c rid n; (r.1, r.2.reply))
  | .lantern m => ok (s.lanternPacket p.src m)
  | .drainQuery => ok (s.drainAsked p.src)
  | .drainReply c i a => ok (s.drainReplied ⟨p.src, c, i, a⟩)
  | .retire e => ok (s.retired e)
  | .readRsp _ | .ack | .errorRsp _ | .busy => (s, .status 0)

/-! ### Answers to this package's own messages -/

/-- An answer reaches the unit that sent the message. -/
def State.gotAnswer (s : State) (p : Packet) : State :=
  match p.body with
  | .ack => s.answered p.sunit p.msgid 0
  | .errorRsp st => s.answered p.sunit p.msgid st
  | .readRsp bs => s.readData p.sunit p.msgid bs
  | .busy =>
    (match s.sentMsg p.sunit p.msgid with
      | none => s
      | some m => match m.packetAt p.addr with
        | none => s
        | some q => s.refusedBusy p.sunit p.msgid (againTo p.src q))
  | _ => s

/-- Read bytes [off, off + len) of the records of a descriptor in tile order. -/
def State.recordRange (s : State) (w : Place) (d : Desc) (off len : Nat) : State × List (Option Byte) :=
  let row := max 1 (d.tB * d.recSize)
  (List.range ((off + len + row - 1) / row - off / row)).foldl (fun (r : State × List (Option Byte)) i =>
    let lo := max off ((off / row + i) * row)
    let hi := min (off + len) ((off / row + i + 1) * row)
    let q := r.1.spaceReads w d.space (d.base + d.recordOff lo) (hi - lo)
    (q.1, r.2 ++ q.2)) (s, [])

/-- First place of a transfer's first packet in its destination. -/
def SrcMsg.firstOff (m : SrcMsg) : Nat :=
  match m.packets with
  | { body := .reshard _ _ o _, .. } :: _ => o
  | _ => 0

/-- A packet's payload read anew from the source region of the operation that sends it (R271), each a demand read (R312): the records of D1, or
the range of D1 that a RESHARD's transfer names; none where the source delivers no data. What a unit made of its sources, or an operation that is
over left, goes again as it was. -/
def State.readAnew (s : State) (m : SrcMsg) (p : Packet) : State × Option Body :=
  match m.op with
  | none => (s, some p.body)
  | some (n, x) =>
    match (s.ctx n x).fS with
    | none => (s, some p.body)
    | some f =>
      let d := f.op.desc 0
      let w : Place := ⟨n, x, f.op.step, f.op.att⟩
      let got (r : State × List (Option Byte)) (b : List Byte → Body) : State × Option Body := (r.1, (whole r.2).map b)
      if !f.awaiting.contains m.msgid then (s, some p.body)
      else match p.body with
        | .write bs => got (s.recordRange w d (p.addr - p.base) bs.length) .write
        | .queuePart q => got (s.recordRange w d q.off q.bytes.length) (fun bs => .queuePart { q with bytes := bs })
        | .exchDelivery v => got (s.recordRange w d v.off v.bytes.length) (fun bs => .exchDelivery { v with bytes := bs })
        | .reshard c r o bs => got (s.spaceReads w d.space (d.base + m.off + (o - m.firstOff)) bs.length) (.reshard c r o)
        | b => (s, some b)

/-- A source that delivers no data for a packet sent again: its operation ends with MEMORY_UC, and its message is over (R69, R119, R143). -/
def State.sourceLost (s : State) (m : SrcMsg) : State :=
  let t := { s with sent := s.sent.filter (fun x => !(x.sunit == m.sunit && x.msgid == m.msgid)) }.unspecified
  match m.op with
  | none => t
  | some (n, x) => match (t.ctx n x).fS with
    | none => t
    | some f => t.opFault n x .stream f.op fMemoryUc

/-- A refused packet is sent again (R271). -/
def State.resendBusy (s : State) (u id : Nat) : State :=
  match s.sentMsg u id with
  | none => s
  | some m =>
    match m.busy with
    | [] => s
    | p :: rest =>
      match (s.setSent { m with busy := rest }).readAnew m p with
      | (t, some b) => t.inject { p with body := b }
      | (t, none) => t.sourceLost m

def execBusyResend (sunit msgid : Nat) (s : State) : Host.Outcome State Fault Refusal :=
  .next (if s.fabricOn then s.resendBusy sunit msgid else s)

/-! ### The message table (R269 to R271) -/

def MsgEntry.is (e : MsgEntry) (die src sunit msgid : Nat) : Bool := e.die == die && e.src == src && e.sunit == sunit && e.msgid == msgid

def State.msgEntry (s : State) (die : Nat) (p : Packet) : Option MsgEntry := s.msgTable.find? (fun e => e.is die p.src p.sunit p.msgid)
def State.dropEntry (s : State) (e : MsgEntry) : State := { s with msgTable := s.msgTable.filter (fun x => !(x.is e.die e.src e.sunit e.msgid)) }
def State.putEntry (s : State) (e : MsgEntry) : State := { s.dropEntry e with msgTable := (s.dropEntry e).msgTable ++ [e] }

/-- The stages left of a LINE packet, from this node. -/
def State.nextLine (s : State) (die : Nat) (p : Packet) : State × List Nat :=
  s.startStages (unitExch die) none (some p) p.nextStage.stages p.nextStage

/-- Bytes that a packet brings for what needs the payload of its message as a whole, by place: the placing of a queue part (R202), and the
stages left of a delivery's line (R274). -/
def partPiece (p : Packet) : List (Nat × List Byte) :=
  match p.body with
  | .queuePart q => [(q.off, q.bytes)]
  | .exchDelivery d => if p.line && p.stages ≠ 0 then [(d.off, d.bytes)] else []
  | _ => []

/-- A payload of which the last bytes, from a place on, came in the closing packet, and the others before it. -/
def joinBytes (off : Nat) (bs : List Byte) (data : List (Nat × List Byte)) : List Byte :=
  data.foldl (fun bs e => patch bs e.1 e.2) (List.replicate off 0 ++ bs)

/-- The closing packet of a queue part, with the whole payload of its message (R202, R269). -/
def joinPart (p : Packet) (data : List (Nat × List Byte)) : Packet :=
  match p.body with
  | .queuePart q =>
    { p with body := .queuePart { q with off := 0, bytes := joinBytes q.off q.bytes data } }
  | _ => p

/-- The closing packet of a delivery, with the whole payload of its message for the stages left of its line (R274). -/
def joinDelivery (p : Packet) (data : List (Nat × List Byte)) : Packet :=
  match p.body with
  | .exchDelivery d => { p with addr := d.base, body := .exchDelivery { d with off := 0, total := 0, bytes := joinBytes d.off d.bytes data } }
  | _ => p

/-- The closing packet takes effect and the message is answered, its entry `e` being that of the packets before; the node of a LINE packet with
later stages first becomes the source of those, and acknowledges upward when they are acknowledged (R274). A closing packet refused with BUSY comes
again, and the entry waits for it (R271). -/
def State.closeMsg (s : State) (e : MsgEntry) (p : Packet) : State :=
  let r := s.effect (joinPart p e.data) e.status
  let s := r.1
  match r.2 with
  | .busy => (if e.count = 0 then s.bump 0x6300 5 1 else (s.putEntry e).bump 0x6300 5 1).respond p .busy
  | .data bs => if e.status = 0 then s.respond p (.readRsp bs) else s.answer p e.status
  | .status n =>
    let status := if e.status = 0 then n else e.status
    if p.line && p.stages ≠ 0 then
      let t := s.nextLine e.die (joinDelivery p e.data)
      match t.2 with
      | [] => t.1.answer p status
      | id :: _ => match t.1.sentMsg (unitExch e.die) id with
        | none => t.1
        | some m => t.1.setSent { m with status := status }
    else s.answer p status

/-- Status that a packet which does not close its message leaves in its entry. -/
def Reply.code : Reply → Nat
  | .status n => n
  | _ => 0

/-- A packet that does not close its message: its payload is written as it arrives, that of a queue part kept for its placing, and it counts
(R269); one refused with BUSY comes again, and counts then (R271). -/
def State.takeOpen (s : State) (e : MsgEntry) (p : Packet) : State × MsgEntry :=
  let r := s.effect p
  match r.2 with
  | .busy => ((r.1.bump 0x6300 5 1).respond p .busy, e)
  | v => (r.1, { e with count := e.count + 1, status := if e.status = 0 then v.code else e.status, data := e.data ++ partPiece p })

/-- A request arrives at the interface of a die. The first packet of a message opens an entry, a closing packet is held until its COUNT is met. -/
def State.takeIn (s : State) (die : Nat) (p : Packet) : State :=
  let old := s.msgEntry die p
  let e := old.getD ⟨die, p.src, p.sunit, p.msgid, 0, none, 0, []⟩
  if old.isNone && 4096 ≤ (s.msgTable.filter (fun e => e.die == die)).length then (s.bump 0x6300 5 1).respond p .busy
  else if p.close then
    if p.count ≤ e.count + 1 then (s.dropEntry e).closeMsg { e with held := none } p
    else s.putEntry { e with count := e.count + 1, held := some p }
  else
    let r := s.takeOpen e p
    match r.2.held with
    | some q => if q.count ≤ r.2.count then (r.1.dropEntry e).closeMsg { r.2 with count := r.2.count - 1, held := none } q else r.1.putEntry r.2
    | none => if r.2.count = 0 then r.1 else r.1.putEntry r.2

/-- The n-th packet that waits at the package's destination interfaces is consumed. During a warm reset every request is answered with
UNREACHABLE (R384). -/
def State.receive (s : State) (n : Nat) : State :=
  match s.inbox[n]? with
  | none => s
  | some (die, p) =>
    let s := { s with inbox := s.inbox.eraseIdx n }
    if s.boot.warm then (if p.isRsp then s else (s.warmCount p.body).answer p 2)
    else if p.isRsp then s.gotAnswer p else s.takeIn die p

def execPacketReceive (n : Nat) (s : State) : Host.Outcome State Fault Refusal := .next (if s.fabricOn then s.receive n else s)

/-- The hold of a closing packet ends without its count being met (R270). -/
def State.holdOver (s : State) (src sunit msgid : Nat) : State :=
  match s.msgTable.find? (fun e => e.src == src && e.sunit == sunit && e.msgid == msgid && e.held.isSome) with
  | none => s
  | some e => match e.held with
    | none => s
    | some p => ((s.dropEntry e).bump 0x6300 4 1).answer p 3

def execHoldTimeout (src sunit msgid : Nat) (s : State) : Host.Outcome State Fault Refusal :=
  .next (if s.fabricOn then s.holdOver src sunit msgid else s)

/-- An entry that holds no closing packet is released when it has been idle (R270). -/
def State.entryIdle (s : State) (src sunit msgid : Nat) : State :=
  { s with msgTable := s.msgTable.filter (fun e => !(e.src == src && e.sunit == sunit && e.msgid == msgid && e.held.isNone)) }

def execEntryIdleRelease (src sunit msgid : Nat) (s : State) : Host.Outcome State Fault Refusal :=
  .next (if s.fabricOn then s.entryIdle src sunit msgid else s)

end Sys2Proof.Machine
end

