-- ==== Sys2Proof/Machine/Tap.lean ====
section
/-! DEFINITION. The test access port (R395 to R398, R400): instructions of the dies' TAP controllers, and the data registers that they select. -/

namespace Sys2Proof.Machine

def State.tap (s : State) (d : Nat) : Tap := Table.read {} d s.taps
def State.setTap (s : State) (d : Nat) (t : Tap) : State := { s with taps := Table.write {} d t s.taps }

/-- The port reaches a die: on the TP4 only the one that JTAG_SEL named at the release of TRST_N, on the TP2 both in one chain (R396). -/
def State.tapReaches (s : State) (d : Nat) : Bool :=
  match s.part with
  | .tp4 => d = s.boot.tapSel
  | .tp2 => true

/-- The dies whose TAP controllers the port passes through, from TDO: die 1 nearest it on the TP2 (R396). -/
def State.chain (s : State) : List Nat :=
  match s.part with
  | .tp4 => [s.boot.tapSel]
  | .tp2 => [1, 0]

/-- Code of an instruction (R395, log entry 125). -/
def TapInst.code : TapInst → Byte
  | .bypass => Config.tapCode 0
  | .samplePreload => Config.tapCode 1
  | .extest => Config.tapCode 2
  | .idcode => Config.tapCode 3
  | .clamp => Config.tapCode 4
  | .other c => BitVec.ofNat 8 c

/-- The instruction register that the port scans, the bit nearest TDO first: 16 bits on the TP2 (R396). -/
def State.tapIr (s : State) : List Bool := s.chain.flatMap (fun d => (List.range 8).map (fun i => (s.tap d).inst.code.getLsbD i))

/-- Load an instruction that selects a data register; the outputs that the scan drives for good stay so (R398). -/
def State.tapLoad (s : State) (d : Nat) (i : TapInst) (reg : TapReg) : State :=
  s.setTap d { s.tap d with inst := i, reg := reg, driving := (s.tap d).held }

/-- IDCODE of a die (R397); its manufacturer code is fused, an open value. -/
def State.idcode (s : State) (d : Nat) : Word :=
  let step := if s.dieRev d = 0x0200 then 2 else if s.dieRev d = 0x0101 then 1 else 0
  let maker := leNat [Config.fusedByte (okey 0x1000 3) 0, Config.fusedByte (okey 0x1000 3) 1] % 2 ^ 11
  BitVec.ofNat 32 (step * 2 ^ 28 + 0x5E42 * 2 ^ 12 + maker * 2 + 1)

/-- TESTRES (R400). -/
def State.testRes (s : State) : BitVec 160 :=
  BitVec.ofNat 160 (s.boot.testStack % 2 ^ 6 * 2 ^ 152 + s.boot.testEngine % 2 ^ 96 * 2 ^ 56 + s.boot.testCore % 2 ^ 24 * 2 ^ 32 +
    s.boot.testPass % 2 ^ 32)

/-- The instruction drives the package's outputs from the boundary register. After BOOT_STATE has left ROM that puts the package in Vigil mode,
and the outputs follow the scan until the next cold reset (R398). -/
def State.tapDrive (s : State) (d : Nat) (i : TapInst) (reg : TapReg) : State :=
  let late := s.boot.state ≠ .rom
  let s := s.setTap d { s.tap d with inst := i, reg := reg, driving := true, held := (s.tap d).held || late }
  if late then s.capture 0x38 { die := d, source := blkDie d } else s

/-- Is the code that of TESTRES? -/
def isTestres (code : Nat) : Bool := BitVec.ofNat 8 code == Config.tapCode 5

/-- May a private instruction of a die act? Under a debug token with scope bit 0; TESTRES also in the die's own stand-alone test (R395, R400,
R434). -/
def State.privateOn (s : State) (d code : Nat) : Bool :=
  bitOf s.security.debugScope 0 || (s.boot.state = .dieTest && s.boot.testDie = d && isTestres code)

/-- An instruction for a die of the part; one that the port does not reach changes nothing. -/
def onTap (d : Nat) (s t : State) : Host.Outcome State Fault Refusal :=
  if d < Config.dies s.part then .next (if s.tapReaches d then t else s) else .next s

def execBypass (die : Nat) (s : State) : Host.Outcome State Fault Refusal := onTap die s (s.tapLoad die .bypass .bypass)
/-- SAMPLE/PRELOAD: the boundary register takes the cells that are shifted in. -/
def execSamplePreload (die : Nat) (cells : List Bool) (s : State) : Host.Outcome State Fault Refusal :=
  let t := s.tapLoad die .samplePreload .boundary
  onTap die s (t.setTap die { t.tap die with cells := cells })
def execExtest (die : Nat) (s : State) : Host.Outcome State Fault Refusal := onTap die s (s.tapDrive die .extest .boundary)
def execIdcode (die : Nat) (s : State) : Host.Outcome State Fault Refusal := onTap die s (s.tapLoad die .idcode .idcode)
/-- CLAMP holds the outputs at the boundary register and selects BYPASS. -/
def execClamp (die : Nat) (s : State) : Host.Outcome State Fault Refusal := onTap die s (s.tapDrive die .clamp .bypass)

/-- Any other instruction code: private where it may act, BYPASS otherwise (R395). -/
def execPrivateInstruction (die code : Nat) (s : State) : Host.Outcome State Fault Refusal :=
  onTap die s (s.tapLoad die (.other (code % 256)) (if s.privateOn die code then .priv (code % 256) else .bypass))

/-- TRST_N is released: every TAP is reset, and JTAG_SEL is sampled (R396). Outputs that follow the scan after EXTEST or CLAMP go on doing so. -/
def execTrstnRelease (sel : Nat) (s : State) : Host.Outcome State Fault Refusal :=
  .next ({ s with taps := s.taps.filterMap (fun (e : Nat × Tap) =>
      if e.2.held then some (e.1, { e.2 with inst := .idcode, reg := .idcode }) else none) }.setBoot (fun b => { b with tapSel := sel % 4 }))

/-- The data register that the die's instruction selects: a private one only while the instruction may act (R395). -/
def State.tapReg (s : State) (d : Nat) : TapReg :=
  match (s.tap d).reg with
  | .priv c => if s.privateOn d c then .priv c else .bypass
  | r => r

/-- What the selected data register shifts out (R397, R400). A private register other than TESTRES is the test equipment's own. -/
def State.tapOut (s : State) (d : Nat) : List Bool :=
  match s.tapReg d with
  | .bypass => [false]
  | .boundary => (s.tap d).cells
  | .idcode => (List.range 32).map (fun i => (s.idcode d).getLsbD i)
  | .priv c => if isTestres c && s.boot.testDie = d then (List.range 160).map (fun i => s.testRes.getLsbD i) else []

/-- What the port shifts out at TDO: the registers of its chain, one after the other (R396). -/
def State.tdo (s : State) : List Bool := s.chain.flatMap s.tapOut

end Sys2Proof.Machine
end

