-- ==== Sys2Proof/Machine/Dispatch.lean ====
section
/-! DEFINITION. The dispatch: one arm for each command, each one direct call of that command's meaning. -/

namespace Sys2Proof.Machine

def exec (i : Instr) (s : State) : Host.Outcome State Fault Refusal :=
  match i with
  | .bundleIssue core => Sys2Proof.Machine.execBundleIssue core s
  | .operationDispatch core x k => Sys2Proof.Machine.execOperationDispatch core x k s
  | .operationComplete core x k => Sys2Proof.Machine.execOperationComplete core x k s
  | .mzero core x => Sys2Proof.Machine.execMzero core x s
  | .mmul core x => Sys2Proof.Machine.execMmul core x s
  | .mdrain core x => Sys2Proof.Machine.execMdrain core x s
  | .vscan core x => Sys2Proof.Machine.execVscan core x s
  | .venc core x => Sys2Proof.Machine.execVenc core x s
  | .vcvt core x => Sys2Proof.Machine.execVcvt core x s
  | .vlds core x => Sys2Proof.Machine.execVlds core x s
  | .vldr core x => Sys2Proof.Machine.execVldr core x s
  | .vew core x => Sys2Proof.Machine.execVew core x s
  | .vdtab core x => Sys2Proof.Machine.execVdtab core x s
  | .vred core x => Sys2Proof.Machine.execVred core x s
  | .vopt core x => Sys2Proof.Machine.execVopt core x s
  | .vrng core x => Sys2Proof.Machine.execVrng core x s
  | .smov core x => Sys2Proof.Machine.execSmov core x s
  | .scpy core x => Sys2Proof.Machine.execScpy core x s
  | .sput core x => Sys2Proof.Machine.execSput core x s
  | .sget core x => Sys2Proof.Machine.execSget core x s
  | .sline core x => Sys2Proof.Machine.execSline core x s
  | .qpush core x => Sys2Proof.Machine.execQpush core x s
  | .qpop core x => Sys2Proof.Machine.execQpop core x s
  | .satom core x => Sys2Proof.Machine.execSatom core x s
  | .swait core x => Sys2Proof.Machine.execSwait core x s
  | .snote core x => Sys2Proof.Machine.execSnote core x s
  | .sreduce core x => Sys2Proof.Machine.execSreduce core x s
  | .smcast core x => Sys2Proof.Machine.execSmcast core x s
  | .xdisp core x => Sys2Proof.Machine.execXdisp core x s
  | .xcomb core x => Sys2Proof.Machine.execXcomb core x s
  | .reshard core x => Sys2Proof.Machine.execReshard core x s
  | .li core gd lane imm => Sys2Proof.Machine.execLi core gd lane imm s
  | .addR core gd ga gb => Sys2Proof.Machine.execAddR core gd ga gb s
  | .subR core gd ga gb => Sys2Proof.Machine.execSubR core gd ga gb s
  | .andR core gd ga gb => Sys2Proof.Machine.execAndR core gd ga gb s
  | .orR core gd ga gb => Sys2Proof.Machine.execOrR core gd ga gb s
  | .xorR core gd ga gb => Sys2Proof.Machine.execXorR core gd ga gb s
  | .shl core gd ga gb => Sys2Proof.Machine.execShl core gd ga gb s
  | .shr core gd ga gb => Sys2Proof.Machine.execShr core gd ga gb s
  | .sra core gd ga gb => Sys2Proof.Machine.execSra core gd ga gb s
  | .addi core gd ga imm => Sys2Proof.Machine.execAddi core gd ga imm s
  | .cmp core pd cond ga gb => Sys2Proof.Machine.execCmp core pd cond ga gb s
  | .br core p sense always off => Sys2Proof.Machine.execBr core p sense always off s
  | .waitc core kind ga => Sys2Proof.Machine.execWaitc core kind ga s
  | .dwr core di ga pd => Sys2Proof.Machine.execDwr core di ga pd s
  | .time core gd => Sys2Proof.Machine.execTime core gd s
  | .rdsr core gd sel => Sys2Proof.Machine.execRdsr core gd sel s
  | .flagclr core => Sys2Proof.Machine.execFlagclr core s
  | .endIssue core => Sys2Proof.Machine.execEndIssue core s
  | .brimActivate core => Sys2Proof.Machine.execBrimActivate core s
  | .switchAbandoned core => Sys2Proof.Machine.execSwitchAbandoned core s
  | .brimPreempt core => Sys2Proof.Machine.execBrimPreempt core s
  | .brimSuspended core latencyNs => Sys2Proof.Machine.execBrimSuspended core latencyNs s
  | .brimResume core => Sys2Proof.Machine.execBrimResume core s
  | .load core x kslot => Sys2Proof.Machine.execLoad core x kslot s
  | .save core x => Sys2Proof.Machine.execSave core x s
  | .saveFull core x => Sys2Proof.Machine.execSaveFull core x s
  | .halt core x => Sys2Proof.Machine.execHalt core x s
  | .resume core x => Sys2Proof.Machine.execResume core x s
  | .clear core x => Sys2Proof.Machine.execClear core x s
  | .contextCmdDone core x => Sys2Proof.Machine.execContextCmdDone core x s
  | .coreEnable core => Sys2Proof.Machine.execCoreEnable core s
  | .coreDisable core => Sys2Proof.Machine.execCoreDisable core s
  | .coreDisableDone core => Sys2Proof.Machine.execCoreDisableDone core s
  | .registerWrite p index sub value => Sys2Proof.Machine.execRegisterWrite p index sub value s
  | .guardWrite g value => Sys2Proof.Machine.execGuardWrite g value s
  | .wrcntWrite block value => Sys2Proof.Machine.execWrcntWrite block value s
  | .mcErrWrite stack value => Sys2Proof.Machine.execMcErrWrite stack value s
  | .slotEnable slot => Sys2Proof.Machine.execSlotEnable slot s
  | .slotDisable slot => Sys2Proof.Machine.execSlotDisable slot s
  | .grant producer dst queue share => Sys2Proof.Machine.execGrant producer dst queue share s
  | .creditReturn producer dst queue key => Sys2Proof.Machine.execCreditReturn producer dst queue key s
  | .revoke producer dst queue => Sys2Proof.Machine.execRevoke producer dst queue s
  | .queuePart q => Sys2Proof.Machine.execQueuePart q s
  | .spillCopy slot queue => Sys2Proof.Machine.execSpillCopy slot queue s
  | .schedulerDecision slot => Sys2Proof.Machine.execSchedulerDecision slot s
  | .form => Sys2Proof.Machine.execForm s
  | .dissolve => Sys2Proof.Machine.execDissolve s
  | .resolveFeast => Sys2Proof.Machine.execResolveFeast s
  | .resolveFast => Sys2Proof.Machine.execResolveFast s
  | .formRec child r => Sys2Proof.Machine.execFormRec child r s
  | .formed m => Sys2Proof.Machine.execFormed m s
  | .rejected src m => Sys2Proof.Machine.execRejected src m s
  | .formTimeout => Sys2Proof.Machine.execFormTimeout s
  | .exchPartial slot p => Sys2Proof.Machine.execExchPartial slot p s
  | .factorPart slot p => Sys2Proof.Machine.execFactorPart slot p s
  | .exchDelivery d => Sys2Proof.Machine.execExchDelivery d s
  | .eveFirst child m => Sys2Proof.Machine.execEveFirst child m s
  | .eve child m => Sys2Proof.Machine.execEve child m s
  | .eveTimeout => Sys2Proof.Machine.execEveTimeout s
  | .stepWatchdog => Sys2Proof.Machine.execStepWatchdog s
  | .feast m => Sys2Proof.Machine.execFeast m s
  | .fastRepeat m => Sys2Proof.Machine.execFastRepeat m s
  | .fastSkip m => Sys2Proof.Machine.execFastSkip m s
  | .selfFast => Sys2Proof.Machine.execSelfFast s
  | .watchEvaluation => Sys2Proof.Machine.execWatchEvaluation s
  | .watchTableWrite offset bytes => Sys2Proof.Machine.execWatchTableWrite offset bytes s
  | .packetRoute n => Sys2Proof.Machine.execPacketRoute n s
  | .packetReceive n => Sys2Proof.Machine.execPacketReceive n s
  | .holdTimeout src sunit msgid => Sys2Proof.Machine.execHoldTimeout src sunit msgid s
  | .entryIdleRelease src sunit msgid => Sys2Proof.Machine.execEntryIdleRelease src sunit msgid s
  | .busy sunit msgid p => Sys2Proof.Machine.execBusy sunit msgid p s
  | .busyResend sunit msgid => Sys2Proof.Machine.execBusyResend sunit msgid s
  | .errorRsp sunit msgid status => Sys2Proof.Machine.execErrorRsp sunit msgid status s
  | .ack sunit msgid node => Sys2Proof.Machine.execAck sunit msgid node s
  | .linkFrame port f => Sys2Proof.Machine.execLinkFrame port f s
  | .nak port ack => Sys2Proof.Machine.execNak port ack s
  | .linkRetry port => Sys2Proof.Machine.execLinkRetry port s
  | .train port peerNode peerDir peerIndex => Sys2Proof.Machine.execTrain port peerNode peerDir peerIndex s
  | .trainingAttemptTimeout port => Sys2Proof.Machine.execTrainingAttemptTimeout port s
  | .creditSync port free lastSeq => Sys2Proof.Machine.execCreditSync port free lastSeq s
  | .absent port => Sys2Proof.Machine.execAbsent port s
  | .absentEnd port => Sys2Proof.Machine.execAbsentEnd port s
  | .fportEnable port => Sys2Proof.Machine.execFportEnable port s
  | .fportDisable port => Sys2Proof.Machine.execFportDisable port s
  | .loadOpen => Sys2Proof.Machine.execLoadOpen s
  | .loadSeal => Sys2Proof.Machine.execLoadSeal s
  | .switchEdition => Sys2Proof.Machine.execSwitchEdition s
  | .startDrain => Sys2Proof.Machine.execStartDrain s
  | .forceRetire => Sys2Proof.Machine.execForceRetire s
  | .drain src => Sys2Proof.Machine.execDrain src s
  | .drainReply node current infl acc => Sys2Proof.Machine.execDrainReply node current infl acc s
  | .retire edition => Sys2Proof.Machine.execRetire edition s
  | .drainTimeout => Sys2Proof.Machine.execDrainTimeout s
  | .expert slot m => Sys2Proof.Machine.execExpert slot m s
  | .expertSettle slot xseq => Sys2Proof.Machine.execExpertSettle slot xseq s
  | .settle slot m => Sys2Proof.Machine.execSettle slot m s
  | .expertReturn slot m => Sys2Proof.Machine.execExpertReturn slot m s
  | .reshardTransfer core rid off bytes => Sys2Proof.Machine.execReshardTransfer core rid off bytes s
  | .notice core rid total => Sys2Proof.Machine.execNotice core rid total s
  | .patrolScrub stack => Sys2Proof.Machine.execPatrolScrub stack s
  | .jortoOpen m keySlot events => Sys2Proof.Machine.execJortoOpen m keySlot events s
  | .jortoClose m => Sys2Proof.Machine.execJortoClose m s
  | .jortoWrite m => Sys2Proof.Machine.execJortoWrite m s
  | .jortoReadReq m => Sys2Proof.Machine.execJortoReadReq m s
  | .stepDoorbell m => Sys2Proof.Machine.execStepDoorbell m s
  | .wordDoorbell m => Sys2Proof.Machine.execWordDoorbell m s
  | .jortoAck m => Sys2Proof.Machine.execJortoAck m s
  | .jortoRto session => Sys2Proof.Machine.execJortoRto session s
  | .sessionIdle session => Sys2Proof.Machine.execSessionIdle session s
  | .arpRequest port target => Sys2Proof.Machine.execArpRequest port target s
  | .neighborSolicitation port target => Sys2Proof.Machine.execNeighborSolicitation port target s
  | .echoRequest port dst v6 data => Sys2Proof.Machine.execEchoRequest port dst v6 data s
  | .frameDiscard port => Sys2Proof.Machine.execFrameDiscard port s
  | .hostLinkDown port => Sys2Proof.Machine.execHostLinkDown port s
  | .portEnWrite port en => Sys2Proof.Machine.execPortEnWrite port en s
  | .dorubRead r tid index sub => Sys2Proof.Machine.execDorubRead r tid index sub s
  | .dorubWrite r tid index sub value => Sys2Proof.Machine.execDorubWrite r tid index sub value s
  | .multiWrite r tid entries => Sys2Proof.Machine.execMultiWrite r tid entries s
  | .describe r tid index sub => Sys2Proof.Machine.execDescribe r tid index sub s
  | .blockReadStart r tid index sub => Sys2Proof.Machine.execBlockReadStart r tid index sub s
  | .blockReadSeg r tid xfer offset len => Sys2Proof.Machine.execBlockReadSeg r tid xfer offset len s
  | .blockWriteStart r tid index sub size => Sys2Proof.Machine.execBlockWriteStart r tid index sub size s
  | .blockWriteSeg r tid xfer offset bytes => Sys2Proof.Machine.execBlockWriteSeg r tid xfer offset bytes s
  | .blockWriteEnd r tid xfer crc => Sys2Proof.Machine.execBlockWriteEnd r tid xfer crc s
  | .blockAbort r tid xfer => Sys2Proof.Machine.execBlockAbort r tid xfer s
  | .blockTransferIdle xfer => Sys2Proof.Machine.execBlockTransferIdle xfer s
  | .heartbeat => Sys2Proof.Machine.execHeartbeat s
  | .profileSave r profile => Sys2Proof.Machine.execProfileSave r profile s
  | .profileSaveDone => Sys2Proof.Machine.execProfileSaveDone s
  | .selectNext r profile => Sys2Proof.Machine.execSelectNext r profile s
  | .defaults r profile => Sys2Proof.Machine.execDefaults r profile s
  | .cancelNext r => Sys2Proof.Machine.execCancelNext r s
  | .powerSample milliwatts railMilliwatts => Sys2Proof.Machine.execPowerSample milliwatts railMilliwatts s
  | .capLoop => Sys2Proof.Machine.execCapLoop s
  | .pkgCapWrite watts => Sys2Proof.Machine.execPkgCapWrite watts s
  | .levelChangeDone => Sys2Proof.Machine.execLevelChangeDone s
  | .dutyChange => Sys2Proof.Machine.execDutyChange s
  | .thermalLoop junction stack => Sys2Proof.Machine.execThermalLoop junction stack s
  | .thermalTrip die tj ts => Sys2Proof.Machine.execThermalTrip die tj ts s
  | .droop core => Sys2Proof.Machine.execDroop core s
  | .droopRecovery core stretchedNs => Sys2Proof.Machine.execDroopRecovery core stretchedNs s
  | .regTrip die rail => Sys2Proof.Machine.execRegTrip die rail s
  | .refclkLoss => Sys2Proof.Machine.execRefclkLoss s
  | .lanternDown m => Sys2Proof.Machine.execLanternDown m s
  | .lanternBeacon => Sys2Proof.Machine.execLanternBeacon s
  | .lanternCall m => Sys2Proof.Machine.execLanternCall m s
  | .lanternReply child m => Sys2Proof.Machine.execLanternReply child m s
  | .lanternSet m => Sys2Proof.Machine.execLanternSet m s
  | .lanternSettle => Sys2Proof.Machine.execLanternSettle s
  | .coldReset powerOn railInRange => Sys2Proof.Machine.execColdReset powerOn railInRange s
  | .coldStart inp => Sys2Proof.Machine.execColdStart inp s
  | .dieReleaseTimeout die => Sys2Proof.Machine.execDieReleaseTimeout die s
  | .warmReset r => Sys2Proof.Machine.execWarmReset r s
  | .warmResetDone => Sys2Proof.Machine.execWarmResetDone s
  | .dieTest testMode die inp => Sys2Proof.Machine.execDieTest testMode die inp s
  | .bypass die => Sys2Proof.Machine.execBypass die s
  | .samplePreload die cells => Sys2Proof.Machine.execSamplePreload die cells s
  | .extest die => Sys2Proof.Machine.execExtest die s
  | .idcode die => Sys2Proof.Machine.execIdcode die s
  | .clamp die => Sys2Proof.Machine.execClamp die s
  | .recordHandling die => Sys2Proof.Machine.execRecordHandling die s
  | .errAck seq => Sys2Proof.Machine.execErrAck seq s
  | .lostCountWrite sev => Sys2Proof.Machine.execLostCountWrite sev s
  | .fwVerify r => Sys2Proof.Machine.execFwVerify r s
  | .fwActivate r => Sys2Proof.Machine.execFwActivate r s
  | .commitSvn r => Sys2Proof.Machine.execCommitSvn r s
  | .fwChunk r n bytes => Sys2Proof.Machine.execFwChunk r n bytes s
  | .fwMinSvn r value => Sys2Proof.Machine.execFwMinSvn r value s
  | .attNonce r nonce => Sys2Proof.Machine.execAttNonce r nonce s
  | .attReportReady r => Sys2Proof.Machine.execAttReportReady r s
  | .authOpen r sig => Sys2Proof.Machine.execAuthOpen r sig s
  | .authClose r => Sys2Proof.Machine.execAuthClose r s
  | .authIdle => Sys2Proof.Machine.execAuthIdle s
  | .transfer r rec => Sys2Proof.Machine.execTransfer r rec s
  | .lease r rec => Sys2Proof.Machine.execLease r rec s
  | .endLease r rec => Sys2Proof.Machine.execEndLease r rec s
  | .refurbish r rec => Sys2Proof.Machine.execRefurbish r rec s
  | .finish r rec => Sys2Proof.Machine.execFinish r rec s
  | .retireRecord r rec => Sys2Proof.Machine.execRetireRecord r rec s
  | .keyLoad r rec => Sys2Proof.Machine.execKeyLoad r rec s
  | .erase r value => Sys2Proof.Machine.execErase r value s
  | .eraseDone => Sys2Proof.Machine.execEraseDone s
  | .slot0Secret r bytes => Sys2Proof.Machine.execSlot0Secret r bytes s
  | .debugToken r bytes => Sys2Proof.Machine.execDebugToken r bytes s
  | .ledgerCommit => Sys2Proof.Machine.execLedgerCommit s
  | .stackFail stack => Sys2Proof.Machine.execStackFail stack s
  | .hostLinkUp port => Sys2Proof.Machine.execHostLinkUp port s
  | .manufacturingTest => Sys2Proof.Machine.execManufacturingTest s
  | .trstnRelease sel => Sys2Proof.Machine.execTrstnRelease sel s
  | .privateInstruction die code => Sys2Proof.Machine.execPrivateInstruction die code s
  | .plcaCollision => Sys2Proof.Machine.execPlcaCollision s

end Sys2Proof.Machine
end

