-- ==== Sys2Proof/WellFormed.lean ====
section
/-! DEFINITION. Which commands are well formed: each names units that the part has, and each operand lies in the range that its place in
chapters 5 to 19 allows. A command that names a unit the part does not have does nothing (log entry 135); an operand
out of range reaches the block as no datagram, word or packet could carry it. -/

namespace Sys2Proof

/-- Kinds of unit that a command can name, with the number it names (R2, R10, R16, R17, R18). -/
inductive Named where
  | core (n : Nat)
  | slot (n : Nat)
  | port (n : Nat)
  | stack (n : Nat)
  | die (n : Nat)
  | block (n : Nat)
  | host (p : NetPort)
  deriving DecidableEq, Repr

/-- The register block of a number, if the part has it (Table 15.8, R347). -/
def hasBlock (p : Part) (b : Nat) : Bool :=
  b < Config.cores p || (0x60 ≤ b && b < 0x60 + Config.stackCount p) || (0x80 ≤ b && b < 0x80 + Config.ports p) ||
    (0xA0 ≤ b && b < 0xA0 + Config.slots p) || b == 0xB0 || b == 0xB1 || b == 0xB2 || (0xC0 ≤ b && b < 0xC0 + Config.dies p) ||
    b == 0xC8 || (0x100 ≤ b && b < 0x100 + Config.cores p)

/-- The part has the unit. -/
def Named.ok (p : Part) : Named → Bool
  | .core n => n < Config.cores p
  | .slot n => n < Config.slots p
  | .port n => n < Config.ports p
  | .stack n => n < Config.stackCount p
  | .die n => n < Config.dies p
  | .block n => hasBlock p n
  | .host q => q != .mgt

/-- The unit that a command names, where it names one that must be there for the command to act. -/
def Instr.unit : Instr → Option Named
  | .bundleIssue n | .operationDispatch n _ _ | .operationComplete n _ _ => some (.core n)
  | .mzero n _ | .mmul n _ | .mdrain n _ | .vscan n _ | .venc n _ | .vcvt n _ | .vlds n _ | .vldr n _ | .vew n _ | .vdtab n _
  | .vred n _ | .vopt n _ | .vrng n _ | .smov n _ | .scpy n _ | .sput n _ | .sget n _ | .sline n _ | .qpush n _ | .qpop n _
  | .satom n _ | .swait n _ | .snote n _ | .sreduce n _ | .smcast n _ | .xdisp n _ | .xcomb n _ | .reshard n _ => some (.core n)
  | .li n _ _ _ | .addR n _ _ _ | .subR n _ _ _ | .andR n _ _ _ | .orR n _ _ _ | .xorR n _ _ _ | .shl n _ _ _ | .shr n _ _ _
  | .sra n _ _ _ | .addi n _ _ _ | .cmp n _ _ _ _ | .br n _ _ _ _ | .waitc n _ _ | .dwr n _ _ _ | .time n _ | .rdsr n _ _
  | .flagclr n | .endIssue n => some (.core n)
  | .brimActivate n | .switchAbandoned n | .brimPreempt n | .brimSuspended n _ | .brimResume n | .load n _ _ | .save n _ | .saveFull n _
  | .halt n _ | .resume n _ | .clear n _ | .contextCmdDone n _ | .coreEnable n | .coreDisable n | .coreDisableDone n
  | .droop n | .droopRecovery n _ | .reshardTransfer n _ _ _ | .notice n _ _ => some (.core n)
  | .guardWrite (.block b) _ | .wrcntWrite b _ => some (.block b)
  | .mcErrWrite k _ | .patrolScrub k | .stackFail k => some (.stack k)
  | .slotEnable k | .slotDisable k | .grant k _ _ _ | .creditReturn k _ _ _ | .revoke k _ _ | .spillCopy k _ | .schedulerDecision k
  | .exchPartial k _ | .factorPart k _ | .expert k _ | .expertSettle k _ | .settle k _ | .expertReturn k _ => some (.slot k)
  | .queuePart q => some (.slot q.slot)
  | .linkFrame p _ | .nak p _ | .linkRetry p | .train p _ _ _ | .trainingAttemptTimeout p | .creditSync p _ _ | .absent p | .absentEnd p
  | .fportEnable p | .fportDisable p => some (.port p)
  | .dieReleaseTimeout d | .dieTest _ d _ | .bypass d | .samplePreload d _ | .extest d | .idcode d | .clamp d | .recordHandling d
  | .thermalTrip d _ _ | .regTrip d _ | .privateInstruction d _ => some (.die d)
  | .portEnWrite q _ => some (.host q)
  | .registerWrite _ _ _ _ | .guardWrite .pkg _ | .form | .dissolve | .resolveFeast | .resolveFast | .formRec _ _ | .formed _
  | .rejected _ _ | .formTimeout | .exchDelivery _ | .eveFirst _ _ | .eve _ _ | .eveTimeout | .stepWatchdog | .feast _ | .fastRepeat _
  | .fastSkip _ | .selfFast | .watchEvaluation | .watchTableWrite _ _ | .packetRoute _ | .packetReceive _ | .holdTimeout _ _ _
  | .entryIdleRelease _ _ _ | .busy _ _ _ | .busyResend _ _ | .errorRsp _ _ _ | .ack _ _ _ | .loadOpen | .loadSeal | .switchEdition
  | .startDrain | .forceRetire | .drain _ | .drainReply _ _ _ _ | .retire _ | .drainTimeout | .jortoOpen _ _ _ | .jortoClose _
  | .jortoWrite _ | .jortoReadReq _ | .stepDoorbell _ | .wordDoorbell _ | .jortoAck _ | .jortoRto _ | .sessionIdle _ | .arpRequest _ _
  | .neighborSolicitation _ _ | .echoRequest _ _ _ _ | .frameDiscard _ | .hostLinkDown _ | .dorubRead _ _ _ _ | .dorubWrite _ _ _ _ _
  | .multiWrite _ _ _ | .describe _ _ _ _ | .blockReadStart _ _ _ _ | .blockReadSeg _ _ _ _ _ | .blockWriteStart _ _ _ _ _
  | .blockWriteSeg _ _ _ _ _ | .blockWriteEnd _ _ _ _ | .blockAbort _ _ _ | .blockTransferIdle _ | .heartbeat | .profileSave _ _
  | .profileSaveDone | .selectNext _ _ | .defaults _ _ | .cancelNext _ | .powerSample _ _ | .capLoop | .pkgCapWrite _ | .levelChangeDone
  | .dutyChange | .thermalLoop _ _ | .refclkLoss | .lanternDown _ | .lanternBeacon | .lanternCall _ | .lanternReply _ _ | .lanternSet _
  | .lanternSettle | .coldReset _ _ | .coldStart _ | .warmReset _ | .warmResetDone | .errAck _ | .lostCountWrite _ | .fwVerify _
  | .fwActivate _ | .commitSvn _ | .fwChunk _ _ _ | .fwMinSvn _ _ | .attNonce _ _ | .attReportReady _ | .authOpen _ _ | .authClose _
  | .authIdle | .transfer _ _ | .lease _ _ | .endLease _ _ | .refurbish _ _ | .finish _ _ | .retireRecord _ _ | .keyLoad _ _ | .erase _ _
  | .eraseDone | .slot0Secret _ _ | .debugToken _ _ | .ledgerCommit | .hostLinkUp _ | .manufacturingTest | .trstnRelease _
  | .plcaCollision => none

/-- A lane of a partial over so many ranks: a code sum in its two widths, short of the escape marker (R230). -/
def Lane.fits (ranks : Nat) : Lane → Bool
  | .code c => c.natAbs < if ranks ≤ 256 then 2 ^ 15 else 2 ^ 31
  | .esc _ => true

/-- Ranges of the operands of the control slot (Tables 6.13, 6.14): five-bit registers, two-bit lanes and counters, three-bit predicates and
conditions, eight-bit descriptor numbers. -/
def Instr.fieldsOk : Instr → Bool
  | .li _ gd lane _ => gd < 32 && lane < 4
  | .addR _ gd ga gb | .subR _ gd ga gb | .andR _ gd ga gb | .orR _ gd ga gb | .xorR _ gd ga gb | .shl _ gd ga gb | .shr _ gd ga gb
  | .sra _ gd ga gb => gd < 32 && ga < 32 && gb < 32
  | .addi _ gd ga _ => gd < 32 && ga < 32
  | .cmp _ pd cond ga gb => pd < 8 && cond < 8 && ga < 32 && gb < 32
  | .br _ p _ _ _ => p < 8
  | .waitc _ kind ga => kind < 4 && ga < 32
  | .dwr _ di ga pd => di < 256 && ga < 32 && pd < 8
  | .time _ gd => gd < 32
  | .rdsr _ gd sel => gd < 32 && sel < 32
  | .load _ _ k => k < 64
  | .creditSync _ free lastSeq => free.length == 8 && lastSeq < 4096
  | .nak _ a => a < 4096
  | .linkFrame _ f => f.slots.length ≤ 4 && f.raw.length == 256 && f.codewords.all (· ≤ 544) && f.control.toNat / 2 ^ 92 % 8 ≤ 1
  | .exchPartial _ p => p.lanes.all (Lane.fits p.ranks)
  | .fwChunk _ n b => 1 ≤ n && n ≤ 64 && b.length == 131072
  | .attNonce _ b | .slot0Secret _ b => b.length == 32
  | .transfer _ b | .lease _ b | .endLease _ b | .refurbish _ b | .finish _ b | .retireRecord _ b => b.length == 896
  | .keyLoad _ b => b.length == 416
  | .debugToken _ b => b.length == 448
  | .profileSave _ n | .selectNext _ n | .defaults _ n => n < 4
  | .privateInstruction _ code => code < 256
  | .lostCountWrite sev => sev < 4
  | .regTrip _ r => r.k < 7
  | .dorubRead r _ _ _ => r.env.service == 1 || r.env.service == 0 || 10 < r.env.service
  | .bundleIssue _ | .operationDispatch _ _ _ | .operationComplete _ _ _ | .mzero _ _ | .mmul _ _ | .mdrain _ _ | .vscan _ _
  | .venc _ _ | .vcvt _ _ | .vlds _ _ | .vldr _ _ | .vew _ _ | .vdtab _ _ | .vred _ _ | .vopt _ _ | .vrng _ _ | .smov _ _
  | .scpy _ _ | .sput _ _ | .sget _ _ | .sline _ _ | .qpush _ _ | .qpop _ _ | .satom _ _ | .swait _ _ | .snote _ _ | .sreduce _ _
  | .smcast _ _ | .xdisp _ _ | .xcomb _ _ | .reshard _ _ | .flagclr _ | .endIssue _ | .brimActivate _ | .switchAbandoned _
  | .brimPreempt _ | .brimSuspended _ _ | .brimResume _ | .save _ _ | .saveFull _ _ | .halt _ _ | .resume _ _ | .clear _ _
  | .contextCmdDone _ _ | .coreEnable _ | .coreDisable _ | .coreDisableDone _ | .registerWrite _ _ _ _ | .guardWrite _ _
  | .wrcntWrite _ _ | .mcErrWrite _ _ | .slotEnable _ | .slotDisable _ | .grant _ _ _ _ | .creditReturn _ _ _ _ | .revoke _ _ _
  | .queuePart _ | .spillCopy _ _ | .schedulerDecision _ | .form | .dissolve | .resolveFeast | .resolveFast | .formRec _ _
  | .formed _ | .rejected _ _ | .formTimeout | .factorPart _ _ | .exchDelivery _ | .eveFirst _ _ | .eve _ _
  | .eveTimeout | .stepWatchdog | .feast _ | .fastRepeat _ | .fastSkip _ | .selfFast | .watchEvaluation | .watchTableWrite _ _
  | .packetRoute _ | .packetReceive _ | .holdTimeout _ _ _ | .entryIdleRelease _ _ _ | .busy _ _ _ | .busyResend _ _
  | .errorRsp _ _ _ | .ack _ _ _ | .linkRetry _ | .train _ _ _ _ | .trainingAttemptTimeout _ | .absent _ | .absentEnd _ | .fportEnable _
  | .fportDisable _ | .loadOpen | .loadSeal | .switchEdition | .startDrain | .forceRetire | .drain _ | .drainReply _ _ _ _
  | .retire _ | .drainTimeout | .expert _ _ | .expertSettle _ _ | .settle _ _ | .expertReturn _ _ | .reshardTransfer _ _ _ _
  | .notice _ _ _ | .patrolScrub _ | .jortoOpen _ _ _ | .jortoClose _ | .jortoWrite _ | .jortoReadReq _ | .stepDoorbell _
  | .wordDoorbell _ | .jortoAck _ | .jortoRto _ | .sessionIdle _ | .arpRequest _ _ | .neighborSolicitation _ _
  | .echoRequest _ _ _ _ | .frameDiscard _ | .hostLinkDown _ | .portEnWrite _ _ | .dorubWrite _ _ _ _ _
  | .multiWrite _ _ _ | .describe _ _ _ _ | .blockReadStart _ _ _ _ | .blockReadSeg _ _ _ _ _ | .blockWriteStart _ _ _ _ _
  | .blockWriteSeg _ _ _ _ _ | .blockWriteEnd _ _ _ _ | .blockAbort _ _ _ | .blockTransferIdle _ | .heartbeat | .profileSaveDone
  | .cancelNext _ | .powerSample _ _ | .capLoop | .pkgCapWrite _ | .levelChangeDone | .dutyChange | .thermalLoop _ _
  | .thermalTrip _ _ _ | .droop _ | .droopRecovery _ _ | .refclkLoss | .lanternDown _ | .lanternBeacon
  | .lanternCall _ | .lanternReply _ _ | .lanternSet _ | .lanternSettle | .coldReset _ _ | .coldStart _ | .dieReleaseTimeout _
  | .warmReset _ | .warmResetDone | .dieTest _ _ _ | .bypass _ | .samplePreload _ _ | .extest _ | .idcode _ | .clamp _
  | .recordHandling _ | .errAck _ | .fwVerify _ | .fwActivate _ | .commitSvn _ | .fwMinSvn _ _ | .attReportReady _
  | .authOpen _ _ | .authClose _ | .authIdle | .erase _ _ | .eraseDone | .ledgerCommit | .stackFail _ | .hostLinkUp _
  | .manufacturingTest | .trstnRelease _ | .plcaCollision => true

/-- A command is well formed on a part. -/
def Instr.wf (p : Part) (i : Instr) : Bool :=
  (match i.unit with
    | none => true
    | some u => u.ok p) && i.fieldsOk

end Sys2Proof
end

