-- ==== Sys2Proof/Safety.lean ====
section
/-! DEFINITION. The terms that statements about the block use: the well-formed state, and the outcome of a command. -/

namespace Sys2Proof.Machine

/-- The invariant of the block: the memory is in its one canonical form, so that equal memories are equal data. -/
def State.Inv (s : State) : Prop := Memory.wf s.mem = true

/-- The command answers a next state that has the property. -/
def Completes (i : Instr) (s : State) (P : State → Prop) : Prop := ∃ t, exec i s = .next t ∧ P t

/-! ### The control slot -/

/-- The context that the core issues from (R93). -/
def State.cur (s : State) (n : Nat) : Context := s.ctx n (s.coreSt n).active

/-- The core issues from its active context, and no outstanding QPOP writes one of the registers (R93, R103, R109). -/
def ReadyFor (n : Nat) (regs : List Nat) (s : State) : Prop :=
  n < Config.cores s.part ∧ s.canIssue n = true ∧ ∀ g ∈ regs, ((s.ctx n (s.coreSt n).active).pendingRegs.contains g) = false

/-- The state in which the active context has become `c` by issuing: RUNNING, one control operation more counted (R98, R99), and no
switch under way (R115). Nothing else changes. -/
def State.issuedAs (s : State) (n : Nat) (c : Context) : State :=
  (s.setCtx n (s.coreSt n).active { c with state := .running, cntC := c.cntC + 1 }).setCoreSt n
    { s.coreSt n with switching := false, resumed := false }

/-! ### Operations in their engines -/

/-- The byte at a local address of core memory or shared buffer, or the stored byte of an HBM address. -/
def State.byte (s : State) (a : Nat) : Byte := Table.read 0 a s.mem

/-- Every byte of memory outside the set reads as before. -/
def MemKept (inside : Nat → Prop) (s t : State) : Prop := ∀ a, ¬ inside a → t.byte a = s.byte a

/-- The operation stands dispatched in its engine and can run: its core is there, its opcode is `opc`, and it is neither done nor
suspended nor waiting for its messages (R104, R116). -/
structure Dispatched (n : Nat) (x : Ctx) (k : Eng) (opc : Nat) (f : Flight) (s : State) : Prop where
  core : n < Config.cores s.part
  here : (s.ctx n x).flight k = some f
  live : f.done = false ∧ f.suspended = false ∧ f.awaiting = []
  code : opcodeOf k f.op.word = opc

/-- The place where the operation runs: its core and context, the step and attempt of its issue (R193). -/
def Flight.place (f : Flight) (n : Nat) (x : Ctx) : Place := ⟨n, x, f.op.step, f.op.att⟩

/-- The operation with its completion record (R131). -/
def Flight.ended (f : Flight) (flags : Byte) (status : Nat) : Flight :=
  { f with started := true, blocked := false, done := true, flags := flags, status := status }

/-- The state with the operation's completion record entered, nothing else changed. -/
def State.doneAs (s : State) (n : Nat) (x : Ctx) (k : Eng) (f : Flight) (flags : Byte) (status : Nat) : State :=
  s.modCtx n x (fun c => c.setFlight k (some (f.ended flags status)))

/-- The operation is still there, waiting for the messages it has sent (R143). -/
def State.sentAs (s : State) (n : Nat) (x : Ctx) (k : Eng) (f : Flight) (ids : List Nat) (status : Nat) : State :=
  s.modCtx n x (fun c => c.setFlight k
    (some { f with started := true, blocked := false, awaiting := ids, status := status, done := ids.isEmpty }))

/-- What no matrix or vector operation changes: all of the state but memory, accumulators, scale and rescale entries, totals and live
counts, error records and the contexts. -/
def ComputeKeeps (s t : State) : Prop :=
  t = { s with mem := t.mem, accs := t.accs, srf := t.srf, rescale := t.rescale, tots := t.tots, live := t.live,
               errors := t.errors, ctxs := t.ctxs }

/-- Of the contexts, only this engine's operation has changed: registers, predicates, PC, flags, queues and all other contexts stay. -/
def OnlyFlight (n : Nat) (x : Ctx) (k : Eng) (s t : State) : Prop :=
  (∀ m y, (m, y) ≠ (n, x) → t.ctx m y = s.ctx m y) ∧ t.ctx n x = (s.ctx n x).setFlight k ((t.ctx n x).flight k)

/-- The local address lies in the record of a tile of the tensor, in the context's partition (R130). -/
def State.inTiles (s : State) (w : Place) (d : Desc) (a : Nat) : Prop :=
  ∃ ab ∈ d.tiles, s.partAddr w.core w.x (d.tileOff ab.1 ab.2) ≤ a ∧ a < s.partAddr w.core w.x (d.tileOff ab.1 ab.2) + d.recSize

/-- The local address lies in a range of the context's partition. -/
def State.inRange (s : State) (w : Place) (off n a : Nat) : Prop :=
  s.partAddr w.core w.x off ≤ a ∧ a < s.partAddr w.core w.x off + n

end Sys2Proof.Machine
end

