-- ==== Sys2Proof/Certificates/Slice0/Obligations.lean ====
section
/-! DEFINITION. The statements for the provers. Each docstring names the rules of spec/ that its statement formalises, and what in it is
the model's own choice. -/

open Sys2Proof
open Sys2Proof.Machine

/-! ### Control slot (chapter 6) -/

/-- ADD, SUB, AND, OR, XOR, SHL, SHR and SRA of the control slot (Table 6.14, R147, R148): in a core that issues, with no outstanding
QPOP on the three registers, G(GD) takes the result, PC the next bundle address, and nothing else changes. Shifts use bits [5:0] of G(GB). -/
def Parts.ControlAlu : Prop :=
  ∀ e ∈ ([(Instr.addR, fun a b => a + b), (Instr.subR, fun a b => a - b), (Instr.andR, fun a b => a &&& b), (Instr.orR, fun a b => a ||| b),
      (Instr.xorR, fun a b => a ^^^ b), (Instr.shl, fun a b => a <<< (b.toNat % 64)), (Instr.shr, fun a b => a >>> (b.toNat % 64)),
      (Instr.sra, fun a b => a.sshiftRight (b.toNat % 64))] :
      List ((Nat → Nat → Nat → Nat → Instr) × (Dword → Dword → Dword))),
    ∀ (n gd ga gb : Nat) (s : State), gd < 32 → ga < 32 → gb < 32 → ReadyFor n [ga, gb, gd] s →
      exec (e.1 n gd ga gb) s = .next (s.issuedAs n
        { (s.cur n).setReg gd (e.2 ((s.cur n).reg ga) ((s.cur n).reg gb)) with pc := (s.cur n).pc + 1 })

/-- LI and ADDI (Table 6.14): LI replaces the 16 bits of one lane of G(GD); ADDI adds the sign-extended immediate. -/
def Parts.ControlImmediate : Prop :=
  (∀ (n gd lane : Nat) (imm : Half) (s : State), gd < 32 → lane < 4 → ReadyFor n [gd, gd] s →
      exec (.li n gd lane imm) s = .next (s.issuedAs n
        { (s.cur n).setReg gd (((s.cur n).reg gd &&& ~~~((0xFFFF : Dword) <<< (16 * lane))) ||| (imm.setWidth 64 <<< (16 * lane)))
          with pc := (s.cur n).pc + 1 })) ∧
  (∀ (n gd ga : Nat) (imm : Half) (s : State), gd < 32 → ga < 32 → ReadyFor n [ga, gd] s →
      exec (.addi n gd ga imm) s = .next (s.issuedAs n
        { (s.cur n).setReg gd ((s.cur n).reg ga + imm.signExtend 64) with pc := (s.cur n).pc + 1 }))

/-- The control slot's arithmetic: ADD to SRA, and LI and ADDI (R147, R148, Table 6.14). -/
def Obligations.ControlArithmetic : Prop := Parts.ControlAlu ∧ Parts.ControlImmediate

/-- CMP, BR and WAITC (Table 6.14, R148): CMP writes one predicate; BR adds its signed offset to PC where it is taken and 1 where it is not;
WAITC issues when the counter has reached G(GA) in modulo-2¹⁶ order, changing nothing but PC. -/
def Parts.ControlFlow : Prop :=
  (∀ (n pd cond ga gb : Nat) (s : State), pd < 8 → cond < 6 → ga < 32 → gb < 32 → ReadyFor n [ga, gb] s →
      exec (.cmp n pd cond ga gb) s = .next (s.issuedAs n
        { (s.cur n).setPred pd (cmpHolds cond ((s.cur n).reg ga) ((s.cur n).reg gb)) with pc := (s.cur n).pc + 1 })) ∧
  (∀ (n p : Nat) (sense always : Bool) (off : BitVec 21) (s : State), p < 8 → ReadyFor n [] s →
      exec (.br n p sense always off) s = .next (s.issuedAs n
        { s.cur n with pc := (s.cur n).pc + if always || (s.cur n).pred p == sense then off.signExtend 64 else 1 })) ∧
  (∀ (n kind ga : Nat) (s : State), kind < 4 → ga < 32 → ReadyFor n [ga] s →
      ((s.cur n).counter kind - ((s.cur n).reg ga).setWidth 16).toNat < 2 ^ 15 →
      exec (.waitc n kind ga) s = .next (s.issuedAs n { s.cur n with pc := (s.cur n).pc + 1 }))

/-- DWR, TIME, RDSR, FLAGCLR and END (Table 6.14, R103, R149): DWR writes the image of four registers and the predicate that tells whether the
descriptor is usable; TIME reads the die's counter; RDSR a special register; FLAGCLR clears FLAGS and the stream status; END ends
the context, which is IDLE once nothing is outstanding. -/
def Parts.ControlSpecial : Prop :=
  (∀ (n di ga pd : Nat) (s : State), di < 256 → ga ≤ 28 → pd < 8 → ReadyFor n [ga, ga + 1, ga + 2, ga + 3] s →
      s.dwrHeld n (s.cur n) di = false →
      exec (.dwr n di ga pd) s = .next (s.issuedAs n
        { ({ s.cur n with descs := Table.write 0 di (dwrImage (s.cur n) ga) (s.cur n).descs }).setPred pd (descOk (dwrImage (s.cur n) ga))
          with pc := (s.cur n).pc + 1 })) ∧
  (∀ (n gd : Nat) (s : State), gd < 32 → ReadyFor n [gd] s →
      exec (.time n gd) s = .next (s.issuedAs n
        { (s.cur n).setReg gd (BitVec.ofNat 64 (s.counter (n / 24))) with pc := (s.cur n).pc + 1 })) ∧
  (∀ (n gd sel : Nat) (s : State), gd < 32 → sel ≤ 11 → ReadyFor n [gd] s →
      exec (.rdsr n gd sel) s = .next (s.issuedAs n
        { (s.cur n).setReg gd (s.special n (s.coreSt n).active (s.cur n) sel) with pc := (s.cur n).pc + 1 })) ∧
  (∀ (n : Nat) (s : State), ReadyFor n [] s →
      exec (.flagclr n) s = .next (s.issuedAs n { s.cur n with flags := 0, sstat := 0, pc := (s.cur n).pc + 1 })) ∧
  (∀ (n : Nat) (s : State), ReadyFor n [] s →
      exec (.endIssue n) s = .next ((s.setCtx n (s.coreSt n).active
        { s.cur n with pc := (s.cur n).pc + 1, cntC := (s.cur n).cntC + 1, state := if (s.cur n).outstanding then .running else .idle,
                       ended := (s.cur n).outstanding }).setCoreSt n { s.coreSt n with switching := false, resumed := false }))

/-- The control slot's comparisons, branches and waits, and its special operations (R103, R148, R149, Table 6.14). -/
def Obligations.ControlFlowAndSpecial : Prop := Parts.ControlFlow ∧ Parts.ControlSpecial

/-! ### Issue, dispatch and completion (chapters 5 and 6) -/

/-- The fetch of a bundle (R96, R119): from the context's core-memory partition, at 16 times the bundle address; beyond the partition the
context faults with ACCESS, and at an uncorrected error with MEMORY_UC, its PC, registers, predicates and queues as they were. -/
def Obligations.FetchFromPartition : Prop :=
  ∀ (n : Nat) (s : State), n < Config.cores s.part → s.canIssue n = true →
    (16 * (s.cur n).pc.toNat + 16 ≤ s.partSize n (s.coreSt n).active →
      s.coreBad (s.partAddr n (s.coreSt n).active (16 * (s.cur n).pc.toNat)) 16 = false →
      exec (.bundleIssue n) s = .next ((s.issue n (s.coreSt n).active
        (BitVec.ofNat 128 (leNat (s.rawRead (s.partAddr n (s.coreSt n).active (16 * (s.cur n).pc.toNat)) 16)))).countCycle n)) ∧
    (∀ code, s.partSize n (s.coreSt n).active < 16 * (s.cur n).pc.toNat + 16 ∧ code = fAccess ∨
        16 * (s.cur n).pc.toNat + 16 ≤ s.partSize n (s.coreSt n).active ∧
          s.coreBad (s.partAddr n (s.coreSt n).active (16 * (s.cur n).pc.toNat)) 16 = true ∧ code = fMemoryUc →
      ∃ t, exec (.bundleIssue n) s = .next t ∧ MemKept (fun _ => False) s t ∧ (∀ m y, (m, y) ≠ (n, (s.coreSt n).active) → t.ctx m y = s.ctx m y) ∧
        t.ctx n (s.coreSt n).active = { s.cur n with state := .faulted, fault := code, faultAddr := (s.cur n).pc })

/-- A bundle that meets no refusal and no wait issues whole (R97, R98): its operations join their queues in slot order, the control slot's
effect and the next PC come from the registers and predicates as they stood, and memory, accumulators, scale entries and the
other contexts stay. A bundle refused at issue (R119) issues none of its slots: its context becomes FAULTED, with the code and the PC. -/
def Obligations.BundleIssue : Prop :=
  ∀ (n : Nat) (b : Bundle) (s : State), n < Config.cores s.part → s.canIssue n = true →
    16 * (s.cur n).pc.toNat + 16 ≤ s.partSize n (s.coreSt n).active →
    s.coreBad (s.partAddr n (s.coreSt n).active (16 * (s.cur n).pc.toNat)) 16 = false →
    b = BitVec.ofNat 128 (leNat (s.rawRead (s.partAddr n (s.coreSt n).active (16 * (s.cur n).pc.toNat)) 16)) →
    (s.issueEnd n (s.coreSt n).active b = .go →
      ∃ t c, exec (.bundleIssue n) s = .next t ∧ c = t.ctx n (s.coreSt n).active ∧
        c.pc = nextPc (bundleCtl b) (s.cur n) ∧
        (∀ k, c.queue k = (s.cur n).queue k ++ (s.bundleOps (s.cur n) b).filter (fun o => o.eng == k) ∧ c.flight k = (s.cur n).flight k) ∧
        c.regs = (s.ctlEffect n (s.coreSt n).active (bundleCtl b) (s.cur n)).regs ∧
        c.preds = (s.ctlEffect n (s.coreSt n).active (bundleCtl b) (s.cur n)).preds ∧
        c.descs = (s.ctlEffect n (s.coreSt n).active (bundleCtl b) (s.cur n)).descs ∧
        (∀ m y, (m, y) ≠ (n, (s.coreSt n).active) → t.ctx m y = s.ctx m y) ∧
        t.mem = s.mem ∧ t.accs = s.accs ∧ t.srf = s.srf ∧ t.rescale = s.rescale) ∧
    (∀ code, s.issueEnd n (s.coreSt n).active b = .refused code →
      ∃ t, exec (.bundleIssue n) s = .next t ∧
        t.ctx n (s.coreSt n).active = { s.cur n with state := .faulted, fault := code, faultAddr := (s.cur n).pc } ∧
        (∀ m y, (m, y) ≠ (n, (s.coreSt n).active) → t.ctx m y = s.ctx m y) ∧
        t.mem = s.mem ∧ t.accs = s.accs ∧ t.srf = s.srf ∧ t.rescale = s.rescale)

/-- OPERATION_DISPATCH (R104): the front of a queue enters its free engine when no earlier operation of the context conflicts with it, and
nothing else changes; a conflict counts one interlock stall cycle and moves nothing. -/
def Parts.OperationDispatch : Prop :=
  ∀ (n : Nat) (x : Ctx) (k : Eng) (o : Op) (os : List Op) (s : State), n < Config.cores s.part → (s.ctx n x).queue k = o :: os →
    s.up = true → (s.block (blkCore n)).en = true → (s.ctx n x).dispatches = true → s.engineFree n x k = true →
    (s.conflicts n x o = false →
      exec (.operationDispatch n x k) s = .next (s.setCtx n x (((s.ctx n x).setQueue k os).setFlight k (some { op := o })))) ∧
    (s.conflicts n x o = true → exec (.operationDispatch n x k) s = .next (s.bump 0x3250 5 1))

/-- OPERATION_COMPLETE (R99, R131): the operation leaves its engine and the counter of its kind rises by one. Matrix and vector operations
leave their flag word, which is ORed into FLAGS too; a stream operation sets no flag, and a non-zero status replaces SSTAT and queues
a record. A context that only waited for that becomes IDLE or HALTED; that a Brim context under preemption does so when its spill is done is the
model's choice (log entry 100). -/
def Parts.OperationComplete : Prop :=
  ∀ (n : Nat) (x : Ctx) (f : Flight) (s : State) (c : Context), n < Config.cores s.part → c = s.ctx n x → f.done = true →
    (c.fM = some f → f.status = 0 → exec (.operationComplete n x .matrix) s = .next (s.setCtx n x
      (s.settleCtx n x { c with fM := none, lastMatrix := f.flags, flags := c.flags ||| f.flags, cntM := c.cntM + 1 }))) ∧
    (c.fV = some f → f.status = 0 → exec (.operationComplete n x .vector) s = .next (s.setCtx n x
      (s.settleCtx n x { c with fV := none, lastVector := f.flags, flags := c.flags ||| f.flags, cntV := c.cntV + 1 }))) ∧
    (c.fS = some f → f.status = 0 → exec (.operationComplete n x .stream) s = .next (s.setCtx n x
      (s.settleCtx n x { c with fS := none, cntS := c.cntS + 1 }))) ∧
    (c.fS = some f → f.status ≠ 0 → exec (.operationComplete n x .stream) s = .next ((s.setCtx n x
      (s.settleCtx n x { c with fS := none, sstat := f.status, cntS := c.cntS + 1 })).statusRecord n f.op f.status))

/-- An operation's dispatch and its completion (R99, R104, R131). -/
def Obligations.OperationLife : Prop := Parts.OperationDispatch ∧ Parts.OperationComplete

/-! ### The matrix slot (R134 to R137) -/

/-- MZERO (R137): the T tiles from ACC on become +0 with offset 0, code sums 0, re-run count 0 and no overflow bit, with no flags; no other
accumulator and nothing else but the completion record changes. -/
def Parts.MzeroClears : Prop :=
  ∀ (n : Nat) (x : Ctx) (f : Flight) (s : State) (m : MatOp), Dispatched n x .matrix 1 f s → m = matOp f.op.word (f.op.reg 0) →
    ∃ t, exec (.mzero n x) s = .next t ∧ t = { s.doneAs n x .matrix f 0 0 with accs := t.accs } ∧
      (∀ i < m.count, t.acc n (s.accStart n x + m.acc + i) = {}) ∧
      (∀ p j, (∀ i < m.count, 64 * p + j ≠ 64 * n + (s.accStart n x + m.acc + i)) → t.acc p j = s.acc p j)

/-- MMUL without a drain (R134, R135): output tile (i, j) goes to accumulator ACC + i × ⌈N / 64⌉ + j, as the product of the rows of A and the
columns of B that it covers, elements outside the extents being +0; no other accumulator and no byte of memory changes. -/
def Parts.MmulTiles : Prop :=
  ∀ (n : Nat) (x : Ctx) (f : Flight) (s : State) (w : Place) (m : MatOp) (da db : Desc) (M K K' N : Nat),
    Dispatched n x .matrix 2 f s → w = f.place n x → m = matOp f.op.word (f.op.reg 0) → m.dr = false → da = f.op.desc 0 → db = f.op.desc 1 →
    mkn m da db = (M, K, K', N) →
    s.holds w da = true → s.holds w db = true → s.holdsTables w da = true → s.holdsTables w db = true →
    s.readable w da = true → s.readable w db = true →
    ∃ t fl, exec (.mmul n x) s = .next t ∧ (t.ctx n x).flight .matrix = some (f.ended fl 0) ∧ t.mem = s.mem ∧
      (∀ i < ceilDiv M 64, ∀ j < ceilDiv N 64,
        t.acc n (s.accStart n x + m.acc + (i * ceilDiv N 64 + j)) =
          (productTile (s.ctx n x).emulate
            (fun r => (List.range K).map (fun k => if 64 * i + r < M then along (s.readTensor w da).1 m.ta (64 * i + r) k else .zero))
            (fun c => (List.range K).map (fun k => if 64 * j + c < N then along (s.readTensor w db).1 (!m.tb) (64 * j + c) k else .zero))
            (fun r => if (isPlain da.fmt && isPlain db.fmt) && 64 * i + r < M then codeSum (s.readTensor w da).2.1 m.ta (64 * i + r) K else 0)
            (fun c => if (isPlain da.fmt && isPlain db.fmt) && 64 * j + c < N then codeSum (s.readTensor w db).2.1 (!m.tb) (64 * j + c) K else 0)
            (isPlain da.fmt && isPlain db.fmt) K m.add (s.acc n (s.accStart n x + m.acc + (i * ceilDiv N 64 + j)))).1) ∧
      (∀ p q, (∀ i < ceilDiv M 64 * ceilDiv N 64, 64 * p + q ≠ 64 * n + (s.accStart n x + m.acc + i)) → t.acc p q = s.acc p q)

/-- MZERO, and MMUL without a drain (R134, R135, R137). -/
def Obligations.MzeroAndMmul : Prop := Parts.MzeroClears ∧ Parts.MmulTiles

/-- MDRAIN, and MMUL with DR = 1 (R134, R136): the product tiles, then the drain of the M × N tensor DD, with the flags of both; each ends
with its completion record. -/
def Obligations.DrainCompletes : Prop :=
  ∀ (n : Nat) (x : Ctx) (f : Flight) (s : State) (w : Place) (m : MatOp), w = f.place n x → m = matOp f.op.word (f.op.reg 0) →
    drainFits s w m (f.op.desc 2) (f.op.desc 3) = true →
    (Dispatched n x .matrix 3 f s →
      exec (.mdrain n x) s = .next ((drainTiles s w m (f.op.desc 0) (f.op.desc 1) (f.op.desc 2) (f.op.desc 3)).1.doneAs n x .matrix f
        (drainTiles s w m (f.op.desc 0) (f.op.desc 1) (f.op.desc 2) (f.op.desc 3)).2 0)) ∧
    (Dispatched n x .matrix 2 f s → m.dr = true → s.holds w (f.op.desc 0) = true → s.holds w (f.op.desc 1) = true →
      s.holdsTables w (f.op.desc 0) = true → s.holdsTables w (f.op.desc 1) = true →
      s.readable w (f.op.desc 0) = true → s.readable w (f.op.desc 1) = true →
      ∀ p d, p = mmulTiles s w m (f.op.desc 0) (f.op.desc 1) →
        d = drainTiles p.1 w m (f.op.desc 0) (f.op.desc 1) (f.op.desc 2) (f.op.desc 3) →
        exec (.mmul n x) s = .next (d.1.doneAs n x .matrix f (p.2 ||| d.2) 0))

/-- R136, its last sentence: an MMUL with DR = 1 does exactly what an MMUL with DR = 0 followed at once by an MDRAIN with the same fields and
parameter word does, with the flags of both. -/
def Obligations.MmulDrainEquivalence : Prop :=
  ∀ (s : State) (w : Place) (o p q : Op), p = { o with word := o.word &&& ~~~(1#32 <<< 23) } →
    q = { o with word := (o.word &&& ~~~(31#32 <<< 27)) ||| (3#32 <<< 27) } →
    bitOf o.word.toNat 23 = true → drainFits s w (matOp o.word (o.reg 0)) (o.desc 2) (o.desc 3) = true →
    (s.holds w (o.desc 0) && s.holds w (o.desc 1) && s.holdsTables w (o.desc 0) && s.holdsTables w (o.desc 1)) = true →
    (s.readable w (o.desc 0) && s.readable w (o.desc 1)) = true →
    ∃ s1 s2 f1 f2, mmulBody s w p = (s1, .done f1 0) ∧ mdrainBody s1 w q = (s2, .done f2 0) ∧ mmulBody s w o = (s2, .done (f1 ||| f2) 0)

/-! ### The vector slot (R140, R141, R78, R159, R179, R189, R448) -/

/-- VLDS and VLDR (Table 6.8, R77): VLDS loads entry i of the scale vector at AUX, VLDR entry i of the vector at the parameter's offset, bits
unchanged, into consecutive entries of the context's window; no other entry and nothing else but the completion record changes. -/
def Parts.EntryLoads : Prop :=
  (∀ (n : Nat) (x : Ctx) (f : Flight) (s : State) (w : Place) (d : Desc), Dispatched n x .vector 4 f s → w = f.place n x → d = f.op.desc 0 →
      s.holdsScales w d d.entries = true → s.badPart w d.aux (8 * d.entries) = false →
      ∃ t, exec (.vlds n x) s = .next t ∧ t = { s.doneAs n x .vector f 0 0 with srf := t.srf } ∧
        (∀ i < d.entries, t.srfEntry n (s.scaleStart n x + d.srfb + i) = BitVec.ofNat 64 (leNat (s.partRead w (d.aux + 8 * i) 8))) ∧
        (∀ p j, (∀ i < d.entries, 4096 * p + j ≠ 4096 * n + (s.scaleStart n x + d.srfb + i)) → t.srfEntry p j = s.srfEntry p j)) ∧
  (∀ (n : Nat) (x : Ctx) (f : Flight) (s : State) (w : Place) (off first cnt : Nat), Dispatched n x .vector 5 f s → w = f.place n x →
      off = f.op.reg 0 % 2 ^ 48 → first = bitsOf (f.op.reg 0) 52 12 → cnt = bitsOf (f.op.reg 1) 0 13 → s.inPart n x off (8 * cnt) = true →
      s.badPart w off (8 * cnt) = false →
      ∃ t, exec (.vldr n x) s = .next t ∧ t = { s.doneAs n x .vector f 0 0 with rescale := t.rescale } ∧
        (∀ i < cnt, t.rescaleEntry n (s.scaleStart n x + first + i) = BitVec.ofNat 64 (leNat (s.partRead w (off + 8 * i) 8))) ∧
        (∀ p j, (∀ i < cnt, 4096 * p + j ≠ 4096 * n + (s.scaleStart n x + first + i)) → t.rescaleEntry p j = s.rescaleEntry p j))

/-- VSCAN (R78, R79, R112): it runs pass by pass over the tiles of DX, writes the record of each channel at the parameter's offset, derives
the entries of DY where its function asks for it, and ends with its completion record. Where the records do not lie on DX, the 32 bytes of channel
c's record are those of the scan of all of DX as it stood. No byte outside the records changes; without derivation no entry does; and with
derivation and one entry per channel the entry of channel c is the one derived from its record. -/
def Parts.ScanRecords : Prop :=
  ∀ (n : Nat) (x : Ctx) (f : Flight) (s : State) (w : Place) (dx dy : Desc) (off : Nat) (r : State × Array ScanRec) (u t : State),
    Dispatched n x .vector 1 f s → w = f.place n x → dx = f.op.desc 0 → dy = f.op.desc 1 → off = par48 (f.op.reg 0) →
    s.fits w dx = true → s.inPart n x off (32 * dx.channels) = true → s.readable w dx = true →
    r = scanTensor s w dx off → u = r.1.count w dx.tid (scanTally r.2) →
    t = (if vecFn f.op.word % 2 = 1 then deriveEntries u w dy r.2.toList else u).doneAs n x .vector f 0 0 →
    exec (.vscan n x) s = .next t ∧
    ((dx.fmt = 11 → dx.space = 0) → (∀ a, s.inRange w off (32 * dx.channels) a → ¬ s.inTiles w dx a ∧ ¬ (dx.fmt = 11 ∧ s.inRange w dx.aux (16 * dx.channels + 1008) a)) →
      r.2 = dx.tiles.foldl (fun rs ab => scanTile dx ab.1 ab.2 (s.widenTile w dx ab.1 ab.2).1 rs) (Array.replicate dx.channels {}) ∧
      ∀ c < dx.channels, t.partRead w (off + 32 * c) 32 = (r.2.getD c {}).bytes) ∧
    MemKept (s.inRange w off (32 * dx.channels)) s t ∧
    (vecFn f.op.word % 2 = 0 → t.srf = s.srf) ∧
    (vecFn f.op.word % 2 = 1 → dy.scm = true → ∀ c < dx.channels,
      t.srfEntry n (s.scaleStart n x + dy.srfb + c) = (deriveEntry dy.fmt dy.zp (r.2.getD c {})).1)

/-- The loads of scale and rescale entries, and the scan with its records and derived entries (R77 to R81, R112, Table 6.8). -/
def Obligations.EntriesAndScans : Prop := Parts.EntryLoads ∧ Parts.ScanRecords

/-- VENC, VCVT, VEW, VDTAB, VRED and VRNG complete (Table 6.8): on tensors that lie in the partition and read without an uncorrected error, each
ends with its completion record, status 0. -/
def Obligations.VectorCompletes : Prop :=
  ∀ (n : Nat) (x : Ctx) (f : Flight) (s : State) (w : Place) (dx dy dz : Desc), w = f.place n x → dx = f.op.desc 0 → dy = f.op.desc 1 →
    dz = f.op.desc 2 → s.fits w dy = true → s.tablesRead w dy = true →
    (Dispatched n x .vector 2 f s → s.fits w dx = true → s.readable w dx = true → (isPlain dy.fmt = true → s.holdsScales w dy dy.channels = true) →
      ∃ r, r = convertTensor s w dx dy (vecFn f.op.word % 4) ∧
        exec (.venc n x) s = .next ((if isPlain dy.fmt then r.1.storeScales w dy else r.1).doneAs n x .vector f r.2 0)) ∧
    (Dispatched n x .vector 3 f s → s.fits w dx = true → s.readable w dx = true →
      exec (.vcvt n x) s = .next ((convertTensor s w dx dy 0).1.doneAs n x .vector f (convertTensor s w dx dy 0).2 0)) ∧
    (Dispatched n x .vector 6 f s → s.fits w dx = true → s.readable w dx = true →
      (ewBinary (vecFn f.op.word) = true → s.fits w dz = true ∧ s.readable w dz = true) →
      (ewBranch (vecFn f.op.word) (f.op.reg 0) = true → s.inPart n x (par48 (f.op.reg 1)) (planeExtent dy) = true) →
      ∃ r, r = s.mapTiles w dy 0 (fun s a b => ewTile s w (vecFn f.op.word) (fp32.decode (f.op.reg 0 % 2 ^ 32)) dx dy dz
          (ewBranch (vecFn f.op.word) (f.op.reg 0)) (par48 (f.op.reg 1)) a b) ∧
        exec (.vew n x) s = .next (r.1.doneAs n x .vector f r.2 0)) ∧
    (∀ g, Dispatched n x .vector 7 f s → fnOf (vecFn f.op.word) = some g → s.fits w dx = true → s.fits w dz = true →
      s.readable w dx = true → s.readable w dz = true →
      (g = .gelu ∨ g = .silu → s.inPart n x (par48 (f.op.reg 0)) (planeExtent dx) = true ∧ s.badPart w (par48 (f.op.reg 0)) (planeExtent dx) = false) →
      ∃ r, r = s.mapTiles w dy 0 (fun s a b => dtabTile s w g (par48 (f.op.reg 0)) dx dy dz a b) ∧
        exec (.vdtab n x) s = .next ((r.1.bump 0x3260 2 dy.tiles.length).doneAs n x .vector f r.2 0)) ∧
    (Dispatched n x .vector 8 f s → s.fits w dx = true → s.readable w dx = true → (vecFn f.op.word = 2 → s.fits w dz = true ∧ s.readable w dz = true) →
      ∃ r, r = dx.tiles.foldl (redPass w (vecFn f.op.word) (f.op.reg 0 % 2) dx dy dz) (s, 0, #[]) ∧
        exec (.vred n x) s = .next (r.1.doneAs n x .vector f r.2.1 0)) ∧
    (∀ k, Dispatched n x .vector 10 f s → k = (s.ctx n x).cgKey →
      ∃ t fl, exec (.vrng n x) s = .next t ∧ (t.ctx n x).flight .vector = some (f.ended fl 0) ∧ (t.ctx n x).cgKey = k)

/-- VOPT completes (R179, R180): where the block lies in the partition and names usable core-memory descriptors of DX's extents, FP32 for the
gradient and the moments and BF16 for the weight halves, it ends with its completion record; a UF bit that stood stays,
and each byte outside the records of DY, DRO, DM1O and (AM2) DM2O reads as before. -/
def Obligations.VoptCompletes : Prop :=
  ∀ (n : Nat) (x : Ctx) (f : Flight) (s : State) (w : Place) (named : List Nat) (d : Nat → DescImage), Dispatched n x .vector 9 f s → w = f.place n x →
    s.inPart n x (par48 (f.op.reg 0)) 64 = true → s.badPart w (par48 (f.op.reg 0)) 64 = false →
    named = (if vecFn f.op.word = 0 then [0, 1, 2, 3, 4, 5, 6] else [0, 1, 2, 4, 5]) →
    (∀ i, d i = Table.read 0 ((s.partRead w (par48 (f.op.reg 0)) 64).getD i 0).toNat (s.ctx n x).descs) →
    (f.op.desc 0).space = 0 → (f.op.desc 1).space = 0 → (f.op.desc 1).sameExt (f.op.desc 0) = true → (f.op.desc 0).fmt = 0 → (f.op.desc 1).fmt = 1 →
    s.holds w (f.op.desc 0) = true → s.holds w (f.op.desc 1) = true → s.readable w (f.op.desc 0) = true →
    (∀ i ∈ named, i < 4 → s.readable w (descOf (d i)) = true) →
    (∀ i ∈ named, descOk (d i) = true ∧ (descOf (d i)).space = 0 ∧ (descOf (d i)).sameExt (f.op.desc 0) = true ∧
      (descOf (d i)).fmt = (if i = 0 ∨ i = 1 ∨ i = 4 then 1 else 0) ∧ s.holds w (descOf (d i)) = true) →
    ∃ t fl, exec (.vopt n x) s = .next t ∧ (t.ctx n x).flight .vector = some (f.ended fl 0) ∧
      ((s.ctx n x).uflag = true → (t.ctx n x).uflag = true) ∧ t.accs = s.accs ∧ t.srf = s.srf ∧ t.rescale = s.rescale ∧
      ComputeKeeps s t ∧
      MemKept (fun a => s.inTiles w (f.op.desc 1) a ∨ ∃ i ∈ named, 4 ≤ i ∧ s.inTiles w (descOf (d i)) a) s t

/-- The frame of every matrix and vector operation: of the package nothing but memory, accumulators, scale and rescale entries, totals and live
counts, error records and contexts changes; of the contexts nothing but this operation's own record, and for VOPT the UF bit; and for an operation
not ended by a fault each byte outside the records and ranges that the operation stores to reads as before. A drain (MDRAIN, and MMUL with DR = 1)
stores in FP32, BF16 or FP16, the formats that R135 admits. -/
def Obligations.ComputeFrame : Prop :=
  ∀ (n : Nat) (x : Ctx) (f : Flight) (s t : State) (w : Place) (d : Nat → Desc) (m : MatOp), w = f.place n x → d = f.op.desc →
    m = matOp f.op.word (f.op.reg 0) →
    (∀ e ∈ ([(Instr.mzero n x, 1, fun _ => False),
        (Instr.mmul n x, 2, fun a => m.dr = true ∧ (s.inTiles w (d 2) a ∨ m.deriv = true ∧ ∃ ab ∈ (d 2).tiles,
          s.inRange w ((d 3).tileOff ab.1 ab.2) (d 3).recSize a)),
        (Instr.mdrain n x, 3, fun a => s.inTiles w (d 2) a ∨ m.deriv = true ∧ ∃ ab ∈ (d 2).tiles,
          s.inRange w ((d 3).tileOff ab.1 ab.2) (d 3).recSize a)] : List (Instr × Nat × (Nat → Prop))),
      Dispatched n x .matrix e.2.1 f s → (e.2.1 = 3 ∨ e.2.1 = 2 ∧ m.dr = true → (d 2).fmt ≤ 2 ∧ (m.deriv = true → (d 3).fmt ≤ 2)) →
        exec e.1 s = .next t → (t.ctx n x).fM ≠ none →
        ComputeKeeps s t ∧ OnlyFlight n x .matrix s t ∧ MemKept e.2.2 s t) ∧
    (∀ e ∈ ([(Instr.vscan n x, 1, s.inRange w (par48 (f.op.reg 0)) (32 * (d 0).channels)),
        (Instr.venc n x, 2, fun a => s.inTiles w (d 1) a ∨ isPlain (d 1).fmt = true ∧ s.inRange w (d 1).aux (8 * (d 1).channels) a),
        (Instr.vcvt n x, 3, s.inTiles w (d 1)), (Instr.vlds n x, 4, fun _ => False), (Instr.vldr n x, 5, fun _ => False),
        (Instr.vew n x, 6, fun a => s.inTiles w (d 1) a ∨ ewBranch (vecFn f.op.word) (f.op.reg 0) = true ∧ ∃ ab ∈ (d 1).tiles,
          s.inRange w (par48 (f.op.reg 1) + (ab.1 * (d 1).ts + ab.2) * 512) 512 a),
        (Instr.vdtab n x, 7, s.inTiles w (d 1)), (Instr.vred n x, 8, s.inTiles w (d 1)), (Instr.vrng n x, 10, s.inTiles w (d 1))] :
        List (Instr × Nat × (Nat → Prop))),
      Dispatched n x .vector e.2.1 f s → exec e.1 s = .next t → (t.ctx n x).fV ≠ none →
        ComputeKeeps s t ∧ OnlyFlight n x .vector s t ∧ MemKept e.2.2 s t) ∧
    (Dispatched n x .vector 9 f s → exec (.vopt n x) s = .next t → (t.ctx n x).fV ≠ none →
      ComputeKeeps s t ∧ (∀ p y, (p, y) ≠ (n, x) → t.ctx p y = s.ctx p y) ∧
      t.ctx n x = { (s.ctx n x).setFlight .vector (t.ctx n x).fV with uflag := (t.ctx n x).uflag } ∧
      MemKept (fun a => s.inTiles w (d 1) a ∨ ∃ i, 4 ≤ i ∧ (i ≤ 5 ∨ i = 6 ∧ vecFn f.op.word = 0) ∧
        s.inTiles w (descOf (Table.read 0 ((s.partRead w (par48 (f.op.reg 0)) 64).getD i 0).toNat (s.ctx n x).descs)) a) s t)

/-! ### The stream slot (R111 to R113, R142 to R146, R204, R207, R235, R289 to R296) -/

/-- SMOV, SCPY and SWAIT complete (Tables 6.11, 6.12). SCPY between core memory and shared buffer puts exactly the source's bytes at the
destination and changes nothing else; SMOV puts the records of D1 in tile order into the records of D2; SWAIT is done once its
word has reached G(GA + 1), and waits, blocked, until then. Every source byte is read before the first is written, so that regions may overlap: that
is the model's choice (log entry 40). Core memory and shared buffer are read without an uncorrected error. -/
def Obligations.LocalMoves : Prop :=
  ∀ (n : Nat) (x : Ctx) (f : Flight) (s : State) (w : Place), w = f.place n x →
    (∀ src dst, Dispatched n x .stream 2 f s → src = strSub f.op.word % 4 → dst = strSub f.op.word / 4 % 4 → src ≤ 1 → dst ≤ 1 →
      s.reaches w src (f.op.reg 0) (f.op.reg 2) = true → s.reaches w dst (f.op.reg 1) (f.op.reg 2) = true →
      s.coreBad (s.spaceAddr w src (f.op.reg 0)) (f.op.reg 2) = false →
      exec (.scpy n x) s = .next ((s.rawWrite (if dst = 0 then s.partAddr n x (f.op.reg 1) else s.sbAddr n x (f.op.reg 1))
        (s.rawRead (if src = 0 then s.partAddr n x (f.op.reg 0) else s.sbAddr n x (f.op.reg 0)) (f.op.reg 2))).doneAs n x .stream f 0 0)) ∧
    (∀ src dst r bs q, Dispatched n x .stream 2 f s → src = strSub f.op.word % 4 → dst = strSub f.op.word / 4 % 4 →
      s.reaches w src (f.op.reg 0) (f.op.reg 2) = true → s.reaches w dst (f.op.reg 1) (f.op.reg 2) = true →
      r = s.spaceReads w src (f.op.reg 0) (f.op.reg 2) → whole r.2 = some bs → q = r.1.spaceWrite n x dst (f.op.reg 1) bs → q.2 = true →
      exec (.scpy n x) s = .next (q.1.doneAs n x .stream f 0 0)) ∧
    (∀ d1 d2 r bs q, Dispatched n x .stream 1 f s → d1 = f.op.desc 0 → d2 = f.op.desc 1 → s.reachesDesc w d1 = true → s.reachesDesc w d2 = true →
      r = s.recordReads w d1 → whole r.2 = some bs → q = r.1.writeRecords n x d2 0 bs → q.2 = true →
      exec (.smov n x) s = .next (q.1.doneAs n x .stream f 0 0)) ∧
    (∀ sp, Dispatched n x .stream 11 f s → sp = strSub f.op.word % 2 → s.reaches w sp (par48 (f.op.reg 0)) 8 = true →
      s.coreBad (s.spaceAddr w sp (par48 (f.op.reg 0))) 8 = false →
      exec (.swait n x) s = .next
        (if f.op.reg 1 ≤ leNat (s.rawRead (if sp = 0 then s.partAddr n x (par48 (f.op.reg 0)) else s.sbAddr n x (par48 (f.op.reg 0))) 8)
         then s.doneAs n x .stream f 0 0
         else s.modCtx n x (fun c => c.setFlight .stream (some { f with started := true, blocked := true }))))

/-- SPUT, SGET, SLINE and SATOM send (R142, R145, R274, Table 6.11): their messages leave under numbers of the core, and the operation waits for
those messages and no others. SPUT and SLINE carry the records of D1 as WRITE packets (an SPUT with SUB[0] = 1 for the cores of a mask at the
destination's die), SGET asks for the record bytes of D2, in pieces of which each unit of D2 is written whole (the piece boundaries are the
model's choice, log entries 23 and 113), SATOM carries the addend of G(GA + 1). An SLINE that has no other member on its line sends nothing
and is done. -/
def Obligations.RemoteMoves : Prop :=
  ∀ (n : Nat) (x : Ctx) (f : Flight) (s : State) (w : Place) (d1 d2 : Desc), w = f.place n x → d1 = f.op.desc 0 → d2 = f.op.desc 1 →
    (∀ r ps q, Dispatched n x .stream 3 f s → bitOf (strSub f.op.word) 0 = false → s.reachesDesc w d1 = true → r = s.recordReads w d1 →
      r.2.all (·.isSome) = true → ps = r.1.writePackets w (f.op.reg 0 / 2 ^ 48) (f.op.reg 0 % 2 ^ 48) r.2 →
      q = r.1.sendFor w ((messages (f.op.reg 0 % 2 ^ 48) ps).map (fun g => ((g.map (·.1)).headD 0, g.map (·.2.1)))) →
      exec (.sput n x) s = .next (q.1.sentAs n x .stream f q.2 0)) ∧
    (∀ r ps q, Dispatched n x .stream 3 f s → bitOf (strSub f.op.word) 0 = true → s.reachesDesc w d1 = true →
      isCoreAddr (f.op.reg 0 % 2 ^ 48) = true → r = s.recordReads w d1 → r.2.all (·.isSome) = true →
      ps = (r.1.writePackets w (f.op.reg 0 / 2 ^ 48) (f.op.reg 0 % 2 ^ 48) r.2).map (fun p =>
        (p.1, { p.2.1 with mesh := true, cmask := f.op.reg 1 % 2 ^ 24 })) →
      q = r.1.sendFor w ((messages (f.op.reg 0 % 2 ^ 48) ps).map (fun g => ((g.map (·.1)).headD 0, g.map (·.2)))) →
      exec (.sput n x) s = .next (q.1.sentAs n x .stream f q.2 0)) ∧
    (∀ q, Dispatched n x .stream 4 f s → s.reachesDesc w d2 = true →
      q = s.sendFor w ((getPieces (f.op.reg 0 % 2 ^ 48) d2.total).map (fun g =>
        (g.1, [{ s.opPacket w (f.op.reg 0 / 2 ^ 48) (f.op.reg 0 % 2 ^ 48 + g.1) (.readReq g.2) with
          base := f.op.reg 0 % 2 ^ 48, span := d2.total }]))) →
      exec (.sget n x) s = .next (q.1.sentAs n x .stream f q.2 0)) ∧
    (∀ q, Dispatched n x .stream 10 f s →
      q = s.sendFor w [(0, [s.opPacket w (f.op.reg 0 / 2 ^ 48) (f.op.reg 0 % 2 ^ 48) (.atomic (f.op.regs.getD 1 0))])] →
      exec (.satom n x) s = .next (q.1.sentAs n x .stream f q.2 0)) ∧
    (∀ r ps q, Dispatched n x .stream 5 f s → s.reachesDesc w d1 = true → r = s.recordReads w d1 → r.2.all (·.isSome) = true →
      ps = (r.1.writePackets w s.boot.node (f.op.reg 0 % 2 ^ 48) r.2).map (fun p =>
        ({ p.2.1 with line := true, dim := strSub f.op.word % 4, lmask := [s.lineMask (strSub f.op.word % 4)] } : Packet)) →
      q = (messages (f.op.reg 0 % 2 ^ 48) ps).foldl (fun (q : State × List Nat) g =>
        ((q.1.startLine n g (some (n, x)) none).1, q.2 ++ (q.1.startLine n g (some (n, x)) none).2)) (r.1, []) →
      exec (.sline n x) s = .next (if q.2 = [] then q.1.doneAs n x .stream f 0 0 else q.1.sentAs n x .stream f q.2 0))

/-- R113, R142: the packets of an operation carry its bytes in order, none twice and none left out, and no packet crosses a granule of 2 KiB. -/
def Obligations.GranulesPartition : Prop :=
  ∀ (addr : Nat) (bs : List Byte),
    (granules addr bs.length).flatMap (fun g => (bs.drop g.1).take g.2) = bs ∧
    (∀ g ∈ granules addr bs.length, (addr + g.1) % 2048 + g.2 ≤ 2048 ∧ g.1 + g.2 ≤ bs.length)

/-- QPUSH and QPOP (R144, R203, R207, R213). A QPUSH that joins no entry of its outbound table takes a credit, enters the micro-batch in the table
and sends its part; one that joins sends its part and takes no credit; without a credit or a counter it blocks and drops nothing; with
the word of an ended attempt it sends nothing and completes. QPOP copies the part that is next for its position, out of the head area or the spill
region, into D2, writes its word to G(GA) and takes step and attempt from it; a restart word comes before any entry. -/
def Obligations.QueueOps : Prop :=
  ∀ (n : Nat) (x : Ctx) (f : Flight) (s : State) (w : Place) (k : Nat), w = f.place n x → k = coreSlot n → s.slotEn k = true →
    (∀ dst qu key, Dispatched n x .stream 8 f s → s.reachesDesc w (f.op.desc 0) = true → dst = pushDst (f.op.reg 0) → qu = pushQueue (f.op.reg 0) →
      key = mbKey (s.sendWord k (f.op.reg 1)) →
      (mbStep (f.op.reg 1) = (s.ctx n x).step → s.attPast (mbStep (f.op.reg 1)) (s.ctx n x).att = false) →
      (∀ cr r bs q, (s.slot k).credit dst qu = some cr → cr.outbound.contains key = false → 0 < cr.free → r = s.recordReads w (f.op.desc 0) →
        whole r.2 = some bs →
        q = ((r.1.modSlot k (fun v => v.setCredit { cr with free := cr.free - 1, outbound := cr.outbound ++ [key] })).bump (0x3520 + k) 4 1).sendPart w
          dst qu (s.sendWord k (f.op.reg 1)) bs true →
        exec (.qpush n x) s = .next (q.1.endOp n x .stream f q.2)) ∧
      (∀ cr r bs q, (s.slot k).credit dst qu = some cr → cr.outbound.contains key = true → r = s.recordReads w (f.op.desc 0) →
        whole r.2 = some bs → q = r.1.sendPart w dst qu (s.sendWord k (f.op.reg 1)) bs false →
        exec (.qpush n x) s = .next (q.1.endOp n x .stream f q.2)) ∧
      ((∀ cr, (s.slot k).credit dst qu = some cr → cr.outbound.contains key = false ∧ cr.free = 0) → s.noWay dst.node = false →
        exec (.qpush n x) s = .next (s.modCtx n x (fun c => c.setFlight .stream (some { f with started := true, blocked := true }))))) ∧
    (Dispatched n x .stream 8 f s → s.reachesDesc w (f.op.desc 0) = true → mbStep (f.op.reg 1) = (s.ctx n x).step →
      s.attPast (mbStep (f.op.reg 1)) (s.ctx n x).att = true →
      exec (.qpush n x) s = .next ((s.bump (0x3280 + k) 9 1).doneAs n x .stream f 0 0)) ∧
    (∀ word, Dispatched n x .stream 9 f s → (s.slot k).restart.contains (corePos n) = true → word = (s.slot k).restartWord →
      ∃ t, exec (.qpop n x) s = .next t ∧ (t.ctx n x).reg (strGa f.op.word) = word ∧ (t.ctx n x).step = mbStep word.toNat ∧
        (t.ctx n x).att = mbAtt word.toNat ∧ (t.ctx n x).flight .stream = some (f.ended 0 0) ∧
        (t.slot k).restart = (s.slot k).restart.filter (· ≠ corePos n) ∧ t.mem = s.mem) ∧
    (∀ u q e taken p r bs, Dispatched n x .stream 9 f s → (s.slot k).restart.contains (corePos n) = false → s.reachesDesc w (f.op.desc 1) = true →
      u = (if popMode (strSub f.op.word) ≠ 0 ∧ ((s.slot k).nextFor (popMode (strSub f.op.word)) (corePos n)).isNone then
        s.decide k (popMode (strSub f.op.word)) else s) →
      (u.slot k).nextFor (popMode (strSub f.op.word)) (corePos n) = some (q, e, taken) → e.part (corePos n) = some p →
      r = (if p.spilled then u.hbmRead (u.slotKey k) (u.spillAddr k q e.ring (corePos n)) p.size else (u, some p.bytes)) → r.2 = some bs →
      (p.size = (f.op.desc 1).total → (r.1.writeRecords n x (f.op.desc 1) 0 bs).2 = true →
        ∃ t, exec (.qpop n x) s = .next t ∧ (t.ctx n x).reg (strGa f.op.word) = p.word ∧ (t.ctx n x).step = mbStep p.word.toNat ∧
          (t.ctx n x).att = mbAtt p.word.toNat ∧ (t.ctx n x).flight .stream = some (f.ended 0 0) ∧
          t.mem = (r.1.writeRecords n x (f.op.desc 1) 0 bs).1.mem) ∧
      (p.size ≠ (f.op.desc 1).total → exec (.qpop n x) s = .next (u.opFault n x .stream f.op fDescriptor)))

/-- SNOTE, SREDUCE and SMCAST behind their gate (R224, R225, R227, R233, R235 to R237): for the current attempt of a begun exchange, SNOTE reports to
the step agent with NF OR UFLAG and clears UFLAG; SREDUCE of a dense slice sends its leaf (on the SB8 wire where the operation asks for it and the
bank is valid) and is done where another member owns the slice, and writes D2 where the owner holds the sum; SREDUCE of a factor-exchanged
slice sends X of D1 from the first position and gz of D2 from each, and is done where another member owns the slice or every part is there;
SMCAST of a slice that this member owns delivers the new weights to the member slots of the package, ending with ACCESS where the package refuses
the delivery (R303), and down the spanned dimensions. An
operation of an ended attempt does nothing and completes. -/
def Obligations.ExchangeOps : Prop :=
  ∀ (n : Nat) (x : Ctx) (f : Flight) (s : State) (w : Place) (k v : Nat), w = f.place n x → k = coreSlot n → v = f.op.reg 0 →
    (Dispatched n x .stream 12 f s → s.xgate n f.op = .go →
      exec (.snote n x) s = .next (((s.modCtx n x (fun c => { c with uflag := false })).report
        (if strSub f.op.word = 0 then ⟨0, k, corePos n, xwLayer v, xwSlice v⟩ else ⟨1, k, corePos n, 0, 0⟩)
        (xwNf v || (s.ctx n x).uflag)).doneAs n x .stream f 0 0)) ∧
    (∀ e g emu sb8 u r p, Dispatched n x .stream 16 f s → s.xgate n f.op = .go → s.xwEntry k v = some e → e.factor = false →
      g = s.geo k (xwLayer v) e (xwSlice v) (corePos n) → s.ownsSlice k g.slice = false → s.holds w (f.op.desc 0) = true →
      s.readable w (f.op.desc 0) = true → s.group.reports.contains (g.report 3) = false → emu = (s.ctx n x).emulate →
      sb8 = (strSub f.op.word % 2 == 1 && s.bankValid k g.layer g.rd) →
      u = (if strSub f.op.word % 2 = 1 ∧ sb8 = false then s.bump 0x3290 8 1 else s).elems32 w emu (f.op.desc 0) →
      u.1.leaf g emu sb8 (s.attOf f.op.xstep) u.2 = (r, some p) →
      exec (.sreduce n x) s = .next (((r.note (g.report 3)).climb k 18 p).doneAs n x .stream f 0 0)) ∧
    (∀ e g y, Dispatched n x .stream 16 f s → s.xgate n f.op = .go → s.xwEntry k v = some e → e.factor = false →
      g = s.geo k (xwLayer v) e (xwSlice v) (corePos n) → s.ownsSlice k g.slice = true → s.holds w (f.op.desc 0) = true →
      s.readable w (f.op.desc 0) = true → s.holds w (f.op.desc 1) = true → s.group.reports.contains (g.report 3) = true →
      s.group.sums.find? (fun z => z.slot == g.slot && z.layer == g.layer && z.slice == g.slice && z.pos == g.pos && z.att == s.attOf f.op.xstep) = some y →
      exec (.sreduce n x) s = .next (((s.writeSum w (f.op.desc 1)
        (y.lanes.map (fun l => match l with | .esc u => u | .code _ => 0)).toArray).note (g.report 5)).doneAs n x .stream f 0 0)) ∧
    (∀ e g u v2, Dispatched n x .stream 16 f s → s.xgate n f.op = .go → s.xwEntry k v = some e → e.factor = true →
      g = s.geo k (xwLayer v) e (xwSlice v) (corePos n) → s.holds w (f.op.desc 1) = true → s.readable w (f.op.desc 1) = true →
      (s.posIndex k g.pos = 0 → s.holds w (f.op.desc 0) = true ∧ s.readable w (f.op.desc 0) = true) →
      s.group.reports.contains (g.report 3) = false →
      u = (if s.posIndex k g.pos = 0 then s.sendFactor k ⟨g.layer, g.slice, g.pos, s.xchRank k, s.group.exchStep, s.attOf f.op.xstep, false,
        s.recordBytes n x (f.op.desc 0) 0 (f.op.desc 0).total, 0, 0⟩ else s) →
      v2 = (u.sendFactor k ⟨g.layer, g.slice, g.pos, u.xchRank k, u.group.exchStep, s.attOf f.op.xstep, true,
        u.recordBytes n x (f.op.desc 1) 0 (f.op.desc 1).total, 0, 0⟩).note (g.report 3) →
      s.ownsSlice k g.slice = false ∨ v2.factorsIn k g.layer g.slice v2.group.exchStep (s.attOf f.op.xstep) = true →
      exec (.sreduce n x) s = .next (v2.doneAs n x .stream f 0 0)) ∧
    (∀ e g exps r bs u, Dispatched n x .stream 17 f s → s.xgate n f.op = .go → s.xwEntry k v = some e →
      g = s.geo k (xwLayer v) e (xwSlice v) (corePos n) → s.ownsSlice k g.slice = true → s.reachesDesc w (f.op.desc 0) = true →
      e.factor = true ∧ exps = [] ∨ e.factor = false ∧ s.group.reports.contains (g.report 5) = true ∧
        exps = ((s.group.sums.find? (fun z => z.slot == k && z.layer == g.layer && z.slice == g.slice && z.pos == g.pos)).map (·.exps)).getD [] →
      r = s.recordReads w (f.op.desc 0) → whole r.2 = some bs →
      ∀ (del : Delivery) (own : State × Nat), del = ⟨r.1.here k, g.layer, g.slice, g.pos, r.1.group.exchStep, r.1.attOf f.op.xstep, (f.op.desc 1).base,
        (f.op.desc 0).tB * (f.op.desc 0).recSize, (f.op.desc 1).ts * (f.op.desc 1).recSize, bs, exps, e.factor, g.key, 0, 0⟩ →
      own = (if r.1.memberSlots (r.1.here k) = [] then (r.1, 0) else r.1.deliver del) → u = own.1 →
      (own.2 = 1 → exec (.smcast n x) s = .next (u.opFault n x .stream f.op fAccess)) ∧
      (own.2 = 0 → spanned (u.xchNodes k) = [] → exec (.smcast n x) s = .next (u.doneAs n x .stream f 0 0)) ∧
      (∀ d ds q, own.2 = 0 → spanned (u.xchNodes k) = d :: ds →
        q = u.startStages n (some (n, x)) none ds.length
          { dst := u.boot.node, src := 0, sunit := n, cls := 2, key := g.key, addr := (f.op.desc 1).base, line := true, stages := ds.length,
            dim := d, order := ds, lmask := (d :: ds).map (maskOf (u.xchNodes k)), body := .exchDelivery del } →
        exec (.smcast n x) s = .next (if q.2 = [] then q.1.doneAs n x .stream f 0 0 else q.1.sentAs n x .stream f q.2 0))) ∧
    (s.xgate n f.op = .ended → ∀ e ∈ [(Instr.snote n x, 12), (.sreduce n x, 16), (.smcast n x, 17)], Dispatched n x .stream e.2 f s →
      exec e.1 s = .next (s.doneAs n x .stream f 0 0))

/-- XDISP, XCOMB and RESHARD (R289 to R296): XDISP sends the rows of its routing table, or of a settled bank in RETURN mode; XCOMB, once all
holders have settled and all served choices are back, writes the combined records into D2; RESHARD sends its transfers and notices, and
completes with OK or REMOTE_ACCESS by its receiver's byte-count check. -/
def Obligations.ExpertOps : Prop :=
  ∀ (n : Nat) (x : Ctx) (f : Flight) (s : State) (w : Place) (k off : Nat), w = f.place n x → k = coreSlot n → off = par48 (f.op.reg 0) →
    s.mapOver f.op = false → s.inPart n x off 32 = true →
    (∀ h d r ts p q, Dispatched n x .stream 18 f s → s.inPart n x off (s.tableBytes n x off) = true → d = f.op.desc 0 → s.reachesDesc w d = true →
      h = s.routeHead w off → h.ret = false → s.inPart n x h.retOff (s.returnDesc k h.retOff (h.tokens * h.topk)).total = true →
      d.ext0 = h.tokens → d.ext1 = s.obj (0x7600 + k) 7 → d.baxis = true → (∀ c ∈ s.choices w off h, c.expert < s.expCount k) →
      s.badPart w off (s.tableBytes n x off) = false → d.fmt = s.obj (0x7600 + k) 6 → (s.expSources k).findIdx? (fun y => y == s.here k) = some r → s.plainRows w d = (p, .inr ts) →
      q = p.dispatchRows w off h d r ts → exec (.xdisp n x) s = .next (q.1.endOp n x .stream f q.2)) ∧
    (∀ h d b ts p q, Dispatched n x .stream 18 f s → s.inPart n x off (s.tableBytes n x off) = true → d = f.op.desc 0 → s.reachesDesc w d = true →
      s.badPart w off (s.tableBytes n x off) = false → h = s.routeHead w off → h.ret = true → d.ext0 = s.expCap k → d.ext1 = s.obj (0x7600 + k) 9 → d.fmt = s.obj (0x7600 + k) 8 →
      (s.slot k).xbanks.find? (fun b => b.expert == h.lexp && b.xseq == h.xseq && b.step == w.step && b.att == w.att && b.returning == []) = some b →
      s.plainRows w d = (p, .inr ts) → q = p.returnRows w h d b ts → exec (.xdisp n x) s = .next (q.1.endOp n x .stream f q.2)) ∧
    (∀ h rd d1 d2 y tb r bs p c q, Dispatched n x .stream 19 f s → s.inPart n x off (s.tableBytes n x off) = true →
      s.badPart w off (s.tableBytes n x off) = false → h = s.routeHead w off →
      rd = s.returnDesc k h.retOff (h.tokens * h.topk) → d1 = f.op.desc 0 → d2 = f.op.desc 1 → s.reachesDesc w d2 = true →
      s.inPart n x rd.base rd.total = true → d2.ext0 = h.tokens → d2.ext1 = s.obj (0x7600 + k) 9 → isFloat d2.fmt = true →
      (h.res = true → s.reachesDesc w d1 = true ∧ s.reachesTables w d1 = true ∧ descOk (f.op.descs.getD 0 0) = true ∧ d1.sameExt d2 = true) →
      (s.slot k).xsources.find? (fun z => z.xseq == h.xseq && z.step == w.step && z.att == w.att) = some y → s.settledAll k y = true →
      (∀ c ∈ s.choices w off h, c.served = true → y.returned.contains (c.token, c.choice) = true) →
      tb = (if h.res then s.tableReads w d1 else (s, true)) → tb.2 = true → s.badPart w rd.base rd.total = false →
      r = (if h.res then tb.1.recordReads w d1 else (s, [])) → whole r.2 = some bs →
      p = (if h.res then r.1.widenCounts w d1 bs else r.1) →
      c = s.combined w ((s.choices w off h).filter (·.served)) h.topk rd d2 (s.widenAll w rd (s.partRead w rd.base rd.total))
        (if h.res then some (d1, s.widenAll w d1 bs) else none) →
      q = ((p.widenCounts w rd (s.partRead w rd.base rd.total)).count w d2.tid c.2).writeRecords n x d2 0 c.1 → q.2 = true →
      exec (.xcomb n x) s = .next (q.1.doneAs n x .stream f 0 0)) ∧
    (∀ rid dests moves r, Dispatched n x .stream 20 f s → s.inPart n x off (s.planBytes n x off) = true →
      s.badPart w off (s.planBytes n x off) = false → s.reachesDesc w (f.op.desc 0) = true →
      s.reachesDesc w (f.op.desc 1) = true → s.plan w off = (rid, dests, moves) →
      (∀ m ∈ moves, m.src + m.len ≤ (f.op.desc 0).extent ∧ m.dest < dests.length) →
      s.reshards.find? (fun r => r.core == n && r.x == x && r.seq == f.op.seq) = some r →
      (r.sent = false → ∀ q ids, q = (s.checkReshard { r with sent := true }).sendMoves w (f.op.desc 0) rid dests moves → q.2 = .waiting ids 0 → ids ≠ [] →
        exec (.reshard n x) s = .next (q.1.sentAs n x .stream f ids 0)) ∧
      (r.sent = true → r.checked = true → exec (.reshard n x) s = .next (s.doneAs n x .stream f 0 (if r.failed then 1 else 0))))

/-- R111: SMOV, SCPY, SPUT, SGET, SLINE and SWAIT on a region that their context does not reach end with ACCESS before any byte moves: the context
is FAULTED with code 6 and the operation's bundle address (where no fault stood before), the rest of its queue is discarded (R119), and no
byte of memory and no other context changes. -/
def Obligations.StreamAccess : Prop :=
  ∀ (n : Nat) (x : Ctx) (f : Flight) (s : State) (w : Place), w = f.place n x → (s.ctx n x).state ≠ .faulted →
    ¬ ((s.ctx n x).state = .busy ∧ (s.ctx n x).busyAfter = .faulted) →
    ∀ e ∈ ([(Instr.smov n x, 1, s.reachesDesc w (f.op.desc 0) && s.reachesDesc w (f.op.desc 1)),
        (Instr.scpy n x, 2, s.reaches w (strSub f.op.word % 4) (f.op.reg 0) (f.op.reg 2) &&
          s.reaches w (strSub f.op.word / 4 % 4) (f.op.reg 1) (f.op.reg 2)),
        (Instr.sput n x, 3, s.reachesDesc w (f.op.desc 0)), (Instr.sget n x, 4, s.reachesDesc w (f.op.desc 1)),
        (Instr.sline n x, 5, s.reachesDesc w (f.op.desc 0)),
        (Instr.swait n x, 11, s.reaches w (strSub f.op.word % 2) (par48 (f.op.reg 0)) 8)] : List (Instr × Nat × Bool)),
      Dispatched n x .stream e.2.1 f s → e.2.2 = false →
        ∃ t, exec e.1 s = .next t ∧ t.mem = s.mem ∧ (∀ m y, (m, y) ≠ (n, x) → t.ctx m y = s.ctx m y) ∧
          t.ctx n x = { s.ctx n x with state := .faulted, fault := 6, faultAddr := f.op.pc, halting := false, fS := none, qS := [] }

/-! ### Contexts (chapter 5) -/

/-- Activation, abandonment, preemption, suspension and resumption of the Brim context (R115 to R117): activation where Crown waits, is not
ready and Brim is eligible; preemption holds the work in the engines, puts a blocked stream operation back to the front of its queue and gives
Crown the core; a Brim context that has stopped by then is not preempted, the core goes back to Crown (the model's choice, log entry 100);
at the end of the spill the Brim context is SUSPENDED, HALTED where a HALT waits and no operation in its engines is short of its suspension
point, or IDLE where it has ended with nothing outstanding; resumption, while Crown is not ready, puts the stored before-images back into their
tiles and releases the held operations, and the switch lasts until the first bundle issues: a Crown context that becomes ready before abandons it,
and what was released is held again (that it is, is the model's choice, log entry 100). Preemption, suspension and resumption leave the Crown
context and memory as they were. -/
def Obligations.ContextSwitching : Prop :=
  ∀ (n : Nat) (s : State), n < Config.cores s.part →
    (s.coreLive n = true → (s.coreSt n).active = .crown → (s.ctx n .crown).state = .waiting → s.crownReady n = false → s.brimEligible n = true →
      exec (.brimActivate n) s = .next ((s.setCoreSt n { s.coreSt n with active := .brim, switching := true, resumed := false }).bump 0x3250 1 1)) ∧
    (s.coreLive n = true → (s.coreSt n).active = .brim → (s.coreSt n).switching = true → s.crownReady n = true →
      ((s.coreSt n).resumed = false ∨ s.brimLive n = false →
        exec (.switchAbandoned n) s = .next ((s.setCoreSt n { s.coreSt n with active := .crown, switching := false, resumed := false }).bump 0x3250 3 1)) ∧
      ((s.coreSt n).resumed = true → s.brimLive n = true →
        exec (.switchAbandoned n) s = .next (((s.modCtx n .brim Context.preempt).setCoreSt n
          { s.coreSt n with active := .crown, switching := false, resumed := false, preempting := true }).bump 0x3250 3 1))) ∧
    (s.coreLive n = true → (s.coreSt n).active = .brim → (s.coreSt n).switching = false → s.crownReady n = true → s.brimLive n = true →
      ∃ t, exec (.brimPreempt n) s = .next t ∧ (t.coreSt n).active = .crown ∧ (t.coreSt n).preempting = true ∧ t.ctx n .crown = s.ctx n .crown ∧
        (t.ctx n .brim).fM = (s.ctx n .brim).fM.map (fun f => if f.done then f else { f with suspended := true }) ∧
        (t.ctx n .brim).fV = (s.ctx n .brim).fV.map (fun f => if f.done then f else { f with suspended := true }) ∧
        (∀ f, (s.ctx n .brim).fS = some f → f.blocked = true → f.done = false →
          (t.ctx n .brim).fS = none ∧ (t.ctx n .brim).qS = f.op :: (s.ctx n .brim).qS) ∧
        (∀ f, (s.ctx n .brim).fS = some f → f.blocked = false ∨ f.done = true →
          (t.ctx n .brim).fS = some (if f.done then f else { f with suspended := true }) ∧ (t.ctx n .brim).qS = (s.ctx n .brim).qS) ∧
        t.mem = s.mem ∧ t.accs = s.accs ∧ t.tot 0x3250 2 = satAdd 64 (s.tot 0x3250 2) 1) ∧
    (s.coreLive n = true → (s.coreSt n).active = .brim → (s.coreSt n).switching = false → s.crownReady n = true → s.brimLive n = false →
      exec (.brimPreempt n) s = .next (s.setCoreSt n { s.coreSt n with active := .crown })) ∧
    (∀ ns, (s.coreSt n).preempting = true → (s.ctx n .brim).state = .running ∨ (s.ctx n .brim).state = .waiting →
      ∃ t, exec (.brimSuspended n ns) s = .next t ∧ (t.coreSt n).preempting = false ∧
        (t.ctx n .brim).state = (if (s.ctx n .brim).halting && !(s.ctx n .brim).busyFlights then .halted
          else if (s.ctx n .brim).ended && !(s.ctx n .brim).outstanding && !(s.ctx n .brim).halting then .idle else .suspended) ∧
        (t.ctx n .brim).halting = ((s.ctx n .brim).halting && (s.ctx n .brim).busyFlights) ∧
        t.tot 0x3250 4 = min (2 ^ 32 - 1) (max (s.tot 0x3250 4) ns) ∧ t.ctx n .crown = s.ctx n .crown ∧
        (∀ f, (s.ctx n .brim).fM = some f → f.suspended = true → ∀ i ∈ s.roundTiles n f,
          Table.read {} i (t.coreSt n).spill = s.acc n i) ∧ t.mem = s.mem ∧ t.accs = s.accs) ∧
    (s.coreLive n = true → (s.coreSt n).active = .brim → s.crownReady n = false → (s.ctx n .brim).halting = false →
      (s.ctx n .brim).state = .suspended ∨ s.brimHolds n = true →
      ∃ t, exec (.brimResume n) s = .next t ∧ t.ctx n .brim = { (s.ctx n .brim).release with state := .running }.settle ∧
        (t.coreSt n).spill = [] ∧ (t.coreSt n).resumed = true ∧ (t.coreSt n).switching = (s.coreSt n).switching ∧ t.ctx n .crown = s.ctx n .crown ∧ t.mem = s.mem ∧
        (((s.coreSt n).spill.map (·.1)).Nodup → ∀ e ∈ (s.coreSt n).spill, t.acc n e.1 = e.2) ∧
        ∀ i < 64, (∀ e ∈ (s.coreSt n).spill, e.1 ≠ i) → t.acc n i = s.acc n i)

/-- LOAD, SAVE, SAVE_FULL, HALT, RESUME and the end of a context command (R120, R121, Table 5.8), where no MULTI_WRITE waits: a command in a state
that R120 refuses changes nothing but WR_IGNORED (and closes the block's guard, as every write does); HALT of an issuing or SUSPENDED context is
HALTED where its engines are free but for operations at suspension points, and halting until they are, and a Brim context under preemption is halting
until its spill is done; RESUME makes a HALTED context
RUNNING, or IDLE where it has ended with nothing outstanding (its held operations continue at once in a Crown context, and once R115 has activated
it in a Brim context: the model's choice, log entry 100); SAVE and SAVE_FULL make the context BUSY and set CMD_REFUSED where a check refuses them, which the completion of one that no check refused
clears (R124); LOAD takes the record's checks; a BUSY context holds one HALT or CLEAR; when a command is done the context leaves BUSY, and a held HALT acts on the
state it leaves. -/
def Parts.ContextCommands : Prop :=
  ∀ (n : Nat) (x : Ctx) (s u : State) (c : Context), n < Config.cores s.part → s.up = true → s.multiHolds = false → c = s.ctx n x →
    u = s.blkTouch (blkCore n) →
    (∀ e ∈ [(Instr.halt n x, CtxCmd.halt), (.resume n x, .resume), (.save n x, .save), (.saveFull n x, .saveFull)],
      c.state ≠ .busy → e.2.ignored c.state = true →
        exec e.1 s = .next (u.setBlock (blkCore n) { u.block (blkCore n) with wrIgnored := true })) ∧
    (c.state = .running ∨ c.state = .waiting ∨ c.state = .suspended → c.busyFlights = false → x = .crown ∨ (s.coreSt n).preempting = false →
      exec (.halt n x) s = .next (u.setCtx n x { c with state := .halted, halting := false })) ∧
    (c.state = .running ∨ c.state = .waiting ∨ c.state = .suspended → c.busyFlights = true ∨ x = .brim ∧ (s.coreSt n).preempting = true →
      exec (.halt n x) s = .next (u.setCtx n x { c with halting := true })) ∧
    (x = .crown → c.state = .halted → exec (.resume n x) s = .next (u.setCtx n x { c.release with state := .running }.settle)) ∧
    (x = .brim → c.state = .halted → exec (.resume n x) s = .next
      ((u.setCtx n x { c with state := .running }.settle).setCoreSt n { u.coreSt n with active := .crown, switching := false, resumed := false })) ∧
    (∀ e ∈ [(Instr.save n x, false), (.saveFull n x, true)], c.state = .halted ∨ c.state = .idle ∨ c.state = .faulted ∨ c.state = .empty →
      exec e.1 s = .next (((u.saveRecord n x e.2).1.modCtx n x (fun d => { d with state := .busy, busyAfter := d.state })).cmdResult n x
        (u.saveRecord n x e.2).2)) ∧
    (∀ k, c.state = .halted ∨ c.state = .idle ∨ c.state = .faulted ∨ c.state = .empty →
      exec (.load n x k) s = .next (((if (u.loadRecord n x (k % 64)).2 then (u.loadRecord n x (k % 64)).1 else
        (u.loadRecord n x (k % 64)).1.modCtx n x (fun d => { d with state := .busy, busyAfter := d.state })).leaveBrim n x).cmdResult n x
        (u.loadRecord n x (k % 64)).2)) ∧
    (∀ t : State, c.state = .busy → c.held = none → t = s.setCtx n x { c with state := c.busyAfter, busyAfter := .empty, held := none, cmdOk := false }.settle →
      exec (.contextCmdDone n x) s = .next (if c.cmdOk then t.setBlock (blkCore n) { s.block (blkCore n) with cmdRefused := false } else t)) ∧
    (c.state = .busy → c.held = some .halt → c.busyAfter = .idle ∨ c.busyAfter = .faulted ∨ c.busyAfter = .empty ∨ c.busyAfter = .halted →
      ∃ t, exec (.contextCmdDone n x) s = .next t ∧ t.ctx n x = { c with state := c.busyAfter, busyAfter := .empty, held := none, cmdOk := false }) ∧
    (c.state = .busy → c.held = some .halt → c.busyAfter = .running → c.ended = false → c.busyFlights = false → x = .crown ∨ (s.coreSt n).preempting = false →
      ∃ t, exec (.contextCmdDone n x) s = .next t ∧ t.ctx n x = { c with state := .halted, busyAfter := .empty, halting := false, held := none, cmdOk := false }) ∧
    (c.state = .busy → c.held = none → exec (.halt n x) s = .next (u.setCtx n x { c with held := some .halt }))

/-- CLEAR (R120, Table 5.8), where no MULTI_WRITE waits: every byte of the context's partition reads zero, its accumulator tiles are clear, its
scale and rescale entries have their reset values, its registers, descriptors and operations are gone, no message of its operations is left,
and it is BUSY and then EMPTY; the other context of the core, all other bytes and the contexts of all other cores are as before. -/
def Parts.ClearZeroes : Prop :=
  ∀ (n : Nat) (x : Ctx) (s : State), n < Config.cores s.part → s.up = true → s.multiHolds = false → (s.ctx n x).state ≠ .busy →
    ∃ t, exec (.clear n x) s = .next t ∧
      t.ctx n x = { state := .busy, busyAfter := .empty, held := (s.ctx n x).held, cmdAddrLo := (s.ctx n x).cmdAddrLo, cmdAddrHi := (s.ctx n x).cmdAddrHi } ∧
      (∀ m y, (m, y) ≠ (n, x) → t.ctx m y = s.ctx m y) ∧
      (∀ i < s.partSize n x, t.byte (s.partAddr n x i) = 0) ∧
      MemKept (fun a => s.partAddr n x 0 ≤ a ∧ a < s.partAddr n x 0 + s.partSize n x + (if x = .brim then 65536 else 0)) s t ∧
      (∀ i < s.accSize n x, t.acc n (s.accStart n x + i) = {}) ∧
      (∀ p j, 64 * p + j < 64 * n + s.accStart n x ∨ 64 * n + s.accStart n x + s.accSize n x ≤ 64 * p + j → t.acc p j = s.acc p j) ∧
      (∀ i < s.scaleSize n x, t.srfEntry n (s.scaleStart n x + i) = scaleReset ∧ t.rescaleEntry n (s.scaleStart n x + i) = scaleReset) ∧
      (x = .brim → (t.coreSt n).spill = []) ∧ (∀ m ∈ t.sent, m.op ≠ some (n, x)) ∧
      ((s.ctx n x).held = none → ∃ u, exec (.contextCmdDone n x) t = .next u ∧ (u.ctx n x).state = .empty)

/-- The context commands, CLEAR among them (R120, R121, Table 5.8). -/
def Obligations.ContextCommandsAndClear : Prop := Parts.ContextCommands ∧ Parts.ClearZeroes

/-- CORE_ENABLE, CORE_DISABLE and the end of a disable (R109, R120, R351, R451), where no MULTI_WRITE waits: under an unlocked guard an enable that
R109 does not refuse sets EN, a refused one sets CFG_BAD only; a disable halts each context as HALT does (a BUSY one holds the HALT until its
command ends) and is done when no context has a command, an operation in an engine or a spill in progress. With the guard locked neither does
anything but count. -/
def Obligations.CoreEnable : Prop :=
  ∀ (n : Nat) (s : State) (b : Block), n < Config.cores s.part → s.up = true → s.multiHolds = false → b = s.block (blkCore n) →
    (b.guardOpen = false → ∀ i ∈ [Instr.coreEnable n, .coreDisable n],
      exec i s = .next (s.setBlock (blkCore n) { b with guardRefused := satAdd 16 b.guardRefused 1 })) ∧
    (b.guardOpen = true → b.en = false → s.coreCfgBad n = false →
      ∃ t, exec (.coreEnable n) s = .next t ∧ t = { s with blocks := t.blocks } ∧ t.block (blkCore n) = { b with guardOpen := false, en := true, cfgBad := false } ∧
        ∀ c, c ≠ blkCore n → t.block c = s.block c) ∧
    (b.guardOpen = true → b.en = false → s.coreCfgBad n = true →
      ∃ t, exec (.coreEnable n) s = .next t ∧ t = { s with blocks := t.blocks } ∧ t.block (blkCore n) = { b with guardOpen := false, cfgBad := true } ∧
        ∀ c, c ≠ blkCore n → t.block c = s.block c) ∧
    (b.guardOpen = true → b.en = true → (s.coreSt n).disabling = false →
      ∃ t, exec (.coreDisable n) s = .next t ∧
        (∀ x, t.ctx n x = (if (s.ctx n x).state = .busy then { s.ctx n x with held := some ((s.ctx n x).held.getD .halt) } else s.halted n x (s.ctx n x))) ∧
        (t.coreSt n).disabling = true ∧ (t.block (blkCore n)).en = true ∧ t.mem = s.mem) ∧
    ((s.coreSt n).disabling = true → s.ctxQuiet n .crown = true → s.ctxQuiet n .brim = true → s.multi = none → s.heldWrites = [] →
      ∃ t, exec (.coreDisableDone n) s = .next t ∧ (t.block (blkCore n)).en = false ∧ (t.coreSt n).disabling = false ∧ (t.coreSt n).active = .crown)

/-! ### Registers and objects (chapter 15) -/

/-- A write of a CFG word (R109, R353, R354): while the block's CTL.EN is 0 (and a core's contexts are EMPTY) the value is stored, each field at its
nearest bound, and WR_IGNORED clears, WRCNT.WR_IGN keeping its count; otherwise no bit of CFG changes, WR_IGNORED is set and
WRCNT.WR_IGN rises. Either way the write locks the block's guard, and no other block and nothing else of the package changes. -/
def Parts.ConfigurationWrites : Prop :=
  ∀ (b : Nat) (k : BlockKind) (v : Word) (s : State), blockKind s.part b = some k → s.windowOn = true → (s.vigil && k.off) = false → s.multiHolds = false →
    ∃ t, exec (.registerWrite .jorto (0x8000 + b) 1 (leBytes 4 v.toNat)) s = .next t ∧ t = { s with blocks := t.blocks } ∧
      (∀ c, c ≠ b → t.block c = s.block c) ∧
      (s.cfgFree b k = true → t.block b = { s.block b with guardOpen := false, wrIgnored := false, cfg := (cfgStored k v.toNat).1 }) ∧
      (s.cfgFree b k = false →
        t.block b = { s.block b with guardOpen := false, wrIgnored := true, wrIgn := satAdd 16 (s.block b).wrIgn 1 })

/-- Guards (R351): 0x7A5E91C3 unlocks a locked guard, any other value leaves it locked, and every write to an unlocked guard locks it, for the
guard of a block and for PKG_GUARD; a write to WRCNT clears both its counts, and a write to MC_ERR both of its, each locking its block's
guard. Nothing else changes. -/
def Parts.Guards : Prop :=
  ∀ (b : Nat) (k : BlockKind) (v : Word) (s : State), blockKind s.part b = some k → s.windowOn = true → (s.vigil && k.off) = false → s.multiHolds = false →
    exec (.guardWrite (.block b) v) s =
      .next (s.setBlock b { s.block b with guardOpen := !(s.block b).guardOpen && v == 0x7A5E91C3 }) ∧
    exec (.guardWrite .pkg v) s = .next { s with profiles := { s.profiles with guardOpen := !s.profiles.guardOpen && v == 0x7A5E91C3 } } ∧
    (∃ t, exec (.wrcntWrite b v) s = .next t ∧ t = { s with blocks := t.blocks } ∧ (∀ c, c ≠ b → t.block c = s.block c) ∧
      t.block b = { s.block b with guardOpen := false, guardRefused := 0, wrIgn := 0 }) ∧
    (∀ m, k = .mc m → exec (.mcErrWrite m v) s = .next { s.setBlock b { s.block b with guardOpen := false } with mcErr := Table.erase m s.mcErr })

/-- A write of an RW object of 0x2100 to 0x23FF by Dorub (R335, R338, R351): the value is stored at the nearest bound of the object's range, the
package guard locks, and no other object and nothing else changes. -/
def Parts.ObjectWrites : Prop :=
  ∀ (r : Requester) (i sub : Nat) (row : ORow) (bs : List Byte) (s : State), s.dorubOn r = true → s.serves i = true → s.vigil = false → s.multi = none →
    0x2100 ≤ i → i < 0x2400 → indexExists s.part i = true → 0 < sub → sub < 256 → findRow s.part i sub = some row → row.acc = .rw → row.fits bs.length = true →
    (row.typ = .bool → leNat bs ≤ 1) → row.typ ≠ .octets → row.typ ≠ .string →
    ∃ t, exec (.registerWrite (.dorub r) i sub bs) s = .next t ∧ t = { s.pkgTouch with objs := t.objs } ∧
      t.obj i sub = (row.clamp (leNat bs)).1 ∧
      ∀ j q, q < 256 → (j, q) ≠ (i, sub) → t.obj j q = s.obj j q

/-- Writes of CFG words, of guards and counts, and of plain objects (R109, R335, R338, R351 to R355). -/
def Obligations.RegisterWrites : Prop := Parts.ConfigurationWrites ∧ Parts.Guards ∧ Parts.ObjectWrites

/-! ### Memory (chapter 13) -/

/-- PATROL_SCRUB and STACK_FAIL (R301, R314, R316): the scrub rewrites the corrected unit it meets and poisons one that it finds uncorrectable,
counting each once, leaves clean and poisoned units as they are, and moves to the stack's next unit; the loss of a stack is a UF error,
so the package is in Vigil mode. No stored byte changes. -/
def Obligations.ScrubAndFailure : Prop :=
  ∀ (k u : Nat) (s : State), k < Config.stackCount s.part → s.memoryOn k = true → u = s.scrubUnit k →
    (∃ t, exec (.patrolScrub k) s = .next t ∧ t.mem = s.mem ∧
      (∀ v, v ≠ u → t.unitCondOf v = s.unitCondOf v) ∧
      t.unitCondOf u = (match s.unitCondOf u with | .correctable => .clean | .uncorrectable => .poisoned | c => c) ∧
      t.tot (0x3300 + k) 1 = (if s.unitCondOf u = .correctable then satAdd 64 (s.tot (0x3300 + k) 1) 1 else s.tot (0x3300 + k) 1) ∧
      t.tot (0x3300 + k) 2 = (if s.unitCondOf u = .uncorrectable then satAdd 64 (s.tot (0x3300 + k) 2) 1 else s.tot (0x3300 + k) 2) ∧
      Table.read 0 k t.scrubAt = (if Table.read 0 k s.scrubAt + 1 < stackUnits then Table.read 0 k s.scrubAt + 1 else 0)) ∧
    (∃ t, exec (.stackFail k) s = .next t ∧ t.mem = s.mem ∧ t.untrained = s.untrained ++ [k] ∧ t.boot.state = .vigil)

/-! ### Stage slots (chapter 9) -/

/-- SLOT_ENABLE and SLOT_DISABLE (R199, R222, R283, R348, R451, Table 9.6), where no MULTI_WRITE waits; each is a write under both guards. An enable
that a check of R199 or R222 refuses sets CFG_BAD and changes nothing else; one that the declaration refuses sets CFG_BAD and the reason
code, EN, FOOTPRINT and QUOTA staying; one that every check and the declaration pass sets EN, clears CFG_BAD and the reason code, and takes
plan, layer table, footprint and quota; a disable clears EN and empties queues, credits and the version store, and the step agent then looks
whether the package has become locally complete (R241). -/
def Obligations.SlotEnable : Prop :=
  ∀ (k : Nat) (s u : State), k < Config.slots s.part → s.up = true → s.multiHolds = false → u = s.pkgTouch.blkTouch (blkPipe k) →
    (s.slotEn k = false → (u.slotOk k && u.xchOk k) = false → exec (.slotEnable k) s = .next (u.slotBad k)) ∧
    (∀ v es w plan fp, s.slotEn k = false → u.slotOk k = true → u.xchOk k = true → u.layerTable k = (v, some es) → v.declare k es = (w, .ok plan fp) →
      ∃ t, exec (.slotEnable k) s = .next t ∧ t.slotEn k = true ∧ (t.block (blkPipe k)).cfgBad = false ∧ (t.slot k).declReason = 0 ∧
        (t.slot k).plan = plan ∧ (t.slot k).layers = es ∧ (t.slot k).footprint = fp ∧ (t.slot k).quota = unionBytes (w.slotWindows k) ∧
        t.mem = w.mem) ∧
    (∀ v es w code, s.slotEn k = false → u.slotOk k = true → u.xchOk k = true → u.layerTable k = (v, some es) → v.declare k es = (w, .refused code) →
      ∃ t, exec (.slotEnable k) s = .next t ∧ t.slotEn k = false ∧ (t.block (blkPipe k)).cfgBad = true ∧ (t.slot k).declReason = code ∧
        (t.slot k).footprint = (w.slot k).footprint ∧ (t.slot k).quota = (w.slot k).quota) ∧
    (s.slotEn k = true →
      ∃ w : State, exec (.slotDisable k) s = .next w.advance ∧ w.slotEn k = false ∧ (w.slot k).fwd = [] ∧ (w.slot k).bwd = [] ∧ (w.slot k).credits = [] ∧
        (w.slot k).versions = [] ∧ (w.slot k).declReason = (s.slot k).declReason ∧ w.mem = s.mem)

/-- Credits of a producing slot (R203): a first grant opens a counter, where fewer than eight are open; a grant to an open one renews it and
empties its table; a returned credit names its entry, which leaves the table; a revocation deletes the counter. No other slot and no byte of memory
changes. The model's choices: a credit that finds no counter, or whose entry the table does not hold, changes no counter and is counted as received
and revoked (log entry 60), and so are the credits of a ninth grant (log entry 116). -/
def Parts.Credits : Prop :=
  ∀ (k share : Nat) (d : NodeSlot) (q : QKind) (key : EntryKey) (s : State), k < Config.slots s.part → s.up = true →
    ((s.slot k).credit d q = none → (s.slot k).credits.length < 8 →
      ∃ t, exec (.grant k d q share) s = .next t ∧ (t.slot k).credit d q = some { dst := d, queue := q, free := share } ∧
        (∀ j, j ≠ k → t.slot j = s.slot j) ∧ t.mem = s.mem) ∧
    ((s.slot k).credit d q = none → 8 ≤ (s.slot k).credits.length →
      exec (.grant k d q share) s = .next ((s.bump (0x3520 + k) 3 share).bump (0x3520 + k) 6 share)) ∧
    ((s.slot k).credit d q = none →
      exec (.creditReturn k d q key) s = .next ((s.bump (0x3520 + k) 5 1).bump (0x3520 + k) 6 1) ∧ exec (.revoke k d q) s = .next s) ∧
    (∀ c, (s.slot k).credit d q = some c →
      (∃ t, exec (.grant k d q share) s = .next t ∧ (t.slot k).credit d q = some { c with free := share, outbound := [] } ∧
        (∀ j, j ≠ k → t.slot j = s.slot j) ∧ t.mem = s.mem) ∧
      (c.outbound.contains key = true → ∃ t, exec (.creditReturn k d q key) s = .next t ∧
        (t.slot k).credit d q = some { c with free := c.free + 1, outbound := c.outbound.filter (· ≠ key) } ∧
        (∀ j, j ≠ k → t.slot j = s.slot j) ∧ t.mem = s.mem) ∧
      (c.outbound.contains key = false → exec (.creditReturn k d q key) s = .next ((s.bump (0x3520 + k) 5 1).bump (0x3520 + k) 6 1)) ∧
      (∃ t, exec (.revoke k d q) s = .next t ∧ (t.slot k).credit d q = none ∧ (∀ j, j ≠ k → t.slot j = s.slot j) ∧ t.mem = s.mem))

/-- QUEUE_PART, SCHEDULER_DECISION and SPILL_COPY (R202, R205, R206, R209, R213, R214): a part that every check passes and whose units fit opens
its entry in the head area; a part of an ended attempt is discarded and counted, one of a wrong version is discarded with its record, an
oversized one is refused and counted, each returning the credit that it consumed; the scheduler takes the lowest complete backward entry, or,
with fewer than FWD_AHEAD micro-batches in flight, the lowest complete forward one, and marks it selected; a spilled part comes back into the
head area with its bytes. That the version of a part whose step is not due is not compared yet is the model's choice (log entry 59). -/
def Parts.QueueParts : Prop :=
  ∀ (s : State) (k : Nat), k < Config.slots s.part → s.up = true → s.slotEn k = true →
    (∀ p : QueuePart, p.slot = k → (s.producers k p.queue).any (fun e => e.1 == p.producer) = true → p.key = s.slotKey k →
      s.attEnded (mbStep p.word.toNat) (mbAtt p.word.toNat) = false →
      s.wordDue k p.word.toNat = false ∨ s.versionWrong k p.word.toNat = false →
      (s.positions k).contains (mbPart p.word.toNat) = true → p.bytes.length ≤ s.partMax k →
      (∀ e ∈ (s.slot k).queue p.queue, e.key ≠ mbKey p.word.toNat) →
      unitsUsed ((s.slot k).queue p.queue) + partUnits p.bytes.length ≤ s.headUnits k p.queue →
      ∀ ring, freeRing ((s.slot k).queue p.queue) = some ring →
        exec (.queuePart p) s = .next (s.modSlot k (fun v => v.setQueue p.queue ((s.slot k).queue p.queue ++
          [{ ring := ring, key := mbKey p.word.toNat, producer := p.producer,
             parts := [{ pos := mbPart p.word.toNat, word := p.word, size := p.bytes.length, bytes := p.bytes, spilled := false }] }])))) ∧
    (∀ p : QueuePart, p.slot = k → (s.producers k p.queue).any (fun e => e.1 == p.producer) = true → p.key = s.slotKey k →
      (s.attEnded (mbStep p.word.toNat) (mbAtt p.word.toNat) = true →
        exec (.queuePart p) s = .next ((s.bump (0x3280 + k) 9 1).returnOpened k p)) ∧
      (s.attEnded (mbStep p.word.toNat) (mbAtt p.word.toNat) = false → s.wordDue k p.word.toNat = true → s.versionWrong k p.word.toNat = true →
        exec (.queuePart p) s = .next ((s.returnOpened k p).versionError k p.word.toNat)) ∧
      (s.attEnded (mbStep p.word.toNat) (mbAtt p.word.toNat) = false →
        s.wordDue k p.word.toNat = false ∨ s.versionWrong k p.word.toNat = false → s.partMax k < p.bytes.length →
        exec (.queuePart p) s = .next ((s.bump (0x3280 + k) 11 1).returnOpened k p))) ∧
    (∀ e, s.asked k = true → s.lowestEntry k .backward = some e →
      ∃ t, exec (.schedulerDecision k) s = .next t ∧ (t.slot k).decisions = (s.slot k).decisions ++ [⟨0, .backward, e.key⟩] ∧
        (t.slot k).bwd = replaceEntry (s.slot k).bwd { e with selected := true } ∧ (t.slot k).fwd = (s.slot k).fwd ∧
        (t.slot k).flying = (s.slot k).flying.filter (· ≠ e.key)) ∧
    (∀ e, s.asked k = true → s.lowestEntry k .backward = none → s.lowestEntry k .forward = some e → (s.slot k).flying.length < s.fwdAhead k →
      ∃ t, exec (.schedulerDecision k) s = .next t ∧ (t.slot k).decisions = (s.slot k).decisions ++ [⟨0, .forward, e.key⟩] ∧
        (t.slot k).fwd = replaceEntry (s.slot k).fwd { e with selected := true } ∧ (t.slot k).flying = (s.slot k).flying ++ [e.key]) ∧
    (∀ (q : QKind) (e : QEntry) (p : PartSt) (u : State) (bs : List Byte), (s.slot k).queue q = [e] → s.complete? k e = true → e.parts = [p] →
      p.spilled = true → p.popped = false → partUnits p.size + unitsUsed [e] ≤ s.headUnits k q →
      s.hbmRead (s.slotKey k) (s.spillAddr k q e.ring p.pos) p.size = (u, some bs) →
      ∃ t, exec (.spillCopy k q) s = .next t ∧ (t.slot k).queue q = [{ e with parts := [{ p with bytes := bs, spilled := false }] }])

/-- Credits of the pipeline, and queue parts with what the scheduler does about them. -/
def Obligations.CreditsAndQueues : Prop := Parts.Credits ∧ Parts.QueueParts

/-! ### The step group and the commit (chapter 10) -/

/-- FORM, DISSOLVE and the resolutions (R220, R221, R246), where no MULTI_WRITE waits: in doubt, FORM and DISSOLVE change nothing but REASON (6) and
the package guard; a member list that fails its check gives REJECTED with MEMBER_LIST (4); a group of one whose record is sound is ACTIVE at
once, at FIRST_STEP, version 0; a child's rejection that comes before the member's own FORM is kept for it (the model's choice, log entry 63); a
resolution of a stalled group applies its outcome to the step in doubt and clears IN_DOUBT. What a resolution leaves besides, RESOLVE_FAST in
LAST_OUTCOME as a Fast-repeat and either in STATE STALLED, is the model's choice (log entry 64). -/
def Parts.GroupCommands : Prop :=
  ∀ (s u : State), s.up = true → s.multiHolds = false → u = s.pkgTouch →
    (s.group.inDoubt = true → ∀ i ∈ [Instr.form, .dissolve], exec i s = .next { u with group := { s.group with reason := 6 } }) ∧
    (s.group.inDoubt = false →
      (∃ t, exec .dissolve s = .next t ∧ t.group.state = .none ∧ t.mem = s.mem) ∧
      ((s.obj 0x7000 3 ≤ s.obj 0x7000 4 ∨ (s.oct 0x7000 5).length ≠ 2 * s.obj 0x7000 3 ∨ ¬ s.memberList.Nodup ∨
          s.memberList.getD (s.obj 0x7000 4) 65536 ≠ s.boot.node) →
        ∃ t, exec .form s = .next t ∧ t.group.state = .rejected ∧ t.group.reason = 4) ∧
      (s.obj 0x7000 3 = 1 → s.obj 0x7000 4 = 0 → s.memberList = [s.boot.node] → (s.oct 0x7000 5).length = 2 →
          s.objInt 0x7300 3 ≤ s.objInt 0x7300 4 →
        ∃ t, exec .form s = .next t ∧ t.group.state = .active ∧ t.group.exchStep = s.obj 0x7000 10 ∧ t.group.version = 0 ∧ t.group.atts = [] ∧
          t.group.expValid = [] ∧ t.group.lossExp = max (s.objInt 0x7300 3) (min (s.objInt 0x7300 4) (s.objInt 0x7300 2)) ∧ t.mem = s.mem)) ∧
    (∀ child m, s.stopped = true → m.groupId = s.obj 0x7000 2 → exec (.rejected child m) s = .next { s with group :=
      { s.group with childRejects := s.group.childRejects.filter (fun e => e.1 ≠ child) ++ [(child, m.groupId, m.reason)] } }) ∧
    (s.group.inDoubt = true → s.group.state = .stalled → ∀ e ∈ [(Instr.resolveFeast, 3), (.resolveFast, 4)],
      ∃ t, exec e.1 s = .next t ∧ t.group.inDoubt = false ∧ t.group.lastKind = e.2 ∧ t.group.lastStep = s.group.exchStep ∧
        t.group.lastAtt = s.attOf s.group.exchStep ∧ t.group.version = s.group.version + (if e.2 = 3 then 1 else 0) ∧ t.group.state = .stalled)

/-- FORM_REC, FORMED, REJECTED and FORM_TIMEOUT (R220, R375): a child's record is held until every child has answered; the last one at the root,
with no difference, forms the group; FORMED makes a forming member ACTIVE with version 0, attempt 0, FIRST_STEP, its loss scale and
no valid exponent bank, and Lantern's epoch 0 at its own level; a rejection or the timeout leaves REJECTED with the reason. -/
def Parts.GroupFormation : Prop :=
  ∀ (s : State) (g : Group), s.up = true → g = s.group → g.state = .forming →
    (∀ child r, r.groupId = g.id → g.formSent = false → (∃ c ∈ g.children, c ≠ child ∧ (∀ e ∈ g.childRecs, e.1 ≠ c) ∧ (∀ e ∈ g.childRejects, e.1 ≠ c)) →
      exec (.formRec child r) s = .next { s with group := { g with childRecs := g.childRecs.filter (fun e => e.1 ≠ child) ++ [(child, r)] } }) ∧
    (∀ child r, r.groupId = g.id → g.formSent = false → g.rank = 0 → g.childRejects = [] →
      (∀ c ∈ g.children, c = child ∨ ∃ e ∈ g.childRecs, e.1 = c) →
      recordReason s.ownRecord (((g.childRecs.filter (fun e => e.1 ≠ child) ++ [(child, r)]).filter (fun e => g.children.contains e.1)).map (·.2)) = 0 →
      ∃ t, exec (.formRec child r) s = .next t ∧ t.group.state = .active) ∧
    (∀ m, g.rank ≠ 0 → m.groupId = g.id →
      ∃ t, exec (.formed m) s = .next t ∧ t.group.state = .active ∧ t.group.version = 0 ∧ t.group.exchStep = g.firstStep ∧ t.group.atts = [] ∧
        t.group.expValid = [] ∧ t.group.lossExp = max g.lsMin (min g.lsMax g.lsInit) ∧ t.power.epoch = 0 ∧ t.power.groupLevel = s.allowed ∧
        t.power.pendingLevel = s.allowed ∧ t.mem = s.mem) ∧
    (∀ m, g.rank ≠ 0 → m.groupId = g.id →
      ∃ t, exec (.rejected g.parent m) s = .next t ∧ t.group.state = .rejected ∧ t.group.reason = m.reason) ∧
    exec .formTimeout s = .next (State.endExchOps { s with group := { g with state := .rejected, reason := 5, childRecs := [], childRejects := [] } })

/-- Commands to a step group, and the messages that form it. -/
def Obligations.GroupMembership : Prop := Parts.GroupCommands ∧ Parts.GroupFormation

/-- FEAST, FAST_REPEAT and FAST_SKIP at a member (R184, R243, R244): an outcome of its group, step and attempt whose version is the member's own
sets LAST_OUTCOME and L, moves version, step and attempts as Tables 8.2 and 10.10 set out, and counts; a FAST_REPEAT with STOP stalls the group
with REPEAT_LIMIT (7). A message that is not of the open attempt is counted as stale and changes nothing else. -/
def Parts.Outcomes : Prop :=
  ∀ (s : State) (g : Group) (m : CommitMsg), s.up = true → g = s.group → g.state = .active → g.rank ≠ 0 →
    (s.commitFits m = true → g.exchStep < 2 ^ 32 → ∀ e ∈ [(Instr.feast m, CommitKind.feast, 3), (.fastRepeat m, .fastRepeat, 4), (.fastSkip m, .fastSkip, 5)],
      m.version = g.version + (if e.2.1 = .feast then 1 else 0) → (m.stop = true → e.2.1 = .fastRepeat) →
      ∃ t, exec e.1 s = .next t ∧ t.group.lastStep = g.exchStep ∧ t.group.lastAtt = s.attOf g.exchStep ∧ t.group.lastKind = e.2.2 ∧
        t.group.version = m.version ∧ t.group.lossExp = m.nextL ∧
        t.group.exchStep = (if e.2.1 = .fastRepeat then g.exchStep else stepAdd g.exchStep 1) ∧
        t.attOf g.exchStep = s.attOf g.exchStep + (if e.2.1 = .feast then 0 else 1) ∧
        t.group.clean = (if e.2.1 = .feast then (if g.clean + 1 < g.lsGrowth then g.clean + 1 else 0) else if e.2.1 = .fastRepeat then g.clean else 0) ∧
        t.group.repeats = (if e.2.1 = .fastRepeat then g.repeats + 1 else 0) ∧
        t.group.state = (if m.stop then .stalled else .active) ∧ (m.stop = true → t.group.reason = 7) ∧
        t.group.reports = [] ∧ t.group.eves = [] ∧ t.mem = s.mem) ∧
    (s.commitFits m = false → ∀ i ∈ [Instr.feast m, .fastRepeat m, .fastSkip m], exec i s = .next (s.bump 0x3290 7 1))

/-- Eves and deadlines (R241, R242, R245): EVE_FIRST passes up once in an attempt; an EVE of a child is held until the member is locally complete;
the root that then holds all Eves decides FEAST, or FAST_SKIP where one carries the non-finite flag; at the root EVE_TIMEOUT after a first
EVE_FIRST, and STEP_WATCHDOG, decide FAST_REPEAT; another member's deadline is a self-fast: STALLED, PARTITION (8), in doubt exactly where
it had sent EVE (or was in doubt already), keeping the sums of its owned slices then. -/
def Parts.EvesAndDeadlines : Prop :=
  ∀ (s : State) (g : Group), s.up = true → g = s.group → g.state = .active →
    (∀ child m, s.commitFits m = true → g.children.contains child = true → g.rank ≠ 0 → g.eveFirstSent = false →
      ∃ t, exec (.eveFirst child m) s = .next t ∧ t.group = { g with eveFirstSent := true } ∧ t.sent.length = s.sent.length + 1) ∧
    (∀ child m, s.commitFits m = true → g.children.contains child = true → (∀ e ∈ g.eves, e.1 ≠ child) → s.localComplete = false →
      exec (.eve child m) s = .next { s.bump 0x3540 2 1 with group := { g with eves := g.eves ++ [(child, m.count, m.nfCount)] } }) ∧
    (∀ child m, s.commitFits m = true → g.children.contains child = true → (∀ e ∈ g.eves, e.1 ≠ child) → s.localComplete = true →
      g.rank = 0 → g.eveSent = false → g.nf = false → (∀ c ∈ g.children, c = child ∨ ∃ e ∈ g.eves, e.1 = c) →
      1 + ((g.eves ++ [(child, m.count, m.nfCount)]).map (·.2.1)).sum = g.size →
      ∃ t, exec (.eve child m) s = .next t ∧ t.group.lastStep = g.exchStep ∧
        t.group.lastKind = (if ((g.eves ++ [(child, m.count, m.nfCount)]).map (·.2.2)).sum = 0 then 3 else 5)) ∧
    (g.rank = 0 → g.firstEveKnown = true →
      ∃ t, exec .eveTimeout s = .next t ∧ t.group.lastKind = 4 ∧ t.group.lastStep = g.exchStep ∧ t.group.repeats = g.repeats + 1 ∧ t.group.version = g.version ∧
        t.group.state = (if g.repeatLimit ≤ g.repeats + 1 then .stalled else .active)) ∧
    (g.rank = 0 →
      ∃ t, exec .stepWatchdog s = .next t ∧ t.group.lastKind = 4 ∧ t.group.lastStep = g.exchStep ∧ t.group.repeats = g.repeats + 1 ∧ t.group.version = g.version ∧
        t.group.state = (if g.repeatLimit ≤ g.repeats + 1 then .stalled else .active)) ∧
    (g.rank ≠ 0 →
      ∃ t, exec .selfFast s = .next t ∧ t.group.state = .stalled ∧ t.group.reason = 8 ∧ t.group.partition = true ∧ t.group.version = g.version ∧
        t.group.inDoubt = (g.eveSent || g.inDoubt) ∧
        (t.group.inDoubt = true → t.group.inDoubtStep = g.exchStep ∧ t.group.inDoubtAtt = s.attOf g.exchStep ∧ t.group.sums = g.sums) ∧ t.mem = s.mem)

/-- Outcomes of an attempt, and the Eves and deadlines that decide them. -/
def Obligations.AttemptOutcomes : Prop := Parts.Outcomes ∧ Parts.EvesAndDeadlines

/-- EXCH_PARTIAL, FACTOR_PART and EXCH_DELIVERY (R226, R230, R233, R236, R237, R244, R452): a message of an attempt that is over is counted as stale;
a partial that comes while the member is still forming is held; a partial of a live attempt is passed on to the package that combines its
parent node, or held there for its sibling; a factor part is written into the owner's receive area and remembered where HBM takes it; a
delivery is written row by row, and, where every row and every exponent was taken, reported for every member slot. A part or delivery of which a run
lies in no window of its key slot is isolation (R307) and writes nothing. The runs of either carry its bytes in order, none twice and none left
out, each at its place in its row. -/
def Obligations.ExchangeMessages : Prop :=
  (∀ (row pitch off : Nat) (bs : List Byte), 0 < row →
    (runPieces row pitch off bs.length).flatMap (fun e => (bs.drop e.1).take e.2.2) = bs ∧
    ∀ e ∈ runPieces row pitch off bs.length, e.1 + e.2.2 ≤ bs.length ∧ e.2.1 = (off + e.1) / row * pitch + (off + e.1) % row ∧
      (off + e.1) % row + e.2.2 ≤ row) ∧
  ∀ (s : State) (k : Nat), k < Config.slots s.part → s.up = true →
    (∀ p, s.attOver p.step p.att = true → exec (.exchPartial k p) s = .next (s.bump 0x3290 7 1)) ∧
    (∀ p, s.attOver p.step p.att = false → s.slotEn k = true → s.group.stopped.contains (k, p.layer, p.slice, p.pos) = false →
      s.group.state = .forming →
      exec (.exchPartial k p) s = .next { s with group := { s.group with partials := s.group.partials ++ [⟨k, p⟩] } }) ∧
    (∀ p e, s.attOver p.step p.att = false → s.slotEn k = true → s.group.stopped.contains (k, p.layer, p.slice, p.pos) = false →
      s.group.state = .active → s.layer k p.layer = some e → 1 < ceilDiv (s.xchSize k) (2 ^ p.level) →
      s.xchMember k (s.combiner k p.slice (p.level + 1) (p.index / 2)) = s.here k → Nat.xor p.index 1 < ceilDiv (s.xchSize k) (2 ^ p.level) →
      s.group.partials.find? (fun h => h.fits k p (Nat.xor p.index 1)) = none →
      exec (.exchPartial k p) s = .next { s with group := { s.group with partials := s.group.partials ++ [⟨k, p⟩] } }) ∧
    (∀ p e dst, s.attOver p.step p.att = false → s.slotEn k = true → s.group.stopped.contains (k, p.layer, p.slice, p.pos) = false →
      s.group.state = .active → s.layer k p.layer = some e → 1 < ceilDiv (s.xchSize k) (2 ^ p.level) →
      dst = s.xchMember k (s.combiner k p.slice (p.level + 1) (p.index / 2)) → dst ≠ s.here k →
      exec (.exchPartial k p) s = .next (s.post (unitExch (k / 4)) dst.node (s.slotKey k) (.exchPartial dst.slot p))) ∧
    (∀ f e d tt bx bg base row, ∀ g : RunRegion, s.attOver f.step f.att = false → s.slotEn k = true → s.layer k f.layer = some e →
      d = max 1 (s.xchSize k) → tt = ceilDiv e.tokens 64 → bx = tt * ceilDiv e.rows 64 * factorRec → bg = tt * (e.cols / 64) * factorRec →
      base = e.auxBase + f.slice / d * d * (bx + bg) + f.rank * (bx + bg) → row = (s.sliceCols k e f.pos).2 / 64 * factorRec →
      g = (if f.gz then ⟨base + bx + (s.sliceCols k e f.pos).1 / 64 * factorRec, row, e.cols / 64 * factorRec, tt * row⟩
        else ⟨base, bx, bx, f.off + f.bytes.length⟩) →
      (s.runsAdmit f.key g = .isolation → exec (.factorPart k f) s = .next (s.isolated g.base)) ∧
      (s.runsAdmit f.key g = .closed → exec (.factorPart k f) s = .next s) ∧
      (∀ r, s.runsAdmit f.key g = .ok → r = s.writeRuns f.key g f.off f.bytes → exec (.factorPart k f) s = .next (if r.2 = 0 then
          { r.1 with group := { r.1.group with factors := r.1.group.factors ++ [⟨k, f.layer, f.slice, f.pos, f.rank, f.gz, f.step, f.att⟩] } }
        else r.1))) ∧
    (∀ d, s.attOver d.step d.att = true ∨ s.exchBegun d.step = false → exec (.exchDelivery d) s = .next (s.bump 0x3290 7 1)) ∧
    (∀ d, ∀ g : RunRegion, s.attOver d.step d.att = false → s.exchBegun d.step = true → g = ⟨d.base, d.row, d.pitch, d.whole⟩ →
      (s.runsAdmit d.key g = .isolation → exec (.exchDelivery d) s = .next (s.isolated d.base)) ∧
      (s.runsAdmit d.key g = .closed → exec (.exchDelivery d) s = .next s) ∧
      (∀ r, s.runsAdmit d.key g = .ok → r = s.writeRuns d.key g d.off d.bytes →
        (r.2 ≠ 0 → exec (.exchDelivery d) s = .next r.1) ∧
        (r.2 = 0 → d.factor = true → exec (.exchDelivery d) s =
          .next ((s.memberSlots d.owner).foldl (fun s k => s.report ⟨2, k, d.pos, d.layer, d.slice⟩ false) r.1)) ∧
        (∀ q, r.2 = 0 → d.factor = false →
          q = (s.memberSlots d.owner).foldl (fun (q : State × Nat) k => match q.1.layer k d.layer with
            | none => q
            | some e => ((q.1.writeExps (q.1.geo k d.layer e d.slice d.pos) d.exps).1,
                if (q.1.writeExps (q.1.geo k d.layer e d.slice d.pos) d.exps).2 then q.2 else 4)) (r.1, 0) →
          exec (.exchDelivery d) s = .next (if q.2 = 0 then
            (s.memberSlots d.owner).foldl (fun s k => s.report ⟨2, k, d.pos, d.layer, d.slice⟩ false) q.1 else q.1))))

/-! ### The numerics watch (chapter 8) -/

/-- WATCH_EVALUATION (R193, R194): for the first attempt due whose Crown operations are complete, on Feast and Fast-skip every valid entry takes
the attempt's counts and its streak rises, returns to 0 or stays by the share of zeros, WATCH_STEP is the step, and the live counts are
cleared; on Fast-repeat they are cleared and nothing else happens. -/
def Parts.WatchEvaluation : Prop :=
  ∀ (s : State) (d : WatchDue), s.watchDue.find? (fun d => s.attemptDone d.step d.att) = some d → s.watchNew = [] → Table.wf {} s.watch = true →
    (d.evaluate = false → exec .watchEvaluation s =
      .next { s with live := s.live.filter (fun l => !(l.step == d.step && l.att == d.att)), watchDue := s.watchDue.erase d }) ∧
    (d.evaluate = true →
      ∃ t, exec .watchEvaluation s = .next t ∧ t.live = s.live.filter (fun l => !(l.step == d.step && l.att == d.att)) ∧
        t.watchDue = s.watchDue.erase d ∧ t.tot 0x7500 2 = d.step ∧ t.mem = s.mem ∧
        (∀ e ∈ s.watch, e.2.valid = true →
          t.watchEntry e.1 = { e.2 with
            c := s.liveOf d.step d.att e.1,
            streak := if (s.liveOf d.step d.att e.1).elems = 0 then e.2.streak
              else if e.2.zsPpm * (s.liveOf d.step d.att e.1).elems ≤ (s.liveOf d.step d.att e.1).zeros * 10 ^ 6 then min 65535 (e.2.streak + 1) else 0 }) ∧
        (∀ e ∈ s.watch, e.2.valid = false → e.1 ≠ 0 → t.watchEntry e.1 = e.2))

/-- A host write of one whole watch entry (R192): only TID, VALID and the three limits take it, each at its nearest bound; a changed TID or VALID
sets the streak to 0; and it takes effect at the next evaluation, the entry in force and its counts staying. -/
def Parts.WatchTableWrite : Prop :=
  ∀ (s : State) (i : Nat) (b : List Byte) (w : WatchEntry), s.boot.state = .ready ∨ s.boot.state = .vigil → s.multiHolds = false → i < 1024 →
    b.length = 64 → w = s.watchWritten i →
    ∃ t, exec (.watchTableWrite (64 * i) b) s = .next t ∧ (∀ j, t.watchEntry j = s.watchEntry j) ∧ (∀ j, j ≠ i → t.watchWritten j = s.watchWritten j) ∧
      t.watchWritten i =
        { tid := leNat (b.take 4), valid := bitOf (leNat ((b.drop 4).take 1)) 0,
          zsLimit := max 2 (min 4095 (leNat ((b.drop 6).take 2))), zsPpm := max 500000 (min 1000000 (leNat ((b.drop 8).take 4))),
          satPpm := min 1000000 (leNat ((b.drop 12).take 4)),
          streak := if leNat (b.take 4) ≠ w.tid ∨ bitOf (leNat ((b.drop 4).take 1)) 0 ≠ w.valid then 0 else w.streak, c := w.c }

/-- The evaluation of the numerics watch, and host writes of its table (R192 to R194). -/
def Obligations.WatchTable : Prop := Parts.WatchEvaluation ∧ Parts.WatchTableWrite

/-! ### Power, clocks, Lantern and temperature (chapter 16) -/

/-- R372: the allowed level A is the largest of A_cap, A_th and LEVEL_CEILING, the running level is A outside an ACTIVE group and max(A, G) in one.
Every command that changes an input of the level (a cap period and a thermal period in any state of the group; a DOWN of the current epoch and the
end of the settle time in an ACTIVE one) completes, and decides exactly that level. -/
def Obligations.RunningLevel : Prop :=
  ∀ (s : State) (i : Instr) (junction stack : List Nat) (m : LanternMsg), s.fabricOn = true →
    (i = .capLoop ∧ s.power.samples ≠ 0 ∨ i = .thermalLoop junction stack ∨
      s.group.state = .active ∧ (i = .lanternDown m ∧ m.groupId = s.group.id ∧ m.epoch = s.power.epoch ∨ i = .lanternSettle ∧ s.power.settleDue = true)) →
    ∃ t, exec i s = .next t ∧ t.group.state = s.group.state ∧
      (t.group.state ≠ .active → t.power.target = max t.power.aCap (max t.power.aTh (t.obj 0x2400 2))) ∧
      (t.group.state = .active → t.power.target = max (max t.power.aCap (max t.power.aTh (t.obj 0x2400 2))) t.power.groupLevel)

/-- POWER_SAMPLE, CAP_LOOP, PKG_CAP_WRITE, LEVEL_CHANGE_DONE and DUTY_CHANGE (R366 to R371, Table 18.5): samples add up; at the end of a period,
in Vigil mode too, A_cap rises by one above the cap, falls by one after CAP_UP_HOLD low periods at the running level, and stays otherwise,
CAP_UNMET saying that it could not rise; PKG_CAP takes the nearest bound of its range, a low write being counted; a change of level ends at the
decided point, a change of duty at the next window, in Vigil mode too. -/
def Parts.PowerLoops : Prop :=
  ∀ (s : State) (p : Power), p = s.power →
    (∀ mw rails, ∃ t, exec (.powerSample mw rails) s = .next t ∧ t = { s with power := t.power } ∧ t.power.sampleSum = p.sampleSum + mw ∧
      t.power.samples = p.samples + 1 ∧ t.power.energyNano = p.energyNano + mw ∧ t.power.railPower = rails) ∧
    (s.fabricOn = true ∨ s.vigil = true → p.samples ≠ 0 → ∃ t, exec .capLoop s = .next t ∧ t.power.sampleSum = 0 ∧ t.power.samples = 0 ∧
      (p.capWatts * 1000 * p.samples < p.sampleSum → t.power.aCap = (if p.aCap < 19 then p.aCap + 1 else p.aCap) ∧ t.power.capUnmet = (p.aCap == 19)) ∧
      (p.sampleSum ≤ p.capWatts * 1000 * p.samples → t.power.capUnmet = false ∧
        t.power.aCap = (if p.sampleSum * 100 < p.capWatts * 1000 * p.samples * (100 - s.obj 0x2400 3) ∧ s.obj 0x2400 4 ≤ p.lowPeriods + 1 ∧
          s.running = p.aCap ∧ 0 < p.aCap then p.aCap - 1 else p.aCap)) ∧ t.mem = s.mem) ∧
    (∀ w, s.multiHolds = false →
      ∃ t, exec (.pkgCapWrite w) s = .next t ∧ t.obj 0x2400 1 = max (Config.capFloor s.part) (min (Config.capMax s.part) w) ∧
        t.tot 0x3400 13 = (if w < Config.capFloor s.part then satAdd 64 (s.tot 0x3400 13) 1 else s.tot 0x3400 13) ∧ t.power = p) ∧
    (s.fabricOn = true ∨ s.vigil = true → p.changing = true → exec .levelChangeDone s = .next { s with power := { p with level := min 7 p.target, changing := false } }) ∧
    (s.fabricOn = true ∨ s.vigil = true → exec .dutyChange s = .next { s with power := { p with duty := p.dutyTarget } })

/-- THERMAL_LOOP and the trips (R363, R373, R374, R380, R381, R440, R441): the thermal level follows the highest readings by the three rules of
R380, in Vigil mode too; a critical reading asserts THERMTRIP_N, and it, a regulator trip and the loss of the reference put the package in Vigil
mode; a regulator trips on an input below 5.2 V for 5 µs or above 6.9 V, on an output at 110 % of its set voltage or at the current of Table 20.2,
removing its rail, and not short of these; a droop stretches the core's cycles, counts once, and adds its time when it ends. -/
def Parts.ThermalAndTrips : Prop :=
  (∀ (s : State) (js ks : List Nat) (tj ts : Nat), s.fabricOn = true ∨ s.vigil = true → tj = js.foldl max 0 → ts = ks.foldl max 0 →
    ∃ t, exec (.thermalLoop js ks) s = .next t ∧ t.power.tj = tj ∧ t.power.ts = ts ∧ (t.power.atLimit = true ↔ 105 ≤ tj ∨ 95 ≤ ts) ∧
      t.power.aTh = (if 105 ≤ tj ∨ 95 ≤ ts then 19
        else if s.obj 0x2400 7 ≤ tj ∨ s.obj 0x2400 8 ≤ ts then min 19 (s.power.aTh + 1)
        else if tj + 5 < s.obj 0x2400 7 ∧ ts + 5 < s.obj 0x2400 8 ∧ 10 ≤ s.power.coolPeriods + 1 then s.power.aTh - 1 else s.power.aTh)) ∧
  (∀ (s : State) (die tj ts : Nat), die < Config.dies s.part → 115 ≤ tj ∨ 105 ≤ ts →
    ∃ t, exec (.thermalTrip die tj ts) s = .next t ∧ t.boot.state = .vigil ∧ t.power.thermtrip = true ∧ t.mem = s.mem) ∧
  (∀ (s : State) (die : Nat) (r : RailTrip), die < Config.dies s.part → r.k < 7 →
    ((∃ mv us, r.cause = .inputUnder mv us ∧ mv < 5200 ∧ 5 ≤ us) ∨ (∃ mv, r.cause = .inputOver mv ∧ 6900 < mv) ∨
      (∃ mv, r.cause = .outputOver mv ∧ 110 * railMv die s.power.level r.k ≤ 100 * mv) ∨
      (∃ ma, r.cause = .outputCurrent ma ∧ 1000 * [1100, 150, 110, 10, 100, 120, 12].getD r.k 0 ≤ ma) →
      ∃ t, exec (.regTrip die r) s = .next t ∧ t.boot.state = .vigil ∧ t.power.railsOff = s.power.railsOff ++ [(die, r.k)] ∧
        (die, r.k) ∉ t.power.rails ∧ t.mem = s.mem) ∧
    (∀ mv us ma, (5200 ≤ mv ∨ us < 5 → r.cause = .inputUnder mv us → exec (.regTrip die r) s = .next s) ∧
      (mv ≤ 6900 → r.cause = .inputOver mv → exec (.regTrip die r) s = .next s) ∧
      (100 * mv < 110 * railMv die s.power.level r.k → r.cause = .outputOver mv → exec (.regTrip die r) s = .next s) ∧
      (ma < 1000 * [1100, 150, 110, 10, 100, 120, 12].getD r.k 0 → r.cause = .outputCurrent ma → exec (.regTrip die r) s = .next s))) ∧
  (∀ s : State, ∃ t, exec .refclkLoss s = .next t ∧ t.boot.state = .vigil ∧ t.power.refLost = true ∧ t.power.locked = false ∧ t.mem = s.mem) ∧
  (∀ (s : State) (n ns : Nat), n < Config.cores s.part →
    (s.fabricOn = true → (s.coreSt n).stretched = false →
      exec (.droop n) s = .next ((s.setCoreSt n { s.coreSt n with stretched := true }).bump 0x3400 14 1)) ∧
    ((s.coreSt n).stretched = true →
      exec (.droopRecovery n ns) s = .next ((s.setCoreSt n { s.coreSt n with stretched := false }).bump 0x3400 15 ns)))

/-- Power samples, the cap loop and level changes, the thermal loop and the trips (R363 to R374, R380, R381). -/
def Obligations.PowerAndThermal : Prop := Parts.PowerLoops ∧ Parts.ThermalAndTrips

/-- Lantern's messages in an ACTIVE group (R376 to R378): a DOWN of the epoch raises H, and G with it, one of the next two epochs is kept, any other
counts as stale; a SET of a later epoch moves E, takes H from its level and the kept ones, and raises G at once or leaves the change
to the settle time; a member without children answers a CALL with its own level; the root's beacon opens the next round and sends CALL to its
children; a REPLY of the open round is kept until every child has replied, and one of another round counts as stale (that a late REPLY is told by
a round number is the model's choice, log entry 124). -/
def Obligations.Lantern : Prop :=
  ∀ (s : State) (m : LanternMsg) (p : Power), s.fabricOn = true → s.group.state = .active → m.groupId = s.group.id → p = s.power →
    (m.epoch = p.epoch → ∃ t, exec (.lanternDown m) s = .next t ∧ t.power.pendingLevel = max p.pendingLevel m.level ∧
      t.power.groupLevel = max p.groupLevel (max p.pendingLevel m.level) ∧ t.power.epoch = p.epoch) ∧
    (m.epoch = p.epoch + 1 → exec (.lanternDown m) s = .next { s with power := { p with kept1 := max p.kept1 m.level } }) ∧
    (m.epoch = p.epoch + 2 → exec (.lanternDown m) s = .next { s with power := { p with kept2 := max p.kept2 m.level } }) ∧
    (m.epoch < p.epoch ∨ p.epoch + 2 < m.epoch → exec (.lanternDown m) s = .next (s.bump 0x3400 17 1)) ∧
    (m.epoch ≤ p.epoch → exec (.lanternSet m) s = .next s) ∧
    (∀ h, p.epoch < m.epoch →
      h = max m.level (if m.epoch = p.epoch + 1 then p.kept1 else if m.epoch = p.epoch + 2 then p.kept2 else 0) → s.allowed ≤ h →
      ∃ t, exec (.lanternSet m) s = .next t ∧ t.power.epoch = m.epoch ∧ t.power.pendingLevel = h ∧
        (p.groupLevel ≤ h → t.power.groupLevel = h ∧ t.power.settleDue = false) ∧
        (h < p.groupLevel → t.power.groupLevel = p.groupLevel ∧ t.power.settleDue = true)) ∧
    (p.settleDue = true → ∃ t, exec .lanternSettle s = .next t ∧ t.power.groupLevel = p.pendingLevel ∧ t.power.settleDue = false) ∧
    (s.group.rank = 0 → 1 < s.group.size → ∃ t, exec .lanternBeacon s = .next t ∧ t.power.roundOpen = true ∧ t.power.roundEpoch = p.epoch + 1 ∧
      t.power.roundNo = p.roundNo + 1 ∧ t.power.replies = [] ∧ t.sent.length = s.sent.length + s.group.children.length) ∧
    (s.group.rank ≠ 0 → s.group.size ≤ 2 * s.group.rank + 1 →
      ∃ t, exec (.lanternCall m) s = .next t ∧ t.power.callSeen = none ∧ t.sent.length = s.sent.length + 1 ∧
        ∃ q ∈ t.sent, q.packets.map (·.body) = [.lantern ⟨3, s.allowed, s.group.id, m.epoch, 1, m.round⟩]) ∧
    (∀ child, s.group.rank = 0 → p.roundOpen = true → p.roundEpoch = m.epoch → p.roundNo = m.round → s.group.children.contains child = true →
      (∀ e ∈ p.replies, e.1 ≠ child) →
      (∃ c ∈ s.group.children, c ≠ child ∧ ∀ e ∈ p.replies, e.1 ≠ c) →
      exec (.lanternReply child m) s = .next { s with power := { p with replies := p.replies ++ [(child, m.level, m.count)] } }) ∧
    (∀ child, s.group.rank = 0 → p.roundOpen = false ∨ p.roundEpoch ≠ m.epoch ∨ p.roundNo ≠ m.round →
      exec (.lanternReply child m) s = .next (s.bump 0x3400 17 1))

/-! ### Expert exchange and resharding (chapter 12) -/

/-- R290: a holder selects the offered rows of an expert by a round-robin over the source ranks, from the start rank on. It serves EXP_CAP rows
or every offer, whichever is fewer; the rows of each rank are the first of its offers, in their order, which is ascending by token and choice
whatever order its message had; the start rank's first offer is served first; and no rank is served two rows more than another that still has an offer. -/
def Obligations.ExpertSelection : Prop :=
  (∀ (h : XHold) (e n : Nat), (h.offers e n).length = n ∧ ∀ r < n,
    ((h.offers e n).getD r []).Perm (((h.msgs.filter (fun m => m.rank == r)).flatMap (·.rows)).filter (fun x => x.expert == e)) ∧
    ((h.offers e n).getD r []).Pairwise (fun x y => x.token < y.token ∨ x.token = y.token ∧ x.choice ≤ y.choice)) ∧
  ∀ (cap start total : Nat) (os : List (List ExpertRow)) (out : List (Nat × ExpertRow)), start < os.length → total = (os.map (·.length)).sum →
    out = serve ((total + 1) * (os.length + 1)) cap start os →
    out.length = min cap total ∧
    (∀ r < os.length, ∃ rest, (out.filter (fun x => x.1 == r)).map (·.2) ++ rest = os.getD r []) ∧
    (∀ x rest, os.getD start [] = x :: rest → 0 < cap → out.head? = some (start, x)) ∧
    (∀ p q, p < os.length → q < os.length → (out.filter (fun x => x.1 == p)).length < (os.getD p []).length →
      (out.filter (fun x => x.1 == q)).length ≤ (out.filter (fun x => x.1 == p)).length + 1)

/-- Expert messages (R289 to R294): a dispatch is held under its XSEQ, step and attempt, once for each rank, is counted as stale after its
attempt, and is turned away (BUSY) while another XSEQ holds its bank; a settled XSEQ leaves the holds, its banks list the rows served, every
source gets SETTLE with its unserved pairs, and the ready words rise; a source marks its choices once every holder has settled; returned
rows go to the return area. -/
def Parts.ExpertMessages : Prop :=
  ∀ (s : State) (k : Nat), k < Config.slots s.part → s.up = true →
    (∀ m, s.slotEn k = true → s.attEnded m.step m.att = false → (s.slot k).bankHeld m.xseq m.step m.att = false →
      (∀ h ∈ (s.slot k).xholds, (h.xseq, h.step, h.att) ≠ (m.xseq, m.step, m.att)) →
      exec (.expert k m) s = .next (s.setSlot k { s.slot k with xholds := (s.slot k).xholds ++ [⟨m.xseq, m.step, m.att, [m]⟩] })) ∧
    (∀ m, s.slotEn k = true → s.attEnded m.step m.att = true → exec (.expert k m) s = .next (s.bump 0x32A0 7 1)) ∧
    (∀ m, s.slotEn k = true → s.attEnded m.step m.att = false → (s.slot k).bankHeld m.xseq m.step m.att = true → exec (.expert k m) s = .next s) ∧
    (∀ xseq h, s.slotEn k = true → (s.slot k).xholds.find? (fun h => h.xseq == xseq &&
        (List.range (s.expSources k).length).all (fun r => h.msgs.any (fun m => m.rank == r))) = some h →
      ∃ u v : State, (u.slot k).xholds = (s.slot k).xholds.filter (fun y => y ≠ h) ∧
        (u.slot k).xbanks = (s.slot k).xbanks ++ (s.holdServed k h).map (fun e =>
          ⟨e.1, h.xseq, h.step, h.att, e.2.2.1.map (fun y => (y.1, y.2.token, y.2.choice)), []⟩) ∧
        v = (u.expSources k).zipIdx.foldl (fun t src => t.post (unitExch (k / 4)) src.1.node (t.slotKey k)
          (.settle src.1.slot ⟨t.here k, h.xseq, h.step, h.att, unservedOf (s.holdServed k h) src.2⟩)) u ∧
        exec (.expertSettle k xseq) s = .next ((v.positions k).foldl (fun t p => t.raiseReady k (s.holdServed k h).length p) v)) ∧
    (∀ m y z, (s.slot k).xsources.find? (fun y => y.xseq == m.xseq && y.step == m.step && y.att == m.att) = some y → s.attEnded m.step m.att = false →
      y.settledBy.contains m.holder = false → z = { y with settledBy := y.settledBy ++ [m.holder], unserved := y.unserved ++ m.unserved } →
      (s.settledAll k z = false → exec (.settle k m) s = .next (s.setSources k (fun l => l.map (fun e =>
        if e.xseq = z.xseq && e.step = z.step && e.att = z.att then z else e)))) ∧
      (s.settledAll k z = true → exec (.settle k m) s = .next (s.markChoices k z))) ∧
    (∀ m y, (s.slot k).xsources.find? (fun y => y.xseq == m.xseq && y.step == m.step && y.att == m.att) = some y → s.attEnded m.step m.att = false →
      exec (.expertReturn k m) s = .next (((m.rows.filter (fun r => r.token < y.tokens && r.choice < y.topk)).foldl (fun t r =>
        t.writeRow y.place (s.returnDesc k y.retOff (y.tokens * y.topk)) (r.token * y.topk + r.choice) r.bytes) s).setSources k (fun l => l.map (fun e =>
          if e.xseq = y.xseq && e.step = y.step && e.att = y.att then { e with returned := e.returned ++ m.rows.map (fun r => (r.token, r.choice)) } else e)))) ∧
    (∀ m, (∀ y ∈ (s.slot k).xsources, (y.xseq, y.step, y.att) ≠ (m.xseq, m.step, m.att)) → exec (.settle k m) s = .next (s.bump 0x32A0 7 1)) ∧
    (∀ m, (∀ y ∈ (s.slot k).xsources, (y.xseq, y.step, y.att) ≠ (m.xseq, m.step, m.att)) → exec (.expertReturn k m) s = .next (s.bump 0x32A0 7 1))

/-- RESHARD's messages at a registered receiver (R296): a transfer inside D2's region is written and its bytes are counted, one beyond it moves
no byte and its bytes are counted as refused (where that count stands is the model's choice, log entry 139); a notice counts, and the notice that completes the senders decides the byte-count check, a failed one with a UC record. With no
receiver registered neither changes anything. -/
def Parts.ReshardMessages : Prop :=
  ∀ (s : State) (core rid : Nat), core < Config.cores s.part → s.up = true →
    (s.receiver core rid = none → (∀ off bs, exec (.reshardTransfer core rid off bs) s = .next s) ∧ ∀ total, exec (.notice core rid total) s = .next s) ∧
    (∀ r d w off bs, s.receiver core rid = some r → d = descOf r.desc → w = ⟨core, r.x, 0, 0⟩ →
      (d.extent < off + bs.length ∨ s.reaches w d.space (d.base + off) bs.length = false →
        exec (.reshardTransfer core rid off bs) s = .next (s.bump 0x32A0 11 bs.length)) ∧
      (∀ q, off + bs.length ≤ d.extent → s.reaches w d.space (d.base + off) bs.length = true → q = s.spaceWrite core r.x d.space (d.base + off) bs →
        q.2 = true → exec (.reshardTransfer core rid off bs) s =
          .next ((q.1.setReshard { r with written := r.written + bs.length }).bump 0x32A0 9 bs.length))) ∧
    (∀ r total, s.receiver core rid = some r → r.checked = false →
      (r.notices + 1 < r.senders → exec (.notice core rid total) s = .next (s.setReshard { r with notices := r.notices + 1, total := r.total + total })) ∧
      (r.senders ≤ r.notices + 1 → r.total + total = r.written → r.written = r.expected →
        exec (.notice core rid total) s = .next (s.setReshard { r with notices := r.notices + 1, total := r.total + total, checked := true })) ∧
      (r.senders ≤ r.notices + 1 → ¬ (r.total + total = r.written ∧ r.total + total = r.expected) →
        exec (.notice core rid total) s = .next (((s.setReshard
          { r with notices := r.notices + 1, total := r.total + total, checked := true, failed := true }).bump 0x32A0 10 1).capture 0x2B
          { die := coreDie r.core, source := blkCore r.core, step := some (s.ctx r.core r.x).step, att := (s.ctx r.core r.x).att })))

/-- Messages of the expert exchange and of RESHARD (R289 to R296). -/
def Obligations.ExpertAndReshardMessages : Prop := Parts.ExpertMessages ∧ Parts.ReshardMessages

/-! ### The fabric (chapter 11) -/

/-- R254, R255, R258, R260, R261, R277: a packet is sent only on a port that is UP, whose channel has credits for every one of its flits and, with
PRI = 1, room in its share of the peer's buffer, and whose replay buffer has room for its frames, and never after 63 links; sending raises HOPS
by one and takes the credits. -/
def Obligations.RoutingTakesCredits : Prop :=
  ∀ (s : State) (h : HeldPacket) (p : Nat) (esc : Bool), s.hop h = .out p esc →
    s.portUp p = true ∧ h.p.hops < 63 ∧ (∃ v, h.p.flits ≤ (s.fport p).credits.getD v 0 ∧
      (h.p.pri = true → (s.fport p).brimHeld v + h.p.flits ≤ s.obj 0x6000 3) ∧ (esc = false → v = h.p.cls) ∧ (esc = true → v = 6 ∨ v = 7)) ∧
    (s.fport p).replay.length + ceilDiv h.p.flits 4 ≤ 1024 ∧
    ∀ q, ∃ t, s.transmit p q = t ∧ (t.fport p).replay.length = (s.fport p).replay.length + ({ q with hops := q.hops + 1 } : Packet).frames.length ∧
      (t.fport p).credits = (s.fport p).credits.set q.vc ((s.fport p).credits.getD q.vc 0 - q.flits) ∧ t.mem = s.mem

/-- PACKET_ROUTE (R15, R254, R256, R258, R261, R262, R273, Table 1.4): the packet is delivered at its own node, in the die of its interface, waits
unchanged where no channel admits it or another packet is served first, leaves on the port chosen, or is discarded with its counter and, for a
request, an UNREACHABLE answer; toward another die it crosses one edge, column first, its port's buffer freed; a LINE packet is delivered on its
way; a packet of an edition that no bank holds is counted as stale and recorded. The model's choices: the counter of a NO_PORT discard (log entry
58), that a packet whose turn it is not waits (log entry 54), how a LINE packet is delivered on its way and what a discard ends of it (log entries
55, 112), that a stale packet's message ends (log entry 112), and what chooses a stripe (log entry 131). -/
def Parts.PacketRoute : Prop :=
  ∀ (s u : State) (n : Nat) (h : HeldPacket), s.fabricOn = true → s.router[n]? = some h → u = s.leave n h →
    (∀ p v, s.hop h = .wait p v → exec (.packetRoute n) s = .next s) ∧
    (s.hop h = .deliver → h.p.line = true → h.copy = false → exec (.packetRoute n) s = .next (u.lineDeliver h)) ∧
    (s.hop h = .deliver → h.p.line = false ∨ h.copy = true →
      (h.die = s.destDie h.p → exec (.packetRoute n) s = .next { u with inbox := s.inbox ++ [(h.die, h.p)] }) ∧
      (h.die ≠ s.destDie h.p → exec (.packetRoute n) s = .next (s.cross n h (s.destDie h.p)))) ∧
    (s.hop h = .unreachable → exec (.packetRoute n) s = .next (((u.lineDeliver h).bump 0x6300 1 1).turnedAway h.die h.p 2)) ∧
    (s.hop h = .loop → exec (.packetRoute n) s = .next ((((u.lineDeliver h).bump 0x6300 2 1).capture 0x28 h.errAt).turnedAway h.die h.p 2)) ∧
    (s.hop h = .noPort → exec (.packetRoute n) s = .next ((((u.lineDeliver h).bump 0x6300 1 1).capture 0x29 h.errAt).turnedAway h.die h.p 2)) ∧
    (s.hop h = .stale → exec (.packetRoute n) s = .next (u.staleAway h) ∧
      (h.copy = false → h.p.line = false → u.staleAway h = ((u.bump 0x6300 3 1).capture 0x13 h.errAt).turnedAway h.die h.p 2)) ∧
    (∀ p esc, s.hop h = .out p esc →
      (h.die ≠ portIdx p → exec (.packetRoute n) s = .next (s.cross n h (portIdx p))) ∧
      (h.die = portIdx p → s.turn p n = false → exec (.packetRoute n) s = .next s) ∧
      (h.die = portIdx p → s.turn p n = true → exec (.packetRoute n) s = .next
        ((((s.noteServed p n (h.outgoing p esc)).leave n h).lineDeliver h).transmit p (h.outgoing p esc)))) ∧
    u.router = s.router.eraseIdx n ∧
    (∀ d, (s.cross n h d).router = s.router.set n { h with
        die := if h.die % 2 ≠ d % 2 then Nat.xor h.die 1 else Nat.xor h.die 2, left := true,
        crossed := h.crossed ++ [⟨decide (h.die % 2 = nextDie h.die d % 2), s.stripeHash h.p % (if h.die % 2 = nextDie h.die d % 2 then 6 else 4)⟩] } ∧
      (s.cross n h d).inbox = s.inbox)

/-- PACKET_RECEIVE (R110, R145, R256, R269 to R271, R384): a message of one packet takes effect and is answered: a WRITE and a READ whose whole range
is admitted with ACK and with the data, one whose range is not with REMOTE_ACCESS, nothing being read or written; an ATOMIC with ACK after adding
modulo 2^64; a packet that does not close its message takes effect and is counted in the message's entry; a closing packet that arrives early is
held, and one that is refused with BUSY leaves its entry for its resend; a full table refuses with BUSY; in a warm reset every request is answered
UNREACHABLE (what it carries of conserved quantities being counted, which is the model's choice, log entry 76). -/
def Parts.PacketReceive : Prop :=
  ∀ (s u : State) (n die : Nat) (p : Packet), s.fabricOn = true → s.inbox[n]? = some (die, p) → p.isRsp = false → u = { s with inbox := s.inbox.eraseIdx n } →
    (s.boot.warm = true → exec (.packetReceive n) s = .next ((u.warmCount p.body).answer p 2)) ∧
    (s.boot.warm = false → u.msgEntry die p = none → (u.msgTable.filter (fun e => e.die == die)).length < 4096 →
      (p.close = true → p.count ≤ 1 → p.line = false →
        (∀ bs g, p.body = .write bs → p.mesh = false → g = accessRange p bs.length →
          (∀ v w, u.admitted (u.sender p) p.key g.1 g.2 = (v, true) → w = v.outsideWrite (v.sender p) p.key p.addr bs →
            exec (.packetReceive n) s = .next (w.1.answer p w.2.status)) ∧
          (∀ v, u.admitted (u.sender p) p.key g.1 g.2 = (v, false) → exec (.packetReceive n) s = .next (v.answer p 1))) ∧
        (∀ len g, p.body = .readReq len → g = accessRange p len →
          (∀ v r, u.admitted (u.sender p) p.key g.1 g.2 = (v, true) → r = v.outsideRead (v.sender p) p.key p.addr len → r.2.1 = .ok →
            exec (.packetReceive n) s = .next (r.1.respond p (.readRsp r.2.2))) ∧
          (∀ v, u.admitted (u.sender p) p.key g.1 g.2 = (v, false) → exec (.packetReceive n) s = .next (v.answer p 1))) ∧
        (∀ v r w, p.body = .atomic v → p.addr % 8 = 0 → r = u.outsideRead (u.sender p) p.key p.addr 8 → r.2.1 = .ok →
          w = r.1.outsideWrite (u.sender p) p.key p.addr (leBytes 8 (leNat r.2.2 + v.toNat)) →
          exec (.packetReceive n) s = .next (w.1.answer p w.2.status))) ∧
      (p.close = true → 1 < p.count →
        ∃ t, exec (.packetReceive n) s = .next t ∧ t.msgEntry die p = some ⟨die, p.src, p.sunit, p.msgid, 1, some p, 0, []⟩ ∧ t.mem = s.mem) ∧
      (p.close = false →
        ((u.effect p).2 ≠ .busy → exec (.packetReceive n) s =
          .next ((u.effect p).1.putEntry ⟨die, p.src, p.sunit, p.msgid, 1, none, (u.effect p).2.code, partPiece p⟩)) ∧
        ((u.effect p).2 = .busy → exec (.packetReceive n) s = .next (((u.effect p).1.bump 0x6300 5 1).respond p .busy)))) ∧
    (∀ e v, s.boot.warm = false → u.msgEntry die p = some e → e.count ≠ 0 → p.close = true → p.count ≤ e.count + 1 →
      v = (u.dropEntry e).effect (joinPart p e.data) e.status → v.2 = .busy →
      exec (.packetReceive n) s = .next (((v.1.putEntry { e with held := none }).bump 0x6300 5 1).respond p .busy)) ∧
    (s.boot.warm = false → u.msgEntry die p = none → 4096 ≤ (u.msgTable.filter (fun e => e.die == die)).length →
      exec (.packetReceive n) s = .next ((u.bump 0x6300 5 1).respond p .busy))

/-- Packets at the router and at the destination interface (R15, R110, R145, R254 to R262, R269 to R273, R384). -/
def Obligations.RouteAndReceive : Prop := Parts.PacketRoute ∧ Parts.PacketReceive

/-- HOLD_TIMEOUT and ENTRY_IDLE_RELEASE (R270), BUSY, BUSY_RESEND, ERROR_RSP and ACK (R143, R271): the hold ends with its entry closed, counted and
answered HOLD_TIMEOUT; an idle entry without a held packet goes; a refused packet waits and is sent again, a WRITE's and a queue part's payload
read anew from the source region while their operation waits; the last answer of a message ends it, and the operation that waited for it
alone is done with the first bad status (that it is the first of several is the model's choice, log entry 47). -/
def Obligations.MessageEnds : Prop :=
  ∀ (s : State) (u id : Nat), s.fabricOn = true →
    (∀ src e p, s.msgTable.find? (fun e => e.src == src && e.sunit == u && e.msgid == id && e.held.isSome) = some e → e.held = some p →
      exec (.holdTimeout src u id) s = .next (((s.dropEntry e).bump 0x6300 4 1).answer p 3)) ∧
    (∀ src, ∃ t, exec (.entryIdleRelease src u id) s = .next t ∧ t = { s with msgTable := t.msgTable } ∧
      ∀ e, e ∈ t.msgTable ↔ e ∈ s.msgTable ∧ ¬ (e.src = src ∧ e.sunit = u ∧ e.msgid = id ∧ e.held = none)) ∧
    (∀ m, s.sentMsg u id = some m →
      (∀ p, exec (.busy u id p) s = .next (s.setSent { m with busy := m.busy ++ [p] })) ∧
      (∀ p rest, m.busy = p :: rest → m.op = none → exec (.busyResend u id) s = .next ((s.setSent { m with busy := rest }).inject p)) ∧
      (∀ p rest n x f r off len, ∀ v : State, m.busy = p :: rest → m.op = some (n, x) → (s.ctx n x).fS = some f → f.awaiting.contains m.msgid = true →
        v = s.setSent { m with busy := rest } → r = v.recordRange ⟨n, x, f.op.step, f.op.att⟩ (f.op.desc 0) off len →
        (∀ bs, p.body = .write bs → off = p.addr - p.base → len = bs.length →
          (∀ new, whole r.2 = some new → exec (.busyResend u id) s = .next (r.1.inject { p with body := .write new })) ∧
          (whole r.2 = none → exec (.busyResend u id) s = .next (r.1.sourceLost m))) ∧
        (∀ q, p.body = .queuePart q → off = q.off → len = q.bytes.length →
          (∀ new, whole r.2 = some new → exec (.busyResend u id) s = .next (r.1.inject { p with body := .queuePart { q with bytes := new } })) ∧
          (whole r.2 = none → exec (.busyResend u id) s = .next (r.1.sourceLost m)))) ∧
      (∀ node, node < 65536 → 1 < m.acks → exec (.ack u id node) s = .next (s.setSent { m with acks := m.acks - 1 })) ∧
      (∀ status, 1 < m.acks → exec (.errorRsp u id status) s =
        .next (s.setSent { m with acks := m.acks - 1, status := if m.status = 0 then status else m.status })) ∧
      (∀ n x f, m.acks = 1 → m.op = some (n, x) → m.parent = none → (s.ctx n x).fS = some f → f.awaiting = [id] → f.status = 0 →
        opcodeOf .stream f.op.word ≠ 20 → s.localAccess f.op = false →
        (∀ node, node < 65536 → ∃ t, exec (.ack u id node) s = .next t ∧ t.sentMsg u id = none ∧
          t.ctx n x = s.heardCtx n x { s.ctx n x with fS := some { f with awaiting := [], status := m.status, done := true, blocked := false } }) ∧
        (∀ status, ∃ t, exec (.errorRsp u id status) s = .next t ∧ t.sentMsg u id = none ∧
          t.ctx n x = s.heardCtx n x { s.ctx n x with
            fS := some { f with awaiting := [], status := if m.status = 0 then status else m.status, done := true, blocked := false } })))

/-- Link frames (R276, R277, Table 11.5): an UP port accepts a sound DATA or IDLE frame whose SEQ is the next, and takes its ACK and its credit
returns; it rejects any other, leaves packets and sequence as they are, and sends NAK once, in an IDLE frame with the last SEQ accepted; a NAK or
LINK_RETRY resends from the oldest unacknowledged frame, and the 16th resend without progress retrains the port, its replay buffer kept. With that
buffer full the NAK waits for room. A frame that a port forms passes the check of its CRC. -/
def Parts.LinkFrames : Prop :=
  (∀ (seq ack : Nat) (nak : Bool) (flits : List (Flit × List Byte)) (rs : List (Nat × Nat)), flits.length ≤ 4 →
    (LinkFrame.make seq ack nak flits rs).bad = false) ∧
  ∀ (s : State) (p : Nat) (f : FPort), p < Config.ports s.part → s.fabricOn = true → f = s.fport p → f.state = .up →
    (∀ r, r.typ ≤ 1 → r.bad = false → r.nak = false → r.seq = (f.rxLast + 1) % 4096 → f.credits.length = 8 →
      (∀ v < 8, f.credits.getD v 0 + ((r.credits.filter (fun c => c.1 == v)).map (·.2)).sum ≤ vcBuffer v) →
      ∃ t, exec (.linkFrame p r) s = .next t ∧ (t.fport p).rxLast = r.seq ∧ (t.fport p).nakSent = false ∧ (t.fport p).nakDue = false ∧ (t.fport p).replay = (f.acked r.ack).1.replay ∧
        (∀ v < 8, (t.fport p).credits.getD v 0 = f.credits.getD v 0 + ((r.credits.filter (fun c => c.1 == v)).map (·.2)).sum) ∧
        ∀ q, q ≠ p → t.fport q = s.fport q) ∧
    (∀ r, r.typ ≤ 1 → r.bad = true ∨ r.seq ≠ (f.rxLast + 1) % 4096 →
      ∃ t, exec (.linkFrame p r) s = .next t ∧
        (f.nakSent = false → f.replay.length < 1024 → t.fport p = { f.pushFrame true [] with nakSent := true, nakDue := false }) ∧
        (f.nakSent = false → 1024 ≤ f.replay.length → t.fport p = { f with nakSent := true, nakDue := true }) ∧
        (f.nakSent = true → t.fport p = f.nakLate) ∧ (f.replay.length ≤ 1024 → (t.fport p).replay.length ≤ 1024) ∧
        t.router = s.router ∧ t.mem = s.mem ∧ ∀ q, q ≠ p → t.fport q = s.fport q) ∧
    (∀ ack g, g = (f.acked ack).1.nakLate → g.replay ≠ [] → g.resends + 1 < 16 →
      ∃ t, exec (.nak p ack) s = .next t ∧ t.fport p = { g with resends := g.resends + 1 } ∧ t.tot (0x6200 + p) 7 = satAdd 64 (s.tot (0x6200 + p) 7) 1) ∧
    (f.replay ≠ [] → f.resends + 1 < 16 →
      ∃ t, exec (.linkRetry p) s = .next t ∧ t.fport p = { f with resends := f.resends + 1 } ∧ t.tot (0x6200 + p) 7 = satAdd 64 (s.tot (0x6200 + p) 7) 1) ∧
    (f.replay ≠ [] → 16 ≤ f.resends + 1 →
      ∃ t, exec (.linkRetry p) s = .next t ∧ (t.fport p).state = .retraining ∧ (t.fport p).replay = f.replay ∧ (t.fport p).txNext = f.txNext ∧
        (t.fport p).rxLast = f.rxLast)

/-- The states of a port (R250, R278, R279, Table 11.6): training passes only with the right peer; CREDIT_SYNC brings the port UP with no more
credits than the peer's buffers hold and the unacknowledged frames kept, after the port has sent its own; the third failed attempt takes it
DOWN, ABSENT frames to ABSENT, FPORT_CTL.EN = 0 to DISABLED, sending ABSENT, each with its replay buffer dropped; from ABSENT and DISABLED it
trains afresh from sequence 0, sending its node ID, direction and index. A CREDIT_SYNC that breaks R415 on a channel, reporting more than its buffer,
or fewer than this side's account leaves it on a port that kept its counters (the model's reading, log entry 24), retrains the port (R416). -/
def Parts.PortStates : Prop :=
  ∀ (s : State) (p : Nat) (f : FPort), p < Config.ports s.part → s.fabricOn = true → f = s.fport p →
    (∀ node dir idx, f.state = .training ∨ f.state = .retraining →
      (s.peerOk p node dir idx = true → exec (.train p node dir idx) s = .next (s.setFport p { f with
        trained := true, laneLock := 15, peerMismatch := false, owed := List.replicate 8 0, out := f.out ++ [s.ownSync p] })) ∧
      (s.peerOk p node dir idx = false →
        exec (.train p node dir idx) s = .next (s.setFport p { f with laneLock := 15, peerMismatch := true }))) ∧
    (∀ free last before rep credits k, f.trained = true → f.state = .training ∨ f.state = .retraining →
      k = (match f.replay.findIdx? (fun r => r.seq == last) with | some i => i + 1 | none => 0) →
      before = packetAfter f.replayHead (f.replay.take k) → rep = (f.replay.drop k).map (·.noCredits) →
      credits = (List.range 8).map (fun v => min (vcBuffer v) (free.getD v 0) - flitsOn before rep v) →
      ((∀ v < 8, free.getD v 0 ≤ vcBuffer v ∧ (f.state = .retraining → f.credits.getD v 0 ≤ credits.getD v 0)) →
        ∃ t, exec (.creditSync p free last) s = .next t ∧ (t.fport p).state = .up ∧ (t.fport p).credits = credits ∧ (t.fport p).replay = rep ∧
          (t.fport p).txNext = f.txNext ∧ (t.fport p).rxLast = f.rxLast ∧ (t.fport p).owed = f.owed ∧ t.router = s.router) ∧
      ((∃ v < 8, vcBuffer v < free.getD v 0 ∨ f.state = .retraining ∧ credits.getD v 0 < f.credits.getD v 0) →
        ∃ t, exec (.creditSync p free last) s = .next t ∧ (t.fport p).state = .retraining ∧ (t.fport p).trained = false ∧ (t.fport p).replay = rep)) ∧
    (f.state = .retraining ∨ (f.state = .training ∧ f.peerMismatch = false) →
      (f.attempts < 2 → exec (.trainingAttemptTimeout p) s = .next (s.setFport p { f with attempts := f.attempts + 1, trained := false })) ∧
      (2 ≤ f.attempts → ∃ t, exec (.trainingAttemptTimeout p) s = .next t ∧ (t.fport p).state = .down ∧ (t.fport p).replay = [])) ∧
    (f.state = .training ∨ f.state = .up ∨ f.state = .retraining →
      ∃ t, exec (.absent p) s = .next t ∧ (t.fport p).state = .absent ∧ (t.fport p).replay = [] ∧
        t.tot (0x6200 + p) 9 = satAdd 64 (s.tot (0x6200 + p) 9) f.heldPackets.length) ∧
    (f.state = .absent → ∃ t, exec (.absentEnd p) s = .next t ∧
      t.fport p = { f.fresh with out := f.out ++ [.train s.boot.node (p % 8) (p / 8)] } ∧ t.router = s.router ∧ ∀ q, q ≠ p → t.fport q = s.fport q) ∧
    (s.multiHolds = false → (s.block (blkFport p)).en = false → s.boot.nodeBad = false →
      ∃ t, exec (.fportEnable p) s = .next t ∧ t.fport p = { f.fresh with out := f.out ++ [.train s.boot.node (p % 8) (p / 8)] } ∧ (t.block (blkFport p)).en = true ∧ ∀ q, q ≠ p → t.fport q = s.fport q) ∧
    (s.multiHolds = false → (s.block (blkFport p)).en = false → s.boot.nodeBad = true → exec (.fportEnable p) s = .next (s.blkTouch (blkFport p))) ∧
    (s.multiHolds = false → (s.block (blkFport p)).en = true →
      ∃ t, exec (.fportDisable p) s = .next t ∧ (t.fport p).state = .disabled ∧ (t.fport p).replay = [] ∧ (t.fport p).out = f.out ++ [.absent] ∧
        (t.block (blkFport p)).en = false ∧ ∀ q, q ≠ p → t.fport q = s.fport q)

/-- Link frames and the states of a port (R250, R276 to R279). -/
def Obligations.LinksAndPorts : Prop := Parts.LinkFrames ∧ Parts.PortStates

/-- Editions of the Almanac (R262, R263, R268), where no MULTI_WRITE waits: LOAD_OPEN is accepted with a FREE or SHADOW bank; LOAD_SEAL seals the
loaded table exactly when it has the next edition number, this node's own entry is 0x8800 and no valid entry is of a kind that R263 names; SWITCH
makes a SHADOW bank CURRENT and the old one PREVIOUS; a rejected command sets its status bit and is counted; FORCE_RETIRE and RETIRE free the
PREVIOUS bank. The status bits of a LOAD_OPEN while loading and of a LOAD_SEAL with nothing loading are the model's choice, log entry 57. -/
def Parts.AlmanacEditions : Prop :=
  ∀ (s u : State) (a : Almanac), s.fabricOn = true → s.multiHolds = false → u = s.pkgTouch → a = s.almanac →
    (a.bank2 = .free ∨ a.bank2 = .shadow → exec .loadOpen s = .next { u with almanac := { a with bank2 := .loading, switchRejected := false } }) ∧
    (a.bank2 = .loading ∨ a.bank2 = .previous → exec .loadOpen s = .next ({ u with almanac := { a with switchRejected := true } }.bump 0x6300 6 1)) ∧
    (a.bank2 = .loading → a.shadowEd = (a.curEd + 1) % 256 → Table.read routeReset s.boot.node a.shadowTable = (0x8800 : Half) →
      (∀ d < 65536, entryBad s.boot.dim d (Table.read routeReset d a.shadowTable).toNat = false) →
      exec .loadSeal s = .next { u with almanac := { a with bank2 := .shadow, second := .loaded a.shadowTable, secondEd := a.shadowEd, sealFail := false } }) ∧
    (a.bank2 ≠ .loading ∨ a.shadowEd ≠ (a.curEd + 1) % 256 ∨ Table.read routeReset s.boot.node a.shadowTable ≠ (0x8800 : Half) ∨
        (∃ d < 65536, entryBad s.boot.dim d (Table.read routeReset d a.shadowTable).toNat = true) →
      exec .loadSeal s = .next { u with almanac := { a with sealFail := true } }) ∧
    (a.bank2 = .shadow → ∃ t, exec .switchEdition s = .next t ∧ t.almanac.cur = a.second ∧ t.almanac.curEd = a.secondEd ∧ t.almanac.second = a.cur ∧
      t.almanac.secondEd = a.curEd ∧ t.almanac.bank2 = .previous ∧ t.almanac.switchRejected = false ∧ t = { u with almanac := t.almanac }) ∧
    (a.bank2 ≠ .shadow → exec .switchEdition s = .next ({ u with almanac := { a with switchRejected := true } }.bump 0x6300 6 1)) ∧
    (a.bank2 = .previous → exec .forceRetire s = .next { u with almanac := { a with bank2 := .free, drainLate := false } }) ∧
    (∀ e, exec (.retire e) s = .next (if a.bank2 = .previous ∧ a.secondEd = e then { s with almanac := { a with bank2 := .free, drainLate := false } } else s))

/-- Drain rounds (R265 to R267): START_DRAIN on a switched package makes it the coordinator and queries every node with a valid entry; a query is
answered with the CURRENT edition and the PREVIOUS edition's INFL and ACC; the last reply of a round that qualifies with the same ACC as
the round before retires the PREVIOUS bank; any other round is followed by the next, and is remembered for it where it qualifies; a drain that
takes too long is recorded, with its event, once. -/
def Parts.DrainRounds : Prop :=
  ∀ (s : State) (a : Almanac), s.fabricOn = true → a = s.almanac →
    (a.bank2 = .previous → a.coord = false → s.multiHolds = false →
      ∃ t, exec .startDrain s = .next t ∧ t.almanac.coord = true ∧ t.almanac.queried = a.nodes ∧ t.almanac.replies = [] ∧
        t.sent.length = s.sent.length + a.nodes.length) ∧
    (∀ src, exec (.drain src) s = .next (s.post (unitMgt 0) (src % 65536) 0
      (if a.bank2 = .previous then .drainReply a.curEd (s.infl a.secondEd) a.accPrev else .drainReply a.curEd 0 0))) ∧
    (∀ node cur infl acc, a.coord = true → a.queried.contains node = true → (∀ r ∈ a.replies, r.node ≠ node) →
      (a.replies.length + 1 ≠ a.queried.length →
        exec (.drainReply node cur infl acc) s = .next { s with almanac := { a with replies := a.replies ++ [⟨node, cur, infl, acc⟩] } }) ∧
      (∀ rs, a.replies.length + 1 = a.queried.length → rs = a.replies ++ [⟨node, cur, infl, acc⟩] → (∀ r ∈ rs, r.current = a.curEd ∧ r.infl = 0) →
        (∃ old, a.lastRound = some old ∧ sameAcc rs old = true ∧ sameAcc old rs = true) → a.bank2 = .previous →
        ∃ t, exec (.drainReply node cur infl acc) s = .next t ∧ t.almanac.bank2 = .free ∧ t.almanac.coord = false ∧ t.almanac.replies = []) ∧
      (∀ rs, a.replies.length + 1 = a.queried.length → rs = a.replies ++ [⟨node, cur, infl, acc⟩] → (∃ r ∈ rs, r.current ≠ a.curEd ∨ r.infl ≠ 0) →
        ∃ t, exec (.drainReply node cur infl acc) s = .next t ∧ t.almanac.bank2 = a.bank2 ∧ t.almanac.coord = true ∧ t.almanac.lastRound = none ∧
          t.almanac.replies = [] ∧ t.almanac.queried = a.nodes) ∧
      (∀ rs, a.replies.length + 1 = a.queried.length → rs = a.replies ++ [⟨node, cur, infl, acc⟩] → (∀ r ∈ rs, r.current = a.curEd ∧ r.infl = 0) →
        (∀ old, a.lastRound = some old → sameAcc rs old = false ∨ sameAcc old rs = false) →
        ∃ t, exec (.drainReply node cur infl acc) s = .next t ∧ t.almanac.bank2 = a.bank2 ∧ t.almanac.coord = true ∧ t.almanac.lastRound = some rs ∧
          t.almanac.replies = [] ∧ t.almanac.queried = a.nodes)) ∧
    (a.coord = true → a.drainLate = false → exec .drainTimeout s =
      .next (({ s with almanac := { a with drainLate := true } }.capture 0x14 { source := blkAlmanac }).event 4 0 0xC8 0
        (leBytes 1 a.prevEd ++ leBytes 1 a.curEd) none)) ∧
    (a.drainLate = true → exec .drainTimeout s = .next s)

/-- Editions of the Almanac and their drain (R262 to R268). -/
def Obligations.AlmanacAndDrain : Prop := Parts.AlmanacEditions ∧ Parts.DrainRounds

/-! ### Jorto and the host ports (chapter 14) -/

/-- JORTO_OPEN (R322, R431): a credential that verifies, with a counter above the last accepted one, opens a session with the number that OPEN_ACK
answers, and the same credential opens no second one; any other credential opens none and is recorded as CRED_FAIL; a full session
table, or a slot being erased, opens none, and leaves no CRED_FAIL record whatever the credential (the model's choice, log entry 83). The frame's
corrected codewords are counted first. -/
def Obligations.JortoOpen : Prop :=
  ∀ (z s : State) (m : JortoMsg) (k : Nat) (ev : Bool), s = z.fecIn m.port m.frame → s.jortoTakes m = true → k < 64 →
    ((s.keySlot k).erasing = false → (s.sessions.filter (fun ss => ss.port == m.port)).length < 64 →
      (s.credentialOk m k = true →
        ∃ t, exec (.jortoOpen m k ev) z = .next t ∧ t.sessions = s.sessions ++
            [{ id := s.newSession, port := m.port, ip := m.ip, udp := m.udp, key := k, events := ev, rtoUs := s.obj 0x1120 1 }] ∧
          t.net = s.net ++ [.openAck m.port m.ip m.udp s.newSession 0] ∧ t.credentialOk m k = false ∧ t.mem = s.mem) ∧
      (s.credentialOk m k = false → exec (.jortoOpen m k ev) z = .next ((s.capture 0x43 {}).emit (.openAck m.port m.ip m.udp 0 18)))) ∧
    ((s.keySlot k).erasing = true ∨ 64 ≤ (s.sessions.filter (fun ss => ss.port == m.port)).length →
      exec (.jortoOpen m k ev) z = .next (s.emit (.openAck m.port m.ip m.udp 0 18)))

/-- Messages in order (R323 to R326, R349): the message whose SEQ is the next takes effect once and is acknowledged: a WRITE and a READ_REQ of memory
under the session's key, a STEP and a WORD doorbell, a CLOSE; a duplicate takes no effect and is acknowledged again; one that comes early is
held; a WRITE of registers that comes while a MULTI_WRITE waits takes its place behind the writes that wait. That a SEQ half the range or more
ahead counts as a duplicate is the model's choice, log entry 83. -/
def Parts.JortoMessages : Prop :=
  ∀ (z s u : State) (m : JortoMsg) (ss v : Session), s = z.fecIn m.port m.frame → s.jortoTakes m = true → s.vigil = false → s.session m.session = some ss → ss.port = m.port →
    ss.ip = m.ip → ss.udp = m.udp → ss.early = [] → ss.unacked = [] → ss.waitingTx = [] → ss.rxNext < 2 ^ 32 → m.seq < 2 ^ 32 → v = { ss with rxNext := (ss.rxNext + 1) % 2 ^ 32 } → u = s.setSession v →
    (m.seq = ss.rxNext →
      (∀ r, isRegister s.part (localAddr m) = false → m.len = m.data.length → 0 < m.len → m.len ≤ 8192 → r = u.outsideWrite .host ss.key (localAddr m) m.data →
        r.2 = .ok → r.1.sessions = u.sessions → exec (.jortoWrite m) z = .next (r.1.jAck ss.id)) ∧
      (∀ r, isRegister s.part (localAddr m) = false → m.data = [] → 0 < m.len → m.len ≤ 8192 → r = u.outsideRead .host ss.key (localAddr m) m.len →
        r.2.1 = .ok → r.1.sessions = u.sessions → exec (.jortoReadReq m) z = .next ((r.1.jData ss.id m r.2.2).jAck ss.id)) ∧
      (∀ r, m.addr / 2 ^ 56 % 256 = 1 → m.data = [] → m.len = 0 → s.enabledSlots.all (fun k => s.slotKey k == ss.key) = true →
        r = u.stepDoorbell (m.addr % 2 ^ 32) → r.sessions = u.sessions → exec (.stepDoorbell m) z = .next (r.jAck ss.id)) ∧
      (∀ r, m.addr / 2 ^ 56 % 256 = 2 → m.len = 8 → m.data.length = 8 → localAddr m % 8 = 0 → r = u.wordDoorbell ss.key (localAddr m) (leNat m.data) →
        r.2 = 0 → r.1.sessions = u.sessions → exec (.wordDoorbell m) z = .next (r.1.jAck ss.id)) ∧
      (∃ t, exec (.jortoClose m) z = .next t ∧ t.session ss.id = none ∧ t.mem = s.mem)) ∧
    (2 ^ 31 ≤ (m.seq + 2 ^ 32 - ss.rxNext) % 2 ^ 32 → ∀ i ∈ [Instr.jortoWrite m, .jortoReadReq m, .stepDoorbell m, .wordDoorbell m, .jortoClose m],
      exec i z = .next ((s.bump (0x3320 + netNo m.port) 3 1).jAck ss.id)) ∧
    (0 < (m.seq + 2 ^ 32 - ss.rxNext) % 2 ^ 32 → (m.seq + 2 ^ 32 - ss.rxNext) % 2 ^ 32 < 256 →
      exec (.jortoWrite m) z = .next ((s.setSession { ss with early := [(m.seq, .write, m)] }).jAck ss.id)) ∧
    (m.seq = ss.rxNext → s.multiHolds = true → isRegister s.part (localAddr m) = true → (∀ n, .session ss.id n ∉ s.heldWrites) →
      ∀ w, w = s.setSession { ss with early := [(m.seq, .write, m)] } →
        exec (.jortoWrite m) z = .next ({ w with heldWrites := s.heldWrites ++ [Held.session ss.id v.rxNext] }.jAck ss.id))

/-- The doorbells' effects (Table 14.5): STEP raises the step limit where its rank is higher, the parts that came before a step opened being
checked as it opens (the model's choice, log entry 59), and never lowers it; WORD adds to an 8-byte word that the session's key reaches. -/
def Parts.DoorbellEffects : Prop :=
  (∀ (s : State) (l : Nat), l < 2 ^ 32 → s.group.rankOf s.group.stepLimit < s.group.rankOf l →
      s.stepDoorbell l = s.checkVersions { s with group := { s.group with stepLimit := l } }) ∧
  (∀ (s : State) (l : Nat), s.group.rankOf l ≤ s.group.rankOf s.group.stepLimit → s.stepDoorbell l = s) ∧
  (∀ (s : State) (key a n : Nat) (r : State × Ended × List Byte) (w : State × Ended), r = s.outsideRead .host key a 8 → r.2.1 = .ok →
      w = r.1.outsideWrite .host key a (leBytes 8 (leNat r.2.2 + n)) → s.wordDoorbell key a n = (w.1, w.2.status))

/-- Jorto's messages in order, and what doorbells do (R323 to R326, R349, Table 14.5). -/
def Obligations.JortoInOrder : Prop := Parts.JortoMessages ∧ Parts.DoorbellEffects

/-- Acknowledgements, timers and links (R317, R320, R323, R327, R328): an ACK frees every message below it and restarts the interval; a resend keeps
the message and doubles the interval up to 100 ms, and the 17th time-out of one message closes the session; an idle session closes; a link that goes
down, and PORT_EN = 0, close every session of the port; the partner brings a DOWN link up. -/
def Parts.SessionTimers : Prop :=
  ∀ (s : State) (ss : Session) (m : JMsg) (rest : List JMsg), s.session ss.id = some ss → ss.unacked = m :: rest →
    (ss.resends < 16 → exec (.jortoRto ss.id) s = .next (((s.setSession { ss with resends := ss.resends + 1, rtoUs := min 100000 (2 * ss.rtoUs) }).bump
      (0x3320 + netNo ss.port) 2 1).emit (.jorto ss.port ss.ip ss.udp ss.id ss.rxNext m))) ∧
    (16 ≤ ss.resends → ∃ t, exec (.jortoRto ss.id) s = .next t ∧ t.session ss.id = none ∧ t.mem = s.mem) ∧
    (∀ a : JortoMsg, s.jortoTakes a = true → a.session = ss.id → a.port = ss.port → a.ip = ss.ip → a.udp = ss.udp → ss.waitingTx = [] →
      (∀ y ∈ ss.early, y.1 ≠ ss.rxNext) → (∃ z ∈ ss.unacked, ackCovers a.ack z.seq = true) →
      ∃ t, exec (.jortoAck a) s = .next t ∧ t.mem = s.mem ∧ t.session ss.id = some { ss with
        unacked := ss.unacked.filter (fun z => !ackCovers a.ack z.seq), resends := 0, rtoUs := s.obj 0x1120 1 }) ∧
    (∃ t, exec (.sessionIdle ss.id) s = .next t ∧ t.session ss.id = none ∧ t.mem = s.mem) ∧
    (s.link ss.port = .up → ∃ t, exec (.hostLinkDown ss.port) s = .next t ∧ t.link ss.port = .down ∧ (∀ z ∈ t.sessions, z.port ≠ ss.port) ∧ t.mem = s.mem) ∧
    (∀ p, s.link p = .down → exec (.hostLinkUp p) s = .next (s.setLink p .up)) ∧
    (ss.port ≠ .mgt → s.multiHolds = false → s.windowOn = true → s.portEn ss.port = true →
      ∃ t, exec (.portEnWrite ss.port false) s = .next t ∧ t.link ss.port = .disabled ∧ (∀ z ∈ t.sessions, z.port ≠ ss.port) ∧ t.portEn ss.port = false) ∧
    (∀ p, p ≠ .mgt → s.multiHolds = false → s.windowOn = true → s.portEn p = false → s.portRate p ≠ 3 →
      ∃ t, exec (.portEnWrite p true) s = .next t ∧ t.link p = .down ∧ t.portEn p = true ∧ t.sessions = s.sessions)

/-- Frames below Jorto, and the management port (R318, R319, R332, R333): a host port at work takes a frame that its filter accepts; it answers
ARP, neighbour discovery and echo for its own configured address, leaves a datagram of port 49710 or 49711 to Jorto and Dorub, and discards
and counts any other frame. Corrected codewords at a host port are counted first. The filter refuses each kind of frame that R318 names. A heartbeat, in READY and in Vigil mode, is one broadcast
with the node, the lifecycle state, the Vigil flag and die 0's counter; a collision is counted with PLCA on. -/
def Parts.PortFrames : Prop :=
  (∀ (z s : State) (p : NetPort) (f : EthFrame), s = z.fecIn p f → s.jortoOn p = true →
    (∀ a, (a = s.ipv4 p ∧ a ≠ 0 → s.frameOk p false f = true → exec (.arpRequest ⟨p, f⟩ a) z = .next (s.emit (.arp p a (s.macAddr (netNo p))))) ∧
      (a ≠ s.ipv4 p ∨ a = 0 ∨ s.frameOk p false f = false → exec (.arpRequest ⟨p, f⟩ a) z = .next (s.bump (0x3320 + netNo p) 1 1))) ∧
    (∀ a, (a = s.ipv6 p ∧ a ≠ 0 → s.frameOk p true f = true →
        exec (.neighborSolicitation ⟨p, f⟩ a) z = .next (s.emit (.neighbor p a (s.macAddr (netNo p))))) ∧
      (a ≠ s.ipv6 p ∨ a = 0 ∨ s.frameOk p true f = false → exec (.neighborSolicitation ⟨p, f⟩ a) z = .next (s.bump (0x3320 + netNo p) 1 1))) ∧
    (∀ a v6 data o, o = (if v6 then s.ipv6 p else s.ipv4 p) →
      (a = o ∧ a ≠ 0 → s.frameOk p v6 f = true → exec (.echoRequest ⟨p, f⟩ a v6 data) z = .next (s.emit (.echo p a v6 data))) ∧
      (a ≠ o ∨ a = 0 ∨ s.frameOk p v6 f = false → exec (.echoRequest ⟨p, f⟩ a v6 data) z = .next (s.bump (0x3320 + netNo p) 1 1))) ∧
    (s.frameOk p f.ip6 f = true → s.toOwn p f.ip6 f = true → f.udp = some 49710 ∨ f.udp = some 49711 → exec (.frameDiscard ⟨p, f⟩) z = .next s) ∧
    (s.frameOk p f.ip6 f = false ∨ s.toOwn p f.ip6 f = false ∨ (f.udp ≠ some 49710 ∧ f.udp ≠ some 49711) → exec (.frameDiscard ⟨p, f⟩) z = .next (s.bump (0x3320 + netNo p) 1 1))) ∧
  (∀ (s : State) (p : NetPort) (v6 : Bool) (f : EthFrame),
    9022 < f.length ∨ f.fcsOk = false ∨ f.fragment = true ∨ f.tag = some 0 ∨ (∃ v, f.tag = some v ∧ v ≠ s.obj (0x1100 + netNo p) 5) ∨
      (∃ mac, f.dst = some mac ∧ s.ownMac p mac = false) ∨ f.checksum = some false ∨ (v6 = true ∧ f.checksum = none) → s.frameOk p v6 f = false) ∧
  (∀ s : State, s.boot.state = .ready ∨ s.boot.state = .vigil →
    exec .heartbeat s = .next (s.emit (.heartbeat s.boot.node s.security.lifecycle.code s.vigil (s.counter 0)))) ∧
  (∀ s : State, s.boot.plcaNode ≠ 255 → exec .plcaCollision s = .next (s.bump 0x3330 4 1))

/-- Jorto's acknowledgements and timers, and a port's link and frames (R317 to R320, R323, R327, R328, R332, R333). -/
def Obligations.PortsAndTimers : Prop := Parts.SessionTimers ∧ Parts.PortFrames

/-! ### Dorub (chapter 15) -/

/-- R331, R318, R319: a repeated request receives the kept response again and changes nothing else, for every service; a request that comes while
one before it waits is held, in order; one to an address that its host port does not have is discarded and counted. -/
def Parts.RequestsOnce : Prop :=
  ∀ (s : State) (r : Requester) (tid i sub h off n size : Nat) (bs : List Byte) (es : List MwEntry) (crc : Word) (e : Envelope) (c : Instr) (w : State),
    (c = .dorubRead ⟨r, e⟩ tid i sub ∧ w = s.fecIn r.port e.frame ∧ e.proto = 0x0D0B ∧ e.ver = 1 ∧ w.dorubTakes r e.frame = true) ∨
      (c ∈ [Instr.dorubWrite r tid i sub bs, .multiWrite r tid es, .describe r tid i sub, .blockReadStart r tid i sub, .blockReadSeg r tid h off n,
        .blockWriteStart r tid i sub size, .blockWriteSeg r tid h off bs, .blockWriteEnd r tid h crc, .blockAbort r tid h] ∧ w = s) →
    (∀ a, w.dorubOn r = true → w.multi = none → w.kept.find? (fun k => k.req == r && k.tid == tid) = some a → exec c s = .next (w.emit (.dorub a))) ∧
    (w.dorubOn r = true → w.multi ≠ none → exec c s = .next { w with heldWrites := w.heldWrites ++ [.cmd c] }) ∧
    (w.dorubPort r.port = true → w.dorubOn r = false → exec c s = .next (w.bump (0x3320 + netNo r.port) 1 1))

/-- R330, R318, R319, R340: a message of another PROTO or VER is discarded and counted in DORUB_DISCARDS, one in a frame that its host port does not
accept or that is for another address is discarded with the frame, and a SERVICE that Table 15.4 does not list is answered BAD_SERVICE. -/
def Parts.Envelopes : Prop :=
  ∀ (z s : State) (r : Requester) (tid i sub : Nat) (e : Envelope), s = z.fecIn r.port e.frame → s.dorubPort r.port = true →
    (s.dorubTakes r e.frame = false → exec (.dorubRead ⟨r, e⟩ tid i sub) z = .next (s.bump (0x3320 + netNo r.port) 1 1)) ∧
    (r.port ≠ .mgt → s.frameOk r.port (!isIpv4 r.addr) e.frame = false ∨ s.ownIp r.port (!isIpv4 r.addr) = 0 ∨
      (∃ a, e.frame.ip = some a ∧ a ≠ s.ownIp r.port (!isIpv4 r.addr)) → s.dorubTakes r e.frame = false) ∧
    (s.dorubTakes r e.frame = true →
      (e.proto ≠ 0x0D0B ∨ e.ver ≠ 1 → exec (.dorubRead ⟨r, e⟩ tid i sub) z = .next (s.bump 0x3330 3 1)) ∧
      (e.proto = 0x0D0B → e.ver = 1 → e.service = 0 ∨ 10 < e.service → s.multi = none → s.repeated r tid = none →
        exec (.dorubRead ⟨r, e⟩ tid i sub) z =
          .next (s.reply { req := r, tid := tid, service := e.service, status := Dst.badService.code, index := i, sub := sub })))

/-- R343, R350: while a MULTI_WRITE waits, every other write waits too, whatever its path, behind those that came before it. -/
def Parts.WritesHeld : Prop :=
  ∀ s : State, s.multiHolds = true →
    (∀ (n : Nat) (x : Ctx) (k : Nat), n < Config.cores s.part →
      ∀ c ∈ [Instr.load n x k, .save n x, .saveFull n x, .halt n x, .resume n x, .clear n x, .coreEnable n, .coreDisable n], exec c s = .next (s.hold c)) ∧
    (∀ b v, (blockKind s.part b).isSome = true → ∀ c ∈ [Instr.wrcntWrite b v, .guardWrite (.block b) v], exec c s = .next (s.hold c)) ∧
    (∀ k v, k < Config.stackCount s.part → exec (.mcErrWrite k v) s = .next (s.hold (.mcErrWrite k v))) ∧
    (∀ i sub bs v o w a sev, ∀ c ∈ [Instr.registerWrite .jorto i sub bs, .guardWrite .pkg v, .watchTableWrite o bs, .pkgCapWrite w, .errAck a,
      .lostCountWrite sev], exec c s = .next (s.hold c)) ∧
    (∀ k, k < Config.slots s.part → s.up = true → ∀ c ∈ [Instr.slotEnable k, .slotDisable k], exec c s = .next (s.hold c)) ∧
    (s.up = true → ∀ c ∈ [Instr.form, .dissolve, .resolveFeast, .resolveFast], exec c s = .next (s.hold c)) ∧
    (∀ p, p < Config.ports s.part → s.fabricOn = true → ∀ c ∈ [Instr.fportEnable p, .fportDisable p], exec c s = .next (s.hold c)) ∧
    (s.fabricOn = true → ∀ c ∈ [Instr.loadOpen, .loadSeal, .switchEdition, .startDrain, .forceRetire], exec c s = .next (s.hold c)) ∧
    (∀ p b, p ≠ .mgt → exec (.portEnWrite p b) s = .next (s.hold (.portEnWrite p b))) ∧
    (∀ r n bs v i sub, s.dorubOn r = true → s.serves i = true → s.security.bootRomOnly = false → s.boot.state ≠ .dieTest →
      ∀ c ∈ [Instr.registerWrite (.dorub r) i sub bs, .profileSave r n, .selectNext r n, .defaults r n, .cancelNext r, .warmReset r, .fwVerify r,
        .fwActivate r, .commitSvn r, .fwChunk r n bs, .fwMinSvn r v, .attNonce r bs, .authOpen r bs, .authClose r, .transfer r bs, .lease r bs,
        .endLease r bs, .refurbish r bs, .finish r bs, .retireRecord r bs, .keyLoad r bs, .erase r v, .slot0Secret r bs, .debugToken r bs],
        exec c s = .next (s.hold c))

/-- Dorub requests are executed once, in order and in their envelope, and a waiting MULTI_WRITE holds every other write back (R318, R330, R331,
R340, R343, R350). -/
def Obligations.DorubOnce : Prop := Parts.RequestsOnce ∧ Parts.Envelopes ∧ Parts.WritesHeld

/-- The services (R339 to R344): READ answers the object's status and bytes, WRITE the status of the write, a write that disables a core when the
core has stopped, DESCRIBE the object's description; MULTI_WRITE applies its entries in order, and one that fails, the first or the second, ends it
with the count of those before it; a block read gives out slices of the object as it was at its start; a block write takes effect as one write, when
every byte has come and the CRC-32 agrees, and not at all otherwise. -/
def Obligations.DorubServices : Prop :=
  ∀ (s : State) (r : Requester) (tid i sub : Nat), s.dorubOn r = true → s.multi = none → s.repeated r tid = none → s.serves i = true →
    (∀ w p e, e.proto = 0x0D0B → e.ver = 1 → e.service = 1 → w = s.fecIn r.port e.frame → w.dorubTakes r e.frame = true →
      p = w.readObj r i sub → p.2.2.length ≤ pduMax r.port →
      exec (.dorubRead ⟨r, e⟩ tid i sub) s = .next (p.1.reply { req := r, tid := tid, service := 1, status := p.2.1.code, index := i, sub := sub, data := p.2.2 })) ∧
    (∀ bs p d, bs.length ≤ pduMax r.port → p = s.writeObj r i sub bs (some (rsp r tid 2 i sub)) → p.2 = some d →
      (p.1.awaits i sub = none →
        exec (.dorubWrite r tid i sub bs) s = .next (p.1.reply { req := r, tid := tid, service := 2, status := d.code, index := i, sub := sub })) ∧
      (∀ n, p.1.awaits i sub = some n → exec (.dorubWrite r tid i sub bs) s = .next { p.1 with
        multi := some ⟨r, tid, some n, false, 0, 0, [], some { rsp r tid 2 i sub with status := d.code }⟩ })) ∧
    (exec (.describe r tid i sub) s = .next (s.reply
      { req := r, tid := tid, service := 4, status := (s.describe i sub).1.code, index := i, sub := sub, data := (s.describe i sub).2 })) ∧
    exec (.multiWrite r tid []) s = .next (s.reply { req := r, tid := tid, service := 3, status := 0, index := 0, sub := 0, count := 0 }) ∧
    (∀ v rest n p d, rest.length < 100 → s.entrySize i sub = some n → p = s.writeObj r i sub (leBytes n v.toNat) (some (rsp r tid 3 i sub)) → p.2 = some d →
      (d.done = false → exec (.multiWrite r tid (⟨i, sub, v⟩ :: rest)) s =
        .next (p.1.reply { req := r, tid := tid, service := 3, status := d.code, index := 0, sub := 0, count := 0 })) ∧
      (d.done = true → rest = [] → p.1.awaits i sub = none → exec (.multiWrite r tid [⟨i, sub, v⟩]) s =
        .next (p.1.reply { req := r, tid := tid, service := 3, status := d.code, index := 0, sub := 0, count := 1 })) ∧
      (∀ j k y more m q c, d.done = true → p.1.awaits i sub = none → rest = ⟨j, k, y⟩ :: more → p.1.serves j = true → p.1.entrySize j k = some m →
        q = p.1.writeObj r j k (leBytes m y.toNat) (some (rsp r tid 3 j k)) → q.2 = some c → c.done = false →
        exec (.multiWrite r tid (⟨i, sub, v⟩ :: rest)) s =
          .next (q.1.reply { req := r, tid := tid, service := 3, status := c.code, index := 0, sub := 0, count := 1 }))) ∧
    (∀ p, s.xfers.length < 4 → p = s.readObj r i sub → p.2.1 = .ok → p.1.xfers = s.xfers →
      ∃ t, exec (.blockReadStart r tid i sub) s = .next t ∧
        t.xfers = s.xfers ++ [⟨p.1.newHandle, false, i, sub, p.2.2.length, Table.entries 0 0 p.2.2, []⟩]) ∧
    (∀ x off n, s.xfer x.handle = some x → x.write = false → off + n ≤ x.size → n ≤ pduMax r.port →
      exec (.blockReadSeg r tid x.handle off n) s = .next (s.reply { rsp r tid 6 x.index x.sub with
        xfer := x.handle, offset := off, data := Table.readList 0 off n x.buf })) ∧
    (∀ size, s.xfers.length < 4 → s.blockSize i sub size = .ok →
      ∃ t, exec (.blockWriteStart r tid i sub size) s = .next t ∧ t.xfers = s.xfers ++ [⟨s.newHandle, true, i, sub, size, [], []⟩] ∧ t.objs = s.objs) ∧
    (∀ size, 4 ≤ s.xfers.length → s.blockSize i sub size = .ok → ∃ t, exec (.blockWriteStart r tid i sub size) s = .next t ∧ t.xfers = s.xfers) ∧
    (∀ x, s.xfer x.handle = some x → x.write = true →
      (∀ off bs, bs.length ≤ pduMax r.port → off + bs.length ≤ x.size → ∃ t, exec (.blockWriteSeg r tid x.handle off bs) s = .next t ∧
        t.xfer x.handle = some { x with
          buf := Table.writeList 0 off bs x.buf, seen := Table.writeList false off (List.replicate bs.length true) x.seen } ∧
        t.objs = s.objs) ∧
      (∀ crc bs, bs = Table.readList 0 0 x.size x.buf → x.size ≤ x.seen.length → crc32 bs = crc → x.index = i → x.sub = sub →
        exec (.blockWriteEnd r tid x.handle crc) s =
          .next ((s.dropXfer x.handle).writeAnswered r { rsp r tid 9 i sub with xfer := x.handle } i sub bs)) ∧
      (∀ crc, x.seen.length < x.size ∨ crc32 (Table.readList 0 0 x.size x.buf) ≠ crc →
        ∃ t, exec (.blockWriteEnd r tid x.handle crc) s = .next t ∧ t.objs = s.objs ∧ t.octs = s.octs ∧ t.blocks = s.blocks ∧ t.xfer x.handle = none)) ∧
    (∀ x, s.xfer x.handle = some x →
      (∃ t, exec (.blockAbort r tid x.handle) s = .next t ∧ t.xfer x.handle = none ∧ t.objs = s.objs) ∧
      exec (.blockTransferIdle x.handle) s = .next { s with xfers := s.xfers.filter (fun y => y.handle ≠ x.handle) })

/-! ### Profiles (chapter 15) -/

/-- PROFILE_CMD (R351, R357 to R360, Table 15.14): under an unlocked package guard, with the authority that the lifecycle state asks for, SAVE and
DEFAULTS fix their values and run one at a time, SELECT_NEXT and CANCEL_NEXT set NEXT_PROFILE; a locked guard refuses and counts;
without authority only the guard changes; a completed save is the valid copy of highest generation, and the other copy stays. -/
def Obligations.ProfileCommands : Prop :=
  (∀ (s u : State) (r : Requester) (n : Nat), s.dorubOn r = true → s.serves 0x2000 = true → s.multi = none → n < 4 → u = s.pkgTouch →
    (s.profiles.guardOpen = false → ∀ i ∈ [Instr.profileSave r n, .selectNext r n, .defaults r n, .cancelNext r],
      exec i s = .next { s with profiles := { s.profiles with guardRefused := satAdd 32 s.profiles.guardRefused 1 } }) ∧
    (s.profiles.guardOpen = true → s.authorised r = false → ∀ i ∈ [Instr.profileSave r n, .selectNext r n, .defaults r n, .cancelNext r],
      exec i s = .next u) ∧
    (s.profiles.guardOpen = true → s.authorised r = true → s.profiles.saving ≠ none →
      ∀ i ∈ [Instr.profileSave r n, .selectNext r n, .defaults r n, .cancelNext r], exec i s = .next u) ∧
    (s.profiles.guardOpen = true → s.authorised r = true → s.profiles.saving = none →
      (s.mayWrite n = true → exec (.profileSave r n) s =
        .next { u with profiles := { u.profiles with saving := some ⟨n, true, s.storedVals, s.storedOcts⟩ } }) ∧
      (s.mayWrite n = true → exec (.defaults r n) s = .next { u with profiles := { u.profiles with saving := some ⟨n, false, [], []⟩ } }) ∧
      (s.mayWrite n = false → exec (.profileSave r n) s = .next u ∧ exec (.defaults r n) s = .next u) ∧
      exec (.selectNext r n) s = .next { u with profiles := { u.profiles with next := n } } ∧
      exec (.cancelNext r) s = .next { u with profiles := { u.profiles with next := 255 } })) ∧
  (∀ (s : State) (w : Saving) (p : Profile), s.profiles.saving = some w → p = s.profiles.get w.profile →
    ∃ t c, exec .profileSaveDone s = .next t ∧ t.profiles.saving = none ∧ (t.profiles.get w.profile).copy = some c ∧ c.vals = w.vals ∧ c.octs = w.octs ∧
      p.a.gen < c.gen ∧ p.b.gen < c.gen ∧ (p.copy = none ∨ (∃ o, p.copy = some o ∧ ((t.profiles.get w.profile).a = o ∨ (t.profiles.get w.profile).b = o))) ∧
      t.objs = s.objs ∧ t.octs = s.octs)

/-! ### Resets, start-up and test (chapter 17) -/

/-- COLD_RESET (R383, Table 17.1): BOOT_STATE is ROM; contexts, sessions and held packets are gone; no tenant key is left; core memories and shared
buffers read zero and HBM is as it was; NEXT_PROFILE is none; lifecycle state and owner stay. -/
def Parts.ColdReset : Prop :=
  ∀ (s : State) (powerOn clean : Bool), ∃ t, exec (.coldReset powerOn clean) s = .next t ∧ t.boot.state = .rom ∧ t.boot.cause = (if powerOn then 0 else 1) ∧
    t.part = s.part ∧ t.pending = s.pending ∧ (∀ n x, t.ctx n x = {}) ∧ t.sessions = [] ∧ t.router = [] ∧ t.inbox = [] ∧ t.security.auth = none ∧
    (∀ k, 1 ≤ k → k < 64 → (t.keySlot k).gen = 0) ∧ t.profiles.next = 255 ∧ t.profiles.saving = none ∧ t.profiles.profiles = s.profiles.profiles ∧
    t.security.lifecycle = s.security.lifecycle ∧ t.security.owner = s.security.owner ∧
    (∀ a, coreBase 0 ≤ a → t.byte a = 0) ∧ (∀ a, a < coreBase 0 → t.byte a = s.byte a)

/-- COLD_START (R386 to R393, R442, R449): the sequence ends READY exactly when no step fails: PLLs, the firmware of one slot, the release of every
die, identity, revisions, die-to-die links and stacks, cores and engines; every rail is then powered, every core disabled, edition 0 generated from
node ID and torus size, and every port training or, with a bad node ID, disabled. A PLL that fails ends it in Vigil mode. The dies are released one
after another, each with the next round of junction readings below 95 °C; with none left while the last round is hot, the rails of the last die stay
off, and with fewer dies that answer than the part has, the sequence stands at RELEASE; DIE_RELEASE_TIMEOUT ends it in Vigil mode for a die that has
its rails and no answer, and for no other. That a start with no readings counts as cool and that it stands at RELEASE are the model's choice, log
entry 126. -/
def Parts.ColdStart : Prop :=
  (∀ (s : State) (i : StartInputs) (act : Nat) (firmware cool : Prop), s.boot.state = .rom → (i.testMode = 2 && s.testPermitted) = false →
    act = s.security.fwActive % 2 →
    (firmware ↔ (s.security.imageOk act 1 = true ∧ s.security.imageOk act 2 = true) ∨
      (s.security.imageOk act 1 = false ∧ s.security.imageOk (1 - act) 1 = true ∧ s.security.imageOk (1 - act) 2 = true)) →
    (cool ↔ Config.dies s.part ≤ (i.junction.filter (fun r => r.all (· < 95))).length ∨ ∀ r, i.junction.getLast? = some r → ∀ x ∈ r, x < 95) →
    ∃ t, exec (.coldStart i) s = .next t ∧ (t.boot.state = .ready ∨ t.boot.state = .vigil ∨ t.boot.state = .release) ∧
      (t.boot.state = .ready ↔ i.pllOk = true ∧ i.pllsOk = true ∧ firmware ∧ cool ∧ Config.dies s.part ≤ i.dieIds.length ∧
        identityOk s.part i = true ∧ s.badPair = none ∧ i.ddiOk = true ∧ (∀ k < Config.stackCount s.part, i.stackOk.getD k true = true) ∧
        (∀ n ∈ i.coreFail, Config.cores s.part ≤ n) ∧ (∀ e ∈ i.engineFail, e.1 < Config.cores s.part → e.2 % 16 = 0)) ∧
      (t.boot.state = .ready → (∀ d < Config.dies s.part, ∀ k < 7, (d, k) ∈ t.power.rails) ∧
        (∀ n < Config.cores s.part, (t.block (blkCore n)).en = false) ∧ t.almanac.cur = .generated t.boot.node t.boot.dim ∧ t.almanac.curEd = 0 ∧
        (∀ p < Config.ports s.part, (t.fport p).state = if t.boot.nodeBad then .disabled else .training)) ∧
      (i.pllOk = false → t.boot.state = .vigil) ∧
      (¬cool → t.boot.state = .vigil ∨ (t.boot.state = .release ∧ (Config.dies s.part - 1, 0) ∉ t.power.rails))) ∧
  (∀ (s : State) (die : Nat),
    (s.boot.state = .release → die < Config.dies s.part → (die, 0) ∈ s.power.rails → s.boot.answered ≤ die →
      ∃ t, exec (.dieReleaseTimeout die) s = .next t ∧ t.boot.state = .vigil) ∧
    (s.boot.state ≠ .release ∨ (die, 0) ∉ s.power.rails ∨ die < s.boot.answered → exec (.dieReleaseTimeout die) s = .next s))

/-- Cold reset and start-up (R383, R386 to R393, R449). -/
def Obligations.ColdStartUp : Prop := Parts.ColdReset ∧ Parts.ColdStart

/-- WARM_RESET and its end (R351, R384, R385, Table 17.1): under an unlocked guard, with authority, outside doubt, the package stays READY with a warm
reset under way: contexts EMPTY, the group left, sessions closed, the authorisation closed, core memories and shared buffers zero; HBM,
PORT_EN and the CURRENT edition stay. In doubt, or without authority, nothing changes but the guard. -/
def Obligations.WarmResets : Prop :=
  (∀ (s : State) (r : Requester), s.dorubOn r = true → s.serves 0x1003 = true → s.multi = none →
    (s.profiles.guardOpen = false → exec (.warmReset r) s =
      .next { s with profiles := { s.profiles with guardRefused := satAdd 32 s.profiles.guardRefused 1 } }) ∧
    (s.profiles.guardOpen = true → s.authorised r = false ∨ s.boot.state ≠ .ready ∨ s.group.inDoubt = true → exec (.warmReset r) s = .next s.pkgTouch) ∧
    (s.profiles.guardOpen = true → s.authorised r = true → s.boot.state = .ready → s.group.inDoubt = false →
      ∃ t, exec (.warmReset r) s = .next t ∧ t.boot.state = .ready ∧ t.boot.warm = true ∧ t.boot.cause = 2 ∧ (∀ n x, t.ctx n x = {}) ∧ t.group = {} ∧
        t.sessions = [] ∧ t.security.auth = none ∧ (∀ n < Config.cores s.part, (t.block (blkCore n)).en = false) ∧
        t.almanac.cur = s.almanac.cur ∧ t.almanac.curEd = s.almanac.curEd ∧ t.almanac.bank2 = .free ∧ t.obj 0x1100 1 = s.obj 0x1100 1 ∧ t.obj 0x1101 1 = s.obj 0x1101 1 ∧
        (∀ a, coreBase 0 ≤ a → t.byte a = 0) ∧ (∀ a, a < coreBase 0 → t.byte a = s.byte a))) ∧
  (∀ s : State, exec .warmResetDone s = .next { s with boot := { s.boot with warm := false } })

/-- DIE_TEST, MANUFACTURING_TEST and LEDGER_COMMIT (R399, R400, R428, R434, R435): the permitted stand-alone test leaves its results and runs
nothing of start-up; manufacturing test blows the VENDOR fuse, locks debug and takes the private instructions out of the TAPs; a commit writes
a copy of the ledger with the next LEDGER_SEQ. -/
def Parts.TestAndLedger : Prop :=
  (∀ (s : State) (die : Nat) (i : DieTestInputs), die < 4 → s.boot.state = .rom → s.testPermitted = true →
    ∃ t, exec (.dieTest 2 die i) s = .next t ∧ t.boot.state = .dieTest ∧ t.boot.testDie = die ∧ t.boot.testPass = i.passMask % 32 ∧
      t.boot.testCore = i.coreFail % 2 ^ 24 ∧ t.boot.testEngine = i.engineFail % 2 ^ 96 ∧ t.boot.testStack = i.stackFail % 64 ∧
      t.security.ledger.dieTestRun = true ∧ t.mem = s.mem) ∧
  (∀ s : State, s.security.lifecycle = .manufacture →
    ∃ t, exec .manufacturingTest s = .next t ∧ t = { s with taps := t.taps, security := { s.security with vendorFuse := true, debugScope := 0 } } ∧
      (s.security.stored.lifecycle = .manufacture → t.security.lifecycle = .vendor) ∧ (∀ d c, (t.tap d).reg ≠ .priv c)) ∧
  (∀ s : State, s.security.lifecycle ≠ .manufacture → exec .manufacturingTest s = .next s) ∧
  (∀ s : State, s.boot.state ≠ .rom → s.boot.state ≠ .dieTest →
    ∃ t, exec .ledgerCommit s = .next t ∧ t.security.ledger.seq = s.security.ledger.seq + 1 ∧
      (t.security.ledgerA = ⟨true, t.security.ledger⟩ ∧ t.security.ledgerB = s.security.ledgerB ∨
        t.security.ledgerB = ⟨true, t.security.ledger⟩ ∧ t.security.ledgerA = s.security.ledgerA))

/-- R397: the IDCODE of a die holds its revision step in [31:28] (0 for A0, 1 for A1, 2 for B0), 0x5E42 in [27:12], the manufacturer code in [11:1]
and 1 in [0]; IDCODE selects it. -/
def Obligations.IdcodeLayout : Prop :=
  ∀ (s : State) (d : Nat), d < Config.dies s.part → s.tapReaches d = true →
    ∃ t, exec (.idcode d) s = .next t ∧ t.tapOut d = (List.range 32).map (fun i => (s.idcode d).getLsbD i) ∧
      (s.dieRev d = 0x0100 → (s.idcode d).toNat / 2 ^ 28 = 0) ∧ (s.dieRev d = 0x0101 → (s.idcode d).toNat / 2 ^ 28 = 1) ∧
      (s.dieRev d = 0x0200 → (s.idcode d).toNat / 2 ^ 28 = 2) ∧ (s.idcode d).toNat / 2 ^ 12 % 2 ^ 16 = 0x5E42 ∧
      (s.idcode d).toNat / 2 % 2 ^ 11 = ((Config.fusedByte (okey 0x1000 3) 0).toNat + 256 * (Config.fusedByte (okey 0x1000 3) 1).toNat) % 2 ^ 11 ∧
      (s.idcode d).toNat % 2 = 1

/-- The test access port (R395, R396, R398): BYPASS selects its one bit, SAMPLE/PRELOAD the boundary register with the cells shifted in; EXTEST and
CLAMP drive the outputs, and after BOOT_STATE has left ROM put the package in Vigil mode with the outputs held; a private code acts only where
debug allows and selects BYPASS otherwise, also when debug is withdrawn after it was loaded; an instruction for a die that the port does not reach changes nothing; the release of TRST_N
resets every TAP (to IDCODE, which is the model's choice, log entry 31) and samples JTAG_SEL. -/
def Parts.Tap : Prop :=
  (∀ (s : State) (d : Nat), d < Config.dies s.part →
    (s.tapReaches d = true →
      (∃ t, exec (.bypass d) s = .next t ∧ t.tapOut d = [false] ∧ t = { s with taps := t.taps }) ∧
      (∀ cells, ∃ t, exec (.samplePreload d cells) s = .next t ∧ t.tapOut d = cells ∧ t = { s with taps := t.taps }) ∧
      (s.boot.state = .rom → ∀ e ∈ [(Instr.extest d, TapInst.extest, TapReg.boundary), (.clamp d, .clamp, .bypass)],
        exec e.1 s = .next (s.setTap d { s.tap d with inst := e.2.1, reg := e.2.2, driving := true })) ∧
      (s.boot.state ≠ .rom → ∀ e ∈ [(Instr.extest d, TapInst.extest, TapReg.boundary), (.clamp d, .clamp, .bypass)],
        ∃ t, exec e.1 s = .next t ∧ t.boot.state = .vigil ∧ t.tap d = { s.tap d with inst := e.2.1, reg := e.2.2, driving := true, held := true } ∧
          t.mem = s.mem) ∧
      (∀ code, ∃ t, exec (.privateInstruction d code) s = .next t ∧ t = { s with taps := t.taps } ∧
        (t.tap d).reg = (if s.privateOn d code then .priv (code % 256) else .bypass))) ∧
    (∀ code, (s.tap d).reg = .priv code → s.privateOn d code = false → s.tapOut d = [false]) ∧
    (s.tapReaches d = false → ∀ code cells,
      ∀ i ∈ [Instr.bypass d, .samplePreload d cells, .extest d, .idcode d, .clamp d, .privateInstruction d code], exec i s = .next s)) ∧
  (∀ (s : State) (sel : Nat), Table.wf {} s.taps = true → ∃ t, exec (.trstnRelease sel) s = .next t ∧ t.boot = { s.boot with tapSel := sel % 4 } ∧
    (∀ d, (t.tap d).reg = .idcode ∧ (t.tap d).held = (s.tap d).held))

/-- Tests of the part, the ledger's commit, and the test access port (R395, R396, R398 to R400, R428, R435). -/
def Obligations.TestAccess : Prop := Parts.TestAndLedger ∧ Parts.Tap

/-! ### Errors (chapter 18) -/

/-- R411, R442: the capture of a UF occurrence, queued or lost, puts the package in Vigil mode: no core issues, no context has an operation, every held
packet is gone, no port holds a frame to send again, and VDDC and the fabric lanes are off. -/
def Obligations.FatalErrors : Prop :=
  ∀ (s : State) (cls : Nat) (w : ErrAt), classSev cls = 3 → s.boot.state ≠ .vigil →
    (s.capture cls w).boot.state = .vigil ∧ (s.capture cls w).router = [] ∧ (s.capture cls w).inbox = [] ∧ (s.capture cls w).sent = [] ∧
    (∀ p < Config.ports s.part, ((s.capture cls w).fport p).replay = []) ∧ (s.capture cls w).mem = s.mem ∧
    (∀ d, (d, 0) ∉ (s.capture cls w).power.rails) ∧ (s.capture cls w).power.fabricLanes = [] ∧
    ∀ n x, ((s.capture cls w).ctx n x).ops = [] ∧ (s.capture cls w).canIssue n = false

/-- RECORD_HANDLING, ERR_ACK and LOST_CE to LOST_UF (R406, R407, R410): the record under way becomes HANDLED, its event is sent for DE, UC and UF,
and the next is taken up; ERR_ACK takes out every HANDLED record at or below its value and no other; a write of a lost count clears that severity's
share of every die. -/
def Obligations.ErrorQueues : Prop :=
  ∀ (s : State) (d : Nat), d < Config.dies s.part →
    (∀ r q, (s.errQueue d).find? (fun r => r.phase == .handling) = some r →
      q = s.setErrQueue d (takeUp ((s.errQueue d).map (fun y => if y.seq = r.seq then { y with phase := .handled } else y))) →
      (r.sev = 0 → exec (.recordHandling d) s = .next q) ∧
      (r.sev ≠ 0 → exec (.recordHandling d) s = .next (q.event 7 r.die r.source r.step (errHead r) none))) ∧
    (∀ v : Word, s.multiHolds = false → ∃ t, exec (.errAck v) s = .next t ∧ t = { s.pkgTouch with errors := t.errors } ∧
      t.errQueue d = (s.errQueue d).filter (fun r => !(r.phase == .handled && seqAtMost r.seq v.toNat))) ∧
    (∀ sev, sev < 4 → s.multiHolds = false → ∃ t, exec (.lostCountWrite sev) s = .next t ∧ t = { s.pkgTouch with errors := t.errors } ∧
      t.lostShares d = (s.lostShares d).set sev 0 ∧ t.errQueue d = s.errQueue d)

/-! ### Security (chapter 19) -/

/-- The owner authorisation (R426): AUTH_OPEN with a signature by the owner's key over challenge, serial number and LC_COUNT opens it for its
writer, any other is recorded as AUTH_FAIL; the challenge is replaced either way; AUTH_CLOSE from its requester and AUTH_IDLE close it; SLOT0_SECRET
is written with authority alone. -/
def Parts.Authorisation : Prop :=
  ∀ (s u : State) (r : Requester), s.dorubOn r = true → s.serves 0x5020 = true → s.serves 0x5200 = true → s.multi = none → u = s.pkgTouch →
    (∀ sig, s.security.lifecycle.guardedByOwner = true → rsaVerify s.security.owner s.authMessage sig = true →
      exec (.authOpen r sig) s = .next { u with
        security := { u.security with auth := some r, challengeNo := u.security.randomNext, randomNext := u.security.randomNext + 1 } }) ∧
    (∀ sig, s.security.lifecycle.guardedByOwner = false ∨ rsaVerify s.security.owner s.authMessage sig = false →
      ∃ t, exec (.authOpen r sig) s = .next t ∧ t.security.auth = s.security.auth ∧ t.security.challengeNo = s.security.randomNext) ∧
    (s.security.auth = some r → exec (.authClose r) s = .next { u with security := { u.security with auth := none } }) ∧
    (s.security.auth ≠ some r → exec (.authClose r) s = .next u) ∧
    exec .authIdle s = .next { s with security := { s.security with auth := none } } ∧
    (∀ bs, bs.length = 32 → exec (.slot0Secret r bs) s =
      .next (if s.authorised r then { u with security := u.security.keep (fun v => { v with slot0Secret := bs }) } else u))

/-- Lifecycle records (R420, R428, R429, Table 19.6): a record that a check refuses changes no lifecycle state; an accepted TRANSFER, LEASE or FINISH
takes effect at once, raises LC_COUNT and closes the authorisation; an accepted END_LEASE, REFURBISH or RETIRE first erases every tenant slot, and
takes effect when the erase is done; RETIRE blows the RETIRED fuse, and a part with that fuse is RETIRED and one without the VENDOR fuse in
MANUFACTURE, whatever the store holds; the store's valid copy of highest generation is what it holds, and a change leaves that copy as it was. The record
that blows a revocation fuse (its kind is the model's choice, log entry 138) needs a firmware key that is not revoked, in VENDOR or REFURBISH, and
revokes its key. -/
def Obligations.Lifecycle : Prop :=
  (∀ (s u : State) (r : Requester) (b : List Byte), s.dorubOn r = true → s.serves 0x5000 = true → s.multi = none → b.length = 896 → u = s.pkgTouch → s.recBusy = false →
    ∀ e ∈ [(Instr.transfer r b, 1), (.lease r b, 2), (.endLease r b, 3), (.refurbish r b, 4), (.finish r b, 5), (.retireRecord r b, 6)], recKind b = e.2 →
      (∀ d, u.recRefused b = some d → exec e.1 s = .next (if d = .auth then u.capture 0x42 {} else u)) ∧
      (u.recRefused b = none → recErases e.2 = false →
        ∃ t, exec e.1 s = .next t ∧ t.security.lcCount = s.security.lcCount + 1 ∧ t.security.auth = none ∧
          (e.2 = 1 → t.security.owner = recOwner b ∧ (s.security.lifecycle = .vendor → t.security.lifecycle = .owned) ∧
            (s.security.lifecycle ≠ .vendor → t.security.lifecycle = s.security.lifecycle ∧ t.security.slot0Secret = [])) ∧
          (e.2 = 2 → t.security.lifecycle = .leased ∧ t.security.lessee = recLessee b) ∧
          (e.2 = 5 → t.security.lifecycle = .owned ∧ t.security.owner = s.security.nextOwner ∧ t.profiles.next = 255)) ∧
      (u.recRefused b = none → recErases e.2 = true → s.security.eraseQueue = [] →
        ∃ t, exec e.1 s = .next t ∧ t.security.lifecycle = s.security.lifecycle ∧ t.security.lcCount = s.security.lcCount ∧
          t.security.eraseQueue = [⟨255, .record b, r, none⟩] ∧ t.security.erasePending = true ∧
          ∀ k, 1 ≤ k → k < 64 → (t.keySlot k).gen = 0 ∧ (t.keySlot k).erasing = true)) ∧
  (∀ (s : State) (r : Requester) (b : List Byte), s.security.eraseQueue = [⟨255, .record b, r, none⟩] → s.multi = none → s.heldWrites = [] →
    s.security.lifecycle ≠ .manufacture → s.security.lifecycle ≠ .retired →
    ∃ t, exec .eraseDone s = .next t ∧ t.security.lcCount = s.security.lcCount + 1 ∧ t.security.auth = none ∧ t.security.eraseQueue = [] ∧
      t.security.erasePending = false ∧ (∀ k, 1 ≤ k → k < 64 → t.keySlot k = {}) ∧
      (recKind b = 3 → t.security.lifecycle = .owned ∧ t.security.lessee = []) ∧
      (recKind b = 4 → t.security.lifecycle = .refurbish ∧ t.security.nextOwner = (if recOwner b = 0 then s.security.owner else recOwner b) ∧ t.profiles.next = 3) ∧
      (recKind b = 6 → t.security.lifecycle = .retired ∧ t.security.retiredFuse = true)) ∧
  (∀ z : Security, (z.retiredFuse = true → z.lifecycle = .retired) ∧ (z.retiredFuse = false → z.vendorFuse = false → z.lifecycle = .manufacture) ∧
    ∀ f, (z.keep f).stored = f z.stored ∧
      (z.newestA = true → (z.keep f).storeA = z.storeA) ∧ (z.newestA = false → (z.keep f).storeB = z.storeB)) ∧
  (∀ (s u : State) (r : Requester) (b : List Byte), b.length = 896 → recKind b = revokeKind → u = s.pkgTouch → s.recBusy = false →
    (s.security.lifecycle ≠ .vendor → s.security.lifecycle ≠ .refurbish → u.recRefused b = some .badValue) ∧
    ((∀ k < 3, k ∈ s.security.revoked ∨ rsaVerify (Config.ixmerModulus k) (slice b 0 0x200) (slice b 0x200 384) = false) → u.recRefused b ≠ none) ∧
    (u.recRefused b = none → revokedKey b ∈ (u.lcRecord r b none).security.revoked ∧
      (∀ k ∈ s.security.revoked, k ∈ (u.lcRecord r b none).security.revoked) ∧
      (u.lcRecord r b none).security.lcCount = s.security.lcCount + 1))

/-- KEY_LOAD, ERASE and DEBUG_TOKEN (R430 to R434): an accepted key record fills its EMPTY slot with a new key, a refused one changes no slot and is
recorded; an erase destroys the slot's key at once, closes its sessions, and leaves the slot EMPTY when it is done; a debug token that
verifies erases every tenant slot before it unlocks, any other unlocks nothing, and each renews the challenge. -/
def Obligations.TenantKeys : Prop :=
  ∀ (s u : State) (r : Requester), s.dorubOn r = true → s.serves 0x5200 = true → s.serves 0x5380 = true → s.multi = none → u = s.pkgTouch →
    (∀ rec k p, rec.length = 416 → k = leNat (slice rec 0 1) → s.security.lifecycle = .owned ∨ s.security.lifecycle = .leased → s.security.auth = some r →
      u.keyPlain rec = some p →
      ∃ t, exec (.keyLoad r rec) s = .next t ∧ t.security.genNext = s.security.genNext + 1 ∧
        t.keySlot k = { gen := s.security.genNext, listed := true, tag := slice rec 0x10 16,
                        secret := if bitOf (leNat (slice rec 1 1)) 0 then slice p 64 32 else [], useJorto := bitOf (leNat (slice rec 1 1)) 0 } ∧
        ∀ j, j ≠ k → t.keySlot j = s.keySlot j) ∧
    (∀ rec, rec.length = 416 → s.security.lifecycle = .owned ∨ s.security.lifecycle = .leased → s.security.auth = some r → u.keyPlain rec = none →
      exec (.keyLoad r rec) s = .next (u.capture 0x44 {})) ∧
    (∀ v, s.authorised r = true → s.security.eraseQueue = [] → 1 ≤ v ∧ v ≤ 63 ∨ v = 255 →
      ∃ t, exec (.erase r v) s = .next t ∧ t.security.eraseQueue = [⟨v, .itself, r, none⟩] ∧ t.security.erasePending = true ∧
        (∀ k, 1 ≤ k → k < 64 → k = v ∨ v = 255 → (t.keySlot k).gen = 0 ∧ (t.keySlot k).erasing = true ∧ ∀ ss ∈ t.sessions, ss.key ≠ k)) ∧
    (∀ v, s.authorised r = false ∨ v = 0 ∨ (63 < v ∧ v ≠ 255) → exec (.erase r v) s = .next u) ∧
    (∀ j, s.security.eraseQueue = [j] → j.what = .itself → j.answer = none → 1 ≤ j.slot → j.slot ≤ 63 → s.heldWrites = [] →
      ∃ t, exec .eraseDone s = .next t ∧ t.keySlot j.slot = {} ∧ t.security.eraseQueue = [] ∧ t.security.erasePending = false ∧
        t.security.ledger.erases = satAdd 32 s.security.ledger.erases 1) ∧
    (∀ bs, bs.length = 448 →
      (∀ d, u.tokenRefused r bs = some d → ∃ t, exec (.debugToken r bs) s = .next t ∧ t.security.debugScope = s.security.debugScope ∧
        t.security.debugChallengeNo = s.security.randomNext) ∧
      (u.tokenRefused r bs = none → s.security.eraseQueue = [] → ∃ t, exec (.debugToken r bs) s = .next t ∧ t.security.debugScope = s.security.debugScope ∧
        t.security.debugChallengeNo = s.security.randomNext ∧ t.security.eraseQueue = [⟨255, .token (leNat (slice bs 48 4)), r, none⟩] ∧
        ∀ k, 1 ≤ k → k < 64 → (t.keySlot k).gen = 0))

/-- Firmware and attestation (R420 to R425): VERIFY marks the staged slot by whether both its images verify, ACTIVATE needs that mark, a chunk
clears it; fused and minimum SVN never fall, and the minimum never rises above the running images; a nonce makes a report with that nonce for its
writer, which the writer can read when it is ready. The report's values are those of the instant of the nonce's write, which is the model's reading,
log entry 68. -/
def Parts.FirmwareAndReports : Prop :=
  ∀ (s u : State) (r : Requester) (z : Security), s.dorubOn r = true → s.serves 0x5100 = true → s.serves 0x5101 = true → s.serves 0x5300 = true →
    s.multi = none → u = s.pkgTouch → z = s.security →
    (s.ownerOnly r none = none →
      exec (.fwVerify r) s = .next { u with security := { z with stagedOk := z.imageOk z.staged 1 && z.imageOk z.staged 2 } } ∧
      (z.stagedOk = true → exec (.fwActivate r) s = .next { u with security := { z with activated := true } }) ∧
      (z.stagedOk = false → exec (.fwActivate r) s = .next u) ∧
      (z.bootRomOnly = false → exec (.commitSvn r) s = .next { u with security := { z with
        fusedSvnW := max z.fusedSvnW (z.imageVersion z.fwBooted 1).2, fusedSvnD := max z.fusedSvnD (z.imageVersion z.fwBooted 2).2 } }) ∧
      (∀ v, z.fwMinSvn ≤ v → v ≤ min (z.imageVersion z.fwBooted 1).2 (z.imageVersion z.fwBooted 2).2 →
        exec (.fwMinSvn r v) s = .next { u with security := { z with fwMinSvn := v } }) ∧
      (∀ v, v < z.fwMinSvn ∨ min (z.imageVersion z.fwBooted 1).2 (z.imageVersion z.fwBooted 2).2 < v → exec (.fwMinSvn r v) s = .next u) ∧
      (∀ n bs, 1 ≤ n → n ≤ 64 → bs.length = 131072 → exec (.fwChunk r n bs) s =
        .next { u with security := { z.setFw z.staged ((z.fw z.staged).put n bs) with stagedOk := false } })) ∧
    (s.ownerOnly r none ≠ none → ∀ n v bs, ∀ i ∈ [Instr.fwVerify r, .fwActivate r, .commitSvn r, .fwMinSvn r v, .fwChunk r n bs],
      exec i s = .next u ∨ exec i s = .next s) ∧
    (∀ nonce, nonce.length = 32 → ∃ t, exec (.attNonce r nonce) s = .next t ∧ t.security.randomNext = z.randomNext + 1 ∧
      t.security.reports = z.reports.filter (fun y => !(y.req == r && !y.ready)) ++ [⟨r, nonce, false, u.report2 r nonce⟩]) ∧
    (∀ a, z.reports.find? (fun a => a.req == r && !a.ready) = some a →
      ∃ t, exec (.attReportReady r) s = .next t ∧ t.security.reports.find? (fun y => y.req == r && y.ready) = some { a with ready := true })

/-- The owner authorisation, firmware and attestation (R420 to R426). -/
def Obligations.WardenServices : Prop := Parts.Authorisation ∧ Parts.FirmwareAndReports

/-! ### The whole block -/

/-- A step takes the command at the front of the queue and runs it on the rest; with no command waiting, one tick of the counters of the dies
that are out of reset passes (R363) and the queue stays empty (that it passes then is the model's choice, log entry 19). -/
def Obligations.StepTakesTheFront : Prop :=
  (∀ (c : Instr) (cs : List Instr) (s : State), step { s with pending := c :: cs } = exec c { s with pending := cs }) ∧
  (∀ s : State, s.pending = [] → ∃ t, step s = .next t ∧ t.pending = [] ∧ t.mem = s.mem ∧
    (s.power.refLost = false → ∀ d < Config.dies s.part,
      (s.dieOut d = true → t.counter d = (s.counter d + 1) % 2 ^ 64) ∧ (s.dieOut d = false → t.counter d = s.counter d)))

/-- What reset leaves (R383, Table 17.1): BOOT_STATE ROM, every context EMPTY with its registers 0 and no operation, every block disabled, memories
zero, queues and tables empty, no group, every port DISABLED, the guard locked, one CURRENT edition 0. That State.reset is the machine in ROM before
start-up is the model's choice (log entry 8), as are registers and PC at 0 (log entry 9) and HBM that reads zero (log entries 10 and 1). -/
def Obligations.ResetState : Prop :=
  State.reset.boot.state = .rom ∧ State.reset.pending = [] ∧ State.reset.mem = [] ∧ (∀ a, State.reset.byte a = 0) ∧
  (∀ n x, (State.reset.ctx n x).state = .empty ∧ (State.reset.ctx n x).pc = 0 ∧ (∀ g, (State.reset.ctx n x).reg g = 0) ∧ (State.reset.ctx n x).ops = []) ∧
  (∀ b, (State.reset.block b).en = false ∧ (State.reset.block b).guardOpen = false) ∧ (∀ p, (State.reset.fport p).state = .disabled) ∧
  State.reset.group.state = .none ∧ State.reset.sessions = [] ∧ State.reset.events = [] ∧ State.reset.router = [] ∧ State.reset.inbox = [] ∧
  (∀ d, State.reset.errQueue d = [] ∧ State.reset.counter d = 0) ∧ State.reset.profiles.guardOpen = false ∧ State.reset.almanac.curEd = 0 ∧
  State.reset.almanac.bank2 = .free ∧ State.reset.security.auth = none ∧ (∀ i j, State.reset.tot i j = 0)

/-- The invariant holds at reset. -/
def Obligations.InvAtReset : Prop := State.reset.Inv

/-- From every state with the invariant, reachable or not, a step that answers a next state keeps the invariant: the memory stays in its one
canonical form, so that states with equal memories are equal. -/
def Obligations.InvKeptByStep : Prop := ∀ s t : State, s.Inv → step s = .next t → t.Inv

/-- The block refuses no command and stops on none: every command answers a next state, and one that names a unit which the part does not have
changes nothing, which is the model's choice (log entry 135). -/
def Obligations.AnswersNext : Prop :=
  (∀ (i : Instr) (s : State), ∃ t, exec i s = .next t) ∧
  (∀ (i : Instr) (s : State) (u : Named), i.unit = some u → u.ok s.part = false → exec i s = .next s)
end

