-- ==== Sys2Proof/Laws/Control.lean ====
section
/-! SUPPORT. The control slot: what a bundle of one control slot and three NOPs does when it issues, and the fields of each control word. -/

namespace Sys2Proof.Machine

/-! ### The bundle of one control slot -/

theorem bundleCtl_append (w : Word) : bundleCtl (w ++ 0#96) = w := by
  unfold bundleCtl
  ext i h
  simp only [BitVec.getElem_extractLsb', BitVec.getLsbD_append]
  rw [if_neg (by omega)]
  simp [h]

theorem bundleSlot_append (w : Word) (k : Eng) : bundleSlot (w ++ 0#96) k = 0 := by
  cases k <;> unfold bundleSlot <;> ext i h <;> simp only [BitVec.getElem_extractLsb', BitVec.getLsbD_append] <;>
    rw [if_pos (by omega)] <;> simp

/-- A control slot that its own bits do not refuse. -/
def ctlLegal (w : Word) : Bool :=
  ctlDefined (ctlOp w) && !(ctlOp w = 15 && 28 < dwrGa w) && !(ctlOp w = 12 && 5 < cmpCond w) && !(ctlOp w = 17 && 11 < ctlGa w)

theorem slotIllegal_nop (s : State) (n : Nat) (x : Ctx) (k : Eng) : slotIllegal s n x k 0 = false := by
  cases k <;> simp [slotIllegal, opDefined, opcodeOf, regSpan, bitsOf, matGp, vecGp, strGa]

theorem bundleIllegal_ctl (s : State) (n : Nat) (x : Ctx) (w : Word) (h : ctlLegal w = true) :
    bundleIllegal s n x (w ++ 0#96) = false := by
  simp only [ctlLegal, Bool.and_eq_true, Bool.not_eq_true'] at h
  obtain ⟨⟨⟨h1, h2⟩, h3⟩, h4⟩ := h
  simp only [bundleIllegal, bundleCtl_append, bundleSlot_append, slotIllegal_nop, h1, h2, h3, h4]
  simp [engines, opcodeOf, bitsOf]

theorem bundleOps_ctl (s : State) (c : Context) (w : Word) : s.bundleOps c (w ++ 0#96) = [] := by
  simp [State.bundleOps, engines, bundleSlot_append, isOp, opcodeOf, bitsOf]

theorem bundleRegs_ctl (w : Word) : bundleRegs (w ++ 0#96) = ctlReads w ++ ctlWrites w := by
  simp [bundleRegs, bundleCtl_append, bundleSlot_append, engines, regSpan, opcodeOf, bitsOf]

/-- The context after its bundle of one control slot has issued. -/
def State.afterCtl (s : State) (n : Nat) (x : Ctx) (w : Word) : Context :=
  let c := s.ctx n x
  { s.ctlEffect n x w c with pc := nextPc w c, state := .running, issued := c.issued, cntC := if ctlOp w = 0 then c.cntC else c.cntC + 1 }.settle

/-- A control slot that meets no refusal and no wait issues: its context and the core's switching flags change, nothing else. -/
theorem issueCtl_next (n : Nat) (w : Word) (s : State) (hr : ReadyFor n (ctlReads w ++ ctlWrites w) s) (hl : ctlLegal w = true)
    (hd : ctlOp w = 15 → s.dwrHeld n (s.ctx n (s.coreSt n).active) (dwrDi w) = false)
    (hw : ctlOp w = 14 → waitcHolds (s.ctx n (s.coreSt n).active) w = true) :
    issueCtl n w s = .next ((s.setCtx n (s.coreSt n).active (s.afterCtl n (s.coreSt n).active w)).setCoreSt n
      { s.coreSt n with switching := false, resumed := false }) := by
  obtain ⟨hn, hc, hp⟩ := hr
  have hi : s.interlocked n (s.coreSt n).active (s.ctx n (s.coreSt n).active) (w ++ 0#96) = false := by
    simp only [State.interlocked, bundleCtl_append, bundleOps_ctl, bundleRegs_ctl]
    have h1 : (ctlReads w ++ ctlWrites w).any (fun g => (s.ctx n (s.coreSt n).active).pendingRegs.contains g) = false := by
      rw [List.any_eq_false]; intro g hg; rw [hp g hg]; exact Bool.false_ne_true
    rw [h1]
    by_cases h15 : ctlOp w = 15
    · simp [hd h15]
    · simp [h15]
  have hq : (s.ctx n (s.coreSt n).active).notReady (w ++ 0#96) = false := by
    simp only [Context.notReady, bundleCtl_append, bundleSlot_append]
    by_cases h14 : ctlOp w = 14
    · simp [hw h14, engines, isOp, opcodeOf, bitsOf]
    · simp [h14, engines, isOp, opcodeOf, bitsOf]
  have he : s.issueEnd n (s.coreSt n).active (w ++ 0#96) = .go := by
    simp only [State.issueEnd, bundleIllegal_ctl _ _ _ _ hl, hi, hq, bundleOps_ctl]
    simp [firstFault, faultOrder]
  have hs : s.issued n (s.coreSt n).active (w ++ 0#96) = s.afterCtl n (s.coreSt n).active w := by
    simp only [State.issued, State.afterCtl, bundleCtl_append, bundleOps_ctl]
    simp
  unfold issueCtl
  simp only [BitVec.ofNat_eq_ofNat]
  rw [if_pos hn, if_pos hc]
  simp only [State.issue, he, hs, State.markPop, bundleSlot_append, State.markReshards, bundleOps_ctl]
  simp [opcodeOf, bitsOf, State.coreSt, State.setCtx]

/-! ### The fields of each control word (Table 6.13) -/

theorem ctlR_fields (op gd ga gb : Nat) (ho : op < 64) (hd : gd < 32) (ha : ga < 32) (hb : gb < 32) :
    ctlOp (ctlR op gd ga gb) = op ∧ ctlGd (ctlR op gd ga gb) = gd ∧ ctlGa (ctlR op gd ga gb) = ga ∧ ctlGb (ctlR op gd ga gb) = gb := by
  simp only [ctlOp, ctlGd, ctlGa, ctlGb, ctlR, bitsOf, BitVec.toNat_ofNat]
  omega

/-- The word of an LI. -/
def liWord (gd lane : Nat) (imm : Half) : Word :=
  BitVec.ofNat 32 (1 * 2 ^ 26 + gd % 32 * 2 ^ 21 + lane % 4 * 2 ^ 19 + imm.toNat * 2 ^ 3)
theorem liWord_fields (gd lane : Nat) (imm : Half) (hd : gd < 32) (hl : lane < 4) :
    ctlOp (liWord gd lane imm) = 1 ∧ ctlGd (liWord gd lane imm) = gd ∧ bitsOf (liWord gd lane imm).toNat 19 2 = lane ∧
      bitsOf (liWord gd lane imm).toNat 3 16 = imm.toNat := by
  have := imm.isLt
  simp only [ctlOp, ctlGd, liWord, bitsOf, BitVec.toNat_ofNat]
  omega

/-- The word of an ADDI. -/
def addiWord (gd ga : Nat) (imm : Half) : Word := BitVec.ofNat 32 (10 * 2 ^ 26 + gd % 32 * 2 ^ 21 + ga % 32 * 2 ^ 16 + imm.toNat)
theorem addiWord_fields (gd ga : Nat) (imm : Half) (hd : gd < 32) (ha : ga < 32) :
    ctlOp (addiWord gd ga imm) = 10 ∧ ctlGd (addiWord gd ga imm) = gd ∧ ctlGa (addiWord gd ga imm) = ga ∧
      bitsOf (addiWord gd ga imm).toNat 0 16 = imm.toNat := by
  have := imm.isLt
  simp only [ctlOp, ctlGd, ctlGa, addiWord, bitsOf, BitVec.toNat_ofNat]
  omega

/-- The word of a CMP. -/
def cmpWord (pd cond ga gb : Nat) : Word :=
  BitVec.ofNat 32 (12 * 2 ^ 26 + pd % 8 * 2 ^ 23 + cond % 8 * 2 ^ 20 + ga % 32 * 2 ^ 15 + gb % 32 * 2 ^ 10)
theorem cmpWord_fields (pd cond ga gb : Nat) (hp : pd < 8) (hc : cond < 8) (ha : ga < 32) (hb : gb < 32) :
    ctlOp (cmpWord pd cond ga gb) = 12 ∧ cmpPd (cmpWord pd cond ga gb) = pd ∧ cmpCond (cmpWord pd cond ga gb) = cond ∧
      cmpGa (cmpWord pd cond ga gb) = ga ∧ cmpGb (cmpWord pd cond ga gb) = gb := by
  simp only [ctlOp, cmpPd, cmpCond, cmpGa, cmpGb, cmpWord, bitsOf, BitVec.toNat_ofNat]
  omega

/-- The word of a BR. -/
def brWord (p : Nat) (sense always : Bool) (off : BitVec 21) : Word :=
  BitVec.ofNat 32 (13 * 2 ^ 26 + p % 8 * 2 ^ 23 + bit01 sense * 2 ^ 22 + bit01 always * 2 ^ 21 + off.toNat)
theorem brWord_fields (p : Nat) (sense always : Bool) (off : BitVec 21) (hp : p < 8) :
    ctlOp (brWord p sense always off) = 13 ∧ bitsOf (brWord p sense always off).toNat 23 3 = p ∧
      bitOf (brWord p sense always off).toNat 22 = sense ∧ bitOf (brWord p sense always off).toNat 21 = always ∧
      bitsOf (brWord p sense always off).toNat 0 21 = off.toNat := by
  have := off.isLt
  cases sense <;> cases always <;>
    simp only [ctlOp, brWord, bitsOf, bitOf, bit01, BitVec.toNat_ofNat, if_true, Bool.false_eq_true, if_false,
      Bool.beq_eq_decide_eq, decide_eq_true_eq, decide_eq_false_iff_not] <;> omega

/-- The word of a WAITC. -/
def waitcWord (kind ga : Nat) : Word := BitVec.ofNat 32 (14 * 2 ^ 26 + kind % 4 * 2 ^ 24 + ga % 32 * 2 ^ 19)
theorem waitcWord_fields (kind ga : Nat) (hk : kind < 4) (ha : ga < 32) :
    ctlOp (waitcWord kind ga) = 14 ∧ bitsOf (waitcWord kind ga).toNat 24 2 = kind ∧ waitGa (waitcWord kind ga) = ga := by
  simp only [ctlOp, waitGa, waitcWord, bitsOf, BitVec.toNat_ofNat]
  omega

/-- The word of a DWR. -/
def dwrWord (di ga pd : Nat) : Word := BitVec.ofNat 32 (15 * 2 ^ 26 + di % 256 * 2 ^ 18 + ga % 32 * 2 ^ 13 + pd % 8 * 2 ^ 10)
theorem dwrWord_fields (di ga pd : Nat) (hi : di < 256) (ha : ga < 32) (hp : pd < 8) :
    ctlOp (dwrWord di ga pd) = 15 ∧ dwrDi (dwrWord di ga pd) = di ∧ dwrGa (dwrWord di ga pd) = ga ∧ dwrPd (dwrWord di ga pd) = pd := by
  simp only [ctlOp, dwrDi, dwrGa, dwrPd, dwrWord, bitsOf, BitVec.toNat_ofNat]
  omega

/-- The core's active context issues: it is not halting and not ended, and settling leaves it as it is while it has not ended. -/
theorem ready_ctx {n : Nat} {regs : List Nat} {s : State} (h : ReadyFor n regs s) :
    (s.ctx n (s.coreSt n).active).halting = false ∧ (s.ctx n (s.coreSt n).active).ended = false := by
  have := h.2.1
  simp only [State.canIssue, Bool.and_eq_true, Bool.not_eq_true'] at this
  exact ⟨this.1.2, this.1.1.2⟩

theorem settle_live (c : Context) (h : c.halting = false) (e : c.ended = false) : c.settle = c := by
  simp [Context.settle, h, e]

end Sys2Proof.Machine
end

