-- ==== Sys2Proof/Laws/Table.lean ====
section
/-! SUPPORT. Sparse tables: what is read after each update, and that every update keeps the canonical form. -/

namespace Sys2Proof.Machine

variable {V : Type}

/-! ### Reading after an update -/

@[simp] theorem Table.read_nil (d : V) (k : Nat) : Table.read d k ([] : Table V) = d := rfl

theorem Table.read_erase (d : V) (k j : Nat) (m : Table V) :
    Table.read d j (Table.erase k m) = if k = j then d else Table.read d j m := by
  induction m with
  | nil => simp [Table.erase]
  | cons e m ih =>
    obtain ⟨i, v⟩ := e
    unfold Table.erase
    split
    · next h => subst h; rw [ih, Table.read]; split <;> simp_all
    · rw [Table.read, ih, Table.read]; split <;> split <;> simp_all

theorem Table.read_insert (d : V) (k j : Nat) (v : V) (m : Table V) :
    Table.read d j (Table.insert k v m) = if k = j then v else Table.read d j m := by
  induction m with
  | nil => simp [Table.insert, Table.read]
  | cons e m ih =>
    obtain ⟨i, w⟩ := e
    unfold Table.insert
    split
    · rw [Table.read]
    · split
      · subst_vars; rw [Table.read, Table.read]; split <;> simp_all
      · rw [Table.read, ih, Table.read]; split <;> split <;> simp_all

/-- What a key reads as after a write: the value at the key written, as before elsewhere. -/
theorem Table.read_write [DecidableEq V] (d : V) (k j : Nat) (v : V) (m : Table V) :
    Table.read d j (Table.write d k v m) = if k = j then v else Table.read d j m := by
  unfold Table.write
  split
  · subst_vars; exact Table.read_erase _ _ _ _
  · exact Table.read_insert _ _ _ _ _

@[simp] theorem Table.read_write_same [DecidableEq V] (d : V) (k : Nat) (v : V) (m : Table V) :
    Table.read d k (Table.write d k v m) = v := by simp [Table.read_write]

theorem Table.read_write_ne [DecidableEq V] (d : V) {k j : Nat} (h : k ≠ j) (v : V) (m : Table V) :
    Table.read d j (Table.write d k v m) = Table.read d j m := by simp [Table.read_write, h]

/-! ### The canonical form -/

@[simp] theorem Table.wf_nil [DecidableEq V] (d : V) : Table.wf d ([] : Table V) = true := rfl

/-- The canonical form as a proposition: keys strictly rising, no value the default. -/
theorem Table.wf_iff [DecidableEq V] (d : V) (m : Table V) :
    Table.wf d m = true ↔ m.Pairwise (fun a b => a.1 < b.1) ∧ ∀ e ∈ m, e.2 ≠ d := by
  induction m with
  | nil => simp
  | cons e m ih =>
    obtain ⟨i, v⟩ := e
    simp only [Table.wf, Bool.and_eq_true, ih, List.all_eq_true, List.pairwise_cons, List.mem_cons, bne_iff_ne, decide_eq_true_eq]
    constructor
    · rintro ⟨⟨a, b⟩, c, e⟩
      exact ⟨⟨b, c⟩, fun x hx => hx.elim (fun h => h ▸ a) (e x)⟩
    · rintro ⟨⟨b, c⟩, e⟩
      exact ⟨⟨e _ (.inl rfl), b⟩, c, fun x hx => e x (.inr hx)⟩

theorem Table.wf_filter [DecidableEq V] (d : V) (p : Nat × V → Bool) (m : Table V) (h : Table.wf d m = true) :
    Table.wf d (m.filter p) = true := by
  rw [Table.wf_iff] at h ⊢
  exact ⟨h.1.filter p, fun e he => h.2 e (List.mem_filter.1 he).1⟩

theorem Table.erase_eq_filter (k : Nat) (m : Table V) : Table.erase k m = m.filter (fun e => e.1 ≠ k) := by
  induction m with
  | nil => rfl
  | cons e m ih =>
    obtain ⟨i, v⟩ := e
    rw [Table.erase, ih]
    by_cases h : i = k <;> simp [h]

theorem Table.wf_erase [DecidableEq V] (d : V) (k : Nat) (m : Table V) (h : Table.wf d m = true) :
    Table.wf d (Table.erase k m) = true := by
  rw [Table.erase_eq_filter]; exact Table.wf_filter d _ m h

theorem Table.mem_insert (k : Nat) (v : V) (m : Table V) (e : Nat × V) (h : e ∈ Table.insert k v m) : e = (k, v) ∨ e ∈ m := by
  induction m with
  | nil => simpa [Table.insert] using h
  | cons f m ih =>
    obtain ⟨i, w⟩ := f
    unfold Table.insert at h
    split at h
    · simpa using h
    · split at h
      · rcases List.mem_cons.1 h with h | h
        · exact .inl h
        · exact .inr (List.mem_cons_of_mem _ h)
      · rcases List.mem_cons.1 h with h | h
        · exact .inr (h ▸ List.mem_cons_self ..)
        · rcases ih h with h | h
          · exact .inl h
          · exact .inr (List.mem_cons_of_mem _ h)

theorem Table.wf_insert [DecidableEq V] (d : V) (k : Nat) (v : V) (m : Table V) (hv : v ≠ d) (h : Table.wf d m = true) :
    Table.wf d (Table.insert k v m) = true := by
  induction m with
  | nil => simpa [Table.insert, Table.wf] using hv
  | cons f m ih =>
    obtain ⟨i, w⟩ := f
    simp only [Table.wf, Bool.and_eq_true, List.all_eq_true, bne_iff_ne, decide_eq_true_eq] at h
    obtain ⟨⟨hw, hi⟩, hm⟩ := h
    unfold Table.insert
    split
    · next hk =>
      simp only [Table.wf, Bool.and_eq_true, List.all_eq_true, bne_iff_ne, decide_eq_true_eq, List.mem_cons]
      exact ⟨⟨hv, fun x hx => hx.elim (fun h => h ▸ hk) (fun h => Nat.lt_trans hk (hi x h))⟩, ⟨hw, hi⟩, hm⟩
    · split
      · next hk =>
        subst hk
        simp only [Table.wf, Bool.and_eq_true, List.all_eq_true, bne_iff_ne, decide_eq_true_eq]
        exact ⟨⟨hv, hi⟩, hm⟩
      · simp only [Table.wf, Bool.and_eq_true, List.all_eq_true, bne_iff_ne, decide_eq_true_eq]
        refine ⟨⟨hw, fun x hx => ?_⟩, ih hm⟩
        rcases Table.mem_insert k v m x hx with h | h
        · subst h; simp only; omega
        · exact hi x h

/-- A write keeps the canonical form. -/
theorem Table.wf_write [DecidableEq V] (d : V) (k : Nat) (v : V) (m : Table V) (h : Table.wf d m = true) :
    Table.wf d (Table.write d k v m) = true := by
  unfold Table.write
  split
  · exact Table.wf_erase d k m h
  · next hv => exact Table.wf_insert d k v m hv h

theorem Table.wf_modify [DecidableEq V] (d : V) (k : Nat) (f : V → V) (m : Table V) (h : Table.wf d m = true) :
    Table.wf d (Table.modify d k f m) = true := Table.wf_write d k _ m h

theorem Table.wf_drop [DecidableEq V] (d : V) (lo hi : Nat) (m : Table V) (h : Table.wf d m = true) :
    Table.wf d (Table.drop lo hi m) = true := Table.wf_filter d _ m h

/-- The entries of consecutive values lie from the first key to before the last, and hold no default. -/
theorem Table.entries_spec [DecidableEq V] (d : V) (k : Nat) (vs : List V) :
    (Table.entries d k vs).Pairwise (fun a b => a.1 < b.1) ∧
      ∀ e ∈ Table.entries d k vs, k ≤ e.1 ∧ e.1 < k + vs.length ∧ e.2 ≠ d := by
  induction vs generalizing k with
  | nil => simp [Table.entries]
  | cons v vs ih =>
    obtain ⟨hp, hb⟩ := ih (k + 1)
    unfold Table.entries
    split
    · refine ⟨hp, fun e he => ?_⟩
      obtain ⟨a, b, c⟩ := hb e he
      exact ⟨by omega, by simp only [List.length_cons]; omega, c⟩
    · next hv =>
      refine ⟨List.pairwise_cons.2 ⟨fun e he => ?_, hp⟩, fun e he => ?_⟩
      · have := (hb e he).1; simp only; omega
      · rcases List.mem_cons.1 he with rfl | he
        · exact ⟨Nat.le_refl _, by simp, hv⟩
        · obtain ⟨a, b, c⟩ := hb e he
          exact ⟨by omega, by simp only [List.length_cons]; omega, c⟩

/-- Writing consecutive values keeps the canonical form. -/
theorem Table.wf_writeList [DecidableEq V] (d : V) (k : Nat) (vs : List V) (m : Table V) (h : Table.wf d m = true) :
    Table.wf d (Table.writeList d k vs m) = true := by
  rw [Table.wf_iff] at h ⊢
  obtain ⟨hp, hn⟩ := h
  obtain ⟨ep, eb⟩ := Table.entries_spec d k vs
  unfold Table.writeList
  constructor
  · rw [List.pairwise_append, List.pairwise_append]
    refine ⟨⟨hp.filter _, ep, fun a ha b hb => ?_⟩, hp.filter _, fun a ha b hb => ?_⟩
    · have h1 := (List.mem_filter.1 ha).2
      have h2 := (eb b hb).1
      simp only [decide_eq_true_eq] at h1; omega
    · have h2 := (List.mem_filter.1 hb).2
      simp only [decide_eq_true_eq] at h2
      rcases List.mem_append.1 ha with ha | ha
      · have h1 := (List.mem_filter.1 ha).2
        simp only [decide_eq_true_eq] at h1; omega
      · have h1 := (eb a ha).2.1; omega
  · intro e he
    rcases List.mem_append.1 he with he | he
    · rcases List.mem_append.1 he with he | he
      · exact hn e (List.mem_filter.1 he).1
      · exact (eb e he).2.2
    · exact hn e (List.mem_filter.1 he).1

/-! ### Reading a run of consecutive values -/

theorem Table.read_append (d : V) (j : Nat) (a b : Table V) (h : ∀ e ∈ a, e.1 ≠ j) : Table.read d j (a ++ b) = Table.read d j b := by
  induction a with
  | nil => rfl
  | cons e a ih =>
    obtain ⟨i, v⟩ := e
    rw [List.cons_append, Table.read, if_neg (h _ (List.mem_cons_self ..)), ih (fun x hx => h x (List.mem_cons_of_mem _ hx))]

theorem Table.read_append_left (d : V) (j : Nat) (a b : Table V) (h : ∀ e ∈ b, e.1 ≠ j) : Table.read d j (a ++ b) = Table.read d j a := by
  induction a with
  | nil =>
    induction b with
    | nil => rfl
    | cons e b ih =>
      obtain ⟨i, v⟩ := e
      have hi : i ≠ j := h (i, v) (List.mem_cons_self ..)
      show (if i = j then v else Table.read d j b) = d
      rw [if_neg hi]
      exact ih (fun x hx => h x (List.mem_cons_of_mem _ hx))
  | cons e a ih => obtain ⟨i, v⟩ := e; rw [List.cons_append, Table.read, ih, Table.read]

theorem Table.read_filter (d : V) (j : Nat) (p : Nat × V → Bool) (m : Table V) (h : ∀ v, p (j, v) = true) :
    Table.read d j (m.filter p) = Table.read d j m := by
  induction m with
  | nil => rfl
  | cons e m ih =>
    obtain ⟨i, v⟩ := e
    rw [List.filter_cons]
    split
    · rw [Table.read, ih, Table.read]
    · next hp =>
      rw [ih, Table.read]
      split
      · next hij => subst hij; exact absurd (h v) hp
      · rfl

theorem Table.read_none (d : V) (j : Nat) (m : Table V) (h : ∀ e ∈ m, e.1 ≠ j) : Table.read d j m = d := by
  have := Table.read_append d j m [] h
  simpa using this

theorem Table.read_entries [DecidableEq V] (d : V) (k : Nat) (vs : List V) (j : Nat) :
    Table.read d j (Table.entries d k vs) = if k ≤ j then vs.getD (j - k) d else d := by
  induction vs generalizing k with
  | nil => simp [Table.entries]
  | cons v vs ih =>
    have hr : Table.read d j (Table.entries d k (v :: vs)) = if k = j then v else Table.read d j (Table.entries d (k + 1) vs) := by
      rw [Table.entries]
      split
      · next hv =>
        subst hv
        split
        · next hk =>
          subst hk
          rw [ih]; split
          · omega
          · rfl
        · rfl
      · rw [Table.read]
    rw [hr, ih]
    by_cases hk : k = j
    · subst hk; simp
    · rw [if_neg hk]
      by_cases hj : k ≤ j
      · have e : j - k = j - (k + 1) + 1 := by omega
        rw [if_pos hj, if_pos (by omega : k + 1 ≤ j), e, List.getD_cons_succ]
      · rw [if_neg hj, if_neg (by omega : ¬ k + 1 ≤ j)]

/-- What a key reads as after consecutive values are written: the value of its place inside the run, as before outside it. -/
theorem Table.read_writeList [DecidableEq V] (d : V) (k : Nat) (vs : List V) (m : Table V) (j : Nat) :
    Table.read d j (Table.writeList d k vs m) =
      if k ≤ j ∧ j < k + vs.length then vs.getD (j - k) d else Table.read d j m := by
  have he := Table.entries_spec d k vs
  unfold Table.writeList
  by_cases h1 : j < k
  · rw [if_neg (by omega), List.append_assoc, Table.read_append_left, Table.read_filter _ _ _ _ (by intro v; simpa using h1)]
    intro e hm
    rcases List.mem_append.1 hm with hm | hm
    · have := (he.2 e hm).1; omega
    · have := (List.mem_filter.1 hm).2; simp only [decide_eq_true_eq] at this; omega
  · rw [List.append_assoc, Table.read_append]
    · by_cases h2 : j < k + vs.length
      · rw [if_pos ⟨by omega, h2⟩, Table.read_append_left, Table.read_entries, if_pos (by omega)]
        intro e hm
        have := (List.mem_filter.1 hm).2; simp only [decide_eq_true_eq] at this; omega
      · rw [if_neg (by omega), Table.read_append, Table.read_filter _ _ _ _ (by intro v; simp only [decide_eq_true_eq]; omega)]
        intro e hm
        have := (he.2 e hm).2.1; omega
    · intro e hm
      have := (List.mem_filter.1 hm).2; simp only [decide_eq_true_eq] at this; omega

theorem Table.read_drop (d : V) (lo hi j : Nat) (m : Table V) (h : j < lo ∨ hi ≤ j) :
    Table.read d j (Table.drop lo hi m) = Table.read d j m := by
  refine Table.read_filter d j _ m fun v => ?_
  simp only [Bool.not_eq_true', Bool.and_eq_false_iff, decide_eq_false_iff_not]; omega

theorem Table.read_drop_in (d : V) (lo hi j : Nat) (m : Table V) (h : lo ≤ j ∧ j < hi) :
    Table.read d j (Table.drop lo hi m) = d := by
  refine Table.read_none d j _ fun e he => ?_
  have := (List.mem_filter.1 he).2
  simp only [Bool.not_eq_true', Bool.and_eq_false_iff, decide_eq_false_iff_not] at this; omega

end Sys2Proof.Machine
end

