-- ==== Sys2Proof/Laws/Engine.lean ====
section
/-! SUPPORT. Operations in their engines: what a command does with the operation that stands dispatched, and the completion record. -/

namespace Sys2Proof.Machine

/-- With its operation dispatched, a core operation's command runs the operation's effect and enters its end. -/
theorem runCore_dispatched {n : Nat} {x : Ctx} {k : Eng} {opc : Nat} {f : Flight} {s : State} (h : Dispatched n x k opc f s)
    (body : State → Place → Op → State × OpEnd) :
    runCore n x k opc body s = .next ((body s (f.place n x) f.op).1.endOp n x k f (body s (f.place n x) f.op).2) := by
  obtain ⟨hc, hf, ⟨h1, h2, h3⟩, ho⟩ := h
  simp [runCore, hc, State.runOp, hf, h1, h2, h3, ho, Flight.place]

/-- An effect that is done leaves the completion record. -/
theorem endOp_done (s : State) (n : Nat) (x : Ctx) (k : Eng) (f : Flight) (g : Byte) (st : Nat) :
    s.endOp n x k f (.done g st) = s.doneAs n x k f g st := rfl

/-- An effect that waits leaves the numbers of its messages. -/
theorem endOp_waiting (s : State) (n : Nat) (x : Ctx) (k : Eng) (f : Flight) (ids : List Nat) (st : Nat) :
    s.endOp n x k f (.waiting ids st) = s.sentAs n x k f ids st := rfl

/-- The flight that stands in an engine after it is set there, and in another engine. -/
theorem flight_setFlight (c : Context) (k : Eng) (f : Option Flight) : (c.setFlight k f).flight k = f := by
  cases k <;> rfl

theorem ctx_setCtx (s : State) (n : Nat) (x : Ctx) (c : Context) : (s.setCtx n x c).ctx n x = c := by
  simp [State.ctx, State.setCtx]

theorem ctx_doneAs (s : State) (n : Nat) (x : Ctx) (k : Eng) (f : Flight) (g : Byte) (st : Nat) :
    ((s.doneAs n x k f g st).ctx n x).flight k = some (f.ended g st) := by
  simp [State.doneAs, State.modCtx, ctx_setCtx, flight_setFlight]

end Sys2Proof.Machine
end

