-- ==== Sys2Proof/Laws/Folds.lean ====
section
/-! SUPPORT. What a fold over the state keeps, when each of its steps keeps it. -/

namespace Sys2Proof.Machine

theorem foldl_keeps {α β : Type} (π : State → β) (g : State → α → State) (h : ∀ s a, π (g s a) = π s) (l : List α) (s : State) :
    π (l.foldl g s) = π s := by
  induction l generalizing s with
  | nil => rfl
  | cons a l ih => rw [List.foldl_cons, ih, h]

theorem foldl_fst_keeps {α β γ : Type} (π : State → β) (g : State × γ → α → State × γ) (h : ∀ p a, π (g p a).1 = π p.1) (l : List α)
    (p : State × γ) : π (l.foldl g p).1 = π p.1 := by
  induction l generalizing p with
  | nil => rfl
  | cons a l ih => rw [List.foldl_cons, ih, h]

theorem foldl_holds {α : Type} (P : State → Prop) (g : State → α → State) (h : ∀ s a, P s → P (g s a)) (l : List α) (s : State) (hs : P s) :
    P (l.foldl g s) := by
  induction l generalizing s with
  | nil => exact hs
  | cons a l ih => exact ih _ (h _ _ hs)

theorem foldl_fst_holds {α γ : Type} (P : State → Prop) (g : State × γ → α → State × γ) (h : ∀ p a, P p.1 → P (g p a).1) (l : List α)
    (p : State × γ) (hp : P p.1) : P (l.foldl g p).1 := by
  induction l generalizing p with
  | nil => exact hp
  | cons a l ih => exact ih _ (h _ _ hp)

/-- The state of a pair whose parts are known. -/
theorem fst_mem {γ : Type} {p : State × γ} {t : State} {o : γ} (e : p = (t, o)) : t.mem = p.1.mem := by rw [e]

theorem fst_memWf {γ : Type} {p : State × γ} {t : State} {o : γ} (e : p = (t, o)) (h : Memory.wf p.1.mem = true) : Memory.wf t.mem = true := by
  rw [e] at h; exact h

theorem foldl_mem {α : Type} (g : State → α → State) (h : ∀ s a, (g s a).mem = s.mem) (l : List α) (s : State) :
    (l.foldl g s).mem = s.mem := foldl_keeps (·.mem) g h l s

theorem foldl_fst_mem {α γ : Type} (g : State × γ → α → State × γ) (h : ∀ p a, (g p a).1.mem = p.1.mem) (l : List α)
    (p : State × γ) : (l.foldl g p).1.mem = p.1.mem := foldl_fst_keeps (·.mem) g h l p

theorem foldl_memWf {α : Type} (g : State → α → State) (h : ∀ s a, Memory.wf s.mem = true → Memory.wf (g s a).mem = true) (l : List α)
    (s : State) (hs : Memory.wf s.mem = true) : Memory.wf (l.foldl g s).mem = true := foldl_holds (fun s => Memory.wf s.mem = true) g h l s hs

theorem foldl_fst_memWf {α γ : Type} (g : State × γ → α → State × γ) (h : ∀ p a, Memory.wf p.1.mem = true → Memory.wf (g p a).1.mem = true)
    (l : List α) (p : State × γ) (hp : Memory.wf p.1.mem = true) : Memory.wf (l.foldl g p).1.mem = true :=
  foldl_fst_holds (fun s => Memory.wf s.mem = true) g h l p hp

end Sys2Proof.Machine
end

