-- ==== Sys2Proof/Laws/State.lean ====
section
/-! SUPPORT. What each update of one part of the state leaves as it was: one lemma for each field and each reading of the state, for
every named update. -/

namespace Sys2Proof.Machine

/-! ### setBlock -/

@[simp] theorem State.setBlock_part (s : State) (b) (v) : (s.setBlock b v).part = s.part := rfl
@[simp] theorem State.setBlock_pending (s : State) (b) (v) : (s.setBlock b v).pending = s.pending := rfl
@[simp] theorem State.setBlock_cores (s : State) (b) (v) : (s.setBlock b v).cores = s.cores := rfl
@[simp] theorem State.setBlock_ctxs (s : State) (b) (v) : (s.setBlock b v).ctxs = s.ctxs := rfl
@[simp] theorem State.setBlock_accs (s : State) (b) (v) : (s.setBlock b v).accs = s.accs := rfl
@[simp] theorem State.setBlock_srf (s : State) (b) (v) : (s.setBlock b v).srf = s.srf := rfl
@[simp] theorem State.setBlock_rescale (s : State) (b) (v) : (s.setBlock b v).rescale = s.rescale := rfl
@[simp] theorem State.setBlock_mem (s : State) (b) (v) : (s.setBlock b v).mem = s.mem := rfl
@[simp] theorem State.setBlock_unitKey (s : State) (b) (v) : (s.setBlock b v).unitKey = s.unitKey := rfl
@[simp] theorem State.setBlock_fills (s : State) (b) (v) : (s.setBlock b v).fills = s.fills := rfl
@[simp] theorem State.setBlock_coreUc (s : State) (b) (v) : (s.setBlock b v).coreUc = s.coreUc := rfl
@[simp] theorem State.setBlock_unitCode (s : State) (b) (v) : (s.setBlock b v).unitCode = s.unitCode := rfl
@[simp] theorem State.setBlock_scrubAt (s : State) (b) (v) : (s.setBlock b v).scrubAt = s.scrubAt := rfl
@[simp] theorem State.setBlock_mcErr (s : State) (b) (v) : (s.setBlock b v).mcErr = s.mcErr := rfl
@[simp] theorem State.setBlock_unspecCount (s : State) (b) (v) : (s.setBlock b v).unspecCount = s.unspecCount := rfl
@[simp] theorem State.setBlock_untrained (s : State) (b) (v) : (s.setBlock b v).untrained = s.untrained := rfl
@[simp] theorem State.setBlock_objs (s : State) (b) (v) : (s.setBlock b v).objs = s.objs := rfl
@[simp] theorem State.setBlock_octs (s : State) (b) (v) : (s.setBlock b v).octs = s.octs := rfl
@[simp] theorem State.setBlock_tots (s : State) (b) (v) : (s.setBlock b v).tots = s.tots := rfl
@[simp] theorem State.setBlock_slots (s : State) (b) (v) : (s.setBlock b v).slots = s.slots := rfl
@[simp] theorem State.setBlock_group (s : State) (b) (v) : (s.setBlock b v).group = s.group := rfl
@[simp] theorem State.setBlock_noise (s : State) (b) (v) : (s.setBlock b v).noise = s.noise := rfl
@[simp] theorem State.setBlock_watch (s : State) (b) (v) : (s.setBlock b v).watch = s.watch := rfl
@[simp] theorem State.setBlock_watchNew (s : State) (b) (v) : (s.setBlock b v).watchNew = s.watchNew := rfl
@[simp] theorem State.setBlock_live (s : State) (b) (v) : (s.setBlock b v).live = s.live := rfl
@[simp] theorem State.setBlock_watchDue (s : State) (b) (v) : (s.setBlock b v).watchDue = s.watchDue := rfl
@[simp] theorem State.setBlock_fports (s : State) (b) (v) : (s.setBlock b v).fports = s.fports := rfl
@[simp] theorem State.setBlock_router (s : State) (b) (v) : (s.setBlock b v).router = s.router := rfl
@[simp] theorem State.setBlock_inbox (s : State) (b) (v) : (s.setBlock b v).inbox = s.inbox := rfl
@[simp] theorem State.setBlock_almanac (s : State) (b) (v) : (s.setBlock b v).almanac = s.almanac := rfl
@[simp] theorem State.setBlock_msgTable (s : State) (b) (v) : (s.setBlock b v).msgTable = s.msgTable := rfl
@[simp] theorem State.setBlock_sent (s : State) (b) (v) : (s.setBlock b v).sent = s.sent := rfl
@[simp] theorem State.setBlock_msgidNext (s : State) (b) (v) : (s.setBlock b v).msgidNext = s.msgidNext := rfl
@[simp] theorem State.setBlock_reshards (s : State) (b) (v) : (s.setBlock b v).reshards = s.reshards := rfl
@[simp] theorem State.setBlock_links (s : State) (b) (v) : (s.setBlock b v).links = s.links := rfl
@[simp] theorem State.setBlock_sessions (s : State) (b) (v) : (s.setBlock b v).sessions = s.sessions := rfl
@[simp] theorem State.setBlock_sessionNext (s : State) (b) (v) : (s.setBlock b v).sessionNext = s.sessionNext := rfl
@[simp] theorem State.setBlock_events (s : State) (b) (v) : (s.setBlock b v).events = s.events := rfl
@[simp] theorem State.setBlock_eventNext (s : State) (b) (v) : (s.setBlock b v).eventNext = s.eventNext := rfl
@[simp] theorem State.setBlock_eventsLostSince (s : State) (b) (v) : (s.setBlock b v).eventsLostSince = s.eventsLostSince := rfl
@[simp] theorem State.setBlock_kept (s : State) (b) (v) : (s.setBlock b v).kept = s.kept := rfl
@[simp] theorem State.setBlock_xfers (s : State) (b) (v) : (s.setBlock b v).xfers = s.xfers := rfl
@[simp] theorem State.setBlock_xferNext (s : State) (b) (v) : (s.setBlock b v).xferNext = s.xferNext := rfl
@[simp] theorem State.setBlock_multi (s : State) (b) (v) : (s.setBlock b v).multi = s.multi := rfl
@[simp] theorem State.setBlock_heldWrites (s : State) (b) (v) : (s.setBlock b v).heldWrites = s.heldWrites := rfl
@[simp] theorem State.setBlock_net (s : State) (b) (v) : (s.setBlock b v).net = s.net := rfl
@[simp] theorem State.setBlock_power (s : State) (b) (v) : (s.setBlock b v).power = s.power := rfl
@[simp] theorem State.setBlock_boot (s : State) (b) (v) : (s.setBlock b v).boot = s.boot := rfl
@[simp] theorem State.setBlock_taps (s : State) (b) (v) : (s.setBlock b v).taps = s.taps := rfl
@[simp] theorem State.setBlock_errors (s : State) (b) (v) : (s.setBlock b v).errors = s.errors := rfl
@[simp] theorem State.setBlock_security (s : State) (b) (v) : (s.setBlock b v).security = s.security := rfl
@[simp] theorem State.setBlock_profiles (s : State) (b) (v) : (s.setBlock b v).profiles = s.profiles := rfl
@[simp] theorem State.setBlock_counters (s : State) (b) (v) : (s.setBlock b v).counters = s.counters := rfl
@[simp] theorem State.setBlock_auditFrozen (s : State) (b) (v) : (s.setBlock b v).auditFrozen = s.auditFrozen := rfl
@[simp] theorem State.setBlock_obj (s : State) (b) (v) (u0) (u1) : (s.setBlock b v).obj u0 u1 = s.obj u0 u1 := rfl
@[simp] theorem State.setBlock_tot (s : State) (b) (v) (u0) (u1) : (s.setBlock b v).tot u0 u1 = s.tot u0 u1 := rfl
@[simp] theorem State.setBlock_ctx (s : State) (b) (v) (u0) (u1) : (s.setBlock b v).ctx u0 u1 = s.ctx u0 u1 := rfl
@[simp] theorem State.setBlock_coreSt (s : State) (b) (v) (u0) : (s.setBlock b v).coreSt u0 = s.coreSt u0 := rfl
@[simp] theorem State.setBlock_slot (s : State) (b) (v) (u0) : (s.setBlock b v).slot u0 = s.slot u0 := rfl
@[simp] theorem State.setBlock_fport (s : State) (b) (v) (u0) : (s.setBlock b v).fport u0 = s.fport u0 := rfl
@[simp] theorem State.setBlock_keySlot (s : State) (b) (v) (u0) : (s.setBlock b v).keySlot u0 = s.keySlot u0 := rfl
@[simp] theorem State.setBlock_up (s : State) (b) (v) : (s.setBlock b v).up = s.up := rfl
@[simp] theorem State.setBlock_vigil (s : State) (b) (v) : (s.setBlock b v).vigil = s.vigil := rfl
@[simp] theorem State.setBlock_fabricOn (s : State) (b) (v) : (s.setBlock b v).fabricOn = s.fabricOn := rfl
@[simp] theorem State.setBlock_acc (s : State) (b) (v) (u0) (u1) : (s.setBlock b v).acc u0 u1 = s.acc u0 u1 := rfl
@[simp] theorem State.setBlock_positions (s : State) (b) (v) (u0) : (s.setBlock b v).positions u0 = s.positions u0 := rfl

/-! ### setErrQueue -/

@[simp] theorem State.setErrQueue_part (s : State) (die) (q) : (s.setErrQueue die q).part = s.part := rfl
@[simp] theorem State.setErrQueue_pending (s : State) (die) (q) : (s.setErrQueue die q).pending = s.pending := rfl
@[simp] theorem State.setErrQueue_cores (s : State) (die) (q) : (s.setErrQueue die q).cores = s.cores := rfl
@[simp] theorem State.setErrQueue_ctxs (s : State) (die) (q) : (s.setErrQueue die q).ctxs = s.ctxs := rfl
@[simp] theorem State.setErrQueue_accs (s : State) (die) (q) : (s.setErrQueue die q).accs = s.accs := rfl
@[simp] theorem State.setErrQueue_srf (s : State) (die) (q) : (s.setErrQueue die q).srf = s.srf := rfl
@[simp] theorem State.setErrQueue_rescale (s : State) (die) (q) : (s.setErrQueue die q).rescale = s.rescale := rfl
@[simp] theorem State.setErrQueue_mem (s : State) (die) (q) : (s.setErrQueue die q).mem = s.mem := rfl
@[simp] theorem State.setErrQueue_unitKey (s : State) (die) (q) : (s.setErrQueue die q).unitKey = s.unitKey := rfl
@[simp] theorem State.setErrQueue_fills (s : State) (die) (q) : (s.setErrQueue die q).fills = s.fills := rfl
@[simp] theorem State.setErrQueue_coreUc (s : State) (die) (q) : (s.setErrQueue die q).coreUc = s.coreUc := rfl
@[simp] theorem State.setErrQueue_unitCode (s : State) (die) (q) : (s.setErrQueue die q).unitCode = s.unitCode := rfl
@[simp] theorem State.setErrQueue_scrubAt (s : State) (die) (q) : (s.setErrQueue die q).scrubAt = s.scrubAt := rfl
@[simp] theorem State.setErrQueue_mcErr (s : State) (die) (q) : (s.setErrQueue die q).mcErr = s.mcErr := rfl
@[simp] theorem State.setErrQueue_unspecCount (s : State) (die) (q) : (s.setErrQueue die q).unspecCount = s.unspecCount := rfl
@[simp] theorem State.setErrQueue_untrained (s : State) (die) (q) : (s.setErrQueue die q).untrained = s.untrained := rfl
@[simp] theorem State.setErrQueue_blocks (s : State) (die) (q) : (s.setErrQueue die q).blocks = s.blocks := rfl
@[simp] theorem State.setErrQueue_objs (s : State) (die) (q) : (s.setErrQueue die q).objs = s.objs := rfl
@[simp] theorem State.setErrQueue_octs (s : State) (die) (q) : (s.setErrQueue die q).octs = s.octs := rfl
@[simp] theorem State.setErrQueue_tots (s : State) (die) (q) : (s.setErrQueue die q).tots = s.tots := rfl
@[simp] theorem State.setErrQueue_slots (s : State) (die) (q) : (s.setErrQueue die q).slots = s.slots := rfl
@[simp] theorem State.setErrQueue_group (s : State) (die) (q) : (s.setErrQueue die q).group = s.group := rfl
@[simp] theorem State.setErrQueue_noise (s : State) (die) (q) : (s.setErrQueue die q).noise = s.noise := rfl
@[simp] theorem State.setErrQueue_watch (s : State) (die) (q) : (s.setErrQueue die q).watch = s.watch := rfl
@[simp] theorem State.setErrQueue_watchNew (s : State) (die) (q) : (s.setErrQueue die q).watchNew = s.watchNew := rfl
@[simp] theorem State.setErrQueue_live (s : State) (die) (q) : (s.setErrQueue die q).live = s.live := rfl
@[simp] theorem State.setErrQueue_watchDue (s : State) (die) (q) : (s.setErrQueue die q).watchDue = s.watchDue := rfl
@[simp] theorem State.setErrQueue_fports (s : State) (die) (q) : (s.setErrQueue die q).fports = s.fports := rfl
@[simp] theorem State.setErrQueue_router (s : State) (die) (q) : (s.setErrQueue die q).router = s.router := rfl
@[simp] theorem State.setErrQueue_inbox (s : State) (die) (q) : (s.setErrQueue die q).inbox = s.inbox := rfl
@[simp] theorem State.setErrQueue_almanac (s : State) (die) (q) : (s.setErrQueue die q).almanac = s.almanac := rfl
@[simp] theorem State.setErrQueue_msgTable (s : State) (die) (q) : (s.setErrQueue die q).msgTable = s.msgTable := rfl
@[simp] theorem State.setErrQueue_sent (s : State) (die) (q) : (s.setErrQueue die q).sent = s.sent := rfl
@[simp] theorem State.setErrQueue_msgidNext (s : State) (die) (q) : (s.setErrQueue die q).msgidNext = s.msgidNext := rfl
@[simp] theorem State.setErrQueue_reshards (s : State) (die) (q) : (s.setErrQueue die q).reshards = s.reshards := rfl
@[simp] theorem State.setErrQueue_links (s : State) (die) (q) : (s.setErrQueue die q).links = s.links := rfl
@[simp] theorem State.setErrQueue_sessions (s : State) (die) (q) : (s.setErrQueue die q).sessions = s.sessions := rfl
@[simp] theorem State.setErrQueue_sessionNext (s : State) (die) (q) : (s.setErrQueue die q).sessionNext = s.sessionNext := rfl
@[simp] theorem State.setErrQueue_events (s : State) (die) (q) : (s.setErrQueue die q).events = s.events := rfl
@[simp] theorem State.setErrQueue_eventNext (s : State) (die) (q) : (s.setErrQueue die q).eventNext = s.eventNext := rfl
@[simp] theorem State.setErrQueue_eventsLostSince (s : State) (die) (q) : (s.setErrQueue die q).eventsLostSince = s.eventsLostSince := rfl
@[simp] theorem State.setErrQueue_kept (s : State) (die) (q) : (s.setErrQueue die q).kept = s.kept := rfl
@[simp] theorem State.setErrQueue_xfers (s : State) (die) (q) : (s.setErrQueue die q).xfers = s.xfers := rfl
@[simp] theorem State.setErrQueue_xferNext (s : State) (die) (q) : (s.setErrQueue die q).xferNext = s.xferNext := rfl
@[simp] theorem State.setErrQueue_multi (s : State) (die) (q) : (s.setErrQueue die q).multi = s.multi := rfl
@[simp] theorem State.setErrQueue_heldWrites (s : State) (die) (q) : (s.setErrQueue die q).heldWrites = s.heldWrites := rfl
@[simp] theorem State.setErrQueue_net (s : State) (die) (q) : (s.setErrQueue die q).net = s.net := rfl
@[simp] theorem State.setErrQueue_power (s : State) (die) (q) : (s.setErrQueue die q).power = s.power := rfl
@[simp] theorem State.setErrQueue_boot (s : State) (die) (q) : (s.setErrQueue die q).boot = s.boot := rfl
@[simp] theorem State.setErrQueue_taps (s : State) (die) (q) : (s.setErrQueue die q).taps = s.taps := rfl
@[simp] theorem State.setErrQueue_security (s : State) (die) (q) : (s.setErrQueue die q).security = s.security := rfl
@[simp] theorem State.setErrQueue_profiles (s : State) (die) (q) : (s.setErrQueue die q).profiles = s.profiles := rfl
@[simp] theorem State.setErrQueue_counters (s : State) (die) (q) : (s.setErrQueue die q).counters = s.counters := rfl
@[simp] theorem State.setErrQueue_auditFrozen (s : State) (die) (q) : (s.setErrQueue die q).auditFrozen = s.auditFrozen := rfl
@[simp] theorem State.setErrQueue_obj (s : State) (die) (q) (u0) (u1) : (s.setErrQueue die q).obj u0 u1 = s.obj u0 u1 := rfl
@[simp] theorem State.setErrQueue_tot (s : State) (die) (q) (u0) (u1) : (s.setErrQueue die q).tot u0 u1 = s.tot u0 u1 := rfl
@[simp] theorem State.setErrQueue_block (s : State) (die) (q) (u0) : (s.setErrQueue die q).block u0 = s.block u0 := rfl
@[simp] theorem State.setErrQueue_ctx (s : State) (die) (q) (u0) (u1) : (s.setErrQueue die q).ctx u0 u1 = s.ctx u0 u1 := rfl
@[simp] theorem State.setErrQueue_coreSt (s : State) (die) (q) (u0) : (s.setErrQueue die q).coreSt u0 = s.coreSt u0 := rfl
@[simp] theorem State.setErrQueue_slot (s : State) (die) (q) (u0) : (s.setErrQueue die q).slot u0 = s.slot u0 := rfl
@[simp] theorem State.setErrQueue_fport (s : State) (die) (q) (u0) : (s.setErrQueue die q).fport u0 = s.fport u0 := rfl
@[simp] theorem State.setErrQueue_keySlot (s : State) (die) (q) (u0) : (s.setErrQueue die q).keySlot u0 = s.keySlot u0 := rfl
@[simp] theorem State.setErrQueue_up (s : State) (die) (q) : (s.setErrQueue die q).up = s.up := rfl
@[simp] theorem State.setErrQueue_vigil (s : State) (die) (q) : (s.setErrQueue die q).vigil = s.vigil := rfl
@[simp] theorem State.setErrQueue_fabricOn (s : State) (die) (q) : (s.setErrQueue die q).fabricOn = s.fabricOn := rfl
@[simp] theorem State.setErrQueue_acc (s : State) (die) (q) (u0) (u1) : (s.setErrQueue die q).acc u0 u1 = s.acc u0 u1 := rfl
@[simp] theorem State.setErrQueue_positions (s : State) (die) (q) (u0) : (s.setErrQueue die q).positions u0 = s.positions u0 := rfl
@[simp] theorem State.setErrQueue_slotEn (s : State) (die) (q) (u0) : (s.setErrQueue die q).slotEn u0 = s.slotEn u0 := rfl

/-! ### setFport -/

@[simp] theorem State.setFport_part (s : State) (p) (v) : (s.setFport p v).part = s.part := rfl
@[simp] theorem State.setFport_pending (s : State) (p) (v) : (s.setFport p v).pending = s.pending := rfl
@[simp] theorem State.setFport_cores (s : State) (p) (v) : (s.setFport p v).cores = s.cores := rfl
@[simp] theorem State.setFport_ctxs (s : State) (p) (v) : (s.setFport p v).ctxs = s.ctxs := rfl
@[simp] theorem State.setFport_accs (s : State) (p) (v) : (s.setFport p v).accs = s.accs := rfl
@[simp] theorem State.setFport_srf (s : State) (p) (v) : (s.setFport p v).srf = s.srf := rfl
@[simp] theorem State.setFport_rescale (s : State) (p) (v) : (s.setFport p v).rescale = s.rescale := rfl
@[simp] theorem State.setFport_mem (s : State) (p) (v) : (s.setFport p v).mem = s.mem := rfl
@[simp] theorem State.setFport_unitKey (s : State) (p) (v) : (s.setFport p v).unitKey = s.unitKey := rfl
@[simp] theorem State.setFport_fills (s : State) (p) (v) : (s.setFport p v).fills = s.fills := rfl
@[simp] theorem State.setFport_coreUc (s : State) (p) (v) : (s.setFport p v).coreUc = s.coreUc := rfl
@[simp] theorem State.setFport_unitCode (s : State) (p) (v) : (s.setFport p v).unitCode = s.unitCode := rfl
@[simp] theorem State.setFport_scrubAt (s : State) (p) (v) : (s.setFport p v).scrubAt = s.scrubAt := rfl
@[simp] theorem State.setFport_mcErr (s : State) (p) (v) : (s.setFport p v).mcErr = s.mcErr := rfl
@[simp] theorem State.setFport_unspecCount (s : State) (p) (v) : (s.setFport p v).unspecCount = s.unspecCount := rfl
@[simp] theorem State.setFport_untrained (s : State) (p) (v) : (s.setFport p v).untrained = s.untrained := rfl
@[simp] theorem State.setFport_blocks (s : State) (p) (v) : (s.setFport p v).blocks = s.blocks := rfl
@[simp] theorem State.setFport_objs (s : State) (p) (v) : (s.setFport p v).objs = s.objs := rfl
@[simp] theorem State.setFport_octs (s : State) (p) (v) : (s.setFport p v).octs = s.octs := rfl
@[simp] theorem State.setFport_tots (s : State) (p) (v) : (s.setFport p v).tots = s.tots := rfl
@[simp] theorem State.setFport_slots (s : State) (p) (v) : (s.setFport p v).slots = s.slots := rfl
@[simp] theorem State.setFport_group (s : State) (p) (v) : (s.setFport p v).group = s.group := rfl
@[simp] theorem State.setFport_noise (s : State) (p) (v) : (s.setFport p v).noise = s.noise := rfl
@[simp] theorem State.setFport_watch (s : State) (p) (v) : (s.setFport p v).watch = s.watch := rfl
@[simp] theorem State.setFport_watchNew (s : State) (p) (v) : (s.setFport p v).watchNew = s.watchNew := rfl
@[simp] theorem State.setFport_live (s : State) (p) (v) : (s.setFport p v).live = s.live := rfl
@[simp] theorem State.setFport_watchDue (s : State) (p) (v) : (s.setFport p v).watchDue = s.watchDue := rfl
@[simp] theorem State.setFport_router (s : State) (p) (v) : (s.setFport p v).router = s.router := rfl
@[simp] theorem State.setFport_inbox (s : State) (p) (v) : (s.setFport p v).inbox = s.inbox := rfl
@[simp] theorem State.setFport_almanac (s : State) (p) (v) : (s.setFport p v).almanac = s.almanac := rfl
@[simp] theorem State.setFport_msgTable (s : State) (p) (v) : (s.setFport p v).msgTable = s.msgTable := rfl
@[simp] theorem State.setFport_sent (s : State) (p) (v) : (s.setFport p v).sent = s.sent := rfl
@[simp] theorem State.setFport_msgidNext (s : State) (p) (v) : (s.setFport p v).msgidNext = s.msgidNext := rfl
@[simp] theorem State.setFport_reshards (s : State) (p) (v) : (s.setFport p v).reshards = s.reshards := rfl
@[simp] theorem State.setFport_links (s : State) (p) (v) : (s.setFport p v).links = s.links := rfl
@[simp] theorem State.setFport_sessions (s : State) (p) (v) : (s.setFport p v).sessions = s.sessions := rfl
@[simp] theorem State.setFport_sessionNext (s : State) (p) (v) : (s.setFport p v).sessionNext = s.sessionNext := rfl
@[simp] theorem State.setFport_events (s : State) (p) (v) : (s.setFport p v).events = s.events := rfl
@[simp] theorem State.setFport_eventNext (s : State) (p) (v) : (s.setFport p v).eventNext = s.eventNext := rfl
@[simp] theorem State.setFport_eventsLostSince (s : State) (p) (v) : (s.setFport p v).eventsLostSince = s.eventsLostSince := rfl
@[simp] theorem State.setFport_kept (s : State) (p) (v) : (s.setFport p v).kept = s.kept := rfl
@[simp] theorem State.setFport_xfers (s : State) (p) (v) : (s.setFport p v).xfers = s.xfers := rfl
@[simp] theorem State.setFport_xferNext (s : State) (p) (v) : (s.setFport p v).xferNext = s.xferNext := rfl
@[simp] theorem State.setFport_multi (s : State) (p) (v) : (s.setFport p v).multi = s.multi := rfl
@[simp] theorem State.setFport_heldWrites (s : State) (p) (v) : (s.setFport p v).heldWrites = s.heldWrites := rfl
@[simp] theorem State.setFport_net (s : State) (p) (v) : (s.setFport p v).net = s.net := rfl
@[simp] theorem State.setFport_power (s : State) (p) (v) : (s.setFport p v).power = s.power := rfl
@[simp] theorem State.setFport_boot (s : State) (p) (v) : (s.setFport p v).boot = s.boot := rfl
@[simp] theorem State.setFport_taps (s : State) (p) (v) : (s.setFport p v).taps = s.taps := rfl
@[simp] theorem State.setFport_errors (s : State) (p) (v) : (s.setFport p v).errors = s.errors := rfl
@[simp] theorem State.setFport_security (s : State) (p) (v) : (s.setFport p v).security = s.security := rfl
@[simp] theorem State.setFport_profiles (s : State) (p) (v) : (s.setFport p v).profiles = s.profiles := rfl
@[simp] theorem State.setFport_counters (s : State) (p) (v) : (s.setFport p v).counters = s.counters := rfl
@[simp] theorem State.setFport_auditFrozen (s : State) (p) (v) : (s.setFport p v).auditFrozen = s.auditFrozen := rfl
@[simp] theorem State.setFport_obj (s : State) (p) (v) (u0) (u1) : (s.setFport p v).obj u0 u1 = s.obj u0 u1 := rfl
@[simp] theorem State.setFport_tot (s : State) (p) (v) (u0) (u1) : (s.setFport p v).tot u0 u1 = s.tot u0 u1 := rfl
@[simp] theorem State.setFport_block (s : State) (p) (v) (u0) : (s.setFport p v).block u0 = s.block u0 := rfl
@[simp] theorem State.setFport_ctx (s : State) (p) (v) (u0) (u1) : (s.setFport p v).ctx u0 u1 = s.ctx u0 u1 := rfl
@[simp] theorem State.setFport_coreSt (s : State) (p) (v) (u0) : (s.setFport p v).coreSt u0 = s.coreSt u0 := rfl
@[simp] theorem State.setFport_slot (s : State) (p) (v) (u0) : (s.setFport p v).slot u0 = s.slot u0 := rfl
@[simp] theorem State.setFport_keySlot (s : State) (p) (v) (u0) : (s.setFport p v).keySlot u0 = s.keySlot u0 := rfl
@[simp] theorem State.setFport_up (s : State) (p) (v) : (s.setFport p v).up = s.up := rfl
@[simp] theorem State.setFport_vigil (s : State) (p) (v) : (s.setFport p v).vigil = s.vigil := rfl
@[simp] theorem State.setFport_fabricOn (s : State) (p) (v) : (s.setFport p v).fabricOn = s.fabricOn := rfl
@[simp] theorem State.setFport_acc (s : State) (p) (v) (u0) (u1) : (s.setFport p v).acc u0 u1 = s.acc u0 u1 := rfl
@[simp] theorem State.setFport_positions (s : State) (p) (v) (u0) : (s.setFport p v).positions u0 = s.positions u0 := rfl
@[simp] theorem State.setFport_slotEn (s : State) (p) (v) (u0) : (s.setFport p v).slotEn u0 = s.slotEn u0 := rfl

/-! ### modLedger -/

@[simp] theorem State.modLedger_part (s : State) (g) : (s.modLedger g).part = s.part := rfl
@[simp] theorem State.modLedger_pending (s : State) (g) : (s.modLedger g).pending = s.pending := rfl
@[simp] theorem State.modLedger_cores (s : State) (g) : (s.modLedger g).cores = s.cores := rfl
@[simp] theorem State.modLedger_ctxs (s : State) (g) : (s.modLedger g).ctxs = s.ctxs := rfl
@[simp] theorem State.modLedger_accs (s : State) (g) : (s.modLedger g).accs = s.accs := rfl
@[simp] theorem State.modLedger_srf (s : State) (g) : (s.modLedger g).srf = s.srf := rfl
@[simp] theorem State.modLedger_rescale (s : State) (g) : (s.modLedger g).rescale = s.rescale := rfl
@[simp] theorem State.modLedger_mem (s : State) (g) : (s.modLedger g).mem = s.mem := rfl
@[simp] theorem State.modLedger_unitKey (s : State) (g) : (s.modLedger g).unitKey = s.unitKey := rfl
@[simp] theorem State.modLedger_fills (s : State) (g) : (s.modLedger g).fills = s.fills := rfl
@[simp] theorem State.modLedger_coreUc (s : State) (g) : (s.modLedger g).coreUc = s.coreUc := rfl
@[simp] theorem State.modLedger_unitCode (s : State) (g) : (s.modLedger g).unitCode = s.unitCode := rfl
@[simp] theorem State.modLedger_scrubAt (s : State) (g) : (s.modLedger g).scrubAt = s.scrubAt := rfl
@[simp] theorem State.modLedger_mcErr (s : State) (g) : (s.modLedger g).mcErr = s.mcErr := rfl
@[simp] theorem State.modLedger_unspecCount (s : State) (g) : (s.modLedger g).unspecCount = s.unspecCount := rfl
@[simp] theorem State.modLedger_untrained (s : State) (g) : (s.modLedger g).untrained = s.untrained := rfl
@[simp] theorem State.modLedger_blocks (s : State) (g) : (s.modLedger g).blocks = s.blocks := rfl
@[simp] theorem State.modLedger_objs (s : State) (g) : (s.modLedger g).objs = s.objs := rfl
@[simp] theorem State.modLedger_octs (s : State) (g) : (s.modLedger g).octs = s.octs := rfl
@[simp] theorem State.modLedger_tots (s : State) (g) : (s.modLedger g).tots = s.tots := rfl
@[simp] theorem State.modLedger_slots (s : State) (g) : (s.modLedger g).slots = s.slots := rfl
@[simp] theorem State.modLedger_group (s : State) (g) : (s.modLedger g).group = s.group := rfl
@[simp] theorem State.modLedger_noise (s : State) (g) : (s.modLedger g).noise = s.noise := rfl
@[simp] theorem State.modLedger_watch (s : State) (g) : (s.modLedger g).watch = s.watch := rfl
@[simp] theorem State.modLedger_watchNew (s : State) (g) : (s.modLedger g).watchNew = s.watchNew := rfl
@[simp] theorem State.modLedger_live (s : State) (g) : (s.modLedger g).live = s.live := rfl
@[simp] theorem State.modLedger_watchDue (s : State) (g) : (s.modLedger g).watchDue = s.watchDue := rfl
@[simp] theorem State.modLedger_fports (s : State) (g) : (s.modLedger g).fports = s.fports := rfl
@[simp] theorem State.modLedger_router (s : State) (g) : (s.modLedger g).router = s.router := rfl
@[simp] theorem State.modLedger_inbox (s : State) (g) : (s.modLedger g).inbox = s.inbox := rfl
@[simp] theorem State.modLedger_almanac (s : State) (g) : (s.modLedger g).almanac = s.almanac := rfl
@[simp] theorem State.modLedger_msgTable (s : State) (g) : (s.modLedger g).msgTable = s.msgTable := rfl
@[simp] theorem State.modLedger_sent (s : State) (g) : (s.modLedger g).sent = s.sent := rfl
@[simp] theorem State.modLedger_msgidNext (s : State) (g) : (s.modLedger g).msgidNext = s.msgidNext := rfl
@[simp] theorem State.modLedger_reshards (s : State) (g) : (s.modLedger g).reshards = s.reshards := rfl
@[simp] theorem State.modLedger_links (s : State) (g) : (s.modLedger g).links = s.links := rfl
@[simp] theorem State.modLedger_sessions (s : State) (g) : (s.modLedger g).sessions = s.sessions := rfl
@[simp] theorem State.modLedger_sessionNext (s : State) (g) : (s.modLedger g).sessionNext = s.sessionNext := rfl
@[simp] theorem State.modLedger_events (s : State) (g) : (s.modLedger g).events = s.events := rfl
@[simp] theorem State.modLedger_eventNext (s : State) (g) : (s.modLedger g).eventNext = s.eventNext := rfl
@[simp] theorem State.modLedger_eventsLostSince (s : State) (g) : (s.modLedger g).eventsLostSince = s.eventsLostSince := rfl
@[simp] theorem State.modLedger_kept (s : State) (g) : (s.modLedger g).kept = s.kept := rfl
@[simp] theorem State.modLedger_xfers (s : State) (g) : (s.modLedger g).xfers = s.xfers := rfl
@[simp] theorem State.modLedger_xferNext (s : State) (g) : (s.modLedger g).xferNext = s.xferNext := rfl
@[simp] theorem State.modLedger_multi (s : State) (g) : (s.modLedger g).multi = s.multi := rfl
@[simp] theorem State.modLedger_heldWrites (s : State) (g) : (s.modLedger g).heldWrites = s.heldWrites := rfl
@[simp] theorem State.modLedger_net (s : State) (g) : (s.modLedger g).net = s.net := rfl
@[simp] theorem State.modLedger_power (s : State) (g) : (s.modLedger g).power = s.power := rfl
@[simp] theorem State.modLedger_boot (s : State) (g) : (s.modLedger g).boot = s.boot := rfl
@[simp] theorem State.modLedger_taps (s : State) (g) : (s.modLedger g).taps = s.taps := rfl
@[simp] theorem State.modLedger_errors (s : State) (g) : (s.modLedger g).errors = s.errors := rfl
@[simp] theorem State.modLedger_profiles (s : State) (g) : (s.modLedger g).profiles = s.profiles := rfl
@[simp] theorem State.modLedger_counters (s : State) (g) : (s.modLedger g).counters = s.counters := rfl
@[simp] theorem State.modLedger_auditFrozen (s : State) (g) : (s.modLedger g).auditFrozen = s.auditFrozen := rfl
@[simp] theorem State.modLedger_obj (s : State) (g) (u0) (u1) : (s.modLedger g).obj u0 u1 = s.obj u0 u1 := rfl
@[simp] theorem State.modLedger_tot (s : State) (g) (u0) (u1) : (s.modLedger g).tot u0 u1 = s.tot u0 u1 := rfl
@[simp] theorem State.modLedger_block (s : State) (g) (u0) : (s.modLedger g).block u0 = s.block u0 := rfl
@[simp] theorem State.modLedger_ctx (s : State) (g) (u0) (u1) : (s.modLedger g).ctx u0 u1 = s.ctx u0 u1 := rfl
@[simp] theorem State.modLedger_coreSt (s : State) (g) (u0) : (s.modLedger g).coreSt u0 = s.coreSt u0 := rfl
@[simp] theorem State.modLedger_slot (s : State) (g) (u0) : (s.modLedger g).slot u0 = s.slot u0 := rfl
@[simp] theorem State.modLedger_fport (s : State) (g) (u0) : (s.modLedger g).fport u0 = s.fport u0 := rfl
@[simp] theorem State.modLedger_keySlot (s : State) (g) (u0) : (s.modLedger g).keySlot u0 = s.keySlot u0 := rfl
@[simp] theorem State.modLedger_up (s : State) (g) : (s.modLedger g).up = s.up := rfl
@[simp] theorem State.modLedger_vigil (s : State) (g) : (s.modLedger g).vigil = s.vigil := rfl
@[simp] theorem State.modLedger_fabricOn (s : State) (g) : (s.modLedger g).fabricOn = s.fabricOn := rfl
@[simp] theorem State.modLedger_acc (s : State) (g) (u0) (u1) : (s.modLedger g).acc u0 u1 = s.acc u0 u1 := rfl
@[simp] theorem State.modLedger_positions (s : State) (g) (u0) : (s.modLedger g).positions u0 = s.positions u0 := rfl
@[simp] theorem State.modLedger_slotEn (s : State) (g) (u0) : (s.modLedger g).slotEn u0 = s.slotEn u0 := rfl

/-! ### setSession -/

@[simp] theorem State.setSession_part (s : State) (ss) : (s.setSession ss).part = s.part := rfl
@[simp] theorem State.setSession_pending (s : State) (ss) : (s.setSession ss).pending = s.pending := rfl
@[simp] theorem State.setSession_cores (s : State) (ss) : (s.setSession ss).cores = s.cores := rfl
@[simp] theorem State.setSession_ctxs (s : State) (ss) : (s.setSession ss).ctxs = s.ctxs := rfl
@[simp] theorem State.setSession_accs (s : State) (ss) : (s.setSession ss).accs = s.accs := rfl
@[simp] theorem State.setSession_srf (s : State) (ss) : (s.setSession ss).srf = s.srf := rfl
@[simp] theorem State.setSession_rescale (s : State) (ss) : (s.setSession ss).rescale = s.rescale := rfl
@[simp] theorem State.setSession_mem (s : State) (ss) : (s.setSession ss).mem = s.mem := rfl
@[simp] theorem State.setSession_unitKey (s : State) (ss) : (s.setSession ss).unitKey = s.unitKey := rfl
@[simp] theorem State.setSession_fills (s : State) (ss) : (s.setSession ss).fills = s.fills := rfl
@[simp] theorem State.setSession_coreUc (s : State) (ss) : (s.setSession ss).coreUc = s.coreUc := rfl
@[simp] theorem State.setSession_unitCode (s : State) (ss) : (s.setSession ss).unitCode = s.unitCode := rfl
@[simp] theorem State.setSession_scrubAt (s : State) (ss) : (s.setSession ss).scrubAt = s.scrubAt := rfl
@[simp] theorem State.setSession_mcErr (s : State) (ss) : (s.setSession ss).mcErr = s.mcErr := rfl
@[simp] theorem State.setSession_unspecCount (s : State) (ss) : (s.setSession ss).unspecCount = s.unspecCount := rfl
@[simp] theorem State.setSession_untrained (s : State) (ss) : (s.setSession ss).untrained = s.untrained := rfl
@[simp] theorem State.setSession_blocks (s : State) (ss) : (s.setSession ss).blocks = s.blocks := rfl
@[simp] theorem State.setSession_objs (s : State) (ss) : (s.setSession ss).objs = s.objs := rfl
@[simp] theorem State.setSession_octs (s : State) (ss) : (s.setSession ss).octs = s.octs := rfl
@[simp] theorem State.setSession_tots (s : State) (ss) : (s.setSession ss).tots = s.tots := rfl
@[simp] theorem State.setSession_slots (s : State) (ss) : (s.setSession ss).slots = s.slots := rfl
@[simp] theorem State.setSession_group (s : State) (ss) : (s.setSession ss).group = s.group := rfl
@[simp] theorem State.setSession_noise (s : State) (ss) : (s.setSession ss).noise = s.noise := rfl
@[simp] theorem State.setSession_watch (s : State) (ss) : (s.setSession ss).watch = s.watch := rfl
@[simp] theorem State.setSession_watchNew (s : State) (ss) : (s.setSession ss).watchNew = s.watchNew := rfl
@[simp] theorem State.setSession_live (s : State) (ss) : (s.setSession ss).live = s.live := rfl
@[simp] theorem State.setSession_watchDue (s : State) (ss) : (s.setSession ss).watchDue = s.watchDue := rfl
@[simp] theorem State.setSession_fports (s : State) (ss) : (s.setSession ss).fports = s.fports := rfl
@[simp] theorem State.setSession_router (s : State) (ss) : (s.setSession ss).router = s.router := rfl
@[simp] theorem State.setSession_inbox (s : State) (ss) : (s.setSession ss).inbox = s.inbox := rfl
@[simp] theorem State.setSession_almanac (s : State) (ss) : (s.setSession ss).almanac = s.almanac := rfl
@[simp] theorem State.setSession_msgTable (s : State) (ss) : (s.setSession ss).msgTable = s.msgTable := rfl
@[simp] theorem State.setSession_sent (s : State) (ss) : (s.setSession ss).sent = s.sent := rfl
@[simp] theorem State.setSession_msgidNext (s : State) (ss) : (s.setSession ss).msgidNext = s.msgidNext := rfl
@[simp] theorem State.setSession_reshards (s : State) (ss) : (s.setSession ss).reshards = s.reshards := rfl
@[simp] theorem State.setSession_links (s : State) (ss) : (s.setSession ss).links = s.links := rfl
@[simp] theorem State.setSession_sessionNext (s : State) (ss) : (s.setSession ss).sessionNext = s.sessionNext := rfl
@[simp] theorem State.setSession_events (s : State) (ss) : (s.setSession ss).events = s.events := rfl
@[simp] theorem State.setSession_eventNext (s : State) (ss) : (s.setSession ss).eventNext = s.eventNext := rfl
@[simp] theorem State.setSession_eventsLostSince (s : State) (ss) : (s.setSession ss).eventsLostSince = s.eventsLostSince := rfl
@[simp] theorem State.setSession_kept (s : State) (ss) : (s.setSession ss).kept = s.kept := rfl
@[simp] theorem State.setSession_xfers (s : State) (ss) : (s.setSession ss).xfers = s.xfers := rfl
@[simp] theorem State.setSession_xferNext (s : State) (ss) : (s.setSession ss).xferNext = s.xferNext := rfl
@[simp] theorem State.setSession_multi (s : State) (ss) : (s.setSession ss).multi = s.multi := rfl
@[simp] theorem State.setSession_heldWrites (s : State) (ss) : (s.setSession ss).heldWrites = s.heldWrites := rfl
@[simp] theorem State.setSession_net (s : State) (ss) : (s.setSession ss).net = s.net := rfl
@[simp] theorem State.setSession_power (s : State) (ss) : (s.setSession ss).power = s.power := rfl
@[simp] theorem State.setSession_boot (s : State) (ss) : (s.setSession ss).boot = s.boot := rfl
@[simp] theorem State.setSession_taps (s : State) (ss) : (s.setSession ss).taps = s.taps := rfl
@[simp] theorem State.setSession_errors (s : State) (ss) : (s.setSession ss).errors = s.errors := rfl
@[simp] theorem State.setSession_security (s : State) (ss) : (s.setSession ss).security = s.security := rfl
@[simp] theorem State.setSession_profiles (s : State) (ss) : (s.setSession ss).profiles = s.profiles := rfl
@[simp] theorem State.setSession_counters (s : State) (ss) : (s.setSession ss).counters = s.counters := rfl
@[simp] theorem State.setSession_auditFrozen (s : State) (ss) : (s.setSession ss).auditFrozen = s.auditFrozen := rfl
@[simp] theorem State.setSession_obj (s : State) (ss) (u0) (u1) : (s.setSession ss).obj u0 u1 = s.obj u0 u1 := rfl
@[simp] theorem State.setSession_tot (s : State) (ss) (u0) (u1) : (s.setSession ss).tot u0 u1 = s.tot u0 u1 := rfl
@[simp] theorem State.setSession_block (s : State) (ss) (u0) : (s.setSession ss).block u0 = s.block u0 := rfl
@[simp] theorem State.setSession_ctx (s : State) (ss) (u0) (u1) : (s.setSession ss).ctx u0 u1 = s.ctx u0 u1 := rfl
@[simp] theorem State.setSession_coreSt (s : State) (ss) (u0) : (s.setSession ss).coreSt u0 = s.coreSt u0 := rfl
@[simp] theorem State.setSession_slot (s : State) (ss) (u0) : (s.setSession ss).slot u0 = s.slot u0 := rfl
@[simp] theorem State.setSession_fport (s : State) (ss) (u0) : (s.setSession ss).fport u0 = s.fport u0 := rfl
@[simp] theorem State.setSession_keySlot (s : State) (ss) (u0) : (s.setSession ss).keySlot u0 = s.keySlot u0 := rfl
@[simp] theorem State.setSession_up (s : State) (ss) : (s.setSession ss).up = s.up := rfl
@[simp] theorem State.setSession_vigil (s : State) (ss) : (s.setSession ss).vigil = s.vigil := rfl
@[simp] theorem State.setSession_fabricOn (s : State) (ss) : (s.setSession ss).fabricOn = s.fabricOn := rfl
@[simp] theorem State.setSession_acc (s : State) (ss) (u0) (u1) : (s.setSession ss).acc u0 u1 = s.acc u0 u1 := rfl
@[simp] theorem State.setSession_positions (s : State) (ss) (u0) : (s.setSession ss).positions u0 = s.positions u0 := rfl
@[simp] theorem State.setSession_slotEn (s : State) (ss) (u0) : (s.setSession ss).slotEn u0 = s.slotEn u0 := rfl

/-! ### setAlmanac -/

@[simp] theorem State.setAlmanac_part (s : State) (g) : (s.setAlmanac g).part = s.part := rfl
@[simp] theorem State.setAlmanac_pending (s : State) (g) : (s.setAlmanac g).pending = s.pending := rfl
@[simp] theorem State.setAlmanac_cores (s : State) (g) : (s.setAlmanac g).cores = s.cores := rfl
@[simp] theorem State.setAlmanac_ctxs (s : State) (g) : (s.setAlmanac g).ctxs = s.ctxs := rfl
@[simp] theorem State.setAlmanac_accs (s : State) (g) : (s.setAlmanac g).accs = s.accs := rfl
@[simp] theorem State.setAlmanac_srf (s : State) (g) : (s.setAlmanac g).srf = s.srf := rfl
@[simp] theorem State.setAlmanac_rescale (s : State) (g) : (s.setAlmanac g).rescale = s.rescale := rfl
@[simp] theorem State.setAlmanac_mem (s : State) (g) : (s.setAlmanac g).mem = s.mem := rfl
@[simp] theorem State.setAlmanac_unitKey (s : State) (g) : (s.setAlmanac g).unitKey = s.unitKey := rfl
@[simp] theorem State.setAlmanac_fills (s : State) (g) : (s.setAlmanac g).fills = s.fills := rfl
@[simp] theorem State.setAlmanac_coreUc (s : State) (g) : (s.setAlmanac g).coreUc = s.coreUc := rfl
@[simp] theorem State.setAlmanac_unitCode (s : State) (g) : (s.setAlmanac g).unitCode = s.unitCode := rfl
@[simp] theorem State.setAlmanac_scrubAt (s : State) (g) : (s.setAlmanac g).scrubAt = s.scrubAt := rfl
@[simp] theorem State.setAlmanac_mcErr (s : State) (g) : (s.setAlmanac g).mcErr = s.mcErr := rfl
@[simp] theorem State.setAlmanac_unspecCount (s : State) (g) : (s.setAlmanac g).unspecCount = s.unspecCount := rfl
@[simp] theorem State.setAlmanac_untrained (s : State) (g) : (s.setAlmanac g).untrained = s.untrained := rfl
@[simp] theorem State.setAlmanac_blocks (s : State) (g) : (s.setAlmanac g).blocks = s.blocks := rfl
@[simp] theorem State.setAlmanac_objs (s : State) (g) : (s.setAlmanac g).objs = s.objs := rfl
@[simp] theorem State.setAlmanac_octs (s : State) (g) : (s.setAlmanac g).octs = s.octs := rfl
@[simp] theorem State.setAlmanac_tots (s : State) (g) : (s.setAlmanac g).tots = s.tots := rfl
@[simp] theorem State.setAlmanac_slots (s : State) (g) : (s.setAlmanac g).slots = s.slots := rfl
@[simp] theorem State.setAlmanac_group (s : State) (g) : (s.setAlmanac g).group = s.group := rfl
@[simp] theorem State.setAlmanac_noise (s : State) (g) : (s.setAlmanac g).noise = s.noise := rfl
@[simp] theorem State.setAlmanac_watch (s : State) (g) : (s.setAlmanac g).watch = s.watch := rfl
@[simp] theorem State.setAlmanac_watchNew (s : State) (g) : (s.setAlmanac g).watchNew = s.watchNew := rfl
@[simp] theorem State.setAlmanac_live (s : State) (g) : (s.setAlmanac g).live = s.live := rfl
@[simp] theorem State.setAlmanac_watchDue (s : State) (g) : (s.setAlmanac g).watchDue = s.watchDue := rfl
@[simp] theorem State.setAlmanac_fports (s : State) (g) : (s.setAlmanac g).fports = s.fports := rfl
@[simp] theorem State.setAlmanac_router (s : State) (g) : (s.setAlmanac g).router = s.router := rfl
@[simp] theorem State.setAlmanac_inbox (s : State) (g) : (s.setAlmanac g).inbox = s.inbox := rfl
@[simp] theorem State.setAlmanac_msgTable (s : State) (g) : (s.setAlmanac g).msgTable = s.msgTable := rfl
@[simp] theorem State.setAlmanac_sent (s : State) (g) : (s.setAlmanac g).sent = s.sent := rfl
@[simp] theorem State.setAlmanac_msgidNext (s : State) (g) : (s.setAlmanac g).msgidNext = s.msgidNext := rfl
@[simp] theorem State.setAlmanac_reshards (s : State) (g) : (s.setAlmanac g).reshards = s.reshards := rfl
@[simp] theorem State.setAlmanac_links (s : State) (g) : (s.setAlmanac g).links = s.links := rfl
@[simp] theorem State.setAlmanac_sessions (s : State) (g) : (s.setAlmanac g).sessions = s.sessions := rfl
@[simp] theorem State.setAlmanac_sessionNext (s : State) (g) : (s.setAlmanac g).sessionNext = s.sessionNext := rfl
@[simp] theorem State.setAlmanac_events (s : State) (g) : (s.setAlmanac g).events = s.events := rfl
@[simp] theorem State.setAlmanac_eventNext (s : State) (g) : (s.setAlmanac g).eventNext = s.eventNext := rfl
@[simp] theorem State.setAlmanac_eventsLostSince (s : State) (g) : (s.setAlmanac g).eventsLostSince = s.eventsLostSince := rfl
@[simp] theorem State.setAlmanac_kept (s : State) (g) : (s.setAlmanac g).kept = s.kept := rfl
@[simp] theorem State.setAlmanac_xfers (s : State) (g) : (s.setAlmanac g).xfers = s.xfers := rfl
@[simp] theorem State.setAlmanac_xferNext (s : State) (g) : (s.setAlmanac g).xferNext = s.xferNext := rfl
@[simp] theorem State.setAlmanac_multi (s : State) (g) : (s.setAlmanac g).multi = s.multi := rfl
@[simp] theorem State.setAlmanac_heldWrites (s : State) (g) : (s.setAlmanac g).heldWrites = s.heldWrites := rfl
@[simp] theorem State.setAlmanac_net (s : State) (g) : (s.setAlmanac g).net = s.net := rfl
@[simp] theorem State.setAlmanac_power (s : State) (g) : (s.setAlmanac g).power = s.power := rfl
@[simp] theorem State.setAlmanac_boot (s : State) (g) : (s.setAlmanac g).boot = s.boot := rfl
@[simp] theorem State.setAlmanac_taps (s : State) (g) : (s.setAlmanac g).taps = s.taps := rfl
@[simp] theorem State.setAlmanac_errors (s : State) (g) : (s.setAlmanac g).errors = s.errors := rfl
@[simp] theorem State.setAlmanac_security (s : State) (g) : (s.setAlmanac g).security = s.security := rfl
@[simp] theorem State.setAlmanac_profiles (s : State) (g) : (s.setAlmanac g).profiles = s.profiles := rfl
@[simp] theorem State.setAlmanac_counters (s : State) (g) : (s.setAlmanac g).counters = s.counters := rfl
@[simp] theorem State.setAlmanac_auditFrozen (s : State) (g) : (s.setAlmanac g).auditFrozen = s.auditFrozen := rfl
@[simp] theorem State.setAlmanac_obj (s : State) (g) (u0) (u1) : (s.setAlmanac g).obj u0 u1 = s.obj u0 u1 := rfl
@[simp] theorem State.setAlmanac_tot (s : State) (g) (u0) (u1) : (s.setAlmanac g).tot u0 u1 = s.tot u0 u1 := rfl
@[simp] theorem State.setAlmanac_block (s : State) (g) (u0) : (s.setAlmanac g).block u0 = s.block u0 := rfl
@[simp] theorem State.setAlmanac_ctx (s : State) (g) (u0) (u1) : (s.setAlmanac g).ctx u0 u1 = s.ctx u0 u1 := rfl
@[simp] theorem State.setAlmanac_coreSt (s : State) (g) (u0) : (s.setAlmanac g).coreSt u0 = s.coreSt u0 := rfl
@[simp] theorem State.setAlmanac_slot (s : State) (g) (u0) : (s.setAlmanac g).slot u0 = s.slot u0 := rfl
@[simp] theorem State.setAlmanac_fport (s : State) (g) (u0) : (s.setAlmanac g).fport u0 = s.fport u0 := rfl
@[simp] theorem State.setAlmanac_keySlot (s : State) (g) (u0) : (s.setAlmanac g).keySlot u0 = s.keySlot u0 := rfl
@[simp] theorem State.setAlmanac_up (s : State) (g) : (s.setAlmanac g).up = s.up := rfl
@[simp] theorem State.setAlmanac_vigil (s : State) (g) : (s.setAlmanac g).vigil = s.vigil := rfl
@[simp] theorem State.setAlmanac_fabricOn (s : State) (g) : (s.setAlmanac g).fabricOn = s.fabricOn := rfl
@[simp] theorem State.setAlmanac_acc (s : State) (g) (u0) (u1) : (s.setAlmanac g).acc u0 u1 = s.acc u0 u1 := rfl
@[simp] theorem State.setAlmanac_positions (s : State) (g) (u0) : (s.setAlmanac g).positions u0 = s.positions u0 := rfl
@[simp] theorem State.setAlmanac_slotEn (s : State) (g) (u0) : (s.setAlmanac g).slotEn u0 = s.slotEn u0 := rfl

/-! ### emit -/

@[simp] theorem State.emit_part (s : State) (o) : (s.emit o).part = s.part := rfl
@[simp] theorem State.emit_pending (s : State) (o) : (s.emit o).pending = s.pending := rfl
@[simp] theorem State.emit_cores (s : State) (o) : (s.emit o).cores = s.cores := rfl
@[simp] theorem State.emit_ctxs (s : State) (o) : (s.emit o).ctxs = s.ctxs := rfl
@[simp] theorem State.emit_accs (s : State) (o) : (s.emit o).accs = s.accs := rfl
@[simp] theorem State.emit_srf (s : State) (o) : (s.emit o).srf = s.srf := rfl
@[simp] theorem State.emit_rescale (s : State) (o) : (s.emit o).rescale = s.rescale := rfl
@[simp] theorem State.emit_mem (s : State) (o) : (s.emit o).mem = s.mem := rfl
@[simp] theorem State.emit_unitKey (s : State) (o) : (s.emit o).unitKey = s.unitKey := rfl
@[simp] theorem State.emit_fills (s : State) (o) : (s.emit o).fills = s.fills := rfl
@[simp] theorem State.emit_coreUc (s : State) (o) : (s.emit o).coreUc = s.coreUc := rfl
@[simp] theorem State.emit_unitCode (s : State) (o) : (s.emit o).unitCode = s.unitCode := rfl
@[simp] theorem State.emit_scrubAt (s : State) (o) : (s.emit o).scrubAt = s.scrubAt := rfl
@[simp] theorem State.emit_mcErr (s : State) (o) : (s.emit o).mcErr = s.mcErr := rfl
@[simp] theorem State.emit_unspecCount (s : State) (o) : (s.emit o).unspecCount = s.unspecCount := rfl
@[simp] theorem State.emit_untrained (s : State) (o) : (s.emit o).untrained = s.untrained := rfl
@[simp] theorem State.emit_blocks (s : State) (o) : (s.emit o).blocks = s.blocks := rfl
@[simp] theorem State.emit_objs (s : State) (o) : (s.emit o).objs = s.objs := rfl
@[simp] theorem State.emit_octs (s : State) (o) : (s.emit o).octs = s.octs := rfl
@[simp] theorem State.emit_tots (s : State) (o) : (s.emit o).tots = s.tots := rfl
@[simp] theorem State.emit_slots (s : State) (o) : (s.emit o).slots = s.slots := rfl
@[simp] theorem State.emit_group (s : State) (o) : (s.emit o).group = s.group := rfl
@[simp] theorem State.emit_noise (s : State) (o) : (s.emit o).noise = s.noise := rfl
@[simp] theorem State.emit_watch (s : State) (o) : (s.emit o).watch = s.watch := rfl
@[simp] theorem State.emit_watchNew (s : State) (o) : (s.emit o).watchNew = s.watchNew := rfl
@[simp] theorem State.emit_live (s : State) (o) : (s.emit o).live = s.live := rfl
@[simp] theorem State.emit_watchDue (s : State) (o) : (s.emit o).watchDue = s.watchDue := rfl
@[simp] theorem State.emit_fports (s : State) (o) : (s.emit o).fports = s.fports := rfl
@[simp] theorem State.emit_router (s : State) (o) : (s.emit o).router = s.router := rfl
@[simp] theorem State.emit_inbox (s : State) (o) : (s.emit o).inbox = s.inbox := rfl
@[simp] theorem State.emit_almanac (s : State) (o) : (s.emit o).almanac = s.almanac := rfl
@[simp] theorem State.emit_msgTable (s : State) (o) : (s.emit o).msgTable = s.msgTable := rfl
@[simp] theorem State.emit_sent (s : State) (o) : (s.emit o).sent = s.sent := rfl
@[simp] theorem State.emit_msgidNext (s : State) (o) : (s.emit o).msgidNext = s.msgidNext := rfl
@[simp] theorem State.emit_reshards (s : State) (o) : (s.emit o).reshards = s.reshards := rfl
@[simp] theorem State.emit_links (s : State) (o) : (s.emit o).links = s.links := rfl
@[simp] theorem State.emit_sessions (s : State) (o) : (s.emit o).sessions = s.sessions := rfl
@[simp] theorem State.emit_sessionNext (s : State) (o) : (s.emit o).sessionNext = s.sessionNext := rfl
@[simp] theorem State.emit_events (s : State) (o) : (s.emit o).events = s.events := rfl
@[simp] theorem State.emit_eventNext (s : State) (o) : (s.emit o).eventNext = s.eventNext := rfl
@[simp] theorem State.emit_eventsLostSince (s : State) (o) : (s.emit o).eventsLostSince = s.eventsLostSince := rfl
@[simp] theorem State.emit_kept (s : State) (o) : (s.emit o).kept = s.kept := rfl
@[simp] theorem State.emit_xfers (s : State) (o) : (s.emit o).xfers = s.xfers := rfl
@[simp] theorem State.emit_xferNext (s : State) (o) : (s.emit o).xferNext = s.xferNext := rfl
@[simp] theorem State.emit_multi (s : State) (o) : (s.emit o).multi = s.multi := rfl
@[simp] theorem State.emit_heldWrites (s : State) (o) : (s.emit o).heldWrites = s.heldWrites := rfl
@[simp] theorem State.emit_power (s : State) (o) : (s.emit o).power = s.power := rfl
@[simp] theorem State.emit_boot (s : State) (o) : (s.emit o).boot = s.boot := rfl
@[simp] theorem State.emit_taps (s : State) (o) : (s.emit o).taps = s.taps := rfl
@[simp] theorem State.emit_errors (s : State) (o) : (s.emit o).errors = s.errors := rfl
@[simp] theorem State.emit_security (s : State) (o) : (s.emit o).security = s.security := rfl
@[simp] theorem State.emit_profiles (s : State) (o) : (s.emit o).profiles = s.profiles := rfl
@[simp] theorem State.emit_counters (s : State) (o) : (s.emit o).counters = s.counters := rfl
@[simp] theorem State.emit_auditFrozen (s : State) (o) : (s.emit o).auditFrozen = s.auditFrozen := rfl
@[simp] theorem State.emit_obj (s : State) (o) (u0) (u1) : (s.emit o).obj u0 u1 = s.obj u0 u1 := rfl
@[simp] theorem State.emit_tot (s : State) (o) (u0) (u1) : (s.emit o).tot u0 u1 = s.tot u0 u1 := rfl
@[simp] theorem State.emit_block (s : State) (o) (u0) : (s.emit o).block u0 = s.block u0 := rfl
@[simp] theorem State.emit_ctx (s : State) (o) (u0) (u1) : (s.emit o).ctx u0 u1 = s.ctx u0 u1 := rfl
@[simp] theorem State.emit_coreSt (s : State) (o) (u0) : (s.emit o).coreSt u0 = s.coreSt u0 := rfl
@[simp] theorem State.emit_slot (s : State) (o) (u0) : (s.emit o).slot u0 = s.slot u0 := rfl
@[simp] theorem State.emit_fport (s : State) (o) (u0) : (s.emit o).fport u0 = s.fport u0 := rfl
@[simp] theorem State.emit_keySlot (s : State) (o) (u0) : (s.emit o).keySlot u0 = s.keySlot u0 := rfl
@[simp] theorem State.emit_up (s : State) (o) : (s.emit o).up = s.up := rfl
@[simp] theorem State.emit_vigil (s : State) (o) : (s.emit o).vigil = s.vigil := rfl
@[simp] theorem State.emit_fabricOn (s : State) (o) : (s.emit o).fabricOn = s.fabricOn := rfl
@[simp] theorem State.emit_acc (s : State) (o) (u0) (u1) : (s.emit o).acc u0 u1 = s.acc u0 u1 := rfl
@[simp] theorem State.emit_positions (s : State) (o) (u0) : (s.emit o).positions u0 = s.positions u0 := rfl
@[simp] theorem State.emit_slotEn (s : State) (o) (u0) : (s.emit o).slotEn u0 = s.slotEn u0 := rfl

/-! ### setGroup -/

@[simp] theorem State.setGroup_part (s : State) (g) : (s.setGroup g).part = s.part := rfl
@[simp] theorem State.setGroup_pending (s : State) (g) : (s.setGroup g).pending = s.pending := rfl
@[simp] theorem State.setGroup_cores (s : State) (g) : (s.setGroup g).cores = s.cores := rfl
@[simp] theorem State.setGroup_ctxs (s : State) (g) : (s.setGroup g).ctxs = s.ctxs := rfl
@[simp] theorem State.setGroup_accs (s : State) (g) : (s.setGroup g).accs = s.accs := rfl
@[simp] theorem State.setGroup_srf (s : State) (g) : (s.setGroup g).srf = s.srf := rfl
@[simp] theorem State.setGroup_rescale (s : State) (g) : (s.setGroup g).rescale = s.rescale := rfl
@[simp] theorem State.setGroup_mem (s : State) (g) : (s.setGroup g).mem = s.mem := rfl
@[simp] theorem State.setGroup_unitKey (s : State) (g) : (s.setGroup g).unitKey = s.unitKey := rfl
@[simp] theorem State.setGroup_fills (s : State) (g) : (s.setGroup g).fills = s.fills := rfl
@[simp] theorem State.setGroup_coreUc (s : State) (g) : (s.setGroup g).coreUc = s.coreUc := rfl
@[simp] theorem State.setGroup_unitCode (s : State) (g) : (s.setGroup g).unitCode = s.unitCode := rfl
@[simp] theorem State.setGroup_scrubAt (s : State) (g) : (s.setGroup g).scrubAt = s.scrubAt := rfl
@[simp] theorem State.setGroup_mcErr (s : State) (g) : (s.setGroup g).mcErr = s.mcErr := rfl
@[simp] theorem State.setGroup_unspecCount (s : State) (g) : (s.setGroup g).unspecCount = s.unspecCount := rfl
@[simp] theorem State.setGroup_untrained (s : State) (g) : (s.setGroup g).untrained = s.untrained := rfl
@[simp] theorem State.setGroup_blocks (s : State) (g) : (s.setGroup g).blocks = s.blocks := rfl
@[simp] theorem State.setGroup_objs (s : State) (g) : (s.setGroup g).objs = s.objs := rfl
@[simp] theorem State.setGroup_octs (s : State) (g) : (s.setGroup g).octs = s.octs := rfl
@[simp] theorem State.setGroup_tots (s : State) (g) : (s.setGroup g).tots = s.tots := rfl
@[simp] theorem State.setGroup_slots (s : State) (g) : (s.setGroup g).slots = s.slots := rfl
@[simp] theorem State.setGroup_noise (s : State) (g) : (s.setGroup g).noise = s.noise := rfl
@[simp] theorem State.setGroup_watch (s : State) (g) : (s.setGroup g).watch = s.watch := rfl
@[simp] theorem State.setGroup_watchNew (s : State) (g) : (s.setGroup g).watchNew = s.watchNew := rfl
@[simp] theorem State.setGroup_live (s : State) (g) : (s.setGroup g).live = s.live := rfl
@[simp] theorem State.setGroup_watchDue (s : State) (g) : (s.setGroup g).watchDue = s.watchDue := rfl
@[simp] theorem State.setGroup_fports (s : State) (g) : (s.setGroup g).fports = s.fports := rfl
@[simp] theorem State.setGroup_router (s : State) (g) : (s.setGroup g).router = s.router := rfl
@[simp] theorem State.setGroup_inbox (s : State) (g) : (s.setGroup g).inbox = s.inbox := rfl
@[simp] theorem State.setGroup_almanac (s : State) (g) : (s.setGroup g).almanac = s.almanac := rfl
@[simp] theorem State.setGroup_msgTable (s : State) (g) : (s.setGroup g).msgTable = s.msgTable := rfl
@[simp] theorem State.setGroup_sent (s : State) (g) : (s.setGroup g).sent = s.sent := rfl
@[simp] theorem State.setGroup_msgidNext (s : State) (g) : (s.setGroup g).msgidNext = s.msgidNext := rfl
@[simp] theorem State.setGroup_reshards (s : State) (g) : (s.setGroup g).reshards = s.reshards := rfl
@[simp] theorem State.setGroup_links (s : State) (g) : (s.setGroup g).links = s.links := rfl
@[simp] theorem State.setGroup_sessions (s : State) (g) : (s.setGroup g).sessions = s.sessions := rfl
@[simp] theorem State.setGroup_sessionNext (s : State) (g) : (s.setGroup g).sessionNext = s.sessionNext := rfl
@[simp] theorem State.setGroup_events (s : State) (g) : (s.setGroup g).events = s.events := rfl
@[simp] theorem State.setGroup_eventNext (s : State) (g) : (s.setGroup g).eventNext = s.eventNext := rfl
@[simp] theorem State.setGroup_eventsLostSince (s : State) (g) : (s.setGroup g).eventsLostSince = s.eventsLostSince := rfl
@[simp] theorem State.setGroup_kept (s : State) (g) : (s.setGroup g).kept = s.kept := rfl
@[simp] theorem State.setGroup_xfers (s : State) (g) : (s.setGroup g).xfers = s.xfers := rfl
@[simp] theorem State.setGroup_xferNext (s : State) (g) : (s.setGroup g).xferNext = s.xferNext := rfl
@[simp] theorem State.setGroup_multi (s : State) (g) : (s.setGroup g).multi = s.multi := rfl
@[simp] theorem State.setGroup_heldWrites (s : State) (g) : (s.setGroup g).heldWrites = s.heldWrites := rfl
@[simp] theorem State.setGroup_net (s : State) (g) : (s.setGroup g).net = s.net := rfl
@[simp] theorem State.setGroup_power (s : State) (g) : (s.setGroup g).power = s.power := rfl
@[simp] theorem State.setGroup_boot (s : State) (g) : (s.setGroup g).boot = s.boot := rfl
@[simp] theorem State.setGroup_taps (s : State) (g) : (s.setGroup g).taps = s.taps := rfl
@[simp] theorem State.setGroup_errors (s : State) (g) : (s.setGroup g).errors = s.errors := rfl
@[simp] theorem State.setGroup_security (s : State) (g) : (s.setGroup g).security = s.security := rfl
@[simp] theorem State.setGroup_profiles (s : State) (g) : (s.setGroup g).profiles = s.profiles := rfl
@[simp] theorem State.setGroup_counters (s : State) (g) : (s.setGroup g).counters = s.counters := rfl
@[simp] theorem State.setGroup_auditFrozen (s : State) (g) : (s.setGroup g).auditFrozen = s.auditFrozen := rfl
@[simp] theorem State.setGroup_obj (s : State) (g) (u0) (u1) : (s.setGroup g).obj u0 u1 = s.obj u0 u1 := rfl
@[simp] theorem State.setGroup_tot (s : State) (g) (u0) (u1) : (s.setGroup g).tot u0 u1 = s.tot u0 u1 := rfl
@[simp] theorem State.setGroup_block (s : State) (g) (u0) : (s.setGroup g).block u0 = s.block u0 := rfl
@[simp] theorem State.setGroup_ctx (s : State) (g) (u0) (u1) : (s.setGroup g).ctx u0 u1 = s.ctx u0 u1 := rfl
@[simp] theorem State.setGroup_coreSt (s : State) (g) (u0) : (s.setGroup g).coreSt u0 = s.coreSt u0 := rfl
@[simp] theorem State.setGroup_slot (s : State) (g) (u0) : (s.setGroup g).slot u0 = s.slot u0 := rfl
@[simp] theorem State.setGroup_fport (s : State) (g) (u0) : (s.setGroup g).fport u0 = s.fport u0 := rfl
@[simp] theorem State.setGroup_keySlot (s : State) (g) (u0) : (s.setGroup g).keySlot u0 = s.keySlot u0 := rfl
@[simp] theorem State.setGroup_up (s : State) (g) : (s.setGroup g).up = s.up := rfl
@[simp] theorem State.setGroup_vigil (s : State) (g) : (s.setGroup g).vigil = s.vigil := rfl
@[simp] theorem State.setGroup_fabricOn (s : State) (g) : (s.setGroup g).fabricOn = s.fabricOn := rfl
@[simp] theorem State.setGroup_acc (s : State) (g) (u0) (u1) : (s.setGroup g).acc u0 u1 = s.acc u0 u1 := rfl
@[simp] theorem State.setGroup_positions (s : State) (g) (u0) : (s.setGroup g).positions u0 = s.positions u0 := rfl
@[simp] theorem State.setGroup_slotEn (s : State) (g) (u0) : (s.setGroup g).slotEn u0 = s.slotEn u0 := rfl

/-! ### setSlot -/

@[simp] theorem State.setSlot_part (s : State) (k) (v) : (s.setSlot k v).part = s.part := rfl
@[simp] theorem State.setSlot_pending (s : State) (k) (v) : (s.setSlot k v).pending = s.pending := rfl
@[simp] theorem State.setSlot_cores (s : State) (k) (v) : (s.setSlot k v).cores = s.cores := rfl
@[simp] theorem State.setSlot_ctxs (s : State) (k) (v) : (s.setSlot k v).ctxs = s.ctxs := rfl
@[simp] theorem State.setSlot_accs (s : State) (k) (v) : (s.setSlot k v).accs = s.accs := rfl
@[simp] theorem State.setSlot_srf (s : State) (k) (v) : (s.setSlot k v).srf = s.srf := rfl
@[simp] theorem State.setSlot_rescale (s : State) (k) (v) : (s.setSlot k v).rescale = s.rescale := rfl
@[simp] theorem State.setSlot_mem (s : State) (k) (v) : (s.setSlot k v).mem = s.mem := rfl
@[simp] theorem State.setSlot_unitKey (s : State) (k) (v) : (s.setSlot k v).unitKey = s.unitKey := rfl
@[simp] theorem State.setSlot_fills (s : State) (k) (v) : (s.setSlot k v).fills = s.fills := rfl
@[simp] theorem State.setSlot_coreUc (s : State) (k) (v) : (s.setSlot k v).coreUc = s.coreUc := rfl
@[simp] theorem State.setSlot_unitCode (s : State) (k) (v) : (s.setSlot k v).unitCode = s.unitCode := rfl
@[simp] theorem State.setSlot_scrubAt (s : State) (k) (v) : (s.setSlot k v).scrubAt = s.scrubAt := rfl
@[simp] theorem State.setSlot_mcErr (s : State) (k) (v) : (s.setSlot k v).mcErr = s.mcErr := rfl
@[simp] theorem State.setSlot_unspecCount (s : State) (k) (v) : (s.setSlot k v).unspecCount = s.unspecCount := rfl
@[simp] theorem State.setSlot_untrained (s : State) (k) (v) : (s.setSlot k v).untrained = s.untrained := rfl
@[simp] theorem State.setSlot_blocks (s : State) (k) (v) : (s.setSlot k v).blocks = s.blocks := rfl
@[simp] theorem State.setSlot_objs (s : State) (k) (v) : (s.setSlot k v).objs = s.objs := rfl
@[simp] theorem State.setSlot_octs (s : State) (k) (v) : (s.setSlot k v).octs = s.octs := rfl
@[simp] theorem State.setSlot_tots (s : State) (k) (v) : (s.setSlot k v).tots = s.tots := rfl
@[simp] theorem State.setSlot_group (s : State) (k) (v) : (s.setSlot k v).group = s.group := rfl
@[simp] theorem State.setSlot_noise (s : State) (k) (v) : (s.setSlot k v).noise = s.noise := rfl
@[simp] theorem State.setSlot_watch (s : State) (k) (v) : (s.setSlot k v).watch = s.watch := rfl
@[simp] theorem State.setSlot_watchNew (s : State) (k) (v) : (s.setSlot k v).watchNew = s.watchNew := rfl
@[simp] theorem State.setSlot_live (s : State) (k) (v) : (s.setSlot k v).live = s.live := rfl
@[simp] theorem State.setSlot_watchDue (s : State) (k) (v) : (s.setSlot k v).watchDue = s.watchDue := rfl
@[simp] theorem State.setSlot_fports (s : State) (k) (v) : (s.setSlot k v).fports = s.fports := rfl
@[simp] theorem State.setSlot_router (s : State) (k) (v) : (s.setSlot k v).router = s.router := rfl
@[simp] theorem State.setSlot_inbox (s : State) (k) (v) : (s.setSlot k v).inbox = s.inbox := rfl
@[simp] theorem State.setSlot_almanac (s : State) (k) (v) : (s.setSlot k v).almanac = s.almanac := rfl
@[simp] theorem State.setSlot_msgTable (s : State) (k) (v) : (s.setSlot k v).msgTable = s.msgTable := rfl
@[simp] theorem State.setSlot_sent (s : State) (k) (v) : (s.setSlot k v).sent = s.sent := rfl
@[simp] theorem State.setSlot_msgidNext (s : State) (k) (v) : (s.setSlot k v).msgidNext = s.msgidNext := rfl
@[simp] theorem State.setSlot_reshards (s : State) (k) (v) : (s.setSlot k v).reshards = s.reshards := rfl
@[simp] theorem State.setSlot_links (s : State) (k) (v) : (s.setSlot k v).links = s.links := rfl
@[simp] theorem State.setSlot_sessions (s : State) (k) (v) : (s.setSlot k v).sessions = s.sessions := rfl
@[simp] theorem State.setSlot_sessionNext (s : State) (k) (v) : (s.setSlot k v).sessionNext = s.sessionNext := rfl
@[simp] theorem State.setSlot_events (s : State) (k) (v) : (s.setSlot k v).events = s.events := rfl
@[simp] theorem State.setSlot_eventNext (s : State) (k) (v) : (s.setSlot k v).eventNext = s.eventNext := rfl
@[simp] theorem State.setSlot_eventsLostSince (s : State) (k) (v) : (s.setSlot k v).eventsLostSince = s.eventsLostSince := rfl
@[simp] theorem State.setSlot_kept (s : State) (k) (v) : (s.setSlot k v).kept = s.kept := rfl
@[simp] theorem State.setSlot_xfers (s : State) (k) (v) : (s.setSlot k v).xfers = s.xfers := rfl
@[simp] theorem State.setSlot_xferNext (s : State) (k) (v) : (s.setSlot k v).xferNext = s.xferNext := rfl
@[simp] theorem State.setSlot_multi (s : State) (k) (v) : (s.setSlot k v).multi = s.multi := rfl
@[simp] theorem State.setSlot_heldWrites (s : State) (k) (v) : (s.setSlot k v).heldWrites = s.heldWrites := rfl
@[simp] theorem State.setSlot_net (s : State) (k) (v) : (s.setSlot k v).net = s.net := rfl
@[simp] theorem State.setSlot_power (s : State) (k) (v) : (s.setSlot k v).power = s.power := rfl
@[simp] theorem State.setSlot_boot (s : State) (k) (v) : (s.setSlot k v).boot = s.boot := rfl
@[simp] theorem State.setSlot_taps (s : State) (k) (v) : (s.setSlot k v).taps = s.taps := rfl
@[simp] theorem State.setSlot_errors (s : State) (k) (v) : (s.setSlot k v).errors = s.errors := rfl
@[simp] theorem State.setSlot_security (s : State) (k) (v) : (s.setSlot k v).security = s.security := rfl
@[simp] theorem State.setSlot_profiles (s : State) (k) (v) : (s.setSlot k v).profiles = s.profiles := rfl
@[simp] theorem State.setSlot_counters (s : State) (k) (v) : (s.setSlot k v).counters = s.counters := rfl
@[simp] theorem State.setSlot_auditFrozen (s : State) (k) (v) : (s.setSlot k v).auditFrozen = s.auditFrozen := rfl
@[simp] theorem State.setSlot_obj (s : State) (k) (v) (u0) (u1) : (s.setSlot k v).obj u0 u1 = s.obj u0 u1 := rfl
@[simp] theorem State.setSlot_tot (s : State) (k) (v) (u0) (u1) : (s.setSlot k v).tot u0 u1 = s.tot u0 u1 := rfl
@[simp] theorem State.setSlot_block (s : State) (k) (v) (u0) : (s.setSlot k v).block u0 = s.block u0 := rfl
@[simp] theorem State.setSlot_ctx (s : State) (k) (v) (u0) (u1) : (s.setSlot k v).ctx u0 u1 = s.ctx u0 u1 := rfl
@[simp] theorem State.setSlot_coreSt (s : State) (k) (v) (u0) : (s.setSlot k v).coreSt u0 = s.coreSt u0 := rfl
@[simp] theorem State.setSlot_fport (s : State) (k) (v) (u0) : (s.setSlot k v).fport u0 = s.fport u0 := rfl
@[simp] theorem State.setSlot_keySlot (s : State) (k) (v) (u0) : (s.setSlot k v).keySlot u0 = s.keySlot u0 := rfl
@[simp] theorem State.setSlot_up (s : State) (k) (v) : (s.setSlot k v).up = s.up := rfl
@[simp] theorem State.setSlot_vigil (s : State) (k) (v) : (s.setSlot k v).vigil = s.vigil := rfl
@[simp] theorem State.setSlot_fabricOn (s : State) (k) (v) : (s.setSlot k v).fabricOn = s.fabricOn := rfl
@[simp] theorem State.setSlot_acc (s : State) (k) (v) (u0) (u1) : (s.setSlot k v).acc u0 u1 = s.acc u0 u1 := rfl
@[simp] theorem State.setSlot_positions (s : State) (k) (v) (u0) : (s.setSlot k v).positions u0 = s.positions u0 := rfl
@[simp] theorem State.setSlot_slotEn (s : State) (k) (v) (u0) : (s.setSlot k v).slotEn u0 = s.slotEn u0 := rfl

/-! ### setPower -/

@[simp] theorem State.setPower_part (s : State) (g) : (s.setPower g).part = s.part := rfl
@[simp] theorem State.setPower_pending (s : State) (g) : (s.setPower g).pending = s.pending := rfl
@[simp] theorem State.setPower_cores (s : State) (g) : (s.setPower g).cores = s.cores := rfl
@[simp] theorem State.setPower_ctxs (s : State) (g) : (s.setPower g).ctxs = s.ctxs := rfl
@[simp] theorem State.setPower_accs (s : State) (g) : (s.setPower g).accs = s.accs := rfl
@[simp] theorem State.setPower_srf (s : State) (g) : (s.setPower g).srf = s.srf := rfl
@[simp] theorem State.setPower_rescale (s : State) (g) : (s.setPower g).rescale = s.rescale := rfl
@[simp] theorem State.setPower_mem (s : State) (g) : (s.setPower g).mem = s.mem := rfl
@[simp] theorem State.setPower_unitKey (s : State) (g) : (s.setPower g).unitKey = s.unitKey := rfl
@[simp] theorem State.setPower_fills (s : State) (g) : (s.setPower g).fills = s.fills := rfl
@[simp] theorem State.setPower_coreUc (s : State) (g) : (s.setPower g).coreUc = s.coreUc := rfl
@[simp] theorem State.setPower_unitCode (s : State) (g) : (s.setPower g).unitCode = s.unitCode := rfl
@[simp] theorem State.setPower_scrubAt (s : State) (g) : (s.setPower g).scrubAt = s.scrubAt := rfl
@[simp] theorem State.setPower_mcErr (s : State) (g) : (s.setPower g).mcErr = s.mcErr := rfl
@[simp] theorem State.setPower_unspecCount (s : State) (g) : (s.setPower g).unspecCount = s.unspecCount := rfl
@[simp] theorem State.setPower_untrained (s : State) (g) : (s.setPower g).untrained = s.untrained := rfl
@[simp] theorem State.setPower_blocks (s : State) (g) : (s.setPower g).blocks = s.blocks := rfl
@[simp] theorem State.setPower_objs (s : State) (g) : (s.setPower g).objs = s.objs := rfl
@[simp] theorem State.setPower_octs (s : State) (g) : (s.setPower g).octs = s.octs := rfl
@[simp] theorem State.setPower_tots (s : State) (g) : (s.setPower g).tots = s.tots := rfl
@[simp] theorem State.setPower_slots (s : State) (g) : (s.setPower g).slots = s.slots := rfl
@[simp] theorem State.setPower_group (s : State) (g) : (s.setPower g).group = s.group := rfl
@[simp] theorem State.setPower_noise (s : State) (g) : (s.setPower g).noise = s.noise := rfl
@[simp] theorem State.setPower_watch (s : State) (g) : (s.setPower g).watch = s.watch := rfl
@[simp] theorem State.setPower_watchNew (s : State) (g) : (s.setPower g).watchNew = s.watchNew := rfl
@[simp] theorem State.setPower_live (s : State) (g) : (s.setPower g).live = s.live := rfl
@[simp] theorem State.setPower_watchDue (s : State) (g) : (s.setPower g).watchDue = s.watchDue := rfl
@[simp] theorem State.setPower_fports (s : State) (g) : (s.setPower g).fports = s.fports := rfl
@[simp] theorem State.setPower_router (s : State) (g) : (s.setPower g).router = s.router := rfl
@[simp] theorem State.setPower_inbox (s : State) (g) : (s.setPower g).inbox = s.inbox := rfl
@[simp] theorem State.setPower_almanac (s : State) (g) : (s.setPower g).almanac = s.almanac := rfl
@[simp] theorem State.setPower_msgTable (s : State) (g) : (s.setPower g).msgTable = s.msgTable := rfl
@[simp] theorem State.setPower_sent (s : State) (g) : (s.setPower g).sent = s.sent := rfl
@[simp] theorem State.setPower_msgidNext (s : State) (g) : (s.setPower g).msgidNext = s.msgidNext := rfl
@[simp] theorem State.setPower_reshards (s : State) (g) : (s.setPower g).reshards = s.reshards := rfl
@[simp] theorem State.setPower_links (s : State) (g) : (s.setPower g).links = s.links := rfl
@[simp] theorem State.setPower_sessions (s : State) (g) : (s.setPower g).sessions = s.sessions := rfl
@[simp] theorem State.setPower_sessionNext (s : State) (g) : (s.setPower g).sessionNext = s.sessionNext := rfl
@[simp] theorem State.setPower_events (s : State) (g) : (s.setPower g).events = s.events := rfl
@[simp] theorem State.setPower_eventNext (s : State) (g) : (s.setPower g).eventNext = s.eventNext := rfl
@[simp] theorem State.setPower_eventsLostSince (s : State) (g) : (s.setPower g).eventsLostSince = s.eventsLostSince := rfl
@[simp] theorem State.setPower_kept (s : State) (g) : (s.setPower g).kept = s.kept := rfl
@[simp] theorem State.setPower_xfers (s : State) (g) : (s.setPower g).xfers = s.xfers := rfl
@[simp] theorem State.setPower_xferNext (s : State) (g) : (s.setPower g).xferNext = s.xferNext := rfl
@[simp] theorem State.setPower_multi (s : State) (g) : (s.setPower g).multi = s.multi := rfl
@[simp] theorem State.setPower_heldWrites (s : State) (g) : (s.setPower g).heldWrites = s.heldWrites := rfl
@[simp] theorem State.setPower_net (s : State) (g) : (s.setPower g).net = s.net := rfl
@[simp] theorem State.setPower_boot (s : State) (g) : (s.setPower g).boot = s.boot := rfl
@[simp] theorem State.setPower_taps (s : State) (g) : (s.setPower g).taps = s.taps := rfl
@[simp] theorem State.setPower_errors (s : State) (g) : (s.setPower g).errors = s.errors := rfl
@[simp] theorem State.setPower_security (s : State) (g) : (s.setPower g).security = s.security := rfl
@[simp] theorem State.setPower_profiles (s : State) (g) : (s.setPower g).profiles = s.profiles := rfl
@[simp] theorem State.setPower_counters (s : State) (g) : (s.setPower g).counters = s.counters := rfl
@[simp] theorem State.setPower_auditFrozen (s : State) (g) : (s.setPower g).auditFrozen = s.auditFrozen := rfl
@[simp] theorem State.setPower_obj (s : State) (g) (u0) (u1) : (s.setPower g).obj u0 u1 = s.obj u0 u1 := rfl
@[simp] theorem State.setPower_tot (s : State) (g) (u0) (u1) : (s.setPower g).tot u0 u1 = s.tot u0 u1 := rfl
@[simp] theorem State.setPower_block (s : State) (g) (u0) : (s.setPower g).block u0 = s.block u0 := rfl
@[simp] theorem State.setPower_ctx (s : State) (g) (u0) (u1) : (s.setPower g).ctx u0 u1 = s.ctx u0 u1 := rfl
@[simp] theorem State.setPower_coreSt (s : State) (g) (u0) : (s.setPower g).coreSt u0 = s.coreSt u0 := rfl
@[simp] theorem State.setPower_slot (s : State) (g) (u0) : (s.setPower g).slot u0 = s.slot u0 := rfl
@[simp] theorem State.setPower_fport (s : State) (g) (u0) : (s.setPower g).fport u0 = s.fport u0 := rfl
@[simp] theorem State.setPower_keySlot (s : State) (g) (u0) : (s.setPower g).keySlot u0 = s.keySlot u0 := rfl
@[simp] theorem State.setPower_up (s : State) (g) : (s.setPower g).up = s.up := rfl
@[simp] theorem State.setPower_vigil (s : State) (g) : (s.setPower g).vigil = s.vigil := rfl
@[simp] theorem State.setPower_fabricOn (s : State) (g) : (s.setPower g).fabricOn = s.fabricOn := rfl
@[simp] theorem State.setPower_acc (s : State) (g) (u0) (u1) : (s.setPower g).acc u0 u1 = s.acc u0 u1 := rfl
@[simp] theorem State.setPower_positions (s : State) (g) (u0) : (s.setPower g).positions u0 = s.positions u0 := rfl
@[simp] theorem State.setPower_slotEn (s : State) (g) (u0) : (s.setPower g).slotEn u0 = s.slotEn u0 := rfl

/-! ### setCtx -/

@[simp] theorem State.setCtx_part (s : State) (n) (x) (c) : (s.setCtx n x c).part = s.part := rfl
@[simp] theorem State.setCtx_pending (s : State) (n) (x) (c) : (s.setCtx n x c).pending = s.pending := rfl
@[simp] theorem State.setCtx_cores (s : State) (n) (x) (c) : (s.setCtx n x c).cores = s.cores := rfl
@[simp] theorem State.setCtx_accs (s : State) (n) (x) (c) : (s.setCtx n x c).accs = s.accs := rfl
@[simp] theorem State.setCtx_srf (s : State) (n) (x) (c) : (s.setCtx n x c).srf = s.srf := rfl
@[simp] theorem State.setCtx_rescale (s : State) (n) (x) (c) : (s.setCtx n x c).rescale = s.rescale := rfl
@[simp] theorem State.setCtx_mem (s : State) (n) (x) (c) : (s.setCtx n x c).mem = s.mem := rfl
@[simp] theorem State.setCtx_unitKey (s : State) (n) (x) (c) : (s.setCtx n x c).unitKey = s.unitKey := rfl
@[simp] theorem State.setCtx_fills (s : State) (n) (x) (c) : (s.setCtx n x c).fills = s.fills := rfl
@[simp] theorem State.setCtx_coreUc (s : State) (n) (x) (c) : (s.setCtx n x c).coreUc = s.coreUc := rfl
@[simp] theorem State.setCtx_unitCode (s : State) (n) (x) (c) : (s.setCtx n x c).unitCode = s.unitCode := rfl
@[simp] theorem State.setCtx_scrubAt (s : State) (n) (x) (c) : (s.setCtx n x c).scrubAt = s.scrubAt := rfl
@[simp] theorem State.setCtx_mcErr (s : State) (n) (x) (c) : (s.setCtx n x c).mcErr = s.mcErr := rfl
@[simp] theorem State.setCtx_unspecCount (s : State) (n) (x) (c) : (s.setCtx n x c).unspecCount = s.unspecCount := rfl
@[simp] theorem State.setCtx_untrained (s : State) (n) (x) (c) : (s.setCtx n x c).untrained = s.untrained := rfl
@[simp] theorem State.setCtx_blocks (s : State) (n) (x) (c) : (s.setCtx n x c).blocks = s.blocks := rfl
@[simp] theorem State.setCtx_objs (s : State) (n) (x) (c) : (s.setCtx n x c).objs = s.objs := rfl
@[simp] theorem State.setCtx_octs (s : State) (n) (x) (c) : (s.setCtx n x c).octs = s.octs := rfl
@[simp] theorem State.setCtx_tots (s : State) (n) (x) (c) : (s.setCtx n x c).tots = s.tots := rfl
@[simp] theorem State.setCtx_slots (s : State) (n) (x) (c) : (s.setCtx n x c).slots = s.slots := rfl
@[simp] theorem State.setCtx_group (s : State) (n) (x) (c) : (s.setCtx n x c).group = s.group := rfl
@[simp] theorem State.setCtx_noise (s : State) (n) (x) (c) : (s.setCtx n x c).noise = s.noise := rfl
@[simp] theorem State.setCtx_watch (s : State) (n) (x) (c) : (s.setCtx n x c).watch = s.watch := rfl
@[simp] theorem State.setCtx_watchNew (s : State) (n) (x) (c) : (s.setCtx n x c).watchNew = s.watchNew := rfl
@[simp] theorem State.setCtx_live (s : State) (n) (x) (c) : (s.setCtx n x c).live = s.live := rfl
@[simp] theorem State.setCtx_watchDue (s : State) (n) (x) (c) : (s.setCtx n x c).watchDue = s.watchDue := rfl
@[simp] theorem State.setCtx_fports (s : State) (n) (x) (c) : (s.setCtx n x c).fports = s.fports := rfl
@[simp] theorem State.setCtx_router (s : State) (n) (x) (c) : (s.setCtx n x c).router = s.router := rfl
@[simp] theorem State.setCtx_inbox (s : State) (n) (x) (c) : (s.setCtx n x c).inbox = s.inbox := rfl
@[simp] theorem State.setCtx_almanac (s : State) (n) (x) (c) : (s.setCtx n x c).almanac = s.almanac := rfl
@[simp] theorem State.setCtx_msgTable (s : State) (n) (x) (c) : (s.setCtx n x c).msgTable = s.msgTable := rfl
@[simp] theorem State.setCtx_sent (s : State) (n) (x) (c) : (s.setCtx n x c).sent = s.sent := rfl
@[simp] theorem State.setCtx_msgidNext (s : State) (n) (x) (c) : (s.setCtx n x c).msgidNext = s.msgidNext := rfl
@[simp] theorem State.setCtx_reshards (s : State) (n) (x) (c) : (s.setCtx n x c).reshards = s.reshards := rfl
@[simp] theorem State.setCtx_links (s : State) (n) (x) (c) : (s.setCtx n x c).links = s.links := rfl
@[simp] theorem State.setCtx_sessions (s : State) (n) (x) (c) : (s.setCtx n x c).sessions = s.sessions := rfl
@[simp] theorem State.setCtx_sessionNext (s : State) (n) (x) (c) : (s.setCtx n x c).sessionNext = s.sessionNext := rfl
@[simp] theorem State.setCtx_events (s : State) (n) (x) (c) : (s.setCtx n x c).events = s.events := rfl
@[simp] theorem State.setCtx_eventNext (s : State) (n) (x) (c) : (s.setCtx n x c).eventNext = s.eventNext := rfl
@[simp] theorem State.setCtx_eventsLostSince (s : State) (n) (x) (c) : (s.setCtx n x c).eventsLostSince = s.eventsLostSince := rfl
@[simp] theorem State.setCtx_kept (s : State) (n) (x) (c) : (s.setCtx n x c).kept = s.kept := rfl
@[simp] theorem State.setCtx_xfers (s : State) (n) (x) (c) : (s.setCtx n x c).xfers = s.xfers := rfl
@[simp] theorem State.setCtx_xferNext (s : State) (n) (x) (c) : (s.setCtx n x c).xferNext = s.xferNext := rfl
@[simp] theorem State.setCtx_multi (s : State) (n) (x) (c) : (s.setCtx n x c).multi = s.multi := rfl
@[simp] theorem State.setCtx_heldWrites (s : State) (n) (x) (c) : (s.setCtx n x c).heldWrites = s.heldWrites := rfl
@[simp] theorem State.setCtx_net (s : State) (n) (x) (c) : (s.setCtx n x c).net = s.net := rfl
@[simp] theorem State.setCtx_power (s : State) (n) (x) (c) : (s.setCtx n x c).power = s.power := rfl
@[simp] theorem State.setCtx_boot (s : State) (n) (x) (c) : (s.setCtx n x c).boot = s.boot := rfl
@[simp] theorem State.setCtx_taps (s : State) (n) (x) (c) : (s.setCtx n x c).taps = s.taps := rfl
@[simp] theorem State.setCtx_errors (s : State) (n) (x) (c) : (s.setCtx n x c).errors = s.errors := rfl
@[simp] theorem State.setCtx_security (s : State) (n) (x) (c) : (s.setCtx n x c).security = s.security := rfl
@[simp] theorem State.setCtx_profiles (s : State) (n) (x) (c) : (s.setCtx n x c).profiles = s.profiles := rfl
@[simp] theorem State.setCtx_counters (s : State) (n) (x) (c) : (s.setCtx n x c).counters = s.counters := rfl
@[simp] theorem State.setCtx_auditFrozen (s : State) (n) (x) (c) : (s.setCtx n x c).auditFrozen = s.auditFrozen := rfl
@[simp] theorem State.setCtx_obj (s : State) (n) (x) (c) (u0) (u1) : (s.setCtx n x c).obj u0 u1 = s.obj u0 u1 := rfl
@[simp] theorem State.setCtx_tot (s : State) (n) (x) (c) (u0) (u1) : (s.setCtx n x c).tot u0 u1 = s.tot u0 u1 := rfl
@[simp] theorem State.setCtx_block (s : State) (n) (x) (c) (u0) : (s.setCtx n x c).block u0 = s.block u0 := rfl
@[simp] theorem State.setCtx_coreSt (s : State) (n) (x) (c) (u0) : (s.setCtx n x c).coreSt u0 = s.coreSt u0 := rfl
@[simp] theorem State.setCtx_slot (s : State) (n) (x) (c) (u0) : (s.setCtx n x c).slot u0 = s.slot u0 := rfl
@[simp] theorem State.setCtx_fport (s : State) (n) (x) (c) (u0) : (s.setCtx n x c).fport u0 = s.fport u0 := rfl
@[simp] theorem State.setCtx_keySlot (s : State) (n) (x) (c) (u0) : (s.setCtx n x c).keySlot u0 = s.keySlot u0 := rfl
@[simp] theorem State.setCtx_up (s : State) (n) (x) (c) : (s.setCtx n x c).up = s.up := rfl
@[simp] theorem State.setCtx_vigil (s : State) (n) (x) (c) : (s.setCtx n x c).vigil = s.vigil := rfl
@[simp] theorem State.setCtx_fabricOn (s : State) (n) (x) (c) : (s.setCtx n x c).fabricOn = s.fabricOn := rfl
@[simp] theorem State.setCtx_acc (s : State) (n) (x) (c) (u0) (u1) : (s.setCtx n x c).acc u0 u1 = s.acc u0 u1 := rfl
@[simp] theorem State.setCtx_positions (s : State) (n) (x) (c) (u0) : (s.setCtx n x c).positions u0 = s.positions u0 := rfl
@[simp] theorem State.setCtx_slotEn (s : State) (n) (x) (c) (u0) : (s.setCtx n x c).slotEn u0 = s.slotEn u0 := rfl

/-! ### setSent -/

@[simp] theorem State.setSent_part (s : State) (m) : (s.setSent m).part = s.part := rfl
@[simp] theorem State.setSent_pending (s : State) (m) : (s.setSent m).pending = s.pending := rfl
@[simp] theorem State.setSent_cores (s : State) (m) : (s.setSent m).cores = s.cores := rfl
@[simp] theorem State.setSent_ctxs (s : State) (m) : (s.setSent m).ctxs = s.ctxs := rfl
@[simp] theorem State.setSent_accs (s : State) (m) : (s.setSent m).accs = s.accs := rfl
@[simp] theorem State.setSent_srf (s : State) (m) : (s.setSent m).srf = s.srf := rfl
@[simp] theorem State.setSent_rescale (s : State) (m) : (s.setSent m).rescale = s.rescale := rfl
@[simp] theorem State.setSent_mem (s : State) (m) : (s.setSent m).mem = s.mem := rfl
@[simp] theorem State.setSent_unitKey (s : State) (m) : (s.setSent m).unitKey = s.unitKey := rfl
@[simp] theorem State.setSent_fills (s : State) (m) : (s.setSent m).fills = s.fills := rfl
@[simp] theorem State.setSent_coreUc (s : State) (m) : (s.setSent m).coreUc = s.coreUc := rfl
@[simp] theorem State.setSent_unitCode (s : State) (m) : (s.setSent m).unitCode = s.unitCode := rfl
@[simp] theorem State.setSent_scrubAt (s : State) (m) : (s.setSent m).scrubAt = s.scrubAt := rfl
@[simp] theorem State.setSent_mcErr (s : State) (m) : (s.setSent m).mcErr = s.mcErr := rfl
@[simp] theorem State.setSent_unspecCount (s : State) (m) : (s.setSent m).unspecCount = s.unspecCount := rfl
@[simp] theorem State.setSent_untrained (s : State) (m) : (s.setSent m).untrained = s.untrained := rfl
@[simp] theorem State.setSent_blocks (s : State) (m) : (s.setSent m).blocks = s.blocks := rfl
@[simp] theorem State.setSent_objs (s : State) (m) : (s.setSent m).objs = s.objs := rfl
@[simp] theorem State.setSent_octs (s : State) (m) : (s.setSent m).octs = s.octs := rfl
@[simp] theorem State.setSent_tots (s : State) (m) : (s.setSent m).tots = s.tots := rfl
@[simp] theorem State.setSent_slots (s : State) (m) : (s.setSent m).slots = s.slots := rfl
@[simp] theorem State.setSent_group (s : State) (m) : (s.setSent m).group = s.group := rfl
@[simp] theorem State.setSent_noise (s : State) (m) : (s.setSent m).noise = s.noise := rfl
@[simp] theorem State.setSent_watch (s : State) (m) : (s.setSent m).watch = s.watch := rfl
@[simp] theorem State.setSent_watchNew (s : State) (m) : (s.setSent m).watchNew = s.watchNew := rfl
@[simp] theorem State.setSent_live (s : State) (m) : (s.setSent m).live = s.live := rfl
@[simp] theorem State.setSent_watchDue (s : State) (m) : (s.setSent m).watchDue = s.watchDue := rfl
@[simp] theorem State.setSent_fports (s : State) (m) : (s.setSent m).fports = s.fports := rfl
@[simp] theorem State.setSent_router (s : State) (m) : (s.setSent m).router = s.router := rfl
@[simp] theorem State.setSent_inbox (s : State) (m) : (s.setSent m).inbox = s.inbox := rfl
@[simp] theorem State.setSent_almanac (s : State) (m) : (s.setSent m).almanac = s.almanac := rfl
@[simp] theorem State.setSent_msgTable (s : State) (m) : (s.setSent m).msgTable = s.msgTable := rfl
@[simp] theorem State.setSent_msgidNext (s : State) (m) : (s.setSent m).msgidNext = s.msgidNext := rfl
@[simp] theorem State.setSent_reshards (s : State) (m) : (s.setSent m).reshards = s.reshards := rfl
@[simp] theorem State.setSent_links (s : State) (m) : (s.setSent m).links = s.links := rfl
@[simp] theorem State.setSent_sessions (s : State) (m) : (s.setSent m).sessions = s.sessions := rfl
@[simp] theorem State.setSent_sessionNext (s : State) (m) : (s.setSent m).sessionNext = s.sessionNext := rfl
@[simp] theorem State.setSent_events (s : State) (m) : (s.setSent m).events = s.events := rfl
@[simp] theorem State.setSent_eventNext (s : State) (m) : (s.setSent m).eventNext = s.eventNext := rfl
@[simp] theorem State.setSent_eventsLostSince (s : State) (m) : (s.setSent m).eventsLostSince = s.eventsLostSince := rfl
@[simp] theorem State.setSent_kept (s : State) (m) : (s.setSent m).kept = s.kept := rfl
@[simp] theorem State.setSent_xfers (s : State) (m) : (s.setSent m).xfers = s.xfers := rfl
@[simp] theorem State.setSent_xferNext (s : State) (m) : (s.setSent m).xferNext = s.xferNext := rfl
@[simp] theorem State.setSent_multi (s : State) (m) : (s.setSent m).multi = s.multi := rfl
@[simp] theorem State.setSent_heldWrites (s : State) (m) : (s.setSent m).heldWrites = s.heldWrites := rfl
@[simp] theorem State.setSent_net (s : State) (m) : (s.setSent m).net = s.net := rfl
@[simp] theorem State.setSent_power (s : State) (m) : (s.setSent m).power = s.power := rfl
@[simp] theorem State.setSent_boot (s : State) (m) : (s.setSent m).boot = s.boot := rfl
@[simp] theorem State.setSent_taps (s : State) (m) : (s.setSent m).taps = s.taps := rfl
@[simp] theorem State.setSent_errors (s : State) (m) : (s.setSent m).errors = s.errors := rfl
@[simp] theorem State.setSent_security (s : State) (m) : (s.setSent m).security = s.security := rfl
@[simp] theorem State.setSent_profiles (s : State) (m) : (s.setSent m).profiles = s.profiles := rfl
@[simp] theorem State.setSent_counters (s : State) (m) : (s.setSent m).counters = s.counters := rfl
@[simp] theorem State.setSent_auditFrozen (s : State) (m) : (s.setSent m).auditFrozen = s.auditFrozen := rfl
@[simp] theorem State.setSent_obj (s : State) (m) (u0) (u1) : (s.setSent m).obj u0 u1 = s.obj u0 u1 := rfl
@[simp] theorem State.setSent_tot (s : State) (m) (u0) (u1) : (s.setSent m).tot u0 u1 = s.tot u0 u1 := rfl
@[simp] theorem State.setSent_block (s : State) (m) (u0) : (s.setSent m).block u0 = s.block u0 := rfl
@[simp] theorem State.setSent_ctx (s : State) (m) (u0) (u1) : (s.setSent m).ctx u0 u1 = s.ctx u0 u1 := rfl
@[simp] theorem State.setSent_coreSt (s : State) (m) (u0) : (s.setSent m).coreSt u0 = s.coreSt u0 := rfl
@[simp] theorem State.setSent_slot (s : State) (m) (u0) : (s.setSent m).slot u0 = s.slot u0 := rfl
@[simp] theorem State.setSent_fport (s : State) (m) (u0) : (s.setSent m).fport u0 = s.fport u0 := rfl
@[simp] theorem State.setSent_keySlot (s : State) (m) (u0) : (s.setSent m).keySlot u0 = s.keySlot u0 := rfl
@[simp] theorem State.setSent_up (s : State) (m) : (s.setSent m).up = s.up := rfl
@[simp] theorem State.setSent_vigil (s : State) (m) : (s.setSent m).vigil = s.vigil := rfl
@[simp] theorem State.setSent_fabricOn (s : State) (m) : (s.setSent m).fabricOn = s.fabricOn := rfl
@[simp] theorem State.setSent_acc (s : State) (m) (u0) (u1) : (s.setSent m).acc u0 u1 = s.acc u0 u1 := rfl
@[simp] theorem State.setSent_positions (s : State) (m) (u0) : (s.setSent m).positions u0 = s.positions u0 := rfl
@[simp] theorem State.setSent_slotEn (s : State) (m) (u0) : (s.setSent m).slotEn u0 = s.slotEn u0 := rfl

/-! ### setCond -/

@[simp] theorem State.setCond_part (s : State) (u) (c) : (s.setCond u c).part = s.part := rfl
@[simp] theorem State.setCond_pending (s : State) (u) (c) : (s.setCond u c).pending = s.pending := rfl
@[simp] theorem State.setCond_cores (s : State) (u) (c) : (s.setCond u c).cores = s.cores := rfl
@[simp] theorem State.setCond_ctxs (s : State) (u) (c) : (s.setCond u c).ctxs = s.ctxs := rfl
@[simp] theorem State.setCond_accs (s : State) (u) (c) : (s.setCond u c).accs = s.accs := rfl
@[simp] theorem State.setCond_srf (s : State) (u) (c) : (s.setCond u c).srf = s.srf := rfl
@[simp] theorem State.setCond_rescale (s : State) (u) (c) : (s.setCond u c).rescale = s.rescale := rfl
@[simp] theorem State.setCond_mem (s : State) (u) (c) : (s.setCond u c).mem = s.mem := rfl
@[simp] theorem State.setCond_unitKey (s : State) (u) (c) : (s.setCond u c).unitKey = s.unitKey := rfl
@[simp] theorem State.setCond_fills (s : State) (u) (c) : (s.setCond u c).fills = s.fills := rfl
@[simp] theorem State.setCond_coreUc (s : State) (u) (c) : (s.setCond u c).coreUc = s.coreUc := rfl
@[simp] theorem State.setCond_scrubAt (s : State) (u) (c) : (s.setCond u c).scrubAt = s.scrubAt := rfl
@[simp] theorem State.setCond_mcErr (s : State) (u) (c) : (s.setCond u c).mcErr = s.mcErr := rfl
@[simp] theorem State.setCond_unspecCount (s : State) (u) (c) : (s.setCond u c).unspecCount = s.unspecCount := rfl
@[simp] theorem State.setCond_untrained (s : State) (u) (c) : (s.setCond u c).untrained = s.untrained := rfl
@[simp] theorem State.setCond_blocks (s : State) (u) (c) : (s.setCond u c).blocks = s.blocks := rfl
@[simp] theorem State.setCond_objs (s : State) (u) (c) : (s.setCond u c).objs = s.objs := rfl
@[simp] theorem State.setCond_octs (s : State) (u) (c) : (s.setCond u c).octs = s.octs := rfl
@[simp] theorem State.setCond_tots (s : State) (u) (c) : (s.setCond u c).tots = s.tots := rfl
@[simp] theorem State.setCond_slots (s : State) (u) (c) : (s.setCond u c).slots = s.slots := rfl
@[simp] theorem State.setCond_group (s : State) (u) (c) : (s.setCond u c).group = s.group := rfl
@[simp] theorem State.setCond_noise (s : State) (u) (c) : (s.setCond u c).noise = s.noise := rfl
@[simp] theorem State.setCond_watch (s : State) (u) (c) : (s.setCond u c).watch = s.watch := rfl
@[simp] theorem State.setCond_watchNew (s : State) (u) (c) : (s.setCond u c).watchNew = s.watchNew := rfl
@[simp] theorem State.setCond_live (s : State) (u) (c) : (s.setCond u c).live = s.live := rfl
@[simp] theorem State.setCond_watchDue (s : State) (u) (c) : (s.setCond u c).watchDue = s.watchDue := rfl
@[simp] theorem State.setCond_fports (s : State) (u) (c) : (s.setCond u c).fports = s.fports := rfl
@[simp] theorem State.setCond_router (s : State) (u) (c) : (s.setCond u c).router = s.router := rfl
@[simp] theorem State.setCond_inbox (s : State) (u) (c) : (s.setCond u c).inbox = s.inbox := rfl
@[simp] theorem State.setCond_almanac (s : State) (u) (c) : (s.setCond u c).almanac = s.almanac := rfl
@[simp] theorem State.setCond_msgTable (s : State) (u) (c) : (s.setCond u c).msgTable = s.msgTable := rfl
@[simp] theorem State.setCond_sent (s : State) (u) (c) : (s.setCond u c).sent = s.sent := rfl
@[simp] theorem State.setCond_msgidNext (s : State) (u) (c) : (s.setCond u c).msgidNext = s.msgidNext := rfl
@[simp] theorem State.setCond_reshards (s : State) (u) (c) : (s.setCond u c).reshards = s.reshards := rfl
@[simp] theorem State.setCond_links (s : State) (u) (c) : (s.setCond u c).links = s.links := rfl
@[simp] theorem State.setCond_sessions (s : State) (u) (c) : (s.setCond u c).sessions = s.sessions := rfl
@[simp] theorem State.setCond_sessionNext (s : State) (u) (c) : (s.setCond u c).sessionNext = s.sessionNext := rfl
@[simp] theorem State.setCond_events (s : State) (u) (c) : (s.setCond u c).events = s.events := rfl
@[simp] theorem State.setCond_eventNext (s : State) (u) (c) : (s.setCond u c).eventNext = s.eventNext := rfl
@[simp] theorem State.setCond_eventsLostSince (s : State) (u) (c) : (s.setCond u c).eventsLostSince = s.eventsLostSince := rfl
@[simp] theorem State.setCond_kept (s : State) (u) (c) : (s.setCond u c).kept = s.kept := rfl
@[simp] theorem State.setCond_xfers (s : State) (u) (c) : (s.setCond u c).xfers = s.xfers := rfl
@[simp] theorem State.setCond_xferNext (s : State) (u) (c) : (s.setCond u c).xferNext = s.xferNext := rfl
@[simp] theorem State.setCond_multi (s : State) (u) (c) : (s.setCond u c).multi = s.multi := rfl
@[simp] theorem State.setCond_heldWrites (s : State) (u) (c) : (s.setCond u c).heldWrites = s.heldWrites := rfl
@[simp] theorem State.setCond_net (s : State) (u) (c) : (s.setCond u c).net = s.net := rfl
@[simp] theorem State.setCond_power (s : State) (u) (c) : (s.setCond u c).power = s.power := rfl
@[simp] theorem State.setCond_boot (s : State) (u) (c) : (s.setCond u c).boot = s.boot := rfl
@[simp] theorem State.setCond_taps (s : State) (u) (c) : (s.setCond u c).taps = s.taps := rfl
@[simp] theorem State.setCond_errors (s : State) (u) (c) : (s.setCond u c).errors = s.errors := rfl
@[simp] theorem State.setCond_security (s : State) (u) (c) : (s.setCond u c).security = s.security := rfl
@[simp] theorem State.setCond_profiles (s : State) (u) (c) : (s.setCond u c).profiles = s.profiles := rfl
@[simp] theorem State.setCond_counters (s : State) (u) (c) : (s.setCond u c).counters = s.counters := rfl
@[simp] theorem State.setCond_auditFrozen (s : State) (u) (c) : (s.setCond u c).auditFrozen = s.auditFrozen := rfl
@[simp] theorem State.setCond_obj (s : State) (u) (c) (u0) (u1) : (s.setCond u c).obj u0 u1 = s.obj u0 u1 := rfl
@[simp] theorem State.setCond_tot (s : State) (u) (c) (u0) (u1) : (s.setCond u c).tot u0 u1 = s.tot u0 u1 := rfl
@[simp] theorem State.setCond_block (s : State) (u) (c) (u0) : (s.setCond u c).block u0 = s.block u0 := rfl
@[simp] theorem State.setCond_ctx (s : State) (u) (c) (u0) (u1) : (s.setCond u c).ctx u0 u1 = s.ctx u0 u1 := rfl
@[simp] theorem State.setCond_coreSt (s : State) (u) (c) (u0) : (s.setCond u c).coreSt u0 = s.coreSt u0 := rfl
@[simp] theorem State.setCond_slot (s : State) (u) (c) (u0) : (s.setCond u c).slot u0 = s.slot u0 := rfl
@[simp] theorem State.setCond_fport (s : State) (u) (c) (u0) : (s.setCond u c).fport u0 = s.fport u0 := rfl
@[simp] theorem State.setCond_keySlot (s : State) (u) (c) (u0) : (s.setCond u c).keySlot u0 = s.keySlot u0 := rfl
@[simp] theorem State.setCond_up (s : State) (u) (c) : (s.setCond u c).up = s.up := rfl
@[simp] theorem State.setCond_vigil (s : State) (u) (c) : (s.setCond u c).vigil = s.vigil := rfl
@[simp] theorem State.setCond_fabricOn (s : State) (u) (c) : (s.setCond u c).fabricOn = s.fabricOn := rfl
@[simp] theorem State.setCond_acc (s : State) (u) (c) (u0) (u1) : (s.setCond u c).acc u0 u1 = s.acc u0 u1 := rfl
@[simp] theorem State.setCond_positions (s : State) (u) (c) (u0) : (s.setCond u c).positions u0 = s.positions u0 := rfl
@[simp] theorem State.setCond_slotEn (s : State) (u) (c) (u0) : (s.setCond u c).slotEn u0 = s.slotEn u0 := rfl

/-! ### rawWrite -/

@[simp] theorem State.rawWrite_part (s : State) (a) (bs) : (s.rawWrite a bs).part = s.part := rfl
@[simp] theorem State.rawWrite_pending (s : State) (a) (bs) : (s.rawWrite a bs).pending = s.pending := rfl
@[simp] theorem State.rawWrite_cores (s : State) (a) (bs) : (s.rawWrite a bs).cores = s.cores := rfl
@[simp] theorem State.rawWrite_ctxs (s : State) (a) (bs) : (s.rawWrite a bs).ctxs = s.ctxs := rfl
@[simp] theorem State.rawWrite_accs (s : State) (a) (bs) : (s.rawWrite a bs).accs = s.accs := rfl
@[simp] theorem State.rawWrite_srf (s : State) (a) (bs) : (s.rawWrite a bs).srf = s.srf := rfl
@[simp] theorem State.rawWrite_rescale (s : State) (a) (bs) : (s.rawWrite a bs).rescale = s.rescale := rfl
@[simp] theorem State.rawWrite_unitKey (s : State) (a) (bs) : (s.rawWrite a bs).unitKey = s.unitKey := rfl
@[simp] theorem State.rawWrite_fills (s : State) (a) (bs) : (s.rawWrite a bs).fills = s.fills := rfl
@[simp] theorem State.rawWrite_coreUc (s : State) (a) (bs) : (s.rawWrite a bs).coreUc = s.coreUc := rfl
@[simp] theorem State.rawWrite_unitCode (s : State) (a) (bs) : (s.rawWrite a bs).unitCode = s.unitCode := rfl
@[simp] theorem State.rawWrite_scrubAt (s : State) (a) (bs) : (s.rawWrite a bs).scrubAt = s.scrubAt := rfl
@[simp] theorem State.rawWrite_mcErr (s : State) (a) (bs) : (s.rawWrite a bs).mcErr = s.mcErr := rfl
@[simp] theorem State.rawWrite_unspecCount (s : State) (a) (bs) : (s.rawWrite a bs).unspecCount = s.unspecCount := rfl
@[simp] theorem State.rawWrite_untrained (s : State) (a) (bs) : (s.rawWrite a bs).untrained = s.untrained := rfl
@[simp] theorem State.rawWrite_blocks (s : State) (a) (bs) : (s.rawWrite a bs).blocks = s.blocks := rfl
@[simp] theorem State.rawWrite_objs (s : State) (a) (bs) : (s.rawWrite a bs).objs = s.objs := rfl
@[simp] theorem State.rawWrite_octs (s : State) (a) (bs) : (s.rawWrite a bs).octs = s.octs := rfl
@[simp] theorem State.rawWrite_tots (s : State) (a) (bs) : (s.rawWrite a bs).tots = s.tots := rfl
@[simp] theorem State.rawWrite_slots (s : State) (a) (bs) : (s.rawWrite a bs).slots = s.slots := rfl
@[simp] theorem State.rawWrite_group (s : State) (a) (bs) : (s.rawWrite a bs).group = s.group := rfl
@[simp] theorem State.rawWrite_noise (s : State) (a) (bs) : (s.rawWrite a bs).noise = s.noise := rfl
@[simp] theorem State.rawWrite_watch (s : State) (a) (bs) : (s.rawWrite a bs).watch = s.watch := rfl
@[simp] theorem State.rawWrite_watchNew (s : State) (a) (bs) : (s.rawWrite a bs).watchNew = s.watchNew := rfl
@[simp] theorem State.rawWrite_live (s : State) (a) (bs) : (s.rawWrite a bs).live = s.live := rfl
@[simp] theorem State.rawWrite_watchDue (s : State) (a) (bs) : (s.rawWrite a bs).watchDue = s.watchDue := rfl
@[simp] theorem State.rawWrite_fports (s : State) (a) (bs) : (s.rawWrite a bs).fports = s.fports := rfl
@[simp] theorem State.rawWrite_router (s : State) (a) (bs) : (s.rawWrite a bs).router = s.router := rfl
@[simp] theorem State.rawWrite_inbox (s : State) (a) (bs) : (s.rawWrite a bs).inbox = s.inbox := rfl
@[simp] theorem State.rawWrite_almanac (s : State) (a) (bs) : (s.rawWrite a bs).almanac = s.almanac := rfl
@[simp] theorem State.rawWrite_msgTable (s : State) (a) (bs) : (s.rawWrite a bs).msgTable = s.msgTable := rfl
@[simp] theorem State.rawWrite_sent (s : State) (a) (bs) : (s.rawWrite a bs).sent = s.sent := rfl
@[simp] theorem State.rawWrite_msgidNext (s : State) (a) (bs) : (s.rawWrite a bs).msgidNext = s.msgidNext := rfl
@[simp] theorem State.rawWrite_reshards (s : State) (a) (bs) : (s.rawWrite a bs).reshards = s.reshards := rfl
@[simp] theorem State.rawWrite_links (s : State) (a) (bs) : (s.rawWrite a bs).links = s.links := rfl
@[simp] theorem State.rawWrite_sessions (s : State) (a) (bs) : (s.rawWrite a bs).sessions = s.sessions := rfl
@[simp] theorem State.rawWrite_sessionNext (s : State) (a) (bs) : (s.rawWrite a bs).sessionNext = s.sessionNext := rfl
@[simp] theorem State.rawWrite_events (s : State) (a) (bs) : (s.rawWrite a bs).events = s.events := rfl
@[simp] theorem State.rawWrite_eventNext (s : State) (a) (bs) : (s.rawWrite a bs).eventNext = s.eventNext := rfl
@[simp] theorem State.rawWrite_eventsLostSince (s : State) (a) (bs) : (s.rawWrite a bs).eventsLostSince = s.eventsLostSince := rfl
@[simp] theorem State.rawWrite_kept (s : State) (a) (bs) : (s.rawWrite a bs).kept = s.kept := rfl
@[simp] theorem State.rawWrite_xfers (s : State) (a) (bs) : (s.rawWrite a bs).xfers = s.xfers := rfl
@[simp] theorem State.rawWrite_xferNext (s : State) (a) (bs) : (s.rawWrite a bs).xferNext = s.xferNext := rfl
@[simp] theorem State.rawWrite_multi (s : State) (a) (bs) : (s.rawWrite a bs).multi = s.multi := rfl
@[simp] theorem State.rawWrite_heldWrites (s : State) (a) (bs) : (s.rawWrite a bs).heldWrites = s.heldWrites := rfl
@[simp] theorem State.rawWrite_net (s : State) (a) (bs) : (s.rawWrite a bs).net = s.net := rfl
@[simp] theorem State.rawWrite_power (s : State) (a) (bs) : (s.rawWrite a bs).power = s.power := rfl
@[simp] theorem State.rawWrite_boot (s : State) (a) (bs) : (s.rawWrite a bs).boot = s.boot := rfl
@[simp] theorem State.rawWrite_taps (s : State) (a) (bs) : (s.rawWrite a bs).taps = s.taps := rfl
@[simp] theorem State.rawWrite_errors (s : State) (a) (bs) : (s.rawWrite a bs).errors = s.errors := rfl
@[simp] theorem State.rawWrite_security (s : State) (a) (bs) : (s.rawWrite a bs).security = s.security := rfl
@[simp] theorem State.rawWrite_profiles (s : State) (a) (bs) : (s.rawWrite a bs).profiles = s.profiles := rfl
@[simp] theorem State.rawWrite_counters (s : State) (a) (bs) : (s.rawWrite a bs).counters = s.counters := rfl
@[simp] theorem State.rawWrite_auditFrozen (s : State) (a) (bs) : (s.rawWrite a bs).auditFrozen = s.auditFrozen := rfl
@[simp] theorem State.rawWrite_obj (s : State) (a) (bs) (u0) (u1) : (s.rawWrite a bs).obj u0 u1 = s.obj u0 u1 := rfl
@[simp] theorem State.rawWrite_tot (s : State) (a) (bs) (u0) (u1) : (s.rawWrite a bs).tot u0 u1 = s.tot u0 u1 := rfl
@[simp] theorem State.rawWrite_block (s : State) (a) (bs) (u0) : (s.rawWrite a bs).block u0 = s.block u0 := rfl
@[simp] theorem State.rawWrite_ctx (s : State) (a) (bs) (u0) (u1) : (s.rawWrite a bs).ctx u0 u1 = s.ctx u0 u1 := rfl
@[simp] theorem State.rawWrite_coreSt (s : State) (a) (bs) (u0) : (s.rawWrite a bs).coreSt u0 = s.coreSt u0 := rfl
@[simp] theorem State.rawWrite_slot (s : State) (a) (bs) (u0) : (s.rawWrite a bs).slot u0 = s.slot u0 := rfl
@[simp] theorem State.rawWrite_fport (s : State) (a) (bs) (u0) : (s.rawWrite a bs).fport u0 = s.fport u0 := rfl
@[simp] theorem State.rawWrite_keySlot (s : State) (a) (bs) (u0) : (s.rawWrite a bs).keySlot u0 = s.keySlot u0 := rfl
@[simp] theorem State.rawWrite_up (s : State) (a) (bs) : (s.rawWrite a bs).up = s.up := rfl
@[simp] theorem State.rawWrite_vigil (s : State) (a) (bs) : (s.rawWrite a bs).vigil = s.vigil := rfl
@[simp] theorem State.rawWrite_fabricOn (s : State) (a) (bs) : (s.rawWrite a bs).fabricOn = s.fabricOn := rfl
@[simp] theorem State.rawWrite_acc (s : State) (a) (bs) (u0) (u1) : (s.rawWrite a bs).acc u0 u1 = s.acc u0 u1 := rfl
@[simp] theorem State.rawWrite_positions (s : State) (a) (bs) (u0) : (s.rawWrite a bs).positions u0 = s.positions u0 := rfl
@[simp] theorem State.rawWrite_slotEn (s : State) (a) (bs) (u0) : (s.rawWrite a bs).slotEn u0 = s.slotEn u0 := rfl

/-! ### setCoreSt -/

@[simp] theorem State.setCoreSt_part (s : State) (n) (c) : (s.setCoreSt n c).part = s.part := rfl
@[simp] theorem State.setCoreSt_pending (s : State) (n) (c) : (s.setCoreSt n c).pending = s.pending := rfl
@[simp] theorem State.setCoreSt_ctxs (s : State) (n) (c) : (s.setCoreSt n c).ctxs = s.ctxs := rfl
@[simp] theorem State.setCoreSt_accs (s : State) (n) (c) : (s.setCoreSt n c).accs = s.accs := rfl
@[simp] theorem State.setCoreSt_srf (s : State) (n) (c) : (s.setCoreSt n c).srf = s.srf := rfl
@[simp] theorem State.setCoreSt_rescale (s : State) (n) (c) : (s.setCoreSt n c).rescale = s.rescale := rfl
@[simp] theorem State.setCoreSt_mem (s : State) (n) (c) : (s.setCoreSt n c).mem = s.mem := rfl
@[simp] theorem State.setCoreSt_unitKey (s : State) (n) (c) : (s.setCoreSt n c).unitKey = s.unitKey := rfl
@[simp] theorem State.setCoreSt_fills (s : State) (n) (c) : (s.setCoreSt n c).fills = s.fills := rfl
@[simp] theorem State.setCoreSt_coreUc (s : State) (n) (c) : (s.setCoreSt n c).coreUc = s.coreUc := rfl
@[simp] theorem State.setCoreSt_unitCode (s : State) (n) (c) : (s.setCoreSt n c).unitCode = s.unitCode := rfl
@[simp] theorem State.setCoreSt_scrubAt (s : State) (n) (c) : (s.setCoreSt n c).scrubAt = s.scrubAt := rfl
@[simp] theorem State.setCoreSt_mcErr (s : State) (n) (c) : (s.setCoreSt n c).mcErr = s.mcErr := rfl
@[simp] theorem State.setCoreSt_unspecCount (s : State) (n) (c) : (s.setCoreSt n c).unspecCount = s.unspecCount := rfl
@[simp] theorem State.setCoreSt_untrained (s : State) (n) (c) : (s.setCoreSt n c).untrained = s.untrained := rfl
@[simp] theorem State.setCoreSt_blocks (s : State) (n) (c) : (s.setCoreSt n c).blocks = s.blocks := rfl
@[simp] theorem State.setCoreSt_objs (s : State) (n) (c) : (s.setCoreSt n c).objs = s.objs := rfl
@[simp] theorem State.setCoreSt_octs (s : State) (n) (c) : (s.setCoreSt n c).octs = s.octs := rfl
@[simp] theorem State.setCoreSt_tots (s : State) (n) (c) : (s.setCoreSt n c).tots = s.tots := rfl
@[simp] theorem State.setCoreSt_slots (s : State) (n) (c) : (s.setCoreSt n c).slots = s.slots := rfl
@[simp] theorem State.setCoreSt_group (s : State) (n) (c) : (s.setCoreSt n c).group = s.group := rfl
@[simp] theorem State.setCoreSt_noise (s : State) (n) (c) : (s.setCoreSt n c).noise = s.noise := rfl
@[simp] theorem State.setCoreSt_watch (s : State) (n) (c) : (s.setCoreSt n c).watch = s.watch := rfl
@[simp] theorem State.setCoreSt_watchNew (s : State) (n) (c) : (s.setCoreSt n c).watchNew = s.watchNew := rfl
@[simp] theorem State.setCoreSt_live (s : State) (n) (c) : (s.setCoreSt n c).live = s.live := rfl
@[simp] theorem State.setCoreSt_watchDue (s : State) (n) (c) : (s.setCoreSt n c).watchDue = s.watchDue := rfl
@[simp] theorem State.setCoreSt_fports (s : State) (n) (c) : (s.setCoreSt n c).fports = s.fports := rfl
@[simp] theorem State.setCoreSt_router (s : State) (n) (c) : (s.setCoreSt n c).router = s.router := rfl
@[simp] theorem State.setCoreSt_inbox (s : State) (n) (c) : (s.setCoreSt n c).inbox = s.inbox := rfl
@[simp] theorem State.setCoreSt_almanac (s : State) (n) (c) : (s.setCoreSt n c).almanac = s.almanac := rfl
@[simp] theorem State.setCoreSt_msgTable (s : State) (n) (c) : (s.setCoreSt n c).msgTable = s.msgTable := rfl
@[simp] theorem State.setCoreSt_sent (s : State) (n) (c) : (s.setCoreSt n c).sent = s.sent := rfl
@[simp] theorem State.setCoreSt_msgidNext (s : State) (n) (c) : (s.setCoreSt n c).msgidNext = s.msgidNext := rfl
@[simp] theorem State.setCoreSt_reshards (s : State) (n) (c) : (s.setCoreSt n c).reshards = s.reshards := rfl
@[simp] theorem State.setCoreSt_links (s : State) (n) (c) : (s.setCoreSt n c).links = s.links := rfl
@[simp] theorem State.setCoreSt_sessions (s : State) (n) (c) : (s.setCoreSt n c).sessions = s.sessions := rfl
@[simp] theorem State.setCoreSt_sessionNext (s : State) (n) (c) : (s.setCoreSt n c).sessionNext = s.sessionNext := rfl
@[simp] theorem State.setCoreSt_events (s : State) (n) (c) : (s.setCoreSt n c).events = s.events := rfl
@[simp] theorem State.setCoreSt_eventNext (s : State) (n) (c) : (s.setCoreSt n c).eventNext = s.eventNext := rfl
@[simp] theorem State.setCoreSt_eventsLostSince (s : State) (n) (c) : (s.setCoreSt n c).eventsLostSince = s.eventsLostSince := rfl
@[simp] theorem State.setCoreSt_kept (s : State) (n) (c) : (s.setCoreSt n c).kept = s.kept := rfl
@[simp] theorem State.setCoreSt_xfers (s : State) (n) (c) : (s.setCoreSt n c).xfers = s.xfers := rfl
@[simp] theorem State.setCoreSt_xferNext (s : State) (n) (c) : (s.setCoreSt n c).xferNext = s.xferNext := rfl
@[simp] theorem State.setCoreSt_multi (s : State) (n) (c) : (s.setCoreSt n c).multi = s.multi := rfl
@[simp] theorem State.setCoreSt_heldWrites (s : State) (n) (c) : (s.setCoreSt n c).heldWrites = s.heldWrites := rfl
@[simp] theorem State.setCoreSt_net (s : State) (n) (c) : (s.setCoreSt n c).net = s.net := rfl
@[simp] theorem State.setCoreSt_power (s : State) (n) (c) : (s.setCoreSt n c).power = s.power := rfl
@[simp] theorem State.setCoreSt_boot (s : State) (n) (c) : (s.setCoreSt n c).boot = s.boot := rfl
@[simp] theorem State.setCoreSt_taps (s : State) (n) (c) : (s.setCoreSt n c).taps = s.taps := rfl
@[simp] theorem State.setCoreSt_errors (s : State) (n) (c) : (s.setCoreSt n c).errors = s.errors := rfl
@[simp] theorem State.setCoreSt_security (s : State) (n) (c) : (s.setCoreSt n c).security = s.security := rfl
@[simp] theorem State.setCoreSt_profiles (s : State) (n) (c) : (s.setCoreSt n c).profiles = s.profiles := rfl
@[simp] theorem State.setCoreSt_counters (s : State) (n) (c) : (s.setCoreSt n c).counters = s.counters := rfl
@[simp] theorem State.setCoreSt_auditFrozen (s : State) (n) (c) : (s.setCoreSt n c).auditFrozen = s.auditFrozen := rfl
@[simp] theorem State.setCoreSt_obj (s : State) (n) (c) (u0) (u1) : (s.setCoreSt n c).obj u0 u1 = s.obj u0 u1 := rfl
@[simp] theorem State.setCoreSt_tot (s : State) (n) (c) (u0) (u1) : (s.setCoreSt n c).tot u0 u1 = s.tot u0 u1 := rfl
@[simp] theorem State.setCoreSt_block (s : State) (n) (c) (u0) : (s.setCoreSt n c).block u0 = s.block u0 := rfl
@[simp] theorem State.setCoreSt_ctx (s : State) (n) (c) (u0) (u1) : (s.setCoreSt n c).ctx u0 u1 = s.ctx u0 u1 := rfl
@[simp] theorem State.setCoreSt_slot (s : State) (n) (c) (u0) : (s.setCoreSt n c).slot u0 = s.slot u0 := rfl
@[simp] theorem State.setCoreSt_fport (s : State) (n) (c) (u0) : (s.setCoreSt n c).fport u0 = s.fport u0 := rfl
@[simp] theorem State.setCoreSt_keySlot (s : State) (n) (c) (u0) : (s.setCoreSt n c).keySlot u0 = s.keySlot u0 := rfl
@[simp] theorem State.setCoreSt_up (s : State) (n) (c) : (s.setCoreSt n c).up = s.up := rfl
@[simp] theorem State.setCoreSt_vigil (s : State) (n) (c) : (s.setCoreSt n c).vigil = s.vigil := rfl
@[simp] theorem State.setCoreSt_fabricOn (s : State) (n) (c) : (s.setCoreSt n c).fabricOn = s.fabricOn := rfl
@[simp] theorem State.setCoreSt_acc (s : State) (n) (c) (u0) (u1) : (s.setCoreSt n c).acc u0 u1 = s.acc u0 u1 := rfl
@[simp] theorem State.setCoreSt_positions (s : State) (n) (c) (u0) : (s.setCoreSt n c).positions u0 = s.positions u0 := rfl
@[simp] theorem State.setCoreSt_slotEn (s : State) (n) (c) (u0) : (s.setCoreSt n c).slotEn u0 = s.slotEn u0 := rfl

/-! ### setAcc -/

@[simp] theorem State.setAcc_part (s : State) (n) (i) (t) : (s.setAcc n i t).part = s.part := rfl
@[simp] theorem State.setAcc_pending (s : State) (n) (i) (t) : (s.setAcc n i t).pending = s.pending := rfl
@[simp] theorem State.setAcc_cores (s : State) (n) (i) (t) : (s.setAcc n i t).cores = s.cores := rfl
@[simp] theorem State.setAcc_ctxs (s : State) (n) (i) (t) : (s.setAcc n i t).ctxs = s.ctxs := rfl
@[simp] theorem State.setAcc_srf (s : State) (n) (i) (t) : (s.setAcc n i t).srf = s.srf := rfl
@[simp] theorem State.setAcc_rescale (s : State) (n) (i) (t) : (s.setAcc n i t).rescale = s.rescale := rfl
@[simp] theorem State.setAcc_mem (s : State) (n) (i) (t) : (s.setAcc n i t).mem = s.mem := rfl
@[simp] theorem State.setAcc_unitKey (s : State) (n) (i) (t) : (s.setAcc n i t).unitKey = s.unitKey := rfl
@[simp] theorem State.setAcc_fills (s : State) (n) (i) (t) : (s.setAcc n i t).fills = s.fills := rfl
@[simp] theorem State.setAcc_coreUc (s : State) (n) (i) (t) : (s.setAcc n i t).coreUc = s.coreUc := rfl
@[simp] theorem State.setAcc_unitCode (s : State) (n) (i) (t) : (s.setAcc n i t).unitCode = s.unitCode := rfl
@[simp] theorem State.setAcc_scrubAt (s : State) (n) (i) (t) : (s.setAcc n i t).scrubAt = s.scrubAt := rfl
@[simp] theorem State.setAcc_mcErr (s : State) (n) (i) (t) : (s.setAcc n i t).mcErr = s.mcErr := rfl
@[simp] theorem State.setAcc_unspecCount (s : State) (n) (i) (t) : (s.setAcc n i t).unspecCount = s.unspecCount := rfl
@[simp] theorem State.setAcc_untrained (s : State) (n) (i) (t) : (s.setAcc n i t).untrained = s.untrained := rfl
@[simp] theorem State.setAcc_blocks (s : State) (n) (i) (t) : (s.setAcc n i t).blocks = s.blocks := rfl
@[simp] theorem State.setAcc_objs (s : State) (n) (i) (t) : (s.setAcc n i t).objs = s.objs := rfl
@[simp] theorem State.setAcc_octs (s : State) (n) (i) (t) : (s.setAcc n i t).octs = s.octs := rfl
@[simp] theorem State.setAcc_tots (s : State) (n) (i) (t) : (s.setAcc n i t).tots = s.tots := rfl
@[simp] theorem State.setAcc_slots (s : State) (n) (i) (t) : (s.setAcc n i t).slots = s.slots := rfl
@[simp] theorem State.setAcc_group (s : State) (n) (i) (t) : (s.setAcc n i t).group = s.group := rfl
@[simp] theorem State.setAcc_noise (s : State) (n) (i) (t) : (s.setAcc n i t).noise = s.noise := rfl
@[simp] theorem State.setAcc_watch (s : State) (n) (i) (t) : (s.setAcc n i t).watch = s.watch := rfl
@[simp] theorem State.setAcc_watchNew (s : State) (n) (i) (t) : (s.setAcc n i t).watchNew = s.watchNew := rfl
@[simp] theorem State.setAcc_live (s : State) (n) (i) (t) : (s.setAcc n i t).live = s.live := rfl
@[simp] theorem State.setAcc_watchDue (s : State) (n) (i) (t) : (s.setAcc n i t).watchDue = s.watchDue := rfl
@[simp] theorem State.setAcc_fports (s : State) (n) (i) (t) : (s.setAcc n i t).fports = s.fports := rfl
@[simp] theorem State.setAcc_router (s : State) (n) (i) (t) : (s.setAcc n i t).router = s.router := rfl
@[simp] theorem State.setAcc_inbox (s : State) (n) (i) (t) : (s.setAcc n i t).inbox = s.inbox := rfl
@[simp] theorem State.setAcc_almanac (s : State) (n) (i) (t) : (s.setAcc n i t).almanac = s.almanac := rfl
@[simp] theorem State.setAcc_msgTable (s : State) (n) (i) (t) : (s.setAcc n i t).msgTable = s.msgTable := rfl
@[simp] theorem State.setAcc_sent (s : State) (n) (i) (t) : (s.setAcc n i t).sent = s.sent := rfl
@[simp] theorem State.setAcc_msgidNext (s : State) (n) (i) (t) : (s.setAcc n i t).msgidNext = s.msgidNext := rfl
@[simp] theorem State.setAcc_reshards (s : State) (n) (i) (t) : (s.setAcc n i t).reshards = s.reshards := rfl
@[simp] theorem State.setAcc_links (s : State) (n) (i) (t) : (s.setAcc n i t).links = s.links := rfl
@[simp] theorem State.setAcc_sessions (s : State) (n) (i) (t) : (s.setAcc n i t).sessions = s.sessions := rfl
@[simp] theorem State.setAcc_sessionNext (s : State) (n) (i) (t) : (s.setAcc n i t).sessionNext = s.sessionNext := rfl
@[simp] theorem State.setAcc_events (s : State) (n) (i) (t) : (s.setAcc n i t).events = s.events := rfl
@[simp] theorem State.setAcc_eventNext (s : State) (n) (i) (t) : (s.setAcc n i t).eventNext = s.eventNext := rfl
@[simp] theorem State.setAcc_eventsLostSince (s : State) (n) (i) (t) : (s.setAcc n i t).eventsLostSince = s.eventsLostSince := rfl
@[simp] theorem State.setAcc_kept (s : State) (n) (i) (t) : (s.setAcc n i t).kept = s.kept := rfl
@[simp] theorem State.setAcc_xfers (s : State) (n) (i) (t) : (s.setAcc n i t).xfers = s.xfers := rfl
@[simp] theorem State.setAcc_xferNext (s : State) (n) (i) (t) : (s.setAcc n i t).xferNext = s.xferNext := rfl
@[simp] theorem State.setAcc_multi (s : State) (n) (i) (t) : (s.setAcc n i t).multi = s.multi := rfl
@[simp] theorem State.setAcc_heldWrites (s : State) (n) (i) (t) : (s.setAcc n i t).heldWrites = s.heldWrites := rfl
@[simp] theorem State.setAcc_net (s : State) (n) (i) (t) : (s.setAcc n i t).net = s.net := rfl
@[simp] theorem State.setAcc_power (s : State) (n) (i) (t) : (s.setAcc n i t).power = s.power := rfl
@[simp] theorem State.setAcc_boot (s : State) (n) (i) (t) : (s.setAcc n i t).boot = s.boot := rfl
@[simp] theorem State.setAcc_taps (s : State) (n) (i) (t) : (s.setAcc n i t).taps = s.taps := rfl
@[simp] theorem State.setAcc_errors (s : State) (n) (i) (t) : (s.setAcc n i t).errors = s.errors := rfl
@[simp] theorem State.setAcc_security (s : State) (n) (i) (t) : (s.setAcc n i t).security = s.security := rfl
@[simp] theorem State.setAcc_profiles (s : State) (n) (i) (t) : (s.setAcc n i t).profiles = s.profiles := rfl
@[simp] theorem State.setAcc_counters (s : State) (n) (i) (t) : (s.setAcc n i t).counters = s.counters := rfl
@[simp] theorem State.setAcc_auditFrozen (s : State) (n) (i) (t) : (s.setAcc n i t).auditFrozen = s.auditFrozen := rfl
@[simp] theorem State.setAcc_obj (s : State) (n) (i) (t) (u0) (u1) : (s.setAcc n i t).obj u0 u1 = s.obj u0 u1 := rfl
@[simp] theorem State.setAcc_tot (s : State) (n) (i) (t) (u0) (u1) : (s.setAcc n i t).tot u0 u1 = s.tot u0 u1 := rfl
@[simp] theorem State.setAcc_block (s : State) (n) (i) (t) (u0) : (s.setAcc n i t).block u0 = s.block u0 := rfl
@[simp] theorem State.setAcc_ctx (s : State) (n) (i) (t) (u0) (u1) : (s.setAcc n i t).ctx u0 u1 = s.ctx u0 u1 := rfl
@[simp] theorem State.setAcc_coreSt (s : State) (n) (i) (t) (u0) : (s.setAcc n i t).coreSt u0 = s.coreSt u0 := rfl
@[simp] theorem State.setAcc_slot (s : State) (n) (i) (t) (u0) : (s.setAcc n i t).slot u0 = s.slot u0 := rfl
@[simp] theorem State.setAcc_fport (s : State) (n) (i) (t) (u0) : (s.setAcc n i t).fport u0 = s.fport u0 := rfl
@[simp] theorem State.setAcc_keySlot (s : State) (n) (i) (t) (u0) : (s.setAcc n i t).keySlot u0 = s.keySlot u0 := rfl
@[simp] theorem State.setAcc_up (s : State) (n) (i) (t) : (s.setAcc n i t).up = s.up := rfl
@[simp] theorem State.setAcc_vigil (s : State) (n) (i) (t) : (s.setAcc n i t).vigil = s.vigil := rfl
@[simp] theorem State.setAcc_fabricOn (s : State) (n) (i) (t) : (s.setAcc n i t).fabricOn = s.fabricOn := rfl
@[simp] theorem State.setAcc_positions (s : State) (n) (i) (t) (u0) : (s.setAcc n i t).positions u0 = s.positions u0 := rfl
@[simp] theorem State.setAcc_slotEn (s : State) (n) (i) (t) (u0) : (s.setAcc n i t).slotEn u0 = s.slotEn u0 := rfl

/-! ### setRescale -/

@[simp] theorem State.setRescale_part (s : State) (n) (i) (v) : (s.setRescale n i v).part = s.part := rfl
@[simp] theorem State.setRescale_pending (s : State) (n) (i) (v) : (s.setRescale n i v).pending = s.pending := rfl
@[simp] theorem State.setRescale_cores (s : State) (n) (i) (v) : (s.setRescale n i v).cores = s.cores := rfl
@[simp] theorem State.setRescale_ctxs (s : State) (n) (i) (v) : (s.setRescale n i v).ctxs = s.ctxs := rfl
@[simp] theorem State.setRescale_accs (s : State) (n) (i) (v) : (s.setRescale n i v).accs = s.accs := rfl
@[simp] theorem State.setRescale_srf (s : State) (n) (i) (v) : (s.setRescale n i v).srf = s.srf := rfl
@[simp] theorem State.setRescale_mem (s : State) (n) (i) (v) : (s.setRescale n i v).mem = s.mem := rfl
@[simp] theorem State.setRescale_unitKey (s : State) (n) (i) (v) : (s.setRescale n i v).unitKey = s.unitKey := rfl
@[simp] theorem State.setRescale_fills (s : State) (n) (i) (v) : (s.setRescale n i v).fills = s.fills := rfl
@[simp] theorem State.setRescale_coreUc (s : State) (n) (i) (v) : (s.setRescale n i v).coreUc = s.coreUc := rfl
@[simp] theorem State.setRescale_unitCode (s : State) (n) (i) (v) : (s.setRescale n i v).unitCode = s.unitCode := rfl
@[simp] theorem State.setRescale_scrubAt (s : State) (n) (i) (v) : (s.setRescale n i v).scrubAt = s.scrubAt := rfl
@[simp] theorem State.setRescale_mcErr (s : State) (n) (i) (v) : (s.setRescale n i v).mcErr = s.mcErr := rfl
@[simp] theorem State.setRescale_unspecCount (s : State) (n) (i) (v) : (s.setRescale n i v).unspecCount = s.unspecCount := rfl
@[simp] theorem State.setRescale_untrained (s : State) (n) (i) (v) : (s.setRescale n i v).untrained = s.untrained := rfl
@[simp] theorem State.setRescale_blocks (s : State) (n) (i) (v) : (s.setRescale n i v).blocks = s.blocks := rfl
@[simp] theorem State.setRescale_objs (s : State) (n) (i) (v) : (s.setRescale n i v).objs = s.objs := rfl
@[simp] theorem State.setRescale_octs (s : State) (n) (i) (v) : (s.setRescale n i v).octs = s.octs := rfl
@[simp] theorem State.setRescale_tots (s : State) (n) (i) (v) : (s.setRescale n i v).tots = s.tots := rfl
@[simp] theorem State.setRescale_slots (s : State) (n) (i) (v) : (s.setRescale n i v).slots = s.slots := rfl
@[simp] theorem State.setRescale_group (s : State) (n) (i) (v) : (s.setRescale n i v).group = s.group := rfl
@[simp] theorem State.setRescale_noise (s : State) (n) (i) (v) : (s.setRescale n i v).noise = s.noise := rfl
@[simp] theorem State.setRescale_watch (s : State) (n) (i) (v) : (s.setRescale n i v).watch = s.watch := rfl
@[simp] theorem State.setRescale_watchNew (s : State) (n) (i) (v) : (s.setRescale n i v).watchNew = s.watchNew := rfl
@[simp] theorem State.setRescale_live (s : State) (n) (i) (v) : (s.setRescale n i v).live = s.live := rfl
@[simp] theorem State.setRescale_watchDue (s : State) (n) (i) (v) : (s.setRescale n i v).watchDue = s.watchDue := rfl
@[simp] theorem State.setRescale_fports (s : State) (n) (i) (v) : (s.setRescale n i v).fports = s.fports := rfl
@[simp] theorem State.setRescale_router (s : State) (n) (i) (v) : (s.setRescale n i v).router = s.router := rfl
@[simp] theorem State.setRescale_inbox (s : State) (n) (i) (v) : (s.setRescale n i v).inbox = s.inbox := rfl
@[simp] theorem State.setRescale_almanac (s : State) (n) (i) (v) : (s.setRescale n i v).almanac = s.almanac := rfl
@[simp] theorem State.setRescale_msgTable (s : State) (n) (i) (v) : (s.setRescale n i v).msgTable = s.msgTable := rfl
@[simp] theorem State.setRescale_sent (s : State) (n) (i) (v) : (s.setRescale n i v).sent = s.sent := rfl
@[simp] theorem State.setRescale_msgidNext (s : State) (n) (i) (v) : (s.setRescale n i v).msgidNext = s.msgidNext := rfl
@[simp] theorem State.setRescale_reshards (s : State) (n) (i) (v) : (s.setRescale n i v).reshards = s.reshards := rfl
@[simp] theorem State.setRescale_links (s : State) (n) (i) (v) : (s.setRescale n i v).links = s.links := rfl
@[simp] theorem State.setRescale_sessions (s : State) (n) (i) (v) : (s.setRescale n i v).sessions = s.sessions := rfl
@[simp] theorem State.setRescale_sessionNext (s : State) (n) (i) (v) : (s.setRescale n i v).sessionNext = s.sessionNext := rfl
@[simp] theorem State.setRescale_events (s : State) (n) (i) (v) : (s.setRescale n i v).events = s.events := rfl
@[simp] theorem State.setRescale_eventNext (s : State) (n) (i) (v) : (s.setRescale n i v).eventNext = s.eventNext := rfl
@[simp] theorem State.setRescale_eventsLostSince (s : State) (n) (i) (v) : (s.setRescale n i v).eventsLostSince = s.eventsLostSince := rfl
@[simp] theorem State.setRescale_kept (s : State) (n) (i) (v) : (s.setRescale n i v).kept = s.kept := rfl
@[simp] theorem State.setRescale_xfers (s : State) (n) (i) (v) : (s.setRescale n i v).xfers = s.xfers := rfl
@[simp] theorem State.setRescale_xferNext (s : State) (n) (i) (v) : (s.setRescale n i v).xferNext = s.xferNext := rfl
@[simp] theorem State.setRescale_multi (s : State) (n) (i) (v) : (s.setRescale n i v).multi = s.multi := rfl
@[simp] theorem State.setRescale_heldWrites (s : State) (n) (i) (v) : (s.setRescale n i v).heldWrites = s.heldWrites := rfl
@[simp] theorem State.setRescale_net (s : State) (n) (i) (v) : (s.setRescale n i v).net = s.net := rfl
@[simp] theorem State.setRescale_power (s : State) (n) (i) (v) : (s.setRescale n i v).power = s.power := rfl
@[simp] theorem State.setRescale_boot (s : State) (n) (i) (v) : (s.setRescale n i v).boot = s.boot := rfl
@[simp] theorem State.setRescale_taps (s : State) (n) (i) (v) : (s.setRescale n i v).taps = s.taps := rfl
@[simp] theorem State.setRescale_errors (s : State) (n) (i) (v) : (s.setRescale n i v).errors = s.errors := rfl
@[simp] theorem State.setRescale_security (s : State) (n) (i) (v) : (s.setRescale n i v).security = s.security := rfl
@[simp] theorem State.setRescale_profiles (s : State) (n) (i) (v) : (s.setRescale n i v).profiles = s.profiles := rfl
@[simp] theorem State.setRescale_counters (s : State) (n) (i) (v) : (s.setRescale n i v).counters = s.counters := rfl
@[simp] theorem State.setRescale_auditFrozen (s : State) (n) (i) (v) : (s.setRescale n i v).auditFrozen = s.auditFrozen := rfl
@[simp] theorem State.setRescale_obj (s : State) (n) (i) (v) (u0) (u1) : (s.setRescale n i v).obj u0 u1 = s.obj u0 u1 := rfl
@[simp] theorem State.setRescale_tot (s : State) (n) (i) (v) (u0) (u1) : (s.setRescale n i v).tot u0 u1 = s.tot u0 u1 := rfl
@[simp] theorem State.setRescale_block (s : State) (n) (i) (v) (u0) : (s.setRescale n i v).block u0 = s.block u0 := rfl
@[simp] theorem State.setRescale_ctx (s : State) (n) (i) (v) (u0) (u1) : (s.setRescale n i v).ctx u0 u1 = s.ctx u0 u1 := rfl
@[simp] theorem State.setRescale_coreSt (s : State) (n) (i) (v) (u0) : (s.setRescale n i v).coreSt u0 = s.coreSt u0 := rfl
@[simp] theorem State.setRescale_slot (s : State) (n) (i) (v) (u0) : (s.setRescale n i v).slot u0 = s.slot u0 := rfl
@[simp] theorem State.setRescale_fport (s : State) (n) (i) (v) (u0) : (s.setRescale n i v).fport u0 = s.fport u0 := rfl
@[simp] theorem State.setRescale_keySlot (s : State) (n) (i) (v) (u0) : (s.setRescale n i v).keySlot u0 = s.keySlot u0 := rfl
@[simp] theorem State.setRescale_up (s : State) (n) (i) (v) : (s.setRescale n i v).up = s.up := rfl
@[simp] theorem State.setRescale_vigil (s : State) (n) (i) (v) : (s.setRescale n i v).vigil = s.vigil := rfl
@[simp] theorem State.setRescale_fabricOn (s : State) (n) (i) (v) : (s.setRescale n i v).fabricOn = s.fabricOn := rfl
@[simp] theorem State.setRescale_acc (s : State) (n) (i) (v) (u0) (u1) : (s.setRescale n i v).acc u0 u1 = s.acc u0 u1 := rfl
@[simp] theorem State.setRescale_positions (s : State) (n) (i) (v) (u0) : (s.setRescale n i v).positions u0 = s.positions u0 := rfl
@[simp] theorem State.setRescale_slotEn (s : State) (n) (i) (v) (u0) : (s.setRescale n i v).slotEn u0 = s.slotEn u0 := rfl

/-! ### setSrf -/

@[simp] theorem State.setSrf_part (s : State) (n) (i) (v) : (s.setSrf n i v).part = s.part := rfl
@[simp] theorem State.setSrf_pending (s : State) (n) (i) (v) : (s.setSrf n i v).pending = s.pending := rfl
@[simp] theorem State.setSrf_cores (s : State) (n) (i) (v) : (s.setSrf n i v).cores = s.cores := rfl
@[simp] theorem State.setSrf_ctxs (s : State) (n) (i) (v) : (s.setSrf n i v).ctxs = s.ctxs := rfl
@[simp] theorem State.setSrf_accs (s : State) (n) (i) (v) : (s.setSrf n i v).accs = s.accs := rfl
@[simp] theorem State.setSrf_rescale (s : State) (n) (i) (v) : (s.setSrf n i v).rescale = s.rescale := rfl
@[simp] theorem State.setSrf_mem (s : State) (n) (i) (v) : (s.setSrf n i v).mem = s.mem := rfl
@[simp] theorem State.setSrf_unitKey (s : State) (n) (i) (v) : (s.setSrf n i v).unitKey = s.unitKey := rfl
@[simp] theorem State.setSrf_fills (s : State) (n) (i) (v) : (s.setSrf n i v).fills = s.fills := rfl
@[simp] theorem State.setSrf_coreUc (s : State) (n) (i) (v) : (s.setSrf n i v).coreUc = s.coreUc := rfl
@[simp] theorem State.setSrf_unitCode (s : State) (n) (i) (v) : (s.setSrf n i v).unitCode = s.unitCode := rfl
@[simp] theorem State.setSrf_scrubAt (s : State) (n) (i) (v) : (s.setSrf n i v).scrubAt = s.scrubAt := rfl
@[simp] theorem State.setSrf_mcErr (s : State) (n) (i) (v) : (s.setSrf n i v).mcErr = s.mcErr := rfl
@[simp] theorem State.setSrf_unspecCount (s : State) (n) (i) (v) : (s.setSrf n i v).unspecCount = s.unspecCount := rfl
@[simp] theorem State.setSrf_untrained (s : State) (n) (i) (v) : (s.setSrf n i v).untrained = s.untrained := rfl
@[simp] theorem State.setSrf_blocks (s : State) (n) (i) (v) : (s.setSrf n i v).blocks = s.blocks := rfl
@[simp] theorem State.setSrf_objs (s : State) (n) (i) (v) : (s.setSrf n i v).objs = s.objs := rfl
@[simp] theorem State.setSrf_octs (s : State) (n) (i) (v) : (s.setSrf n i v).octs = s.octs := rfl
@[simp] theorem State.setSrf_tots (s : State) (n) (i) (v) : (s.setSrf n i v).tots = s.tots := rfl
@[simp] theorem State.setSrf_slots (s : State) (n) (i) (v) : (s.setSrf n i v).slots = s.slots := rfl
@[simp] theorem State.setSrf_group (s : State) (n) (i) (v) : (s.setSrf n i v).group = s.group := rfl
@[simp] theorem State.setSrf_noise (s : State) (n) (i) (v) : (s.setSrf n i v).noise = s.noise := rfl
@[simp] theorem State.setSrf_watch (s : State) (n) (i) (v) : (s.setSrf n i v).watch = s.watch := rfl
@[simp] theorem State.setSrf_watchNew (s : State) (n) (i) (v) : (s.setSrf n i v).watchNew = s.watchNew := rfl
@[simp] theorem State.setSrf_live (s : State) (n) (i) (v) : (s.setSrf n i v).live = s.live := rfl
@[simp] theorem State.setSrf_watchDue (s : State) (n) (i) (v) : (s.setSrf n i v).watchDue = s.watchDue := rfl
@[simp] theorem State.setSrf_fports (s : State) (n) (i) (v) : (s.setSrf n i v).fports = s.fports := rfl
@[simp] theorem State.setSrf_router (s : State) (n) (i) (v) : (s.setSrf n i v).router = s.router := rfl
@[simp] theorem State.setSrf_inbox (s : State) (n) (i) (v) : (s.setSrf n i v).inbox = s.inbox := rfl
@[simp] theorem State.setSrf_almanac (s : State) (n) (i) (v) : (s.setSrf n i v).almanac = s.almanac := rfl
@[simp] theorem State.setSrf_msgTable (s : State) (n) (i) (v) : (s.setSrf n i v).msgTable = s.msgTable := rfl
@[simp] theorem State.setSrf_sent (s : State) (n) (i) (v) : (s.setSrf n i v).sent = s.sent := rfl
@[simp] theorem State.setSrf_msgidNext (s : State) (n) (i) (v) : (s.setSrf n i v).msgidNext = s.msgidNext := rfl
@[simp] theorem State.setSrf_reshards (s : State) (n) (i) (v) : (s.setSrf n i v).reshards = s.reshards := rfl
@[simp] theorem State.setSrf_links (s : State) (n) (i) (v) : (s.setSrf n i v).links = s.links := rfl
@[simp] theorem State.setSrf_sessions (s : State) (n) (i) (v) : (s.setSrf n i v).sessions = s.sessions := rfl
@[simp] theorem State.setSrf_sessionNext (s : State) (n) (i) (v) : (s.setSrf n i v).sessionNext = s.sessionNext := rfl
@[simp] theorem State.setSrf_events (s : State) (n) (i) (v) : (s.setSrf n i v).events = s.events := rfl
@[simp] theorem State.setSrf_eventNext (s : State) (n) (i) (v) : (s.setSrf n i v).eventNext = s.eventNext := rfl
@[simp] theorem State.setSrf_eventsLostSince (s : State) (n) (i) (v) : (s.setSrf n i v).eventsLostSince = s.eventsLostSince := rfl
@[simp] theorem State.setSrf_kept (s : State) (n) (i) (v) : (s.setSrf n i v).kept = s.kept := rfl
@[simp] theorem State.setSrf_xfers (s : State) (n) (i) (v) : (s.setSrf n i v).xfers = s.xfers := rfl
@[simp] theorem State.setSrf_xferNext (s : State) (n) (i) (v) : (s.setSrf n i v).xferNext = s.xferNext := rfl
@[simp] theorem State.setSrf_multi (s : State) (n) (i) (v) : (s.setSrf n i v).multi = s.multi := rfl
@[simp] theorem State.setSrf_heldWrites (s : State) (n) (i) (v) : (s.setSrf n i v).heldWrites = s.heldWrites := rfl
@[simp] theorem State.setSrf_net (s : State) (n) (i) (v) : (s.setSrf n i v).net = s.net := rfl
@[simp] theorem State.setSrf_power (s : State) (n) (i) (v) : (s.setSrf n i v).power = s.power := rfl
@[simp] theorem State.setSrf_boot (s : State) (n) (i) (v) : (s.setSrf n i v).boot = s.boot := rfl
@[simp] theorem State.setSrf_taps (s : State) (n) (i) (v) : (s.setSrf n i v).taps = s.taps := rfl
@[simp] theorem State.setSrf_errors (s : State) (n) (i) (v) : (s.setSrf n i v).errors = s.errors := rfl
@[simp] theorem State.setSrf_security (s : State) (n) (i) (v) : (s.setSrf n i v).security = s.security := rfl
@[simp] theorem State.setSrf_profiles (s : State) (n) (i) (v) : (s.setSrf n i v).profiles = s.profiles := rfl
@[simp] theorem State.setSrf_counters (s : State) (n) (i) (v) : (s.setSrf n i v).counters = s.counters := rfl
@[simp] theorem State.setSrf_auditFrozen (s : State) (n) (i) (v) : (s.setSrf n i v).auditFrozen = s.auditFrozen := rfl
@[simp] theorem State.setSrf_obj (s : State) (n) (i) (v) (u0) (u1) : (s.setSrf n i v).obj u0 u1 = s.obj u0 u1 := rfl
@[simp] theorem State.setSrf_tot (s : State) (n) (i) (v) (u0) (u1) : (s.setSrf n i v).tot u0 u1 = s.tot u0 u1 := rfl
@[simp] theorem State.setSrf_block (s : State) (n) (i) (v) (u0) : (s.setSrf n i v).block u0 = s.block u0 := rfl
@[simp] theorem State.setSrf_ctx (s : State) (n) (i) (v) (u0) (u1) : (s.setSrf n i v).ctx u0 u1 = s.ctx u0 u1 := rfl
@[simp] theorem State.setSrf_coreSt (s : State) (n) (i) (v) (u0) : (s.setSrf n i v).coreSt u0 = s.coreSt u0 := rfl
@[simp] theorem State.setSrf_slot (s : State) (n) (i) (v) (u0) : (s.setSrf n i v).slot u0 = s.slot u0 := rfl
@[simp] theorem State.setSrf_fport (s : State) (n) (i) (v) (u0) : (s.setSrf n i v).fport u0 = s.fport u0 := rfl
@[simp] theorem State.setSrf_keySlot (s : State) (n) (i) (v) (u0) : (s.setSrf n i v).keySlot u0 = s.keySlot u0 := rfl
@[simp] theorem State.setSrf_up (s : State) (n) (i) (v) : (s.setSrf n i v).up = s.up := rfl
@[simp] theorem State.setSrf_vigil (s : State) (n) (i) (v) : (s.setSrf n i v).vigil = s.vigil := rfl
@[simp] theorem State.setSrf_fabricOn (s : State) (n) (i) (v) : (s.setSrf n i v).fabricOn = s.fabricOn := rfl
@[simp] theorem State.setSrf_acc (s : State) (n) (i) (v) (u0) (u1) : (s.setSrf n i v).acc u0 u1 = s.acc u0 u1 := rfl
@[simp] theorem State.setSrf_positions (s : State) (n) (i) (v) (u0) : (s.setSrf n i v).positions u0 = s.positions u0 := rfl
@[simp] theorem State.setSrf_slotEn (s : State) (n) (i) (v) (u0) : (s.setSrf n i v).slotEn u0 = s.slotEn u0 := rfl

/-! ### setKeySlot -/

@[simp] theorem State.setKeySlot_part (s : State) (k) (v) : (s.setKeySlot k v).part = s.part := rfl
@[simp] theorem State.setKeySlot_pending (s : State) (k) (v) : (s.setKeySlot k v).pending = s.pending := rfl
@[simp] theorem State.setKeySlot_cores (s : State) (k) (v) : (s.setKeySlot k v).cores = s.cores := rfl
@[simp] theorem State.setKeySlot_ctxs (s : State) (k) (v) : (s.setKeySlot k v).ctxs = s.ctxs := rfl
@[simp] theorem State.setKeySlot_accs (s : State) (k) (v) : (s.setKeySlot k v).accs = s.accs := rfl
@[simp] theorem State.setKeySlot_srf (s : State) (k) (v) : (s.setKeySlot k v).srf = s.srf := rfl
@[simp] theorem State.setKeySlot_rescale (s : State) (k) (v) : (s.setKeySlot k v).rescale = s.rescale := rfl
@[simp] theorem State.setKeySlot_mem (s : State) (k) (v) : (s.setKeySlot k v).mem = s.mem := rfl
@[simp] theorem State.setKeySlot_unitKey (s : State) (k) (v) : (s.setKeySlot k v).unitKey = s.unitKey := rfl
@[simp] theorem State.setKeySlot_fills (s : State) (k) (v) : (s.setKeySlot k v).fills = s.fills := rfl
@[simp] theorem State.setKeySlot_coreUc (s : State) (k) (v) : (s.setKeySlot k v).coreUc = s.coreUc := rfl
@[simp] theorem State.setKeySlot_unitCode (s : State) (k) (v) : (s.setKeySlot k v).unitCode = s.unitCode := rfl
@[simp] theorem State.setKeySlot_scrubAt (s : State) (k) (v) : (s.setKeySlot k v).scrubAt = s.scrubAt := rfl
@[simp] theorem State.setKeySlot_mcErr (s : State) (k) (v) : (s.setKeySlot k v).mcErr = s.mcErr := rfl
@[simp] theorem State.setKeySlot_unspecCount (s : State) (k) (v) : (s.setKeySlot k v).unspecCount = s.unspecCount := rfl
@[simp] theorem State.setKeySlot_untrained (s : State) (k) (v) : (s.setKeySlot k v).untrained = s.untrained := rfl
@[simp] theorem State.setKeySlot_blocks (s : State) (k) (v) : (s.setKeySlot k v).blocks = s.blocks := rfl
@[simp] theorem State.setKeySlot_objs (s : State) (k) (v) : (s.setKeySlot k v).objs = s.objs := rfl
@[simp] theorem State.setKeySlot_octs (s : State) (k) (v) : (s.setKeySlot k v).octs = s.octs := rfl
@[simp] theorem State.setKeySlot_tots (s : State) (k) (v) : (s.setKeySlot k v).tots = s.tots := rfl
@[simp] theorem State.setKeySlot_slots (s : State) (k) (v) : (s.setKeySlot k v).slots = s.slots := rfl
@[simp] theorem State.setKeySlot_group (s : State) (k) (v) : (s.setKeySlot k v).group = s.group := rfl
@[simp] theorem State.setKeySlot_noise (s : State) (k) (v) : (s.setKeySlot k v).noise = s.noise := rfl
@[simp] theorem State.setKeySlot_watch (s : State) (k) (v) : (s.setKeySlot k v).watch = s.watch := rfl
@[simp] theorem State.setKeySlot_watchNew (s : State) (k) (v) : (s.setKeySlot k v).watchNew = s.watchNew := rfl
@[simp] theorem State.setKeySlot_live (s : State) (k) (v) : (s.setKeySlot k v).live = s.live := rfl
@[simp] theorem State.setKeySlot_watchDue (s : State) (k) (v) : (s.setKeySlot k v).watchDue = s.watchDue := rfl
@[simp] theorem State.setKeySlot_fports (s : State) (k) (v) : (s.setKeySlot k v).fports = s.fports := rfl
@[simp] theorem State.setKeySlot_router (s : State) (k) (v) : (s.setKeySlot k v).router = s.router := rfl
@[simp] theorem State.setKeySlot_inbox (s : State) (k) (v) : (s.setKeySlot k v).inbox = s.inbox := rfl
@[simp] theorem State.setKeySlot_almanac (s : State) (k) (v) : (s.setKeySlot k v).almanac = s.almanac := rfl
@[simp] theorem State.setKeySlot_msgTable (s : State) (k) (v) : (s.setKeySlot k v).msgTable = s.msgTable := rfl
@[simp] theorem State.setKeySlot_sent (s : State) (k) (v) : (s.setKeySlot k v).sent = s.sent := rfl
@[simp] theorem State.setKeySlot_msgidNext (s : State) (k) (v) : (s.setKeySlot k v).msgidNext = s.msgidNext := rfl
@[simp] theorem State.setKeySlot_reshards (s : State) (k) (v) : (s.setKeySlot k v).reshards = s.reshards := rfl
@[simp] theorem State.setKeySlot_links (s : State) (k) (v) : (s.setKeySlot k v).links = s.links := rfl
@[simp] theorem State.setKeySlot_sessions (s : State) (k) (v) : (s.setKeySlot k v).sessions = s.sessions := rfl
@[simp] theorem State.setKeySlot_sessionNext (s : State) (k) (v) : (s.setKeySlot k v).sessionNext = s.sessionNext := rfl
@[simp] theorem State.setKeySlot_events (s : State) (k) (v) : (s.setKeySlot k v).events = s.events := rfl
@[simp] theorem State.setKeySlot_eventNext (s : State) (k) (v) : (s.setKeySlot k v).eventNext = s.eventNext := rfl
@[simp] theorem State.setKeySlot_eventsLostSince (s : State) (k) (v) : (s.setKeySlot k v).eventsLostSince = s.eventsLostSince := rfl
@[simp] theorem State.setKeySlot_kept (s : State) (k) (v) : (s.setKeySlot k v).kept = s.kept := rfl
@[simp] theorem State.setKeySlot_xfers (s : State) (k) (v) : (s.setKeySlot k v).xfers = s.xfers := rfl
@[simp] theorem State.setKeySlot_xferNext (s : State) (k) (v) : (s.setKeySlot k v).xferNext = s.xferNext := rfl
@[simp] theorem State.setKeySlot_multi (s : State) (k) (v) : (s.setKeySlot k v).multi = s.multi := rfl
@[simp] theorem State.setKeySlot_heldWrites (s : State) (k) (v) : (s.setKeySlot k v).heldWrites = s.heldWrites := rfl
@[simp] theorem State.setKeySlot_net (s : State) (k) (v) : (s.setKeySlot k v).net = s.net := rfl
@[simp] theorem State.setKeySlot_power (s : State) (k) (v) : (s.setKeySlot k v).power = s.power := rfl
@[simp] theorem State.setKeySlot_boot (s : State) (k) (v) : (s.setKeySlot k v).boot = s.boot := rfl
@[simp] theorem State.setKeySlot_taps (s : State) (k) (v) : (s.setKeySlot k v).taps = s.taps := rfl
@[simp] theorem State.setKeySlot_errors (s : State) (k) (v) : (s.setKeySlot k v).errors = s.errors := rfl
@[simp] theorem State.setKeySlot_profiles (s : State) (k) (v) : (s.setKeySlot k v).profiles = s.profiles := rfl
@[simp] theorem State.setKeySlot_counters (s : State) (k) (v) : (s.setKeySlot k v).counters = s.counters := rfl
@[simp] theorem State.setKeySlot_auditFrozen (s : State) (k) (v) : (s.setKeySlot k v).auditFrozen = s.auditFrozen := rfl
@[simp] theorem State.setKeySlot_obj (s : State) (k) (v) (u0) (u1) : (s.setKeySlot k v).obj u0 u1 = s.obj u0 u1 := rfl
@[simp] theorem State.setKeySlot_tot (s : State) (k) (v) (u0) (u1) : (s.setKeySlot k v).tot u0 u1 = s.tot u0 u1 := rfl
@[simp] theorem State.setKeySlot_block (s : State) (k) (v) (u0) : (s.setKeySlot k v).block u0 = s.block u0 := rfl
@[simp] theorem State.setKeySlot_ctx (s : State) (k) (v) (u0) (u1) : (s.setKeySlot k v).ctx u0 u1 = s.ctx u0 u1 := rfl
@[simp] theorem State.setKeySlot_coreSt (s : State) (k) (v) (u0) : (s.setKeySlot k v).coreSt u0 = s.coreSt u0 := rfl
@[simp] theorem State.setKeySlot_slot (s : State) (k) (v) (u0) : (s.setKeySlot k v).slot u0 = s.slot u0 := rfl
@[simp] theorem State.setKeySlot_fport (s : State) (k) (v) (u0) : (s.setKeySlot k v).fport u0 = s.fport u0 := rfl
@[simp] theorem State.setKeySlot_up (s : State) (k) (v) : (s.setKeySlot k v).up = s.up := rfl
@[simp] theorem State.setKeySlot_vigil (s : State) (k) (v) : (s.setKeySlot k v).vigil = s.vigil := rfl
@[simp] theorem State.setKeySlot_fabricOn (s : State) (k) (v) : (s.setKeySlot k v).fabricOn = s.fabricOn := rfl
@[simp] theorem State.setKeySlot_acc (s : State) (k) (v) (u0) (u1) : (s.setKeySlot k v).acc u0 u1 = s.acc u0 u1 := rfl
@[simp] theorem State.setKeySlot_positions (s : State) (k) (v) (u0) : (s.setKeySlot k v).positions u0 = s.positions u0 := rfl
@[simp] theorem State.setKeySlot_slotEn (s : State) (k) (v) (u0) : (s.setKeySlot k v).slotEn u0 = s.slotEn u0 := rfl

/-! ### setLink -/

@[simp] theorem State.setLink_part (s : State) (p) (l) : (s.setLink p l).part = s.part := rfl
@[simp] theorem State.setLink_pending (s : State) (p) (l) : (s.setLink p l).pending = s.pending := rfl
@[simp] theorem State.setLink_cores (s : State) (p) (l) : (s.setLink p l).cores = s.cores := rfl
@[simp] theorem State.setLink_ctxs (s : State) (p) (l) : (s.setLink p l).ctxs = s.ctxs := rfl
@[simp] theorem State.setLink_accs (s : State) (p) (l) : (s.setLink p l).accs = s.accs := rfl
@[simp] theorem State.setLink_srf (s : State) (p) (l) : (s.setLink p l).srf = s.srf := rfl
@[simp] theorem State.setLink_rescale (s : State) (p) (l) : (s.setLink p l).rescale = s.rescale := rfl
@[simp] theorem State.setLink_mem (s : State) (p) (l) : (s.setLink p l).mem = s.mem := rfl
@[simp] theorem State.setLink_unitKey (s : State) (p) (l) : (s.setLink p l).unitKey = s.unitKey := rfl
@[simp] theorem State.setLink_fills (s : State) (p) (l) : (s.setLink p l).fills = s.fills := rfl
@[simp] theorem State.setLink_coreUc (s : State) (p) (l) : (s.setLink p l).coreUc = s.coreUc := rfl
@[simp] theorem State.setLink_unitCode (s : State) (p) (l) : (s.setLink p l).unitCode = s.unitCode := rfl
@[simp] theorem State.setLink_scrubAt (s : State) (p) (l) : (s.setLink p l).scrubAt = s.scrubAt := rfl
@[simp] theorem State.setLink_mcErr (s : State) (p) (l) : (s.setLink p l).mcErr = s.mcErr := rfl
@[simp] theorem State.setLink_unspecCount (s : State) (p) (l) : (s.setLink p l).unspecCount = s.unspecCount := rfl
@[simp] theorem State.setLink_untrained (s : State) (p) (l) : (s.setLink p l).untrained = s.untrained := rfl
@[simp] theorem State.setLink_blocks (s : State) (p) (l) : (s.setLink p l).blocks = s.blocks := rfl
@[simp] theorem State.setLink_objs (s : State) (p) (l) : (s.setLink p l).objs = s.objs := rfl
@[simp] theorem State.setLink_octs (s : State) (p) (l) : (s.setLink p l).octs = s.octs := rfl
@[simp] theorem State.setLink_tots (s : State) (p) (l) : (s.setLink p l).tots = s.tots := rfl
@[simp] theorem State.setLink_slots (s : State) (p) (l) : (s.setLink p l).slots = s.slots := rfl
@[simp] theorem State.setLink_group (s : State) (p) (l) : (s.setLink p l).group = s.group := rfl
@[simp] theorem State.setLink_noise (s : State) (p) (l) : (s.setLink p l).noise = s.noise := rfl
@[simp] theorem State.setLink_watch (s : State) (p) (l) : (s.setLink p l).watch = s.watch := rfl
@[simp] theorem State.setLink_watchNew (s : State) (p) (l) : (s.setLink p l).watchNew = s.watchNew := rfl
@[simp] theorem State.setLink_live (s : State) (p) (l) : (s.setLink p l).live = s.live := rfl
@[simp] theorem State.setLink_watchDue (s : State) (p) (l) : (s.setLink p l).watchDue = s.watchDue := rfl
@[simp] theorem State.setLink_fports (s : State) (p) (l) : (s.setLink p l).fports = s.fports := rfl
@[simp] theorem State.setLink_router (s : State) (p) (l) : (s.setLink p l).router = s.router := rfl
@[simp] theorem State.setLink_inbox (s : State) (p) (l) : (s.setLink p l).inbox = s.inbox := rfl
@[simp] theorem State.setLink_almanac (s : State) (p) (l) : (s.setLink p l).almanac = s.almanac := rfl
@[simp] theorem State.setLink_msgTable (s : State) (p) (l) : (s.setLink p l).msgTable = s.msgTable := rfl
@[simp] theorem State.setLink_sent (s : State) (p) (l) : (s.setLink p l).sent = s.sent := rfl
@[simp] theorem State.setLink_msgidNext (s : State) (p) (l) : (s.setLink p l).msgidNext = s.msgidNext := rfl
@[simp] theorem State.setLink_reshards (s : State) (p) (l) : (s.setLink p l).reshards = s.reshards := rfl
@[simp] theorem State.setLink_sessions (s : State) (p) (l) : (s.setLink p l).sessions = s.sessions := rfl
@[simp] theorem State.setLink_sessionNext (s : State) (p) (l) : (s.setLink p l).sessionNext = s.sessionNext := rfl
@[simp] theorem State.setLink_events (s : State) (p) (l) : (s.setLink p l).events = s.events := rfl
@[simp] theorem State.setLink_eventNext (s : State) (p) (l) : (s.setLink p l).eventNext = s.eventNext := rfl
@[simp] theorem State.setLink_eventsLostSince (s : State) (p) (l) : (s.setLink p l).eventsLostSince = s.eventsLostSince := rfl
@[simp] theorem State.setLink_kept (s : State) (p) (l) : (s.setLink p l).kept = s.kept := rfl
@[simp] theorem State.setLink_xfers (s : State) (p) (l) : (s.setLink p l).xfers = s.xfers := rfl
@[simp] theorem State.setLink_xferNext (s : State) (p) (l) : (s.setLink p l).xferNext = s.xferNext := rfl
@[simp] theorem State.setLink_multi (s : State) (p) (l) : (s.setLink p l).multi = s.multi := rfl
@[simp] theorem State.setLink_heldWrites (s : State) (p) (l) : (s.setLink p l).heldWrites = s.heldWrites := rfl
@[simp] theorem State.setLink_net (s : State) (p) (l) : (s.setLink p l).net = s.net := rfl
@[simp] theorem State.setLink_power (s : State) (p) (l) : (s.setLink p l).power = s.power := rfl
@[simp] theorem State.setLink_boot (s : State) (p) (l) : (s.setLink p l).boot = s.boot := rfl
@[simp] theorem State.setLink_taps (s : State) (p) (l) : (s.setLink p l).taps = s.taps := rfl
@[simp] theorem State.setLink_errors (s : State) (p) (l) : (s.setLink p l).errors = s.errors := rfl
@[simp] theorem State.setLink_security (s : State) (p) (l) : (s.setLink p l).security = s.security := rfl
@[simp] theorem State.setLink_profiles (s : State) (p) (l) : (s.setLink p l).profiles = s.profiles := rfl
@[simp] theorem State.setLink_counters (s : State) (p) (l) : (s.setLink p l).counters = s.counters := rfl
@[simp] theorem State.setLink_auditFrozen (s : State) (p) (l) : (s.setLink p l).auditFrozen = s.auditFrozen := rfl
@[simp] theorem State.setLink_obj (s : State) (p) (l) (u0) (u1) : (s.setLink p l).obj u0 u1 = s.obj u0 u1 := rfl
@[simp] theorem State.setLink_tot (s : State) (p) (l) (u0) (u1) : (s.setLink p l).tot u0 u1 = s.tot u0 u1 := rfl
@[simp] theorem State.setLink_block (s : State) (p) (l) (u0) : (s.setLink p l).block u0 = s.block u0 := rfl
@[simp] theorem State.setLink_ctx (s : State) (p) (l) (u0) (u1) : (s.setLink p l).ctx u0 u1 = s.ctx u0 u1 := rfl
@[simp] theorem State.setLink_coreSt (s : State) (p) (l) (u0) : (s.setLink p l).coreSt u0 = s.coreSt u0 := rfl
@[simp] theorem State.setLink_slot (s : State) (p) (l) (u0) : (s.setLink p l).slot u0 = s.slot u0 := rfl
@[simp] theorem State.setLink_fport (s : State) (p) (l) (u0) : (s.setLink p l).fport u0 = s.fport u0 := rfl
@[simp] theorem State.setLink_keySlot (s : State) (p) (l) (u0) : (s.setLink p l).keySlot u0 = s.keySlot u0 := rfl
@[simp] theorem State.setLink_up (s : State) (p) (l) : (s.setLink p l).up = s.up := rfl
@[simp] theorem State.setLink_vigil (s : State) (p) (l) : (s.setLink p l).vigil = s.vigil := rfl
@[simp] theorem State.setLink_fabricOn (s : State) (p) (l) : (s.setLink p l).fabricOn = s.fabricOn := rfl
@[simp] theorem State.setLink_acc (s : State) (p) (l) (u0) (u1) : (s.setLink p l).acc u0 u1 = s.acc u0 u1 := rfl
@[simp] theorem State.setLink_positions (s : State) (p) (l) (u0) : (s.setLink p l).positions u0 = s.positions u0 := rfl
@[simp] theorem State.setLink_slotEn (s : State) (p) (l) (u0) : (s.setLink p l).slotEn u0 = s.slotEn u0 := rfl

/-! ### setObj -/

@[simp] theorem State.setObj_part (s : State) (index) (sub) (v) : (s.setObj index sub v).part = s.part := rfl
@[simp] theorem State.setObj_pending (s : State) (index) (sub) (v) : (s.setObj index sub v).pending = s.pending := rfl
@[simp] theorem State.setObj_cores (s : State) (index) (sub) (v) : (s.setObj index sub v).cores = s.cores := rfl
@[simp] theorem State.setObj_ctxs (s : State) (index) (sub) (v) : (s.setObj index sub v).ctxs = s.ctxs := rfl
@[simp] theorem State.setObj_accs (s : State) (index) (sub) (v) : (s.setObj index sub v).accs = s.accs := rfl
@[simp] theorem State.setObj_srf (s : State) (index) (sub) (v) : (s.setObj index sub v).srf = s.srf := rfl
@[simp] theorem State.setObj_rescale (s : State) (index) (sub) (v) : (s.setObj index sub v).rescale = s.rescale := rfl
@[simp] theorem State.setObj_mem (s : State) (index) (sub) (v) : (s.setObj index sub v).mem = s.mem := rfl
@[simp] theorem State.setObj_unitKey (s : State) (index) (sub) (v) : (s.setObj index sub v).unitKey = s.unitKey := rfl
@[simp] theorem State.setObj_fills (s : State) (index) (sub) (v) : (s.setObj index sub v).fills = s.fills := rfl
@[simp] theorem State.setObj_coreUc (s : State) (index) (sub) (v) : (s.setObj index sub v).coreUc = s.coreUc := rfl
@[simp] theorem State.setObj_unitCode (s : State) (index) (sub) (v) : (s.setObj index sub v).unitCode = s.unitCode := rfl
@[simp] theorem State.setObj_scrubAt (s : State) (index) (sub) (v) : (s.setObj index sub v).scrubAt = s.scrubAt := rfl
@[simp] theorem State.setObj_mcErr (s : State) (index) (sub) (v) : (s.setObj index sub v).mcErr = s.mcErr := rfl
@[simp] theorem State.setObj_unspecCount (s : State) (index) (sub) (v) : (s.setObj index sub v).unspecCount = s.unspecCount := rfl
@[simp] theorem State.setObj_untrained (s : State) (index) (sub) (v) : (s.setObj index sub v).untrained = s.untrained := rfl
@[simp] theorem State.setObj_blocks (s : State) (index) (sub) (v) : (s.setObj index sub v).blocks = s.blocks := rfl
@[simp] theorem State.setObj_octs (s : State) (index) (sub) (v) : (s.setObj index sub v).octs = s.octs := rfl
@[simp] theorem State.setObj_tots (s : State) (index) (sub) (v) : (s.setObj index sub v).tots = s.tots := rfl
@[simp] theorem State.setObj_slots (s : State) (index) (sub) (v) : (s.setObj index sub v).slots = s.slots := rfl
@[simp] theorem State.setObj_group (s : State) (index) (sub) (v) : (s.setObj index sub v).group = s.group := rfl
@[simp] theorem State.setObj_noise (s : State) (index) (sub) (v) : (s.setObj index sub v).noise = s.noise := rfl
@[simp] theorem State.setObj_watch (s : State) (index) (sub) (v) : (s.setObj index sub v).watch = s.watch := rfl
@[simp] theorem State.setObj_watchNew (s : State) (index) (sub) (v) : (s.setObj index sub v).watchNew = s.watchNew := rfl
@[simp] theorem State.setObj_live (s : State) (index) (sub) (v) : (s.setObj index sub v).live = s.live := rfl
@[simp] theorem State.setObj_watchDue (s : State) (index) (sub) (v) : (s.setObj index sub v).watchDue = s.watchDue := rfl
@[simp] theorem State.setObj_fports (s : State) (index) (sub) (v) : (s.setObj index sub v).fports = s.fports := rfl
@[simp] theorem State.setObj_router (s : State) (index) (sub) (v) : (s.setObj index sub v).router = s.router := rfl
@[simp] theorem State.setObj_inbox (s : State) (index) (sub) (v) : (s.setObj index sub v).inbox = s.inbox := rfl
@[simp] theorem State.setObj_almanac (s : State) (index) (sub) (v) : (s.setObj index sub v).almanac = s.almanac := rfl
@[simp] theorem State.setObj_msgTable (s : State) (index) (sub) (v) : (s.setObj index sub v).msgTable = s.msgTable := rfl
@[simp] theorem State.setObj_sent (s : State) (index) (sub) (v) : (s.setObj index sub v).sent = s.sent := rfl
@[simp] theorem State.setObj_msgidNext (s : State) (index) (sub) (v) : (s.setObj index sub v).msgidNext = s.msgidNext := rfl
@[simp] theorem State.setObj_reshards (s : State) (index) (sub) (v) : (s.setObj index sub v).reshards = s.reshards := rfl
@[simp] theorem State.setObj_links (s : State) (index) (sub) (v) : (s.setObj index sub v).links = s.links := rfl
@[simp] theorem State.setObj_sessions (s : State) (index) (sub) (v) : (s.setObj index sub v).sessions = s.sessions := rfl
@[simp] theorem State.setObj_sessionNext (s : State) (index) (sub) (v) : (s.setObj index sub v).sessionNext = s.sessionNext := rfl
@[simp] theorem State.setObj_events (s : State) (index) (sub) (v) : (s.setObj index sub v).events = s.events := rfl
@[simp] theorem State.setObj_eventNext (s : State) (index) (sub) (v) : (s.setObj index sub v).eventNext = s.eventNext := rfl
@[simp] theorem State.setObj_eventsLostSince (s : State) (index) (sub) (v) : (s.setObj index sub v).eventsLostSince = s.eventsLostSince := rfl
@[simp] theorem State.setObj_kept (s : State) (index) (sub) (v) : (s.setObj index sub v).kept = s.kept := rfl
@[simp] theorem State.setObj_xfers (s : State) (index) (sub) (v) : (s.setObj index sub v).xfers = s.xfers := rfl
@[simp] theorem State.setObj_xferNext (s : State) (index) (sub) (v) : (s.setObj index sub v).xferNext = s.xferNext := rfl
@[simp] theorem State.setObj_multi (s : State) (index) (sub) (v) : (s.setObj index sub v).multi = s.multi := rfl
@[simp] theorem State.setObj_heldWrites (s : State) (index) (sub) (v) : (s.setObj index sub v).heldWrites = s.heldWrites := rfl
@[simp] theorem State.setObj_net (s : State) (index) (sub) (v) : (s.setObj index sub v).net = s.net := rfl
@[simp] theorem State.setObj_power (s : State) (index) (sub) (v) : (s.setObj index sub v).power = s.power := rfl
@[simp] theorem State.setObj_boot (s : State) (index) (sub) (v) : (s.setObj index sub v).boot = s.boot := rfl
@[simp] theorem State.setObj_taps (s : State) (index) (sub) (v) : (s.setObj index sub v).taps = s.taps := rfl
@[simp] theorem State.setObj_errors (s : State) (index) (sub) (v) : (s.setObj index sub v).errors = s.errors := rfl
@[simp] theorem State.setObj_security (s : State) (index) (sub) (v) : (s.setObj index sub v).security = s.security := rfl
@[simp] theorem State.setObj_profiles (s : State) (index) (sub) (v) : (s.setObj index sub v).profiles = s.profiles := rfl
@[simp] theorem State.setObj_counters (s : State) (index) (sub) (v) : (s.setObj index sub v).counters = s.counters := rfl
@[simp] theorem State.setObj_auditFrozen (s : State) (index) (sub) (v) : (s.setObj index sub v).auditFrozen = s.auditFrozen := rfl
@[simp] theorem State.setObj_tot (s : State) (index) (sub) (v) (u0) (u1) : (s.setObj index sub v).tot u0 u1 = s.tot u0 u1 := rfl
@[simp] theorem State.setObj_block (s : State) (index) (sub) (v) (u0) : (s.setObj index sub v).block u0 = s.block u0 := rfl
@[simp] theorem State.setObj_ctx (s : State) (index) (sub) (v) (u0) (u1) : (s.setObj index sub v).ctx u0 u1 = s.ctx u0 u1 := rfl
@[simp] theorem State.setObj_coreSt (s : State) (index) (sub) (v) (u0) : (s.setObj index sub v).coreSt u0 = s.coreSt u0 := rfl
@[simp] theorem State.setObj_slot (s : State) (index) (sub) (v) (u0) : (s.setObj index sub v).slot u0 = s.slot u0 := rfl
@[simp] theorem State.setObj_fport (s : State) (index) (sub) (v) (u0) : (s.setObj index sub v).fport u0 = s.fport u0 := rfl
@[simp] theorem State.setObj_keySlot (s : State) (index) (sub) (v) (u0) : (s.setObj index sub v).keySlot u0 = s.keySlot u0 := rfl
@[simp] theorem State.setObj_up (s : State) (index) (sub) (v) : (s.setObj index sub v).up = s.up := rfl
@[simp] theorem State.setObj_vigil (s : State) (index) (sub) (v) : (s.setObj index sub v).vigil = s.vigil := rfl
@[simp] theorem State.setObj_fabricOn (s : State) (index) (sub) (v) : (s.setObj index sub v).fabricOn = s.fabricOn := rfl
@[simp] theorem State.setObj_acc (s : State) (index) (sub) (v) (u0) (u1) : (s.setObj index sub v).acc u0 u1 = s.acc u0 u1 := rfl
@[simp] theorem State.setObj_slotEn (s : State) (index) (sub) (v) (u0) : (s.setObj index sub v).slotEn u0 = s.slotEn u0 := rfl

/-! ### setProfiles -/

@[simp] theorem State.setProfiles_part (s : State) (g) : (s.setProfiles g).part = s.part := rfl
@[simp] theorem State.setProfiles_pending (s : State) (g) : (s.setProfiles g).pending = s.pending := rfl
@[simp] theorem State.setProfiles_cores (s : State) (g) : (s.setProfiles g).cores = s.cores := rfl
@[simp] theorem State.setProfiles_ctxs (s : State) (g) : (s.setProfiles g).ctxs = s.ctxs := rfl
@[simp] theorem State.setProfiles_accs (s : State) (g) : (s.setProfiles g).accs = s.accs := rfl
@[simp] theorem State.setProfiles_srf (s : State) (g) : (s.setProfiles g).srf = s.srf := rfl
@[simp] theorem State.setProfiles_rescale (s : State) (g) : (s.setProfiles g).rescale = s.rescale := rfl
@[simp] theorem State.setProfiles_mem (s : State) (g) : (s.setProfiles g).mem = s.mem := rfl
@[simp] theorem State.setProfiles_unitKey (s : State) (g) : (s.setProfiles g).unitKey = s.unitKey := rfl
@[simp] theorem State.setProfiles_fills (s : State) (g) : (s.setProfiles g).fills = s.fills := rfl
@[simp] theorem State.setProfiles_coreUc (s : State) (g) : (s.setProfiles g).coreUc = s.coreUc := rfl
@[simp] theorem State.setProfiles_unitCode (s : State) (g) : (s.setProfiles g).unitCode = s.unitCode := rfl
@[simp] theorem State.setProfiles_scrubAt (s : State) (g) : (s.setProfiles g).scrubAt = s.scrubAt := rfl
@[simp] theorem State.setProfiles_mcErr (s : State) (g) : (s.setProfiles g).mcErr = s.mcErr := rfl
@[simp] theorem State.setProfiles_unspecCount (s : State) (g) : (s.setProfiles g).unspecCount = s.unspecCount := rfl
@[simp] theorem State.setProfiles_untrained (s : State) (g) : (s.setProfiles g).untrained = s.untrained := rfl
@[simp] theorem State.setProfiles_blocks (s : State) (g) : (s.setProfiles g).blocks = s.blocks := rfl
@[simp] theorem State.setProfiles_objs (s : State) (g) : (s.setProfiles g).objs = s.objs := rfl
@[simp] theorem State.setProfiles_octs (s : State) (g) : (s.setProfiles g).octs = s.octs := rfl
@[simp] theorem State.setProfiles_tots (s : State) (g) : (s.setProfiles g).tots = s.tots := rfl
@[simp] theorem State.setProfiles_slots (s : State) (g) : (s.setProfiles g).slots = s.slots := rfl
@[simp] theorem State.setProfiles_group (s : State) (g) : (s.setProfiles g).group = s.group := rfl
@[simp] theorem State.setProfiles_noise (s : State) (g) : (s.setProfiles g).noise = s.noise := rfl
@[simp] theorem State.setProfiles_watch (s : State) (g) : (s.setProfiles g).watch = s.watch := rfl
@[simp] theorem State.setProfiles_watchNew (s : State) (g) : (s.setProfiles g).watchNew = s.watchNew := rfl
@[simp] theorem State.setProfiles_live (s : State) (g) : (s.setProfiles g).live = s.live := rfl
@[simp] theorem State.setProfiles_watchDue (s : State) (g) : (s.setProfiles g).watchDue = s.watchDue := rfl
@[simp] theorem State.setProfiles_fports (s : State) (g) : (s.setProfiles g).fports = s.fports := rfl
@[simp] theorem State.setProfiles_router (s : State) (g) : (s.setProfiles g).router = s.router := rfl
@[simp] theorem State.setProfiles_inbox (s : State) (g) : (s.setProfiles g).inbox = s.inbox := rfl
@[simp] theorem State.setProfiles_almanac (s : State) (g) : (s.setProfiles g).almanac = s.almanac := rfl
@[simp] theorem State.setProfiles_msgTable (s : State) (g) : (s.setProfiles g).msgTable = s.msgTable := rfl
@[simp] theorem State.setProfiles_sent (s : State) (g) : (s.setProfiles g).sent = s.sent := rfl
@[simp] theorem State.setProfiles_msgidNext (s : State) (g) : (s.setProfiles g).msgidNext = s.msgidNext := rfl
@[simp] theorem State.setProfiles_reshards (s : State) (g) : (s.setProfiles g).reshards = s.reshards := rfl
@[simp] theorem State.setProfiles_links (s : State) (g) : (s.setProfiles g).links = s.links := rfl
@[simp] theorem State.setProfiles_sessions (s : State) (g) : (s.setProfiles g).sessions = s.sessions := rfl
@[simp] theorem State.setProfiles_sessionNext (s : State) (g) : (s.setProfiles g).sessionNext = s.sessionNext := rfl
@[simp] theorem State.setProfiles_events (s : State) (g) : (s.setProfiles g).events = s.events := rfl
@[simp] theorem State.setProfiles_eventNext (s : State) (g) : (s.setProfiles g).eventNext = s.eventNext := rfl
@[simp] theorem State.setProfiles_eventsLostSince (s : State) (g) : (s.setProfiles g).eventsLostSince = s.eventsLostSince := rfl
@[simp] theorem State.setProfiles_kept (s : State) (g) : (s.setProfiles g).kept = s.kept := rfl
@[simp] theorem State.setProfiles_xfers (s : State) (g) : (s.setProfiles g).xfers = s.xfers := rfl
@[simp] theorem State.setProfiles_xferNext (s : State) (g) : (s.setProfiles g).xferNext = s.xferNext := rfl
@[simp] theorem State.setProfiles_multi (s : State) (g) : (s.setProfiles g).multi = s.multi := rfl
@[simp] theorem State.setProfiles_heldWrites (s : State) (g) : (s.setProfiles g).heldWrites = s.heldWrites := rfl
@[simp] theorem State.setProfiles_net (s : State) (g) : (s.setProfiles g).net = s.net := rfl
@[simp] theorem State.setProfiles_power (s : State) (g) : (s.setProfiles g).power = s.power := rfl
@[simp] theorem State.setProfiles_boot (s : State) (g) : (s.setProfiles g).boot = s.boot := rfl
@[simp] theorem State.setProfiles_taps (s : State) (g) : (s.setProfiles g).taps = s.taps := rfl
@[simp] theorem State.setProfiles_errors (s : State) (g) : (s.setProfiles g).errors = s.errors := rfl
@[simp] theorem State.setProfiles_security (s : State) (g) : (s.setProfiles g).security = s.security := rfl
@[simp] theorem State.setProfiles_counters (s : State) (g) : (s.setProfiles g).counters = s.counters := rfl
@[simp] theorem State.setProfiles_auditFrozen (s : State) (g) : (s.setProfiles g).auditFrozen = s.auditFrozen := rfl
@[simp] theorem State.setProfiles_obj (s : State) (g) (u0) (u1) : (s.setProfiles g).obj u0 u1 = s.obj u0 u1 := rfl
@[simp] theorem State.setProfiles_tot (s : State) (g) (u0) (u1) : (s.setProfiles g).tot u0 u1 = s.tot u0 u1 := rfl
@[simp] theorem State.setProfiles_block (s : State) (g) (u0) : (s.setProfiles g).block u0 = s.block u0 := rfl
@[simp] theorem State.setProfiles_ctx (s : State) (g) (u0) (u1) : (s.setProfiles g).ctx u0 u1 = s.ctx u0 u1 := rfl
@[simp] theorem State.setProfiles_coreSt (s : State) (g) (u0) : (s.setProfiles g).coreSt u0 = s.coreSt u0 := rfl
@[simp] theorem State.setProfiles_slot (s : State) (g) (u0) : (s.setProfiles g).slot u0 = s.slot u0 := rfl
@[simp] theorem State.setProfiles_fport (s : State) (g) (u0) : (s.setProfiles g).fport u0 = s.fport u0 := rfl
@[simp] theorem State.setProfiles_keySlot (s : State) (g) (u0) : (s.setProfiles g).keySlot u0 = s.keySlot u0 := rfl
@[simp] theorem State.setProfiles_up (s : State) (g) : (s.setProfiles g).up = s.up := rfl
@[simp] theorem State.setProfiles_vigil (s : State) (g) : (s.setProfiles g).vigil = s.vigil := rfl
@[simp] theorem State.setProfiles_fabricOn (s : State) (g) : (s.setProfiles g).fabricOn = s.fabricOn := rfl
@[simp] theorem State.setProfiles_acc (s : State) (g) (u0) (u1) : (s.setProfiles g).acc u0 u1 = s.acc u0 u1 := rfl
@[simp] theorem State.setProfiles_positions (s : State) (g) (u0) : (s.setProfiles g).positions u0 = s.positions u0 := rfl
@[simp] theorem State.setProfiles_slotEn (s : State) (g) (u0) : (s.setProfiles g).slotEn u0 = s.slotEn u0 := rfl

/-! ### setSec -/

@[simp] theorem State.setSec_part (s : State) (g) : (s.setSec g).part = s.part := rfl
@[simp] theorem State.setSec_pending (s : State) (g) : (s.setSec g).pending = s.pending := rfl
@[simp] theorem State.setSec_cores (s : State) (g) : (s.setSec g).cores = s.cores := rfl
@[simp] theorem State.setSec_ctxs (s : State) (g) : (s.setSec g).ctxs = s.ctxs := rfl
@[simp] theorem State.setSec_accs (s : State) (g) : (s.setSec g).accs = s.accs := rfl
@[simp] theorem State.setSec_srf (s : State) (g) : (s.setSec g).srf = s.srf := rfl
@[simp] theorem State.setSec_rescale (s : State) (g) : (s.setSec g).rescale = s.rescale := rfl
@[simp] theorem State.setSec_mem (s : State) (g) : (s.setSec g).mem = s.mem := rfl
@[simp] theorem State.setSec_unitKey (s : State) (g) : (s.setSec g).unitKey = s.unitKey := rfl
@[simp] theorem State.setSec_fills (s : State) (g) : (s.setSec g).fills = s.fills := rfl
@[simp] theorem State.setSec_coreUc (s : State) (g) : (s.setSec g).coreUc = s.coreUc := rfl
@[simp] theorem State.setSec_unitCode (s : State) (g) : (s.setSec g).unitCode = s.unitCode := rfl
@[simp] theorem State.setSec_scrubAt (s : State) (g) : (s.setSec g).scrubAt = s.scrubAt := rfl
@[simp] theorem State.setSec_mcErr (s : State) (g) : (s.setSec g).mcErr = s.mcErr := rfl
@[simp] theorem State.setSec_unspecCount (s : State) (g) : (s.setSec g).unspecCount = s.unspecCount := rfl
@[simp] theorem State.setSec_untrained (s : State) (g) : (s.setSec g).untrained = s.untrained := rfl
@[simp] theorem State.setSec_blocks (s : State) (g) : (s.setSec g).blocks = s.blocks := rfl
@[simp] theorem State.setSec_objs (s : State) (g) : (s.setSec g).objs = s.objs := rfl
@[simp] theorem State.setSec_octs (s : State) (g) : (s.setSec g).octs = s.octs := rfl
@[simp] theorem State.setSec_tots (s : State) (g) : (s.setSec g).tots = s.tots := rfl
@[simp] theorem State.setSec_slots (s : State) (g) : (s.setSec g).slots = s.slots := rfl
@[simp] theorem State.setSec_group (s : State) (g) : (s.setSec g).group = s.group := rfl
@[simp] theorem State.setSec_noise (s : State) (g) : (s.setSec g).noise = s.noise := rfl
@[simp] theorem State.setSec_watch (s : State) (g) : (s.setSec g).watch = s.watch := rfl
@[simp] theorem State.setSec_watchNew (s : State) (g) : (s.setSec g).watchNew = s.watchNew := rfl
@[simp] theorem State.setSec_live (s : State) (g) : (s.setSec g).live = s.live := rfl
@[simp] theorem State.setSec_watchDue (s : State) (g) : (s.setSec g).watchDue = s.watchDue := rfl
@[simp] theorem State.setSec_fports (s : State) (g) : (s.setSec g).fports = s.fports := rfl
@[simp] theorem State.setSec_router (s : State) (g) : (s.setSec g).router = s.router := rfl
@[simp] theorem State.setSec_inbox (s : State) (g) : (s.setSec g).inbox = s.inbox := rfl
@[simp] theorem State.setSec_almanac (s : State) (g) : (s.setSec g).almanac = s.almanac := rfl
@[simp] theorem State.setSec_msgTable (s : State) (g) : (s.setSec g).msgTable = s.msgTable := rfl
@[simp] theorem State.setSec_sent (s : State) (g) : (s.setSec g).sent = s.sent := rfl
@[simp] theorem State.setSec_msgidNext (s : State) (g) : (s.setSec g).msgidNext = s.msgidNext := rfl
@[simp] theorem State.setSec_reshards (s : State) (g) : (s.setSec g).reshards = s.reshards := rfl
@[simp] theorem State.setSec_links (s : State) (g) : (s.setSec g).links = s.links := rfl
@[simp] theorem State.setSec_sessions (s : State) (g) : (s.setSec g).sessions = s.sessions := rfl
@[simp] theorem State.setSec_sessionNext (s : State) (g) : (s.setSec g).sessionNext = s.sessionNext := rfl
@[simp] theorem State.setSec_events (s : State) (g) : (s.setSec g).events = s.events := rfl
@[simp] theorem State.setSec_eventNext (s : State) (g) : (s.setSec g).eventNext = s.eventNext := rfl
@[simp] theorem State.setSec_eventsLostSince (s : State) (g) : (s.setSec g).eventsLostSince = s.eventsLostSince := rfl
@[simp] theorem State.setSec_kept (s : State) (g) : (s.setSec g).kept = s.kept := rfl
@[simp] theorem State.setSec_xfers (s : State) (g) : (s.setSec g).xfers = s.xfers := rfl
@[simp] theorem State.setSec_xferNext (s : State) (g) : (s.setSec g).xferNext = s.xferNext := rfl
@[simp] theorem State.setSec_multi (s : State) (g) : (s.setSec g).multi = s.multi := rfl
@[simp] theorem State.setSec_heldWrites (s : State) (g) : (s.setSec g).heldWrites = s.heldWrites := rfl
@[simp] theorem State.setSec_net (s : State) (g) : (s.setSec g).net = s.net := rfl
@[simp] theorem State.setSec_power (s : State) (g) : (s.setSec g).power = s.power := rfl
@[simp] theorem State.setSec_boot (s : State) (g) : (s.setSec g).boot = s.boot := rfl
@[simp] theorem State.setSec_taps (s : State) (g) : (s.setSec g).taps = s.taps := rfl
@[simp] theorem State.setSec_errors (s : State) (g) : (s.setSec g).errors = s.errors := rfl
@[simp] theorem State.setSec_profiles (s : State) (g) : (s.setSec g).profiles = s.profiles := rfl
@[simp] theorem State.setSec_counters (s : State) (g) : (s.setSec g).counters = s.counters := rfl
@[simp] theorem State.setSec_auditFrozen (s : State) (g) : (s.setSec g).auditFrozen = s.auditFrozen := rfl
@[simp] theorem State.setSec_obj (s : State) (g) (u0) (u1) : (s.setSec g).obj u0 u1 = s.obj u0 u1 := rfl
@[simp] theorem State.setSec_tot (s : State) (g) (u0) (u1) : (s.setSec g).tot u0 u1 = s.tot u0 u1 := rfl
@[simp] theorem State.setSec_block (s : State) (g) (u0) : (s.setSec g).block u0 = s.block u0 := rfl
@[simp] theorem State.setSec_ctx (s : State) (g) (u0) (u1) : (s.setSec g).ctx u0 u1 = s.ctx u0 u1 := rfl
@[simp] theorem State.setSec_coreSt (s : State) (g) (u0) : (s.setSec g).coreSt u0 = s.coreSt u0 := rfl
@[simp] theorem State.setSec_slot (s : State) (g) (u0) : (s.setSec g).slot u0 = s.slot u0 := rfl
@[simp] theorem State.setSec_fport (s : State) (g) (u0) : (s.setSec g).fport u0 = s.fport u0 := rfl
@[simp] theorem State.setSec_up (s : State) (g) : (s.setSec g).up = s.up := rfl
@[simp] theorem State.setSec_vigil (s : State) (g) : (s.setSec g).vigil = s.vigil := rfl
@[simp] theorem State.setSec_fabricOn (s : State) (g) : (s.setSec g).fabricOn = s.fabricOn := rfl
@[simp] theorem State.setSec_acc (s : State) (g) (u0) (u1) : (s.setSec g).acc u0 u1 = s.acc u0 u1 := rfl
@[simp] theorem State.setSec_positions (s : State) (g) (u0) : (s.setSec g).positions u0 = s.positions u0 := rfl
@[simp] theorem State.setSec_slotEn (s : State) (g) (u0) : (s.setSec g).slotEn u0 = s.slotEn u0 := rfl

/-! ### setBoot -/

@[simp] theorem State.setBoot_part (s : State) (g) : (s.setBoot g).part = s.part := rfl
@[simp] theorem State.setBoot_pending (s : State) (g) : (s.setBoot g).pending = s.pending := rfl
@[simp] theorem State.setBoot_cores (s : State) (g) : (s.setBoot g).cores = s.cores := rfl
@[simp] theorem State.setBoot_ctxs (s : State) (g) : (s.setBoot g).ctxs = s.ctxs := rfl
@[simp] theorem State.setBoot_accs (s : State) (g) : (s.setBoot g).accs = s.accs := rfl
@[simp] theorem State.setBoot_srf (s : State) (g) : (s.setBoot g).srf = s.srf := rfl
@[simp] theorem State.setBoot_rescale (s : State) (g) : (s.setBoot g).rescale = s.rescale := rfl
@[simp] theorem State.setBoot_mem (s : State) (g) : (s.setBoot g).mem = s.mem := rfl
@[simp] theorem State.setBoot_unitKey (s : State) (g) : (s.setBoot g).unitKey = s.unitKey := rfl
@[simp] theorem State.setBoot_fills (s : State) (g) : (s.setBoot g).fills = s.fills := rfl
@[simp] theorem State.setBoot_coreUc (s : State) (g) : (s.setBoot g).coreUc = s.coreUc := rfl
@[simp] theorem State.setBoot_unitCode (s : State) (g) : (s.setBoot g).unitCode = s.unitCode := rfl
@[simp] theorem State.setBoot_scrubAt (s : State) (g) : (s.setBoot g).scrubAt = s.scrubAt := rfl
@[simp] theorem State.setBoot_mcErr (s : State) (g) : (s.setBoot g).mcErr = s.mcErr := rfl
@[simp] theorem State.setBoot_unspecCount (s : State) (g) : (s.setBoot g).unspecCount = s.unspecCount := rfl
@[simp] theorem State.setBoot_untrained (s : State) (g) : (s.setBoot g).untrained = s.untrained := rfl
@[simp] theorem State.setBoot_blocks (s : State) (g) : (s.setBoot g).blocks = s.blocks := rfl
@[simp] theorem State.setBoot_objs (s : State) (g) : (s.setBoot g).objs = s.objs := rfl
@[simp] theorem State.setBoot_octs (s : State) (g) : (s.setBoot g).octs = s.octs := rfl
@[simp] theorem State.setBoot_tots (s : State) (g) : (s.setBoot g).tots = s.tots := rfl
@[simp] theorem State.setBoot_slots (s : State) (g) : (s.setBoot g).slots = s.slots := rfl
@[simp] theorem State.setBoot_group (s : State) (g) : (s.setBoot g).group = s.group := rfl
@[simp] theorem State.setBoot_noise (s : State) (g) : (s.setBoot g).noise = s.noise := rfl
@[simp] theorem State.setBoot_watch (s : State) (g) : (s.setBoot g).watch = s.watch := rfl
@[simp] theorem State.setBoot_watchNew (s : State) (g) : (s.setBoot g).watchNew = s.watchNew := rfl
@[simp] theorem State.setBoot_live (s : State) (g) : (s.setBoot g).live = s.live := rfl
@[simp] theorem State.setBoot_watchDue (s : State) (g) : (s.setBoot g).watchDue = s.watchDue := rfl
@[simp] theorem State.setBoot_fports (s : State) (g) : (s.setBoot g).fports = s.fports := rfl
@[simp] theorem State.setBoot_router (s : State) (g) : (s.setBoot g).router = s.router := rfl
@[simp] theorem State.setBoot_inbox (s : State) (g) : (s.setBoot g).inbox = s.inbox := rfl
@[simp] theorem State.setBoot_almanac (s : State) (g) : (s.setBoot g).almanac = s.almanac := rfl
@[simp] theorem State.setBoot_msgTable (s : State) (g) : (s.setBoot g).msgTable = s.msgTable := rfl
@[simp] theorem State.setBoot_sent (s : State) (g) : (s.setBoot g).sent = s.sent := rfl
@[simp] theorem State.setBoot_msgidNext (s : State) (g) : (s.setBoot g).msgidNext = s.msgidNext := rfl
@[simp] theorem State.setBoot_reshards (s : State) (g) : (s.setBoot g).reshards = s.reshards := rfl
@[simp] theorem State.setBoot_links (s : State) (g) : (s.setBoot g).links = s.links := rfl
@[simp] theorem State.setBoot_sessions (s : State) (g) : (s.setBoot g).sessions = s.sessions := rfl
@[simp] theorem State.setBoot_sessionNext (s : State) (g) : (s.setBoot g).sessionNext = s.sessionNext := rfl
@[simp] theorem State.setBoot_events (s : State) (g) : (s.setBoot g).events = s.events := rfl
@[simp] theorem State.setBoot_eventNext (s : State) (g) : (s.setBoot g).eventNext = s.eventNext := rfl
@[simp] theorem State.setBoot_eventsLostSince (s : State) (g) : (s.setBoot g).eventsLostSince = s.eventsLostSince := rfl
@[simp] theorem State.setBoot_kept (s : State) (g) : (s.setBoot g).kept = s.kept := rfl
@[simp] theorem State.setBoot_xfers (s : State) (g) : (s.setBoot g).xfers = s.xfers := rfl
@[simp] theorem State.setBoot_xferNext (s : State) (g) : (s.setBoot g).xferNext = s.xferNext := rfl
@[simp] theorem State.setBoot_multi (s : State) (g) : (s.setBoot g).multi = s.multi := rfl
@[simp] theorem State.setBoot_heldWrites (s : State) (g) : (s.setBoot g).heldWrites = s.heldWrites := rfl
@[simp] theorem State.setBoot_net (s : State) (g) : (s.setBoot g).net = s.net := rfl
@[simp] theorem State.setBoot_power (s : State) (g) : (s.setBoot g).power = s.power := rfl
@[simp] theorem State.setBoot_taps (s : State) (g) : (s.setBoot g).taps = s.taps := rfl
@[simp] theorem State.setBoot_errors (s : State) (g) : (s.setBoot g).errors = s.errors := rfl
@[simp] theorem State.setBoot_security (s : State) (g) : (s.setBoot g).security = s.security := rfl
@[simp] theorem State.setBoot_profiles (s : State) (g) : (s.setBoot g).profiles = s.profiles := rfl
@[simp] theorem State.setBoot_counters (s : State) (g) : (s.setBoot g).counters = s.counters := rfl
@[simp] theorem State.setBoot_auditFrozen (s : State) (g) : (s.setBoot g).auditFrozen = s.auditFrozen := rfl
@[simp] theorem State.setBoot_obj (s : State) (g) (u0) (u1) : (s.setBoot g).obj u0 u1 = s.obj u0 u1 := rfl
@[simp] theorem State.setBoot_tot (s : State) (g) (u0) (u1) : (s.setBoot g).tot u0 u1 = s.tot u0 u1 := rfl
@[simp] theorem State.setBoot_block (s : State) (g) (u0) : (s.setBoot g).block u0 = s.block u0 := rfl
@[simp] theorem State.setBoot_ctx (s : State) (g) (u0) (u1) : (s.setBoot g).ctx u0 u1 = s.ctx u0 u1 := rfl
@[simp] theorem State.setBoot_coreSt (s : State) (g) (u0) : (s.setBoot g).coreSt u0 = s.coreSt u0 := rfl
@[simp] theorem State.setBoot_slot (s : State) (g) (u0) : (s.setBoot g).slot u0 = s.slot u0 := rfl
@[simp] theorem State.setBoot_fport (s : State) (g) (u0) : (s.setBoot g).fport u0 = s.fport u0 := rfl
@[simp] theorem State.setBoot_keySlot (s : State) (g) (u0) : (s.setBoot g).keySlot u0 = s.keySlot u0 := rfl
@[simp] theorem State.setBoot_acc (s : State) (g) (u0) (u1) : (s.setBoot g).acc u0 u1 = s.acc u0 u1 := rfl
@[simp] theorem State.setBoot_positions (s : State) (g) (u0) : (s.setBoot g).positions u0 = s.positions u0 := rfl
@[simp] theorem State.setBoot_slotEn (s : State) (g) (u0) : (s.setBoot g).slotEn u0 = s.slotEn u0 := rfl

/-! ### setOct -/

@[simp] theorem State.setOct_part (s : State) (index) (sub) (v) : (s.setOct index sub v).part = s.part := rfl
@[simp] theorem State.setOct_pending (s : State) (index) (sub) (v) : (s.setOct index sub v).pending = s.pending := rfl
@[simp] theorem State.setOct_cores (s : State) (index) (sub) (v) : (s.setOct index sub v).cores = s.cores := rfl
@[simp] theorem State.setOct_ctxs (s : State) (index) (sub) (v) : (s.setOct index sub v).ctxs = s.ctxs := rfl
@[simp] theorem State.setOct_accs (s : State) (index) (sub) (v) : (s.setOct index sub v).accs = s.accs := rfl
@[simp] theorem State.setOct_srf (s : State) (index) (sub) (v) : (s.setOct index sub v).srf = s.srf := rfl
@[simp] theorem State.setOct_rescale (s : State) (index) (sub) (v) : (s.setOct index sub v).rescale = s.rescale := rfl
@[simp] theorem State.setOct_mem (s : State) (index) (sub) (v) : (s.setOct index sub v).mem = s.mem := rfl
@[simp] theorem State.setOct_unitKey (s : State) (index) (sub) (v) : (s.setOct index sub v).unitKey = s.unitKey := rfl
@[simp] theorem State.setOct_fills (s : State) (index) (sub) (v) : (s.setOct index sub v).fills = s.fills := rfl
@[simp] theorem State.setOct_coreUc (s : State) (index) (sub) (v) : (s.setOct index sub v).coreUc = s.coreUc := rfl
@[simp] theorem State.setOct_unitCode (s : State) (index) (sub) (v) : (s.setOct index sub v).unitCode = s.unitCode := rfl
@[simp] theorem State.setOct_scrubAt (s : State) (index) (sub) (v) : (s.setOct index sub v).scrubAt = s.scrubAt := rfl
@[simp] theorem State.setOct_mcErr (s : State) (index) (sub) (v) : (s.setOct index sub v).mcErr = s.mcErr := rfl
@[simp] theorem State.setOct_unspecCount (s : State) (index) (sub) (v) : (s.setOct index sub v).unspecCount = s.unspecCount := rfl
@[simp] theorem State.setOct_untrained (s : State) (index) (sub) (v) : (s.setOct index sub v).untrained = s.untrained := rfl
@[simp] theorem State.setOct_blocks (s : State) (index) (sub) (v) : (s.setOct index sub v).blocks = s.blocks := rfl
@[simp] theorem State.setOct_objs (s : State) (index) (sub) (v) : (s.setOct index sub v).objs = s.objs := rfl
@[simp] theorem State.setOct_tots (s : State) (index) (sub) (v) : (s.setOct index sub v).tots = s.tots := rfl
@[simp] theorem State.setOct_slots (s : State) (index) (sub) (v) : (s.setOct index sub v).slots = s.slots := rfl
@[simp] theorem State.setOct_group (s : State) (index) (sub) (v) : (s.setOct index sub v).group = s.group := rfl
@[simp] theorem State.setOct_noise (s : State) (index) (sub) (v) : (s.setOct index sub v).noise = s.noise := rfl
@[simp] theorem State.setOct_watch (s : State) (index) (sub) (v) : (s.setOct index sub v).watch = s.watch := rfl
@[simp] theorem State.setOct_watchNew (s : State) (index) (sub) (v) : (s.setOct index sub v).watchNew = s.watchNew := rfl
@[simp] theorem State.setOct_live (s : State) (index) (sub) (v) : (s.setOct index sub v).live = s.live := rfl
@[simp] theorem State.setOct_watchDue (s : State) (index) (sub) (v) : (s.setOct index sub v).watchDue = s.watchDue := rfl
@[simp] theorem State.setOct_fports (s : State) (index) (sub) (v) : (s.setOct index sub v).fports = s.fports := rfl
@[simp] theorem State.setOct_router (s : State) (index) (sub) (v) : (s.setOct index sub v).router = s.router := rfl
@[simp] theorem State.setOct_inbox (s : State) (index) (sub) (v) : (s.setOct index sub v).inbox = s.inbox := rfl
@[simp] theorem State.setOct_almanac (s : State) (index) (sub) (v) : (s.setOct index sub v).almanac = s.almanac := rfl
@[simp] theorem State.setOct_msgTable (s : State) (index) (sub) (v) : (s.setOct index sub v).msgTable = s.msgTable := rfl
@[simp] theorem State.setOct_sent (s : State) (index) (sub) (v) : (s.setOct index sub v).sent = s.sent := rfl
@[simp] theorem State.setOct_msgidNext (s : State) (index) (sub) (v) : (s.setOct index sub v).msgidNext = s.msgidNext := rfl
@[simp] theorem State.setOct_reshards (s : State) (index) (sub) (v) : (s.setOct index sub v).reshards = s.reshards := rfl
@[simp] theorem State.setOct_links (s : State) (index) (sub) (v) : (s.setOct index sub v).links = s.links := rfl
@[simp] theorem State.setOct_sessions (s : State) (index) (sub) (v) : (s.setOct index sub v).sessions = s.sessions := rfl
@[simp] theorem State.setOct_sessionNext (s : State) (index) (sub) (v) : (s.setOct index sub v).sessionNext = s.sessionNext := rfl
@[simp] theorem State.setOct_events (s : State) (index) (sub) (v) : (s.setOct index sub v).events = s.events := rfl
@[simp] theorem State.setOct_eventNext (s : State) (index) (sub) (v) : (s.setOct index sub v).eventNext = s.eventNext := rfl
@[simp] theorem State.setOct_eventsLostSince (s : State) (index) (sub) (v) : (s.setOct index sub v).eventsLostSince = s.eventsLostSince := rfl
@[simp] theorem State.setOct_kept (s : State) (index) (sub) (v) : (s.setOct index sub v).kept = s.kept := rfl
@[simp] theorem State.setOct_xfers (s : State) (index) (sub) (v) : (s.setOct index sub v).xfers = s.xfers := rfl
@[simp] theorem State.setOct_xferNext (s : State) (index) (sub) (v) : (s.setOct index sub v).xferNext = s.xferNext := rfl
@[simp] theorem State.setOct_multi (s : State) (index) (sub) (v) : (s.setOct index sub v).multi = s.multi := rfl
@[simp] theorem State.setOct_heldWrites (s : State) (index) (sub) (v) : (s.setOct index sub v).heldWrites = s.heldWrites := rfl
@[simp] theorem State.setOct_net (s : State) (index) (sub) (v) : (s.setOct index sub v).net = s.net := rfl
@[simp] theorem State.setOct_power (s : State) (index) (sub) (v) : (s.setOct index sub v).power = s.power := rfl
@[simp] theorem State.setOct_boot (s : State) (index) (sub) (v) : (s.setOct index sub v).boot = s.boot := rfl
@[simp] theorem State.setOct_taps (s : State) (index) (sub) (v) : (s.setOct index sub v).taps = s.taps := rfl
@[simp] theorem State.setOct_errors (s : State) (index) (sub) (v) : (s.setOct index sub v).errors = s.errors := rfl
@[simp] theorem State.setOct_security (s : State) (index) (sub) (v) : (s.setOct index sub v).security = s.security := rfl
@[simp] theorem State.setOct_profiles (s : State) (index) (sub) (v) : (s.setOct index sub v).profiles = s.profiles := rfl
@[simp] theorem State.setOct_counters (s : State) (index) (sub) (v) : (s.setOct index sub v).counters = s.counters := rfl
@[simp] theorem State.setOct_auditFrozen (s : State) (index) (sub) (v) : (s.setOct index sub v).auditFrozen = s.auditFrozen := rfl
@[simp] theorem State.setOct_obj (s : State) (index) (sub) (v) (u0) (u1) : (s.setOct index sub v).obj u0 u1 = s.obj u0 u1 := rfl
@[simp] theorem State.setOct_tot (s : State) (index) (sub) (v) (u0) (u1) : (s.setOct index sub v).tot u0 u1 = s.tot u0 u1 := rfl
@[simp] theorem State.setOct_block (s : State) (index) (sub) (v) (u0) : (s.setOct index sub v).block u0 = s.block u0 := rfl
@[simp] theorem State.setOct_ctx (s : State) (index) (sub) (v) (u0) (u1) : (s.setOct index sub v).ctx u0 u1 = s.ctx u0 u1 := rfl
@[simp] theorem State.setOct_coreSt (s : State) (index) (sub) (v) (u0) : (s.setOct index sub v).coreSt u0 = s.coreSt u0 := rfl
@[simp] theorem State.setOct_slot (s : State) (index) (sub) (v) (u0) : (s.setOct index sub v).slot u0 = s.slot u0 := rfl
@[simp] theorem State.setOct_fport (s : State) (index) (sub) (v) (u0) : (s.setOct index sub v).fport u0 = s.fport u0 := rfl
@[simp] theorem State.setOct_keySlot (s : State) (index) (sub) (v) (u0) : (s.setOct index sub v).keySlot u0 = s.keySlot u0 := rfl
@[simp] theorem State.setOct_up (s : State) (index) (sub) (v) : (s.setOct index sub v).up = s.up := rfl
@[simp] theorem State.setOct_vigil (s : State) (index) (sub) (v) : (s.setOct index sub v).vigil = s.vigil := rfl
@[simp] theorem State.setOct_fabricOn (s : State) (index) (sub) (v) : (s.setOct index sub v).fabricOn = s.fabricOn := rfl
@[simp] theorem State.setOct_acc (s : State) (index) (sub) (v) (u0) (u1) : (s.setOct index sub v).acc u0 u1 = s.acc u0 u1 := rfl
@[simp] theorem State.setOct_positions (s : State) (index) (sub) (v) (u0) : (s.setOct index sub v).positions u0 = s.positions u0 := rfl
@[simp] theorem State.setOct_slotEn (s : State) (index) (sub) (v) (u0) : (s.setOct index sub v).slotEn u0 = s.slotEn u0 := rfl

/-! ### setXfer -/

@[simp] theorem State.setXfer_part (s : State) (x) : (s.setXfer x).part = s.part := rfl
@[simp] theorem State.setXfer_pending (s : State) (x) : (s.setXfer x).pending = s.pending := rfl
@[simp] theorem State.setXfer_cores (s : State) (x) : (s.setXfer x).cores = s.cores := rfl
@[simp] theorem State.setXfer_ctxs (s : State) (x) : (s.setXfer x).ctxs = s.ctxs := rfl
@[simp] theorem State.setXfer_accs (s : State) (x) : (s.setXfer x).accs = s.accs := rfl
@[simp] theorem State.setXfer_srf (s : State) (x) : (s.setXfer x).srf = s.srf := rfl
@[simp] theorem State.setXfer_rescale (s : State) (x) : (s.setXfer x).rescale = s.rescale := rfl
@[simp] theorem State.setXfer_mem (s : State) (x) : (s.setXfer x).mem = s.mem := rfl
@[simp] theorem State.setXfer_unitKey (s : State) (x) : (s.setXfer x).unitKey = s.unitKey := rfl
@[simp] theorem State.setXfer_fills (s : State) (x) : (s.setXfer x).fills = s.fills := rfl
@[simp] theorem State.setXfer_coreUc (s : State) (x) : (s.setXfer x).coreUc = s.coreUc := rfl
@[simp] theorem State.setXfer_unitCode (s : State) (x) : (s.setXfer x).unitCode = s.unitCode := rfl
@[simp] theorem State.setXfer_scrubAt (s : State) (x) : (s.setXfer x).scrubAt = s.scrubAt := rfl
@[simp] theorem State.setXfer_mcErr (s : State) (x) : (s.setXfer x).mcErr = s.mcErr := rfl
@[simp] theorem State.setXfer_unspecCount (s : State) (x) : (s.setXfer x).unspecCount = s.unspecCount := rfl
@[simp] theorem State.setXfer_untrained (s : State) (x) : (s.setXfer x).untrained = s.untrained := rfl
@[simp] theorem State.setXfer_blocks (s : State) (x) : (s.setXfer x).blocks = s.blocks := rfl
@[simp] theorem State.setXfer_objs (s : State) (x) : (s.setXfer x).objs = s.objs := rfl
@[simp] theorem State.setXfer_octs (s : State) (x) : (s.setXfer x).octs = s.octs := rfl
@[simp] theorem State.setXfer_tots (s : State) (x) : (s.setXfer x).tots = s.tots := rfl
@[simp] theorem State.setXfer_slots (s : State) (x) : (s.setXfer x).slots = s.slots := rfl
@[simp] theorem State.setXfer_group (s : State) (x) : (s.setXfer x).group = s.group := rfl
@[simp] theorem State.setXfer_noise (s : State) (x) : (s.setXfer x).noise = s.noise := rfl
@[simp] theorem State.setXfer_watch (s : State) (x) : (s.setXfer x).watch = s.watch := rfl
@[simp] theorem State.setXfer_watchNew (s : State) (x) : (s.setXfer x).watchNew = s.watchNew := rfl
@[simp] theorem State.setXfer_live (s : State) (x) : (s.setXfer x).live = s.live := rfl
@[simp] theorem State.setXfer_watchDue (s : State) (x) : (s.setXfer x).watchDue = s.watchDue := rfl
@[simp] theorem State.setXfer_fports (s : State) (x) : (s.setXfer x).fports = s.fports := rfl
@[simp] theorem State.setXfer_router (s : State) (x) : (s.setXfer x).router = s.router := rfl
@[simp] theorem State.setXfer_inbox (s : State) (x) : (s.setXfer x).inbox = s.inbox := rfl
@[simp] theorem State.setXfer_almanac (s : State) (x) : (s.setXfer x).almanac = s.almanac := rfl
@[simp] theorem State.setXfer_msgTable (s : State) (x) : (s.setXfer x).msgTable = s.msgTable := rfl
@[simp] theorem State.setXfer_sent (s : State) (x) : (s.setXfer x).sent = s.sent := rfl
@[simp] theorem State.setXfer_msgidNext (s : State) (x) : (s.setXfer x).msgidNext = s.msgidNext := rfl
@[simp] theorem State.setXfer_reshards (s : State) (x) : (s.setXfer x).reshards = s.reshards := rfl
@[simp] theorem State.setXfer_links (s : State) (x) : (s.setXfer x).links = s.links := rfl
@[simp] theorem State.setXfer_sessions (s : State) (x) : (s.setXfer x).sessions = s.sessions := rfl
@[simp] theorem State.setXfer_sessionNext (s : State) (x) : (s.setXfer x).sessionNext = s.sessionNext := rfl
@[simp] theorem State.setXfer_events (s : State) (x) : (s.setXfer x).events = s.events := rfl
@[simp] theorem State.setXfer_eventNext (s : State) (x) : (s.setXfer x).eventNext = s.eventNext := rfl
@[simp] theorem State.setXfer_eventsLostSince (s : State) (x) : (s.setXfer x).eventsLostSince = s.eventsLostSince := rfl
@[simp] theorem State.setXfer_kept (s : State) (x) : (s.setXfer x).kept = s.kept := rfl
@[simp] theorem State.setXfer_xferNext (s : State) (x) : (s.setXfer x).xferNext = s.xferNext := rfl
@[simp] theorem State.setXfer_multi (s : State) (x) : (s.setXfer x).multi = s.multi := rfl
@[simp] theorem State.setXfer_heldWrites (s : State) (x) : (s.setXfer x).heldWrites = s.heldWrites := rfl
@[simp] theorem State.setXfer_net (s : State) (x) : (s.setXfer x).net = s.net := rfl
@[simp] theorem State.setXfer_power (s : State) (x) : (s.setXfer x).power = s.power := rfl
@[simp] theorem State.setXfer_boot (s : State) (x) : (s.setXfer x).boot = s.boot := rfl
@[simp] theorem State.setXfer_taps (s : State) (x) : (s.setXfer x).taps = s.taps := rfl
@[simp] theorem State.setXfer_errors (s : State) (x) : (s.setXfer x).errors = s.errors := rfl
@[simp] theorem State.setXfer_security (s : State) (x) : (s.setXfer x).security = s.security := rfl
@[simp] theorem State.setXfer_profiles (s : State) (x) : (s.setXfer x).profiles = s.profiles := rfl
@[simp] theorem State.setXfer_counters (s : State) (x) : (s.setXfer x).counters = s.counters := rfl
@[simp] theorem State.setXfer_auditFrozen (s : State) (x) : (s.setXfer x).auditFrozen = s.auditFrozen := rfl
@[simp] theorem State.setXfer_obj (s : State) (x) (u0) (u1) : (s.setXfer x).obj u0 u1 = s.obj u0 u1 := rfl
@[simp] theorem State.setXfer_tot (s : State) (x) (u0) (u1) : (s.setXfer x).tot u0 u1 = s.tot u0 u1 := rfl
@[simp] theorem State.setXfer_block (s : State) (x) (u0) : (s.setXfer x).block u0 = s.block u0 := rfl
@[simp] theorem State.setXfer_ctx (s : State) (x) (u0) (u1) : (s.setXfer x).ctx u0 u1 = s.ctx u0 u1 := rfl
@[simp] theorem State.setXfer_coreSt (s : State) (x) (u0) : (s.setXfer x).coreSt u0 = s.coreSt u0 := rfl
@[simp] theorem State.setXfer_slot (s : State) (x) (u0) : (s.setXfer x).slot u0 = s.slot u0 := rfl
@[simp] theorem State.setXfer_fport (s : State) (x) (u0) : (s.setXfer x).fport u0 = s.fport u0 := rfl
@[simp] theorem State.setXfer_keySlot (s : State) (x) (u0) : (s.setXfer x).keySlot u0 = s.keySlot u0 := rfl
@[simp] theorem State.setXfer_up (s : State) (x) : (s.setXfer x).up = s.up := rfl
@[simp] theorem State.setXfer_vigil (s : State) (x) : (s.setXfer x).vigil = s.vigil := rfl
@[simp] theorem State.setXfer_fabricOn (s : State) (x) : (s.setXfer x).fabricOn = s.fabricOn := rfl
@[simp] theorem State.setXfer_acc (s : State) (x) (u0) (u1) : (s.setXfer x).acc u0 u1 = s.acc u0 u1 := rfl
@[simp] theorem State.setXfer_positions (s : State) (x) (u0) : (s.setXfer x).positions u0 = s.positions u0 := rfl
@[simp] theorem State.setXfer_slotEn (s : State) (x) (u0) : (s.setXfer x).slotEn u0 = s.slotEn u0 := rfl

/-! ### setReshard -/

@[simp] theorem State.setReshard_part (s : State) (r) : (s.setReshard r).part = s.part := rfl
@[simp] theorem State.setReshard_pending (s : State) (r) : (s.setReshard r).pending = s.pending := rfl
@[simp] theorem State.setReshard_cores (s : State) (r) : (s.setReshard r).cores = s.cores := rfl
@[simp] theorem State.setReshard_ctxs (s : State) (r) : (s.setReshard r).ctxs = s.ctxs := rfl
@[simp] theorem State.setReshard_accs (s : State) (r) : (s.setReshard r).accs = s.accs := rfl
@[simp] theorem State.setReshard_srf (s : State) (r) : (s.setReshard r).srf = s.srf := rfl
@[simp] theorem State.setReshard_rescale (s : State) (r) : (s.setReshard r).rescale = s.rescale := rfl
@[simp] theorem State.setReshard_mem (s : State) (r) : (s.setReshard r).mem = s.mem := rfl
@[simp] theorem State.setReshard_unitKey (s : State) (r) : (s.setReshard r).unitKey = s.unitKey := rfl
@[simp] theorem State.setReshard_fills (s : State) (r) : (s.setReshard r).fills = s.fills := rfl
@[simp] theorem State.setReshard_coreUc (s : State) (r) : (s.setReshard r).coreUc = s.coreUc := rfl
@[simp] theorem State.setReshard_unitCode (s : State) (r) : (s.setReshard r).unitCode = s.unitCode := rfl
@[simp] theorem State.setReshard_scrubAt (s : State) (r) : (s.setReshard r).scrubAt = s.scrubAt := rfl
@[simp] theorem State.setReshard_mcErr (s : State) (r) : (s.setReshard r).mcErr = s.mcErr := rfl
@[simp] theorem State.setReshard_unspecCount (s : State) (r) : (s.setReshard r).unspecCount = s.unspecCount := rfl
@[simp] theorem State.setReshard_untrained (s : State) (r) : (s.setReshard r).untrained = s.untrained := rfl
@[simp] theorem State.setReshard_blocks (s : State) (r) : (s.setReshard r).blocks = s.blocks := rfl
@[simp] theorem State.setReshard_objs (s : State) (r) : (s.setReshard r).objs = s.objs := rfl
@[simp] theorem State.setReshard_octs (s : State) (r) : (s.setReshard r).octs = s.octs := rfl
@[simp] theorem State.setReshard_tots (s : State) (r) : (s.setReshard r).tots = s.tots := rfl
@[simp] theorem State.setReshard_slots (s : State) (r) : (s.setReshard r).slots = s.slots := rfl
@[simp] theorem State.setReshard_group (s : State) (r) : (s.setReshard r).group = s.group := rfl
@[simp] theorem State.setReshard_noise (s : State) (r) : (s.setReshard r).noise = s.noise := rfl
@[simp] theorem State.setReshard_watch (s : State) (r) : (s.setReshard r).watch = s.watch := rfl
@[simp] theorem State.setReshard_watchNew (s : State) (r) : (s.setReshard r).watchNew = s.watchNew := rfl
@[simp] theorem State.setReshard_live (s : State) (r) : (s.setReshard r).live = s.live := rfl
@[simp] theorem State.setReshard_watchDue (s : State) (r) : (s.setReshard r).watchDue = s.watchDue := rfl
@[simp] theorem State.setReshard_fports (s : State) (r) : (s.setReshard r).fports = s.fports := rfl
@[simp] theorem State.setReshard_router (s : State) (r) : (s.setReshard r).router = s.router := rfl
@[simp] theorem State.setReshard_inbox (s : State) (r) : (s.setReshard r).inbox = s.inbox := rfl
@[simp] theorem State.setReshard_almanac (s : State) (r) : (s.setReshard r).almanac = s.almanac := rfl
@[simp] theorem State.setReshard_msgTable (s : State) (r) : (s.setReshard r).msgTable = s.msgTable := rfl
@[simp] theorem State.setReshard_sent (s : State) (r) : (s.setReshard r).sent = s.sent := rfl
@[simp] theorem State.setReshard_msgidNext (s : State) (r) : (s.setReshard r).msgidNext = s.msgidNext := rfl
@[simp] theorem State.setReshard_links (s : State) (r) : (s.setReshard r).links = s.links := rfl
@[simp] theorem State.setReshard_sessions (s : State) (r) : (s.setReshard r).sessions = s.sessions := rfl
@[simp] theorem State.setReshard_sessionNext (s : State) (r) : (s.setReshard r).sessionNext = s.sessionNext := rfl
@[simp] theorem State.setReshard_events (s : State) (r) : (s.setReshard r).events = s.events := rfl
@[simp] theorem State.setReshard_eventNext (s : State) (r) : (s.setReshard r).eventNext = s.eventNext := rfl
@[simp] theorem State.setReshard_eventsLostSince (s : State) (r) : (s.setReshard r).eventsLostSince = s.eventsLostSince := rfl
@[simp] theorem State.setReshard_kept (s : State) (r) : (s.setReshard r).kept = s.kept := rfl
@[simp] theorem State.setReshard_xfers (s : State) (r) : (s.setReshard r).xfers = s.xfers := rfl
@[simp] theorem State.setReshard_xferNext (s : State) (r) : (s.setReshard r).xferNext = s.xferNext := rfl
@[simp] theorem State.setReshard_multi (s : State) (r) : (s.setReshard r).multi = s.multi := rfl
@[simp] theorem State.setReshard_heldWrites (s : State) (r) : (s.setReshard r).heldWrites = s.heldWrites := rfl
@[simp] theorem State.setReshard_net (s : State) (r) : (s.setReshard r).net = s.net := rfl
@[simp] theorem State.setReshard_power (s : State) (r) : (s.setReshard r).power = s.power := rfl
@[simp] theorem State.setReshard_boot (s : State) (r) : (s.setReshard r).boot = s.boot := rfl
@[simp] theorem State.setReshard_taps (s : State) (r) : (s.setReshard r).taps = s.taps := rfl
@[simp] theorem State.setReshard_errors (s : State) (r) : (s.setReshard r).errors = s.errors := rfl
@[simp] theorem State.setReshard_security (s : State) (r) : (s.setReshard r).security = s.security := rfl
@[simp] theorem State.setReshard_profiles (s : State) (r) : (s.setReshard r).profiles = s.profiles := rfl
@[simp] theorem State.setReshard_counters (s : State) (r) : (s.setReshard r).counters = s.counters := rfl
@[simp] theorem State.setReshard_auditFrozen (s : State) (r) : (s.setReshard r).auditFrozen = s.auditFrozen := rfl
@[simp] theorem State.setReshard_obj (s : State) (r) (u0) (u1) : (s.setReshard r).obj u0 u1 = s.obj u0 u1 := rfl
@[simp] theorem State.setReshard_tot (s : State) (r) (u0) (u1) : (s.setReshard r).tot u0 u1 = s.tot u0 u1 := rfl
@[simp] theorem State.setReshard_block (s : State) (r) (u0) : (s.setReshard r).block u0 = s.block u0 := rfl
@[simp] theorem State.setReshard_ctx (s : State) (r) (u0) (u1) : (s.setReshard r).ctx u0 u1 = s.ctx u0 u1 := rfl
@[simp] theorem State.setReshard_coreSt (s : State) (r) (u0) : (s.setReshard r).coreSt u0 = s.coreSt u0 := rfl
@[simp] theorem State.setReshard_slot (s : State) (r) (u0) : (s.setReshard r).slot u0 = s.slot u0 := rfl
@[simp] theorem State.setReshard_fport (s : State) (r) (u0) : (s.setReshard r).fport u0 = s.fport u0 := rfl
@[simp] theorem State.setReshard_keySlot (s : State) (r) (u0) : (s.setReshard r).keySlot u0 = s.keySlot u0 := rfl
@[simp] theorem State.setReshard_up (s : State) (r) : (s.setReshard r).up = s.up := rfl
@[simp] theorem State.setReshard_vigil (s : State) (r) : (s.setReshard r).vigil = s.vigil := rfl
@[simp] theorem State.setReshard_fabricOn (s : State) (r) : (s.setReshard r).fabricOn = s.fabricOn := rfl
@[simp] theorem State.setReshard_acc (s : State) (r) (u0) (u1) : (s.setReshard r).acc u0 u1 = s.acc u0 u1 := rfl
@[simp] theorem State.setReshard_positions (s : State) (r) (u0) : (s.setReshard r).positions u0 = s.positions u0 := rfl
@[simp] theorem State.setReshard_slotEn (s : State) (r) (u0) : (s.setReshard r).slotEn u0 = s.slotEn u0 := rfl

/-! ### setTot -/

@[simp] theorem State.setTot_part (s : State) (index) (sub) (v) : (s.setTot index sub v).part = s.part := rfl
@[simp] theorem State.setTot_pending (s : State) (index) (sub) (v) : (s.setTot index sub v).pending = s.pending := rfl
@[simp] theorem State.setTot_cores (s : State) (index) (sub) (v) : (s.setTot index sub v).cores = s.cores := rfl
@[simp] theorem State.setTot_ctxs (s : State) (index) (sub) (v) : (s.setTot index sub v).ctxs = s.ctxs := rfl
@[simp] theorem State.setTot_accs (s : State) (index) (sub) (v) : (s.setTot index sub v).accs = s.accs := rfl
@[simp] theorem State.setTot_srf (s : State) (index) (sub) (v) : (s.setTot index sub v).srf = s.srf := rfl
@[simp] theorem State.setTot_rescale (s : State) (index) (sub) (v) : (s.setTot index sub v).rescale = s.rescale := rfl
@[simp] theorem State.setTot_mem (s : State) (index) (sub) (v) : (s.setTot index sub v).mem = s.mem := rfl
@[simp] theorem State.setTot_unitKey (s : State) (index) (sub) (v) : (s.setTot index sub v).unitKey = s.unitKey := rfl
@[simp] theorem State.setTot_fills (s : State) (index) (sub) (v) : (s.setTot index sub v).fills = s.fills := rfl
@[simp] theorem State.setTot_coreUc (s : State) (index) (sub) (v) : (s.setTot index sub v).coreUc = s.coreUc := rfl
@[simp] theorem State.setTot_unitCode (s : State) (index) (sub) (v) : (s.setTot index sub v).unitCode = s.unitCode := rfl
@[simp] theorem State.setTot_scrubAt (s : State) (index) (sub) (v) : (s.setTot index sub v).scrubAt = s.scrubAt := rfl
@[simp] theorem State.setTot_mcErr (s : State) (index) (sub) (v) : (s.setTot index sub v).mcErr = s.mcErr := rfl
@[simp] theorem State.setTot_unspecCount (s : State) (index) (sub) (v) : (s.setTot index sub v).unspecCount = s.unspecCount := rfl
@[simp] theorem State.setTot_untrained (s : State) (index) (sub) (v) : (s.setTot index sub v).untrained = s.untrained := rfl
@[simp] theorem State.setTot_blocks (s : State) (index) (sub) (v) : (s.setTot index sub v).blocks = s.blocks := rfl
@[simp] theorem State.setTot_objs (s : State) (index) (sub) (v) : (s.setTot index sub v).objs = s.objs := rfl
@[simp] theorem State.setTot_octs (s : State) (index) (sub) (v) : (s.setTot index sub v).octs = s.octs := rfl
@[simp] theorem State.setTot_slots (s : State) (index) (sub) (v) : (s.setTot index sub v).slots = s.slots := rfl
@[simp] theorem State.setTot_group (s : State) (index) (sub) (v) : (s.setTot index sub v).group = s.group := rfl
@[simp] theorem State.setTot_noise (s : State) (index) (sub) (v) : (s.setTot index sub v).noise = s.noise := rfl
@[simp] theorem State.setTot_watch (s : State) (index) (sub) (v) : (s.setTot index sub v).watch = s.watch := rfl
@[simp] theorem State.setTot_watchNew (s : State) (index) (sub) (v) : (s.setTot index sub v).watchNew = s.watchNew := rfl
@[simp] theorem State.setTot_live (s : State) (index) (sub) (v) : (s.setTot index sub v).live = s.live := rfl
@[simp] theorem State.setTot_watchDue (s : State) (index) (sub) (v) : (s.setTot index sub v).watchDue = s.watchDue := rfl
@[simp] theorem State.setTot_fports (s : State) (index) (sub) (v) : (s.setTot index sub v).fports = s.fports := rfl
@[simp] theorem State.setTot_router (s : State) (index) (sub) (v) : (s.setTot index sub v).router = s.router := rfl
@[simp] theorem State.setTot_inbox (s : State) (index) (sub) (v) : (s.setTot index sub v).inbox = s.inbox := rfl
@[simp] theorem State.setTot_almanac (s : State) (index) (sub) (v) : (s.setTot index sub v).almanac = s.almanac := rfl
@[simp] theorem State.setTot_msgTable (s : State) (index) (sub) (v) : (s.setTot index sub v).msgTable = s.msgTable := rfl
@[simp] theorem State.setTot_sent (s : State) (index) (sub) (v) : (s.setTot index sub v).sent = s.sent := rfl
@[simp] theorem State.setTot_msgidNext (s : State) (index) (sub) (v) : (s.setTot index sub v).msgidNext = s.msgidNext := rfl
@[simp] theorem State.setTot_reshards (s : State) (index) (sub) (v) : (s.setTot index sub v).reshards = s.reshards := rfl
@[simp] theorem State.setTot_links (s : State) (index) (sub) (v) : (s.setTot index sub v).links = s.links := rfl
@[simp] theorem State.setTot_sessions (s : State) (index) (sub) (v) : (s.setTot index sub v).sessions = s.sessions := rfl
@[simp] theorem State.setTot_sessionNext (s : State) (index) (sub) (v) : (s.setTot index sub v).sessionNext = s.sessionNext := rfl
@[simp] theorem State.setTot_events (s : State) (index) (sub) (v) : (s.setTot index sub v).events = s.events := rfl
@[simp] theorem State.setTot_eventNext (s : State) (index) (sub) (v) : (s.setTot index sub v).eventNext = s.eventNext := rfl
@[simp] theorem State.setTot_eventsLostSince (s : State) (index) (sub) (v) : (s.setTot index sub v).eventsLostSince = s.eventsLostSince := rfl
@[simp] theorem State.setTot_kept (s : State) (index) (sub) (v) : (s.setTot index sub v).kept = s.kept := rfl
@[simp] theorem State.setTot_xfers (s : State) (index) (sub) (v) : (s.setTot index sub v).xfers = s.xfers := rfl
@[simp] theorem State.setTot_xferNext (s : State) (index) (sub) (v) : (s.setTot index sub v).xferNext = s.xferNext := rfl
@[simp] theorem State.setTot_multi (s : State) (index) (sub) (v) : (s.setTot index sub v).multi = s.multi := rfl
@[simp] theorem State.setTot_heldWrites (s : State) (index) (sub) (v) : (s.setTot index sub v).heldWrites = s.heldWrites := rfl
@[simp] theorem State.setTot_net (s : State) (index) (sub) (v) : (s.setTot index sub v).net = s.net := rfl
@[simp] theorem State.setTot_power (s : State) (index) (sub) (v) : (s.setTot index sub v).power = s.power := rfl
@[simp] theorem State.setTot_boot (s : State) (index) (sub) (v) : (s.setTot index sub v).boot = s.boot := rfl
@[simp] theorem State.setTot_taps (s : State) (index) (sub) (v) : (s.setTot index sub v).taps = s.taps := rfl
@[simp] theorem State.setTot_errors (s : State) (index) (sub) (v) : (s.setTot index sub v).errors = s.errors := rfl
@[simp] theorem State.setTot_security (s : State) (index) (sub) (v) : (s.setTot index sub v).security = s.security := rfl
@[simp] theorem State.setTot_profiles (s : State) (index) (sub) (v) : (s.setTot index sub v).profiles = s.profiles := rfl
@[simp] theorem State.setTot_counters (s : State) (index) (sub) (v) : (s.setTot index sub v).counters = s.counters := rfl
@[simp] theorem State.setTot_auditFrozen (s : State) (index) (sub) (v) : (s.setTot index sub v).auditFrozen = s.auditFrozen := rfl
@[simp] theorem State.setTot_obj (s : State) (index) (sub) (v) (u0) (u1) : (s.setTot index sub v).obj u0 u1 = s.obj u0 u1 := rfl
@[simp] theorem State.setTot_block (s : State) (index) (sub) (v) (u0) : (s.setTot index sub v).block u0 = s.block u0 := rfl
@[simp] theorem State.setTot_ctx (s : State) (index) (sub) (v) (u0) (u1) : (s.setTot index sub v).ctx u0 u1 = s.ctx u0 u1 := rfl
@[simp] theorem State.setTot_coreSt (s : State) (index) (sub) (v) (u0) : (s.setTot index sub v).coreSt u0 = s.coreSt u0 := rfl
@[simp] theorem State.setTot_slot (s : State) (index) (sub) (v) (u0) : (s.setTot index sub v).slot u0 = s.slot u0 := rfl
@[simp] theorem State.setTot_fport (s : State) (index) (sub) (v) (u0) : (s.setTot index sub v).fport u0 = s.fport u0 := rfl
@[simp] theorem State.setTot_keySlot (s : State) (index) (sub) (v) (u0) : (s.setTot index sub v).keySlot u0 = s.keySlot u0 := rfl
@[simp] theorem State.setTot_up (s : State) (index) (sub) (v) : (s.setTot index sub v).up = s.up := rfl
@[simp] theorem State.setTot_vigil (s : State) (index) (sub) (v) : (s.setTot index sub v).vigil = s.vigil := rfl
@[simp] theorem State.setTot_fabricOn (s : State) (index) (sub) (v) : (s.setTot index sub v).fabricOn = s.fabricOn := rfl
@[simp] theorem State.setTot_acc (s : State) (index) (sub) (v) (u0) (u1) : (s.setTot index sub v).acc u0 u1 = s.acc u0 u1 := rfl
@[simp] theorem State.setTot_positions (s : State) (index) (sub) (v) (u0) : (s.setTot index sub v).positions u0 = s.positions u0 := rfl
@[simp] theorem State.setTot_slotEn (s : State) (index) (sub) (v) (u0) : (s.setTot index sub v).slotEn u0 = s.slotEn u0 := rfl

/-! ### setTap -/

@[simp] theorem State.setTap_part (s : State) (d) (t) : (s.setTap d t).part = s.part := rfl
@[simp] theorem State.setTap_pending (s : State) (d) (t) : (s.setTap d t).pending = s.pending := rfl
@[simp] theorem State.setTap_cores (s : State) (d) (t) : (s.setTap d t).cores = s.cores := rfl
@[simp] theorem State.setTap_ctxs (s : State) (d) (t) : (s.setTap d t).ctxs = s.ctxs := rfl
@[simp] theorem State.setTap_accs (s : State) (d) (t) : (s.setTap d t).accs = s.accs := rfl
@[simp] theorem State.setTap_srf (s : State) (d) (t) : (s.setTap d t).srf = s.srf := rfl
@[simp] theorem State.setTap_rescale (s : State) (d) (t) : (s.setTap d t).rescale = s.rescale := rfl
@[simp] theorem State.setTap_mem (s : State) (d) (t) : (s.setTap d t).mem = s.mem := rfl
@[simp] theorem State.setTap_unitKey (s : State) (d) (t) : (s.setTap d t).unitKey = s.unitKey := rfl
@[simp] theorem State.setTap_fills (s : State) (d) (t) : (s.setTap d t).fills = s.fills := rfl
@[simp] theorem State.setTap_coreUc (s : State) (d) (t) : (s.setTap d t).coreUc = s.coreUc := rfl
@[simp] theorem State.setTap_unitCode (s : State) (d) (t) : (s.setTap d t).unitCode = s.unitCode := rfl
@[simp] theorem State.setTap_scrubAt (s : State) (d) (t) : (s.setTap d t).scrubAt = s.scrubAt := rfl
@[simp] theorem State.setTap_mcErr (s : State) (d) (t) : (s.setTap d t).mcErr = s.mcErr := rfl
@[simp] theorem State.setTap_unspecCount (s : State) (d) (t) : (s.setTap d t).unspecCount = s.unspecCount := rfl
@[simp] theorem State.setTap_untrained (s : State) (d) (t) : (s.setTap d t).untrained = s.untrained := rfl
@[simp] theorem State.setTap_blocks (s : State) (d) (t) : (s.setTap d t).blocks = s.blocks := rfl
@[simp] theorem State.setTap_objs (s : State) (d) (t) : (s.setTap d t).objs = s.objs := rfl
@[simp] theorem State.setTap_octs (s : State) (d) (t) : (s.setTap d t).octs = s.octs := rfl
@[simp] theorem State.setTap_tots (s : State) (d) (t) : (s.setTap d t).tots = s.tots := rfl
@[simp] theorem State.setTap_slots (s : State) (d) (t) : (s.setTap d t).slots = s.slots := rfl
@[simp] theorem State.setTap_group (s : State) (d) (t) : (s.setTap d t).group = s.group := rfl
@[simp] theorem State.setTap_noise (s : State) (d) (t) : (s.setTap d t).noise = s.noise := rfl
@[simp] theorem State.setTap_watch (s : State) (d) (t) : (s.setTap d t).watch = s.watch := rfl
@[simp] theorem State.setTap_watchNew (s : State) (d) (t) : (s.setTap d t).watchNew = s.watchNew := rfl
@[simp] theorem State.setTap_live (s : State) (d) (t) : (s.setTap d t).live = s.live := rfl
@[simp] theorem State.setTap_watchDue (s : State) (d) (t) : (s.setTap d t).watchDue = s.watchDue := rfl
@[simp] theorem State.setTap_fports (s : State) (d) (t) : (s.setTap d t).fports = s.fports := rfl
@[simp] theorem State.setTap_router (s : State) (d) (t) : (s.setTap d t).router = s.router := rfl
@[simp] theorem State.setTap_inbox (s : State) (d) (t) : (s.setTap d t).inbox = s.inbox := rfl
@[simp] theorem State.setTap_almanac (s : State) (d) (t) : (s.setTap d t).almanac = s.almanac := rfl
@[simp] theorem State.setTap_msgTable (s : State) (d) (t) : (s.setTap d t).msgTable = s.msgTable := rfl
@[simp] theorem State.setTap_sent (s : State) (d) (t) : (s.setTap d t).sent = s.sent := rfl
@[simp] theorem State.setTap_msgidNext (s : State) (d) (t) : (s.setTap d t).msgidNext = s.msgidNext := rfl
@[simp] theorem State.setTap_reshards (s : State) (d) (t) : (s.setTap d t).reshards = s.reshards := rfl
@[simp] theorem State.setTap_links (s : State) (d) (t) : (s.setTap d t).links = s.links := rfl
@[simp] theorem State.setTap_sessions (s : State) (d) (t) : (s.setTap d t).sessions = s.sessions := rfl
@[simp] theorem State.setTap_sessionNext (s : State) (d) (t) : (s.setTap d t).sessionNext = s.sessionNext := rfl
@[simp] theorem State.setTap_events (s : State) (d) (t) : (s.setTap d t).events = s.events := rfl
@[simp] theorem State.setTap_eventNext (s : State) (d) (t) : (s.setTap d t).eventNext = s.eventNext := rfl
@[simp] theorem State.setTap_eventsLostSince (s : State) (d) (t) : (s.setTap d t).eventsLostSince = s.eventsLostSince := rfl
@[simp] theorem State.setTap_kept (s : State) (d) (t) : (s.setTap d t).kept = s.kept := rfl
@[simp] theorem State.setTap_xfers (s : State) (d) (t) : (s.setTap d t).xfers = s.xfers := rfl
@[simp] theorem State.setTap_xferNext (s : State) (d) (t) : (s.setTap d t).xferNext = s.xferNext := rfl
@[simp] theorem State.setTap_multi (s : State) (d) (t) : (s.setTap d t).multi = s.multi := rfl
@[simp] theorem State.setTap_heldWrites (s : State) (d) (t) : (s.setTap d t).heldWrites = s.heldWrites := rfl
@[simp] theorem State.setTap_net (s : State) (d) (t) : (s.setTap d t).net = s.net := rfl
@[simp] theorem State.setTap_power (s : State) (d) (t) : (s.setTap d t).power = s.power := rfl
@[simp] theorem State.setTap_boot (s : State) (d) (t) : (s.setTap d t).boot = s.boot := rfl
@[simp] theorem State.setTap_errors (s : State) (d) (t) : (s.setTap d t).errors = s.errors := rfl
@[simp] theorem State.setTap_security (s : State) (d) (t) : (s.setTap d t).security = s.security := rfl
@[simp] theorem State.setTap_profiles (s : State) (d) (t) : (s.setTap d t).profiles = s.profiles := rfl
@[simp] theorem State.setTap_counters (s : State) (d) (t) : (s.setTap d t).counters = s.counters := rfl
@[simp] theorem State.setTap_auditFrozen (s : State) (d) (t) : (s.setTap d t).auditFrozen = s.auditFrozen := rfl
@[simp] theorem State.setTap_obj (s : State) (d) (t) (u0) (u1) : (s.setTap d t).obj u0 u1 = s.obj u0 u1 := rfl
@[simp] theorem State.setTap_tot (s : State) (d) (t) (u0) (u1) : (s.setTap d t).tot u0 u1 = s.tot u0 u1 := rfl
@[simp] theorem State.setTap_block (s : State) (d) (t) (u0) : (s.setTap d t).block u0 = s.block u0 := rfl
@[simp] theorem State.setTap_ctx (s : State) (d) (t) (u0) (u1) : (s.setTap d t).ctx u0 u1 = s.ctx u0 u1 := rfl
@[simp] theorem State.setTap_coreSt (s : State) (d) (t) (u0) : (s.setTap d t).coreSt u0 = s.coreSt u0 := rfl
@[simp] theorem State.setTap_slot (s : State) (d) (t) (u0) : (s.setTap d t).slot u0 = s.slot u0 := rfl
@[simp] theorem State.setTap_fport (s : State) (d) (t) (u0) : (s.setTap d t).fport u0 = s.fport u0 := rfl
@[simp] theorem State.setTap_keySlot (s : State) (d) (t) (u0) : (s.setTap d t).keySlot u0 = s.keySlot u0 := rfl
@[simp] theorem State.setTap_up (s : State) (d) (t) : (s.setTap d t).up = s.up := rfl
@[simp] theorem State.setTap_vigil (s : State) (d) (t) : (s.setTap d t).vigil = s.vigil := rfl
@[simp] theorem State.setTap_fabricOn (s : State) (d) (t) : (s.setTap d t).fabricOn = s.fabricOn := rfl
@[simp] theorem State.setTap_acc (s : State) (d) (t) (u0) (u1) : (s.setTap d t).acc u0 u1 = s.acc u0 u1 := rfl
@[simp] theorem State.setTap_positions (s : State) (d) (t) (u0) : (s.setTap d t).positions u0 = s.positions u0 := rfl
@[simp] theorem State.setTap_slotEn (s : State) (d) (t) (u0) : (s.setTap d t).slotEn u0 = s.slotEn u0 := rfl

/-! ### rawClear -/

@[simp] theorem State.rawClear_part (s : State) (a) (n) : (s.rawClear a n).part = s.part := rfl
@[simp] theorem State.rawClear_pending (s : State) (a) (n) : (s.rawClear a n).pending = s.pending := rfl
@[simp] theorem State.rawClear_cores (s : State) (a) (n) : (s.rawClear a n).cores = s.cores := rfl
@[simp] theorem State.rawClear_ctxs (s : State) (a) (n) : (s.rawClear a n).ctxs = s.ctxs := rfl
@[simp] theorem State.rawClear_accs (s : State) (a) (n) : (s.rawClear a n).accs = s.accs := rfl
@[simp] theorem State.rawClear_srf (s : State) (a) (n) : (s.rawClear a n).srf = s.srf := rfl
@[simp] theorem State.rawClear_rescale (s : State) (a) (n) : (s.rawClear a n).rescale = s.rescale := rfl
@[simp] theorem State.rawClear_unitKey (s : State) (a) (n) : (s.rawClear a n).unitKey = s.unitKey := rfl
@[simp] theorem State.rawClear_fills (s : State) (a) (n) : (s.rawClear a n).fills = s.fills := rfl
@[simp] theorem State.rawClear_coreUc (s : State) (a) (n) : (s.rawClear a n).coreUc = s.coreUc := rfl
@[simp] theorem State.rawClear_unitCode (s : State) (a) (n) : (s.rawClear a n).unitCode = s.unitCode := rfl
@[simp] theorem State.rawClear_scrubAt (s : State) (a) (n) : (s.rawClear a n).scrubAt = s.scrubAt := rfl
@[simp] theorem State.rawClear_mcErr (s : State) (a) (n) : (s.rawClear a n).mcErr = s.mcErr := rfl
@[simp] theorem State.rawClear_unspecCount (s : State) (a) (n) : (s.rawClear a n).unspecCount = s.unspecCount := rfl
@[simp] theorem State.rawClear_untrained (s : State) (a) (n) : (s.rawClear a n).untrained = s.untrained := rfl
@[simp] theorem State.rawClear_blocks (s : State) (a) (n) : (s.rawClear a n).blocks = s.blocks := rfl
@[simp] theorem State.rawClear_objs (s : State) (a) (n) : (s.rawClear a n).objs = s.objs := rfl
@[simp] theorem State.rawClear_octs (s : State) (a) (n) : (s.rawClear a n).octs = s.octs := rfl
@[simp] theorem State.rawClear_tots (s : State) (a) (n) : (s.rawClear a n).tots = s.tots := rfl
@[simp] theorem State.rawClear_slots (s : State) (a) (n) : (s.rawClear a n).slots = s.slots := rfl
@[simp] theorem State.rawClear_group (s : State) (a) (n) : (s.rawClear a n).group = s.group := rfl
@[simp] theorem State.rawClear_noise (s : State) (a) (n) : (s.rawClear a n).noise = s.noise := rfl
@[simp] theorem State.rawClear_watch (s : State) (a) (n) : (s.rawClear a n).watch = s.watch := rfl
@[simp] theorem State.rawClear_watchNew (s : State) (a) (n) : (s.rawClear a n).watchNew = s.watchNew := rfl
@[simp] theorem State.rawClear_live (s : State) (a) (n) : (s.rawClear a n).live = s.live := rfl
@[simp] theorem State.rawClear_watchDue (s : State) (a) (n) : (s.rawClear a n).watchDue = s.watchDue := rfl
@[simp] theorem State.rawClear_fports (s : State) (a) (n) : (s.rawClear a n).fports = s.fports := rfl
@[simp] theorem State.rawClear_router (s : State) (a) (n) : (s.rawClear a n).router = s.router := rfl
@[simp] theorem State.rawClear_inbox (s : State) (a) (n) : (s.rawClear a n).inbox = s.inbox := rfl
@[simp] theorem State.rawClear_almanac (s : State) (a) (n) : (s.rawClear a n).almanac = s.almanac := rfl
@[simp] theorem State.rawClear_msgTable (s : State) (a) (n) : (s.rawClear a n).msgTable = s.msgTable := rfl
@[simp] theorem State.rawClear_sent (s : State) (a) (n) : (s.rawClear a n).sent = s.sent := rfl
@[simp] theorem State.rawClear_msgidNext (s : State) (a) (n) : (s.rawClear a n).msgidNext = s.msgidNext := rfl
@[simp] theorem State.rawClear_reshards (s : State) (a) (n) : (s.rawClear a n).reshards = s.reshards := rfl
@[simp] theorem State.rawClear_links (s : State) (a) (n) : (s.rawClear a n).links = s.links := rfl
@[simp] theorem State.rawClear_sessions (s : State) (a) (n) : (s.rawClear a n).sessions = s.sessions := rfl
@[simp] theorem State.rawClear_sessionNext (s : State) (a) (n) : (s.rawClear a n).sessionNext = s.sessionNext := rfl
@[simp] theorem State.rawClear_events (s : State) (a) (n) : (s.rawClear a n).events = s.events := rfl
@[simp] theorem State.rawClear_eventNext (s : State) (a) (n) : (s.rawClear a n).eventNext = s.eventNext := rfl
@[simp] theorem State.rawClear_eventsLostSince (s : State) (a) (n) : (s.rawClear a n).eventsLostSince = s.eventsLostSince := rfl
@[simp] theorem State.rawClear_kept (s : State) (a) (n) : (s.rawClear a n).kept = s.kept := rfl
@[simp] theorem State.rawClear_xfers (s : State) (a) (n) : (s.rawClear a n).xfers = s.xfers := rfl
@[simp] theorem State.rawClear_xferNext (s : State) (a) (n) : (s.rawClear a n).xferNext = s.xferNext := rfl
@[simp] theorem State.rawClear_multi (s : State) (a) (n) : (s.rawClear a n).multi = s.multi := rfl
@[simp] theorem State.rawClear_heldWrites (s : State) (a) (n) : (s.rawClear a n).heldWrites = s.heldWrites := rfl
@[simp] theorem State.rawClear_net (s : State) (a) (n) : (s.rawClear a n).net = s.net := rfl
@[simp] theorem State.rawClear_power (s : State) (a) (n) : (s.rawClear a n).power = s.power := rfl
@[simp] theorem State.rawClear_boot (s : State) (a) (n) : (s.rawClear a n).boot = s.boot := rfl
@[simp] theorem State.rawClear_taps (s : State) (a) (n) : (s.rawClear a n).taps = s.taps := rfl
@[simp] theorem State.rawClear_errors (s : State) (a) (n) : (s.rawClear a n).errors = s.errors := rfl
@[simp] theorem State.rawClear_security (s : State) (a) (n) : (s.rawClear a n).security = s.security := rfl
@[simp] theorem State.rawClear_profiles (s : State) (a) (n) : (s.rawClear a n).profiles = s.profiles := rfl
@[simp] theorem State.rawClear_counters (s : State) (a) (n) : (s.rawClear a n).counters = s.counters := rfl
@[simp] theorem State.rawClear_auditFrozen (s : State) (a) (n) : (s.rawClear a n).auditFrozen = s.auditFrozen := rfl
@[simp] theorem State.rawClear_obj (s : State) (a) (n) (u0) (u1) : (s.rawClear a n).obj u0 u1 = s.obj u0 u1 := rfl
@[simp] theorem State.rawClear_tot (s : State) (a) (n) (u0) (u1) : (s.rawClear a n).tot u0 u1 = s.tot u0 u1 := rfl
@[simp] theorem State.rawClear_block (s : State) (a) (n) (u0) : (s.rawClear a n).block u0 = s.block u0 := rfl
@[simp] theorem State.rawClear_ctx (s : State) (a) (n) (u0) (u1) : (s.rawClear a n).ctx u0 u1 = s.ctx u0 u1 := rfl
@[simp] theorem State.rawClear_coreSt (s : State) (a) (n) (u0) : (s.rawClear a n).coreSt u0 = s.coreSt u0 := rfl
@[simp] theorem State.rawClear_slot (s : State) (a) (n) (u0) : (s.rawClear a n).slot u0 = s.slot u0 := rfl
@[simp] theorem State.rawClear_fport (s : State) (a) (n) (u0) : (s.rawClear a n).fport u0 = s.fport u0 := rfl
@[simp] theorem State.rawClear_keySlot (s : State) (a) (n) (u0) : (s.rawClear a n).keySlot u0 = s.keySlot u0 := rfl
@[simp] theorem State.rawClear_up (s : State) (a) (n) : (s.rawClear a n).up = s.up := rfl
@[simp] theorem State.rawClear_vigil (s : State) (a) (n) : (s.rawClear a n).vigil = s.vigil := rfl
@[simp] theorem State.rawClear_fabricOn (s : State) (a) (n) : (s.rawClear a n).fabricOn = s.fabricOn := rfl
@[simp] theorem State.rawClear_acc (s : State) (a) (n) (u0) (u1) : (s.rawClear a n).acc u0 u1 = s.acc u0 u1 := rfl
@[simp] theorem State.rawClear_positions (s : State) (a) (n) (u0) : (s.rawClear a n).positions u0 = s.positions u0 := rfl
@[simp] theorem State.rawClear_slotEn (s : State) (a) (n) (u0) : (s.rawClear a n).slotEn u0 = s.slotEn u0 := rfl

/-! ### mcCount -/

@[simp] theorem State.mcCount_part (s : State) (stack) (ce) (uc) : (s.mcCount stack ce uc).part = s.part := rfl
@[simp] theorem State.mcCount_pending (s : State) (stack) (ce) (uc) : (s.mcCount stack ce uc).pending = s.pending := rfl
@[simp] theorem State.mcCount_cores (s : State) (stack) (ce) (uc) : (s.mcCount stack ce uc).cores = s.cores := rfl
@[simp] theorem State.mcCount_ctxs (s : State) (stack) (ce) (uc) : (s.mcCount stack ce uc).ctxs = s.ctxs := rfl
@[simp] theorem State.mcCount_accs (s : State) (stack) (ce) (uc) : (s.mcCount stack ce uc).accs = s.accs := rfl
@[simp] theorem State.mcCount_srf (s : State) (stack) (ce) (uc) : (s.mcCount stack ce uc).srf = s.srf := rfl
@[simp] theorem State.mcCount_rescale (s : State) (stack) (ce) (uc) : (s.mcCount stack ce uc).rescale = s.rescale := rfl
@[simp] theorem State.mcCount_mem (s : State) (stack) (ce) (uc) : (s.mcCount stack ce uc).mem = s.mem := rfl
@[simp] theorem State.mcCount_unitKey (s : State) (stack) (ce) (uc) : (s.mcCount stack ce uc).unitKey = s.unitKey := rfl
@[simp] theorem State.mcCount_fills (s : State) (stack) (ce) (uc) : (s.mcCount stack ce uc).fills = s.fills := rfl
@[simp] theorem State.mcCount_coreUc (s : State) (stack) (ce) (uc) : (s.mcCount stack ce uc).coreUc = s.coreUc := rfl
@[simp] theorem State.mcCount_unitCode (s : State) (stack) (ce) (uc) : (s.mcCount stack ce uc).unitCode = s.unitCode := rfl
@[simp] theorem State.mcCount_scrubAt (s : State) (stack) (ce) (uc) : (s.mcCount stack ce uc).scrubAt = s.scrubAt := rfl
@[simp] theorem State.mcCount_unspecCount (s : State) (stack) (ce) (uc) : (s.mcCount stack ce uc).unspecCount = s.unspecCount := rfl
@[simp] theorem State.mcCount_untrained (s : State) (stack) (ce) (uc) : (s.mcCount stack ce uc).untrained = s.untrained := rfl
@[simp] theorem State.mcCount_blocks (s : State) (stack) (ce) (uc) : (s.mcCount stack ce uc).blocks = s.blocks := rfl
@[simp] theorem State.mcCount_objs (s : State) (stack) (ce) (uc) : (s.mcCount stack ce uc).objs = s.objs := rfl
@[simp] theorem State.mcCount_octs (s : State) (stack) (ce) (uc) : (s.mcCount stack ce uc).octs = s.octs := rfl
@[simp] theorem State.mcCount_tots (s : State) (stack) (ce) (uc) : (s.mcCount stack ce uc).tots = s.tots := rfl
@[simp] theorem State.mcCount_slots (s : State) (stack) (ce) (uc) : (s.mcCount stack ce uc).slots = s.slots := rfl
@[simp] theorem State.mcCount_group (s : State) (stack) (ce) (uc) : (s.mcCount stack ce uc).group = s.group := rfl
@[simp] theorem State.mcCount_noise (s : State) (stack) (ce) (uc) : (s.mcCount stack ce uc).noise = s.noise := rfl
@[simp] theorem State.mcCount_watch (s : State) (stack) (ce) (uc) : (s.mcCount stack ce uc).watch = s.watch := rfl
@[simp] theorem State.mcCount_watchNew (s : State) (stack) (ce) (uc) : (s.mcCount stack ce uc).watchNew = s.watchNew := rfl
@[simp] theorem State.mcCount_live (s : State) (stack) (ce) (uc) : (s.mcCount stack ce uc).live = s.live := rfl
@[simp] theorem State.mcCount_watchDue (s : State) (stack) (ce) (uc) : (s.mcCount stack ce uc).watchDue = s.watchDue := rfl
@[simp] theorem State.mcCount_fports (s : State) (stack) (ce) (uc) : (s.mcCount stack ce uc).fports = s.fports := rfl
@[simp] theorem State.mcCount_router (s : State) (stack) (ce) (uc) : (s.mcCount stack ce uc).router = s.router := rfl
@[simp] theorem State.mcCount_inbox (s : State) (stack) (ce) (uc) : (s.mcCount stack ce uc).inbox = s.inbox := rfl
@[simp] theorem State.mcCount_almanac (s : State) (stack) (ce) (uc) : (s.mcCount stack ce uc).almanac = s.almanac := rfl
@[simp] theorem State.mcCount_msgTable (s : State) (stack) (ce) (uc) : (s.mcCount stack ce uc).msgTable = s.msgTable := rfl
@[simp] theorem State.mcCount_sent (s : State) (stack) (ce) (uc) : (s.mcCount stack ce uc).sent = s.sent := rfl
@[simp] theorem State.mcCount_msgidNext (s : State) (stack) (ce) (uc) : (s.mcCount stack ce uc).msgidNext = s.msgidNext := rfl
@[simp] theorem State.mcCount_reshards (s : State) (stack) (ce) (uc) : (s.mcCount stack ce uc).reshards = s.reshards := rfl
@[simp] theorem State.mcCount_links (s : State) (stack) (ce) (uc) : (s.mcCount stack ce uc).links = s.links := rfl
@[simp] theorem State.mcCount_sessions (s : State) (stack) (ce) (uc) : (s.mcCount stack ce uc).sessions = s.sessions := rfl
@[simp] theorem State.mcCount_sessionNext (s : State) (stack) (ce) (uc) : (s.mcCount stack ce uc).sessionNext = s.sessionNext := rfl
@[simp] theorem State.mcCount_events (s : State) (stack) (ce) (uc) : (s.mcCount stack ce uc).events = s.events := rfl
@[simp] theorem State.mcCount_eventNext (s : State) (stack) (ce) (uc) : (s.mcCount stack ce uc).eventNext = s.eventNext := rfl
@[simp] theorem State.mcCount_eventsLostSince (s : State) (stack) (ce) (uc) : (s.mcCount stack ce uc).eventsLostSince = s.eventsLostSince := rfl
@[simp] theorem State.mcCount_kept (s : State) (stack) (ce) (uc) : (s.mcCount stack ce uc).kept = s.kept := rfl
@[simp] theorem State.mcCount_xfers (s : State) (stack) (ce) (uc) : (s.mcCount stack ce uc).xfers = s.xfers := rfl
@[simp] theorem State.mcCount_xferNext (s : State) (stack) (ce) (uc) : (s.mcCount stack ce uc).xferNext = s.xferNext := rfl
@[simp] theorem State.mcCount_multi (s : State) (stack) (ce) (uc) : (s.mcCount stack ce uc).multi = s.multi := rfl
@[simp] theorem State.mcCount_heldWrites (s : State) (stack) (ce) (uc) : (s.mcCount stack ce uc).heldWrites = s.heldWrites := rfl
@[simp] theorem State.mcCount_net (s : State) (stack) (ce) (uc) : (s.mcCount stack ce uc).net = s.net := rfl
@[simp] theorem State.mcCount_power (s : State) (stack) (ce) (uc) : (s.mcCount stack ce uc).power = s.power := rfl
@[simp] theorem State.mcCount_boot (s : State) (stack) (ce) (uc) : (s.mcCount stack ce uc).boot = s.boot := rfl
@[simp] theorem State.mcCount_taps (s : State) (stack) (ce) (uc) : (s.mcCount stack ce uc).taps = s.taps := rfl
@[simp] theorem State.mcCount_errors (s : State) (stack) (ce) (uc) : (s.mcCount stack ce uc).errors = s.errors := rfl
@[simp] theorem State.mcCount_security (s : State) (stack) (ce) (uc) : (s.mcCount stack ce uc).security = s.security := rfl
@[simp] theorem State.mcCount_profiles (s : State) (stack) (ce) (uc) : (s.mcCount stack ce uc).profiles = s.profiles := rfl
@[simp] theorem State.mcCount_counters (s : State) (stack) (ce) (uc) : (s.mcCount stack ce uc).counters = s.counters := rfl
@[simp] theorem State.mcCount_auditFrozen (s : State) (stack) (ce) (uc) : (s.mcCount stack ce uc).auditFrozen = s.auditFrozen := rfl
@[simp] theorem State.mcCount_obj (s : State) (stack) (ce) (uc) (u0) (u1) : (s.mcCount stack ce uc).obj u0 u1 = s.obj u0 u1 := rfl
@[simp] theorem State.mcCount_tot (s : State) (stack) (ce) (uc) (u0) (u1) : (s.mcCount stack ce uc).tot u0 u1 = s.tot u0 u1 := rfl
@[simp] theorem State.mcCount_block (s : State) (stack) (ce) (uc) (u0) : (s.mcCount stack ce uc).block u0 = s.block u0 := rfl
@[simp] theorem State.mcCount_ctx (s : State) (stack) (ce) (uc) (u0) (u1) : (s.mcCount stack ce uc).ctx u0 u1 = s.ctx u0 u1 := rfl
@[simp] theorem State.mcCount_coreSt (s : State) (stack) (ce) (uc) (u0) : (s.mcCount stack ce uc).coreSt u0 = s.coreSt u0 := rfl
@[simp] theorem State.mcCount_slot (s : State) (stack) (ce) (uc) (u0) : (s.mcCount stack ce uc).slot u0 = s.slot u0 := rfl
@[simp] theorem State.mcCount_fport (s : State) (stack) (ce) (uc) (u0) : (s.mcCount stack ce uc).fport u0 = s.fport u0 := rfl
@[simp] theorem State.mcCount_keySlot (s : State) (stack) (ce) (uc) (u0) : (s.mcCount stack ce uc).keySlot u0 = s.keySlot u0 := rfl
@[simp] theorem State.mcCount_up (s : State) (stack) (ce) (uc) : (s.mcCount stack ce uc).up = s.up := rfl
@[simp] theorem State.mcCount_vigil (s : State) (stack) (ce) (uc) : (s.mcCount stack ce uc).vigil = s.vigil := rfl
@[simp] theorem State.mcCount_fabricOn (s : State) (stack) (ce) (uc) : (s.mcCount stack ce uc).fabricOn = s.fabricOn := rfl
@[simp] theorem State.mcCount_acc (s : State) (stack) (ce) (uc) (u0) (u1) : (s.mcCount stack ce uc).acc u0 u1 = s.acc u0 u1 := rfl
@[simp] theorem State.mcCount_positions (s : State) (stack) (ce) (uc) (u0) : (s.mcCount stack ce uc).positions u0 = s.positions u0 := rfl
@[simp] theorem State.mcCount_slotEn (s : State) (stack) (ce) (uc) (u0) : (s.mcCount stack ce uc).slotEn u0 = s.slotEn u0 := rfl

/-! ### pkgTouch -/

@[simp] theorem State.pkgTouch_part (s : State) : s.pkgTouch.part = s.part := rfl
@[simp] theorem State.pkgTouch_pending (s : State) : s.pkgTouch.pending = s.pending := rfl
@[simp] theorem State.pkgTouch_cores (s : State) : s.pkgTouch.cores = s.cores := rfl
@[simp] theorem State.pkgTouch_ctxs (s : State) : s.pkgTouch.ctxs = s.ctxs := rfl
@[simp] theorem State.pkgTouch_accs (s : State) : s.pkgTouch.accs = s.accs := rfl
@[simp] theorem State.pkgTouch_srf (s : State) : s.pkgTouch.srf = s.srf := rfl
@[simp] theorem State.pkgTouch_rescale (s : State) : s.pkgTouch.rescale = s.rescale := rfl
@[simp] theorem State.pkgTouch_mem (s : State) : s.pkgTouch.mem = s.mem := rfl
@[simp] theorem State.pkgTouch_unitKey (s : State) : s.pkgTouch.unitKey = s.unitKey := rfl
@[simp] theorem State.pkgTouch_fills (s : State) : s.pkgTouch.fills = s.fills := rfl
@[simp] theorem State.pkgTouch_coreUc (s : State) : s.pkgTouch.coreUc = s.coreUc := rfl
@[simp] theorem State.pkgTouch_unitCode (s : State) : s.pkgTouch.unitCode = s.unitCode := rfl
@[simp] theorem State.pkgTouch_scrubAt (s : State) : s.pkgTouch.scrubAt = s.scrubAt := rfl
@[simp] theorem State.pkgTouch_mcErr (s : State) : s.pkgTouch.mcErr = s.mcErr := rfl
@[simp] theorem State.pkgTouch_unspecCount (s : State) : s.pkgTouch.unspecCount = s.unspecCount := rfl
@[simp] theorem State.pkgTouch_untrained (s : State) : s.pkgTouch.untrained = s.untrained := rfl
@[simp] theorem State.pkgTouch_blocks (s : State) : s.pkgTouch.blocks = s.blocks := rfl
@[simp] theorem State.pkgTouch_objs (s : State) : s.pkgTouch.objs = s.objs := rfl
@[simp] theorem State.pkgTouch_octs (s : State) : s.pkgTouch.octs = s.octs := rfl
@[simp] theorem State.pkgTouch_tots (s : State) : s.pkgTouch.tots = s.tots := rfl
@[simp] theorem State.pkgTouch_slots (s : State) : s.pkgTouch.slots = s.slots := rfl
@[simp] theorem State.pkgTouch_group (s : State) : s.pkgTouch.group = s.group := rfl
@[simp] theorem State.pkgTouch_noise (s : State) : s.pkgTouch.noise = s.noise := rfl
@[simp] theorem State.pkgTouch_watch (s : State) : s.pkgTouch.watch = s.watch := rfl
@[simp] theorem State.pkgTouch_watchNew (s : State) : s.pkgTouch.watchNew = s.watchNew := rfl
@[simp] theorem State.pkgTouch_live (s : State) : s.pkgTouch.live = s.live := rfl
@[simp] theorem State.pkgTouch_watchDue (s : State) : s.pkgTouch.watchDue = s.watchDue := rfl
@[simp] theorem State.pkgTouch_fports (s : State) : s.pkgTouch.fports = s.fports := rfl
@[simp] theorem State.pkgTouch_router (s : State) : s.pkgTouch.router = s.router := rfl
@[simp] theorem State.pkgTouch_inbox (s : State) : s.pkgTouch.inbox = s.inbox := rfl
@[simp] theorem State.pkgTouch_almanac (s : State) : s.pkgTouch.almanac = s.almanac := rfl
@[simp] theorem State.pkgTouch_msgTable (s : State) : s.pkgTouch.msgTable = s.msgTable := rfl
@[simp] theorem State.pkgTouch_sent (s : State) : s.pkgTouch.sent = s.sent := rfl
@[simp] theorem State.pkgTouch_msgidNext (s : State) : s.pkgTouch.msgidNext = s.msgidNext := rfl
@[simp] theorem State.pkgTouch_reshards (s : State) : s.pkgTouch.reshards = s.reshards := rfl
@[simp] theorem State.pkgTouch_links (s : State) : s.pkgTouch.links = s.links := rfl
@[simp] theorem State.pkgTouch_sessions (s : State) : s.pkgTouch.sessions = s.sessions := rfl
@[simp] theorem State.pkgTouch_sessionNext (s : State) : s.pkgTouch.sessionNext = s.sessionNext := rfl
@[simp] theorem State.pkgTouch_events (s : State) : s.pkgTouch.events = s.events := rfl
@[simp] theorem State.pkgTouch_eventNext (s : State) : s.pkgTouch.eventNext = s.eventNext := rfl
@[simp] theorem State.pkgTouch_eventsLostSince (s : State) : s.pkgTouch.eventsLostSince = s.eventsLostSince := rfl
@[simp] theorem State.pkgTouch_kept (s : State) : s.pkgTouch.kept = s.kept := rfl
@[simp] theorem State.pkgTouch_xfers (s : State) : s.pkgTouch.xfers = s.xfers := rfl
@[simp] theorem State.pkgTouch_xferNext (s : State) : s.pkgTouch.xferNext = s.xferNext := rfl
@[simp] theorem State.pkgTouch_multi (s : State) : s.pkgTouch.multi = s.multi := rfl
@[simp] theorem State.pkgTouch_heldWrites (s : State) : s.pkgTouch.heldWrites = s.heldWrites := rfl
@[simp] theorem State.pkgTouch_net (s : State) : s.pkgTouch.net = s.net := rfl
@[simp] theorem State.pkgTouch_power (s : State) : s.pkgTouch.power = s.power := rfl
@[simp] theorem State.pkgTouch_boot (s : State) : s.pkgTouch.boot = s.boot := rfl
@[simp] theorem State.pkgTouch_taps (s : State) : s.pkgTouch.taps = s.taps := rfl
@[simp] theorem State.pkgTouch_errors (s : State) : s.pkgTouch.errors = s.errors := rfl
@[simp] theorem State.pkgTouch_security (s : State) : s.pkgTouch.security = s.security := rfl
@[simp] theorem State.pkgTouch_counters (s : State) : s.pkgTouch.counters = s.counters := rfl
@[simp] theorem State.pkgTouch_auditFrozen (s : State) : s.pkgTouch.auditFrozen = s.auditFrozen := rfl
@[simp] theorem State.pkgTouch_obj (s : State) (u0) (u1) : s.pkgTouch.obj u0 u1 = s.obj u0 u1 := rfl
@[simp] theorem State.pkgTouch_tot (s : State) (u0) (u1) : s.pkgTouch.tot u0 u1 = s.tot u0 u1 := rfl
@[simp] theorem State.pkgTouch_block (s : State) (u0) : s.pkgTouch.block u0 = s.block u0 := rfl
@[simp] theorem State.pkgTouch_ctx (s : State) (u0) (u1) : s.pkgTouch.ctx u0 u1 = s.ctx u0 u1 := rfl
@[simp] theorem State.pkgTouch_coreSt (s : State) (u0) : s.pkgTouch.coreSt u0 = s.coreSt u0 := rfl
@[simp] theorem State.pkgTouch_slot (s : State) (u0) : s.pkgTouch.slot u0 = s.slot u0 := rfl
@[simp] theorem State.pkgTouch_fport (s : State) (u0) : s.pkgTouch.fport u0 = s.fport u0 := rfl
@[simp] theorem State.pkgTouch_keySlot (s : State) (u0) : s.pkgTouch.keySlot u0 = s.keySlot u0 := rfl
@[simp] theorem State.pkgTouch_up (s : State) : s.pkgTouch.up = s.up := rfl
@[simp] theorem State.pkgTouch_vigil (s : State) : s.pkgTouch.vigil = s.vigil := rfl
@[simp] theorem State.pkgTouch_fabricOn (s : State) : s.pkgTouch.fabricOn = s.fabricOn := rfl
@[simp] theorem State.pkgTouch_acc (s : State) (u0) (u1) : s.pkgTouch.acc u0 u1 = s.acc u0 u1 := rfl
@[simp] theorem State.pkgTouch_positions (s : State) (u0) : s.pkgTouch.positions u0 = s.positions u0 := rfl
@[simp] theorem State.pkgTouch_slotEn (s : State) (u0) : s.pkgTouch.slotEn u0 = s.slotEn u0 := rfl

/-! ### hold -/

@[simp] theorem State.hold_part (s : State) (c) : (s.hold c).part = s.part := rfl
@[simp] theorem State.hold_pending (s : State) (c) : (s.hold c).pending = s.pending := rfl
@[simp] theorem State.hold_cores (s : State) (c) : (s.hold c).cores = s.cores := rfl
@[simp] theorem State.hold_ctxs (s : State) (c) : (s.hold c).ctxs = s.ctxs := rfl
@[simp] theorem State.hold_accs (s : State) (c) : (s.hold c).accs = s.accs := rfl
@[simp] theorem State.hold_srf (s : State) (c) : (s.hold c).srf = s.srf := rfl
@[simp] theorem State.hold_rescale (s : State) (c) : (s.hold c).rescale = s.rescale := rfl
@[simp] theorem State.hold_mem (s : State) (c) : (s.hold c).mem = s.mem := rfl
@[simp] theorem State.hold_unitKey (s : State) (c) : (s.hold c).unitKey = s.unitKey := rfl
@[simp] theorem State.hold_fills (s : State) (c) : (s.hold c).fills = s.fills := rfl
@[simp] theorem State.hold_coreUc (s : State) (c) : (s.hold c).coreUc = s.coreUc := rfl
@[simp] theorem State.hold_unitCode (s : State) (c) : (s.hold c).unitCode = s.unitCode := rfl
@[simp] theorem State.hold_scrubAt (s : State) (c) : (s.hold c).scrubAt = s.scrubAt := rfl
@[simp] theorem State.hold_mcErr (s : State) (c) : (s.hold c).mcErr = s.mcErr := rfl
@[simp] theorem State.hold_unspecCount (s : State) (c) : (s.hold c).unspecCount = s.unspecCount := rfl
@[simp] theorem State.hold_untrained (s : State) (c) : (s.hold c).untrained = s.untrained := rfl
@[simp] theorem State.hold_objs (s : State) (c) : (s.hold c).objs = s.objs := rfl
@[simp] theorem State.hold_octs (s : State) (c) : (s.hold c).octs = s.octs := rfl
@[simp] theorem State.hold_tots (s : State) (c) : (s.hold c).tots = s.tots := rfl
@[simp] theorem State.hold_slots (s : State) (c) : (s.hold c).slots = s.slots := rfl
@[simp] theorem State.hold_group (s : State) (c) : (s.hold c).group = s.group := rfl
@[simp] theorem State.hold_noise (s : State) (c) : (s.hold c).noise = s.noise := rfl
@[simp] theorem State.hold_watch (s : State) (c) : (s.hold c).watch = s.watch := rfl
@[simp] theorem State.hold_watchNew (s : State) (c) : (s.hold c).watchNew = s.watchNew := rfl
@[simp] theorem State.hold_live (s : State) (c) : (s.hold c).live = s.live := rfl
@[simp] theorem State.hold_watchDue (s : State) (c) : (s.hold c).watchDue = s.watchDue := rfl
@[simp] theorem State.hold_fports (s : State) (c) : (s.hold c).fports = s.fports := rfl
@[simp] theorem State.hold_router (s : State) (c) : (s.hold c).router = s.router := rfl
@[simp] theorem State.hold_inbox (s : State) (c) : (s.hold c).inbox = s.inbox := rfl
@[simp] theorem State.hold_almanac (s : State) (c) : (s.hold c).almanac = s.almanac := rfl
@[simp] theorem State.hold_msgTable (s : State) (c) : (s.hold c).msgTable = s.msgTable := rfl
@[simp] theorem State.hold_sent (s : State) (c) : (s.hold c).sent = s.sent := rfl
@[simp] theorem State.hold_msgidNext (s : State) (c) : (s.hold c).msgidNext = s.msgidNext := rfl
@[simp] theorem State.hold_reshards (s : State) (c) : (s.hold c).reshards = s.reshards := rfl
@[simp] theorem State.hold_links (s : State) (c) : (s.hold c).links = s.links := rfl
@[simp] theorem State.hold_sessions (s : State) (c) : (s.hold c).sessions = s.sessions := rfl
@[simp] theorem State.hold_sessionNext (s : State) (c) : (s.hold c).sessionNext = s.sessionNext := rfl
@[simp] theorem State.hold_events (s : State) (c) : (s.hold c).events = s.events := rfl
@[simp] theorem State.hold_eventNext (s : State) (c) : (s.hold c).eventNext = s.eventNext := rfl
@[simp] theorem State.hold_eventsLostSince (s : State) (c) : (s.hold c).eventsLostSince = s.eventsLostSince := rfl
@[simp] theorem State.hold_kept (s : State) (c) : (s.hold c).kept = s.kept := rfl
@[simp] theorem State.hold_xfers (s : State) (c) : (s.hold c).xfers = s.xfers := rfl
@[simp] theorem State.hold_xferNext (s : State) (c) : (s.hold c).xferNext = s.xferNext := rfl
@[simp] theorem State.hold_multi (s : State) (c) : (s.hold c).multi = s.multi := rfl
@[simp] theorem State.hold_net (s : State) (c) : (s.hold c).net = s.net := rfl
@[simp] theorem State.hold_power (s : State) (c) : (s.hold c).power = s.power := rfl
@[simp] theorem State.hold_boot (s : State) (c) : (s.hold c).boot = s.boot := rfl
@[simp] theorem State.hold_taps (s : State) (c) : (s.hold c).taps = s.taps := rfl
@[simp] theorem State.hold_errors (s : State) (c) : (s.hold c).errors = s.errors := rfl
@[simp] theorem State.hold_security (s : State) (c) : (s.hold c).security = s.security := rfl
@[simp] theorem State.hold_profiles (s : State) (c) : (s.hold c).profiles = s.profiles := rfl
@[simp] theorem State.hold_counters (s : State) (c) : (s.hold c).counters = s.counters := rfl
@[simp] theorem State.hold_auditFrozen (s : State) (c) : (s.hold c).auditFrozen = s.auditFrozen := rfl
@[simp] theorem State.hold_obj (s : State) (c) (u0) (u1) : (s.hold c).obj u0 u1 = s.obj u0 u1 := rfl
@[simp] theorem State.hold_tot (s : State) (c) (u0) (u1) : (s.hold c).tot u0 u1 = s.tot u0 u1 := rfl
@[simp] theorem State.hold_ctx (s : State) (c) (u0) (u1) : (s.hold c).ctx u0 u1 = s.ctx u0 u1 := rfl
@[simp] theorem State.hold_coreSt (s : State) (c) (u0) : (s.hold c).coreSt u0 = s.coreSt u0 := rfl
@[simp] theorem State.hold_slot (s : State) (c) (u0) : (s.hold c).slot u0 = s.slot u0 := rfl
@[simp] theorem State.hold_fport (s : State) (c) (u0) : (s.hold c).fport u0 = s.fport u0 := rfl
@[simp] theorem State.hold_keySlot (s : State) (c) (u0) : (s.hold c).keySlot u0 = s.keySlot u0 := rfl
@[simp] theorem State.hold_up (s : State) (c) : (s.hold c).up = s.up := rfl
@[simp] theorem State.hold_vigil (s : State) (c) : (s.hold c).vigil = s.vigil := rfl
@[simp] theorem State.hold_fabricOn (s : State) (c) : (s.hold c).fabricOn = s.fabricOn := rfl
@[simp] theorem State.hold_acc (s : State) (c) (u0) (u1) : (s.hold c).acc u0 u1 = s.acc u0 u1 := rfl
@[simp] theorem State.hold_positions (s : State) (c) (u0) : (s.hold c).positions u0 = s.positions u0 := rfl
@[simp] theorem State.hold_block (s : State) (c) (b) : (s.hold c).block b = s.block b := rfl
@[simp] theorem State.hold_heldWrites (s : State) (c) : (s.hold c).heldWrites = s.heldWrites ++ [.cmd c] := rfl

/-! What a change of the warden's store, and the power records of start-up, trips and Vigil mode leave as it is. -/

@[simp] theorem Security.keep_vendorFuse (z : Security) (f) : (z.keep f).vendorFuse = z.vendorFuse := by
  simp only [Security.keep]
  split <;> rfl
@[simp] theorem Security.keep_retiredFuse (z : Security) (f) : (z.keep f).retiredFuse = z.retiredFuse := by
  simp only [Security.keep]
  split <;> rfl
@[simp] theorem Security.keep_revoked (z : Security) (f) : (z.keep f).revoked = z.revoked := by
  simp only [Security.keep]
  split <;> rfl
@[simp] theorem Security.keep_keys (z : Security) (f) : (z.keep f).keys = z.keys := by
  simp only [Security.keep]
  split <;> rfl
@[simp] theorem Security.keep_auth (z : Security) (f) : (z.keep f).auth = z.auth := by
  simp only [Security.keep]
  split <;> rfl
@[simp] theorem Security.keep_eraseQueue (z : Security) (f) : (z.keep f).eraseQueue = z.eraseQueue := by
  simp only [Security.keep]
  split <;> rfl
@[simp] theorem Security.keep_debugScope (z : Security) (f) : (z.keep f).debugScope = z.debugScope := by
  simp only [Security.keep]
  split <;> rfl
@[simp] theorem Security.keep_reports (z : Security) (f) : (z.keep f).reports = z.reports := by
  simp only [Security.keep]
  split <;> rfl
@[simp] theorem Security.keep_fwA (z : Security) (f) : (z.keep f).fwA = z.fwA := by
  simp only [Security.keep]
  split <;> rfl
@[simp] theorem Security.keep_fwB (z : Security) (f) : (z.keep f).fwB = z.fwB := by
  simp only [Security.keep]
  split <;> rfl
@[simp] theorem Security.keep_ledger (z : Security) (f) : (z.keep f).ledger = z.ledger := by
  simp only [Security.keep]
  split <;> rfl
@[simp] theorem Security.keep_randomNext (z : Security) (f) : (z.keep f).randomNext = z.randomNext := by
  simp only [Security.keep]
  split <;> rfl
@[simp] theorem Power.release_level (p : Power) (d) : (p.release d).level = p.level := rfl
@[simp] theorem Power.release_target (p : Power) (d) : (p.release d).target = p.target := rfl
@[simp] theorem Power.release_duty (p : Power) (d) : (p.release d).duty = p.duty := rfl
@[simp] theorem Power.release_changing (p : Power) (d) : (p.release d).changing = p.changing := rfl
@[simp] theorem Power.release_epoch (p : Power) (d) : (p.release d).epoch = p.epoch := rfl
@[simp] theorem Power.release_groupLevel (p : Power) (d) : (p.release d).groupLevel = p.groupLevel := rfl
@[simp] theorem Power.release_thermtrip (p : Power) (d) : (p.release d).thermtrip = p.thermtrip := rfl
@[simp] theorem Power.vigil_level (p : Power) : (p.vigil).level = p.level := rfl
@[simp] theorem Power.vigil_target (p : Power) : (p.vigil).target = p.target := rfl
@[simp] theorem Power.vigil_duty (p : Power) : (p.vigil).duty = p.duty := rfl
@[simp] theorem Power.vigil_changing (p : Power) : (p.vigil).changing = p.changing := rfl
@[simp] theorem Power.vigil_epoch (p : Power) : (p.vigil).epoch = p.epoch := rfl
@[simp] theorem Power.vigil_groupLevel (p : Power) : (p.vigil).groupLevel = p.groupLevel := rfl
@[simp] theorem Power.vigil_thermtrip (p : Power) : (p.vigil).thermtrip = p.thermtrip := rfl
@[simp] theorem Power.dropRail_level (p : Power) (d) (k) : (p.dropRail d k).level = p.level := rfl
@[simp] theorem Power.dropRail_target (p : Power) (d) (k) : (p.dropRail d k).target = p.target := rfl
@[simp] theorem Power.dropRail_duty (p : Power) (d) (k) : (p.dropRail d k).duty = p.duty := rfl
@[simp] theorem Power.dropRail_changing (p : Power) (d) (k) : (p.dropRail d k).changing = p.changing := rfl
@[simp] theorem Power.dropRail_epoch (p : Power) (d) (k) : (p.dropRail d k).epoch = p.epoch := rfl
@[simp] theorem Power.dropRail_groupLevel (p : Power) (d) (k) : (p.dropRail d k).groupLevel = p.groupLevel := rfl
@[simp] theorem Power.dropRail_thermtrip (p : Power) (d) (k) : (p.dropRail d k).thermtrip = p.thermtrip := rfl
@[simp] theorem Power.junction_level (p : Power) (r) : (p.junction r).level = p.level := rfl
@[simp] theorem Power.junction_target (p : Power) (r) : (p.junction r).target = p.target := rfl
@[simp] theorem Power.junction_duty (p : Power) (r) : (p.junction r).duty = p.duty := rfl
@[simp] theorem Power.junction_changing (p : Power) (r) : (p.junction r).changing = p.changing := rfl
@[simp] theorem Power.junction_epoch (p : Power) (r) : (p.junction r).epoch = p.epoch := rfl
@[simp] theorem Power.junction_groupLevel (p : Power) (r) : (p.junction r).groupLevel = p.groupLevel := rfl
@[simp] theorem Power.junction_thermtrip (p : Power) (r) : (p.junction r).thermtrip = p.thermtrip := rfl

end Sys2Proof.Machine
end

