-- ==== Sys2Proof/Laws/MemFrame.lean ====
section
/-! SUPPORT. Every operation and command that leaves the memory as it was: one lemma for each. -/

namespace Sys2Proof.Machine

set_option linter.all false

theorem State.accCounted_mem (s : State) (w) (i) (tile) : (State.accCounted s w i tile).mem = s.mem := by simp -implicitDefEqProofs only [State.accCounted, State.setAcc_mem, apply_ite State.mem, apply_ite Prod.fst, ite_self, implies_true, foldl_mem, foldl_fst_mem]

theorem State.modBlock_mem (s : State) (b) (f) : (State.modBlock s b f).mem = s.mem := by simp -implicitDefEqProofs only [State.modBlock, State.setBlock_mem, apply_ite State.mem, apply_ite Prod.fst, ite_self, implies_true, foldl_mem, foldl_fst_mem]

theorem State.acceptCfg_mem (s : State) (b) : (State.acceptCfg s b).mem = s.mem := by simp -implicitDefEqProofs only [State.acceptCfg, State.modBlock_mem, apply_ite State.mem, apply_ite Prod.fst, ite_self, implies_true, foldl_mem, foldl_fst_mem]

theorem State.countLost_mem (s : State) (die) (sev) : (State.countLost s die sev).mem = s.mem := rfl

theorem State.enqueueRec_mem (s : State) (r) : (State.enqueueRec s r).mem = s.mem := by
  simp -implicitDefEqProofs only [State.enqueueRec]
  repeat' split
  all_goals simp -implicitDefEqProofs only [State.countLost_mem, State.setErrQueue_mem, apply_ite State.mem, apply_ite Prod.fst, ite_self, implies_true, foldl_mem, foldl_fst_mem]

theorem State.commitLedger_mem (s : State) : (State.commitLedger s).mem = s.mem := rfl

theorem State.bump_mem (s : State) (index) (sub) (n) : (State.bump s index sub n).mem = s.mem := by simp -implicitDefEqProofs only [State.bump, apply_ite State.mem, apply_ite Prod.fst, ite_self, implies_true, foldl_mem, foldl_fst_mem]

theorem State.discardReplay_mem (s : State) (p) : (State.discardReplay s p).mem = s.mem := by simp -implicitDefEqProofs only [State.discardReplay, State.bump_mem, State.setFport_mem, apply_ite State.mem, apply_ite Prod.fst, ite_self, implies_true, foldl_mem, foldl_fst_mem]

theorem State.sendAbsent_mem (s : State) (p) : (State.sendAbsent s p).mem = s.mem := by simp -implicitDefEqProofs only [State.sendAbsent, State.setFport_mem, apply_ite State.mem, apply_ite Prod.fst, ite_self, implies_true, foldl_mem, foldl_fst_mem]

theorem State.enterVigil_mem (s : State) : (State.enterVigil s).mem = s.mem := by simp -implicitDefEqProofs only [State.enterVigil, State.commitLedger_mem, State.discardReplay_mem, State.modLedger_mem, State.sendAbsent_mem, apply_ite State.mem, apply_ite Prod.fst, ite_self, implies_true, foldl_mem, foldl_fst_mem]

theorem State.jsend_mem (s : State) (id) (m) : (State.jsend s id m).mem = s.mem := by
  simp -implicitDefEqProofs only [State.jsend]
  repeat' split
  all_goals simp -implicitDefEqProofs only [State.setSession_mem, apply_ite State.mem, apply_ite Prod.fst, ite_self, implies_true, foldl_mem, foldl_fst_mem]

theorem State.queueEvent_mem (s : State) (code) (die) (source) (step) (detail) (key) : (State.queueEvent s code die source step detail key).mem = s.mem := by simp -implicitDefEqProofs only [State.queueEvent, State.bump_mem, State.jsend_mem, apply_ite State.mem, apply_ite Prod.fst, ite_self, implies_true, foldl_mem, foldl_fst_mem]

theorem State.event_mem (s : State) (code) (die) (source) (step) (detail) (key) : (State.event s code die source step detail key).mem = s.mem := by simp -implicitDefEqProofs only [State.event, State.bump_mem, State.queueEvent_mem, apply_ite State.mem, apply_ite Prod.fst, ite_self, implies_true, foldl_mem, foldl_fst_mem]

theorem State.ledgerCe_mem (s : State) (cls) (source) : (State.ledgerCe s cls source).mem = s.mem := by simp -implicitDefEqProofs only [State.ledgerCe, State.modLedger_mem, apply_ite State.mem, apply_ite Prod.fst, ite_self, implies_true, foldl_mem, foldl_fst_mem]

theorem State.capture_mem (s : State) (cls) (w) : (State.capture s cls w).mem = s.mem := by
  simp -implicitDefEqProofs only [State.capture]
  repeat' split
  all_goals simp -implicitDefEqProofs only [State.enqueueRec_mem, State.enterVigil_mem, State.event_mem, State.ledgerCe_mem, State.modLedger_mem, State.setErrQueue_mem, apply_ite State.mem, apply_ite Prod.fst, ite_self, implies_true, foldl_mem, foldl_fst_mem]

theorem State.auditBroken_mem (s : State) (p) (v) : (State.auditBroken s p v).mem = s.mem := by simp -implicitDefEqProofs only [State.auditBroken, State.capture_mem, apply_ite State.mem, apply_ite Prod.fst, ite_self, implies_true, foldl_mem, foldl_fst_mem]

theorem State.modFport_mem (s : State) (p) (f) : (State.modFport s p f).mem = s.mem := by simp -implicitDefEqProofs only [State.modFport, State.setFport_mem, apply_ite State.mem, apply_ite Prod.fst, ite_self, implies_true, foldl_mem, foldl_fst_mem]

theorem State.sendTrain_mem (s : State) (p) : (State.sendTrain s p).mem = s.mem := by simp -implicitDefEqProofs only [State.sendTrain, State.setFport_mem, apply_ite State.mem, apply_ite Prod.fst, ite_self, implies_true, foldl_mem, foldl_fst_mem]

theorem State.retrain_mem (s : State) (p) : (State.retrain s p).mem = s.mem := by simp -implicitDefEqProofs only [State.retrain, State.bump_mem, State.modFport_mem, State.sendTrain_mem, apply_ite State.mem, apply_ite Prod.fst, ite_self, implies_true, foldl_mem, foldl_fst_mem]

theorem State.creditBack_mem (s : State) (p) (v) (n) : (State.creditBack s p v n).mem = s.mem := by simp -implicitDefEqProofs only [State.creditBack, State.auditBroken_mem, State.retrain_mem, State.setFport_mem, apply_ite State.mem, apply_ite Prod.fst, ite_self, implies_true, foldl_mem, foldl_fst_mem]

theorem State.resend_mem (s : State) (p) : (State.resend s p).mem = s.mem := by simp -implicitDefEqProofs only [State.resend, State.bump_mem, State.retrain_mem, State.setFport_mem, apply_ite State.mem, apply_ite Prod.fst, ite_self, implies_true, foldl_mem, foldl_fst_mem]

theorem State.arrived_mem (s : State) (p) (q) : (State.arrived s p q).mem = s.mem := by simp -implicitDefEqProofs only [State.arrived, State.bump_mem, apply_ite State.mem, apply_ite Prod.fst, ite_self, implies_true, foldl_mem, foldl_fst_mem]

theorem State.takeFlit_mem (s : State) (p) (x) : (State.takeFlit s p x).mem = s.mem := by
  simp -implicitDefEqProofs only [State.takeFlit]
  repeat' split
  all_goals simp -implicitDefEqProofs only [State.arrived_mem, State.bump_mem, State.modFport_mem, State.setAlmanac_mem, apply_ite State.mem, apply_ite Prod.fst, ite_self, implies_true, foldl_mem, foldl_fst_mem]

theorem State.acceptFrame_mem (s : State) (p) (f) : (State.acceptFrame s p f).mem = s.mem := by simp -implicitDefEqProofs only [State.acceptFrame, State.creditBack_mem, State.modFport_mem, State.resend_mem, State.takeFlit_mem, apply_ite State.mem, apply_ite Prod.fst, ite_self, implies_true, foldl_mem, foldl_fst_mem]

theorem State.sendWaiting_mem (s : State) (id) : (State.sendWaiting s id).mem = s.mem := by
  simp -implicitDefEqProofs only [State.sendWaiting]
  repeat' split
  all_goals simp -implicitDefEqProofs only [State.emit_mem, State.setSession_mem, apply_ite State.mem, apply_ite Prod.fst, ite_self, implies_true, foldl_mem, foldl_fst_mem]

theorem State.acked_mem (s : State) (id) (n) : (State.acked s id n).mem = s.mem := by
  simp -implicitDefEqProofs only [State.acked]
  repeat' split
  all_goals simp -implicitDefEqProofs only [State.sendWaiting_mem, State.setSession_mem, apply_ite State.mem, apply_ite Prod.fst, ite_self, implies_true, foldl_mem, foldl_fst_mem]

theorem State.isolated_mem (s : State) (a) : (State.isolated s a).mem = s.mem := by simp -implicitDefEqProofs only [State.isolated, State.bump_mem, State.capture_mem, apply_ite State.mem, apply_ite Prod.fst, ite_self, implies_true, foldl_mem, foldl_fst_mem]

theorem State.admitted_mem (s : State) (w) (k) (a) (n) : (State.admitted s w k a n).1.mem = s.mem := by
  simp -implicitDefEqProofs only [State.admitted]
  repeat' split
  all_goals simp -implicitDefEqProofs only [State.isolated_mem, apply_ite State.mem, apply_ite Prod.fst, ite_self, implies_true, foldl_mem, foldl_fst_mem]

theorem State.admitWhole_mem (s : State) (p) (a) (n) : (State.admitWhole s p a n).1.mem = s.mem := by simp -implicitDefEqProofs only [State.admitWhole, State.admitted_mem, apply_ite State.mem, apply_ite Prod.fst, ite_self, implies_true, foldl_mem, foldl_fst_mem]

theorem State.modSlot_mem (s : State) (k) (f) : (State.modSlot s k f).mem = s.mem := by simp -implicitDefEqProofs only [State.modSlot, State.setSlot_mem, apply_ite State.mem, apply_ite Prod.fst, ite_self, implies_true, foldl_mem, foldl_fst_mem]

theorem State.stageVersion_mem (s : State) (k) : (State.stageVersion s k).mem = s.mem := by simp -implicitDefEqProofs only [State.stageVersion, State.modSlot_mem, apply_ite State.mem, apply_ite Prod.fst, ite_self, implies_true, foldl_mem, foldl_fst_mem]

theorem State.beginExchange_mem (s : State) : (State.beginExchange s).mem = s.mem := by simp -implicitDefEqProofs only [State.beginExchange, State.setGroup_mem, State.stageVersion_mem, apply_ite State.mem, apply_ite Prod.fst, ite_self, implies_true, foldl_mem, foldl_fst_mem]

theorem State.freshId_mem (s : State) (u) : (State.freshId s u).1.mem = s.mem := rfl

theorem State.injectAt_mem (s : State) (die) (p) : (State.injectAt s die p).mem = s.mem := by simp -implicitDefEqProofs only [State.injectAt, State.setAlmanac_mem, apply_ite State.mem, apply_ite Prod.fst, ite_self, implies_true, foldl_mem, foldl_fst_mem]

theorem State.inject_mem (s : State) (p) : (State.inject s p).mem = s.mem := by simp -implicitDefEqProofs only [State.inject, State.injectAt_mem, apply_ite State.mem, apply_ite Prod.fst, ite_self, implies_true, foldl_mem, foldl_fst_mem]

theorem State.send_mem (s : State) (u) (ps) (acks) (op) (off) : (State.send s u ps acks op off).1.mem = s.mem := by simp -implicitDefEqProofs only [State.send, State.freshId_mem, State.inject_mem, apply_ite State.mem, apply_ite Prod.fst, ite_self, implies_true, foldl_mem, foldl_fst_mem]

theorem State.post_mem (s : State) (u) (dst) (key) (b) : (State.post s u dst key b).mem = s.mem := by simp -implicitDefEqProofs only [State.post, State.send_mem, apply_ite State.mem, apply_ite Prod.fst, ite_self, implies_true, foldl_mem, foldl_fst_mem]

theorem State.returnCredit_mem (s : State) (k) (q) (producer) (e) : (State.returnCredit s k q producer e).mem = s.mem := by simp -implicitDefEqProofs only [State.returnCredit, State.bump_mem, State.post_mem, apply_ite State.mem, apply_ite Prod.fst, ite_self, implies_true, foldl_mem, foldl_fst_mem]

theorem State.versionError_mem (s : State) (k) (w) : (State.versionError s k w).mem = s.mem := by simp -implicitDefEqProofs only [State.versionError, State.capture_mem, State.modSlot_mem, apply_ite State.mem, apply_ite Prod.fst, ite_self, implies_true, foldl_mem, foldl_fst_mem]

theorem State.checkEntries_mem (s0 s : State) (k) (q) : (State.checkEntries s0 s k q).mem = s.mem := by
  unfold State.checkEntries
  refine foldl_mem _ (fun s e => ?_) _ _
  dsimp only
  repeat' split
  · rfl
  · rw [State.returnCredit_mem, State.modSlot_mem]; exact foldl_mem _ (fun s p => State.versionError_mem s k _) _ _
  · rw [State.modSlot_mem]; exact foldl_mem _ (fun s p => State.versionError_mem s k _) _ _

theorem State.checkVersions_mem (s0 s : State) : (State.checkVersions s0 s).mem = s.mem := by
  unfold State.checkVersions
  exact foldl_mem _ (fun s k => by rw [State.checkEntries_mem, State.checkEntries_mem]) _ _

theorem State.writeNoise_mem (s : State) (step) (outcome) (att) (l) : (State.writeNoise s step outcome att l).mem = s.mem := by simp -implicitDefEqProofs only [State.writeNoise, State.setGroup_mem, apply_ite State.mem, apply_ite Prod.fst, ite_self, implies_true, foldl_mem, foldl_fst_mem]

theorem State.noteOutcome_mem (s : State) (kind) (step) (att) (total) (lossExp) : (State.noteOutcome s kind step att total lossExp).mem = s.mem := by
  simp -implicitDefEqProofs only [State.noteOutcome]
  repeat' split
  all_goals simp -implicitDefEqProofs only [State.bump_mem, State.setGroup_mem, State.writeNoise_mem, apply_ite State.mem, apply_ite Prod.fst, ite_self, implies_true, foldl_mem, foldl_fst_mem]

theorem State.retarget_mem (s : State) : (State.retarget s).mem = s.mem := by simp -implicitDefEqProofs only [State.retarget, State.bump_mem, State.setPower_mem, apply_ite State.mem, apply_ite Prod.fst, ite_self, implies_true, foldl_mem, foldl_fst_mem]

theorem State.statusRecord_mem (s : State) (n) (o) (status) : (State.statusRecord s n o status).mem = s.mem := by simp -implicitDefEqProofs only [State.statusRecord, State.capture_mem, apply_ite State.mem, apply_ite Prod.fst, ite_self, implies_true, foldl_mem, foldl_fst_mem]

theorem State.endQueued_mem (s : State) (n) (x) (gone) (status) : (State.endQueued s n x gone status).mem = s.mem := by simp -implicitDefEqProofs only [State.endQueued, State.setCtx_mem, State.statusRecord_mem, apply_ite State.mem, apply_ite Prod.fst, ite_self, implies_true, foldl_mem, foldl_fst_mem]

theorem State.endExchOps_mem (s : State) : (State.endExchOps s).mem = s.mem := by simp -implicitDefEqProofs only [State.endExchOps, State.bump_mem, State.endQueued_mem, apply_ite State.mem, apply_ite Prod.fst, ite_self, implies_true, foldl_mem, foldl_fst_mem]

theorem State.endExperts_mem (s : State) (k) (isOver) : (State.endExperts s k isOver).mem = s.mem := by simp -implicitDefEqProofs only [State.endExperts, State.bump_mem, State.setSlot_mem, apply_ite State.mem, apply_ite Prod.fst, ite_self, implies_true, foldl_mem, foldl_fst_mem]

theorem State.dropStaged_mem (s : State) (k) : (State.dropStaged s k).mem = s.mem := by simp -implicitDefEqProofs only [State.dropStaged, State.modSlot_mem, apply_ite State.mem, apply_ite Prod.fst, ite_self, implies_true, foldl_mem, foldl_fst_mem]

theorem State.releaseVersions_mem (s : State) (k) : (State.releaseVersions s k).mem = s.mem := by simp -implicitDefEqProofs only [State.releaseVersions, State.modSlot_mem, apply_ite State.mem, apply_ite Prod.fst, ite_self, implies_true, foldl_mem, foldl_fst_mem]

theorem State.fastVersions_mem (s : State) (k) : (State.fastVersions s k).mem = s.mem := by simp -implicitDefEqProofs only [State.fastVersions, State.dropStaged_mem, State.releaseVersions_mem, apply_ite State.mem, apply_ite Prod.fst, ite_self, implies_true, foldl_mem, foldl_fst_mem]

theorem State.freeEnded_mem (s : State) (k) (q) (ended) : (State.freeEnded s k q ended).mem = s.mem := by simp -implicitDefEqProofs only [State.freeEnded, State.modSlot_mem, State.returnCredit_mem, apply_ite State.mem, apply_ite Prod.fst, ite_self, implies_true, foldl_mem, foldl_fst_mem]

theorem State.slotFast_mem (s : State) (k) (reopened) (reopen) : (State.slotFast s k reopened reopen).mem = s.mem := by simp -implicitDefEqProofs only [State.slotFast, State.bump_mem, State.fastVersions_mem, State.freeEnded_mem, State.modSlot_mem, apply_ite State.mem, apply_ite Prod.fst, ite_self, implies_true, foldl_mem, foldl_fst_mem]

theorem State.feastVersions_mem (s : State) (k) : (State.feastVersions s k).mem = s.mem := by simp -implicitDefEqProofs only [State.feastVersions, State.modSlot_mem, State.releaseVersions_mem, apply_ite State.mem, apply_ite Prod.fst, ite_self, implies_true, foldl_mem, foldl_fst_mem]

theorem State.slotFeast_mem (s : State) (k) : (State.slotFeast s k).mem = s.mem := by simp -implicitDefEqProofs only [State.slotFeast, State.feastVersions_mem, State.freeEnded_mem, State.modSlot_mem, apply_ite State.mem, apply_ite Prod.fst, ite_self, implies_true, foldl_mem, foldl_fst_mem]

theorem State.slotsOutcome_mem (s : State) (fast) (next) (reopen) : (State.slotsOutcome s fast next reopen).mem = s.mem := by simp -implicitDefEqProofs only [State.slotsOutcome, State.endExchOps_mem, State.endExperts_mem, State.slotFast_mem, State.slotFeast_mem, apply_ite State.mem, apply_ite Prod.fst, ite_self, implies_true, foldl_mem, foldl_fst_mem]

theorem State.modCtx_mem (s : State) (n) (x) (f) : (State.modCtx s n x f).mem = s.mem := by simp -implicitDefEqProofs only [State.modCtx, State.setCtx_mem, apply_ite State.mem, apply_ite Prod.fst, ite_self, implies_true, foldl_mem, foldl_fst_mem]

theorem State.stopGroup_mem (s : State) (keep) : (State.stopGroup s keep).mem = s.mem := by simp -implicitDefEqProofs only [State.stopGroup, State.dropStaged_mem, State.endExchOps_mem, State.endExperts_mem, State.modCtx_mem, apply_ite State.mem, apply_ite Prod.fst, ite_self, implies_true, foldl_mem, foldl_fst_mem]

theorem State.outcome_mem (s : State) (kind) (stop) (nextL) : (State.outcome s kind stop nextL).mem = s.mem := by simp -implicitDefEqProofs only [State.outcome, State.beginExchange_mem, State.capture_mem, State.checkVersions_mem, State.noteOutcome_mem, State.retarget_mem, State.setGroup_mem, State.slotsOutcome_mem, State.stopGroup_mem, apply_ite State.mem, apply_ite Prod.fst, ite_self, implies_true, foldl_mem, foldl_fst_mem]

theorem State.endOpen_mem (s : State) : (State.endOpen s).mem = s.mem := by simp -implicitDefEqProofs only [State.endOpen, State.setGroup_mem, apply_ite State.mem, apply_ite Prod.fst, ite_self, implies_true, foldl_mem, foldl_fst_mem]

theorem State.selfFast_mem (s : State) (reason) : (State.selfFast s reason).mem = s.mem := by simp -implicitDefEqProofs only [State.selfFast, State.bump_mem, State.capture_mem, State.endOpen_mem, State.event_mem, State.retarget_mem, State.setGroup_mem, State.stopGroup_mem, apply_ite State.mem, apply_ite Prod.fst, ite_self, implies_true, foldl_mem, foldl_fst_mem]

theorem State.sendCommit_mem (s : State) (r) (m) (rec) : (State.sendCommit s r m rec).mem = s.mem := by simp -implicitDefEqProofs only [State.sendCommit, State.post_mem, apply_ite State.mem, apply_ite Prod.fst, ite_self, implies_true, foldl_mem, foldl_fst_mem]

theorem State.toChildren_mem (s : State) (m) : (State.toChildren s m).mem = s.mem := by simp -implicitDefEqProofs only [State.toChildren, State.sendCommit_mem, apply_ite State.mem, apply_ite Prod.fst, ite_self, implies_true, foldl_mem, foldl_fst_mem]

theorem State.applyOutcome_mem (s : State) (m) : (State.applyOutcome s m).mem = s.mem := by simp -implicitDefEqProofs only [State.applyOutcome, State.capture_mem, State.outcome_mem, State.selfFast_mem, State.toChildren_mem, apply_ite State.mem, apply_ite Prod.fst, ite_self, implies_true, foldl_mem, foldl_fst_mem]

theorem State.decideOutcome_mem (s : State) (kind) : (State.decideOutcome s kind).mem = s.mem := by simp -implicitDefEqProofs only [State.decideOutcome, State.applyOutcome_mem, apply_ite State.mem, apply_ite Prod.fst, ite_self, implies_true, foldl_mem, foldl_fst_mem]

theorem State.eveFirst_mem (s : State) : (State.eveFirst s).mem = s.mem := by simp -implicitDefEqProofs only [State.eveFirst, State.sendCommit_mem, State.setGroup_mem, apply_ite State.mem, apply_ite Prod.fst, ite_self, implies_true, foldl_mem, foldl_fst_mem]

theorem State.advance_mem (s : State) : (State.advance s).mem = s.mem := by simp -implicitDefEqProofs only [State.advance, State.bump_mem, State.decideOutcome_mem, State.eveFirst_mem, State.sendCommit_mem, State.setGroup_mem, apply_ite State.mem, apply_ite Prod.fst, ite_self, implies_true, foldl_mem, foldl_fst_mem]

theorem State.respondAt_mem (s : State) (die) (p) (b) : (State.respondAt s die p b).mem = s.mem := by simp -implicitDefEqProofs only [State.respondAt, State.injectAt_mem, apply_ite State.mem, apply_ite Prod.fst, ite_self, implies_true, foldl_mem, foldl_fst_mem]

theorem State.answerAt_mem (s : State) (die) (p) (status) : (State.answerAt s die p status).mem = s.mem := by simp -implicitDefEqProofs only [State.answerAt, State.respondAt_mem, apply_ite State.mem, apply_ite Prod.fst, ite_self, implies_true, foldl_mem, foldl_fst_mem]

theorem State.answer_mem (s : State) (p) (status) : (State.answer s p status).mem = s.mem := by simp -implicitDefEqProofs only [State.answer, State.answerAt_mem, apply_ite State.mem, apply_ite Prod.fst, ite_self, implies_true, foldl_mem, foldl_fst_mem]

theorem State.faultContext_mem (s : State) (n) (x) (code) (pc) (step) (att) : (State.faultContext s n x code pc step att).mem = s.mem := by simp -implicitDefEqProofs only [State.faultContext, State.capture_mem, State.event_mem, State.setCtx_mem, apply_ite State.mem, apply_ite Prod.fst, ite_self, implies_true, foldl_mem, foldl_fst_mem]

theorem State.opFault_mem (s : State) (n) (x) (k) (op) (code) : (State.opFault s n x k op code).mem = s.mem := by simp -implicitDefEqProofs only [State.opFault, State.faultContext_mem, State.modCtx_mem, apply_ite State.mem, apply_ite Prod.fst, ite_self, implies_true, foldl_mem, foldl_fst_mem]

theorem State.localEnd_mem (s : State) (n) (x) : (State.localEnd s n x).mem = s.mem := by
  simp -implicitDefEqProofs only [State.localEnd]
  repeat' split
  all_goals simp -implicitDefEqProofs only [State.opFault_mem, apply_ite State.mem, apply_ite Prod.fst, ite_self, implies_true, foldl_mem, foldl_fst_mem]

theorem State.endMsg_mem (s : State) (m) : (State.endMsg s m).mem = s.mem := by
  simp -implicitDefEqProofs only [State.endMsg]
  repeat' split
  all_goals simp -implicitDefEqProofs only [State.answer_mem, State.setSent_mem, State.localEnd_mem, State.modCtx_mem, State.modSlot_mem, apply_ite State.mem, apply_ite Prod.fst, ite_self, implies_true, foldl_mem, foldl_fst_mem]

theorem State.endUnreachable_mem (s : State) (node) : (State.endUnreachable s node).mem = s.mem := by simp -implicitDefEqProofs only [State.endUnreachable, State.endMsg_mem, apply_ite State.mem, apply_ite Prod.fst, ite_self, implies_true, foldl_mem, foldl_fst_mem]

theorem State.afterLoss_mem (s : State) (p) : (State.afterLoss s p).mem = s.mem := by simp -implicitDefEqProofs only [State.afterLoss, State.endUnreachable_mem, apply_ite State.mem, apply_ite Prod.fst, ite_self, implies_true, foldl_mem, foldl_fst_mem]

theorem State.demandUnit_mem (s : State) (u) : (State.demandUnit s u).1.mem = s.mem := by
  simp -implicitDefEqProofs only [State.demandUnit]
  repeat' split
  all_goals simp -implicitDefEqProofs only [State.bump_mem, State.capture_mem, State.mcCount_mem, State.setCond_mem, apply_ite State.mem, apply_ite Prod.fst, ite_self, implies_true, foldl_mem, foldl_fst_mem]

theorem State.keyRefused_mem (s : State) (a) : (State.keyRefused s a).mem = s.mem := by simp -implicitDefEqProofs only [State.keyRefused, State.bump_mem, State.capture_mem, apply_ite State.mem, apply_ite Prod.fst, ite_self, implies_true, foldl_mem, foldl_fst_mem]

theorem State.hbmRead_mem (s : State) (k) (a) (n) : (State.hbmRead s k a n).1.mem = s.mem := by simp -implicitDefEqProofs only [State.hbmRead, State.bump_mem, State.demandUnit_mem, State.keyRefused_mem, apply_ite State.mem, apply_ite Prod.fst, ite_self, implies_true, foldl_mem, foldl_fst_mem]

theorem State.agreed_mem (s : State) (g) : (State.agreed s g).1.mem = s.mem := by
  unfold State.agreed
  refine foldl_fst_mem _ (fun p i => ?_) _ _
  split
  · rfl
  · split
    · next e => exact (fst_mem e).trans (State.hbmRead_mem ..)
    · next e => exact (fst_mem e).trans (State.hbmRead_mem ..)

theorem State.switchRefused_mem (s : State) : (State.switchRefused s).mem = s.mem := by simp -implicitDefEqProofs only [State.switchRefused, State.bump_mem, State.setAlmanac_mem, apply_ite State.mem, apply_ite Prod.fst, ite_self, implies_true, foldl_mem, foldl_fst_mem]

theorem State.loadOpen_mem (s : State) : (State.loadOpen s).mem = s.mem := by simp -implicitDefEqProofs only [State.loadOpen, State.setAlmanac_mem, State.switchRefused_mem, apply_ite State.mem, apply_ite Prod.fst, ite_self, implies_true, foldl_mem, foldl_fst_mem]

theorem State.loadSeal_mem (s : State) : (State.loadSeal s).mem = s.mem := by simp -implicitDefEqProofs only [State.loadSeal, State.setAlmanac_mem, apply_ite State.mem, apply_ite Prod.fst, ite_self, implies_true, foldl_mem, foldl_fst_mem]

theorem State.openRound_mem (s : State) : (State.openRound s).mem = s.mem := by simp -implicitDefEqProofs only [State.openRound, State.post_mem, State.setAlmanac_mem, apply_ite State.mem, apply_ite Prod.fst, ite_self, implies_true, foldl_mem, foldl_fst_mem]

theorem State.startDrain_mem (s : State) : (State.startDrain s).mem = s.mem := by simp -implicitDefEqProofs only [State.startDrain, State.openRound_mem, State.setAlmanac_mem, apply_ite State.mem, apply_ite Prod.fst, ite_self, implies_true, foldl_mem, foldl_fst_mem]

theorem State.switchNow_mem (s : State) : (State.switchNow s).mem = s.mem := by simp -implicitDefEqProofs only [State.switchNow, State.setAlmanac_mem, State.switchRefused_mem, apply_ite State.mem, apply_ite Prod.fst, ite_self, implies_true, foldl_mem, foldl_fst_mem]

theorem State.almanacCmd_mem (s : State) (v) : (State.almanacCmd s v).1.mem = s.mem := by simp -implicitDefEqProofs only [State.almanacCmd, accepted, State.loadOpen_mem, State.loadSeal_mem, State.setAlmanac_mem, State.startDrain_mem, State.switchNow_mem, apply_ite State.mem, apply_ite Prod.fst, ite_self, implies_true, foldl_mem, foldl_fst_mem]

theorem State.andThen_mem (s : State) (f) (hf : ∀ s, (f s).mem = s.mem) : (s.andThen f).mem = s.mem := by
  unfold State.andThen; split <;> simp only [hf]

theorem State.answered_mem (s : State) (u) (id) (status) : (State.answered s u id status).mem = s.mem := by
  simp -implicitDefEqProofs only [State.answered]
  repeat' split
  all_goals simp -implicitDefEqProofs only [State.endMsg_mem, State.setSent_mem, apply_ite State.mem, apply_ite Prod.fst, ite_self, implies_true, foldl_mem, foldl_fst_mem]

theorem State.closeSession_mem (s : State) (id) (send) : (State.closeSession s id send).mem = s.mem := by
  simp -implicitDefEqProofs only [State.closeSession]
  repeat' split
  all_goals simp -implicitDefEqProofs only [State.bump_mem, State.emit_mem, apply_ite State.mem, apply_ite Prod.fst, ite_self, implies_true, foldl_mem, foldl_fst_mem]

theorem State.jAck_mem (s : State) (id) : (State.jAck s id).mem = s.mem := by
  simp -implicitDefEqProofs only [State.jAck]
  repeat' split
  all_goals simp -implicitDefEqProofs only [State.emit_mem, apply_ite State.mem, apply_ite Prod.fst, ite_self, implies_true, foldl_mem, foldl_fst_mem]

theorem State.jError_mem (s : State) (id) (m) (status) : (State.jError s id m status).mem = s.mem := by simp -implicitDefEqProofs only [State.jError, State.jsend_mem, apply_ite State.mem, apply_ite Prod.fst, ite_self, implies_true, foldl_mem, foldl_fst_mem]

theorem State.jStatus_mem (s : State) (id) (m) (status) : (State.jStatus s id m status).mem = s.mem := by simp -implicitDefEqProofs only [State.jStatus, State.jError_mem, apply_ite State.mem, apply_ite Prod.fst, ite_self, implies_true, foldl_mem, foldl_fst_mem]

theorem State.stepDoorbell_mem (s : State) (l) : (State.stepDoorbell s l).mem = s.mem := by simp -implicitDefEqProofs only [State.stepDoorbell, State.checkVersions_mem, apply_ite State.mem, apply_ite Prod.fst, ite_self, implies_true, foldl_mem, foldl_fst_mem]

theorem State.outsideRead_mem (s : State) (w k a n) : (s.outsideRead w k a n).1.mem = s.mem := by
  unfold State.outsideRead
  split
  · next e => exact (fst_mem e).trans (State.admitted_mem ..)
  · next e =>
    have h := (fst_mem e).trans (State.admitted_mem ..)
    split
    · split
      · next e2 => exact ((fst_mem e2).trans (State.hbmRead_mem ..)).trans h
      · next e2 => exact ((fst_mem e2).trans (State.hbmRead_mem ..)).trans h
    · split <;> exact h

theorem State.jData_mem (s : State) (id) (m) (bs) : (State.jData s id m bs).mem = s.mem := by simp -implicitDefEqProofs only [State.jData, State.jsend_mem, apply_ite State.mem, apply_ite Prod.fst, ite_self, implies_true, foldl_mem, foldl_fst_mem]

theorem State.jRead_mem (s : State) (ss) (m) : (State.jRead s ss m).mem = s.mem := by
  simp -implicitDefEqProofs only [State.jRead]
  repeat' split
  all_goals simp -implicitDefEqProofs only [State.jData_mem, State.jError_mem, State.outsideRead_mem, apply_ite State.mem, apply_ite Prod.fst, ite_self, implies_true, foldl_mem, foldl_fst_mem]

theorem State.blkTouch_mem (s : State) (b) : (State.blkTouch s b).mem = s.mem := by simp -implicitDefEqProofs only [State.blkTouch, State.modBlock_mem, apply_ite State.mem, apply_ite Prod.fst, ite_self, implies_true, foldl_mem, foldl_fst_mem]

theorem State.blkGuard_mem (s : State) (b) : (State.blkGuard s b).1.mem = s.mem := by simp -implicitDefEqProofs only [State.blkGuard, State.blkTouch_mem, State.modBlock_mem, apply_ite State.mem, apply_ite Prod.fst, ite_self, implies_true, foldl_mem, foldl_fst_mem]

theorem State.rejectCfg_mem (s : State) (b) : (State.rejectCfg s b).1.mem = s.mem := by simp -implicitDefEqProofs only [State.rejectCfg, State.modBlock_mem, apply_ite State.mem, apply_ite Prod.fst, ite_self, implies_true, foldl_mem, foldl_fst_mem]

theorem State.writeCfg_mem (s : State) (b) (v) (k) : (State.writeCfg s b v k).1.mem = s.mem := by simp -implicitDefEqProofs only [State.writeCfg, State.acceptCfg_mem, State.modBlock_mem, State.rejectCfg_mem, apply_ite State.mem, apply_ite Prod.fst, ite_self, implies_true, foldl_mem, foldl_fst_mem]

theorem State.cmdIgnored_mem (s : State) (n) : (State.cmdIgnored s n).mem = s.mem := by simp -implicitDefEqProofs only [State.cmdIgnored, State.modBlock_mem, apply_ite State.mem, apply_ite Prod.fst, ite_self, implies_true, foldl_mem, foldl_fst_mem]

theorem State.dropMessages_mem (s : State) (n) (x) : (State.dropMessages s n x).mem = s.mem := rfl

theorem State.cmdResult_mem (s : State) (n) (x) (ok) : (State.cmdResult s n x ok).mem = s.mem := by simp -implicitDefEqProofs only [State.cmdResult, State.modBlock_mem, State.modCtx_mem, apply_ite State.mem, apply_ite Prod.fst, ite_self, implies_true, foldl_mem, foldl_fst_mem]

theorem State.leaveBrim_mem (s : State) (n x) : (State.leaveBrim s n x).mem = s.mem := by unfold State.leaveBrim; split <;> rfl

theorem State.clearWatch_mem (s : State) : (State.clearWatch s).mem = s.mem := rfl

theorem State.dropSpill_mem (s : State) (n x) : (State.dropSpill s n x).mem = s.mem := by unfold State.dropSpill; split <;> rfl

theorem State.registerReshard_mem (s : State) (n) (x) (o) : (State.registerReshard s n x o).mem = s.mem := rfl

theorem State.remarkReshards_mem (s : State) (n) (x) : (State.remarkReshards s n x).mem = s.mem := by simp -implicitDefEqProofs only [State.remarkReshards, State.registerReshard_mem, apply_ite State.mem, apply_ite Prod.fst, ite_self, implies_true, foldl_mem, foldl_fst_mem]

theorem State.hbmRead_eq {s t : State} {k a n o} (e : s.hbmRead k a n = (t, o)) : t.mem = s.mem := by
  have h := State.hbmRead_mem s k a n
  rw [e] at h; exact h

theorem State.disableCtx_mem (s : State) (n) (x) : (State.disableCtx s n x).mem = s.mem := by simp -implicitDefEqProofs only [State.disableCtx, State.setCtx_mem, apply_ite State.mem, apply_ite Prod.fst, ite_self, implies_true, foldl_mem, foldl_fst_mem]

theorem State.disableCore_mem (s : State) (n) : (State.disableCore s n).mem = s.mem := by simp -implicitDefEqProofs only [State.disableCore, State.disableCtx_mem, State.setCoreSt_mem, apply_ite State.mem, apply_ite Prod.fst, ite_self, implies_true, foldl_mem, foldl_fst_mem]

theorem State.enableCore_mem (s : State) (n) : (State.enableCore s n).1.mem = s.mem := by simp -implicitDefEqProofs only [State.enableCore, State.modBlock_mem, apply_ite State.mem, apply_ite Prod.fst, ite_self, implies_true, foldl_mem, foldl_fst_mem]

theorem State.turnedAway_mem (s : State) (die) (p) (status) : (State.turnedAway s die p status).mem = s.mem := by simp -implicitDefEqProofs only [State.turnedAway, State.answerAt_mem, apply_ite State.mem, apply_ite Prod.fst, ite_self, implies_true, foldl_mem, foldl_fst_mem]

theorem State.lost_mem (s : State) (die) (q) : (State.lost s die q).mem = s.mem := by simp -implicitDefEqProofs only [State.lost, State.injectAt_mem, State.turnedAway_mem, apply_ite State.mem, apply_ite Prod.fst, ite_self, implies_true, foldl_mem, foldl_fst_mem]

theorem State.loseReplay_mem (s : State) (p) : (State.loseReplay s p).mem = s.mem := by simp -implicitDefEqProofs only [State.loseReplay, State.discardReplay_mem, State.lost_mem, apply_ite State.mem, apply_ite Prod.fst, ite_self, implies_true, foldl_mem, foldl_fst_mem]

theorem State.fportOff_mem (s : State) (p) : (State.fportOff s p).mem = s.mem := by simp -implicitDefEqProofs only [State.fportOff, State.afterLoss_mem, State.loseReplay_mem, State.modBlock_mem, State.modFport_mem, State.sendAbsent_mem, apply_ite State.mem, apply_ite Prod.fst, ite_self, implies_true, foldl_mem, foldl_fst_mem]

theorem State.trainAfresh_mem (s : State) (p) : (State.trainAfresh s p).mem = s.mem := by simp -implicitDefEqProofs only [State.trainAfresh, State.modFport_mem, State.sendTrain_mem, apply_ite State.mem, apply_ite Prod.fst, ite_self, implies_true, foldl_mem, foldl_fst_mem]

theorem State.fportOn_mem (s : State) (p) : (State.fportOn s p).mem = s.mem := by simp -implicitDefEqProofs only [State.fportOn, State.modBlock_mem, State.trainAfresh_mem, apply_ite State.mem, apply_ite Prod.fst, ite_self, implies_true, foldl_mem, foldl_fst_mem]

theorem State.slotOff_mem (s : State) (k) : (State.slotOff s k).mem = s.mem := by simp -implicitDefEqProofs only [State.slotOff, State.bump_mem, State.endExperts_mem, State.endQueued_mem, State.modBlock_mem, State.modCtx_mem, State.post_mem, State.setSlot_mem, apply_ite State.mem, apply_ite Prod.fst, ite_self, implies_true, foldl_mem, foldl_fst_mem]

theorem State.slotDisable_mem (s : State) (k) : (State.slotDisable s k).mem = s.mem := by simp -implicitDefEqProofs only [State.slotDisable, State.advance_mem, State.slotOff_mem, apply_ite State.mem, apply_ite Prod.fst, ite_self, implies_true, foldl_mem, foldl_fst_mem]

theorem State.slotRead_mem (s : State) (k) (a) (n) : (State.slotRead s k a n).1.mem = s.mem := by simp -implicitDefEqProofs only [State.slotRead, State.hbmRead_mem, apply_ite State.mem, apply_ite Prod.fst, ite_self, implies_true, foldl_mem, foldl_fst_mem]

theorem State.initVersions_mem (s : State) (k) : (State.initVersions s k).mem = s.mem := by simp -implicitDefEqProofs only [State.initVersions, State.modSlot_mem, apply_ite State.mem, apply_ite Prod.fst, ite_self, implies_true, foldl_mem, foldl_fst_mem]

theorem State.layerTable_mem (s : State) (k) : (State.layerTable s k).1.mem = s.mem := by grind [State.layerTable, State.slotRead_mem]

theorem State.sendGrants_mem (s : State) (k) (q) : (State.sendGrants s k q).mem = s.mem := by simp -implicitDefEqProofs only [State.sendGrants, State.bump_mem, State.modSlot_mem, State.post_mem, apply_ite State.mem, apply_ite Prod.fst, ite_self, implies_true, foldl_mem, foldl_fst_mem]

theorem State.slotBad_mem (s : State) (k) : (State.slotBad s k).mem = s.mem := by simp -implicitDefEqProofs only [State.slotBad, State.modBlock_mem, apply_ite State.mem, apply_ite Prod.fst, ite_self, implies_true, foldl_mem, foldl_fst_mem]

theorem State.closeSessions_mem (s : State) (which) (send) : (State.closeSessions s which send).mem = s.mem := by simp -implicitDefEqProofs only [State.closeSessions, State.closeSession_mem, apply_ite State.mem, apply_ite Prod.fst, ite_self, implies_true, foldl_mem, foldl_fst_mem]

theorem State.linkOff_mem (s : State) (p) (l) : (State.linkOff s p l).mem = s.mem := by simp -implicitDefEqProofs only [State.linkOff, State.closeSessions_mem, State.setLink_mem, apply_ite State.mem, apply_ite Prod.fst, ite_self, implies_true, foldl_mem, foldl_fst_mem]

theorem State.writePortEn_mem (s : State) (p) (en) : (State.writePortEn s p en).mem = s.mem := by simp -implicitDefEqProofs only [State.writePortEn, State.linkOff_mem, State.setLink_mem, State.setObj_mem, apply_ite State.mem, apply_ite Prod.fst, ite_self, implies_true, foldl_mem, foldl_fst_mem]

theorem State.applyRec_mem (s : State) (b) : (State.applyRec s b).mem = s.mem := by simp -implicitDefEqProofs only [State.applyRec, State.commitLedger_mem, State.setProfiles_mem, State.setSec_mem, apply_ite State.mem, apply_ite Prod.fst, ite_self, implies_true, foldl_mem, foldl_fst_mem]

theorem State.attNonce_mem (s : State) (r) (nonce) : (State.attNonce s r nonce).mem = s.mem := by simp -implicitDefEqProofs only [State.attNonce, State.setSec_mem, apply_ite State.mem, apply_ite Prod.fst, ite_self, implies_true, foldl_mem, foldl_fst_mem]

theorem State.authClose_mem (s : State) (r) : (State.authClose s r).mem = s.mem := by simp -implicitDefEqProofs only [State.authClose, State.setSec_mem, apply_ite State.mem, apply_ite Prod.fst, ite_self, implies_true, foldl_mem, foldl_fst_mem]

theorem State.newChallenge_mem (s : State) : (State.newChallenge s).mem = s.mem := by simp -implicitDefEqProofs only [State.newChallenge, State.setSec_mem, apply_ite State.mem, apply_ite Prod.fst, ite_self, implies_true, foldl_mem, foldl_fst_mem]

theorem State.secRecord_mem (s : State) (cls) : (State.secRecord s cls).mem = s.mem := by simp -implicitDefEqProofs only [State.secRecord, State.capture_mem, apply_ite State.mem, apply_ite Prod.fst, ite_self, implies_true, foldl_mem, foldl_fst_mem]

theorem State.authOpen_mem (s : State) (r) (sig) : (State.authOpen s r sig).1.mem = s.mem := by simp -implicitDefEqProofs only [State.authOpen, State.newChallenge_mem, State.secRecord_mem, State.setSec_mem, apply_ite State.mem, apply_ite Prod.fst, ite_self, implies_true, foldl_mem, foldl_fst_mem]

theorem State.badTileAt_mem (s : State) (w) (addr) (t) : (State.badTileAt s w addr t).mem = s.mem := by simp -implicitDefEqProofs only [State.badTileAt, State.capture_mem, apply_ite State.mem, apply_ite Prod.fst, ite_self, implies_true, foldl_mem, foldl_fst_mem]

theorem State.badTile_mem (s : State) (w) (off) (t) : (State.badTile s w off t).mem = s.mem := by simp -implicitDefEqProofs only [State.badTile, State.badTileAt_mem, apply_ite State.mem, apply_ite Prod.fst, ite_self, implies_true, foldl_mem, foldl_fst_mem]

theorem State.lanternPost_mem (s : State) (r) (m) : (State.lanternPost s r m).mem = s.mem := by simp -implicitDefEqProofs only [State.lanternPost, State.bump_mem, State.post_mem, apply_ite State.mem, apply_ite Prod.fst, ite_self, implies_true, foldl_mem, foldl_fst_mem]

theorem State.callChildren_mem (s : State) (epoch) (round) : (State.callChildren s epoch round).mem = s.mem := by simp -implicitDefEqProofs only [State.callChildren, State.lanternPost_mem, apply_ite State.mem, apply_ite Prod.fst, ite_self, implies_true, foldl_mem, foldl_fst_mem]

theorem State.startLine_mem (s : State) (u) (ps) (op) (parent) : (State.startLine s u ps op parent).1.mem = s.mem := by
  simp -implicitDefEqProofs only [State.startLine]
  repeat' split
  all_goals simp -implicitDefEqProofs only [State.freshId_mem, State.inject_mem, apply_ite State.mem, apply_ite Prod.fst, ite_self, implies_true, foldl_mem, foldl_fst_mem]

theorem State.startStages_mem (s : State) (u op parent n p) : (s.startStages u op parent n p).1.mem = s.mem := by
  induction n generalizing s p with
  | zero => simp only [State.startStages, State.startLine_mem]
  | succ n ih => simp only [State.startStages, ih, State.startLine_mem]

theorem State.lanternCast_mem (s : State) (m) : (State.lanternCast s m).mem = s.mem := by simp -implicitDefEqProofs only [State.lanternCast, State.bump_mem, State.startStages_mem, apply_ite State.mem, apply_ite Prod.fst, ite_self, implies_true, foldl_mem, foldl_fst_mem]

theorem State.lanternStale_mem (s : State) : (State.lanternStale s).mem = s.mem := by simp -implicitDefEqProofs only [State.lanternStale, State.bump_mem, apply_ite State.mem, apply_ite Prod.fst, ite_self, implies_true, foldl_mem, foldl_fst_mem]

theorem State.lanternSet_mem (s : State) (m) : (State.lanternSet s m).mem = s.mem := by simp -implicitDefEqProofs only [State.lanternSet, State.lanternCast_mem, State.lanternStale_mem, State.retarget_mem, State.setPower_mem, apply_ite State.mem, apply_ite Prod.fst, ite_self, implies_true, foldl_mem, foldl_fst_mem]

theorem State.lanternRound_mem (s : State) : (State.lanternRound s).mem = s.mem := by
  simp -implicitDefEqProofs only [State.lanternRound]
  repeat' split
  all_goals simp -implicitDefEqProofs only [State.lanternCast_mem, State.lanternPost_mem, State.lanternSet_mem, State.setPower_mem, apply_ite State.mem, apply_ite Prod.fst, ite_self, implies_true, foldl_mem, foldl_fst_mem]

theorem State.beacon_mem (s : State) : (State.beacon s).mem = s.mem := by simp -implicitDefEqProofs only [State.beacon, State.callChildren_mem, State.lanternRound_mem, State.setPower_mem, apply_ite State.mem, apply_ite Prod.fst, ite_self, implies_true, foldl_mem, foldl_fst_mem]

theorem State.beat_mem (s : State) : (State.beat s).mem = s.mem := by simp -implicitDefEqProofs only [State.beat, State.emit_mem, apply_ite State.mem, apply_ite Prod.fst, ite_self, implies_true, foldl_mem, foldl_fst_mem]

theorem State.dropXfer_mem (s : State) (h) : (State.dropXfer s h).mem = s.mem := rfl

theorem State.reply_mem (s : State) (a) : (State.reply s a).mem = s.mem := by simp -implicitDefEqProofs only [State.reply, State.emit_mem, apply_ite State.mem, apply_ite Prod.fst, ite_self, implies_true, foldl_mem, foldl_fst_mem]

theorem State.blockAbort_mem (s : State) (r) (tid) (h) : (State.blockAbort s r tid h).mem = s.mem := by simp -implicitDefEqProofs only [State.blockAbort, State.dropXfer_mem, State.reply_mem, apply_ite State.mem, apply_ite Prod.fst, ite_self, implies_true, foldl_mem, foldl_fst_mem]

theorem State.blockReadSeg_mem (s : State) (r) (tid) (h) (offset) (len) : (State.blockReadSeg s r tid h offset len).mem = s.mem := by
  simp -implicitDefEqProofs only [State.blockReadSeg]
  repeat' split
  all_goals simp -implicitDefEqProofs only [State.reply_mem, apply_ite State.mem, apply_ite Prod.fst, ite_self, implies_true, foldl_mem, foldl_fst_mem]

theorem State.openXfer_mem (s : State) (a) (write) (size) (buf) : (State.openXfer s a write size buf).mem = s.mem := by simp -implicitDefEqProofs only [State.openXfer, State.reply_mem, apply_ite State.mem, apply_ite Prod.fst, ite_self, implies_true, foldl_mem, foldl_fst_mem]

theorem State.clearOnRead_mem (s : State) (i) (sub) : (State.clearOnRead s i sub).mem = s.mem := by simp -implicitDefEqProofs only [State.clearOnRead, State.modSlot_mem, State.setFport_mem, apply_ite State.mem, apply_ite Prod.fst, ite_self, implies_true, foldl_mem, foldl_fst_mem]

theorem State.readObj_mem (s : State) (r) (i) (sub) : (State.readObj s r i sub).1.mem = s.mem := by
  simp -implicitDefEqProofs only [State.readObj]
  repeat' split
  all_goals simp -implicitDefEqProofs only [State.clearOnRead_mem, apply_ite State.mem, apply_ite Prod.fst, ite_self, implies_true, foldl_mem, foldl_fst_mem]

theorem State.blockReadStart_mem (s : State) (r) (tid) (index) (sub) : (State.blockReadStart s r tid index sub).mem = s.mem := by simp -implicitDefEqProofs only [State.blockReadStart, State.openXfer_mem, State.readObj_mem, State.reply_mem, apply_ite State.mem, apply_ite Prod.fst, ite_self, implies_true, foldl_mem, foldl_fst_mem]

theorem State.objTouch_mem (s : State) (i) (sub) : (State.objTouch s i sub).mem = s.mem := by
  simp -implicitDefEqProofs only [State.objTouch]
  repeat' split
  all_goals simp -implicitDefEqProofs only [State.blkTouch_mem, State.pkgTouch_mem, apply_ite State.mem, apply_ite Prod.fst, ite_self, implies_true, foldl_mem, foldl_fst_mem]

theorem State.pkgGuard_mem (s : State) : (State.pkgGuard s).1.mem = s.mem := by simp -implicitDefEqProofs only [State.pkgGuard, State.pkgTouch_mem, apply_ite State.mem, apply_ite Prod.fst, ite_self, implies_true, foldl_mem, foldl_fst_mem]

theorem State.clearLost_mem (s : State) (sev) : (State.clearLost s sev).mem = s.mem := by simp -implicitDefEqProofs only [State.clearLost, apply_ite State.mem, apply_ite Prod.fst, ite_self, implies_true, foldl_mem, foldl_fst_mem]

theorem State.finish_mem (s : State) (ans) (d) : (State.finish s ans d).mem = s.mem := by
  simp -implicitDefEqProofs only [State.finish]
  repeat' split
  all_goals simp -implicitDefEqProofs only [State.reply_mem, apply_ite State.mem, apply_ite Prod.fst, ite_self, implies_true, foldl_mem, foldl_fst_mem]

theorem State.dropQueues_mem (s : State) (ks) : (State.dropQueues s ks).mem = s.mem := by simp -implicitDefEqProofs only [State.dropQueues, State.freeEnded_mem, State.modSlot_mem, apply_ite State.mem, apply_ite Prod.fst, ite_self, implies_true, foldl_mem, foldl_fst_mem]

theorem State.errAck_mem (s : State) (v) : (State.errAck s v).mem = s.mem := by simp -implicitDefEqProofs only [State.errAck, State.setErrQueue_mem, apply_ite State.mem, apply_ite Prod.fst, ite_self, implies_true, foldl_mem, foldl_fst_mem]

theorem State.fwChunk_mem (s : State) (r) (n) (b) : (State.fwChunk s r n b).1.mem = s.mem := by
  simp -implicitDefEqProofs only [State.fwChunk]
  repeat' split
  all_goals simp -implicitDefEqProofs only [State.setSec_mem, apply_ite State.mem, apply_ite Prod.fst, ite_self, implies_true, foldl_mem, foldl_fst_mem]

theorem State.fwCmd_mem (s : State) (r) (v) : (State.fwCmd s r v).1.mem = s.mem := by
  simp -implicitDefEqProofs only [State.fwCmd]
  repeat' split
  all_goals simp -implicitDefEqProofs only [State.setSec_mem, apply_ite State.mem, apply_ite Prod.fst, ite_self, implies_true, foldl_mem, foldl_fst_mem]

theorem State.fwMinSvn_mem (s : State) (r) (v) : (State.fwMinSvn s r v).1.mem = s.mem := by
  simp -implicitDefEqProofs only [State.fwMinSvn]
  repeat' split
  all_goals simp -implicitDefEqProofs only [State.setSec_mem, apply_ite State.mem, apply_ite Prod.fst, ite_self, implies_true, foldl_mem, foldl_fst_mem]

theorem State.dissolve_mem (s : State) : (State.dissolve s).1.mem = s.mem := by simp -implicitDefEqProofs only [State.dissolve, State.endOpen_mem, State.retarget_mem, State.setGroup_mem, State.stopGroup_mem, apply_ite State.mem, apply_ite Prod.fst, ite_self, implies_true, foldl_mem, foldl_fst_mem]

theorem State.lanternFormed_mem (s : State) : (State.lanternFormed s).mem = s.mem := by simp -implicitDefEqProofs only [State.lanternFormed, State.lanternCast_mem, State.retarget_mem, State.setPower_mem, apply_ite State.mem, apply_ite Prod.fst, ite_self, implies_true, foldl_mem, foldl_fst_mem]

theorem State.formedNow_mem (s0 : State) : (State.formedNow s0).mem = s0.mem := by simp -implicitDefEqProofs only [State.formedNow, State.beginExchange_mem, State.checkVersions_mem, State.initVersions_mem, State.lanternFormed_mem, State.setGroup_mem, State.toChildren_mem, apply_ite State.mem, apply_ite Prod.fst, ite_self, implies_true, foldl_mem, foldl_fst_mem]

theorem State.rejectedNow_mem (s : State) (reason) : (State.rejectedNow s reason).mem = s.mem := by simp -implicitDefEqProofs only [State.rejectedNow, State.endExchOps_mem, State.setGroup_mem, State.toChildren_mem, apply_ite State.mem, apply_ite Prod.fst, ite_self, implies_true, foldl_mem, foldl_fst_mem]

theorem State.formAdvance_mem (s : State) : (State.formAdvance s).mem = s.mem := by simp -implicitDefEqProofs only [State.formAdvance, State.formedNow_mem, State.rejectedNow_mem, State.sendCommit_mem, State.setGroup_mem, apply_ite State.mem, apply_ite Prod.fst, ite_self, implies_true, foldl_mem, foldl_fst_mem]

theorem State.form_mem (s : State) : (State.form s).1.mem = s.mem := by simp -implicitDefEqProofs only [State.form, State.bump_mem, State.endOpen_mem, State.formAdvance_mem, State.retarget_mem, State.setGroup_mem, State.stopGroup_mem, apply_ite State.mem, apply_ite Prod.fst, ite_self, implies_true, foldl_mem, foldl_fst_mem]

theorem State.resolve_mem (s : State) (feast) : (State.resolve s feast).mem = s.mem := by simp -implicitDefEqProofs only [State.resolve, State.outcome_mem, apply_ite State.mem, apply_ite Prod.fst, ite_self, implies_true, foldl_mem, foldl_fst_mem]

theorem State.groupCmd_mem (s : State) (v) : (State.groupCmd s v).1.mem = s.mem := by simp -implicitDefEqProofs only [State.groupCmd, accepted, State.dissolve_mem, State.form_mem, State.resolve_mem, apply_ite State.mem, apply_ite Prod.fst, ite_self, implies_true, foldl_mem, foldl_fst_mem]

theorem State.keyLoad_mem (s : State) (r) (b) : (State.keyLoad s r b).1.mem = s.mem := by
  simp -implicitDefEqProofs only [State.keyLoad]
  repeat' split
  all_goals simp -implicitDefEqProofs only [State.secRecord_mem, State.setKeySlot_mem, State.setSec_mem, apply_ite State.mem, apply_ite Prod.fst, ite_self, implies_true, foldl_mem, foldl_fst_mem]

theorem State.judgeRec_mem (s : State) (b) (r) (ans) : (State.judgeRec s b r ans).1.mem = s.mem := by
  simp -implicitDefEqProofs only [State.judgeRec]
  repeat' split
  all_goals simp -implicitDefEqProofs only [State.applyRec_mem, State.finish_mem, State.secRecord_mem, apply_ite State.mem, apply_ite Prod.fst, ite_self, implies_true, foldl_mem, foldl_fst_mem]

theorem State.lanternCheck_mem (s : State) : (State.lanternCheck s).mem = s.mem := by simp -implicitDefEqProofs only [State.lanternCheck, State.lanternCast_mem, State.setPower_mem, apply_ite State.mem, apply_ite Prod.fst, ite_self, implies_true, foldl_mem, foldl_fst_mem]

theorem State.levels_mem (s : State) : (State.levels s).mem = s.mem := by simp -implicitDefEqProofs only [State.levels, State.lanternCheck_mem, State.retarget_mem, apply_ite State.mem, apply_ite Prod.fst, ite_self, implies_true, foldl_mem, foldl_fst_mem]

theorem State.startSave_mem (s : State) (save) (n) : (State.startSave s save n).1.mem = s.mem := by simp -implicitDefEqProofs only [State.startSave, State.setProfiles_mem, apply_ite State.mem, apply_ite Prod.fst, ite_self, implies_true, foldl_mem, foldl_fst_mem]

theorem State.profileCmd_mem (s : State) (r) (v) : (State.profileCmd s r v).1.mem = s.mem := by
  simp -implicitDefEqProofs only [State.profileCmd]
  repeat' split
  all_goals simp -implicitDefEqProofs only [State.setProfiles_mem, State.startSave_mem, apply_ite State.mem, apply_ite Prod.fst, ite_self, implies_true, foldl_mem, foldl_fst_mem]

theorem State.profileOverride_mem (s : State) (r) (v) : (State.profileOverride s r v).1.mem = s.mem := by simp -implicitDefEqProofs only [State.profileOverride, State.setProfiles_mem, apply_ite State.mem, apply_ite Prod.fst, ite_self, implies_true, foldl_mem, foldl_fst_mem]

theorem State.loadProfile_mem (s : State) (n) : (State.loadProfile s n).mem = s.mem := by
  simp -implicitDefEqProofs only [State.loadProfile]
  repeat' split
  all_goals simp -implicitDefEqProofs only [State.capture_mem, State.setProfiles_mem, apply_ite State.mem, apply_ite Prod.fst, ite_self, implies_true, foldl_mem, foldl_fst_mem]

theorem State.resetBlocks_mem (s : State) (en) : (State.resetBlocks s en).mem = s.mem := rfl

theorem State.slot0Secret_mem (s : State) (r) (b) : (State.slot0Secret s r b).1.mem = s.mem := by simp -implicitDefEqProofs only [State.slot0Secret, State.setSec_mem, apply_ite State.mem, apply_ite Prod.fst, ite_self, implies_true, foldl_mem, foldl_fst_mem]

theorem State.store_mem (s : State) (row) (i) (sub) (bs) : (State.store s row i sub bs).1.mem = s.mem := by
  simp -implicitDefEqProofs only [State.store]
  repeat' split
  all_goals simp -implicitDefEqProofs only [State.setObj_mem, State.setOct_mem, apply_ite State.mem, apply_ite Prod.fst, ite_self, implies_true, foldl_mem, foldl_fst_mem]

theorem State.writeCap_mem (s : State) (w) : (State.writeCap s w).1.mem = s.mem := by simp -implicitDefEqProofs only [State.writeCap, State.bump_mem, State.setObj_mem, apply_ite State.mem, apply_ite Prod.fst, ite_self, implies_true, foldl_mem, foldl_fst_mem]

theorem State.writeWatch_mem (s : State) (offset) (bs) : (State.writeWatch s offset bs).mem = s.mem := by simp -implicitDefEqProofs only [State.writeWatch, apply_ite State.mem, apply_ite Prod.fst, ite_self, implies_true, foldl_mem, foldl_fst_mem]

theorem State.configWrite_mem (s : State) (i b) (f) (hf : ∀ s, (f s).1.mem = s.mem) : (s.configWrite i b f).1.mem = s.mem := by
  unfold State.configWrite; repeat' split
  all_goals simp only [hf, State.rejectCfg_mem, State.acceptCfg_mem]

theorem State.blockWriteSeg_mem (s : State) (r) (tid) (h) (offset) (bs) : (State.blockWriteSeg s r tid h offset bs).mem = s.mem := by
  simp -implicitDefEqProofs only [State.blockWriteSeg]
  repeat' split
  all_goals simp -implicitDefEqProofs only [State.reply_mem, State.setXfer_mem, apply_ite State.mem, apply_ite Prod.fst, ite_self, implies_true, foldl_mem, foldl_fst_mem]

theorem State.blockWriteStart_mem (s : State) (r) (tid) (index) (sub) (size) : (State.blockWriteStart s r tid index sub size).mem = s.mem := by simp -implicitDefEqProofs only [State.blockWriteStart, State.openXfer_mem, State.reply_mem, apply_ite State.mem, apply_ite Prod.fst, ite_self, implies_true, foldl_mem, foldl_fst_mem]

theorem State.levelsOn_mem (s : State) : (State.levelsOn s).mem = s.mem := by simp -implicitDefEqProofs only [State.levelsOn, State.levels_mem, apply_ite State.mem, apply_ite Prod.fst, ite_self, implies_true, foldl_mem, foldl_fst_mem]

theorem State.capLoop_mem (s : State) : (State.capLoop s).mem = s.mem := by simp -implicitDefEqProofs only [State.capLoop, State.bump_mem, State.capture_mem, State.levelsOn_mem, State.setPower_mem, apply_ite State.mem, apply_ite Prod.fst, ite_self, implies_true, foldl_mem, foldl_fst_mem]

theorem State.checkReshard_mem (s : State) (r) : (State.checkReshard s r).mem = s.mem := by simp -implicitDefEqProofs only [State.checkReshard, State.bump_mem, State.capture_mem, State.setReshard_mem, apply_ite State.mem, apply_ite Prod.fst, ite_self, implies_true, foldl_mem, foldl_fst_mem]

theorem State.exponents_mem (s : State) (g) (sb8) : (State.exponents s g sb8).1.mem = s.mem := by simp -implicitDefEqProofs only [State.exponents, State.agreed_mem, apply_ite State.mem, apply_ite Prod.fst, ite_self, implies_true, foldl_mem, foldl_fst_mem]

theorem State.staleExch_mem (s : State) : (State.staleExch s).mem = s.mem := by simp -implicitDefEqProofs only [State.staleExch, State.bump_mem, apply_ite State.mem, apply_ite Prod.fst, ite_self, implies_true, foldl_mem, foldl_fst_mem]

theorem State.gotEve_mem (s : State) (child) (m) : (State.gotEve s child m).mem = s.mem := by simp -implicitDefEqProofs only [State.gotEve, State.advance_mem, State.bump_mem, State.setGroup_mem, State.staleExch_mem, apply_ite State.mem, apply_ite Prod.fst, ite_self, implies_true, foldl_mem, foldl_fst_mem]

theorem State.gotEveFirst_mem (s : State) (child) (m) : (State.gotEveFirst s child m).mem = s.mem := by simp -implicitDefEqProofs only [State.gotEveFirst, State.eveFirst_mem, State.staleExch_mem, apply_ite State.mem, apply_ite Prod.fst, ite_self, implies_true, foldl_mem, foldl_fst_mem]

theorem State.gotFormRec_mem (s : State) (child) (r) : (State.gotFormRec s child r).mem = s.mem := by simp -implicitDefEqProofs only [State.gotFormRec, State.formAdvance_mem, State.setGroup_mem, State.staleExch_mem, apply_ite State.mem, apply_ite Prod.fst, ite_self, implies_true, foldl_mem, foldl_fst_mem]

theorem State.gotFormed_mem (s : State) (m) : (State.gotFormed s m).mem = s.mem := by simp -implicitDefEqProofs only [State.gotFormed, State.formedNow_mem, State.staleExch_mem, apply_ite State.mem, apply_ite Prod.fst, ite_self, implies_true, foldl_mem, foldl_fst_mem]

theorem State.gotOutcome_mem (s : State) (m) : (State.gotOutcome s m).mem = s.mem := by simp -implicitDefEqProofs only [State.gotOutcome, State.applyOutcome_mem, State.staleExch_mem, apply_ite State.mem, apply_ite Prod.fst, ite_self, implies_true, foldl_mem, foldl_fst_mem]

theorem State.gotRejected_mem (s : State) (src) (m) : (State.gotRejected s src m).mem = s.mem := by simp -implicitDefEqProofs only [State.gotRejected, State.formAdvance_mem, State.rejectedNow_mem, State.setGroup_mem, State.staleExch_mem, apply_ite State.mem, apply_ite Prod.fst, ite_self, implies_true, foldl_mem, foldl_fst_mem]

theorem State.commitPacket_mem (s : State) (src) (m) (r) : (State.commitPacket s src m r).mem = s.mem := by
  simp -implicitDefEqProofs only [State.commitPacket]
  repeat' split
  all_goals simp -implicitDefEqProofs only [State.gotEve_mem, State.gotEveFirst_mem, State.gotFormRec_mem, State.gotFormed_mem, State.gotOutcome_mem, State.gotRejected_mem, apply_ite State.mem, apply_ite Prod.fst, ite_self, implies_true, foldl_mem, foldl_fst_mem]

theorem State.creditReturned_mem (s : State) (k) (d) (q) (e) : (State.creditReturned s k d q e).mem = s.mem := by
  simp -implicitDefEqProofs only [State.creditReturned]
  repeat' split
  all_goals simp -implicitDefEqProofs only [State.bump_mem, State.setSlot_mem, apply_ite State.mem, apply_ite Prod.fst, ite_self, implies_true, foldl_mem, foldl_fst_mem]

theorem State.granted_mem (s : State) (k) (d) (q) (share) : (State.granted s k d q share).mem = s.mem := by
  simp -implicitDefEqProofs only [State.granted]
  repeat' split
  all_goals simp -implicitDefEqProofs only [State.bump_mem, State.setSlot_mem, apply_ite State.mem, apply_ite Prod.fst, ite_self, implies_true, foldl_mem, foldl_fst_mem]

theorem State.revoked_mem (s : State) (k) (d) (q) : (State.revoked s k d q).mem = s.mem := by
  simp -implicitDefEqProofs only [State.revoked]
  repeat' split
  all_goals simp -implicitDefEqProofs only [State.bump_mem, State.setSlot_mem, apply_ite State.mem, apply_ite Prod.fst, ite_self, implies_true, foldl_mem, foldl_fst_mem]

theorem State.creditPacket_mem (s : State) (c) : (s.creditPacket c).mem = s.mem := by
  cases c <;> simp only [State.creditPacket] <;> repeat' split
  all_goals simp only [State.granted_mem, State.creditReturned_mem, State.revoked_mem]

theorem State.report_mem (s : State) (r) (nf) : (State.report s r nf).mem = s.mem := by simp -implicitDefEqProofs only [State.report, State.advance_mem, State.setGroup_mem, apply_ite State.mem, apply_ite Prod.fst, ite_self, implies_true, foldl_mem, foldl_fst_mem]

theorem State.drainAsked_mem (s : State) (src) : (State.drainAsked s src).mem = s.mem := by simp -implicitDefEqProofs only [State.drainAsked, State.post_mem, apply_ite State.mem, apply_ite Prod.fst, ite_self, implies_true, foldl_mem, foldl_fst_mem]

theorem State.judgeRound_mem (s : State) : (State.judgeRound s).mem = s.mem := by simp -implicitDefEqProofs only [State.judgeRound, State.event_mem, State.openRound_mem, State.post_mem, State.setAlmanac_mem, apply_ite State.mem, apply_ite Prod.fst, ite_self, implies_true, foldl_mem, foldl_fst_mem]

theorem State.drainReplied_mem (s : State) (r) : (State.drainReplied s r).mem = s.mem := by simp -implicitDefEqProofs only [State.drainReplied, State.judgeRound_mem, State.setAlmanac_mem, apply_ite State.mem, apply_ite Prod.fst, ite_self, implies_true, foldl_mem, foldl_fst_mem]

theorem State.forReceiver_mem (s : State) (p c r) (f) (hf : ∀ s, (f s).1.mem = s.mem) : (s.forReceiver p c r f).1.mem = s.mem := by
  unfold State.forReceiver; split
  · rfl
  · dsimp only
    repeat' split
    all_goals simp only [hf, State.capture_mem, State.bump_mem]

theorem State.forSlot_mem (s : State) (p k) (f) (hf : ∀ s, (f s).1.mem = s.mem) : (s.forSlot p k f).1.mem = s.mem := by
  unfold State.forSlot; repeat' split
  all_goals simp only [hf, State.capture_mem, State.bump_mem]

theorem State.gotExpert_mem (s : State) (k) (m) : (State.gotExpert s k m).1.mem = s.mem := by
  simp -implicitDefEqProofs only [State.gotExpert]
  repeat' split
  all_goals simp -implicitDefEqProofs only [State.bump_mem, State.setSlot_mem, apply_ite State.mem, apply_ite Prod.fst, ite_self, implies_true, foldl_mem, foldl_fst_mem]

theorem State.gotNotice_mem (s : State) (core) (rid) (total) : (State.gotNotice s core rid total).1.mem = s.mem := by
  simp -implicitDefEqProofs only [State.gotNotice]
  repeat' split
  all_goals simp -implicitDefEqProofs only [State.checkReshard_mem, apply_ite State.mem, apply_ite Prod.fst, ite_self, implies_true, foldl_mem, foldl_fst_mem]

theorem State.setSources_mem (s : State) (k) (f) : (State.setSources s k f).mem = s.mem := by simp -implicitDefEqProofs only [State.setSources, State.modSlot_mem, apply_ite State.mem, apply_ite Prod.fst, ite_self, implies_true, foldl_mem, foldl_fst_mem]

theorem State.reshardRefused_mem (s : State) (n) : (State.reshardRefused s n).mem = s.mem := by simp -implicitDefEqProofs only [State.reshardRefused, State.bump_mem, apply_ite State.mem, apply_ite Prod.fst, ite_self, implies_true, foldl_mem, foldl_fst_mem]

theorem State.lanternCall_mem (s : State) (m) : (State.lanternCall s m).mem = s.mem := by simp -implicitDefEqProofs only [State.lanternCall, State.callChildren_mem, State.lanternRound_mem, State.lanternStale_mem, State.setPower_mem, apply_ite State.mem, apply_ite Prod.fst, ite_self, implies_true, foldl_mem, foldl_fst_mem]

theorem State.lanternDown_mem (s : State) (m) : (State.lanternDown s m).mem = s.mem := by simp -implicitDefEqProofs only [State.lanternDown, State.lanternStale_mem, State.retarget_mem, State.setPower_mem, apply_ite State.mem, apply_ite Prod.fst, ite_self, implies_true, foldl_mem, foldl_fst_mem]

theorem State.lanternReply_mem (s : State) (child) (m) : (State.lanternReply s child m).mem = s.mem := by simp -implicitDefEqProofs only [State.lanternReply, State.lanternRound_mem, State.lanternStale_mem, State.setPower_mem, apply_ite State.mem, apply_ite Prod.fst, ite_self, implies_true, foldl_mem, foldl_fst_mem]

theorem State.lanternPacket_mem (s : State) (src) (m) : (State.lanternPacket s src m).mem = s.mem := by simp -implicitDefEqProofs only [State.lanternPacket, State.lanternCall_mem, State.lanternDown_mem, State.lanternReply_mem, State.lanternSet_mem, apply_ite State.mem, apply_ite Prod.fst, ite_self, implies_true, foldl_mem, foldl_fst_mem]

theorem State.returnOpened_mem (s : State) (k) (q) : (State.returnOpened s k q).mem = s.mem := by simp -implicitDefEqProofs only [State.returnOpened, State.returnCredit_mem, apply_ite State.mem, apply_ite Prod.fst, ite_self, implies_true, foldl_mem, foldl_fst_mem]

theorem State.refusePart_mem (s : State) (k) (q) : (State.refusePart s k q).1.mem = s.mem := by simp -implicitDefEqProofs only [State.refusePart, State.bump_mem, State.returnOpened_mem, apply_ite State.mem, apply_ite Prod.fst, ite_self, implies_true, foldl_mem, foldl_fst_mem]

theorem State.readAnswer_mem (s : State) (p) (len) : (State.readAnswer s p len).1.mem = s.mem := by
  unfold State.readAnswer
  extract_lets g
  split
  · next e => exact (fst_mem e).trans (State.admitWhole_mem ..)
  · next e => exact (State.outsideRead_mem ..).trans ((fst_mem e).trans (State.admitWhole_mem ..))

theorem State.retired_mem (s : State) (edition) : (State.retired s edition).mem = s.mem := by simp -implicitDefEqProofs only [State.retired, State.setAlmanac_mem, apply_ite State.mem, apply_ite Prod.fst, ite_self, implies_true, foldl_mem, foldl_fst_mem]

theorem State.transferRefused_mem (s : State) (p) (core) (rid) (n) : (State.transferRefused s p core rid n).mem = s.mem := by
  simp -implicitDefEqProofs only [State.transferRefused]
  repeat' split
  all_goals simp -implicitDefEqProofs only [State.reshardRefused_mem, apply_ite State.mem, apply_ite Prod.fst, ite_self, implies_true, foldl_mem, foldl_fst_mem]

theorem State.nextLine_mem (s : State) (die) (p) : (State.nextLine s die p).1.mem = s.mem := by simp -implicitDefEqProofs only [State.nextLine, State.startStages_mem, apply_ite State.mem, apply_ite Prod.fst, ite_self, implies_true, foldl_mem, foldl_fst_mem]

theorem State.dropEntry_mem (s : State) (e) : (State.dropEntry s e).mem = s.mem := rfl

theorem State.putEntry_mem (s : State) (e) : (State.putEntry s e).mem = s.mem := by simp -implicitDefEqProofs only [State.putEntry, State.dropEntry_mem, apply_ite State.mem, apply_ite Prod.fst, ite_self, implies_true, foldl_mem, foldl_fst_mem]

theorem State.respond_mem (s : State) (p) (b) : (State.respond s p b).mem = s.mem := by simp -implicitDefEqProofs only [State.respond, State.respondAt_mem, apply_ite State.mem, apply_ite Prod.fst, ite_self, implies_true, foldl_mem, foldl_fst_mem]

theorem State.startFirmware_mem (s : State) : (State.startFirmware s).mem = s.mem := by simp -implicitDefEqProofs only [State.startFirmware, State.andThen_mem, State.capture_mem, State.secRecord_mem, State.setBoot_mem, State.setSec_mem, apply_ite State.mem, apply_ite Prod.fst, ite_self, implies_true, foldl_mem, foldl_fst_mem]

theorem State.ledgerFault_mem (s : State) (bad) : (State.ledgerFault s bad).mem = s.mem := by simp -implicitDefEqProofs only [State.ledgerFault, State.secRecord_mem, apply_ite State.mem, apply_ite Prod.fst, ite_self, implies_true, foldl_mem, foldl_fst_mem]

theorem State.startLedger_mem (s : State) : (State.startLedger s).mem = s.mem := by simp -implicitDefEqProofs only [State.startLedger, State.ledgerFault_mem, State.setBoot_mem, State.setSec_mem, apply_ite State.mem, apply_ite Prod.fst, ite_self, implies_true, foldl_mem, foldl_fst_mem]

theorem State.startNegotiate_mem (s : State) (i) : (State.startNegotiate s i).mem = s.mem := by
  simp -implicitDefEqProofs only [State.startNegotiate]
  repeat' split
  all_goals simp -implicitDefEqProofs only [State.capture_mem, State.setBoot_mem, apply_ite State.mem, apply_ite Prod.fst, ite_self, implies_true, foldl_mem, foldl_fst_mem]

theorem State.startProfile_mem (s : State) (i) : (State.startProfile s i).mem = s.mem := by simp -implicitDefEqProofs only [State.startProfile, State.capture_mem, State.clearWatch_mem, State.loadProfile_mem, State.resetBlocks_mem, State.setBoot_mem, apply_ite State.mem, apply_ite Prod.fst, ite_self, implies_true, foldl_mem, foldl_fst_mem]

theorem State.startLinks_mem (s : State) (a) (b) : (State.startLinks s a b).mem = s.mem := by simp -implicitDefEqProofs only [State.startLinks, State.setLink_mem, apply_ite State.mem, apply_ite Prod.fst, ite_self, implies_true, foldl_mem, foldl_fst_mem]

theorem State.startReady_mem (s : State) (i) : (State.startReady s i).mem = s.mem := by simp -implicitDefEqProofs only [State.startReady, State.beat_mem, State.resetBlocks_mem, State.retarget_mem, State.startLinks_mem, apply_ite State.mem, apply_ite Prod.fst, ite_self, implies_true, foldl_mem, foldl_fst_mem]

theorem State.loseRef_mem (s : State) : (State.loseRef s).mem = s.mem := by simp -implicitDefEqProofs only [State.loseRef, State.capture_mem, State.setPower_mem, apply_ite State.mem, apply_ite Prod.fst, ite_self, implies_true, foldl_mem, foldl_fst_mem]

theorem State.startRelease_mem (s : State) (i) : (State.startRelease s i).mem = s.mem := by
  simp -implicitDefEqProofs only [State.startRelease]
  repeat' split
  all_goals simp -implicitDefEqProofs only [State.loseRef_mem, State.setBoot_mem, State.setPower_mem, apply_ite State.mem, apply_ite Prod.fst, ite_self, implies_true, foldl_mem, foldl_fst_mem]

theorem State.startSelftest_mem (s : State) (i) : (State.startSelftest s i).mem = s.mem := by simp -implicitDefEqProofs only [State.startSelftest, State.capture_mem, State.setBoot_mem, apply_ite State.mem, apply_ite Prod.fst, ite_self, implies_true, foldl_mem, foldl_fst_mem]

theorem State.startStraps_mem (s : State) (i) : (State.startStraps s i).mem = s.mem := by simp -implicitDefEqProofs only [State.startStraps, State.loseRef_mem, State.setBoot_mem, apply_ite State.mem, apply_ite Prod.fst, ite_self, implies_true, foldl_mem, foldl_fst_mem]

theorem State.complete_mem (s : State) (n) (x) (k) : (State.complete s n x k).mem = s.mem := by
  simp -implicitDefEqProofs only [State.complete]
  repeat' split
  all_goals simp -implicitDefEqProofs only [State.setCtx_mem, State.statusRecord_mem, apply_ite State.mem, apply_ite Prod.fst, ite_self, implies_true, foldl_mem, foldl_fst_mem]

theorem State.completeWaiting_mem (s : State) (js) : (State.completeWaiting s js).1.mem = s.mem := by simp -implicitDefEqProofs only [State.completeWaiting, State.finish_mem, apply_ite State.mem, apply_ite Prod.fst, ite_self, implies_true, foldl_mem, foldl_fst_mem]

theorem State.coreCtl_mem (s : State) (n) (f) (hf : ∀ s, (f s).mem = s.mem) : (s.coreCtl n f).mem = s.mem := by
  unfold State.coreCtl; simp only; split <;> simp only [hf, State.blkGuard_mem]

theorem State.coreDisabled_mem (s : State) (n) : (State.coreDisabled s n).mem = s.mem := by simp -implicitDefEqProofs only [State.coreDisabled, State.modBlock_mem, State.setCoreSt_mem, apply_ite State.mem, apply_ite Prod.fst, ite_self, implies_true, foldl_mem, foldl_fst_mem]

theorem State.count_mem (s : State) (w) (tid) (t) : (State.count s w tid t).mem = s.mem := by
  simp -implicitDefEqProofs only [State.count]
  repeat' split
  all_goals simp -implicitDefEqProofs only [State.bump_mem, apply_ite State.mem, apply_ite Prod.fst, ite_self, implies_true, foldl_mem, foldl_fst_mem]

theorem State.countAll_mem (s : State) (w) (ts) : (State.countAll s w ts).mem = s.mem := by simp -implicitDefEqProofs only [State.countAll, State.count_mem, apply_ite State.mem, apply_ite Prod.fst, ite_self, implies_true, foldl_mem, foldl_fst_mem]

theorem State.countCycle_mem (s : State) (n) : (State.countCycle s n).mem = s.mem := by
  simp -implicitDefEqProofs only [State.countCycle]
  repeat' split
  all_goals simp -implicitDefEqProofs only [State.bump_mem, apply_ite State.mem, apply_ite Prod.fst, ite_self, implies_true, foldl_mem, foldl_fst_mem]

theorem State.countUp_mem (s : State) : (State.countUp s).mem = s.mem := by simp -implicitDefEqProofs only [State.countUp, apply_ite State.mem, apply_ite Prod.fst, ite_self, implies_true, foldl_mem, foldl_fst_mem]

theorem State.creditPeer_mem (s : State) (p) (v) (n) : (State.creditPeer s p v n).mem = s.mem := by simp -implicitDefEqProofs only [State.creditPeer, State.setFport_mem, apply_ite State.mem, apply_ite Prod.fst, ite_self, implies_true, foldl_mem, foldl_fst_mem]

theorem State.creditSync_mem (s : State) (p) (free) (lastSeq) : (State.creditSync s p free lastSeq).mem = s.mem := by
  simp -implicitDefEqProofs only [State.creditSync]
  repeat' split
  all_goals simp -implicitDefEqProofs only [State.auditBroken_mem, State.retrain_mem, State.setFport_mem, apply_ite State.mem, apply_ite Prod.fst, ite_self, implies_true, foldl_mem, foldl_fst_mem]

theorem State.unbuffer_mem (s : State) (h) : (State.unbuffer s h).mem = s.mem := by
  simp -implicitDefEqProofs only [State.unbuffer]
  repeat' split
  all_goals simp -implicitDefEqProofs only [State.creditPeer_mem, apply_ite State.mem, apply_ite Prod.fst, ite_self, implies_true, foldl_mem, foldl_fst_mem]

theorem State.cross_mem (s : State) (n) (h) (die) : (State.cross s n h die).mem = s.mem := by simp -implicitDefEqProofs only [State.cross, State.unbuffer_mem, apply_ite State.mem, apply_ite Prod.fst, ite_self, implies_true, foldl_mem, foldl_fst_mem]

theorem State.decide_mem (s : State) (k) (mode) : (State.decide s k mode).mem = s.mem := by
  simp -implicitDefEqProofs only [State.decide]
  repeat' split
  all_goals simp -implicitDefEqProofs only [State.modSlot_mem, apply_ite State.mem, apply_ite Prod.fst, ite_self, implies_true, foldl_mem, foldl_fst_mem]

theorem State.demand_mem (s : State) (a) (n) : (State.demand s a n).1.mem = s.mem := by simp -implicitDefEqProofs only [State.demand, State.bump_mem, State.demandUnit_mem, apply_ite State.mem, apply_ite Prod.fst, ite_self, implies_true, foldl_mem, foldl_fst_mem]

theorem State.dieTest_mem (s : State) (die) (i) : (State.dieTest s die i).mem = s.mem := by simp -implicitDefEqProofs only [State.dieTest, State.commitLedger_mem, State.modLedger_mem, State.setBoot_mem, State.setPower_mem, State.startLedger_mem, apply_ite State.mem, apply_ite Prod.fst, ite_self, implies_true, foldl_mem, foldl_fst_mem]

theorem State.dispatch_mem (s : State) (n) (x) (k) : (State.dispatch s n x k).mem = s.mem := by
  simp -implicitDefEqProofs only [State.dispatch]
  repeat' split
  all_goals simp -implicitDefEqProofs only [State.bump_mem, State.setCtx_mem, apply_ite State.mem, apply_ite Prod.fst, ite_self, implies_true, foldl_mem, foldl_fst_mem]

theorem State.sendFor_mem (s : State) (w) (ms) : (State.sendFor s w ms).1.mem = s.mem := by simp -implicitDefEqProofs only [State.sendFor, State.send_mem, apply_ite State.mem, apply_ite Prod.fst, ite_self, implies_true, foldl_mem, foldl_fst_mem]

theorem State.dorubDescribe_mem (s : State) (r) (tid) (index) (sub) : (State.dorubDescribe s r tid index sub).mem = s.mem := by simp -implicitDefEqProofs only [State.dorubDescribe, State.reply_mem, apply_ite State.mem, apply_ite Prod.fst, ite_self, implies_true, foldl_mem, foldl_fst_mem]

theorem State.dorubRead_mem (s : State) (r) (tid) (index) (sub) : (State.dorubRead s r tid index sub).mem = s.mem := by simp -implicitDefEqProofs only [State.dorubRead, State.readObj_mem, State.reply_mem, apply_ite State.mem, apply_ite Prod.fst, ite_self, implies_true, foldl_mem, foldl_fst_mem]

theorem State.holdSession_mem (s : State) (ss) (n) : (State.holdSession s ss n).mem = s.mem := by simp -implicitDefEqProofs only [State.holdSession, apply_ite State.mem, apply_ite Prod.fst, ite_self, implies_true, foldl_mem, foldl_fst_mem]

theorem State.drainLate_mem (s : State) : (State.drainLate s).mem = s.mem := by simp -implicitDefEqProofs only [State.drainLate, State.capture_mem, State.event_mem, State.setAlmanac_mem, apply_ite State.mem, apply_ite Prod.fst, ite_self, implies_true, foldl_mem, foldl_fst_mem]

theorem State.readCount_mem (s : State) (w) (d) (a) (b) (t) : (State.readCount s w d a b t).mem = s.mem := by simp -implicitDefEqProofs only [State.readCount, State.badTile_mem, State.count_mem, apply_ite State.mem, apply_ite Prod.fst, ite_self, implies_true, foldl_mem, foldl_fst_mem]

theorem State.elems32_mem (s : State) (w) (emu) (d) : (State.elems32 s w emu d).1.mem = s.mem := by simp -implicitDefEqProofs only [State.elems32, State.readCount_mem, apply_ite State.mem, apply_ite Prod.fst, ite_self, implies_true, foldl_mem, foldl_fst_mem]

theorem State.endOp_mem (s : State) (n x k f r) : (s.endOp n x k f r).mem = s.mem := by
  cases r <;> simp only [State.endOp, State.modCtx_mem, State.opFault_mem]

theorem State.entryIdle_mem (s : State) (src) (sunit) (msgid) : (State.entryIdle s src sunit msgid).mem = s.mem := rfl

theorem State.fecIn_mem (s : State) (p) (f) : (State.fecIn s p f).mem = s.mem := by simp -implicitDefEqProofs only [State.fecIn, State.modLedger_mem, apply_ite State.mem, apply_ite Prod.fst, ite_self, implies_true, foldl_mem, foldl_fst_mem]

theorem State.frameDiscard_mem (s : State) (p) : (State.frameDiscard s p).mem = s.mem := by simp -implicitDefEqProofs only [State.frameDiscard, State.bump_mem, apply_ite State.mem, apply_ite Prod.fst, ite_self, implies_true, foldl_mem, foldl_fst_mem]

theorem State.unlock_mem (s : State) (scope) : (State.unlock s scope).mem = s.mem := by simp -implicitDefEqProofs only [State.unlock, State.commitLedger_mem, State.modLedger_mem, State.secRecord_mem, State.setSec_mem, apply_ite State.mem, apply_ite Prod.fst, ite_self, implies_true, foldl_mem, foldl_fst_mem]

theorem State.jobDone_mem (s : State) (j) : (State.jobDone s j).mem = s.mem := by
  simp -implicitDefEqProofs only [State.jobDone]
  repeat' split
  all_goals simp -implicitDefEqProofs only [State.applyRec_mem, State.finish_mem, State.unlock_mem, apply_ite State.mem, apply_ite Prod.fst, ite_self, implies_true, foldl_mem, foldl_fst_mem]

theorem State.fireRule_mem (s : State) (code) (entry) (tid) (step) (count) : (State.fireRule s code entry tid step count).mem = s.mem := by simp -implicitDefEqProofs only [State.fireRule, State.bump_mem, State.capture_mem, State.event_mem, apply_ite State.mem, apply_ite Prod.fst, ite_self, implies_true, foldl_mem, foldl_fst_mem]

theorem State.evalEntry_mem (s : State) (step) (att) (i) : (State.evalEntry s step att i).mem = s.mem := by simp -implicitDefEqProofs only [State.evalEntry, State.fireRule_mem, apply_ite State.mem, apply_ite Prod.fst, ite_self, implies_true, foldl_mem, foldl_fst_mem]

theorem State.evaluate_mem (s : State) (d) : (State.evaluate s d).mem = s.mem := by simp -implicitDefEqProofs only [State.evaluate, State.evalEntry_mem, State.setTot_mem, apply_ite State.mem, apply_ite Prod.fst, ite_self, implies_true, foldl_mem, foldl_fst_mem]

theorem State.markPop_mem (s : State) (n) (x) (b) : (State.markPop s n x b).mem = s.mem := by simp -implicitDefEqProofs only [State.markPop, State.modSlot_mem, apply_ite State.mem, apply_ite Prod.fst, ite_self, implies_true, foldl_mem, foldl_fst_mem]

theorem State.markReshards_mem (s : State) (n) (x) (os) : (State.markReshards s n x os).mem = s.mem := by simp -implicitDefEqProofs only [State.markReshards, State.registerReshard_mem, apply_ite State.mem, apply_ite Prod.fst, ite_self, implies_true, foldl_mem, foldl_fst_mem]

theorem State.issue_mem (s : State) (n) (x) (b) : (State.issue s n x b).mem = s.mem := by
  simp -implicitDefEqProofs only [State.issue]
  repeat' split
  all_goals simp -implicitDefEqProofs only [State.bump_mem, State.faultContext_mem, State.markPop_mem, State.markReshards_mem, State.setCoreSt_mem, State.setCtx_mem, apply_ite State.mem, apply_ite Prod.fst, ite_self, implies_true, foldl_mem, foldl_fst_mem]

theorem State.fetchIssue_mem (s : State) (n) (x) : (State.fetchIssue s n x).mem = s.mem := by simp -implicitDefEqProofs only [State.fetchIssue, State.faultContext_mem, State.issue_mem, apply_ite State.mem, apply_ite Prod.fst, ite_self, implies_true, foldl_mem, foldl_fst_mem]

theorem State.repeated_mem (s : State) (r tid t) (e : s.repeated r tid = some t) : t.mem = s.mem := by
  unfold State.repeated at e; repeat' split at e
  all_goals first | (injection e with e; subst e; simp only [State.emit_mem]) | cases e

theorem State.multiEnd_mem (s : State) (r) (tid) (applied) (status) : (State.multiEnd s r tid applied status).mem = s.mem := by simp -implicitDefEqProofs only [State.multiEnd, State.reply_mem, apply_ite State.mem, apply_ite Prod.fst, ite_self, implies_true, foldl_mem, foldl_fst_mem]

theorem State.unaddressed_mem (s : State) (r) : (State.unaddressed s r).mem = s.mem := by simp -implicitDefEqProofs only [State.unaddressed, State.frameDiscard_mem, apply_ite State.mem, apply_ite Prod.fst, ite_self, implies_true, foldl_mem, foldl_fst_mem]

theorem execAttNonce_mem (r) (nonce) (s : State) (t) (e : execAttNonce r nonce s = .next t) : t.mem = s.mem := by
  simp -implicitDefEqProofs only [execAttNonce, whenServed, State.inTurn] at e
  (repeat' split at e) <;> first | (injection e with e; subst e; simp -implicitDefEqProofs only [State.attNonce_mem, State.pkgTouch_mem, State.unaddressed_mem, State.hold_mem, apply_ite State.mem, apply_ite Prod.fst, ite_self, implies_true, foldl_mem, foldl_fst_mem]) | cases e

theorem execAuthClose_mem (r) (s : State) (t) (e : execAuthClose r s = .next t) : t.mem = s.mem := by
  simp -implicitDefEqProofs only [execAuthClose, whenServed, State.inTurn] at e
  (repeat' split at e) <;> first | (injection e with e; subst e; simp -implicitDefEqProofs only [State.authClose_mem, State.pkgTouch_mem, State.unaddressed_mem, State.hold_mem, apply_ite State.mem, apply_ite Prod.fst, ite_self, implies_true, foldl_mem, foldl_fst_mem]) | cases e

theorem execAuthOpen_mem (r) (sig) (s : State) (t) (e : execAuthOpen r sig s = .next t) : t.mem = s.mem := by
  simp -implicitDefEqProofs only [execAuthOpen, whenServed, State.inTurn] at e
  (repeat' split at e) <;> first | (injection e with e; subst e; simp -implicitDefEqProofs only [State.authOpen_mem, State.pkgTouch_mem, State.unaddressed_mem, State.hold_mem, apply_ite State.mem, apply_ite Prod.fst, ite_self, implies_true, foldl_mem, foldl_fst_mem]) | cases e

theorem State.underGuard_mem (s : State) (f) (hf : ∀ s, (f s).1.mem = s.mem) : (s.underGuard f).1.mem = s.mem := by
  unfold State.underGuard; simp only; split <;> simp only [hf, State.pkgGuard_mem]

theorem State.writeProfileCmd_mem (s : State) (r) (v) : (State.writeProfileCmd s r v).1.mem = s.mem := by simp -implicitDefEqProofs only [State.writeProfileCmd, State.profileCmd_mem, State.underGuard_mem, apply_ite State.mem, apply_ite Prod.fst, ite_self, implies_true, foldl_mem, foldl_fst_mem]

theorem execCancelNext_mem (r) (s : State) (t) (e : execCancelNext r s = .next t) : t.mem = s.mem := by
  simp -implicitDefEqProofs only [execCancelNext, whenServed, State.inTurn] at e
  (repeat' split at e) <;> first | (injection e with e; subst e; simp -implicitDefEqProofs only [State.writeProfileCmd_mem, State.unaddressed_mem, State.hold_mem, apply_ite State.mem, apply_ite Prod.fst, ite_self, implies_true, foldl_mem, foldl_fst_mem]) | cases e

theorem execCommitSvn_mem (r) (s : State) (t) (e : execCommitSvn r s = .next t) : t.mem = s.mem := by
  simp -implicitDefEqProofs only [execCommitSvn, whenServed, State.inTurn] at e
  (repeat' split at e) <;> first | (injection e with e; subst e; simp -implicitDefEqProofs only [State.fwCmd_mem, State.pkgTouch_mem, State.unaddressed_mem, State.hold_mem, apply_ite State.mem, apply_ite Prod.fst, ite_self, implies_true, foldl_mem, foldl_fst_mem]) | cases e

theorem execCoreDisable_mem (n) (s : State) (t) (e : execCoreDisable n s = .next t) : t.mem = s.mem := by
  simp -implicitDefEqProofs only [execCoreDisable, State.unlessMulti] at e
  (repeat' split at e) <;> first | (injection e with e; subst e; simp -implicitDefEqProofs only [State.coreCtl_mem, State.disableCore_mem, State.hold_mem, apply_ite State.mem, apply_ite Prod.fst, ite_self, implies_true, foldl_mem, foldl_fst_mem]) | cases e

theorem execCoreEnable_mem (n) (s : State) (t) (e : execCoreEnable n s = .next t) : t.mem = s.mem := by
  simp -implicitDefEqProofs only [execCoreEnable, State.unlessMulti] at e
  (repeat' split at e) <;> first | (injection e with e; subst e; simp -implicitDefEqProofs only [State.coreCtl_mem, State.enableCore_mem, State.hold_mem, apply_ite State.mem, apply_ite Prod.fst, ite_self, implies_true, foldl_mem, foldl_fst_mem]) | cases e

theorem execDefaults_mem (r) (profile) (s : State) (t) (e : execDefaults r profile s = .next t) : t.mem = s.mem := by
  simp -implicitDefEqProofs only [execDefaults, whenServed, State.inTurn] at e
  (repeat' split at e) <;> first | (injection e with e; subst e; simp -implicitDefEqProofs only [State.writeProfileCmd_mem, State.unaddressed_mem, State.hold_mem, apply_ite State.mem, apply_ite Prod.fst, ite_self, implies_true, foldl_mem, foldl_fst_mem]) | cases e

theorem execDissolve_mem (s : State) (t) (e : execDissolve s = .next t) : t.mem = s.mem := by
  simp -implicitDefEqProofs only [execDissolve, State.unlessMulti, whenUp] at e
  (repeat' split at e) <;> first | (injection e with e; subst e; simp -implicitDefEqProofs only [State.dissolve_mem, State.pkgTouch_mem, State.hold_mem, apply_ite State.mem, apply_ite Prod.fst, ite_self, implies_true, foldl_mem, foldl_fst_mem]) | cases e

theorem execErrAck_mem (seq) (s : State) (t) (e : execErrAck seq s = .next t) : t.mem = s.mem := by
  simp -implicitDefEqProofs only [execErrAck, State.unlessMulti] at e
  (repeat' split at e) <;> first | (injection e with e; subst e; simp -implicitDefEqProofs only [State.errAck_mem, State.pkgTouch_mem, State.hold_mem, apply_ite State.mem, apply_ite Prod.fst, ite_self, implies_true, foldl_mem, foldl_fst_mem]) | cases e

theorem execForceRetire_mem (s : State) (t) (e : execForceRetire s = .next t) : t.mem = s.mem := by
  simp -implicitDefEqProofs only [execForceRetire, State.unlessMulti, whenOn] at e
  (repeat' split at e) <;> first | (injection e with e; subst e; simp -implicitDefEqProofs only [State.pkgTouch_mem, State.setAlmanac_mem, State.hold_mem, apply_ite State.mem, apply_ite Prod.fst, ite_self, implies_true, foldl_mem, foldl_fst_mem]) | cases e

theorem execForm_mem (s : State) (t) (e : execForm s = .next t) : t.mem = s.mem := by
  simp -implicitDefEqProofs only [execForm, State.unlessMulti, whenUp] at e
  (repeat' split at e) <;> first | (injection e with e; subst e; simp -implicitDefEqProofs only [State.form_mem, State.pkgTouch_mem, State.hold_mem, apply_ite State.mem, apply_ite Prod.fst, ite_self, implies_true, foldl_mem, foldl_fst_mem]) | cases e

theorem execFportDisable_mem (port) (s : State) (t) (e : execFportDisable port s = .next t) : t.mem = s.mem := by
  simp -implicitDefEqProofs only [execFportDisable, State.unlessMulti, onPort] at e
  (repeat' split at e) <;> first | (injection e with e; subst e; simp -implicitDefEqProofs only [State.blkTouch_mem, State.fportOff_mem, State.hold_mem, apply_ite State.mem, apply_ite Prod.fst, ite_self, implies_true, foldl_mem, foldl_fst_mem]) | cases e

theorem execFportEnable_mem (port) (s : State) (t) (e : execFportEnable port s = .next t) : t.mem = s.mem := by
  simp -implicitDefEqProofs only [execFportEnable, State.unlessMulti, onPort] at e
  (repeat' split at e) <;> first | (injection e with e; subst e; simp -implicitDefEqProofs only [State.blkTouch_mem, State.fportOn_mem, State.hold_mem, apply_ite State.mem, apply_ite Prod.fst, ite_self, implies_true, foldl_mem, foldl_fst_mem]) | cases e

theorem execFwActivate_mem (r) (s : State) (t) (e : execFwActivate r s = .next t) : t.mem = s.mem := by
  simp -implicitDefEqProofs only [execFwActivate, whenServed, State.inTurn] at e
  (repeat' split at e) <;> first | (injection e with e; subst e; simp -implicitDefEqProofs only [State.fwCmd_mem, State.pkgTouch_mem, State.unaddressed_mem, State.hold_mem, apply_ite State.mem, apply_ite Prod.fst, ite_self, implies_true, foldl_mem, foldl_fst_mem]) | cases e

theorem execFwChunk_mem (r) (n) (bytes) (s : State) (t) (e : execFwChunk r n bytes s = .next t) : t.mem = s.mem := by
  simp -implicitDefEqProofs only [execFwChunk, whenServed, State.inTurn] at e
  (repeat' split at e) <;> first | (injection e with e; subst e; simp -implicitDefEqProofs only [State.fwChunk_mem, State.pkgTouch_mem, State.unaddressed_mem, State.hold_mem, apply_ite State.mem, apply_ite Prod.fst, ite_self, implies_true, foldl_mem, foldl_fst_mem]) | cases e

theorem execFwMinSvn_mem (r) (value) (s : State) (t) (e : execFwMinSvn r value s = .next t) : t.mem = s.mem := by
  simp -implicitDefEqProofs only [execFwMinSvn, whenServed, State.inTurn] at e
  (repeat' split at e) <;> first | (injection e with e; subst e; simp -implicitDefEqProofs only [State.fwMinSvn_mem, State.pkgTouch_mem, State.unaddressed_mem, State.hold_mem, apply_ite State.mem, apply_ite Prod.fst, ite_self, implies_true, foldl_mem, foldl_fst_mem]) | cases e

theorem execFwVerify_mem (r) (s : State) (t) (e : execFwVerify r s = .next t) : t.mem = s.mem := by
  simp -implicitDefEqProofs only [execFwVerify, whenServed, State.inTurn] at e
  (repeat' split at e) <;> first | (injection e with e; subst e; simp -implicitDefEqProofs only [State.fwCmd_mem, State.pkgTouch_mem, State.unaddressed_mem, State.hold_mem, apply_ite State.mem, apply_ite Prod.fst, ite_self, implies_true, foldl_mem, foldl_fst_mem]) | cases e

theorem execKeyLoad_mem (r) (rec) (s : State) (t) (e : execKeyLoad r rec s = .next t) : t.mem = s.mem := by
  simp -implicitDefEqProofs only [execKeyLoad, whenServed, State.inTurn] at e
  (repeat' split at e) <;> first | (injection e with e; subst e; simp -implicitDefEqProofs only [State.keyLoad_mem, State.pkgTouch_mem, State.unaddressed_mem, State.hold_mem, apply_ite State.mem, apply_ite Prod.fst, ite_self, implies_true, foldl_mem, foldl_fst_mem]) | cases e

theorem execLoadOpen_mem (s : State) (t) (e : execLoadOpen s = .next t) : t.mem = s.mem := by
  simp -implicitDefEqProofs only [execLoadOpen, State.unlessMulti, whenOn] at e
  (repeat' split at e) <;> first | (injection e with e; subst e; simp -implicitDefEqProofs only [State.loadOpen_mem, State.pkgTouch_mem, State.hold_mem, apply_ite State.mem, apply_ite Prod.fst, ite_self, implies_true, foldl_mem, foldl_fst_mem]) | cases e

theorem execLoadSeal_mem (s : State) (t) (e : execLoadSeal s = .next t) : t.mem = s.mem := by
  simp -implicitDefEqProofs only [execLoadSeal, State.unlessMulti, whenOn] at e
  (repeat' split at e) <;> first | (injection e with e; subst e; simp -implicitDefEqProofs only [State.loadSeal_mem, State.pkgTouch_mem, State.hold_mem, apply_ite State.mem, apply_ite Prod.fst, ite_self, implies_true, foldl_mem, foldl_fst_mem]) | cases e

theorem execLostCountWrite_mem (sev) (s : State) (t) (e : execLostCountWrite sev s = .next t) : t.mem = s.mem := by
  simp -implicitDefEqProofs only [execLostCountWrite, State.unlessMulti] at e
  (repeat' split at e) <;> first | (injection e with e; subst e; simp -implicitDefEqProofs only [State.clearLost_mem, State.pkgTouch_mem, State.hold_mem, apply_ite State.mem, apply_ite Prod.fst, ite_self, implies_true, foldl_mem, foldl_fst_mem]) | cases e

theorem execPkgCapWrite_mem (watts) (s : State) (t) (e : execPkgCapWrite watts s = .next t) : t.mem = s.mem := by
  simp -implicitDefEqProofs only [execPkgCapWrite, State.unlessMulti] at e
  (repeat' split at e) <;> first | (injection e with e; subst e; simp -implicitDefEqProofs only [State.pkgTouch_mem, State.hold_mem, State.writeCap_mem, apply_ite State.mem, apply_ite Prod.fst, ite_self, implies_true, foldl_mem, foldl_fst_mem]) | cases e

theorem execPortEnWrite_mem (port) (en) (s : State) (t) (e : execPortEnWrite port en s = .next t) : t.mem = s.mem := by
  simp -implicitDefEqProofs only [execPortEnWrite, State.unlessMulti] at e
  (repeat' split at e) <;> first | (injection e with e; subst e; simp -implicitDefEqProofs only [State.blkTouch_mem, State.pkgTouch_mem, State.hold_mem, State.writePortEn_mem, apply_ite State.mem, apply_ite Prod.fst, ite_self, implies_true, foldl_mem, foldl_fst_mem]) | cases e

theorem execProfileSave_mem (r) (profile) (s : State) (t) (e : execProfileSave r profile s = .next t) : t.mem = s.mem := by
  simp -implicitDefEqProofs only [execProfileSave, whenServed, State.inTurn] at e
  (repeat' split at e) <;> first | (injection e with e; subst e; simp -implicitDefEqProofs only [State.writeProfileCmd_mem, State.unaddressed_mem, State.hold_mem, apply_ite State.mem, apply_ite Prod.fst, ite_self, implies_true, foldl_mem, foldl_fst_mem]) | cases e

theorem execResolveFast_mem (s : State) (t) (e : execResolveFast s = .next t) : t.mem = s.mem := by
  simp -implicitDefEqProofs only [execResolveFast, State.unlessMulti, whenUp] at e
  (repeat' split at e) <;> first | (injection e with e; subst e; simp -implicitDefEqProofs only [State.pkgTouch_mem, State.resolve_mem, State.hold_mem, apply_ite State.mem, apply_ite Prod.fst, ite_self, implies_true, foldl_mem, foldl_fst_mem]) | cases e

theorem execResolveFeast_mem (s : State) (t) (e : execResolveFeast s = .next t) : t.mem = s.mem := by
  simp -implicitDefEqProofs only [execResolveFeast, State.unlessMulti, whenUp] at e
  (repeat' split at e) <;> first | (injection e with e; subst e; simp -implicitDefEqProofs only [State.pkgTouch_mem, State.resolve_mem, State.hold_mem, apply_ite State.mem, apply_ite Prod.fst, ite_self, implies_true, foldl_mem, foldl_fst_mem]) | cases e

theorem execSelectNext_mem (r) (profile) (s : State) (t) (e : execSelectNext r profile s = .next t) : t.mem = s.mem := by
  simp -implicitDefEqProofs only [execSelectNext, whenServed, State.inTurn] at e
  (repeat' split at e) <;> first | (injection e with e; subst e; simp -implicitDefEqProofs only [State.writeProfileCmd_mem, State.unaddressed_mem, State.hold_mem, apply_ite State.mem, apply_ite Prod.fst, ite_self, implies_true, foldl_mem, foldl_fst_mem]) | cases e

theorem execSlot0Secret_mem (r) (bytes) (s : State) (t) (e : execSlot0Secret r bytes s = .next t) : t.mem = s.mem := by
  simp -implicitDefEqProofs only [execSlot0Secret, whenServed, State.inTurn] at e
  (repeat' split at e) <;> first | (injection e with e; subst e; simp -implicitDefEqProofs only [State.pkgTouch_mem, State.slot0Secret_mem, State.unaddressed_mem, State.hold_mem, apply_ite State.mem, apply_ite Prod.fst, ite_self, implies_true, foldl_mem, foldl_fst_mem]) | cases e

theorem execSlotDisable_mem (slot) (s : State) (t) (e : execSlotDisable slot s = .next t) : t.mem = s.mem := by
  simp -implicitDefEqProofs only [execSlotDisable, State.unlessMulti, onSlot] at e
  (repeat' split at e) <;> first | (injection e with e; subst e; simp -implicitDefEqProofs only [State.blkTouch_mem, State.pkgTouch_mem, State.slotDisable_mem, State.hold_mem, apply_ite State.mem, apply_ite Prod.fst, ite_self, implies_true, foldl_mem, foldl_fst_mem]) | cases e

theorem execStartDrain_mem (s : State) (t) (e : execStartDrain s = .next t) : t.mem = s.mem := by
  simp -implicitDefEqProofs only [execStartDrain, State.unlessMulti, whenOn] at e
  (repeat' split at e) <;> first | (injection e with e; subst e; simp -implicitDefEqProofs only [State.pkgTouch_mem, State.startDrain_mem, State.hold_mem, apply_ite State.mem, apply_ite Prod.fst, ite_self, implies_true, foldl_mem, foldl_fst_mem]) | cases e

theorem execSwitchEdition_mem (s : State) (t) (e : execSwitchEdition s = .next t) : t.mem = s.mem := by
  simp -implicitDefEqProofs only [execSwitchEdition, State.unlessMulti, whenOn] at e
  (repeat' split at e) <;> first | (injection e with e; subst e; simp -implicitDefEqProofs only [State.pkgTouch_mem, State.switchNow_mem, State.hold_mem, apply_ite State.mem, apply_ite Prod.fst, ite_self, implies_true, foldl_mem, foldl_fst_mem]) | cases e

theorem execWatchTableWrite_mem (offset) (bytes) (s : State) (t) (e : execWatchTableWrite offset bytes s = .next t) : t.mem = s.mem := by
  simp -implicitDefEqProofs only [execWatchTableWrite, State.unlessMulti] at e
  (repeat' split at e) <;> first | (injection e with e; subst e; simp -implicitDefEqProofs only [State.pkgTouch_mem, State.hold_mem, State.writeWatch_mem, apply_ite State.mem, apply_ite Prod.fst, ite_self, implies_true, foldl_mem, foldl_fst_mem]) | cases e

theorem State.refusedBusy_mem (s : State) (u) (id) (p) : (State.refusedBusy s u id p).mem = s.mem := by
  simp -implicitDefEqProofs only [State.refusedBusy]
  repeat' split
  all_goals simp -implicitDefEqProofs only [State.setSent_mem, apply_ite State.mem, apply_ite Prod.fst, ite_self, implies_true, foldl_mem, foldl_fst_mem]

theorem State.handle_mem (s : State) (die) : (State.handle s die).mem = s.mem := by
  simp -implicitDefEqProofs only [State.handle]
  repeat' split
  all_goals simp -implicitDefEqProofs only [State.event_mem, State.setErrQueue_mem, apply_ite State.mem, apply_ite Prod.fst, ite_self, implies_true, foldl_mem, foldl_fst_mem]

theorem State.holdOver_mem (s : State) (src) (sunit) (msgid) : (State.holdOver s src sunit msgid).mem = s.mem := by
  simp -implicitDefEqProofs only [State.holdOver]
  repeat' split
  all_goals simp -implicitDefEqProofs only [State.answer_mem, State.bump_mem, State.dropEntry_mem, apply_ite State.mem, apply_ite Prod.fst, ite_self, implies_true, foldl_mem, foldl_fst_mem]

theorem State.idleClose_mem (s : State) (id) : (State.idleClose s id).mem = s.mem := by
  simp -implicitDefEqProofs only [State.idleClose]
  repeat' split
  all_goals simp -implicitDefEqProofs only [State.bump_mem, State.closeSession_mem, apply_ite State.mem, apply_ite Prod.fst, ite_self, implies_true, foldl_mem, foldl_fst_mem]

theorem State.setCtr_mem (s : State) (k) (ctr) : (State.setCtr s k ctr).mem = s.mem := by simp -implicitDefEqProofs only [State.setCtr, State.setKeySlot_mem, State.setSec_mem, apply_ite State.mem, apply_ite Prod.fst, ite_self, implies_true, foldl_mem, foldl_fst_mem]

theorem State.jortoOpen_mem (s : State) (m) (k) (events) : (State.jortoOpen s m k events).mem = s.mem := by simp -implicitDefEqProofs only [State.jortoOpen, State.emit_mem, State.secRecord_mem, State.setCtr_mem, apply_ite State.mem, apply_ite Prod.fst, ite_self, implies_true, foldl_mem, foldl_fst_mem]

theorem State.leave_mem (s : State) (n) (h) : (State.leave s n h).mem = s.mem := by simp -implicitDefEqProofs only [State.leave, State.unbuffer_mem, apply_ite State.mem, apply_ite Prod.fst, ite_self, implies_true, foldl_mem, foldl_fst_mem]

theorem State.lineDeliver_mem (s : State) (h) : (State.lineDeliver s h).mem = s.mem := by simp -implicitDefEqProofs only [State.lineDeliver, apply_ite State.mem, apply_ite Prod.fst, ite_self, implies_true, foldl_mem, foldl_fst_mem]

theorem State.rejectFrame_mem (s : State) (p) (f) : (State.rejectFrame s p f).mem = s.mem := by simp -implicitDefEqProofs only [State.rejectFrame, State.capture_mem, State.modFport_mem, apply_ite State.mem, apply_ite Prod.fst, ite_self, implies_true, foldl_mem, foldl_fst_mem]

theorem State.linkFrame_mem (s : State) (p) (f) : (State.linkFrame s p f).mem = s.mem := by simp -implicitDefEqProofs only [State.linkFrame, State.acceptFrame_mem, State.bump_mem, State.rejectFrame_mem, apply_ite State.mem, apply_ite Prod.fst, ite_self, implies_true, foldl_mem, foldl_fst_mem]

theorem State.note_mem (s : State) (r) : (State.note s r).mem = s.mem := by simp -implicitDefEqProofs only [State.note, State.setGroup_mem, apply_ite State.mem, apply_ite Prod.fst, ite_self, implies_true, foldl_mem, foldl_fst_mem]

theorem State.noteServed_mem (s : State) (p) (n) (q) : (State.noteServed s p n q).mem = s.mem := by simp -implicitDefEqProofs only [State.noteServed, State.setFport_mem, apply_ite State.mem, apply_ite Prod.fst, ite_self, implies_true, foldl_mem, foldl_fst_mem]

theorem State.spaceReads_mem (s : State) (w) (sp) (off) (len) : (State.spaceReads s w sp off len).1.mem = s.mem := by simp -implicitDefEqProofs only [State.spaceReads, State.demand_mem, apply_ite State.mem, apply_ite Prod.fst, ite_self, implies_true, foldl_mem, foldl_fst_mem]

theorem State.recordReads_mem (s : State) (w) (d) : (State.recordReads s w d).1.mem = s.mem := by simp -implicitDefEqProofs only [State.recordReads, State.spaceReads_mem, apply_ite State.mem, apply_ite Prod.fst, ite_self, implies_true, foldl_mem, foldl_fst_mem]

theorem State.plainRows_mem (s : State) (w) (d) : (State.plainRows s w d).1.mem = s.mem := by
  simp -implicitDefEqProofs only [State.plainRows]
  repeat' split
  all_goals simp -implicitDefEqProofs only [State.recordReads_mem, apply_ite State.mem, apply_ite Prod.fst, ite_self, implies_true, foldl_mem, foldl_fst_mem]

theorem State.popWord_mem (s : State) (w) (o) (word) : (State.popWord s w o word).mem = s.mem := by simp -implicitDefEqProofs only [State.popWord, State.modCtx_mem, apply_ite State.mem, apply_ite Prod.fst, ite_self, implies_true, foldl_mem, foldl_fst_mem]

theorem State.popped_mem (s : State) (k) (pos) (mode) (q) (e) (taken) : (State.popped s k pos mode q e taken).mem = s.mem := by simp -implicitDefEqProofs only [State.popped, State.bump_mem, State.modSlot_mem, State.returnCredit_mem, apply_ite State.mem, apply_ite Prod.fst, ite_self, implies_true, foldl_mem, foldl_fst_mem]

theorem State.portDown_mem (s : State) (p) : (State.portDown s p).mem = s.mem := by simp -implicitDefEqProofs only [State.portDown, State.afterLoss_mem, State.capture_mem, State.event_mem, State.loseReplay_mem, State.modFport_mem, apply_ite State.mem, apply_ite Prod.fst, ite_self, implies_true, foldl_mem, foldl_fst_mem]

theorem State.powerSample_mem (s : State) (mw) (rails) : (State.powerSample s mw rails).mem = s.mem := by simp -implicitDefEqProofs only [State.powerSample, State.setPower_mem, apply_ite State.mem, apply_ite Prod.fst, ite_self, implies_true, foldl_mem, foldl_fst_mem]

theorem State.recordRange_mem (s : State) (w) (d) (off) (len) : (State.recordRange s w d off len).1.mem = s.mem := by simp -implicitDefEqProofs only [State.recordRange, State.spaceReads_mem, apply_ite State.mem, apply_ite Prod.fst, ite_self, implies_true, foldl_mem, foldl_fst_mem]

theorem State.readAnew_mem (s : State) (m) (p) : (State.readAnew s m p).1.mem = s.mem := by
  simp -implicitDefEqProofs only [State.readAnew]
  repeat' split
  all_goals simp -implicitDefEqProofs only [State.recordRange_mem, State.spaceReads_mem, apply_ite State.mem, apply_ite Prod.fst, ite_self, implies_true, foldl_mem, foldl_fst_mem]

theorem State.readCounts_mem (s : State) (w) (d) (ts) : (State.readCounts s w d ts).mem = s.mem := by simp -implicitDefEqProofs only [State.readCounts, State.readCount_mem, apply_ite State.mem, apply_ite Prod.fst, ite_self, implies_true, foldl_mem, foldl_fst_mem]

theorem State.warmCredit_mem (s : State) (a1) : (State.warmCredit s a1).mem = s.mem := by
  simp -implicitDefEqProofs only [State.warmCredit]
  repeat' split
  all_goals simp -implicitDefEqProofs only [State.bump_mem, apply_ite State.mem, apply_ite Prod.fst, ite_self, implies_true, foldl_mem, foldl_fst_mem]

theorem State.warmEve_mem (s : State) : (State.warmEve s).mem = s.mem := by simp -implicitDefEqProofs only [State.warmEve, State.bump_mem, State.staleExch_mem, apply_ite State.mem, apply_ite Prod.fst, ite_self, implies_true, foldl_mem, foldl_fst_mem]

theorem State.warmCount_mem (s : State) (a1) : (State.warmCount s a1).mem = s.mem := by
  simp -implicitDefEqProofs only [State.warmCount]
  repeat' split
  all_goals simp -implicitDefEqProofs only [State.reshardRefused_mem, State.warmCredit_mem, State.warmEve_mem, apply_ite State.mem, apply_ite Prod.fst, ite_self, implies_true, foldl_mem, foldl_fst_mem]

theorem State.reportReady_mem (s : State) (r) : (State.reportReady s r).mem = s.mem := by
  simp -implicitDefEqProofs only [State.reportReady]
  repeat' split
  all_goals simp -implicitDefEqProofs only [State.setSec_mem, apply_ite State.mem, apply_ite Prod.fst, ite_self, implies_true, foldl_mem, foldl_fst_mem]

theorem State.unspecified_mem (s : State) : (State.unspecified s).mem = s.mem := rfl

theorem State.sourceLost_mem (s : State) (m) : (State.sourceLost s m).mem = s.mem := by
  simp -implicitDefEqProofs only [State.sourceLost]
  repeat' split
  all_goals simp -implicitDefEqProofs only [State.opFault_mem, State.unspecified_mem, apply_ite State.mem, apply_ite Prod.fst, ite_self, implies_true, foldl_mem, foldl_fst_mem]

theorem State.resendBusy_mem (s : State) (u) (id) : (State.resendBusy s u id).mem = s.mem := by grind [State.resendBusy, State.inject_mem, State.readAnew_mem, State.setSent_mem, State.sourceLost_mem]

theorem State.setBanks_mem (s : State) (k) (f) : (State.setBanks s k f).mem = s.mem := by simp -implicitDefEqProofs only [State.setBanks, State.modSlot_mem, apply_ite State.mem, apply_ite Prod.fst, ite_self, implies_true, foldl_mem, foldl_fst_mem]

theorem State.returnRows_mem (s : State) (w) (h) (d) (b) (ts) : (State.returnRows s w h d b ts).1.mem = s.mem := by simp -implicitDefEqProofs only [State.returnRows, State.sendFor_mem, State.setBanks_mem, apply_ite State.mem, apply_ite Prod.fst, ite_self, implies_true, foldl_mem, foldl_fst_mem]

theorem State.staleAway_mem (s : State) (h) : (State.staleAway s h).mem = s.mem := by simp -implicitDefEqProofs only [State.staleAway, State.answerAt_mem, State.bump_mem, State.capture_mem, State.turnedAway_mem, apply_ite State.mem, apply_ite Prod.fst, ite_self, implies_true, foldl_mem, foldl_fst_mem]

theorem State.transmit_mem (s : State) (p) (q) : (State.transmit s p q).mem = s.mem := by simp -implicitDefEqProofs only [State.transmit, State.bump_mem, State.modLedger_mem, State.setFport_mem, apply_ite State.mem, apply_ite Prod.fst, ite_self, implies_true, foldl_mem, foldl_fst_mem]

theorem State.route_mem (s : State) (n) : (State.route s n).mem = s.mem := by
  simp -implicitDefEqProofs only [State.route]
  repeat' split
  all_goals simp -implicitDefEqProofs only [State.bump_mem, State.capture_mem, State.cross_mem, State.leave_mem, State.lineDeliver_mem, State.noteServed_mem, State.staleAway_mem, State.transmit_mem, State.turnedAway_mem, apply_ite State.mem, apply_ite Prod.fst, ite_self, implies_true, foldl_mem, foldl_fst_mem]

theorem State.rto_mem (s : State) (id) : (State.rto s id).mem = s.mem := by
  simp -implicitDefEqProofs only [State.rto]
  repeat' split
  all_goals simp -implicitDefEqProofs only [State.bump_mem, State.closeSession_mem, State.emit_mem, State.setSession_mem, apply_ite State.mem, apply_ite Prod.fst, ite_self, implies_true, foldl_mem, foldl_fst_mem]

theorem State.runOp_mem (s : State) (n x k o body) (hf : ∀ s w o, (body s w o).1.mem = s.mem) : (s.runOp n x k o body).mem = s.mem := by
  unfold State.runOp; repeat' split
  all_goals simp only [hf, State.endOp_mem]

theorem State.saveDone_mem (s : State) : (State.saveDone s).mem = s.mem := by
  simp -implicitDefEqProofs only [State.saveDone]
  repeat' split
  all_goals simp -implicitDefEqProofs only [State.setProfiles_mem, apply_ite State.mem, apply_ite Prod.fst, ite_self, implies_true, foldl_mem, foldl_fst_mem]

theorem State.scrubNext_mem (s : State) (stack) : (State.scrubNext s stack).mem = s.mem := by simp -implicitDefEqProofs only [State.scrubNext, State.bump_mem, apply_ite State.mem, apply_ite Prod.fst, ite_self, implies_true, foldl_mem, foldl_fst_mem]

theorem State.scrubOne_mem (s : State) (stack) (u) : (State.scrubOne s stack u).mem = s.mem := by
  simp -implicitDefEqProofs only [State.scrubOne]
  repeat' split
  all_goals simp -implicitDefEqProofs only [State.bump_mem, State.capture_mem, State.mcCount_mem, State.setCond_mem, apply_ite State.mem, apply_ite Prod.fst, ite_self, implies_true, foldl_mem, foldl_fst_mem]

theorem State.sendMoves_mem (s : State) (w) (d) (rid) (dests) (moves) : (State.sendMoves s w d rid dests moves).1.mem = s.mem := by simp -implicitDefEqProofs only [State.sendMoves, State.bump_mem, State.sendFor_mem, State.spaceReads_mem, apply_ite State.mem, apply_ite Prod.fst, ite_self, implies_true, foldl_mem, foldl_fst_mem]

theorem State.sendPart_mem (s : State) (w) (dst) (q) (word) (bs) (opens) : (State.sendPart s w dst q word bs opens).1.mem = s.mem := by simp -implicitDefEqProofs only [State.sendPart, State.sendFor_mem, apply_ite State.mem, apply_ite Prod.fst, ite_self, implies_true, foldl_mem, foldl_fst_mem]

theorem State.sendSome_mem (s : State) (w) (ps) : (State.sendSome s w ps).mem = s.mem := by simp -implicitDefEqProofs only [State.sendSome, State.send_mem, State.startLine_mem, State.unspecified_mem, apply_ite State.mem, apply_ite Prod.fst, ite_self, implies_true, foldl_mem, foldl_fst_mem]

theorem State.settled_mem (s : State) : (State.settled s).mem = s.mem := by simp -implicitDefEqProofs only [State.settled, State.retarget_mem, State.setPower_mem, apply_ite State.mem, apply_ite Prod.fst, ite_self, implies_true, foldl_mem, foldl_fst_mem]

theorem State.spillCopy_mem (s : State) (k) (q) : (State.spillCopy s k q).mem = s.mem := by grind [State.spillCopy, State.hbmRead_mem, State.modSlot_mem]

theorem State.tableReads_mem (s : State) (w) (d) : (State.tableReads s w d).1.mem = s.mem := by simp -implicitDefEqProofs only [State.tableReads, State.spaceReads_mem, apply_ite State.mem, apply_ite Prod.fst, ite_self, implies_true, foldl_mem, foldl_fst_mem]

theorem State.tapDrive_mem (s : State) (d) (i) (reg) : (State.tapDrive s d i reg).mem = s.mem := by simp -implicitDefEqProofs only [State.tapDrive, State.capture_mem, State.setTap_mem, apply_ite State.mem, apply_ite Prod.fst, ite_self, implies_true, foldl_mem, foldl_fst_mem]

theorem State.tapLoad_mem (s : State) (d) (i) (reg) : (State.tapLoad s d i reg).mem = s.mem := by simp -implicitDefEqProofs only [State.tapLoad, State.setTap_mem, apply_ite State.mem, apply_ite Prod.fst, ite_self, implies_true, foldl_mem, foldl_fst_mem]

theorem State.thermalLoop_mem (s : State) (junction) (stack) : (State.thermalLoop s junction stack).mem = s.mem := by simp -implicitDefEqProofs only [State.thermalLoop, State.bump_mem, State.capture_mem, State.levelsOn_mem, State.modLedger_mem, State.setPower_mem, apply_ite State.mem, apply_ite Prod.fst, ite_self, implies_true, foldl_mem, foldl_fst_mem]

theorem State.toVendor_mem (s : State) : (State.toVendor s).mem = s.mem := by simp -implicitDefEqProofs only [State.toVendor, State.setSec_mem, apply_ite State.mem, apply_ite Prod.fst, ite_self, implies_true, foldl_mem, foldl_fst_mem]

theorem State.widenCounts_mem (s : State) (w) (d) (bs) : (State.widenCounts s w d bs).mem = s.mem := by simp -implicitDefEqProofs only [State.widenCounts, State.badTileAt_mem, State.count_mem, apply_ite State.mem, apply_ite Prod.fst, ite_self, implies_true, foldl_mem, foldl_fst_mem]

theorem State.withFetchWord_mem (s : State) (nbits) (w) : (State.withFetchWord s nbits w).mem = s.mem := rfl

theorem deriveEntries_mem (s : State) (w) (dy) (rs) : (deriveEntries s w dy rs).mem = s.mem := by simp -implicitDefEqProofs only [deriveEntries, State.count_mem, State.setSrf_mem, apply_ite State.mem, apply_ite Prod.fst, ite_self, implies_true, foldl_mem, foldl_fst_mem]

theorem execAbsent_mem (port) (s : State) (t) (e : execAbsent port s = .next t) : t.mem = s.mem := by
  simp -implicitDefEqProofs only [execAbsent, onPort] at e
  (repeat' split at e) <;> first | (injection e with e; subst e; simp -implicitDefEqProofs only [State.afterLoss_mem, State.loseReplay_mem, State.modFport_mem, apply_ite State.mem, apply_ite Prod.fst, ite_self, implies_true, foldl_mem, foldl_fst_mem]) | cases e

theorem execAbsentEnd_mem (port) (s : State) (t) (e : execAbsentEnd port s = .next t) : t.mem = s.mem := by
  simp -implicitDefEqProofs only [execAbsentEnd, onPort] at e
  (repeat' split at e) <;> first | (injection e with e; subst e; simp -implicitDefEqProofs only [State.trainAfresh_mem, apply_ite State.mem, apply_ite Prod.fst, ite_self, implies_true, foldl_mem, foldl_fst_mem]) | cases e

theorem execAck_mem (sunit) (msgid) (node) (s : State) (t) (e : execAck sunit msgid node s = .next t) : t.mem = s.mem := by
  simp -implicitDefEqProofs only [execAck] at e
  (repeat' split at e) <;> first | (injection e with e; subst e; simp -implicitDefEqProofs only [State.answered_mem, apply_ite State.mem, apply_ite Prod.fst, ite_self, implies_true, foldl_mem, foldl_fst_mem]) | cases e

theorem issueCtl_mem (n) (w) (s : State) (t) (e : issueCtl n w s = .next t) : t.mem = s.mem := by
  simp -implicitDefEqProofs only [issueCtl] at e
  (repeat' split at e) <;> first | (injection e with e; subst e; simp -implicitDefEqProofs only [State.issue_mem, apply_ite State.mem, apply_ite Prod.fst, ite_self, implies_true, foldl_mem, foldl_fst_mem]) | cases e

theorem execAddR_mem (n) (gd) (ga) (gb) (s : State) (t) (e : execAddR n gd ga gb s = .next t) : t.mem = s.mem := by
  unfold execAddR at e
  exact issueCtl_mem (e := e)

theorem execAddi_mem (n) (gd) (ga) (imm) (s : State) (t) (e : execAddi n gd ga imm s = .next t) : t.mem = s.mem := by
  unfold execAddi at e
  exact issueCtl_mem (e := e)

theorem execAndR_mem (n) (gd) (ga) (gb) (s : State) (t) (e : execAndR n gd ga gb s = .next t) : t.mem = s.mem := by
  unfold execAndR at e
  exact issueCtl_mem (e := e)

theorem execArpRequest_mem (port) (target) (s : State) (t) (e : execArpRequest port target s = .next t) : t.mem = s.mem := by
  simp -implicitDefEqProofs only [execArpRequest, onFrame] at e
  (repeat' split at e) <;> first | (injection e with e; subst e; simp -implicitDefEqProofs only [State.emit_mem, State.fecIn_mem, State.frameDiscard_mem, apply_ite State.mem, apply_ite Prod.fst, ite_self, implies_true, foldl_mem, foldl_fst_mem]) | cases e

theorem execAttReportReady_mem (r) (s : State) (t) (e : execAttReportReady r s = .next t) : t.mem = s.mem := by
  simp -implicitDefEqProofs only [execAttReportReady] at e
  (repeat' split at e) <;> first | (injection e with e; subst e; simp -implicitDefEqProofs only [State.reportReady_mem, apply_ite State.mem, apply_ite Prod.fst, ite_self, implies_true, foldl_mem, foldl_fst_mem]) | cases e

theorem execAuthIdle_mem (s : State) (t) (e : execAuthIdle s = .next t) : t.mem = s.mem := by
  simp -implicitDefEqProofs only [execAuthIdle] at e
  (repeat' split at e) <;> first | (injection e with e; subst e; simp -implicitDefEqProofs only [State.setSec_mem, apply_ite State.mem, apply_ite Prod.fst, ite_self, implies_true, foldl_mem, foldl_fst_mem]) | cases e

theorem execBlockTransferIdle_mem (xfer) (s : State) (t) (e : execBlockTransferIdle xfer s = .next t) : t.mem = s.mem := by
  simp -implicitDefEqProofs only [execBlockTransferIdle] at e
  (repeat' split at e) <;> first | (injection e with e; subst e; simp -implicitDefEqProofs only [State.dropXfer_mem, apply_ite State.mem, apply_ite Prod.fst, ite_self, implies_true, foldl_mem, foldl_fst_mem]) | cases e

theorem execBr_mem (n) (p) (sense) (always) (off) (s : State) (t) (e : execBr n p sense always off s = .next t) : t.mem = s.mem := by
  unfold execBr at e
  exact issueCtl_mem (e := e)

theorem execBrimActivate_mem (n) (s : State) (t) (e : execBrimActivate n s = .next t) : t.mem = s.mem := by
  simp -implicitDefEqProofs only [execBrimActivate] at e
  (repeat' split at e) <;> first | (injection e with e; subst e; simp -implicitDefEqProofs only [State.bump_mem, State.setCoreSt_mem, apply_ite State.mem, apply_ite Prod.fst, ite_self, implies_true, foldl_mem, foldl_fst_mem]) | cases e

theorem execBrimPreempt_mem (n) (s : State) (t) (e : execBrimPreempt n s = .next t) : t.mem = s.mem := by
  simp -implicitDefEqProofs only [execBrimPreempt] at e
  (repeat' split at e) <;> first | (injection e with e; subst e; simp -implicitDefEqProofs only [State.bump_mem, State.modCtx_mem, State.setCoreSt_mem, apply_ite State.mem, apply_ite Prod.fst, ite_self, implies_true, foldl_mem, foldl_fst_mem]) | cases e

theorem execBrimResume_mem (n) (s : State) (t) (e : execBrimResume n s = .next t) : t.mem = s.mem := by
  simp -implicitDefEqProofs only [execBrimResume] at e
  (repeat' split at e) <;> first | (injection e with e; subst e; simp -implicitDefEqProofs only [State.modCtx_mem, State.setAcc_mem, State.setCoreSt_mem, apply_ite State.mem, apply_ite Prod.fst, ite_self, implies_true, foldl_mem, foldl_fst_mem]) | cases e

theorem execBrimSuspended_mem (n) (latencyNs) (s : State) (t) (e : execBrimSuspended n latencyNs s = .next t) : t.mem = s.mem := by
  simp -implicitDefEqProofs only [execBrimSuspended] at e
  (repeat' split at e) <;> first | (injection e with e; subst e; simp -implicitDefEqProofs only [State.setCoreSt_mem, State.setCtx_mem, State.setTot_mem, apply_ite State.mem, apply_ite Prod.fst, ite_self, implies_true, foldl_mem, foldl_fst_mem]) | cases e

theorem execBundleIssue_mem (n) (s : State) (t) (e : execBundleIssue n s = .next t) : t.mem = s.mem := by
  simp -implicitDefEqProofs only [execBundleIssue] at e
  (repeat' split at e) <;> first | (injection e with e; subst e; simp -implicitDefEqProofs only [State.countCycle_mem, State.fetchIssue_mem, apply_ite State.mem, apply_ite Prod.fst, ite_self, implies_true, foldl_mem, foldl_fst_mem]) | cases e

theorem execBusy_mem (sunit) (msgid) (p) (s : State) (t) (e : execBusy sunit msgid p s = .next t) : t.mem = s.mem := by
  simp -implicitDefEqProofs only [execBusy] at e
  (repeat' split at e) <;> first | (injection e with e; subst e; simp -implicitDefEqProofs only [State.refusedBusy_mem, apply_ite State.mem, apply_ite Prod.fst, ite_self, implies_true, foldl_mem, foldl_fst_mem]) | cases e

theorem execBusyResend_mem (sunit) (msgid) (s : State) (t) (e : execBusyResend sunit msgid s = .next t) : t.mem = s.mem := by
  simp -implicitDefEqProofs only [execBusyResend] at e
  (repeat' split at e) <;> first | (injection e with e; subst e; simp -implicitDefEqProofs only [State.resendBusy_mem, apply_ite State.mem, apply_ite Prod.fst, ite_self, implies_true, foldl_mem, foldl_fst_mem]) | cases e

theorem execBypass_mem (die) (s : State) (t) (e : execBypass die s = .next t) : t.mem = s.mem := by
  simp -implicitDefEqProofs only [execBypass, onTap] at e
  (repeat' split at e) <;> first | (injection e with e; subst e; simp -implicitDefEqProofs only [State.tapLoad_mem, apply_ite State.mem, apply_ite Prod.fst, ite_self, implies_true, foldl_mem, foldl_fst_mem]) | cases e

theorem execCapLoop_mem (s : State) (t) (e : execCapLoop s = .next t) : t.mem = s.mem := by
  simp -implicitDefEqProofs only [execCapLoop, whenReady] at e
  (repeat' split at e) <;> first | (injection e with e; subst e; simp -implicitDefEqProofs only [State.capLoop_mem, apply_ite State.mem, apply_ite Prod.fst, ite_self, implies_true, foldl_mem, foldl_fst_mem]) | cases e

theorem execClamp_mem (die) (s : State) (t) (e : execClamp die s = .next t) : t.mem = s.mem := by
  simp -implicitDefEqProofs only [execClamp, onTap] at e
  (repeat' split at e) <;> first | (injection e with e; subst e; simp -implicitDefEqProofs only [State.tapDrive_mem, apply_ite State.mem, apply_ite Prod.fst, ite_self, implies_true, foldl_mem, foldl_fst_mem]) | cases e

theorem execCmp_mem (n) (pd) (cond) (ga) (gb) (s : State) (t) (e : execCmp n pd cond ga gb s = .next t) : t.mem = s.mem := by
  unfold execCmp at e
  exact issueCtl_mem (e := e)

theorem execCreditReturn_mem (producer) (dst) (queue) (key) (s t : State) (e : execCreditReturn producer dst queue key s = .next t) : t.mem = s.mem := by
  unfold execCreditReturn onCredit at e
  injection e with e; subst e
  simp -implicitDefEqProofs only [State.creditReturned_mem, State.warmCredit_mem, apply_ite State.mem, ite_self]

theorem execCreditSync_mem (port) (free) (lastSeq) (s : State) (t) (e : execCreditSync port free lastSeq s = .next t) : t.mem = s.mem := by
  simp -implicitDefEqProofs only [execCreditSync, onPort] at e
  (repeat' split at e) <;> first | (injection e with e; subst e; simp -implicitDefEqProofs only [State.creditSync_mem, apply_ite State.mem, apply_ite Prod.fst, ite_self, implies_true, foldl_mem, foldl_fst_mem]) | cases e

theorem execDieReleaseTimeout_mem (die) (s : State) (t) (e : execDieReleaseTimeout die s = .next t) : t.mem = s.mem := by
  simp -implicitDefEqProofs only [execDieReleaseTimeout] at e
  (repeat' split at e) <;> first | (injection e with e; subst e; simp -implicitDefEqProofs only [State.capture_mem, apply_ite State.mem, apply_ite Prod.fst, ite_self, implies_true, foldl_mem, foldl_fst_mem]) | cases e

theorem execDieTest_mem (testMode) (die) (i) (s : State) (t) (e : execDieTest testMode die i s = .next t) : t.mem = s.mem := by
  simp -implicitDefEqProofs only [execDieTest] at e
  (repeat' split at e) <;> first | (injection e with e; subst e; simp -implicitDefEqProofs only [State.dieTest_mem, apply_ite State.mem, apply_ite Prod.fst, ite_self, implies_true, foldl_mem, foldl_fst_mem]) | cases e

theorem execDrain_mem (src) (s : State) (t) (e : execDrain src s = .next t) : t.mem = s.mem := by
  simp -implicitDefEqProofs only [execDrain, whenOn] at e
  (repeat' split at e) <;> first | (injection e with e; subst e; simp -implicitDefEqProofs only [State.drainAsked_mem, apply_ite State.mem, apply_ite Prod.fst, ite_self, implies_true, foldl_mem, foldl_fst_mem]) | cases e

theorem execDrainReply_mem (node) (current) (infl) (acc) (s : State) (t) (e : execDrainReply node current infl acc s = .next t) : t.mem = s.mem := by
  simp -implicitDefEqProofs only [execDrainReply, whenOn] at e
  (repeat' split at e) <;> first | (injection e with e; subst e; simp -implicitDefEqProofs only [State.drainReplied_mem, apply_ite State.mem, apply_ite Prod.fst, ite_self, implies_true, foldl_mem, foldl_fst_mem]) | cases e

theorem execDrainTimeout_mem (s : State) (t) (e : execDrainTimeout s = .next t) : t.mem = s.mem := by
  simp -implicitDefEqProofs only [execDrainTimeout, whenOn] at e
  (repeat' split at e) <;> first | (injection e with e; subst e; simp -implicitDefEqProofs only [State.drainLate_mem, apply_ite State.mem, apply_ite Prod.fst, ite_self, implies_true, foldl_mem, foldl_fst_mem]) | cases e

theorem execDroop_mem (core) (s : State) (t) (e : execDroop core s = .next t) : t.mem = s.mem := by
  simp -implicitDefEqProofs only [execDroop] at e
  (repeat' split at e) <;> first | (injection e with e; subst e; simp -implicitDefEqProofs only [State.bump_mem, State.setCoreSt_mem, apply_ite State.mem, apply_ite Prod.fst, ite_self, implies_true, foldl_mem, foldl_fst_mem]) | cases e

theorem execDroopRecovery_mem (core) (stretchedNs) (s : State) (t) (e : execDroopRecovery core stretchedNs s = .next t) : t.mem = s.mem := by
  simp -implicitDefEqProofs only [execDroopRecovery] at e
  (repeat' split at e) <;> first | (injection e with e; subst e; simp -implicitDefEqProofs only [State.bump_mem, State.setCoreSt_mem, apply_ite State.mem, apply_ite Prod.fst, ite_self, implies_true, foldl_mem, foldl_fst_mem]) | cases e

theorem execDutyChange_mem (s : State) (t) (e : execDutyChange s = .next t) : t.mem = s.mem := by
  simp -implicitDefEqProofs only [execDutyChange, whenReady] at e
  (repeat' split at e) <;> first | (injection e with e; subst e; simp -implicitDefEqProofs only [State.setPower_mem, apply_ite State.mem, apply_ite Prod.fst, ite_self, implies_true, foldl_mem, foldl_fst_mem]) | cases e

theorem execDwr_mem (n) (di) (ga) (pd) (s : State) (t) (e : execDwr n di ga pd s = .next t) : t.mem = s.mem := by
  unfold execDwr at e
  exact issueCtl_mem (e := e)

theorem execEchoRequest_mem (port) (dst) (v6) (data) (s : State) (t) (e : execEchoRequest port dst v6 data s = .next t) : t.mem = s.mem := by
  simp -implicitDefEqProofs only [execEchoRequest, onFrame] at e
  (repeat' split at e) <;> first | (injection e with e; subst e; simp -implicitDefEqProofs only [State.emit_mem, State.fecIn_mem, State.frameDiscard_mem, apply_ite State.mem, apply_ite Prod.fst, ite_self, implies_true, foldl_mem, foldl_fst_mem]) | cases e

theorem execEndIssue_mem (n) (s : State) (t) (e : execEndIssue n s = .next t) : t.mem = s.mem := by
  unfold execEndIssue at e
  exact issueCtl_mem (e := e)

theorem execEntryIdleRelease_mem (src) (sunit) (msgid) (s : State) (t) (e : execEntryIdleRelease src sunit msgid s = .next t) : t.mem = s.mem := by
  simp -implicitDefEqProofs only [execEntryIdleRelease] at e
  (repeat' split at e) <;> first | (injection e with e; subst e; simp -implicitDefEqProofs only [State.entryIdle_mem, apply_ite State.mem, apply_ite Prod.fst, ite_self, implies_true, foldl_mem, foldl_fst_mem]) | cases e

theorem execErrorRsp_mem (sunit) (msgid) (status) (s : State) (t) (e : execErrorRsp sunit msgid status s = .next t) : t.mem = s.mem := by
  simp -implicitDefEqProofs only [execErrorRsp] at e
  (repeat' split at e) <;> first | (injection e with e; subst e; simp -implicitDefEqProofs only [State.answered_mem, apply_ite State.mem, apply_ite Prod.fst, ite_self, implies_true, foldl_mem, foldl_fst_mem]) | cases e

theorem execEve_mem (child) (m) (s : State) (t) (e : execEve child m s = .next t) : t.mem = s.mem := by
  simp -implicitDefEqProofs only [execEve] at e
  (repeat' split at e) <;> first | (injection e with e; subst e; simp -implicitDefEqProofs only [State.gotEve_mem, State.warmEve_mem, apply_ite State.mem, apply_ite Prod.fst, ite_self, implies_true, foldl_mem, foldl_fst_mem]) | cases e

theorem execEveFirst_mem (child) (m) (s : State) (t) (e : execEveFirst child m s = .next t) : t.mem = s.mem := by
  simp -implicitDefEqProofs only [execEveFirst, whenUp] at e
  (repeat' split at e) <;> first | (injection e with e; subst e; simp -implicitDefEqProofs only [State.gotEveFirst_mem, apply_ite State.mem, apply_ite Prod.fst, ite_self, implies_true, foldl_mem, foldl_fst_mem]) | cases e

theorem execEveTimeout_mem (s : State) (t) (e : execEveTimeout s = .next t) : t.mem = s.mem := by
  simp -implicitDefEqProofs only [execEveTimeout, whenUp] at e
  (repeat' split at e) <;> first | (injection e with e; subst e; simp -implicitDefEqProofs only [State.bump_mem, State.decideOutcome_mem, apply_ite State.mem, apply_ite Prod.fst, ite_self, implies_true, foldl_mem, foldl_fst_mem]) | cases e

theorem execExpert_mem (slot) (m) (s : State) (t) (e : execExpert slot m s = .next t) : t.mem = s.mem := by
  simp -implicitDefEqProofs only [execExpert, onSlot] at e
  (repeat' split at e) <;> first | (injection e with e; subst e; simp -implicitDefEqProofs only [State.gotExpert_mem, apply_ite State.mem, apply_ite Prod.fst, ite_self, implies_true, foldl_mem, foldl_fst_mem]) | cases e

theorem execExtest_mem (die) (s : State) (t) (e : execExtest die s = .next t) : t.mem = s.mem := by
  simp -implicitDefEqProofs only [execExtest, onTap] at e
  (repeat' split at e) <;> first | (injection e with e; subst e; simp -implicitDefEqProofs only [State.tapDrive_mem, apply_ite State.mem, apply_ite Prod.fst, ite_self, implies_true, foldl_mem, foldl_fst_mem]) | cases e

theorem execFastRepeat_mem (m) (s : State) (t) (e : execFastRepeat m s = .next t) : t.mem = s.mem := by
  simp -implicitDefEqProofs only [execFastRepeat, whenUp] at e
  (repeat' split at e) <;> first | (injection e with e; subst e; simp -implicitDefEqProofs only [State.gotOutcome_mem, apply_ite State.mem, apply_ite Prod.fst, ite_self, implies_true, foldl_mem, foldl_fst_mem]) | cases e

theorem execFastSkip_mem (m) (s : State) (t) (e : execFastSkip m s = .next t) : t.mem = s.mem := by
  simp -implicitDefEqProofs only [execFastSkip, whenUp] at e
  (repeat' split at e) <;> first | (injection e with e; subst e; simp -implicitDefEqProofs only [State.gotOutcome_mem, apply_ite State.mem, apply_ite Prod.fst, ite_self, implies_true, foldl_mem, foldl_fst_mem]) | cases e

theorem execFeast_mem (m) (s : State) (t) (e : execFeast m s = .next t) : t.mem = s.mem := by
  simp -implicitDefEqProofs only [execFeast, whenUp] at e
  (repeat' split at e) <;> first | (injection e with e; subst e; simp -implicitDefEqProofs only [State.gotOutcome_mem, apply_ite State.mem, apply_ite Prod.fst, ite_self, implies_true, foldl_mem, foldl_fst_mem]) | cases e

theorem execFlagclr_mem (n) (s : State) (t) (e : execFlagclr n s = .next t) : t.mem = s.mem := by
  unfold execFlagclr at e
  exact issueCtl_mem (e := e)

theorem execFormRec_mem (child) (r) (s : State) (t) (e : execFormRec child r s = .next t) : t.mem = s.mem := by
  simp -implicitDefEqProofs only [execFormRec, whenUp] at e
  (repeat' split at e) <;> first | (injection e with e; subst e; simp -implicitDefEqProofs only [State.gotFormRec_mem, apply_ite State.mem, apply_ite Prod.fst, ite_self, implies_true, foldl_mem, foldl_fst_mem]) | cases e

theorem execFormTimeout_mem (s : State) (t) (e : execFormTimeout s = .next t) : t.mem = s.mem := by
  simp -implicitDefEqProofs only [execFormTimeout, whenUp] at e
  (repeat' split at e) <;> first | (injection e with e; subst e; simp -implicitDefEqProofs only [State.endExchOps_mem, State.setGroup_mem, apply_ite State.mem, apply_ite Prod.fst, ite_self, implies_true, foldl_mem, foldl_fst_mem]) | cases e

theorem execFormed_mem (m) (s : State) (t) (e : execFormed m s = .next t) : t.mem = s.mem := by
  simp -implicitDefEqProofs only [execFormed, whenUp] at e
  (repeat' split at e) <;> first | (injection e with e; subst e; simp -implicitDefEqProofs only [State.gotFormed_mem, apply_ite State.mem, apply_ite Prod.fst, ite_self, implies_true, foldl_mem, foldl_fst_mem]) | cases e

theorem execFrameDiscard_mem (port) (s : State) (t) (e : execFrameDiscard port s = .next t) : t.mem = s.mem := by
  simp -implicitDefEqProofs only [execFrameDiscard, onFrame] at e
  (repeat' split at e) <;> first | (injection e with e; subst e; simp -implicitDefEqProofs [State.fecIn_mem, State.frameDiscard_mem, apply_ite State.mem, apply_ite Prod.fst, ite_self, implies_true, foldl_mem, foldl_fst_mem]) | cases e

theorem execGrant_mem (producer) (dst) (queue) (share) (s t : State) (e : execGrant producer dst queue share s = .next t) : t.mem = s.mem := by
  unfold execGrant onCredit at e
  injection e with e; subst e
  simp -implicitDefEqProofs only [State.granted_mem, State.warmCredit_mem, apply_ite State.mem, ite_self]

theorem execHeartbeat_mem (s : State) (t) (e : execHeartbeat s = .next t) : t.mem = s.mem := by
  simp -implicitDefEqProofs only [execHeartbeat] at e
  (repeat' split at e) <;> first | (injection e with e; subst e; simp -implicitDefEqProofs only [State.beat_mem, apply_ite State.mem, apply_ite Prod.fst, ite_self, implies_true, foldl_mem, foldl_fst_mem]) | cases e

theorem execHoldTimeout_mem (src) (sunit) (msgid) (s : State) (t) (e : execHoldTimeout src sunit msgid s = .next t) : t.mem = s.mem := by
  simp -implicitDefEqProofs only [execHoldTimeout] at e
  (repeat' split at e) <;> first | (injection e with e; subst e; simp -implicitDefEqProofs only [State.holdOver_mem, apply_ite State.mem, apply_ite Prod.fst, ite_self, implies_true, foldl_mem, foldl_fst_mem]) | cases e

theorem execHostLinkDown_mem (port) (s : State) (t) (e : execHostLinkDown port s = .next t) : t.mem = s.mem := by
  simp -implicitDefEqProofs only [execHostLinkDown] at e
  (repeat' split at e) <;> first | (injection e with e; subst e; simp -implicitDefEqProofs only [State.linkOff_mem, apply_ite State.mem, apply_ite Prod.fst, ite_self, implies_true, foldl_mem, foldl_fst_mem]) | cases e

theorem execHostLinkUp_mem (port) (s : State) (t) (e : execHostLinkUp port s = .next t) : t.mem = s.mem := by
  simp -implicitDefEqProofs only [execHostLinkUp] at e
  (repeat' split at e) <;> first | (injection e with e; subst e; simp -implicitDefEqProofs only [State.setLink_mem, apply_ite State.mem, apply_ite Prod.fst, ite_self, implies_true, foldl_mem, foldl_fst_mem]) | cases e

theorem execIdcode_mem (die) (s : State) (t) (e : execIdcode die s = .next t) : t.mem = s.mem := by
  simp -implicitDefEqProofs only [execIdcode, onTap] at e
  (repeat' split at e) <;> first | (injection e with e; subst e; simp -implicitDefEqProofs only [State.tapLoad_mem, apply_ite State.mem, apply_ite Prod.fst, ite_self, implies_true, foldl_mem, foldl_fst_mem]) | cases e

theorem execJortoOpen_mem (m) (keySlot) (events) (s : State) (t) (e : execJortoOpen m keySlot events s = .next t) : t.mem = s.mem := by
  simp -implicitDefEqProofs only [execJortoOpen, onJorto] at e
  (repeat' split at e) <;> first | (injection e with e; subst e; simp -implicitDefEqProofs only [State.jortoOpen_mem, State.fecIn_mem, State.frameDiscard_mem, apply_ite State.mem, apply_ite Prod.fst, ite_self, implies_true, foldl_mem, foldl_fst_mem]) | cases e

theorem execJortoRto_mem (session) (s : State) (t) (e : execJortoRto session s = .next t) : t.mem = s.mem := by
  simp -implicitDefEqProofs only [execJortoRto] at e
  (repeat' split at e) <;> first | (injection e with e; subst e; simp -implicitDefEqProofs only [State.rto_mem, apply_ite State.mem, apply_ite Prod.fst, ite_self, implies_true, foldl_mem, foldl_fst_mem]) | cases e

theorem execLanternBeacon_mem (s : State) (t) (e : execLanternBeacon s = .next t) : t.mem = s.mem := by
  simp -implicitDefEqProofs only [execLanternBeacon, whenReady] at e
  (repeat' split at e) <;> first | (injection e with e; subst e; simp -implicitDefEqProofs only [State.beacon_mem, apply_ite State.mem, apply_ite Prod.fst, ite_self, implies_true, foldl_mem, foldl_fst_mem]) | cases e

theorem execLanternCall_mem (m) (s : State) (t) (e : execLanternCall m s = .next t) : t.mem = s.mem := by
  simp -implicitDefEqProofs only [execLanternCall, whenReady] at e
  (repeat' split at e) <;> first | (injection e with e; subst e; simp -implicitDefEqProofs only [State.lanternCall_mem, apply_ite State.mem, apply_ite Prod.fst, ite_self, implies_true, foldl_mem, foldl_fst_mem]) | cases e

theorem execLanternDown_mem (m) (s : State) (t) (e : execLanternDown m s = .next t) : t.mem = s.mem := by
  simp -implicitDefEqProofs only [execLanternDown, whenReady] at e
  (repeat' split at e) <;> first | (injection e with e; subst e; simp -implicitDefEqProofs only [State.lanternDown_mem, apply_ite State.mem, apply_ite Prod.fst, ite_self, implies_true, foldl_mem, foldl_fst_mem]) | cases e

theorem execLanternReply_mem (child) (m) (s : State) (t) (e : execLanternReply child m s = .next t) : t.mem = s.mem := by
  simp -implicitDefEqProofs only [execLanternReply, whenReady] at e
  (repeat' split at e) <;> first | (injection e with e; subst e; simp -implicitDefEqProofs only [State.lanternReply_mem, apply_ite State.mem, apply_ite Prod.fst, ite_self, implies_true, foldl_mem, foldl_fst_mem]) | cases e

theorem execLanternSet_mem (m) (s : State) (t) (e : execLanternSet m s = .next t) : t.mem = s.mem := by
  simp -implicitDefEqProofs only [execLanternSet, whenReady] at e
  (repeat' split at e) <;> first | (injection e with e; subst e; simp -implicitDefEqProofs only [State.lanternSet_mem, apply_ite State.mem, apply_ite Prod.fst, ite_self, implies_true, foldl_mem, foldl_fst_mem]) | cases e

theorem execLanternSettle_mem (s : State) (t) (e : execLanternSettle s = .next t) : t.mem = s.mem := by
  simp -implicitDefEqProofs only [execLanternSettle, whenReady] at e
  (repeat' split at e) <;> first | (injection e with e; subst e; simp -implicitDefEqProofs only [State.settled_mem, apply_ite State.mem, apply_ite Prod.fst, ite_self, implies_true, foldl_mem, foldl_fst_mem]) | cases e

theorem execLedgerCommit_mem (s : State) (t) (e : execLedgerCommit s = .next t) : t.mem = s.mem := by
  simp -implicitDefEqProofs only [execLedgerCommit] at e
  (repeat' split at e) <;> first | (injection e with e; subst e; simp -implicitDefEqProofs only [State.commitLedger_mem, apply_ite State.mem, apply_ite Prod.fst, ite_self, implies_true, foldl_mem, foldl_fst_mem]) | cases e

theorem execLevelChangeDone_mem (s : State) (t) (e : execLevelChangeDone s = .next t) : t.mem = s.mem := by
  simp -implicitDefEqProofs only [execLevelChangeDone, whenReady] at e
  (repeat' split at e) <;> first | (injection e with e; subst e; simp -implicitDefEqProofs only [State.setPower_mem, apply_ite State.mem, apply_ite Prod.fst, ite_self, implies_true, foldl_mem, foldl_fst_mem]) | cases e

theorem execLi_mem (n) (gd) (lane) (imm) (s : State) (t) (e : execLi n gd lane imm s = .next t) : t.mem = s.mem := by
  unfold execLi at e
  exact issueCtl_mem (e := e)

theorem execLinkFrame_mem (port) (f) (s : State) (t) (e : execLinkFrame port f s = .next t) : t.mem = s.mem := by
  simp -implicitDefEqProofs only [execLinkFrame, onPort] at e
  (repeat' split at e) <;> first | (injection e with e; subst e; simp -implicitDefEqProofs only [State.linkFrame_mem, apply_ite State.mem, apply_ite Prod.fst, ite_self, implies_true, foldl_mem, foldl_fst_mem]) | cases e

theorem execLinkRetry_mem (port) (s : State) (t) (e : execLinkRetry port s = .next t) : t.mem = s.mem := by
  simp -implicitDefEqProofs only [execLinkRetry, onPort] at e
  (repeat' split at e) <;> first | (injection e with e; subst e; simp -implicitDefEqProofs only [State.resend_mem, apply_ite State.mem, apply_ite Prod.fst, ite_self, implies_true, foldl_mem, foldl_fst_mem]) | cases e

theorem execManufacturingTest_mem (s : State) (t) (e : execManufacturingTest s = .next t) : t.mem = s.mem := by
  simp -implicitDefEqProofs only [execManufacturingTest] at e
  (repeat' split at e) <;> first | (injection e with e; subst e; simp -implicitDefEqProofs only [State.toVendor_mem, apply_ite State.mem, apply_ite Prod.fst, ite_self, implies_true, foldl_mem, foldl_fst_mem]) | cases e

theorem runCore_mem (n x k o body) (s t : State) (e : runCore n x k o body s = .next t) (hf : ∀ s w o, (body s w o).1.mem = s.mem) :
    t.mem = s.mem := by
  unfold runCore at e; split at e <;> injection e with e <;> subst e
  · exact State.runOp_mem _ _ _ _ _ _ hf
  · rfl

theorem mmulTiles_mem (s : State) (w) (m) (da) (db) : (mmulTiles s w m da db).1.mem = s.mem := by simp -implicitDefEqProofs only [mmulTiles, State.readCounts_mem, State.setAcc_mem, apply_ite State.mem, apply_ite Prod.fst, ite_self, implies_true, foldl_mem, foldl_fst_mem]

theorem zeroTiles_mem (s : State) (w) (first) (n) : (zeroTiles s w first n).mem = s.mem := by simp -implicitDefEqProofs only [zeroTiles, State.setAcc_mem, apply_ite State.mem, apply_ite Prod.fst, ite_self, implies_true, foldl_mem, foldl_fst_mem]

theorem mzeroBody_mem (s : State) (w) (o) : (mzeroBody s w o).1.mem = s.mem := by simp -implicitDefEqProofs only [mzeroBody, zeroTiles_mem, apply_ite State.mem, apply_ite Prod.fst, ite_self, implies_true, foldl_mem, foldl_fst_mem]

theorem execMzero_mem (n) (x) (s : State) (t) (e : execMzero n x s = .next t) : t.mem = s.mem := by grind [execMzero, mzeroBody_mem, runCore_mem]

theorem execNak_mem (port) (ack) (s : State) (t) (e : execNak port ack s = .next t) : t.mem = s.mem := by
  simp -implicitDefEqProofs only [execNak, onPort] at e
  (repeat' split at e) <;> first | (injection e with e; subst e; simp -implicitDefEqProofs only [State.modFport_mem, State.resend_mem, apply_ite State.mem, apply_ite Prod.fst, ite_self, implies_true, foldl_mem, foldl_fst_mem]) | cases e

theorem execNeighborSolicitation_mem (port) (target) (s : State) (t) (e : execNeighborSolicitation port target s = .next t) : t.mem = s.mem := by
  simp -implicitDefEqProofs only [execNeighborSolicitation, onFrame] at e
  (repeat' split at e) <;> first | (injection e with e; subst e; simp -implicitDefEqProofs only [State.emit_mem, State.fecIn_mem, State.frameDiscard_mem, apply_ite State.mem, apply_ite Prod.fst, ite_self, implies_true, foldl_mem, foldl_fst_mem]) | cases e

theorem execNotice_mem (core) (rid) (total) (s : State) (t) (e : execNotice core rid total s = .next t) : t.mem = s.mem := by
  simp -implicitDefEqProofs only [execNotice, onCore] at e
  (repeat' split at e) <;> first | (injection e with e; subst e; simp -implicitDefEqProofs only [State.gotNotice_mem, apply_ite State.mem, apply_ite Prod.fst, ite_self, implies_true, foldl_mem, foldl_fst_mem]) | cases e

theorem execOperationComplete_mem (n) (x) (k) (s : State) (t) (e : execOperationComplete n x k s = .next t) : t.mem = s.mem := by
  simp -implicitDefEqProofs only [execOperationComplete] at e
  (repeat' split at e) <;> first | (injection e with e; subst e; simp -implicitDefEqProofs only [State.complete_mem, apply_ite State.mem, apply_ite Prod.fst, ite_self, implies_true, foldl_mem, foldl_fst_mem]) | cases e

theorem execOperationDispatch_mem (n) (x) (k) (s : State) (t) (e : execOperationDispatch n x k s = .next t) : t.mem = s.mem := by
  simp -implicitDefEqProofs only [execOperationDispatch] at e
  (repeat' split at e) <;> first | (injection e with e; subst e; simp -implicitDefEqProofs only [State.dispatch_mem, apply_ite State.mem, apply_ite Prod.fst, ite_self, implies_true, foldl_mem, foldl_fst_mem]) | cases e

theorem execOrR_mem (n) (gd) (ga) (gb) (s : State) (t) (e : execOrR n gd ga gb s = .next t) : t.mem = s.mem := by
  unfold execOrR at e
  exact issueCtl_mem (e := e)

theorem execPacketRoute_mem (n) (s : State) (t) (e : execPacketRoute n s = .next t) : t.mem = s.mem := by
  simp -implicitDefEqProofs only [execPacketRoute] at e
  (repeat' split at e) <;> first | (injection e with e; subst e; simp -implicitDefEqProofs only [State.route_mem, apply_ite State.mem, apply_ite Prod.fst, ite_self, implies_true, foldl_mem, foldl_fst_mem]) | cases e

theorem execPatrolScrub_mem (stack) (s : State) (t) (e : execPatrolScrub stack s = .next t) : t.mem = s.mem := by
  simp -implicitDefEqProofs only [execPatrolScrub] at e
  (repeat' split at e) <;> first | (injection e with e; subst e; simp -implicitDefEqProofs only [State.scrubNext_mem, State.scrubOne_mem, apply_ite State.mem, apply_ite Prod.fst, ite_self, implies_true, foldl_mem, foldl_fst_mem]) | cases e

theorem execPlcaCollision_mem (s : State) (t) (e : execPlcaCollision s = .next t) : t.mem = s.mem := by
  simp -implicitDefEqProofs only [execPlcaCollision] at e
  (repeat' split at e) <;> first | (injection e with e; subst e; simp -implicitDefEqProofs only [State.bump_mem, apply_ite State.mem, apply_ite Prod.fst, ite_self, implies_true, foldl_mem, foldl_fst_mem]) | cases e

theorem execPowerSample_mem (milliwatts) (railMilliwatts) (s : State) (t) (e : execPowerSample milliwatts railMilliwatts s = .next t) : t.mem = s.mem := by
  simp -implicitDefEqProofs only [execPowerSample] at e
  (repeat' split at e) <;> first | (injection e with e; subst e; simp -implicitDefEqProofs only [State.powerSample_mem, apply_ite State.mem, apply_ite Prod.fst, ite_self, implies_true, foldl_mem, foldl_fst_mem]) | cases e

theorem execPrivateInstruction_mem (die) (code) (s : State) (t) (e : execPrivateInstruction die code s = .next t) : t.mem = s.mem := by
  simp -implicitDefEqProofs only [execPrivateInstruction, onTap] at e
  (repeat' split at e) <;> first | (injection e with e; subst e; simp -implicitDefEqProofs only [State.tapLoad_mem, apply_ite State.mem, apply_ite Prod.fst, ite_self, implies_true, foldl_mem, foldl_fst_mem]) | cases e

theorem execProfileSaveDone_mem (s : State) (t) (e : execProfileSaveDone s = .next t) : t.mem = s.mem := by
  simp -implicitDefEqProofs only [execProfileSaveDone] at e
  (repeat' split at e) <;> first | (injection e with e; subst e; simp -implicitDefEqProofs only [State.saveDone_mem, apply_ite State.mem, apply_ite Prod.fst, ite_self, implies_true, foldl_mem, foldl_fst_mem]) | cases e

theorem qpushBody_mem (s : State) (w) (o) : (qpushBody s w o).1.mem = s.mem := by
  simp -implicitDefEqProofs only [qpushBody]
  repeat' split
  all_goals simp -implicitDefEqProofs only [State.bump_mem, State.modSlot_mem, State.recordReads_mem, State.sendPart_mem, apply_ite State.mem, apply_ite Prod.fst, ite_self, implies_true, foldl_mem, foldl_fst_mem]

theorem execQpush_mem (n) (x) (s : State) (t) (e : execQpush n x s = .next t) : t.mem = s.mem := by grind [execQpush, qpushBody_mem, runCore_mem]

theorem execRdsr_mem (n) (gd) (sel) (s : State) (t) (e : execRdsr n gd sel s = .next t) : t.mem = s.mem := by
  unfold execRdsr at e
  exact issueCtl_mem (e := e)

theorem execRecordHandling_mem (die) (s : State) (t) (e : execRecordHandling die s = .next t) : t.mem = s.mem := by
  simp -implicitDefEqProofs only [execRecordHandling] at e
  (repeat' split at e) <;> first | (injection e with e; subst e; simp -implicitDefEqProofs only [State.handle_mem, apply_ite State.mem, apply_ite Prod.fst, ite_self, implies_true, foldl_mem, foldl_fst_mem]) | cases e

theorem execRefclkLoss_mem (s : State) (t) (e : execRefclkLoss s = .next t) : t.mem = s.mem := by
  simp -implicitDefEqProofs only [execRefclkLoss] at e
  (repeat' split at e) <;> first | (injection e with e; subst e; simp -implicitDefEqProofs only [State.loseRef_mem, apply_ite State.mem, apply_ite Prod.fst, ite_self, implies_true, foldl_mem, foldl_fst_mem]) | cases e

theorem execRegTrip_mem (die) (rail) (s : State) (t) (e : execRegTrip die rail s = .next t) : t.mem = s.mem := by
  simp -implicitDefEqProofs only [execRegTrip] at e
  (repeat' split at e) <;> first | (injection e with e; subst e; simp -implicitDefEqProofs only [State.capture_mem, State.setPower_mem, apply_ite State.mem, apply_ite Prod.fst, ite_self, implies_true, foldl_mem, foldl_fst_mem]) | cases e

theorem execRejected_mem (src) (m) (s : State) (t) (e : execRejected src m s = .next t) : t.mem = s.mem := by
  simp -implicitDefEqProofs only [execRejected, whenUp] at e
  (repeat' split at e) <;> first | (injection e with e; subst e; simp -implicitDefEqProofs only [State.gotRejected_mem, apply_ite State.mem, apply_ite Prod.fst, ite_self, implies_true, foldl_mem, foldl_fst_mem]) | cases e

theorem reshardBody_mem (s : State) (w) (o) : (reshardBody s w o).1.mem = s.mem := by
  simp -implicitDefEqProofs only [reshardBody]
  repeat' split
  all_goals simp -implicitDefEqProofs only [State.checkReshard_mem, State.sendMoves_mem, apply_ite State.mem, apply_ite Prod.fst, ite_self, implies_true, foldl_mem, foldl_fst_mem]

theorem execReshard_mem (n) (x) (s : State) (t) (e : execReshard n x s = .next t) : t.mem = s.mem := by grind [execReshard, reshardBody_mem, runCore_mem]

theorem execRetire_mem (edition) (s : State) (t) (e : execRetire edition s = .next t) : t.mem = s.mem := by
  simp -implicitDefEqProofs only [execRetire, whenOn] at e
  (repeat' split at e) <;> first | (injection e with e; subst e; simp -implicitDefEqProofs only [State.retired_mem, apply_ite State.mem, apply_ite Prod.fst, ite_self, implies_true, foldl_mem, foldl_fst_mem]) | cases e

theorem execRevoke_mem (producer) (dst) (queue) (s t : State) (e : execRevoke producer dst queue s = .next t) : t.mem = s.mem := by
  unfold execRevoke onCredit at e
  injection e with e; subst e
  simp -implicitDefEqProofs only [State.revoked_mem, State.warmCredit_mem, apply_ite State.mem, ite_self]

theorem execSamplePreload_mem (die) (cells) (s : State) (t) (e : execSamplePreload die cells s = .next t) : t.mem = s.mem := by
  simp -implicitDefEqProofs only [execSamplePreload, onTap] at e
  (repeat' split at e) <;> first | (injection e with e; subst e; simp -implicitDefEqProofs only [State.setTap_mem, State.tapLoad_mem, apply_ite State.mem, apply_ite Prod.fst, ite_self, implies_true, foldl_mem, foldl_fst_mem]) | cases e

theorem satomBody_mem (s : State) (w) (o) : (satomBody s w o).1.mem = s.mem := by simp -implicitDefEqProofs only [satomBody, State.sendFor_mem, apply_ite State.mem, apply_ite Prod.fst, ite_self, implies_true, foldl_mem, foldl_fst_mem]

theorem execSatom_mem (n) (x) (s : State) (t) (e : execSatom n x s = .next t) : t.mem = s.mem := by grind [execSatom, runCore_mem, satomBody_mem]

theorem execSchedulerDecision_mem (slot) (s : State) (t) (e : execSchedulerDecision slot s = .next t) : t.mem = s.mem := by
  simp -implicitDefEqProofs only [execSchedulerDecision, onSlot] at e
  (repeat' split at e) <;> first | (injection e with e; subst e; simp -implicitDefEqProofs only [State.decide_mem, apply_ite State.mem, apply_ite Prod.fst, ite_self, implies_true, foldl_mem, foldl_fst_mem]) | cases e

theorem execSelfFast_mem (s : State) (t) (e : execSelfFast s = .next t) : t.mem = s.mem := by
  simp -implicitDefEqProofs only [execSelfFast, whenUp] at e
  injection e with e; subst e
  repeat' split
  all_goals simp -implicitDefEqProofs [State.selfFast_mem, apply_ite State.mem, apply_ite Prod.fst, ite_self, implies_true, foldl_mem, foldl_fst_mem]

theorem execSessionIdle_mem (session) (s : State) (t) (e : execSessionIdle session s = .next t) : t.mem = s.mem := by
  simp -implicitDefEqProofs only [execSessionIdle] at e
  (repeat' split at e) <;> first | (injection e with e; subst e; simp -implicitDefEqProofs only [State.idleClose_mem, apply_ite State.mem, apply_ite Prod.fst, ite_self, implies_true, foldl_mem, foldl_fst_mem]) | cases e

theorem sgetBody_mem (s : State) (w) (o) : (sgetBody s w o).1.mem = s.mem := by simp -implicitDefEqProofs only [sgetBody, State.sendFor_mem, apply_ite State.mem, apply_ite Prod.fst, ite_self, implies_true, foldl_mem, foldl_fst_mem]

theorem execSget_mem (n) (x) (s : State) (t) (e : execSget n x s = .next t) : t.mem = s.mem := by grind [execSget, runCore_mem, sgetBody_mem]

theorem execShl_mem (n) (gd) (ga) (gb) (s : State) (t) (e : execShl n gd ga gb s = .next t) : t.mem = s.mem := by
  unfold execShl at e
  exact issueCtl_mem (e := e)

theorem execShr_mem (n) (gd) (ga) (gb) (s : State) (t) (e : execShr n gd ga gb s = .next t) : t.mem = s.mem := by
  unfold execShr at e
  exact issueCtl_mem (e := e)

theorem slineBody_mem (s : State) (w) (o) : (slineBody s w o).1.mem = s.mem := by simp -implicitDefEqProofs only [slineBody, State.recordReads_mem, State.sendSome_mem, State.startLine_mem, apply_ite State.mem, apply_ite Prod.fst, ite_self, implies_true, foldl_mem, foldl_fst_mem]

theorem execSline_mem (n) (x) (s : State) (t) (e : execSline n x s = .next t) : t.mem = s.mem := by grind [execSline, runCore_mem, slineBody_mem]

theorem gated_mem (body s w o) (hf : ∀ s w o, (body s w o).1.mem = s.mem) : (gated body s w o).1.mem = s.mem := by
  unfold gated; split <;> simp only [hf, State.staleExch_mem]

theorem snoteBody_mem (s : State) (w) (o) : (snoteBody s w o).1.mem = s.mem := by simp -implicitDefEqProofs only [snoteBody, State.modCtx_mem, State.report_mem, apply_ite State.mem, apply_ite Prod.fst, ite_self, implies_true, foldl_mem, foldl_fst_mem]

theorem execSnote_mem (n) (x) (s : State) (t) (e : execSnote n x s = .next t) : t.mem = s.mem := by grind [execSnote, gated_mem, runCore_mem, snoteBody_mem]

theorem execSpillCopy_mem (slot) (queue) (s : State) (t) (e : execSpillCopy slot queue s = .next t) : t.mem = s.mem := by
  simp -implicitDefEqProofs only [execSpillCopy, onSlot] at e
  (repeat' split at e) <;> first | (injection e with e; subst e; simp -implicitDefEqProofs only [State.spillCopy_mem, apply_ite State.mem, apply_ite Prod.fst, ite_self, implies_true, foldl_mem, foldl_fst_mem]) | cases e

theorem sputBody_mem (s : State) (w) (o) : (sputBody s w o).1.mem = s.mem := by simp -implicitDefEqProofs only [sputBody, State.recordReads_mem, State.sendFor_mem, State.sendSome_mem, apply_ite State.mem, apply_ite Prod.fst, ite_self, implies_true, foldl_mem, foldl_fst_mem]

theorem execSput_mem (n) (x) (s : State) (t) (e : execSput n x s = .next t) : t.mem = s.mem := by grind [execSput, runCore_mem, sputBody_mem]

theorem execSra_mem (n) (gd) (ga) (gb) (s : State) (t) (e : execSra n gd ga gb s = .next t) : t.mem = s.mem := by
  unfold execSra at e
  exact issueCtl_mem (e := e)

theorem execStackFail_mem (stack) (s : State) (t) (e : execStackFail stack s = .next t) : t.mem = s.mem := by
  simp -implicitDefEqProofs only [execStackFail] at e
  (repeat' split at e) <;> first | (injection e with e; subst e; simp -implicitDefEqProofs only [State.capture_mem, apply_ite State.mem, apply_ite Prod.fst, ite_self, implies_true, foldl_mem, foldl_fst_mem]) | cases e

theorem execStepWatchdog_mem (s : State) (t) (e : execStepWatchdog s = .next t) : t.mem = s.mem := by
  simp -implicitDefEqProofs only [execStepWatchdog, whenUp] at e
  (repeat' split at e) <;> first | (injection e with e; subst e; simp -implicitDefEqProofs only [State.bump_mem, State.decideOutcome_mem, apply_ite State.mem, apply_ite Prod.fst, ite_self, implies_true, foldl_mem, foldl_fst_mem]) | cases e

theorem execSubR_mem (n) (gd) (ga) (gb) (s : State) (t) (e : execSubR n gd ga gb s = .next t) : t.mem = s.mem := by
  unfold execSubR at e
  exact issueCtl_mem (e := e)

theorem swaitBody_mem (s : State) (w) (o) : (swaitBody s w o).1.mem = s.mem := by simp -implicitDefEqProofs only [swaitBody, apply_ite State.mem, apply_ite Prod.fst, ite_self, implies_true, foldl_mem, foldl_fst_mem]

theorem execSwait_mem (n) (x) (s : State) (t) (e : execSwait n x s = .next t) : t.mem = s.mem := by grind [execSwait, runCore_mem, swaitBody_mem]

theorem execSwitchAbandoned_mem (n) (s : State) (t) (e : execSwitchAbandoned n s = .next t) : t.mem = s.mem := by
  simp -implicitDefEqProofs only [execSwitchAbandoned] at e
  (repeat' split at e) <;> first | (injection e with e; subst e; simp -implicitDefEqProofs only [State.bump_mem, State.modCtx_mem, State.setCoreSt_mem, apply_ite State.mem, apply_ite Prod.fst, ite_self, implies_true, foldl_mem, foldl_fst_mem]) | cases e

theorem execThermalLoop_mem (junction) (stack) (s : State) (t) (e : execThermalLoop junction stack s = .next t) : t.mem = s.mem := by
  simp -implicitDefEqProofs only [execThermalLoop] at e
  (repeat' split at e) <;> first | (injection e with e; subst e; simp -implicitDefEqProofs only [State.setPower_mem, State.thermalLoop_mem, apply_ite State.mem, apply_ite Prod.fst, ite_self, implies_true, foldl_mem, foldl_fst_mem]) | cases e

theorem execThermalTrip_mem (die) (tj) (ts) (s : State) (t) (e : execThermalTrip die tj ts s = .next t) : t.mem = s.mem := by
  simp -implicitDefEqProofs only [execThermalTrip] at e
  (repeat' split at e) <;> first | (injection e with e; subst e; simp -implicitDefEqProofs only [State.capture_mem, State.modLedger_mem, State.setPower_mem, apply_ite State.mem, apply_ite Prod.fst, ite_self, implies_true, foldl_mem, foldl_fst_mem]) | cases e

theorem execTime_mem (n) (gd) (s : State) (t) (e : execTime n gd s = .next t) : t.mem = s.mem := by
  unfold execTime at e
  exact issueCtl_mem (e := e)

theorem execTrain_mem (port) (peerNode) (peerDir) (peerIndex) (s : State) (t) (e : execTrain port peerNode peerDir peerIndex s = .next t) : t.mem = s.mem := by
  simp -implicitDefEqProofs only [execTrain, onPort] at e
  (repeat' split at e) <;> first | (injection e with e; subst e; simp -implicitDefEqProofs only [State.setFport_mem, apply_ite State.mem, apply_ite Prod.fst, ite_self, implies_true, foldl_mem, foldl_fst_mem]) | cases e

theorem execTrainingAttemptTimeout_mem (port) (s : State) (t) (e : execTrainingAttemptTimeout port s = .next t) : t.mem = s.mem := by
  simp -implicitDefEqProofs only [execTrainingAttemptTimeout, onPort] at e
  (repeat' split at e) <;> first | (injection e with e; subst e; simp -implicitDefEqProofs only [State.portDown_mem, State.setFport_mem, apply_ite State.mem, apply_ite Prod.fst, ite_self, implies_true, foldl_mem, foldl_fst_mem]) | cases e

theorem execTrstnRelease_mem (sel) (s : State) (t) (e : execTrstnRelease sel s = .next t) : t.mem = s.mem := by
  simp -implicitDefEqProofs only [execTrstnRelease] at e
  (repeat' split at e) <;> first | (injection e with e; subst e; simp -implicitDefEqProofs only [State.setBoot_mem, apply_ite State.mem, apply_ite Prod.fst, ite_self, implies_true, foldl_mem, foldl_fst_mem]) | cases e

theorem vldrBody_mem (s : State) (w) (o) : (vldrBody s w o).1.mem = s.mem := by simp -implicitDefEqProofs only [vldrBody, State.setRescale_mem, apply_ite State.mem, apply_ite Prod.fst, ite_self, implies_true, foldl_mem, foldl_fst_mem]

theorem execVldr_mem (n) (x) (s : State) (t) (e : execVldr n x s = .next t) : t.mem = s.mem := by grind [execVldr, runCore_mem, vldrBody_mem]

theorem vldsBody_mem (s : State) (w) (o) : (vldsBody s w o).1.mem = s.mem := by simp -implicitDefEqProofs only [vldsBody, State.setSrf_mem, apply_ite State.mem, apply_ite Prod.fst, ite_self, implies_true, foldl_mem, foldl_fst_mem]

theorem execVlds_mem (n) (x) (s : State) (t) (e : execVlds n x s = .next t) : t.mem = s.mem := by grind [execVlds, runCore_mem, vldsBody_mem]

theorem execWaitc_mem (n) (kind) (ga) (s : State) (t) (e : execWaitc n kind ga s = .next t) : t.mem = s.mem := by
  unfold execWaitc at e
  exact issueCtl_mem (e := e)

theorem execWarmResetDone_mem (s : State) (t) (e : execWarmResetDone s = .next t) : t.mem = s.mem := by
  simp -implicitDefEqProofs only [execWarmResetDone] at e
  (repeat' split at e) <;> first | (injection e with e; subst e; simp -implicitDefEqProofs only [State.setBoot_mem, apply_ite State.mem, apply_ite Prod.fst, ite_self, implies_true, foldl_mem, foldl_fst_mem]) | cases e

theorem execWatchEvaluation_mem (s : State) (t) (e : execWatchEvaluation s = .next t) : t.mem = s.mem := by
  simp -implicitDefEqProofs only [execWatchEvaluation] at e
  (repeat' split at e) <;> first | (injection e with e; subst e; simp -implicitDefEqProofs only [State.evaluate_mem, apply_ite State.mem, apply_ite Prod.fst, ite_self, implies_true, foldl_mem, foldl_fst_mem]) | cases e

theorem execXorR_mem (n) (gd) (ga) (gb) (s : State) (t) (e : execXorR n gd ga gb s = .next t) : t.mem = s.mem := by
  unfold execXorR at e
  exact issueCtl_mem (e := e)

theorem tick_mem (s : State) : (tick s).mem = s.mem := by simp -implicitDefEqProofs only [tick, State.countUp_mem, State.setFport_mem, apply_ite State.mem, apply_ite Prod.fst, ite_self, implies_true, foldl_mem, foldl_fst_mem]

end Sys2Proof.Machine
end

