-- ==== Sys2Proof/Laws/MemForm.lean ====
section
/-! SUPPORT. Every operation and command that writes memory keeps its canonical form: one lemma for each. -/

namespace Sys2Proof.Machine

set_option linter.all false

theorem State.andThen_memWf (s : State) (f) (hf : ∀ s, Memory.wf (s).mem = true → Memory.wf ((f s)).mem = true) (hw : Memory.wf (s).mem = true) : Memory.wf ((s.andThen f)).mem = true := by
  unfold State.andThen; split <;> simp only [hf, hw]

theorem State.hbmWriteUnit_memWf (s : State) (k a bs u) (hw : Memory.wf s.mem = true) :
    Memory.wf (s.hbmWriteUnit k a bs u).1.mem = true := by
  unfold State.hbmWriteUnit
  dsimp only
  split
  · exact Table.wf_writeList _ _ _ _ (by rw [State.setCond_mem, State.bump_mem]; exact hw)
  · split
    · rw [State.demandUnit_mem, State.bump_mem]; exact hw
    · exact Table.wf_writeList _ _ _ _ (by rw [State.demandUnit_mem, State.bump_mem]; exact hw)

theorem State.hbmWrite_memWf (s : State) (k) (a) (bs) (hw : Memory.wf (s).mem = true) : Memory.wf ((State.hbmWrite s k a bs).1).mem = true := by
  unfold State.hbmWrite
  repeat' split
  all_goals simp_all [State.bump_mem, State.hbmWriteUnit_memWf, State.keyRefused_mem, apply_ite Prod.fst, apply_ite State.mem, apply_ite Memory.wf, ite_self, implies_true, foldl_mem, foldl_fst_mem, foldl_memWf, foldl_fst_memWf]

theorem State.rawWrite_memWf (s : State) (a bs) (hw : Memory.wf s.mem = true) : Memory.wf (s.rawWrite a bs).mem = true :=
  Table.wf_writeList _ _ _ _ hw

theorem State.outsideWrite_memWf (s : State) (w k a bs) (hw : Memory.wf s.mem = true) :
    Memory.wf (s.outsideWrite w k a bs).1.mem = true := by
  unfold State.outsideWrite
  split
  · next e => exact fst_memWf e (by rw [State.admitted_mem]; exact hw)
  · next e =>
    have h := fst_memWf e (by rw [State.admitted_mem]; exact hw)
    split
    · split
      · next e2 => exact fst_memWf e2 (State.hbmWrite_memWf (hw := h) ..)
      · next e2 => exact fst_memWf e2 (State.hbmWrite_memWf (hw := h) ..)
    · exact State.rawWrite_memWf (hw := h) ..

theorem State.wordDoorbell_memWf (s : State) (key) (a) (addend) (hw : Memory.wf (s).mem = true) : Memory.wf ((State.wordDoorbell s key a addend).1).mem = true := by simp -implicitDefEqProofs only [State.wordDoorbell, State.outsideRead_mem, State.outsideWrite_memWf, apply_ite Prod.fst, apply_ite State.mem, apply_ite Memory.wf, ite_self, implies_true, foldl_mem, foldl_fst_mem, foldl_memWf, foldl_fst_memWf, hw]

theorem State.jDoorbell_memWf (s : State) (ss) (m) (hw : Memory.wf (s).mem = true) : Memory.wf ((State.jDoorbell s ss m)).mem = true := by simp -implicitDefEqProofs only [State.jDoorbell, State.jError_mem, State.jStatus_mem, State.stepDoorbell_mem, State.wordDoorbell_memWf, apply_ite Prod.fst, apply_ite State.mem, apply_ite Memory.wf, ite_self, implies_true, foldl_mem, foldl_fst_mem, foldl_memWf, foldl_fst_memWf, hw]

theorem State.clearStorage_memWf (s : State) (n x) (hw : Memory.wf s.mem = true) : Memory.wf (s.clearStorage n x).mem = true := by
  cases x <;> exact Table.wf_drop _ _ _ _ hw

theorem State.clearCtx_memWf (s : State) (n) (x) (hw : Memory.wf (s).mem = true) : Memory.wf ((State.clearCtx s n x)).mem = true := by simp -implicitDefEqProofs only [State.clearCtx, State.clearStorage_memWf, State.dropMessages_mem, State.setCtx_mem, apply_ite Prod.fst, apply_ite State.mem, apply_ite Memory.wf, ite_self, implies_true, foldl_mem, foldl_fst_mem, foldl_memWf, foldl_fst_memWf, hw]

theorem State.restoreStorage_memWf (s : State) (n) (x) (bs) (hw : Memory.wf (s).mem = true) : Memory.wf ((State.restoreStorage s n x bs)).mem = true := by simp -implicitDefEqProofs only [State.restoreStorage, State.rawWrite_memWf, State.setAcc_mem, State.setRescale_mem, State.setSrf_mem, apply_ite Prod.fst, apply_ite State.mem, apply_ite Memory.wf, ite_self, implies_true, foldl_mem, foldl_fst_mem, foldl_memWf, foldl_fst_memWf, hw]

theorem State.installRecord_memWf (s : State) (n) (x) (kslot) (old) (fresh) (h) (bs) (hw : Memory.wf (s).mem = true) : Memory.wf ((State.installRecord s n x kslot old fresh h bs)).mem = true := by simp -implicitDefEqProofs only [State.installRecord, State.clearWatch_mem, State.dropSpill_mem, State.remarkReshards_mem, State.restoreStorage_memWf, State.setCtx_mem, State.setKeySlot_mem, apply_ite Prod.fst, apply_ite State.mem, apply_ite Memory.wf, ite_self, implies_true, foldl_mem, foldl_fst_mem, foldl_memWf, foldl_fst_memWf, hw]

theorem memWf_pair {γ : Type} (a : State) (b : γ) (h : Memory.wf a.mem = true) : Memory.wf (a, b).1.mem = true := h

theorem State.loadRecord_memWf (s : State) (n x k) (hw : Memory.wf s.mem = true) : Memory.wf (s.loadRecord n x k).1.mem = true := by
  unfold State.loadRecord
  extract_lets old a
  split
  · exact memWf_pair _ _ hw
  · split
    · next e => exact memWf_pair _ _ (by rw [State.hbmRead_eq e]; exact hw)
    · next e =>
      extract_lets h len
      split
      · exact memWf_pair _ _ (by rw [State.hbmRead_eq e]; exact hw)
      · split
        · next e2 => exact memWf_pair _ _ (by rw [State.hbmRead_eq e2, State.hbmRead_eq e]; exact hw)
        · next e2 => exact memWf_pair _ _ (State.installRecord_memWf (hw := by rw [State.hbmRead_eq e2, State.hbmRead_eq e]; exact hw) ..)

theorem State.spoil_memWf (s : State) (k) (a) (len) (hw : Memory.wf (s).mem = true) : Memory.wf ((State.spoil s k a len)).mem = true := by
  unfold State.spoil
  repeat' split
  all_goals simp_all [State.hbmWriteUnit_memWf, apply_ite Prod.fst, apply_ite State.mem, apply_ite Memory.wf, ite_self, implies_true, foldl_mem, foldl_fst_mem, foldl_memWf, foldl_fst_memWf]

theorem State.saveRecord_memWf (s : State) (n x full) (hw : Memory.wf s.mem = true) : Memory.wf (s.saveRecord n x full).1.mem = true := by
  unfold State.saveRecord
  extract_lets c a len
  split
  · exact hw
  · split
    · next e => exact fst_memWf e (State.hbmWrite_memWf (hw := hw) ..)
    · next e => exact State.spoil_memWf (hw := fst_memWf e (State.hbmWrite_memWf (hw := hw) ..)) ..

theorem State.ctxAct_memWf (s : State) (n) (x) (k) (kslot) (hw : Memory.wf (s).mem = true) : Memory.wf ((State.ctxAct s n x k kslot)).mem = true := by
  simp -implicitDefEqProofs only [State.ctxAct]
  repeat' split
  all_goals simp -implicitDefEqProofs only [State.clearCtx_memWf, State.leaveBrim_mem, State.cmdIgnored_mem, State.cmdResult_mem, State.loadRecord_memWf, State.modCtx_mem, State.saveRecord_memWf, State.setCtx_mem, apply_ite Prod.fst, apply_ite State.mem, apply_ite Memory.wf, ite_self, implies_true, foldl_mem, foldl_fst_mem, foldl_memWf, foldl_fst_memWf, hw]

theorem State.ctxCommand_memWf (s : State) (n) (x) (k) (kslot) (hw : Memory.wf (s).mem = true) : Memory.wf ((State.ctxCommand s n x k kslot)).mem = true := by simp -implicitDefEqProofs only [State.ctxCommand, State.cmdIgnored_mem, State.ctxAct_memWf, State.setCtx_mem, apply_ite Prod.fst, apply_ite State.mem, apply_ite Memory.wf, ite_self, implies_true, foldl_mem, foldl_fst_mem, foldl_memWf, foldl_fst_memWf, hw]

theorem State.writeCtxWord_memWf (s : State) (n) (w) (v) (hw : Memory.wf (s).mem = true) : Memory.wf ((State.writeCtxWord s n w v)).mem = true := by
  simp -implicitDefEqProofs only [State.writeCtxWord]
  repeat' split
  all_goals simp -implicitDefEqProofs only [State.ctxCommand_memWf, State.cmdIgnored_mem, State.modCtx_mem, apply_ite Prod.fst, apply_ite State.mem, apply_ite Memory.wf, ite_self, implies_true, foldl_mem, foldl_fst_mem, foldl_memWf, foldl_fst_memWf, hw]

theorem State.declare_memWf (s : State) (k) (es) (hw : Memory.wf (s).mem = true) : Memory.wf ((State.declare s k es).1).mem = true := by grind [State.declare, State.hbmWrite_memWf, State.modSlot_mem, State.slotRead_mem]

theorem State.slotOn_memWf (s : State) (k) (hw : Memory.wf (s).mem = true) : Memory.wf ((State.slotOn s k).1).mem = true := by grind [State.slotOn, State.declare_memWf, State.initVersions_mem, State.layerTable_mem, State.modBlock_mem, State.modSlot_mem, State.sendGrants_mem, State.slotBad_mem, State.stageVersion_mem]

theorem State.writeEn_memWf (s : State) (b) (en) (a1) (hw : Memory.wf (s).mem = true) : Memory.wf ((State.writeEn s b en a1).1).mem = true := by
  simp -implicitDefEqProofs only [State.writeEn]
  repeat' split
  all_goals simp -implicitDefEqProofs only [State.disableCore_mem, State.enableCore_mem, State.fportOff_mem, State.fportOn_mem, State.modBlock_mem, State.rejectCfg_mem, State.slotDisable_mem, State.slotOn_memWf, State.writePortEn_mem, apply_ite Prod.fst, apply_ite State.mem, apply_ite Memory.wf, ite_self, implies_true, foldl_mem, foldl_fst_mem, foldl_memWf, foldl_fst_memWf, hw]

theorem State.writeClass_memWf (s : State) (b) (w) (v) (k) (hw : Memory.wf (s).mem = true) : Memory.wf ((State.writeClass s b w v k).1).mem = true := by
  simp -implicitDefEqProofs only [State.writeClass]
  repeat' split
  all_goals simp -implicitDefEqProofs only [State.modBlock_mem, State.writeCfg_mem, State.writeCtxWord_memWf, State.writeEn_memWf, apply_ite Prod.fst, apply_ite State.mem, apply_ite Memory.wf, ite_self, implies_true, foldl_mem, foldl_fst_mem, foldl_memWf, foldl_fst_memWf, hw]

theorem State.writeWord_memWf (s : State) (b) (w) (v) (hw : Memory.wf (s).mem = true) : Memory.wf ((State.writeWord s b w v).1).mem = true := by
  simp -implicitDefEqProofs only [State.writeWord]
  repeat' split
  all_goals simp -implicitDefEqProofs only [State.blkGuard_mem, State.blkTouch_mem, State.modBlock_mem, State.pkgTouch_mem, State.writeClass_memWf, apply_ite Prod.fst, apply_ite State.mem, apply_ite Memory.wf, ite_self, implies_true, foldl_mem, foldl_fst_mem, foldl_memWf, foldl_fst_memWf, hw]

theorem State.writeWords_memWf (s : State) (a bs n) (hw : Memory.wf s.mem = true) : Memory.wf (s.writeWords a bs n).1.mem = true := by
  induction n generalizing s a bs with
  | zero => exact hw
  | succ n ih =>
    unfold State.writeWords
    simp only
    repeat' split
    all_goals first | exact hw | exact ih _ _ _ (State.writeWord_memWf (hw := hw) ..) | exact State.writeWord_memWf (hw := hw) ..

theorem State.jWrite_memWf (s : State) (ss) (m) (hw : Memory.wf (s).mem = true) : Memory.wf ((State.jWrite s ss m)).mem = true := by simp -implicitDefEqProofs only [State.jWrite, State.jError_mem, State.jStatus_mem, State.outsideWrite_memWf, State.writeWords_memWf, apply_ite Prod.fst, apply_ite State.mem, apply_ite Memory.wf, ite_self, implies_true, foldl_mem, foldl_fst_mem, foldl_memWf, foldl_fst_memWf, hw]

theorem State.applyMsg_memWf (s : State) (ss) (e) (hw : Memory.wf (s).mem = true) : Memory.wf ((State.applyMsg s ss e)).mem = true := by
  simp -implicitDefEqProofs only [State.applyMsg]
  repeat' split
  all_goals simp -implicitDefEqProofs only [State.closeSession_mem, State.jAck_mem, State.jDoorbell_memWf, State.jRead_mem, State.jWrite_memWf, State.setSession_mem, apply_ite Prod.fst, apply_ite State.mem, apply_ite Memory.wf, ite_self, implies_true, foldl_mem, foldl_fst_mem, foldl_memWf, foldl_fst_memWf, hw]

theorem State.atomicAdd_memWf (s : State) (p) (addend) (hw : Memory.wf (s).mem = true) : Memory.wf ((State.atomicAdd s p addend).1).mem = true := by simp -implicitDefEqProofs only [State.atomicAdd, State.outsideRead_mem, State.outsideWrite_memWf, apply_ite Prod.fst, apply_ite State.mem, apply_ite Memory.wf, ite_self, implies_true, foldl_mem, foldl_fst_mem, foldl_memWf, foldl_fst_memWf, hw]

theorem State.dropContexts_memWf (s : State) (ks) (hw : Memory.wf (s).mem = true) : Memory.wf ((State.dropContexts s ks)).mem = true := by
  unfold State.dropContexts
  repeat' split
  all_goals simp_all [State.clearStorage_memWf, State.dropMessages_mem, State.leaveBrim_mem, State.setCtx_mem, apply_ite Prod.fst, apply_ite State.mem, apply_ite Memory.wf, ite_self, implies_true, foldl_mem, foldl_fst_mem, foldl_memWf, foldl_fst_memWf]

theorem State.startErase_memWf (s : State) (j) (hw : Memory.wf (s).mem = true) : Memory.wf ((State.startErase s j)).mem = true := by
  unfold State.startErase
  repeat' split
  all_goals simp_all [State.closeSessions_mem, State.dropContexts_memWf, State.dropQueues_mem, State.setKeySlot_mem, State.setSec_mem, apply_ite Prod.fst, apply_ite State.mem, apply_ite Memory.wf, ite_self, implies_true, foldl_mem, foldl_fst_mem, foldl_memWf, foldl_fst_memWf]

theorem State.queueErase_memWf (s : State) (j) (hw : Memory.wf (s).mem = true) : Memory.wf ((State.queueErase s j)).mem = true := by simp -implicitDefEqProofs only [State.queueErase, State.setSec_mem, State.startErase_memWf, apply_ite Prod.fst, apply_ite State.mem, apply_ite Memory.wf, ite_self, implies_true, foldl_mem, foldl_fst_mem, foldl_memWf, foldl_fst_memWf, hw]

theorem State.debugToken_memWf (s : State) (r) (b) (ans) (hw : Memory.wf (s).mem = true) : Memory.wf ((State.debugToken s r b ans)).mem = true := by
  simp -implicitDefEqProofs only [State.debugToken]
  repeat' split
  all_goals simp -implicitDefEqProofs only [State.finish_mem, State.queueErase_memWf, State.secRecord_mem, State.setSec_mem, apply_ite Prod.fst, apply_ite State.mem, apply_ite Memory.wf, ite_self, implies_true, foldl_mem, foldl_fst_mem, foldl_memWf, foldl_fst_memWf, hw]

theorem State.eraseCmd_memWf (s : State) (r) (v) (ans) (hw : Memory.wf (s).mem = true) : Memory.wf ((State.eraseCmd s r v ans).1).mem = true := by
  simp -implicitDefEqProofs only [State.eraseCmd]
  repeat' split
  all_goals simp -implicitDefEqProofs only [State.queueErase_memWf, apply_ite Prod.fst, apply_ite State.mem, apply_ite Memory.wf, ite_self, implies_true, foldl_mem, foldl_fst_mem, foldl_memWf, foldl_fst_memWf, hw]

theorem State.lcRecord_memWf (s : State) (r) (b) (ans) (hw : Memory.wf (s).mem = true) : Memory.wf ((State.lcRecord s r b ans)).mem = true := by
  simp -implicitDefEqProofs only [State.lcRecord]
  repeat' split
  all_goals simp -implicitDefEqProofs only [State.judgeRec_mem, State.queueErase_memWf, State.setSec_mem, apply_ite Prod.fst, apply_ite State.mem, apply_ite Memory.wf, ite_self, implies_true, foldl_mem, foldl_fst_mem, foldl_memWf, foldl_fst_memWf, hw]

theorem State.warmReset_memWf (s : State) (hw : Memory.wf s.mem = true) : Memory.wf s.warmReset.mem = true := by
  simp -implicitDefEqProofs only [State.warmReset, State.retarget_mem, State.setBoot_mem, State.setSec_mem, State.setProfiles_mem, State.clearWatch_mem,
    State.resetBlocks_mem, State.setObj_mem, State.loadProfile_mem, State.closeSessions_mem, foldl_mem, implies_true, State.slotOff_mem, State.bump_mem]
  refine Table.wf_filter _ _ _ ?_
  exact hw

theorem State.resetCmd_memWf (s : State) (r) (v) (hw : Memory.wf (s).mem = true) : Memory.wf ((State.resetCmd s r v).1).mem = true := by simp -implicitDefEqProofs only [State.resetCmd, State.warmReset_memWf, apply_ite Prod.fst, apply_ite State.mem, apply_ite Memory.wf, ite_self, implies_true, foldl_mem, foldl_fst_mem, foldl_memWf, foldl_fst_memWf, hw]

theorem State.putObj_memWf (s : State) (r) (row) (i) (sub) (bs) (ans) (hw : Memory.wf (s).mem = true) : Memory.wf ((State.putObj s r row i sub bs ans).1).mem = true := by simp -implicitDefEqProofs only [State.putObj, accepted, State.almanacCmd_mem, State.attNonce_mem, State.authClose_mem, State.authOpen_mem, State.clearLost_mem, State.debugToken_memWf, State.eraseCmd_memWf, State.errAck_mem, State.fwChunk_mem, State.fwCmd_mem, State.fwMinSvn_mem, State.groupCmd_mem, State.keyLoad_mem, State.lcRecord_memWf, State.levels_mem, State.profileCmd_mem, State.profileOverride_mem, State.resetCmd_memWf, State.setAlmanac_mem, State.setProfiles_mem, State.slot0Secret_mem, State.slotDisable_mem, State.slotOn_memWf, State.store_mem, State.writeCap_mem, State.writePortEn_mem, State.writeWatch_mem, apply_ite Prod.fst, apply_ite State.mem, apply_ite Memory.wf, ite_self, implies_true, foldl_mem, foldl_fst_mem, foldl_memWf, foldl_fst_memWf, hw]

theorem State.configWrite_memWf (s : State) (i b) (f) (hf : ∀ s, Memory.wf (s).mem = true → Memory.wf ((f s).1).mem = true) (hw : Memory.wf (s).mem = true) : Memory.wf ((s.configWrite i b f).1).mem = true := by
  unfold State.configWrite; repeat' split
  all_goals simp only [hf, hw, State.rejectCfg_mem, State.acceptCfg_mem]

theorem State.writeByClass_memWf (s : State) (r) (row) (i) (sub) (bs) (ans) (hw : Memory.wf (s).mem = true) : Memory.wf ((State.writeByClass s r row i sub bs ans).1).mem = true := by
  unfold State.writeByClass
  repeat' split
  all_goals simp_all [State.configWrite_memWf, State.putObj_memWf, apply_ite Prod.fst, apply_ite State.mem, apply_ite Memory.wf, ite_self, implies_true, foldl_mem, foldl_fst_mem, foldl_memWf, foldl_fst_memWf]

theorem State.writeObj_memWf (s : State) (r i sub bs ans) (hw : Memory.wf s.mem = true) :
    Memory.wf (s.writeObj r i sub bs ans).1.mem = true := by
  have hg : Memory.wf s.pkgGuard.1.mem = true := by rw [State.pkgGuard_mem]; exact hw
  have ht : Memory.wf s.pkgTouch.mem = true := hw
  have ho : Memory.wf (s.objTouch i sub).mem = true := by rw [State.objTouch_mem]; exact hw
  unfold State.writeObj
  repeat' split
  all_goals first
    | with_reducible exact hw
    | with_reducible exact memWf_pair _ _ hw
    | with_reducible exact memWf_pair _ _ ht
    | with_reducible exact memWf_pair _ _ (State.writeWord_memWf (hw := hw) ..)
    | with_reducible exact State.putObj_memWf (hw := hw) ..
    | with_reducible exact State.writeByClass_memWf (hw := ho) ..
    | (extract_lets g
       split
       · exact State.writeByClass_memWf (hw := hg) ..
       · exact memWf_pair _ _ hg)

theorem State.writeAnswered_memWf (s : State) (r) (a) (index) (sub) (bs) (hw : Memory.wf (s).mem = true) : Memory.wf ((State.writeAnswered s r a index sub bs)).mem = true := by
  simp -implicitDefEqProofs only [State.writeAnswered]
  repeat' split
  all_goals simp -implicitDefEqProofs only [State.reply_mem, State.writeObj_memWf, apply_ite Prod.fst, apply_ite State.mem, apply_ite Memory.wf, ite_self, implies_true, foldl_mem, foldl_fst_mem, foldl_memWf, foldl_fst_memWf, hw]

theorem State.blockWriteEnd_memWf (s : State) (r) (tid) (h) (crc) (hw : Memory.wf (s).mem = true) : Memory.wf ((State.blockWriteEnd s r tid h crc)).mem = true := by
  simp -implicitDefEqProofs only [State.blockWriteEnd]
  repeat' split
  all_goals simp -implicitDefEqProofs only [State.dropXfer_mem, State.reply_mem, State.writeAnswered_memWf, apply_ite Prod.fst, apply_ite State.mem, apply_ite Memory.wf, ite_self, implies_true, foldl_mem, foldl_fst_mem, foldl_memWf, foldl_fst_memWf, hw]

theorem State.writeExps_memWf (s : State) (g) (exps) (hw : Memory.wf (s).mem = true) : Memory.wf ((State.writeExps s g exps).1).mem = true := by
  unfold State.writeExps
  repeat' split
  all_goals simp_all [State.hbmWrite_memWf, State.setGroup_mem, apply_ite Prod.fst, apply_ite State.mem, apply_ite Memory.wf, ite_self, implies_true, foldl_mem, foldl_fst_mem, foldl_memWf, foldl_fst_memWf]

theorem State.rootSum_memWf (s : State) (g) (p) (hw : Memory.wf (s).mem = true) : Memory.wf ((State.rootSum s g p)).mem = true := by grind [State.rootSum, State.bump_mem, State.exponents_mem, State.setGroup_mem, State.writeExps_memWf]

theorem State.climb_memWf (s : State) (k n p) (hw : Memory.wf s.mem = true) : Memory.wf (s.climb k n p).mem = true := by
  induction n generalizing s p with
  | zero => exact hw
  | succ n ih =>
    unfold State.climb
    extract_lets width dst sib t
    split
    · exact hw
    · extract_lets g
      split
      · exact State.rootSum_memWf (hw := hw) ..
      · split
        · rw [State.post_mem]; exact hw
        · split
          · exact ih _ _ hw
          · split
            · exact hw
            · split
              · rw [State.capture_mem]; exact hw
              · split
                · next e => exact fst_memWf e (by rw [State.exponents_mem]; exact hw)
                · next e => exact ih _ _ (fst_memWf e (by rw [State.exponents_mem]; exact hw))

theorem State.deliverExps_memWf (s : State) (ks) (d) (hw : Memory.wf (s).mem = true) : Memory.wf ((State.deliverExps s ks d).1).mem = true := by
  simp only [State.deliverExps]
  repeat' (first | split | refine foldl_memWf _ (fun _ _ hs => ?_) _ _ ?_ | refine foldl_fst_memWf _ (fun _ _ hs => ?_) _ _ ?_)
  all_goals try (rename_i heq; simp only [Prod.ext_iff] at heq; obtain ⟨rfl, rfl⟩ := heq)
  all_goals simp_all -implicitDefEqProofs [State.writeExps_memWf, apply_ite Prod.fst, apply_ite State.mem, apply_ite Memory.wf, ite_self, implies_true, foldl_mem, foldl_fst_mem, foldl_memWf, foldl_fst_memWf]

theorem State.writeRuns_memWf (s : State) (key) (g) (off) (bs) (hw : Memory.wf (s).mem = true) : Memory.wf ((State.writeRuns s key g off bs).1).mem = true := by
  unfold State.writeRuns
  repeat' split
  all_goals simp_all [State.outsideWrite_memWf, apply_ite Prod.fst, apply_ite State.mem, apply_ite Memory.wf, ite_self, implies_true, foldl_mem, foldl_fst_mem, foldl_memWf, foldl_fst_memWf]

theorem State.landRuns_memWf (s : State) (key) (g) (off) (bs) (close) (hw : Memory.wf (s).mem = true) : Memory.wf ((State.landRuns s key g off bs close).1).mem = true := by
  simp -implicitDefEqProofs only [State.landRuns]
  repeat' split
  all_goals simp -implicitDefEqProofs only [State.isolated_mem, State.writeRuns_memWf, apply_ite Prod.fst, apply_ite State.mem, apply_ite Memory.wf, ite_self, implies_true, foldl_mem, foldl_fst_mem, foldl_memWf, foldl_fst_memWf, hw]

theorem State.deliver_memWf (s : State) (d close) (hw : Memory.wf s.mem = true) : Memory.wf (s.deliver d close).1.mem = true := by
  have hl := State.landRuns_memWf (hw := hw) s d.key (deliveryPlace d) d.off d.bytes close.isSome
  unfold State.deliver
  extract_lets ks
  split
  · exact memWf_pair _ _ (by split <;> first | exact hw | (rw [State.staleExch_mem]; exact hw))
  · split
    · next e =>
      have ht := fst_memWf e hl
      have hd := State.deliverExps_memWf (hw := ht) _ ks d
      split
      · next e2 => exact memWf_pair _ _ (foldl_memWf _ (fun _ _ h => by rw [State.report_mem]; exact h) _ _ (fst_memWf e2 hd))
      · exact hd
    · exact hl

theorem State.forReceiver_memWf (s : State) (p c r) (f) (hf : ∀ s, Memory.wf (s).mem = true → Memory.wf ((f s).1).mem = true) (hw : Memory.wf (s).mem = true) : Memory.wf ((s.forReceiver p c r f).1).mem = true := by
  unfold State.forReceiver; split
  · exact hw
  · dsimp only
    repeat' split
    all_goals simp only [hf, hw, State.capture_mem, State.bump_mem]

theorem State.forSlot_memWf (s : State) (p k) (f) (hf : ∀ s, Memory.wf (s).mem = true → Memory.wf ((f s).1).mem = true) (hw : Memory.wf (s).mem = true) : Memory.wf ((s.forSlot p k f).1).mem = true := by
  unfold State.forSlot; repeat' split
  all_goals simp only [hf, hw, State.capture_mem, State.bump_mem]

theorem State.gotFactor_memWf (s : State) (k) (f) (close) (hw : Memory.wf (s).mem = true) : Memory.wf ((State.gotFactor s k f close).1).mem = true := by grind [State.gotFactor, State.landRuns_memWf, State.setGroup_mem, State.staleExch_mem]

theorem State.gotPartial_memWf (s : State) (k) (p) (hw : Memory.wf (s).mem = true) : Memory.wf ((State.gotPartial s k p)).mem = true := by simp -implicitDefEqProofs only [State.gotPartial, State.climb_memWf, State.setGroup_mem, State.staleExch_mem, apply_ite Prod.fst, apply_ite State.mem, apply_ite Memory.wf, ite_self, implies_true, foldl_mem, foldl_fst_mem, foldl_memWf, foldl_fst_memWf, hw]

theorem State.partWrite_memWf (s : State) (w) (off) (bs) (hw : Memory.wf (s).mem = true) : Memory.wf ((State.partWrite s w off bs)).mem = true := by simp -implicitDefEqProofs only [State.partWrite, State.rawWrite_memWf, apply_ite Prod.fst, apply_ite State.mem, apply_ite Memory.wf, ite_self, implies_true, foldl_mem, foldl_fst_mem, foldl_memWf, foldl_fst_memWf, hw]

theorem State.writeRow_memWf (s : State) (w) (d) (i) (row) (hw : Memory.wf (s).mem = true) : Memory.wf ((State.writeRow s w d i row)).mem = true := by
  unfold State.writeRow
  repeat' split
  all_goals simp_all [State.partWrite_memWf, apply_ite Prod.fst, apply_ite State.mem, apply_ite Memory.wf, ite_self, implies_true, foldl_mem, foldl_fst_mem, foldl_memWf, foldl_fst_memWf]

theorem State.gotReturn_memWf (s : State) (k) (m) (hw : Memory.wf (s).mem = true) : Memory.wf ((State.gotReturn s k m)).mem = true := by
  unfold State.gotReturn
  repeat' split
  all_goals simp_all [State.bump_mem, State.setSources_mem, State.writeRow_memWf, apply_ite Prod.fst, apply_ite State.mem, apply_ite Memory.wf, ite_self, implies_true, foldl_mem, foldl_fst_mem, foldl_memWf, foldl_fst_memWf]

theorem State.setFlags_memWf (s : State) (w) (off) (h) (t) (c) (v) (hw : Memory.wf (s).mem = true) : Memory.wf ((State.setFlags s w off h t c v)).mem = true := by simp -implicitDefEqProofs only [State.setFlags, State.partWrite_memWf, apply_ite Prod.fst, apply_ite State.mem, apply_ite Memory.wf, ite_self, implies_true, foldl_mem, foldl_fst_mem, foldl_memWf, foldl_fst_memWf, hw]

theorem State.markChoices_memWf (s : State) (k) (x) (hw : Memory.wf (s).mem = true) : Memory.wf ((State.markChoices s k x)).mem = true := by
  unfold State.markChoices
  repeat' split
  all_goals simp_all [State.bump_mem, State.setFlags_memWf, State.setSources_mem, apply_ite Prod.fst, apply_ite State.mem, apply_ite Memory.wf, ite_self, implies_true, foldl_mem, foldl_fst_mem, foldl_memWf, foldl_fst_memWf]

theorem State.gotSettle_memWf (s : State) (k) (m) (hw : Memory.wf (s).mem = true) : Memory.wf ((State.gotSettle s k m)).mem = true := by
  simp -implicitDefEqProofs only [State.gotSettle]
  repeat' split
  all_goals simp -implicitDefEqProofs only [State.bump_mem, State.markChoices_memWf, State.setSources_mem, apply_ite Prod.fst, apply_ite State.mem, apply_ite Memory.wf, ite_self, implies_true, foldl_mem, foldl_fst_mem, foldl_memWf, foldl_fst_memWf, hw]

theorem State.spaceWrite_memWf (s : State) (n) (x) (sp) (off) (bs) (hw : Memory.wf (s).mem = true) : Memory.wf ((State.spaceWrite s n x sp off bs).1).mem = true := by
  simp -implicitDefEqProofs only [State.spaceWrite]
  repeat' split
  all_goals simp -implicitDefEqProofs only [State.hbmWrite_memWf, State.rawWrite_memWf, apply_ite Prod.fst, apply_ite State.mem, apply_ite Memory.wf, ite_self, implies_true, foldl_mem, foldl_fst_mem, foldl_memWf, foldl_fst_memWf, hw]

theorem State.gotTransfer_memWf (s : State) (core) (rid) (off) (bs) (hw : Memory.wf (s).mem = true) : Memory.wf ((State.gotTransfer s core rid off bs).1).mem = true := by
  simp -implicitDefEqProofs only [State.gotTransfer]
  repeat' split
  all_goals simp -implicitDefEqProofs only [State.bump_mem, State.reshardRefused_mem, State.setReshard_mem, State.spaceWrite_memWf, apply_ite Prod.fst, apply_ite State.mem, apply_ite Memory.wf, ite_self, implies_true, foldl_mem, foldl_fst_mem, foldl_memWf, foldl_fst_memWf, hw]

theorem State.plainWrite_memWf (s : State) (p bs) (hw : Memory.wf s.mem = true) : Memory.wf (s.plainWrite p bs).1.mem = true := by
  unfold State.plainWrite
  extract_lets g
  split
  · next e => exact fst_memWf e (by rw [State.admitWhole_mem]; exact hw)
  · next e => exact State.outsideWrite_memWf (hw := fst_memWf e (by rw [State.admitWhole_mem]; exact hw)) ..

theorem State.meshWrite_memWf (s : State) (p bs) (hw : Memory.wf s.mem = true) : Memory.wf (s.meshWrite p bs).1.mem = true := by
  unfold State.meshWrite
  generalize region s.part p.addr = r
  cases r
  case core c off =>
    refine foldl_fst_memWf _ ?_ _ (s, 0) hw
    intro q i hs
    exact memWf_pair _ _ (State.plainWrite_memWf (hw := hs) ..)
  all_goals exact memWf_pair _ _ hw

theorem State.storePart_memWf (s : State) (k) (q) (hw : Memory.wf (s).mem = true) : Memory.wf ((State.storePart s k q).1).mem = true := by
  simp -implicitDefEqProofs only [State.storePart]
  repeat' split
  all_goals simp -implicitDefEqProofs only [State.bump_mem, State.hbmWrite_memWf, State.modSlot_mem, State.refusePart_mem, apply_ite Prod.fst, apply_ite State.mem, apply_ite Memory.wf, ite_self, implies_true, foldl_mem, foldl_fst_mem, foldl_memWf, foldl_fst_memWf, hw]

theorem State.placePart_memWf (s : State) (q) (hw : Memory.wf (s).mem = true) : Memory.wf ((State.placePart s q).1).mem = true := by
  simp -implicitDefEqProofs only [State.placePart]
  repeat' split
  all_goals simp -implicitDefEqProofs [State.bump_mem, State.capture_mem, State.refusePart_mem, State.returnOpened_mem, State.storePart_memWf, State.versionError_mem, apply_ite Prod.fst, apply_ite State.mem, apply_ite Memory.wf, ite_self, implies_true, foldl_mem, foldl_fst_mem, foldl_memWf, foldl_fst_memWf, hw]

theorem State.effect_memWf (s : State) (p) (before) (hw : Memory.wf (s).mem = true) : Memory.wf ((State.effect s p before).1).mem = true := by
  unfold State.effect
  extract_lets st ok close
  have hst : ∀ r : State × Nat, Memory.wf r.1.mem = true → Memory.wf (st r).1.mem = true := fun _ h => h
  have hok : ∀ t : State, Memory.wf t.mem = true → Memory.wf (ok t).1.mem = true := fun _ h => h
  split
  case h_1 => split <;> first | exact hst _ (State.meshWrite_memWf (hw := hw) ..) | exact hst _ (State.plainWrite_memWf (hw := hw) ..)
  case h_2 => rw [State.readAnswer_mem]; exact hw
  case h_3 => exact hw
  case h_4 => exact hst _ (State.atomicAdd_memWf (hw := hw) ..)
  case h_5 =>
    split
    · exact hw
    · split
      · exact hst _ (State.placePart_memWf (hw := hw) ..)
      · exact hok _ hw
  case h_6 => exact hok _ (by rw [State.creditPacket_mem]; exact hw)
  case h_7 => split <;> first | exact hok _ (State.gotPartial_memWf (hw := hw) ..) | exact hw
  case h_8 => split <;> first | exact hst _ (State.gotFactor_memWf (hw := hw) ..) | exact hw
  case h_9 => exact hst _ (State.deliver_memWf (hw := hw) ..)
  case h_10 => exact hok _ (by rw [State.commitPacket_mem]; exact hw)
  case h_11 => exact State.forSlot_memWf _ _ _ _ (fun _ h => memWf_pair _ _ (by rw [State.gotExpert_mem]; exact h)) hw
  case h_12 => exact State.forSlot_memWf _ _ _ _ (fun _ h => hok _ (State.gotSettle_memWf (hw := h) ..)) hw
  case h_13 => exact State.forSlot_memWf _ _ _ _ (fun _ h => hok _ (State.gotReturn_memWf (hw := h) ..)) hw
  case h_14 =>
    exact State.forReceiver_memWf _ _ _ _ _ (fun _ h => memWf_pair _ _ (State.gotTransfer_memWf (hw := h) ..)) (by rw [State.transferRefused_mem]; exact hw)
  case h_15 => exact State.forReceiver_memWf _ _ _ _ _ (fun _ h => memWf_pair _ _ (by rw [State.gotNotice_mem]; exact h)) hw
  case h_16 => exact hok _ (by rw [State.lanternPacket_mem]; exact hw)
  case h_17 => exact hok _ (by rw [State.drainAsked_mem]; exact hw)
  case h_18 => exact hok _ (by rw [State.drainReplied_mem]; exact hw)
  case h_19 => exact hok _ (by rw [State.retired_mem]; exact hw)
  all_goals exact hw

theorem State.closeMsg_memWf (s : State) (e) (p) (hw : Memory.wf (s).mem = true) : Memory.wf ((State.closeMsg s e p)).mem = true := by
  simp -implicitDefEqProofs only [State.closeMsg]
  repeat' split
  all_goals simp -implicitDefEqProofs only [State.answer_mem, State.bump_mem, State.effect_memWf, State.nextLine_mem, State.putEntry_mem, State.respond_mem, State.setSent_mem, apply_ite Prod.fst, apply_ite State.mem, apply_ite Memory.wf, ite_self, implies_true, foldl_mem, foldl_fst_mem, foldl_memWf, foldl_fst_memWf, hw]

theorem State.coldReset_memWf (s : State) (p c) (hw : Memory.wf s.mem = true) : Memory.wf (s.coldReset p c).mem = true := by
  unfold State.coldReset
  split <;> simp only [State.commitLedger_mem] <;> exact Table.wf_filter _ _ _ hw

theorem State.fillUnits_memWf (s : State) (lo hi gen) (hw : Memory.wf s.mem = true) : Memory.wf (s.fillUnits lo hi gen).mem = true :=
  Table.wf_drop _ _ _ _ hw

theorem State.zeroAll_memWf (s : State) (hw : Memory.wf s.mem = true) : Memory.wf s.zeroAll.mem = true :=
  Table.wf_drop _ _ _ _ (State.fillUnits_memWf _ _ _ _ hw)

theorem State.startTrain_memWf (s : State) (i) (hw : Memory.wf (s).mem = true) : Memory.wf ((State.startTrain s i)).mem = true := by
  simp -implicitDefEqProofs only [State.startTrain]
  repeat' split
  all_goals simp -implicitDefEqProofs only [State.capture_mem, State.resetBlocks_mem, State.setBoot_mem, State.setSec_mem, State.zeroAll_memWf, apply_ite Prod.fst, apply_ite State.mem, apply_ite Memory.wf, ite_self, implies_true, foldl_mem, foldl_fst_mem, foldl_memWf, foldl_fst_memWf, hw]

theorem State.coldStart_memWf (s : State) (i) (hw : Memory.wf (s).mem = true) : Memory.wf ((State.coldStart s i)).mem = true := by grind [State.coldStart, State.andThen_memWf, State.ledgerFault_mem, State.startFirmware_mem, State.startLedger_mem, State.startNegotiate_mem, State.startProfile_mem, State.startReady_mem, State.startRelease_mem, State.startSelftest_mem, State.startStraps_mem, State.startTrain_memWf]

theorem State.coreCtl_memWf (s : State) (n) (f) (hf : ∀ s, Memory.wf (s).mem = true → Memory.wf ((f s)).mem = true) (hw : Memory.wf (s).mem = true) : Memory.wf ((s.coreCtl n f)).mem = true := by
  unfold State.coreCtl; simp only; split <;> simp only [hf, hw, State.blkGuard_mem]

theorem State.ctxDone_memWf (s : State) (n) (x) (hw : Memory.wf (s).mem = true) : Memory.wf ((State.ctxDone s n x)).mem = true := by
  simp -implicitDefEqProofs only [State.ctxDone]
  repeat' split
  all_goals simp -implicitDefEqProofs only [State.ctxAct_memWf, State.modBlock_mem, State.setCtx_mem, apply_ite Prod.fst, apply_ite State.mem, apply_ite Memory.wf, ite_self, implies_true, foldl_mem, foldl_fst_mem, foldl_memWf, foldl_fst_memWf, hw]

theorem State.dispatchRows_memWf (s : State) (w) (off) (h) (d) (rank) (ts) (hw : Memory.wf (s).mem = true) : Memory.wf ((State.dispatchRows s w off h d rank ts).1).mem = true := by
  unfold State.dispatchRows
  repeat' split
  all_goals simp_all [State.bump_mem, State.sendFor_mem, State.setFlags_memWf, State.setSources_mem, apply_ite Prod.fst, apply_ite State.mem, apply_ite Memory.wf, ite_self, implies_true, foldl_mem, foldl_fst_mem, foldl_memWf, foldl_fst_memWf]

theorem State.dorubWrite_memWf (s : State) (r) (tid) (index) (sub) (bs) (hw : Memory.wf (s).mem = true) : Memory.wf ((State.dorubWrite s r tid index sub bs)).mem = true := by simp -implicitDefEqProofs only [State.dorubWrite, State.reply_mem, State.writeAnswered_memWf, apply_ite Prod.fst, apply_ite State.mem, apply_ite Memory.wf, ite_self, implies_true, foldl_mem, foldl_fst_mem, foldl_memWf, foldl_fst_memWf, hw]

theorem State.drain_memWf (s : State) (id n) (hw : Memory.wf s.mem = true) : Memory.wf (s.drain id n).mem = true := by
  induction n generalizing s with
  | zero => exact hw
  | succ n ih =>
    unfold State.drain
    repeat' split
    all_goals first | exact hw | (rw [State.holdSession_mem]; exact hw) | exact ih _ (State.applyMsg_memWf (hw := hw) ..)

theorem State.drainAck_memWf (s : State) (id) (hw : Memory.wf (s).mem = true) : Memory.wf ((State.drainAck s id)).mem = true := by
  simp -implicitDefEqProofs only [State.drainAck]
  repeat' split
  all_goals simp -implicitDefEqProofs only [State.drain_memWf, State.jAck_mem, apply_ite Prod.fst, apply_ite State.mem, apply_ite Memory.wf, ite_self, implies_true, foldl_mem, foldl_fst_mem, foldl_memWf, foldl_fst_memWf, hw]

theorem State.drainUpto_memWf (s : State) (id) (upto) (hw : Memory.wf (s).mem = true) : Memory.wf ((State.drainUpto s id upto)).mem = true := by
  simp -implicitDefEqProofs only [State.drainUpto]
  repeat' split
  all_goals simp -implicitDefEqProofs only [State.drain_memWf, State.jAck_mem, apply_ite Prod.fst, apply_ite State.mem, apply_ite Memory.wf, ite_self, implies_true, foldl_mem, foldl_fst_mem, foldl_memWf, foldl_fst_memWf, hw]

theorem State.zeroWindows_memWf (s : State) (ws) (hw : Memory.wf (s).mem = true) : Memory.wf ((State.zeroWindows s ws)).mem = true := by
  unfold State.zeroWindows
  repeat' split
  all_goals simp_all [State.fillUnits_memWf, apply_ite Prod.fst, apply_ite State.mem, apply_ite Memory.wf, ite_self, implies_true, foldl_mem, foldl_fst_mem, foldl_memWf, foldl_fst_memWf]

theorem State.endErase_memWf (s : State) (j) (hw : Memory.wf (s).mem = true) : Memory.wf ((State.endErase s j)).mem = true := by
  unfold State.endErase
  repeat' split
  all_goals simp_all [State.commitLedger_mem, State.modLedger_mem, State.setKeySlot_mem, State.setSec_mem, State.zeroAll_memWf, State.zeroWindows_memWf, apply_ite Prod.fst, apply_ite State.mem, apply_ite Memory.wf, ite_self, implies_true, foldl_mem, foldl_fst_mem, foldl_memWf, foldl_fst_memWf]

theorem State.takeJobs_memWf (s : State) (js) (hw : Memory.wf s.mem = true) : Memory.wf (s.takeJobs js).mem = true := by
  induction js generalizing s with
  | nil => exact hw
  | cons j js ih =>
    unfold State.takeJobs
    split
    · simp only
      split
      · exact ih _ (by rw [State.judgeRec_mem]; exact hw)
      · exact State.startErase_memWf (hw := by rw [State.setSec_mem, State.judgeRec_mem]; exact hw) ..
    · exact State.startErase_memWf (hw := by rw [State.setSec_mem]; exact hw) ..

theorem State.eraseDone_memWf (s : State) (hw : Memory.wf (s).mem = true) : Memory.wf ((State.eraseDone s)).mem = true := by
  simp -implicitDefEqProofs only [State.eraseDone]
  repeat' split
  all_goals simp -implicitDefEqProofs only [State.completeWaiting_mem, State.endErase_memWf, State.jobDone_mem, State.takeJobs_memWf, apply_ite Prod.fst, apply_ite State.mem, apply_ite Memory.wf, ite_self, implies_true, foldl_mem, foldl_fst_mem, foldl_memWf, foldl_fst_memWf, hw]

theorem State.runMulti_memWf (s : State) (r tid es a f) (hw : Memory.wf s.mem = true) :
    Memory.wf (s.runMulti r tid es a f).mem = true := by
  induction es generalizing s a f with
  | nil => rw [State.runMulti, State.multiEnd_mem]; exact hw
  | cons e es ih =>
    unfold State.runMulti
    simp only
    repeat' split
    all_goals first
      | exact ih _ _ _ (State.writeObj_memWf (hw := hw) ..)
      | exact State.writeObj_memWf (hw := hw) ..
      | (rw [State.multiEnd_mem]; first | exact hw | exact State.writeObj_memWf (hw := hw) ..)

theorem State.multiWrite_memWf (s : State) (r) (tid) (es) (hw : Memory.wf (s).mem = true) : Memory.wf ((State.multiWrite s r tid es)).mem = true := by simp -implicitDefEqProofs only [State.multiWrite, State.multiEnd_mem, State.runMulti_memWf, apply_ite Prod.fst, apply_ite State.mem, apply_ite Memory.wf, ite_self, implies_true, foldl_mem, foldl_fst_mem, foldl_memWf, foldl_fst_memWf, hw]

theorem State.serve_memWf (s : State) (a1) (hw : Memory.wf (s).mem = true) : Memory.wf ((State.serve s a1)).mem = true := by
  simp -implicitDefEqProofs only [State.serve]
  repeat' split
  all_goals simp -implicitDefEqProofs only [State.blockAbort_mem, State.blockReadSeg_mem, State.blockReadStart_mem, State.blockWriteEnd_memWf, State.blockWriteSeg_mem, State.blockWriteStart_mem, State.dorubDescribe_mem, State.dorubRead_mem, State.dorubWrite_memWf, State.multiWrite_memWf, State.reply_mem, apply_ite Prod.fst, apply_ite State.mem, apply_ite Memory.wf, ite_self, implies_true, foldl_mem, foldl_fst_mem, foldl_memWf, foldl_fst_memWf, hw]

theorem State.request_memWf (s : State) (c) (hw : Memory.wf (s).mem = true) : Memory.wf ((State.request s c)).mem = true := by grind [State.request, State.inTurn, State.repeated, State.hold_mem, State.emit_mem, State.serve_memWf, State.unaddressed_mem]

theorem State.underGuard_memWf (s : State) (f) (hf : ∀ s, Memory.wf (s).mem = true → Memory.wf ((f s).1).mem = true) (hw : Memory.wf (s).mem = true) : Memory.wf ((s.underGuard f).1).mem = true := by
  unfold State.underGuard; simp only; split <;> simp only [hf, hw, State.pkgGuard_mem]

theorem ctxCmd_memWf (c) (n) (x) (k) (kslot) (s : State) (t) (e : ctxCmd c n x k kslot s = .next t) (hw : Memory.wf (s).mem = true) : Memory.wf (t).mem = true := by
  simp -implicitDefEqProofs only [ctxCmd, State.unlessMulti] at e
  (repeat' split at e) <;> first | (injection e with e; subst e; simp -implicitDefEqProofs only [State.blkTouch_mem, State.ctxCommand_memWf, State.hold_mem, apply_ite Prod.fst, apply_ite State.mem, apply_ite Memory.wf, ite_self, implies_true, foldl_mem, foldl_fst_mem, foldl_memWf, foldl_fst_memWf, hw]) | cases e

theorem execClear_memWf (n) (x) (s : State) (t) (e : execClear n x s = .next t) (hw : Memory.wf (s).mem = true) : Memory.wf (t).mem = true := by
  unfold execClear at e
  exact ctxCmd_memWf (e := e) (hw := hw)

theorem execDebugToken_memWf (r) (bytes) (s : State) (t) (e : execDebugToken r bytes s = .next t) (hw : Memory.wf (s).mem = true) : Memory.wf (t).mem = true := by
  simp -implicitDefEqProofs only [execDebugToken, whenServed, State.inTurn] at e
  (repeat' split at e) <;> first | (injection e with e; subst e; simp -implicitDefEqProofs only [State.debugToken_memWf, State.pkgTouch_mem, State.unaddressed_mem, State.hold_mem, apply_ite Prod.fst, apply_ite State.mem, apply_ite Memory.wf, ite_self, implies_true, foldl_mem, foldl_fst_mem, foldl_memWf, foldl_fst_memWf, hw]) | cases e

theorem lifecycleCmd_memWf (c) (kind) (r) (b) (s : State) (t) (e : lifecycleCmd c kind r b s = .next t) (hw : Memory.wf (s).mem = true) : Memory.wf (t).mem = true := by
  simp -implicitDefEqProofs only [lifecycleCmd, whenServed, State.inTurn] at e
  (repeat' split at e) <;> first | (injection e with e; subst e; simp -implicitDefEqProofs only [State.lcRecord_memWf, State.pkgTouch_mem, State.unaddressed_mem, State.hold_mem, apply_ite Prod.fst, apply_ite State.mem, apply_ite Memory.wf, ite_self, implies_true, foldl_mem, foldl_fst_mem, foldl_memWf, foldl_fst_memWf, hw]) | cases e

theorem execEndLease_memWf (r) (rec) (s : State) (t) (e : execEndLease r rec s = .next t) (hw : Memory.wf (s).mem = true) : Memory.wf (t).mem = true := by
  unfold execEndLease at e
  exact lifecycleCmd_memWf (e := e) (hw := hw)

theorem execErase_memWf (r) (value) (s : State) (t) (e : execErase r value s = .next t) (hw : Memory.wf (s).mem = true) : Memory.wf (t).mem = true := by
  simp -implicitDefEqProofs only [execErase, whenServed, State.inTurn] at e
  (repeat' split at e) <;> first | (injection e with e; subst e; simp -implicitDefEqProofs only [State.eraseCmd_memWf, State.pkgTouch_mem, State.unaddressed_mem, State.hold_mem, apply_ite Prod.fst, apply_ite State.mem, apply_ite Memory.wf, ite_self, implies_true, foldl_mem, foldl_fst_mem, foldl_memWf, foldl_fst_memWf, hw]) | cases e

theorem execFinish_memWf (r) (rec) (s : State) (t) (e : execFinish r rec s = .next t) (hw : Memory.wf (s).mem = true) : Memory.wf (t).mem = true := by
  unfold execFinish at e
  exact lifecycleCmd_memWf (e := e) (hw := hw)

theorem execGuardWrite_memWf (g) (value) (s : State) (t) (e : execGuardWrite g value s = .next t) (hw : Memory.wf (s).mem = true) : Memory.wf (t).mem = true := by
  simp -implicitDefEqProofs only [execGuardWrite, State.unlessMulti] at e
  (repeat' split at e) <;> first | (injection e with e; subst e; simp -implicitDefEqProofs only [State.setProfiles_mem, State.hold_mem, State.writeWord_memWf, apply_ite Prod.fst, apply_ite State.mem, apply_ite Memory.wf, ite_self, implies_true, foldl_mem, foldl_fst_mem, foldl_memWf, foldl_fst_memWf, hw]) | cases e

theorem execHalt_memWf (n) (x) (s : State) (t) (e : execHalt n x s = .next t) (hw : Memory.wf (s).mem = true) : Memory.wf (t).mem = true := by
  unfold execHalt at e
  exact ctxCmd_memWf (e := e) (hw := hw)

theorem execLease_memWf (r) (rec) (s : State) (t) (e : execLease r rec s = .next t) (hw : Memory.wf (s).mem = true) : Memory.wf (t).mem = true := by
  unfold execLease at e
  exact lifecycleCmd_memWf (e := e) (hw := hw)

theorem execLoad_memWf (n) (x) (kslot) (s : State) (t) (e : execLoad n x kslot s = .next t) (hw : Memory.wf (s).mem = true) : Memory.wf (t).mem = true := by
  unfold execLoad at e
  exact ctxCmd_memWf (e := e) (hw := hw)

theorem execMcErrWrite_memWf (stack) (value) (s : State) (t) (e : execMcErrWrite stack value s = .next t) (hw : Memory.wf (s).mem = true) : Memory.wf (t).mem = true := by
  simp -implicitDefEqProofs only [execMcErrWrite, State.unlessMulti] at e
  (repeat' split at e) <;> first | (injection e with e; subst e; simp -implicitDefEqProofs only [State.hold_mem, State.writeWord_memWf, apply_ite Prod.fst, apply_ite State.mem, apply_ite Memory.wf, ite_self, implies_true, foldl_mem, foldl_fst_mem, foldl_memWf, foldl_fst_memWf, hw]) | cases e

theorem execRefurbish_memWf (r) (rec) (s : State) (t) (e : execRefurbish r rec s = .next t) (hw : Memory.wf (s).mem = true) : Memory.wf (t).mem = true := by
  unfold execRefurbish at e
  exact lifecycleCmd_memWf (e := e) (hw := hw)

theorem execRegisterWrite_memWf (p) (index) (sub) (value) (s t : State) (e : execRegisterWrite p index sub value s = .next t)
    (hw : Memory.wf s.mem = true) : Memory.wf t.mem = true := by
  have ho (r : Requester) : Memory.wf (s.writeObj r index sub value none).1.mem = true := State.writeObj_memWf (hw := hw) ..
  have hr (i : Nat) : Memory.wf (s.writeWord i sub (leNat value)).1.mem = true := State.writeWord_memWf (hw := hw) ..
  have hh (c : Instr) : Memory.wf (s.hold c).mem = true := by rw [State.hold_mem]; exact hw
  cases p with
  | dorub r =>
    have h := ho r
    unfold execRegisterWrite at e
    simp only [whenServed] at e
    generalize s.writeObj r index sub value none = q at e h
    injection e with e
    subst e
    split
    · rw [State.unaddressed_mem]; exact hw
    · split
      · unfold State.inTurn; split <;> first | exact hh _ | exact h
      · exact hw
  | jorto =>
    have h := hr (index - 0x8000)
    unfold execRegisterWrite at e
    simp only at e
    generalize s.writeWord (index - 0x8000) sub (leNat value) = q at e h
    injection e with e
    subst e
    unfold State.unlessMulti
    split
    · exact hh _
    · split <;> first | exact h | exact hw

theorem execResume_memWf (n) (x) (s : State) (t) (e : execResume n x s = .next t) (hw : Memory.wf (s).mem = true) : Memory.wf (t).mem = true := by
  unfold execResume at e
  exact ctxCmd_memWf (e := e) (hw := hw)

theorem execRetireRecord_memWf (r) (rec) (s : State) (t) (e : execRetireRecord r rec s = .next t) (hw : Memory.wf (s).mem = true) : Memory.wf (t).mem = true := by
  unfold execRetireRecord at e
  exact lifecycleCmd_memWf (e := e) (hw := hw)

theorem execSave_memWf (n) (x) (s : State) (t) (e : execSave n x s = .next t) (hw : Memory.wf (s).mem = true) : Memory.wf (t).mem = true := by
  unfold execSave at e
  exact ctxCmd_memWf (e := e) (hw := hw)

theorem execSaveFull_memWf (n) (x) (s : State) (t) (e : execSaveFull n x s = .next t) (hw : Memory.wf (s).mem = true) : Memory.wf (t).mem = true := by
  unfold execSaveFull at e
  exact ctxCmd_memWf (e := e) (hw := hw)

theorem execSlotEnable_memWf (slot) (s : State) (t) (e : execSlotEnable slot s = .next t) (hw : Memory.wf (s).mem = true) : Memory.wf (t).mem = true := by
  simp -implicitDefEqProofs only [execSlotEnable, State.unlessMulti, onSlot] at e
  (repeat' split at e) <;> first | (injection e with e; subst e; simp -implicitDefEqProofs only [State.blkTouch_mem, State.pkgTouch_mem, State.slotOn_memWf, State.hold_mem, apply_ite Prod.fst, apply_ite State.mem, apply_ite Memory.wf, ite_self, implies_true, foldl_mem, foldl_fst_mem, foldl_memWf, foldl_fst_memWf, hw]) | cases e

theorem execTransfer_memWf (r) (rec) (s : State) (t) (e : execTransfer r rec s = .next t) (hw : Memory.wf (s).mem = true) : Memory.wf (t).mem = true := by
  unfold execTransfer at e
  exact lifecycleCmd_memWf (e := e) (hw := hw)

theorem execWarmReset_memWf (r) (s : State) (t) (e : execWarmReset r s = .next t) (hw : Memory.wf (s).mem = true) : Memory.wf (t).mem = true := by grind [execWarmReset, whenServed, State.inTurn, State.resetCmd_memWf, State.underGuard_memWf, State.unaddressed_mem, State.hold_mem]

theorem execWrcntWrite_memWf (block) (value) (s : State) (t) (e : execWrcntWrite block value s = .next t) (hw : Memory.wf (s).mem = true) : Memory.wf (t).mem = true := by
  simp -implicitDefEqProofs only [execWrcntWrite, State.unlessMulti] at e
  (repeat' split at e) <;> first | (injection e with e; subst e; simp -implicitDefEqProofs only [State.hold_mem, State.writeWord_memWf, apply_ite Prod.fst, apply_ite State.mem, apply_ite Memory.wf, ite_self, implies_true, foldl_mem, foldl_fst_mem, foldl_memWf, foldl_fst_memWf, hw]) | cases e

theorem heldCmd_memWf (c) (s t : State) (e : heldCmd c s = .next t) (hw : Memory.wf s.mem = true) : Memory.wf t.mem = true := by
  unfold heldCmd at e
  split at e
  · exact execLoad_memWf (e := e) (hw := hw) ..
  · exact execSave_memWf (e := e) (hw := hw) ..
  · exact execSaveFull_memWf (e := e) (hw := hw) ..
  · exact execHalt_memWf (e := e) (hw := hw) ..
  · exact execResume_memWf (e := e) (hw := hw) ..
  · exact execClear_memWf (e := e) (hw := hw) ..
  · rw [execCoreEnable_mem (e := e)]; exact hw
  · rw [execCoreDisable_mem (e := e)]; exact hw
  · exact execRegisterWrite_memWf (e := e) (hw := hw) ..
  · exact execGuardWrite_memWf (e := e) (hw := hw) ..
  · exact execWrcntWrite_memWf (e := e) (hw := hw) ..
  · exact execMcErrWrite_memWf (e := e) (hw := hw) ..
  · exact execSlotEnable_memWf (e := e) (hw := hw) ..
  · rw [execSlotDisable_mem (e := e)]; exact hw
  · rw [execForm_mem (e := e)]; exact hw
  · rw [execDissolve_mem (e := e)]; exact hw
  · rw [execResolveFeast_mem (e := e)]; exact hw
  · rw [execResolveFast_mem (e := e)]; exact hw
  · rw [execWatchTableWrite_mem (e := e)]; exact hw
  · rw [execFportEnable_mem (e := e)]; exact hw
  · rw [execFportDisable_mem (e := e)]; exact hw
  · rw [execLoadOpen_mem (e := e)]; exact hw
  · rw [execLoadSeal_mem (e := e)]; exact hw
  · rw [execSwitchEdition_mem (e := e)]; exact hw
  · rw [execStartDrain_mem (e := e)]; exact hw
  · rw [execForceRetire_mem (e := e)]; exact hw
  · rw [execPortEnWrite_mem (e := e)]; exact hw
  · rw [execPkgCapWrite_mem (e := e)]; exact hw
  · rw [execErrAck_mem (e := e)]; exact hw
  · rw [execLostCountWrite_mem (e := e)]; exact hw
  · rw [execProfileSave_mem (e := e)]; exact hw
  · rw [execSelectNext_mem (e := e)]; exact hw
  · rw [execDefaults_mem (e := e)]; exact hw
  · rw [execCancelNext_mem (e := e)]; exact hw
  · exact execWarmReset_memWf (e := e) (hw := hw) ..
  · rw [execFwVerify_mem (e := e)]; exact hw
  · rw [execFwActivate_mem (e := e)]; exact hw
  · rw [execCommitSvn_mem (e := e)]; exact hw
  · rw [execFwChunk_mem (e := e)]; exact hw
  · rw [execFwMinSvn_mem (e := e)]; exact hw
  · rw [execAttNonce_mem (e := e)]; exact hw
  · rw [execAuthOpen_mem (e := e)]; exact hw
  · rw [execAuthClose_mem (e := e)]; exact hw
  · exact execTransfer_memWf (e := e) (hw := hw) ..
  · exact execLease_memWf (e := e) (hw := hw) ..
  · exact execEndLease_memWf (e := e) (hw := hw) ..
  · exact execRefurbish_memWf (e := e) (hw := hw) ..
  · exact execFinish_memWf (e := e) (hw := hw) ..
  · exact execRetireRecord_memWf (e := e) (hw := hw) ..
  · rw [execKeyLoad_mem (e := e)]; exact hw
  · exact execErase_memWf (e := e) (hw := hw) ..
  · rw [execSlot0Secret_mem (e := e)]; exact hw
  · exact execDebugToken_memWf (e := e) (hw := hw) ..
  · injection e with e; subst e; exact State.request_memWf (hw := hw) ..

theorem State.replay_memWf (s : State) (c) (hw : Memory.wf (s).mem = true) : Memory.wf ((State.replay s c)).mem = true := by grind [State.replay, heldCmd_memWf]

theorem State.goOn_memWf (s : State) (h) (hw : Memory.wf s.mem = true) : Memory.wf (s.goOn h).mem = true := by
  cases h
  · exact State.replay_memWf (hw := hw) ..
  · exact State.drainUpto_memWf (hw := hw) ..

theorem State.writeRecords_memWf (s : State) (n) (x) (d) (off) (bs) (hw : Memory.wf (s).mem = true) : Memory.wf ((State.writeRecords s n x d off bs).1).mem = true := by
  unfold State.writeRecords
  repeat' split
  all_goals simp_all [State.spaceWrite_memWf, apply_ite Prod.fst, apply_ite State.mem, apply_ite Memory.wf, ite_self, implies_true, foldl_mem, foldl_fst_mem, foldl_memWf, foldl_fst_memWf]

theorem State.readData_memWf (s : State) (u) (id) (bs) (hw : Memory.wf (s).mem = true) : Memory.wf ((State.readData s u id bs)).mem = true := by
  simp -implicitDefEqProofs only [State.readData]
  repeat' split
  all_goals simp -implicitDefEqProofs only [State.answered_mem, State.writeRecords_memWf, apply_ite Prod.fst, apply_ite State.mem, apply_ite Memory.wf, ite_self, implies_true, foldl_mem, foldl_fst_mem, foldl_memWf, foldl_fst_memWf, hw]

theorem State.gotAnswer_memWf (s : State) (p) (hw : Memory.wf (s).mem = true) : Memory.wf ((State.gotAnswer s p)).mem = true := by
  simp -implicitDefEqProofs only [State.gotAnswer]
  repeat' split
  all_goals simp -implicitDefEqProofs only [State.answered_mem, State.readData_memWf, State.refusedBusy_mem, apply_ite Prod.fst, apply_ite State.mem, apply_ite Memory.wf, ite_self, implies_true, foldl_mem, foldl_fst_mem, foldl_memWf, foldl_fst_memWf, hw]

theorem State.jortoAck_memWf (s : State) (m) (hw : Memory.wf (s).mem = true) : Memory.wf ((State.jortoAck s m)).mem = true := by
  simp -implicitDefEqProofs only [State.jortoAck]
  repeat' split
  all_goals simp -implicitDefEqProofs only [State.acked_mem, State.drainAck_memWf, State.frameDiscard_mem, apply_ite Prod.fst, apply_ite State.mem, apply_ite Memory.wf, ite_self, implies_true, foldl_mem, foldl_fst_mem, foldl_memWf, foldl_fst_memWf, hw]

theorem State.leafRow_memWf (s : State) (g) (emu) (sb8) (i) (xs) (hw : Memory.wf (s).mem = true) : Memory.wf ((State.leafRow s g emu sb8 i xs).1).mem = true := by grind [State.leafRow, State.hbmRead_mem, State.hbmWrite_memWf]

theorem State.leafRows_memWf (s : State) (g emu b i xs) (hw : Memory.wf s.mem = true) : Memory.wf (s.leafRows g emu b i xs).1.mem = true := by
  induction xs generalizing s i with
  | nil => exact hw
  | cons x xs ih =>
    have h1 := State.leafRow_memWf (hw := hw) s g emu b i x
    unfold State.leafRows
    split
    · next e => exact fst_memWf e h1
    · next e =>
      have h2 := ih _ (i + 1) (fst_memWf e h1)
      split
      · next e => exact fst_memWf e h2
      · next e => exact fst_memWf e h2

theorem State.leaf_memWf (s : State) (g emu sb8 att xs) (hw : Memory.wf s.mem = true) : Memory.wf (s.leaf g emu sb8 att xs).1.mem = true := by
  have h1 := State.leafRows_memWf (hw := hw) s g emu sb8 0 xs
  unfold State.leaf
  split
  · next e => exact fst_memWf e h1
  · next e => rw [State.bump_mem, State.bump_mem]; exact fst_memWf e h1

theorem State.writeTile_memWf (s : State) (w d a b escq head xs mask) (hw : Memory.wf s.mem = true) :
    Memory.wf (s.writeTile w d a b escq head xs mask).1.mem = true := by
  unfold State.writeTile
  exact State.partWrite_memWf (hw := hw) ..

theorem State.mapTiles_memWf (s : State) (w d escq f) (hw : Memory.wf s.mem = true) : Memory.wf (s.mapTiles w d escq f).1.mem = true := by
  have ht (t : State) (h : Memory.wf t.mem = true) (a b e q v m) : Memory.wf (t.writeTile w d a b e q v m).1.mem = true :=
    State.writeTile_memWf (hw := h) ..
  unfold State.mapTiles
  refine foldl_fst_memWf _ (fun p ab h => ?_) _ _ hw
  refine foldl_memWf _ (fun s t h => by rw [State.readCount_mem]; exact h) _ _ ?_
  rw [State.count_mem]
  split
  · exact State.partWrite_memWf (hw := by apply ht; exact h) ..
  · apply ht; exact h

theorem State.writeRaw_memWf (s : State) (w) (d) (a) (b) (values) (xs) (hw : Memory.wf (s).mem = true) : Memory.wf ((State.writeRaw s w d a b values xs)).mem = true := by simp -implicitDefEqProofs only [State.writeRaw, State.partWrite_memWf, apply_ite Prod.fst, apply_ite State.mem, apply_ite Memory.wf, ite_self, implies_true, foldl_mem, foldl_fst_mem, foldl_memWf, foldl_fst_memWf, hw]

theorem State.optStore_memWf (s : State) (p) (am2) (dy) (q) (a) (b) (out) (hw : Memory.wf (s).mem = true) : Memory.wf ((State.optStore s p am2 dy q a b out)).mem = true := by grind [State.optStore, State.count_mem, State.writeRaw_memWf, State.writeTile_memWf]

theorem State.raiseReady_memWf (s : State) (k) (n) (p) (hw : Memory.wf (s).mem = true) : Memory.wf ((State.raiseReady s k n p)).mem = true := by simp -implicitDefEqProofs only [State.raiseReady, State.rawWrite_memWf, apply_ite Prod.fst, apply_ite State.mem, apply_ite Memory.wf, ite_self, implies_true, foldl_mem, foldl_fst_mem, foldl_memWf, foldl_fst_memWf, hw]

theorem State.rawClear_memWf (s : State) (a n) (hw : Memory.wf s.mem = true) : Memory.wf (s.rawClear a n).mem = true :=
  Table.wf_drop _ _ _ _ hw

theorem State.takeOpen_memWf (s : State) (e) (p) (hw : Memory.wf (s).mem = true) : Memory.wf ((State.takeOpen s e p).1).mem = true := by
  simp -implicitDefEqProofs only [State.takeOpen]
  repeat' split
  all_goals simp -implicitDefEqProofs only [State.bump_mem, State.effect_memWf, State.respond_mem, apply_ite Prod.fst, apply_ite State.mem, apply_ite Memory.wf, ite_self, implies_true, foldl_mem, foldl_fst_mem, foldl_memWf, foldl_fst_memWf, hw]

theorem State.takeIn_memWf (s : State) (die) (p) (hw : Memory.wf (s).mem = true) : Memory.wf ((State.takeIn s die p)).mem = true := by
  simp -implicitDefEqProofs only [State.takeIn]
  repeat' split
  all_goals simp -implicitDefEqProofs only [State.bump_mem, State.closeMsg_memWf, State.dropEntry_mem, State.putEntry_mem, State.respond_mem, State.takeOpen_memWf, apply_ite Prod.fst, apply_ite State.mem, apply_ite Memory.wf, ite_self, implies_true, foldl_mem, foldl_fst_mem, foldl_memWf, foldl_fst_memWf, hw]

theorem State.receive_memWf (s : State) (n) (hw : Memory.wf (s).mem = true) : Memory.wf ((State.receive s n)).mem = true := by
  simp -implicitDefEqProofs only [State.receive]
  repeat' split
  all_goals simp -implicitDefEqProofs only [State.answer_mem, State.gotAnswer_memWf, State.takeIn_memWf, State.warmCount_mem, apply_ite Prod.fst, apply_ite State.mem, apply_ite Memory.wf, ite_self, implies_true, foldl_mem, foldl_fst_mem, foldl_memWf, foldl_fst_memWf, hw]

theorem State.redWrite_memWf (s : State) (w axis dy a b res) (hw : Memory.wf s.mem = true) :
    Memory.wf (s.redWrite w axis dy a b res).1.mem = true := by
  have ht (a b e q v m) : Memory.wf (s.writeTile w dy a b e q v m).1.mem = true := State.writeTile_memWf (hw := hw) ..
  unfold State.redWrite
  rw [State.count_mem]
  apply ht

theorem State.resumeMulti_memWf (s : State) (hw : Memory.wf (s).mem = true) : Memory.wf ((State.resumeMulti s)).mem = true := by
  simp -implicitDefEqProofs only [State.resumeMulti]
  repeat' split
  all_goals simp -implicitDefEqProofs only [State.reply_mem, State.runMulti_memWf, apply_ite Prod.fst, apply_ite State.mem, apply_ite Memory.wf, ite_self, implies_true, foldl_mem, foldl_fst_mem, foldl_memWf, foldl_fst_memWf, hw]

theorem State.resumeAll_memWf (s : State) (hw : Memory.wf (s).mem = true) : Memory.wf ((State.resumeAll s)).mem = true := by
  unfold State.resumeAll
  repeat' split
  all_goals simp_all [State.goOn_memWf, State.resumeMulti_memWf, apply_ite Prod.fst, apply_ite State.mem, apply_ite Memory.wf, ite_self, implies_true, foldl_mem, foldl_fst_mem, foldl_memWf, foldl_fst_memWf]

theorem State.runOp_memWf (s : State) (n x k o body) (hf : ∀ s w o, Memory.wf (s).mem = true → Memory.wf ((body s w o).1).mem = true) (hw : Memory.wf (s).mem = true) : Memory.wf ((s.runOp n x k o body)).mem = true := by
  unfold State.runOp; repeat' split
  all_goals simp only [hf, hw, State.endOp_mem]

theorem State.sendFactor_memWf (s : State) (k) (f) (hw : Memory.wf (s).mem = true) : Memory.wf ((State.sendFactor s k f)).mem = true := by simp -implicitDefEqProofs only [State.sendFactor, State.gotFactor_memWf, State.post_mem, apply_ite Prod.fst, apply_ite State.mem, apply_ite Memory.wf, ite_self, implies_true, foldl_mem, foldl_fst_mem, foldl_memWf, foldl_fst_memWf, hw]

theorem State.takeAck_memWf (s : State) (id) (n) (hw : Memory.wf (s).mem = true) : Memory.wf ((State.takeAck s id n)).mem = true := by simp -implicitDefEqProofs only [State.takeAck, State.acked_mem, State.drain_memWf, apply_ite Prod.fst, apply_ite State.mem, apply_ite Memory.wf, ite_self, implies_true, foldl_mem, foldl_fst_mem, foldl_memWf, foldl_fst_memWf, hw]

theorem State.sequenced_memWf (s : State) (k) (m) (hw : Memory.wf (s).mem = true) : Memory.wf ((State.sequenced s k m)).mem = true := by
  simp -implicitDefEqProofs only [State.sequenced]
  repeat' split
  all_goals simp -implicitDefEqProofs only [State.bump_mem, State.drain_memWf, State.frameDiscard_mem, State.jAck_mem, State.setSession_mem, State.takeAck_memWf, apply_ite Prod.fst, apply_ite State.mem, apply_ite Memory.wf, ite_self, implies_true, foldl_mem, foldl_fst_mem, foldl_memWf, foldl_fst_memWf, hw]

theorem State.writeBank_memWf (s : State) (k) (l) (h) (served) (unserved) (hw : Memory.wf (s).mem = true) : Memory.wf ((State.writeBank s k l h served unserved)).mem = true := by simp -implicitDefEqProofs only [State.writeBank, State.hbmWrite_memWf, apply_ite Prod.fst, apply_ite State.mem, apply_ite Memory.wf, ite_self, implies_true, foldl_mem, foldl_fst_mem, foldl_memWf, foldl_fst_memWf, hw]

theorem State.settleBank_memWf (s : State) (k) (h) (e) (hw : Memory.wf (s).mem = true) : Memory.wf ((State.settleBank s k h e)).mem = true := by simp -implicitDefEqProofs only [State.settleBank, State.bump_mem, State.setBanks_mem, State.writeBank_memWf, apply_ite Prod.fst, apply_ite State.mem, apply_ite Memory.wf, ite_self, implies_true, foldl_mem, foldl_fst_mem, foldl_memWf, foldl_fst_memWf, hw]

theorem State.settleHold_memWf (s : State) (k h) (hw : Memory.wf s.mem = true) : Memory.wf (s.settleHold k h).mem = true := by
  have h1 : Memory.wf ((s.holdServed k h).foldl (fun s e => s.settleBank k h e) s).mem = true :=
    foldl_memWf _ (fun s e hs => State.settleBank_memWf s k h e hs) _ _ hw
  unfold State.settleHold
  simp only
  refine foldl_memWf _ (fun _ _ hs => State.raiseReady_memWf (hw := hs) ..) _ _ ?_
  rw [foldl_mem _ (fun _ _ => State.post_mem ..), State.modSlot_mem]
  exact h1

theorem State.settleX_memWf (s : State) (k) (xseq) (hw : Memory.wf (s).mem = true) : Memory.wf ((State.settleX s k xseq)).mem = true := by
  simp -implicitDefEqProofs only [State.settleX]
  repeat' split
  all_goals simp -implicitDefEqProofs only [State.settleHold_memWf, apply_ite Prod.fst, apply_ite State.mem, apply_ite Memory.wf, ite_self, implies_true, foldl_mem, foldl_fst_mem, foldl_memWf, foldl_fst_memWf, hw]

theorem State.storeScales_memWf (s : State) (w) (d) (hw : Memory.wf (s).mem = true) : Memory.wf ((State.storeScales s w d)).mem = true := by
  unfold State.storeScales
  repeat' split
  all_goals simp_all [State.partWrite_memWf, apply_ite Prod.fst, apply_ite State.mem, apply_ite Memory.wf, ite_self, implies_true, foldl_mem, foldl_fst_mem, foldl_memWf, foldl_fst_memWf]

theorem State.takePart_memWf (s : State) (w) (o) (mode) (q) (e) (taken) (hw : Memory.wf (s).mem = true) : Memory.wf ((State.takePart s w o mode q e taken).1).mem = true := by
  simp -implicitDefEqProofs only [State.takePart]
  repeat' split
  all_goals simp -implicitDefEqProofs only [State.hbmRead_mem, State.popWord_mem, State.popped_mem, State.writeRecords_memWf, apply_ite Prod.fst, apply_ite State.mem, apply_ite Memory.wf, ite_self, implies_true, foldl_mem, foldl_fst_mem, foldl_memWf, foldl_fst_memWf, hw]

theorem State.writeDrained_memWf (s : State) (w) (emu) (d) (a) (b) (head) (xs) (hw : Memory.wf (s).mem = true) : Memory.wf ((State.writeDrained s w emu d a b head xs).1).mem = true := by simp -implicitDefEqProofs only [State.writeDrained, State.partWrite_memWf, apply_ite Prod.fst, apply_ite State.mem, apply_ite Memory.wf, ite_self, implies_true, foldl_mem, foldl_fst_mem, foldl_memWf, foldl_fst_memWf, hw]

theorem State.writeSome_memWf (s : State) (w) (sp) (off) (bs) (hw : Memory.wf (s).mem = true) : Memory.wf ((State.writeSome s w sp off bs)).mem = true := by
  simp only [State.writeSome]
  repeat' (first | split | refine foldl_memWf _ (fun _ _ hs => ?_) _ _ ?_ | refine foldl_fst_memWf _ (fun _ _ hs => ?_) _ _ ?_)
  all_goals try (rename_i heq; simp only [Prod.ext_iff] at heq; obtain ⟨rfl, rfl⟩ := heq)
  all_goals simp_all -implicitDefEqProofs [State.spaceWrite_memWf, apply_ite Prod.fst, apply_ite State.mem, apply_ite Memory.wf, ite_self, implies_true, foldl_mem, foldl_fst_mem, foldl_memWf, foldl_fst_memWf]

theorem State.writeSomeRecords_memWf (s : State) (w) (d) (bs) (hw : Memory.wf (s).mem = true) : Memory.wf ((State.writeSomeRecords s w d bs)).mem = true := by
  unfold State.writeSomeRecords
  repeat' split
  all_goals simp_all [State.writeSome_memWf, apply_ite Prod.fst, apply_ite State.mem, apply_ite Memory.wf, ite_self, implies_true, foldl_mem, foldl_fst_mem, foldl_memWf, foldl_fst_memWf]

theorem State.writeSum_memWf (s : State) (w) (d) (vals) (hw : Memory.wf (s).mem = true) : Memory.wf ((State.writeSum s w d vals)).mem = true := by
  unfold State.writeSum
  repeat' split
  all_goals simp_all [State.partWrite_memWf, apply_ite Prod.fst, apply_ite State.mem, apply_ite Memory.wf, ite_self, implies_true, foldl_mem, foldl_fst_mem, foldl_memWf, foldl_fst_memWf]

theorem convertTensor_memWf (s : State) (w) (dx) (dy) (escq) (hw : Memory.wf (s).mem = true) : Memory.wf ((convertTensor s w dx dy escq).1).mem = true := by simp -implicitDefEqProofs only [convertTensor, State.mapTiles_memWf, apply_ite Prod.fst, apply_ite State.mem, apply_ite Memory.wf, ite_self, implies_true, foldl_mem, foldl_fst_mem, foldl_memWf, foldl_fst_memWf, hw]

theorem drainTiles_memWf (s : State) (w) (m) (da) (db) (dd) (de) (hw : Memory.wf (s).mem = true) : Memory.wf ((drainTiles s w m da db dd de).1).mem = true := by
  simp only [drainTiles]
  repeat' (first | split | refine foldl_memWf _ (fun _ _ hs => ?_) _ _ ?_ | refine foldl_fst_memWf _ (fun _ _ hs => ?_) _ _ ?_)
  all_goals try (rename_i heq; simp only [Prod.ext_iff] at heq; obtain ⟨rfl, rfl⟩ := heq)
  all_goals simp_all -implicitDefEqProofs [State.accCounted_mem, State.bump_mem, State.count_mem, State.writeDrained_memWf, apply_ite Prod.fst, apply_ite State.mem, apply_ite Memory.wf, ite_self, implies_true, foldl_mem, foldl_fst_mem, foldl_memWf, foldl_fst_memWf]

theorem execBlockAbort_memWf (r) (tid) (xfer) (s : State) (t) (e : execBlockAbort r tid xfer s = .next t) (hw : Memory.wf (s).mem = true) : Memory.wf (t).mem = true := by
  simp -implicitDefEqProofs only [execBlockAbort] at e
  (repeat' split at e) <;> first | (injection e with e; subst e; simp -implicitDefEqProofs only [State.request_memWf, apply_ite Prod.fst, apply_ite State.mem, apply_ite Memory.wf, ite_self, implies_true, foldl_mem, foldl_fst_mem, foldl_memWf, foldl_fst_memWf, hw]) | cases e

theorem execBlockReadSeg_memWf (r) (tid) (xfer) (offset) (len) (s : State) (t) (e : execBlockReadSeg r tid xfer offset len s = .next t) (hw : Memory.wf (s).mem = true) : Memory.wf (t).mem = true := by
  simp -implicitDefEqProofs only [execBlockReadSeg] at e
  (repeat' split at e) <;> first | (injection e with e; subst e; simp -implicitDefEqProofs only [State.request_memWf, apply_ite Prod.fst, apply_ite State.mem, apply_ite Memory.wf, ite_self, implies_true, foldl_mem, foldl_fst_mem, foldl_memWf, foldl_fst_memWf, hw]) | cases e

theorem execBlockReadStart_memWf (r) (tid) (index) (sub) (s : State) (t) (e : execBlockReadStart r tid index sub s = .next t) (hw : Memory.wf (s).mem = true) : Memory.wf (t).mem = true := by
  simp -implicitDefEqProofs only [execBlockReadStart] at e
  (repeat' split at e) <;> first | (injection e with e; subst e; simp -implicitDefEqProofs only [State.request_memWf, apply_ite Prod.fst, apply_ite State.mem, apply_ite Memory.wf, ite_self, implies_true, foldl_mem, foldl_fst_mem, foldl_memWf, foldl_fst_memWf, hw]) | cases e

theorem execBlockWriteEnd_memWf (r) (tid) (xfer) (crc) (s : State) (t) (e : execBlockWriteEnd r tid xfer crc s = .next t) (hw : Memory.wf (s).mem = true) : Memory.wf (t).mem = true := by
  simp -implicitDefEqProofs only [execBlockWriteEnd] at e
  (repeat' split at e) <;> first | (injection e with e; subst e; simp -implicitDefEqProofs only [State.request_memWf, apply_ite Prod.fst, apply_ite State.mem, apply_ite Memory.wf, ite_self, implies_true, foldl_mem, foldl_fst_mem, foldl_memWf, foldl_fst_memWf, hw]) | cases e

theorem execBlockWriteSeg_memWf (r) (tid) (xfer) (offset) (bytes) (s : State) (t) (e : execBlockWriteSeg r tid xfer offset bytes s = .next t) (hw : Memory.wf (s).mem = true) : Memory.wf (t).mem = true := by
  simp -implicitDefEqProofs only [execBlockWriteSeg] at e
  (repeat' split at e) <;> first | (injection e with e; subst e; simp -implicitDefEqProofs only [State.request_memWf, apply_ite Prod.fst, apply_ite State.mem, apply_ite Memory.wf, ite_self, implies_true, foldl_mem, foldl_fst_mem, foldl_memWf, foldl_fst_memWf, hw]) | cases e

theorem execBlockWriteStart_memWf (r) (tid) (index) (sub) (size) (s : State) (t) (e : execBlockWriteStart r tid index sub size s = .next t) (hw : Memory.wf (s).mem = true) : Memory.wf (t).mem = true := by
  simp -implicitDefEqProofs only [execBlockWriteStart] at e
  (repeat' split at e) <;> first | (injection e with e; subst e; simp -implicitDefEqProofs only [State.request_memWf, apply_ite Prod.fst, apply_ite State.mem, apply_ite Memory.wf, ite_self, implies_true, foldl_mem, foldl_fst_mem, foldl_memWf, foldl_fst_memWf, hw]) | cases e

theorem execColdReset_memWf (powerOn) (railInRange) (s : State) (t) (e : execColdReset powerOn railInRange s = .next t) (hw : Memory.wf (s).mem = true) : Memory.wf (t).mem = true := by
  simp -implicitDefEqProofs only [execColdReset] at e
  (repeat' split at e) <;> first | (injection e with e; subst e; simp -implicitDefEqProofs only [State.coldReset_memWf, apply_ite Prod.fst, apply_ite State.mem, apply_ite Memory.wf, ite_self, implies_true, foldl_mem, foldl_fst_mem, foldl_memWf, foldl_fst_memWf, hw]) | cases e

theorem execColdStart_memWf (i) (s : State) (t) (e : execColdStart i s = .next t) (hw : Memory.wf (s).mem = true) : Memory.wf (t).mem = true := by
  simp -implicitDefEqProofs only [execColdStart] at e
  (repeat' split at e) <;> first | (injection e with e; subst e; simp -implicitDefEqProofs only [State.coldStart_memWf, apply_ite Prod.fst, apply_ite State.mem, apply_ite Memory.wf, ite_self, implies_true, foldl_mem, foldl_fst_mem, foldl_memWf, foldl_fst_memWf, hw]) | cases e

theorem execContextCmdDone_memWf (n) (x) (s : State) (t) (e : execContextCmdDone n x s = .next t) (hw : Memory.wf (s).mem = true) : Memory.wf (t).mem = true := by
  simp -implicitDefEqProofs only [execContextCmdDone] at e
  (repeat' split at e) <;> first | (injection e with e; subst e; simp -implicitDefEqProofs only [State.ctxDone_memWf, apply_ite Prod.fst, apply_ite State.mem, apply_ite Memory.wf, ite_self, implies_true, foldl_mem, foldl_fst_mem, foldl_memWf, foldl_fst_memWf, hw]) | cases e

theorem execCoreDisableDone_memWf (core) (s : State) (t) (e : execCoreDisableDone core s = .next t) (hw : Memory.wf (s).mem = true) : Memory.wf (t).mem = true := by
  simp -implicitDefEqProofs only [execCoreDisableDone] at e
  (repeat' split at e) <;> first | (injection e with e; subst e; simp -implicitDefEqProofs only [State.coreDisabled_mem, State.resumeAll_memWf, apply_ite Prod.fst, apply_ite State.mem, apply_ite Memory.wf, ite_self, implies_true, foldl_mem, foldl_fst_mem, foldl_memWf, foldl_fst_memWf, hw]) | cases e

theorem execDescribe_memWf (r) (tid) (index) (sub) (s : State) (t) (e : execDescribe r tid index sub s = .next t) (hw : Memory.wf (s).mem = true) : Memory.wf (t).mem = true := by
  simp -implicitDefEqProofs only [execDescribe] at e
  (repeat' split at e) <;> first | (injection e with e; subst e; simp -implicitDefEqProofs only [State.request_memWf, apply_ite Prod.fst, apply_ite State.mem, apply_ite Memory.wf, ite_self, implies_true, foldl_mem, foldl_fst_mem, foldl_memWf, foldl_fst_memWf, hw]) | cases e

theorem execDorubRead_memWf (r) (tid) (index) (sub) (s : State) (t) (e : execDorubRead r tid index sub s = .next t) (hw : Memory.wf (s).mem = true) : Memory.wf (t).mem = true := by
  simp -implicitDefEqProofs only [execDorubRead, State.enveloped] at e
  (repeat' split at e) <;> first | (injection e with e; subst e; simp -implicitDefEqProofs only [State.fecIn_mem, State.frameDiscard_mem, State.bump_mem, State.request_memWf, apply_ite Prod.fst, apply_ite State.mem, apply_ite Memory.wf, ite_self, implies_true, foldl_mem, foldl_fst_mem, foldl_memWf, foldl_fst_memWf, hw]) | cases e

theorem execDorubWrite_memWf (r) (tid) (index) (sub) (value) (s : State) (t) (e : execDorubWrite r tid index sub value s = .next t) (hw : Memory.wf (s).mem = true) : Memory.wf (t).mem = true := by
  simp -implicitDefEqProofs only [execDorubWrite] at e
  (repeat' split at e) <;> first | (injection e with e; subst e; simp -implicitDefEqProofs only [State.request_memWf, apply_ite Prod.fst, apply_ite State.mem, apply_ite Memory.wf, ite_self, implies_true, foldl_mem, foldl_fst_mem, foldl_memWf, foldl_fst_memWf, hw]) | cases e

theorem execEraseDone_memWf (s : State) (t) (e : execEraseDone s = .next t) (hw : Memory.wf (s).mem = true) : Memory.wf (t).mem = true := by
  simp -implicitDefEqProofs only [execEraseDone] at e
  (repeat' split at e) <;> first | (injection e with e; subst e; simp -implicitDefEqProofs only [State.eraseDone_memWf, State.resumeAll_memWf, apply_ite Prod.fst, apply_ite State.mem, apply_ite Memory.wf, ite_self, implies_true, foldl_mem, foldl_fst_mem, foldl_memWf, foldl_fst_memWf, hw]) | cases e

theorem execExchDelivery_memWf (d) (s : State) (t) (e : execExchDelivery d s = .next t) (hw : Memory.wf (s).mem = true) : Memory.wf (t).mem = true := by
  simp -implicitDefEqProofs only [execExchDelivery, whenUp] at e
  (repeat' split at e) <;> first | (injection e with e; subst e; simp -implicitDefEqProofs only [State.deliver_memWf, apply_ite Prod.fst, apply_ite State.mem, apply_ite Memory.wf, ite_self, implies_true, foldl_mem, foldl_fst_mem, foldl_memWf, foldl_fst_memWf, hw]) | cases e

theorem execExchPartial_memWf (slot) (p) (s : State) (t) (e : execExchPartial slot p s = .next t) (hw : Memory.wf (s).mem = true) : Memory.wf (t).mem = true := by
  simp -implicitDefEqProofs only [execExchPartial, onSlot] at e
  (repeat' split at e) <;> first | (injection e with e; subst e; simp -implicitDefEqProofs only [State.gotPartial_memWf, apply_ite Prod.fst, apply_ite State.mem, apply_ite Memory.wf, ite_self, implies_true, foldl_mem, foldl_fst_mem, foldl_memWf, foldl_fst_memWf, hw]) | cases e

theorem execExpertReturn_memWf (slot) (m) (s : State) (t) (e : execExpertReturn slot m s = .next t) (hw : Memory.wf (s).mem = true) : Memory.wf (t).mem = true := by
  simp -implicitDefEqProofs only [execExpertReturn, onSlot] at e
  (repeat' split at e) <;> first | (injection e with e; subst e; simp -implicitDefEqProofs only [State.gotReturn_memWf, apply_ite Prod.fst, apply_ite State.mem, apply_ite Memory.wf, ite_self, implies_true, foldl_mem, foldl_fst_mem, foldl_memWf, foldl_fst_memWf, hw]) | cases e

theorem execExpertSettle_memWf (slot) (xseq) (s : State) (t) (e : execExpertSettle slot xseq s = .next t) (hw : Memory.wf (s).mem = true) : Memory.wf (t).mem = true := by
  simp -implicitDefEqProofs only [execExpertSettle, onSlot] at e
  (repeat' split at e) <;> first | (injection e with e; subst e; simp -implicitDefEqProofs only [State.settleX_memWf, apply_ite Prod.fst, apply_ite State.mem, apply_ite Memory.wf, ite_self, implies_true, foldl_mem, foldl_fst_mem, foldl_memWf, foldl_fst_memWf, hw]) | cases e

theorem execFactorPart_memWf (slot) (p) (s : State) (t) (e : execFactorPart slot p s = .next t) (hw : Memory.wf (s).mem = true) : Memory.wf (t).mem = true := by
  simp -implicitDefEqProofs only [execFactorPart, onSlot] at e
  (repeat' split at e) <;> first | (injection e with e; subst e; simp -implicitDefEqProofs only [State.gotFactor_memWf, apply_ite Prod.fst, apply_ite State.mem, apply_ite Memory.wf, ite_self, implies_true, foldl_mem, foldl_fst_mem, foldl_memWf, foldl_fst_memWf, hw]) | cases e

theorem execJortoAck_memWf (m) (s : State) (t) (e : execJortoAck m s = .next t) (hw : Memory.wf (s).mem = true) : Memory.wf (t).mem = true := by
  simp -implicitDefEqProofs only [execJortoAck, onJorto] at e
  (repeat' split at e) <;> first | (injection e with e; subst e; simp -implicitDefEqProofs only [State.jortoAck_memWf, State.fecIn_mem, State.frameDiscard_mem, apply_ite Prod.fst, apply_ite State.mem, apply_ite Memory.wf, ite_self, implies_true, foldl_mem, foldl_fst_mem, foldl_memWf, foldl_fst_memWf, hw]) | cases e

theorem execJortoClose_memWf (m) (s : State) (t) (e : execJortoClose m s = .next t) (hw : Memory.wf (s).mem = true) : Memory.wf (t).mem = true := by
  simp -implicitDefEqProofs only [execJortoClose, onJorto] at e
  (repeat' split at e) <;> first | (injection e with e; subst e; simp -implicitDefEqProofs only [State.sequenced_memWf, State.fecIn_mem, State.frameDiscard_mem, apply_ite Prod.fst, apply_ite State.mem, apply_ite Memory.wf, ite_self, implies_true, foldl_mem, foldl_fst_mem, foldl_memWf, foldl_fst_memWf, hw]) | cases e

theorem execJortoReadReq_memWf (m) (s : State) (t) (e : execJortoReadReq m s = .next t) (hw : Memory.wf (s).mem = true) : Memory.wf (t).mem = true := by
  simp -implicitDefEqProofs only [execJortoReadReq, onJorto] at e
  (repeat' split at e) <;> first | (injection e with e; subst e; simp -implicitDefEqProofs only [State.sequenced_memWf, State.fecIn_mem, State.frameDiscard_mem, apply_ite Prod.fst, apply_ite State.mem, apply_ite Memory.wf, ite_self, implies_true, foldl_mem, foldl_fst_mem, foldl_memWf, foldl_fst_memWf, hw]) | cases e

theorem execJortoWrite_memWf (m) (s : State) (t) (e : execJortoWrite m s = .next t) (hw : Memory.wf (s).mem = true) : Memory.wf (t).mem = true := by
  simp -implicitDefEqProofs only [execJortoWrite, onJorto] at e
  (repeat' split at e) <;> first | (injection e with e; subst e; simp -implicitDefEqProofs only [State.sequenced_memWf, State.fecIn_mem, State.frameDiscard_mem, apply_ite Prod.fst, apply_ite State.mem, apply_ite Memory.wf, ite_self, implies_true, foldl_mem, foldl_fst_mem, foldl_memWf, foldl_fst_memWf, hw]) | cases e

theorem mdrainBody_memWf (s : State) (w) (o) (hw : Memory.wf (s).mem = true) : Memory.wf ((mdrainBody s w o).1).mem = true := by simp -implicitDefEqProofs only [mdrainBody, drainTiles_memWf, apply_ite Prod.fst, apply_ite State.mem, apply_ite Memory.wf, ite_self, implies_true, foldl_mem, foldl_fst_mem, foldl_memWf, foldl_fst_memWf, hw]

theorem runCore_memWf (n x k o body) (s t : State) (e : runCore n x k o body s = .next t) (hf : ∀ s w o, Memory.wf (s).mem = true → Memory.wf ((body s w o).1).mem = true)
    (hw : Memory.wf (s).mem = true) : Memory.wf (t).mem = true := by
  unfold runCore at e; split at e <;> injection e with e <;> subst e
  · exact State.runOp_memWf _ _ _ _ _ _ hf hw
  · exact hw

theorem execMdrain_memWf (n) (x) (s : State) (t) (e : execMdrain n x s = .next t) (hw : Memory.wf (s).mem = true) : Memory.wf (t).mem = true := by grind [execMdrain, mdrainBody_memWf, runCore_memWf]

theorem mmulBody_memWf (s : State) (w) (o) (hw : Memory.wf (s).mem = true) : Memory.wf ((mmulBody s w o).1).mem = true := by simp -implicitDefEqProofs only [mmulBody, drainTiles_memWf, mmulTiles_mem, apply_ite Prod.fst, apply_ite State.mem, apply_ite Memory.wf, ite_self, implies_true, foldl_mem, foldl_fst_mem, foldl_memWf, foldl_fst_memWf, hw]

theorem execMmul_memWf (n) (x) (s : State) (t) (e : execMmul n x s = .next t) (hw : Memory.wf (s).mem = true) : Memory.wf (t).mem = true := by grind [execMmul, mmulBody_memWf, runCore_memWf]

theorem execMultiWrite_memWf (r) (tid) (entries) (s : State) (t) (e : execMultiWrite r tid entries s = .next t) (hw : Memory.wf (s).mem = true) : Memory.wf (t).mem = true := by
  simp -implicitDefEqProofs only [execMultiWrite] at e
  (repeat' split at e) <;> first | (injection e with e; subst e; simp -implicitDefEqProofs only [State.request_memWf, apply_ite Prod.fst, apply_ite State.mem, apply_ite Memory.wf, ite_self, implies_true, foldl_mem, foldl_fst_mem, foldl_memWf, foldl_fst_memWf, hw]) | cases e

theorem execPacketReceive_memWf (n) (s : State) (t) (e : execPacketReceive n s = .next t) (hw : Memory.wf (s).mem = true) : Memory.wf (t).mem = true := by
  simp -implicitDefEqProofs only [execPacketReceive] at e
  (repeat' split at e) <;> first | (injection e with e; subst e; simp -implicitDefEqProofs only [State.receive_memWf, apply_ite Prod.fst, apply_ite State.mem, apply_ite Memory.wf, ite_self, implies_true, foldl_mem, foldl_fst_mem, foldl_memWf, foldl_fst_memWf, hw]) | cases e

theorem qpopBody_memWf (s : State) (w) (o) (hw : Memory.wf (s).mem = true) : Memory.wf ((qpopBody s w o).1).mem = true := by
  simp -implicitDefEqProofs only [qpopBody]
  repeat' split
  all_goals simp -implicitDefEqProofs only [State.decide_mem, State.modSlot_mem, State.popWord_mem, State.takePart_memWf, apply_ite Prod.fst, apply_ite State.mem, apply_ite Memory.wf, ite_self, implies_true, foldl_mem, foldl_fst_mem, foldl_memWf, foldl_fst_memWf, hw]

theorem execQpop_memWf (n) (x) (s : State) (t) (e : execQpop n x s = .next t) (hw : Memory.wf (s).mem = true) : Memory.wf (t).mem = true := by grind [execQpop, qpopBody_memWf, runCore_memWf]

theorem execQueuePart_memWf (q) (s : State) (t) (e : execQueuePart q s = .next t) (hw : Memory.wf (s).mem = true) : Memory.wf (t).mem = true := by
  simp -implicitDefEqProofs only [execQueuePart, onSlot] at e
  (repeat' split at e) <;> first | (injection e with e; subst e; simp -implicitDefEqProofs only [State.placePart_memWf, apply_ite Prod.fst, apply_ite State.mem, apply_ite Memory.wf, ite_self, implies_true, foldl_mem, foldl_fst_mem, foldl_memWf, foldl_fst_memWf, hw]) | cases e

theorem execReshardTransfer_memWf (core) (rid) (off) (bytes) (s : State) (t) (e : execReshardTransfer core rid off bytes s = .next t) (hw : Memory.wf (s).mem = true) : Memory.wf (t).mem = true := by
  simp -implicitDefEqProofs only [execReshardTransfer, onCore] at e
  (repeat' split at e) <;> first | (injection e with e; subst e; simp -implicitDefEqProofs only [State.gotTransfer_memWf, apply_ite Prod.fst, apply_ite State.mem, apply_ite Memory.wf, ite_self, implies_true, foldl_mem, foldl_fst_mem, foldl_memWf, foldl_fst_memWf, hw]) | cases e

theorem scpyBody_memWf (s : State) (w) (o) (hw : Memory.wf (s).mem = true) : Memory.wf ((scpyBody s w o).1).mem = true := by
  simp -implicitDefEqProofs only [scpyBody]
  repeat' split
  all_goals simp -implicitDefEqProofs only [State.spaceReads_mem, State.spaceWrite_memWf, State.unspecified_mem, State.writeSome_memWf, apply_ite Prod.fst, apply_ite State.mem, apply_ite Memory.wf, ite_self, implies_true, foldl_mem, foldl_fst_mem, foldl_memWf, foldl_fst_memWf, hw]

theorem execScpy_memWf (n) (x) (s : State) (t) (e : execScpy n x s = .next t) (hw : Memory.wf (s).mem = true) : Memory.wf (t).mem = true := by grind [execScpy, runCore_memWf, scpyBody_memWf]

theorem execSettle_memWf (slot) (m) (s : State) (t) (e : execSettle slot m s = .next t) (hw : Memory.wf (s).mem = true) : Memory.wf (t).mem = true := by
  simp -implicitDefEqProofs only [execSettle, onSlot] at e
  (repeat' split at e) <;> first | (injection e with e; subst e; simp -implicitDefEqProofs only [State.gotSettle_memWf, apply_ite Prod.fst, apply_ite State.mem, apply_ite Memory.wf, ite_self, implies_true, foldl_mem, foldl_fst_mem, foldl_memWf, foldl_fst_memWf, hw]) | cases e

theorem gated_memWf (body s w o) (hf : ∀ s w o, Memory.wf (s).mem = true → Memory.wf ((body s w o).1).mem = true) (hw : Memory.wf (s).mem = true) : Memory.wf ((gated body s w o).1).mem = true := by
  unfold gated; split <;> simp only [hf, hw, State.staleExch_mem]

theorem smcastBody_memWf (s : State) (w) (o) (hw : Memory.wf (s).mem = true) : Memory.wf ((smcastBody s w o).1).mem = true := by
  simp -implicitDefEqProofs only [smcastBody]
  repeat' split
  all_goals simp -implicitDefEqProofs only [State.deliver_memWf, State.recordReads_mem, State.startStages_mem, apply_ite Prod.fst, apply_ite State.mem, apply_ite Memory.wf, ite_self, implies_true, foldl_mem, foldl_fst_mem, foldl_memWf, foldl_fst_memWf, hw]

theorem execSmcast_memWf (n) (x) (s : State) (t) (e : execSmcast n x s = .next t) (hw : Memory.wf (s).mem = true) : Memory.wf (t).mem = true := by grind [execSmcast, gated_memWf, runCore_memWf, smcastBody_memWf]

theorem smovBody_memWf (s : State) (w) (o) (hw : Memory.wf (s).mem = true) : Memory.wf ((smovBody s w o).1).mem = true := by
  simp -implicitDefEqProofs only [smovBody]
  repeat' split
  all_goals simp -implicitDefEqProofs only [State.recordReads_mem, State.unspecified_mem, State.writeRecords_memWf, State.writeSomeRecords_memWf, apply_ite Prod.fst, apply_ite State.mem, apply_ite Memory.wf, ite_self, implies_true, foldl_mem, foldl_fst_mem, foldl_memWf, foldl_fst_memWf, hw]

theorem execSmov_memWf (n) (x) (s : State) (t) (e : execSmov n x s = .next t) (hw : Memory.wf (s).mem = true) : Memory.wf (t).mem = true := by grind [execSmov, runCore_memWf, smovBody_memWf]

theorem sreduceDense_memWf (s : State) (w o g) (hw : Memory.wf s.mem = true) : Memory.wf (sreduceDense s w o g).1.mem = true := by
  have hx (s : State) (h : Memory.wf s.mem = true) (emu d) : Memory.wf (s.elems32 w emu d).1.mem = true := by rw [State.elems32_mem]; exact h
  have hs (s : State) (h : Memory.wf s.mem = true) (p : State × Bool)
      (e : p = (s, true) ∨ ∃ emu sb8 att d, p = (match (s.elems32 w emu d).1.leaf g emu sb8 att (s.elems32 w emu d).2 with
        | (s, none) => (s, false)
        | (s, some p) => ((s.note (g.report 3)).climb g.slot 18 p, true))) : Memory.wf p.1.mem = true := by
    obtain e | ⟨emu, sb8, att, d, e⟩ := e
    · rw [e]; exact h
    · rw [e]
      have hl := State.leaf_memWf (hw := hx s h emu d) _ g emu sb8 att (s.elems32 w emu d).2
      split
      · next e => exact fst_memWf e hl
      · next e => exact State.climb_memWf (hw := by rw [State.note_mem]; exact fst_memWf e hl) ..
  unfold sreduceDense
  extract_lets att owner d1 emu sent want sb8 t xs
  split
  · exact hw
  · split
    · exact hw
    · split
      next s' ok e =>
      have h' : Memory.wf s'.mem = true := by
        refine fst_memWf e.symm.symm ?_
        split
        · exact hw
        · refine hs t ?_ _ (.inr ⟨emu, sb8, att, d1, rfl⟩)
          show Memory.wf (if _ then _ else s).mem = true
          split
          · rw [State.bump_mem]; exact hw
          · exact hw
      split
      · exact h'
      · split
        · exact h'
        · split
          · exact h'
          · rw [State.note_mem]; exact State.writeSum_memWf (hw := h') ..

theorem sreduceFactor_memWf (s : State) (w) (o) (g) (hw : Memory.wf (s).mem = true) : Memory.wf ((sreduceFactor s w o g).1).mem = true := by simp -implicitDefEqProofs only [sreduceFactor, State.note_mem, State.sendFactor_memWf, apply_ite Prod.fst, apply_ite State.mem, apply_ite Memory.wf, ite_self, implies_true, foldl_mem, foldl_fst_mem, foldl_memWf, foldl_fst_memWf, hw]

theorem sreduceBody_memWf (s : State) (w) (o) (hw : Memory.wf (s).mem = true) : Memory.wf ((sreduceBody s w o).1).mem = true := by
  simp -implicitDefEqProofs only [sreduceBody]
  repeat' split
  all_goals simp -implicitDefEqProofs only [sreduceDense_memWf, sreduceFactor_memWf, apply_ite Prod.fst, apply_ite State.mem, apply_ite Memory.wf, ite_self, implies_true, foldl_mem, foldl_fst_mem, foldl_memWf, foldl_fst_memWf, hw]

theorem execSreduce_memWf (n) (x) (s : State) (t) (e : execSreduce n x s = .next t) (hw : Memory.wf (s).mem = true) : Memory.wf (t).mem = true := by grind [execSreduce, gated_memWf, runCore_memWf, sreduceBody_memWf]

theorem execStepDoorbell_memWf (m) (s : State) (t) (e : execStepDoorbell m s = .next t) (hw : Memory.wf (s).mem = true) : Memory.wf (t).mem = true := by
  simp -implicitDefEqProofs only [execStepDoorbell, onJorto] at e
  (repeat' split at e) <;> first | (injection e with e; subst e; simp -implicitDefEqProofs only [State.sequenced_memWf, State.fecIn_mem, State.frameDiscard_mem, apply_ite Prod.fst, apply_ite State.mem, apply_ite Memory.wf, ite_self, implies_true, foldl_mem, foldl_fst_mem, foldl_memWf, foldl_fst_memWf, hw]) | cases e

theorem vcvtBody_memWf (s : State) (w) (o) (hw : Memory.wf (s).mem = true) : Memory.wf ((vcvtBody s w o).1).mem = true := by simp -implicitDefEqProofs only [vcvtBody, convertTensor_memWf, apply_ite Prod.fst, apply_ite State.mem, apply_ite Memory.wf, ite_self, implies_true, foldl_mem, foldl_fst_mem, foldl_memWf, foldl_fst_memWf, hw]

theorem execVcvt_memWf (n) (x) (s : State) (t) (e : execVcvt n x s = .next t) (hw : Memory.wf (s).mem = true) : Memory.wf (t).mem = true := by grind [execVcvt, runCore_memWf, vcvtBody_memWf]

theorem vdtabBody_memWf (s : State) (w) (o) (hw : Memory.wf (s).mem = true) : Memory.wf ((vdtabBody s w o).1).mem = true := by
  simp -implicitDefEqProofs only [vdtabBody]
  repeat' split
  all_goals simp -implicitDefEqProofs only [State.bump_mem, State.mapTiles_memWf, apply_ite Prod.fst, apply_ite State.mem, apply_ite Memory.wf, ite_self, implies_true, foldl_mem, foldl_fst_mem, foldl_memWf, foldl_fst_memWf, hw]

theorem execVdtab_memWf (n) (x) (s : State) (t) (e : execVdtab n x s = .next t) (hw : Memory.wf (s).mem = true) : Memory.wf (t).mem = true := by grind [execVdtab, runCore_memWf, vdtabBody_memWf]

theorem vencBody_memWf (s : State) (w) (o) (hw : Memory.wf (s).mem = true) : Memory.wf ((vencBody s w o).1).mem = true := by simp -implicitDefEqProofs only [vencBody, State.storeScales_memWf, convertTensor_memWf, apply_ite Prod.fst, apply_ite State.mem, apply_ite Memory.wf, ite_self, implies_true, foldl_mem, foldl_fst_mem, foldl_memWf, foldl_fst_memWf, hw]

theorem execVenc_memWf (n) (x) (s : State) (t) (e : execVenc n x s = .next t) (hw : Memory.wf (s).mem = true) : Memory.wf (t).mem = true := by grind [execVenc, runCore_memWf, vencBody_memWf]

theorem vewBody_memWf (s : State) (w) (o) (hw : Memory.wf (s).mem = true) : Memory.wf ((vewBody s w o).1).mem = true := by simp -implicitDefEqProofs only [vewBody, State.mapTiles_memWf, apply_ite Prod.fst, apply_ite State.mem, apply_ite Memory.wf, ite_self, implies_true, foldl_mem, foldl_fst_mem, foldl_memWf, foldl_fst_memWf, hw]

theorem execVew_memWf (n) (x) (s : State) (t) (e : execVew n x s = .next t) (hw : Memory.wf (s).mem = true) : Memory.wf (t).mem = true := by grind [execVew, runCore_memWf, vewBody_memWf]

theorem optTile_memWf (s : State) (p) (am2) (k) (l) (dx) (dy) (q) (a) (b) (hw : Memory.wf (s).mem = true) : Memory.wf ((optTile s p am2 k l dx dy q a b).1).mem = true := by simp -implicitDefEqProofs only [optTile, State.optStore_memWf, State.readCount_mem, apply_ite Prod.fst, apply_ite State.mem, apply_ite Memory.wf, ite_self, implies_true, foldl_mem, foldl_fst_mem, foldl_memWf, foldl_fst_memWf, hw]

theorem voptBody_memWf (s : State) (w) (o) (hw : Memory.wf (s).mem = true) : Memory.wf ((voptBody s w o).1).mem = true := by
  simp only [voptBody]
  repeat' (first | split | refine foldl_memWf _ (fun _ _ hs => ?_) _ _ ?_ | refine foldl_fst_memWf _ (fun _ _ hs => ?_) _ _ ?_)
  all_goals try (rename_i heq; simp only [Prod.ext_iff] at heq; obtain ⟨rfl, rfl⟩ := heq)
  all_goals simp_all -implicitDefEqProofs [State.modCtx_mem, optTile_memWf, apply_ite Prod.fst, apply_ite State.mem, apply_ite Memory.wf, ite_self, implies_true, foldl_mem, foldl_fst_mem, foldl_memWf, foldl_fst_memWf]

theorem execVopt_memWf (n) (x) (s : State) (t) (e : execVopt n x s = .next t) (hw : Memory.wf (s).mem = true) : Memory.wf (t).mem = true := by grind [execVopt, runCore_memWf, voptBody_memWf]

theorem redPass_memWf (w fn axis dx dy dz) (p : State × Byte × RedTiles) (ab) (hw : Memory.wf p.1.mem = true) :
    Memory.wf (redPass w fn axis dx dy dz p ab).1.mem = true := by
  have hr (t : State) (h : Memory.wf t.mem = true) (a b r) : Memory.wf (t.redWrite w axis dy a b r).1.mem = true :=
    State.redWrite_memWf (hw := h) ..
  unfold redPass
  dsimp only
  split
  · split
    · rw [State.readCount_mem, State.readCount_mem]; exact hw
    · rw [State.readCount_mem]; exact hw
  · split
    · apply hr; rw [State.readCount_mem, State.readCount_mem]; exact hw
    · apply hr; rw [State.readCount_mem]; exact hw

theorem vredBody_memWf (s : State) (w) (o) (hw : Memory.wf (s).mem = true) : Memory.wf ((vredBody s w o).1).mem = true := by
  unfold vredBody
  repeat' split
  all_goals simp_all [redPass_memWf, apply_ite Prod.fst, apply_ite State.mem, apply_ite Memory.wf, ite_self, implies_true, foldl_mem, foldl_fst_mem, foldl_memWf, foldl_fst_memWf]

theorem execVred_memWf (n) (x) (s : State) (t) (e : execVred n x s = .next t) (hw : Memory.wf (s).mem = true) : Memory.wf (t).mem = true := by grind [execVred, runCore_memWf, vredBody_memWf]

theorem vrngBody_memWf (s : State) (w) (o) (hw : Memory.wf (s).mem = true) : Memory.wf ((vrngBody s w o).1).mem = true := by simp -implicitDefEqProofs only [vrngBody, State.mapTiles_memWf, apply_ite Prod.fst, apply_ite State.mem, apply_ite Memory.wf, ite_self, implies_true, foldl_mem, foldl_fst_mem, foldl_memWf, foldl_fst_memWf, hw]

theorem execVrng_memWf (n) (x) (s : State) (t) (e : execVrng n x s = .next t) (hw : Memory.wf (s).mem = true) : Memory.wf (t).mem = true := by grind [execVrng, runCore_memWf, vrngBody_memWf]

theorem scanTensor_memWf (s : State) (w) (d) (off) (hw : Memory.wf (s).mem = true) : Memory.wf ((scanTensor s w d off).1).mem = true := by
  unfold scanTensor
  repeat' split
  all_goals simp_all [State.badTile_mem, State.partWrite_memWf, apply_ite Prod.fst, apply_ite State.mem, apply_ite Memory.wf, ite_self, implies_true, foldl_mem, foldl_fst_mem, foldl_memWf, foldl_fst_memWf]

theorem vscanBody_memWf (s : State) (w) (o) (hw : Memory.wf (s).mem = true) : Memory.wf ((vscanBody s w o).1).mem = true := by simp -implicitDefEqProofs only [vscanBody, State.count_mem, deriveEntries_mem, scanTensor_memWf, apply_ite Prod.fst, apply_ite State.mem, apply_ite Memory.wf, ite_self, implies_true, foldl_mem, foldl_fst_mem, foldl_memWf, foldl_fst_memWf, hw]

theorem execVscan_memWf (n) (x) (s : State) (t) (e : execVscan n x s = .next t) (hw : Memory.wf (s).mem = true) : Memory.wf (t).mem = true := by grind [execVscan, runCore_memWf, vscanBody_memWf]

theorem execWordDoorbell_memWf (m) (s : State) (t) (e : execWordDoorbell m s = .next t) (hw : Memory.wf (s).mem = true) : Memory.wf (t).mem = true := by
  simp -implicitDefEqProofs only [execWordDoorbell, onJorto] at e
  (repeat' split at e) <;> first | (injection e with e; subst e; simp -implicitDefEqProofs only [State.sequenced_memWf, State.fecIn_mem, State.frameDiscard_mem, apply_ite Prod.fst, apply_ite State.mem, apply_ite Memory.wf, ite_self, implies_true, foldl_mem, foldl_fst_mem, foldl_memWf, foldl_fst_memWf, hw]) | cases e

theorem xcombBody_memWf (s : State) (w) (o) (hw : Memory.wf (s).mem = true) : Memory.wf ((xcombBody s w o).1).mem = true := by
  unfold xcombBody
  extract_lets k off d1 d2 h rd cs t r ret
  have ht : t.1.mem = s.mem := by
    simp only [t]; split
    · rw [State.tableReads_mem]
    · rfl
  have hr : r.1.mem = s.mem := by
    simp only [r]; split
    · rw [State.recordReads_mem, ht]
    · rfl
  iterate 8
    split
    · exact hw
  split
  · exact memWf_pair _ _ (by rw [State.unspecified_mem]; exact State.writeSomeRecords_memWf (hw := by rw [hr]; exact hw) ..)
  · extract_lets res p c q
    have hp : p.mem = s.mem := by
      simp only [p]; split
      · rw [State.widenCounts_mem, hr]
      · exact hr
    exact memWf_pair _ _ (State.writeRecords_memWf (hw := by rw [State.count_mem, State.widenCounts_mem, hp]; exact hw) ..)

theorem execXcomb_memWf (n) (x) (s : State) (t) (e : execXcomb n x s = .next t) (hw : Memory.wf (s).mem = true) : Memory.wf (t).mem = true := by grind [execXcomb, runCore_memWf, xcombBody_memWf]

theorem xdispBody_memWf (s : State) (w) (o) (hw : Memory.wf (s).mem = true) : Memory.wf ((xdispBody s w o).1).mem = true := by grind [xdispBody, State.dispatchRows_memWf, State.plainRows_mem, State.returnRows_mem]

theorem execXdisp_memWf (n) (x) (s : State) (t) (e : execXdisp n x s = .next t) (hw : Memory.wf (s).mem = true) : Memory.wf (t).mem = true := by grind [execXdisp, runCore_memWf, xdispBody_memWf]

end Sys2Proof.Machine
end

