-- ==== Sys2Proof/Tests/Slice0.lean ====
section
/-! SUPPORT. The model's own tests: ill-formed commands that well-formedness refuses, and for each statement a state and operands that
meet its hypotheses. Expected values are worked out from spec/. -/

open Sys2Proof
open Sys2Proof.Machine

set_option Elab.async false

namespace Tests

/-! ### Well-formedness: one ill-formed command for each check -/

theorem test_wf_core : (Instr.addR 96 0 0 0).wf .tp4 = false := by decide
theorem test_wf_core_tp2 : (Instr.mzero 48 .crown).wf .tp2 = false := by decide
theorem test_wf_slot : (Instr.slotEnable 16).wf .tp4 = false := by decide
theorem test_wf_port : (Instr.absent 32).wf .tp4 = false := by decide
theorem test_wf_stack : (Instr.patrolScrub 24).wf .tp4 = false := by decide
theorem test_wf_die : (Instr.bypass 2).wf .tp2 = false := by decide
theorem test_wf_block : (Instr.guardWrite (.block 0xC4) 0).wf .tp4 = false := by decide
theorem test_wf_host : (Instr.portEnWrite .mgt true).wf .tp4 = false := by decide
theorem test_wf_li : (Instr.li 0 32 0 0).wf .tp4 = false ∧ (Instr.li 0 0 4 0).wf .tp4 = false := by decide
theorem test_wf_addR : (Instr.addR 0 32 0 0).wf .tp4 = false ∧ (Instr.sra 0 0 32 0).wf .tp4 = false ∧ (Instr.shl 0 0 0 32).wf .tp4 = false := by decide
theorem test_wf_addi : (Instr.addi 0 0 32 0).wf .tp4 = false := by decide
theorem test_wf_cmp : (Instr.cmp 0 8 0 0 0).wf .tp4 = false ∧ (Instr.cmp 0 0 8 0 0).wf .tp4 = false := by decide
theorem test_wf_br : (Instr.br 0 8 true false 0).wf .tp4 = false := by decide
theorem test_wf_waitc : (Instr.waitc 0 4 0).wf .tp4 = false := by decide
theorem test_wf_dwr : (Instr.dwr 0 256 0 0).wf .tp4 = false := by decide
theorem test_wf_time : (Instr.time 0 32).wf .tp4 = false := by decide
theorem test_wf_rdsr : (Instr.rdsr 0 0 32).wf .tp4 = false := by decide
theorem test_wf_load : (Instr.load 0 .crown 64).wf .tp4 = false := by decide
theorem test_wf_creditSync : (Instr.creditSync 0 [] 0).wf .tp4 = false := by decide
theorem test_wf_nak : (Instr.nak 0 4096).wf .tp4 = false := by decide
theorem test_wf_linkFrame : (Instr.linkFrame 0 { control := 0, slots := List.replicate 5 (.pay 0) }).wf .tp4 = false ∧ (Instr.linkFrame 0 { control := 0, slots := [], codewords := [545] }).wf .tp4 = false ∧
    (Instr.linkFrame 0 { control := BitVec.ofNat 120 (2 ^ 93), slots := [] }).wf .tp4 = false ∧
    (Instr.linkFrame 0 { control := 0, slots := [], raw := [0] }).wf .tp4 = false := by decide +kernel
theorem test_wf_exchPartial : (Instr.exchPartial 0 ⟨0, 0, 0, 0, 0, 0, 0, true, [.code 32768], [], false, 0, 256, false⟩).wf .tp4 = false ∧
    (Instr.exchPartial 0 ⟨0, 0, 0, 0, 0, 0, 0, true, [.code 32768], [], false, 0, 257, false⟩).wf .tp4 = true := by decide
theorem test_wf_dorubRead : (Instr.dorubRead ⟨⟨.mgt, 0, 0⟩, { service := 2 }⟩ 0 0 0).wf .tp4 = false ∧ (Instr.dorubRead ⟨⟨.mgt, 0, 0⟩, { service := 11 }⟩ 0 0 0).wf .tp4 = true := by decide
theorem test_wf_fwChunk : (Instr.fwChunk ⟨.mgt, 0, 0⟩ 65 []).wf .tp4 = false := by decide
theorem test_wf_attNonce : (Instr.attNonce ⟨.mgt, 0, 0⟩ []).wf .tp4 = false := by decide
theorem test_wf_record : (Instr.lease ⟨.mgt, 0, 0⟩ []).wf .tp4 = false ∧ (Instr.keyLoad ⟨.mgt, 0, 0⟩ []).wf .tp4 = false := by decide
theorem test_wf_debugToken : (Instr.debugToken ⟨.mgt, 0, 0⟩ []).wf .tp4 = false := by decide
theorem test_wf_profile : (Instr.profileSave ⟨.mgt, 0, 0⟩ 4).wf .tp4 = false := by decide
theorem test_wf_private : (Instr.privateInstruction 0 256).wf .tp4 = false := by decide
theorem test_wf_lostCount : (Instr.lostCountWrite 4).wf .tp4 = false := by decide
theorem test_wf_good : (Instr.addR 95 31 31 31).wf .tp4 = true ∧ (Instr.slotEnable 15).wf .tp4 = true ∧ (Instr.guardWrite (.block 0xC3) 0).wf .tp4 = true := by decide

/-- No row of the table gives bits, so no word spells a command. -/
theorem test_decode_none : decodeTableWord 32 0xFFFFFFFF = none := by decide

/-! ### States for the tests -/

/-- A package at work, with nothing under way. -/
def ready : State := { State.reset with boot := { state := .ready } }

/-- Core 0 enabled, its Crown context as given. -/
def core0 (c : Context) : State := { ready with blocks := [(0, { blockDefault 0 with en := true })], ctxs := [(0, c)] }

/-- A running context with registers 1 and 2. -/
def ctxA (a b : Dword) : Context := { state := .running, regs := [(1, a), (2, b)] }

/-- An outcome is a next state of which the test holds. -/
def nextIs (o : Host.Outcome State Fault Refusal) (p : State → Bool) : Bool :=
  match o with
  | .next t => p t
  | _ => false

/-! ### Control slot -/

theorem test_control_ready : ReadyFor 0 [1, 2, 3] (core0 (ctxA 7 5)) := by unfold ReadyFor; decide
/-- 5 − 7 wraps to 2⁶⁴ − 2. -/
theorem test_sub_wraps : nextIs (exec (.subR 0 3 1 2) (core0 (ctxA 5 7))) (fun t => (t.ctx 0 .crown).reg 3 == 0xFFFFFFFFFFFFFFFE) = true := by decide
/-- A shift uses bits [5:0] of G(GB): 65 shifts by 1. -/
theorem test_shl_mod : nextIs (exec (.shl 0 3 1 2) (core0 (ctxA 3 65))) (fun t => (t.ctx 0 .crown).reg 3 == 6) = true := by decide
theorem test_sra_sign : nextIs (exec (.sra 0 3 1 2) (core0 (ctxA 0x8000000000000000 63))) (fun t => (t.ctx 0 .crown).reg 3 == 0xFFFFFFFFFFFFFFFF) = true := by decide
/-- CMP, BR and WAITC: registers and predicate at the ends of their ranges; the counter has just reached the target, and stands 2¹⁵ − 1 past it. -/
theorem test_control_flow : ReadyFor 0 [1, 2] (core0 (ctxA 0 0)) ∧ ReadyFor 0 [] (core0 (ctxA 0 0)) ∧ ReadyFor 0 [1] (core0 (ctxA 0 0)) ∧
    (((core0 (ctxA 0 0)).cur 0).counter 3 - (((core0 (ctxA 0 0)).cur 0).reg 1).setWidth 16).toNat < 2 ^ 15 ∧
    (((core0 (ctxA 0x8001 0)).cur 0).counter 3 - (((core0 (ctxA 0x8001 0)).cur 0).reg 1).setWidth 16).toNat < 2 ^ 15 := by unfold ReadyFor; decide
theorem test_br_not_taken : nextIs (exec (.br 0 7 true false 0x1FFFFF) (core0 (ctxA 0 0))) (fun t => (t.ctx 0 .crown).pc == 1) = true := by decide
theorem test_br_back : nextIs (exec (.br 0 7 false false 0x1FFFFF) (core0 { ctxA 0 0 with pc := 8 })) (fun t => (t.ctx 0 .crown).pc == 7) = true := by decide
theorem test_control_special : ReadyFor 0 [28, 29, 30, 31] (core0 (ctxA 0 0)) ∧ (core0 (ctxA 0 0)).dwrHeld 0 ((core0 (ctxA 0 0)).cur 0) 255 = false ∧
    ReadyFor 0 [31] (core0 (ctxA 0 0)) := by unfold ReadyFor; decide
/-- The zero image names format 0 with extent 0, so the descriptor is not usable and the predicate becomes 0. -/
theorem test_dwr_bad : nextIs (exec (.dwr 0 255 28 0) (core0 { ctxA 0 0 with preds := 0xFF })) (fun t => (t.ctx 0 .crown).pred 0 == false) = true := by decide
theorem test_end_idle : nextIs (exec (.endIssue 0) (core0 (ctxA 0 0))) (fun t => (t.ctx 0 .crown).state == .idle) = true := by decide

/-! ### Issue, dispatch, completion -/

theorem test_fetch_inside : (core0 (ctxA 0 0)).canIssue 0 = true ∧
    16 * ((core0 (ctxA 0 0)).cur 0).pc.toNat + 16 ≤ (core0 (ctxA 0 0)).partSize 0 .crown ∧
    (core0 (ctxA 0 0)).coreBad ((core0 (ctxA 0 0)).partAddr 0 .crown 0) 16 = false := by decide
/-- An uncorrected error in the bundle's last byte's unit. -/
theorem test_fetch_error : { core0 (ctxA 0 0) with coreUc := [coreBase 0 / 64] }.coreBad (coreBase 0 + 48) 16 = true ∧
    { core0 (ctxA 0 0) with coreUc := [coreBase 0 / 64] }.coreBad (coreBase 0 + 64) 16 = false ∧
    nextIs (exec (.bundleIssue 0) { core0 { ctxA 0 0 with pc := 3 } with coreUc := [coreBase 0 / 64] })
      (fun t => (t.ctx 0 .crown).state == .faulted && (t.ctx 0 .crown).fault == fMemoryUc && (t.ctx 0 .crown).faultAddr == 3) = true := by decide
/-- The last bundle of a partition of 72 × 64 KiB is at 294,911; the next faults. -/
theorem test_fetch_edge : 16 * 294911 + 16 ≤ (core0 (ctxA 0 0)).partSize 0 .crown ∧ (core0 (ctxA 0 0)).partSize 0 .crown < 16 * 294912 + 16 := by decide
theorem test_fetch_beyond : nextIs (exec (.bundleIssue 0) (core0 { ctxA 0 0 with pc := 294912 }))
    (fun t => (t.ctx 0 .crown).state == .faulted && (t.ctx 0 .crown).fault == 6) = true := by decide
/-- A bundle of zeros is four NOPs. -/
theorem test_issue_go : (core0 (ctxA 0 0)).issueEnd 0 .crown 0 = .go ∧
    (BitVec.ofNat 128 (leNat ((core0 (ctxA 0 0)).rawRead ((core0 (ctxA 0 0)).partAddr 0 .crown 0) 16)) : Bundle) = 0 := by decide
/-- Control opcode 31 is undefined: the bundle is refused with ILLEGAL. -/
theorem test_issue_refused : ∃ w : Word, (core0 (ctxA 0 0)).issueEnd 0 .crown (w ++ 0#96) = .refused 1 := ⟨0xF8000000, by decide⟩

/-- An operation at issue address 0, and its context with the operation in its engine. -/
def opOf (k : Eng) (word : Word) (regs : List Dword) (descs : List DescImage) : Op := ⟨k, word, 0, regs, descs, 0, 0, 0, none, 0⟩
def busyCore (k : Eng) (o : Op) : State := core0 (({ state := .running } : Context).setFlight k (some { op := o }))
def queued (k : Eng) (o : Op) : State := core0 (({ state := .running } : Context).setQueue k [o])
def doneCore (k : Eng) (o : Op) (status : Nat) : State :=
  core0 (({ state := .running } : Context).setFlight k (some { op := o, done := true, flags := 4, status := status }))

def mzero : Op := opOf .matrix 0x08000000 [1] []
theorem test_dispatch : ((queued .matrix mzero).ctx 0 .crown).queue .matrix = [mzero] ∧ (queued .matrix mzero).up = true ∧
    ((queued .matrix mzero).block (blkCore 0)).en = true ∧ ((queued .matrix mzero).ctx 0 .crown).dispatches = true ∧
    (queued .matrix mzero).engineFree 0 .crown .matrix = true ∧ (queued .matrix mzero).conflicts 0 .crown mzero = false := by decide
theorem test_complete : ((doneCore .matrix mzero 0).ctx 0 .crown).fM = some { op := mzero, done := true, flags := 4 } ∧
    nextIs (exec (.operationComplete 0 .crown .matrix) (doneCore .matrix mzero 0)) (fun t => (t.ctx 0 .crown).flags == 4 && (t.ctx 0 .crown).cntM == 1) = true := by decide
theorem test_complete_vector : nextIs (exec (.operationComplete 0 .crown .vector) (doneCore .vector (opOf .vector 0 [] []) 0))
    (fun t => (t.ctx 0 .crown).lastVector == 4 && (t.ctx 0 .crown).cntV == 1) = true := by decide
theorem test_complete_stream : nextIs (exec (.operationComplete 0 .crown .stream) (doneCore .stream (opOf .stream 0 [] []) 0))
    (fun t => (t.ctx 0 .crown).flags == 0 && (t.ctx 0 .crown).cntS == 1) = true := by decide
theorem test_complete_status : nextIs (exec (.operationComplete 0 .crown .stream) (doneCore .stream (opOf .stream 0 [] []) 2))
    (fun t => (t.ctx 0 .crown).sstat == 2) = true := by decide

/-- A descriptor image: extents, base, format (Table 6.4); everything else 0. -/
def img (ext0 ext1 base fmt : Nat) : DescImage := BitVec.ofNat 256 (ext0 * 2 ^ 200 + ext1 * 2 ^ 176 + base * 2 ^ 112 + fmt * 2 ^ 12)
/-- An SCPY of 64 bytes of core memory from 0 to 64, and a VRNG whose tensor lies at 0. -/
def scpy : Op := { opOf .stream 0x10000000 [0, 64, 64] [] with seq := 1 }
def vrng : Op := opOf .vector 0x28000000 [0] [0, img 1 1 0 0]
/-- The SCPY reads what the earlier VRNG writes, so it waits (R104). -/
theorem test_dispatch_conflict : ((core0 { ((({ state := .running } : Context).setFlight .vector (some { op := vrng })).setQueue .stream [scpy]) with
    step := 0 }).conflicts 0 .crown scpy) = true := by decide

/-! ### Matrix and vector operations -/

/-- The flight and place of an operation just dispatched. -/
def flight (o : Op) : Flight := { op := o }
theorem dispatched {k : Eng} {o : Op} {c : Nat} (h : ((busyCore k o).ctx 0 .crown).flight k = some (flight o)) (hc : opcodeOf k o.word = c) :
    Dispatched 0 .crown k c (flight o) (busyCore k o) := ⟨by show 0 < Config.cores .tp4; decide, h, ⟨rfl, rfl, rfl⟩, hc⟩

theorem test_mzero : Dispatched 0 .crown .matrix 1 (flight mzero) (busyCore .matrix mzero) := dispatched (by decide) (by decide)
/-- A tile with an offset and a re-run count becomes clear. -/
theorem test_mzero_clears : nextIs (exec (.mzero 0 .crown) { busyCore .matrix mzero with accs := [(0, { elems := [(5, 1)], off := 3, reruns := 2, ovf := true })] })
    (fun t => t.acc 0 0 == {}) = true := by decide
/-- MMUL of two 1 × 1 FP32 tensors; with DR and with MDRAIN the tile goes to a third. -/
def mmul : Op := opOf .matrix 0x10000000 [0] [img 1 1 0 0, img 1 1 16448 0]
def mmulDr : Op := opOf .matrix 0x10800000 [0] [img 1 1 0 0, img 1 1 16448 0, img 1 1 32896 0, 0]
def mdrain : Op := opOf .matrix 0x18000000 [0] [img 1 1 0 0, img 1 1 16448 0, img 1 1 32896 0, 0]
def w0 : Place := ⟨0, .crown, 0, 0⟩
theorem test_mmul : Dispatched 0 .crown .matrix 2 (flight mmul) (busyCore .matrix mmul) ∧ (matOp mmul.word 0).dr = false ∧
    mkn (matOp mmul.word 0) (mmul.desc 0) (mmul.desc 1) = (1, 1, 1, 1) ∧ (busyCore .matrix mmul).holds w0 (mmul.desc 0) = true ∧
    (busyCore .matrix mmul).holds w0 (mmul.desc 1) = true ∧ (busyCore .matrix mmul).holdsTables w0 (mmul.desc 0) = true ∧
    (busyCore .matrix mmul).holdsTables w0 (mmul.desc 1) = true ∧ (busyCore .matrix mmul).readable w0 (mmul.desc 0) = true ∧
    (busyCore .matrix mmul).readable w0 (mmul.desc 1) = true := ⟨dispatched (by decide) (by decide), by decide⟩
theorem test_mdrain : Dispatched 0 .crown .matrix 3 (flight mdrain) (busyCore .matrix mdrain) ∧
    drainFits (busyCore .matrix mdrain) w0 (matOp mdrain.word (mdrain.reg 0)) (mdrain.desc 2) (mdrain.desc 3) = true := ⟨dispatched (by decide) (by decide), by decide⟩
theorem test_mmul_dr : Dispatched 0 .crown .matrix 2 (flight mmulDr) (busyCore .matrix mmulDr) ∧ (matOp mmulDr.word 0).dr = true ∧
    bitOf mmulDr.word.toNat 23 = true ∧ drainFits (busyCore .matrix mmulDr) w0 (matOp mmulDr.word (mmulDr.reg 0)) (mmulDr.desc 2) (mmulDr.desc 3) = true ∧
    ((busyCore .matrix mmulDr).holds w0 (mmulDr.desc 0) && (busyCore .matrix mmulDr).holds w0 (mmulDr.desc 1) &&
      (busyCore .matrix mmulDr).holdsTables w0 (mmulDr.desc 0) && (busyCore .matrix mmulDr).holdsTables w0 (mmulDr.desc 1)) = true ∧
    ((busyCore .matrix mmulDr).readable w0 (mmulDr.desc 0) && (busyCore .matrix mmulDr).readable w0 (mmulDr.desc 1)) = true :=
  ⟨dispatched (by decide) (by decide), by decide⟩

/-- VLDS of one entry at AUX 0 (format U8, code 4), VLDR of two entries at offset 0. -/
def vlds : Op := opOf .vector 0x10000000 [] [img 1 1 0 4]
def vldr : Op := opOf .vector 0x14000000 [0, 2] []
theorem test_vlds : Dispatched 0 .crown .vector 4 (flight vlds) (busyCore .vector vlds) ∧ (busyCore .vector vlds).holdsScales w0 (vlds.desc 0) (vlds.desc 0).entries = true ∧
    (vlds.desc 0).entries = 1 ∧ (busyCore .vector vlds).badPart w0 (vlds.desc 0).aux (8 * (vlds.desc 0).entries) = false := ⟨dispatched (by decide) (by decide), by decide⟩
theorem test_vldr : Dispatched 0 .crown .vector 5 (flight vldr) (busyCore .vector vldr) ∧
    (busyCore .vector vldr).inPart 0 .crown (vldr.reg 0 % 2 ^ 48) (8 * bitsOf (vldr.reg 1) 0 13) = true ∧
    (busyCore .vector vldr).badPart w0 (vldr.reg 0 % 2 ^ 48) (8 * bitsOf (vldr.reg 1) 0 13) = false := ⟨dispatched (by decide) (by decide), by decide⟩
/-- Entry 0 takes the eight bytes at offset 0 as they are. -/
theorem test_vldr_loads : nextIs (exec (.vldr 0 .crown) { busyCore .vector vldr with mem := [(coreBase 0, 7), (coreBase 0 + 7, 0x80)] })
    (fun t => t.rescaleEntry 0 (t.scaleStart 0 .crown) == 0x8000000000000007) = true := by decide
def vec (opc : Nat) (fn : Nat) (regs : List Dword) (descs : List DescImage) : Op := opOf .vector (BitVec.ofNat 32 (opc * 2 ^ 26 + fn)) regs descs
def f32a : DescImage := img 1 1 0 0
def f32b : DescImage := img 1 1 16448 0
def vscan : Op := vec 1 0 [32896] [f32a, f32b]
theorem test_vscan : Dispatched 0 .crown .vector 1 (flight vscan) (busyCore .vector vscan) ∧ (busyCore .vector vscan).fits w0 (vscan.desc 0) = true ∧
    (busyCore .vector vscan).inPart 0 .crown 32896 (32 * (vscan.desc 0).channels) = true ∧ (busyCore .vector vscan).readable w0 (vscan.desc 0) = true ∧
    vecFn vscan.word % 2 = 0 ∧ vecFn (vec 1 1 [32896] [f32a, f32b + 2 ^ 7]).word % 2 = 1 ∧ (descOf (f32b + 2 ^ 7)).scm = true := ⟨dispatched (by decide) (by decide), by decide⟩
/-- The records of that scan do not lie on its tensor; with derivation the Brim context's core 0 has 4,096 entries at hand. -/
theorem test_scan_apart : ∀ a, (busyCore .vector vscan).inRange w0 32896 32 a → ¬ (busyCore .vector vscan).inTiles w0 (vscan.desc 0) a := by
  intro a h ⟨ab, hm, ht⟩
  have hs : (vscan.desc 0).tiles = [(0, 0)] := by decide
  rw [hs, List.mem_singleton] at hm
  subst hm
  have h1 : (busyCore .vector vscan).partAddr w0.core w0.x 32896 = coreBase 0 + 32896 := by decide
  have h2 : (busyCore .vector vscan).partAddr w0.core w0.x ((vscan.desc 0).tileOff 0 0) = coreBase 0 := by decide
  have h3 : (vscan.desc 0).recSize = 16448 := by decide
  unfold State.inRange at h
  rw [h1] at h
  rw [h2, h3] at ht
  omega
/-- VENC, VCVT, VEW (function 0), VDTAB, VRED, VRNG over two FP32 tensors and a third. -/
theorem test_vector_clauses : ∀ e ∈ [(2, 0), (3, 0), (6, 0), (7, 0), (8, 0), (8, 2), (10, 0)],
    opcodeOf .vector (vec e.1 e.2 [0, 49344] [f32a, f32b, img 1 1 32896 0]).word = e.1 ∧
    ((busyCore .vector (vec e.1 e.2 [0, 49344] [f32a, f32b, img 1 1 32896 0])).ctx 0 .crown).flight .vector =
      some (flight (vec e.1 e.2 [0, 49344] [f32a, f32b, img 1 1 32896 0])) ∧
    (∀ i < 3, (busyCore .vector (vec e.1 e.2 [0, 49344] [f32a, f32b, img 1 1 32896 0])).fits w0
      ((vec e.1 e.2 [0, 49344] [f32a, f32b, img 1 1 32896 0]).desc i) = true ∧
      (busyCore .vector (vec e.1 e.2 [0, 49344] [f32a, f32b, img 1 1 32896 0])).readable w0
        ((vec e.1 e.2 [0, 49344] [f32a, f32b, img 1 1 32896 0]).desc i) = true) := by decide
theorem test_venc_plain : isPlain (descOf (img 1 1 0 4)).fmt = true ∧ (busyCore .vector vlds).holdsScales w0 (descOf (img 1 1 0 4)) (descOf (img 1 1 0 4)).channels = true := by decide
theorem test_vew_branch : ∃ fn p, ewBranch fn p = true ∧ (busyCore .vector vlds).inPart 0 .crown 49344 (planeExtent (descOf f32b)) = true := ⟨8, 2 ^ 32, by decide⟩
theorem test_vdtab_fn : fnOf 7 = some .relu ∧ fnOf 8 = some .gelu ∧ (busyCore .vector vlds).inPart 0 .crown 49344 (planeExtent (descOf f32a)) = true ∧
    (busyCore .vector vlds).badPart w0 49344 (planeExtent (descOf f32a)) = false := by decide
/-- A VOPT whose block, at offset 65,536, names descriptor 1 (BF16) for PREV, W and MASTER halves and descriptor 0 (FP32) otherwise. -/
def vopt : Op := vec 9 0 [65536] [img 1 1 0 0, img 1 1 16448 1]
def voptCore : State :=
  { core0 ((({ state := .running, uflag := true, descs := [(0, img 1 1 32896 0), (1, img 1 1 49344 1)] } : Context)).setFlight .vector (some (flight vopt))) with
    mem := [(coreBase 0 + 65536, 1), (coreBase 0 + 65537, 1), (coreBase 0 + 65540, 1)] }
theorem test_vopt : voptCore.inPart 0 .crown (par48 (vopt.reg 0)) 64 = true ∧ vecFn vopt.word = 0 ∧ (vopt.desc 0).space = 0 ∧ (vopt.desc 1).space = 0 ∧
    (vopt.desc 1).sameExt (vopt.desc 0) = true ∧ (vopt.desc 0).fmt = 0 ∧ (vopt.desc 1).fmt = 1 ∧ voptCore.holds w0 (vopt.desc 0) = true ∧
    voptCore.holds w0 (vopt.desc 1) = true ∧ voptCore.badPart w0 (par48 (vopt.reg 0)) 64 = false ∧ voptCore.readable w0 (vopt.desc 0) = true ∧ (voptCore.ctx 0 .crown).uflag = true ∧
    ∀ i ∈ [0, 1, 2, 3, 4, 5, 6],
      let d := Table.read 0 ((voptCore.partRead w0 (par48 (vopt.reg 0)) 64).getD i 0).toNat (voptCore.ctx 0 .crown).descs
      descOk d = true ∧ (descOf d).space = 0 ∧ (descOf d).sameExt (vopt.desc 0) = true ∧
        (descOf d).fmt = (if i = 0 ∨ i = 1 ∨ i = 4 then 1 else 0) ∧ voptCore.holds w0 (descOf d) = true ∧
        voptCore.readable w0 (descOf d) = true := by decide
theorem test_compute_frame : (mmulDr.desc 2).fmt ≤ 2 ∧ (mmulDr.desc 3).fmt ≤ 2 ∧
    nextIs (exec (.mzero 0 .crown) (busyCore .matrix mzero)) (fun t => (t.ctx 0 .crown).fM ≠ none) = true := by decide
/-- A tensor without a level table, and one whose table reads well. -/
theorem test_tables_read : (busyCore .vector vlds).tablesRead w0 (descOf f32a) = true ∧
    (busyCore .vector vlds).tablesRead w0 { descOf (img 1 1 0 11) with aux := 65536 } = true ∧
    (busyCore .vector vlds).reachesTables w0 { descOf (img 1 1 0 11) with aux := 65536 } = true := by decide +kernel

/-! ### Stream operations -/

/-- A context of core 0 with a shared-buffer area of 64 KiB. -/
def streamCore (o : Op) : State := core0 ((({ state := .running, sbSize := 1 } : Context)).setFlight .stream (some (flight o)))
theorem streamed {o : Op} {c : Nat} (hc : opcodeOf .stream o.word = c) : Dispatched 0 .crown .stream c (flight o) (streamCore o) :=
  ⟨by show 0 < Config.cores .tp4; decide, by simp [streamCore, core0, State.ctx, ctxKey, Table.read, Context.flight, Context.setFlight], ⟨rfl, rfl, rfl⟩, hc⟩
def str (opc sub : Nat) (regs : List Dword) (descs : List DescImage) : Op := opOf .stream (BitVec.ofNat 32 (opc * 2 ^ 27 + sub)) regs descs
/-- SCPY of 64 bytes from core memory (0) to the shared buffer (1), at the very end of the area. -/
def scpySb : Op := str 2 4 [0, 65472, 64] []
theorem test_scpy : Dispatched 0 .crown .stream 2 (flight scpySb) (streamCore scpySb) ∧ strSub scpySb.word % 4 = 0 ∧ strSub scpySb.word / 4 % 4 = 1 ∧
    (streamCore scpySb).reaches w0 0 0 64 = true ∧ (streamCore scpySb).reaches w0 1 65472 64 = true ∧ (streamCore scpySb).reaches w0 1 65473 64 = false ∧
    (streamCore scpySb).coreBad ((streamCore scpySb).spaceAddr w0 0 0) 64 = false :=
  ⟨streamed (by decide), by decide⟩
theorem test_scpy_moves : nextIs (exec (.scpy 0 .crown) { streamCore scpySb with mem := [(coreBase 0 + 63, 9)] })
    (fun t => t.byte (sharedBase 0 + 65535) == 9 && (t.ctx 0 .crown).fS == some ((flight scpySb).ended 0 0)) = true := by decide
theorem test_scpy_whole : ((whole ((streamCore scpySb).spaceReads w0 0 0 64).2).isSome && ((streamCore scpySb).spaceWrite 0 .crown 1 65472 []).2) = true := by decide
/-- SMOV of a 1 × 1 S4 tensor (2,112 bytes). -/
def smov : Op := str 1 0 [] [img 1 1 0 5, img 1 1 2112 5]
theorem test_smov : Dispatched 0 .crown .stream 1 (flight smov) (streamCore smov) ∧ (streamCore smov).reachesDesc w0 (smov.desc 0) = true ∧
    (streamCore smov).reachesDesc w0 (smov.desc 1) = true ∧ (whole ((streamCore smov).recordReads w0 (smov.desc 0)).2).isSome = true ∧
    ((streamCore smov).writeRecords 0 .crown (smov.desc 1) 0 (List.replicate 2112 0)).2 = true := ⟨streamed (by decide), by decide +kernel⟩
def swait (v : Dword) : Op := str 11 0 [0, v] []
theorem test_swait : Dispatched 0 .crown .stream 11 (flight (swait 0)) (streamCore (swait 0)) ∧ (streamCore (swait 0)).reaches w0 0 0 8 = true ∧
    (streamCore (swait 0)).coreBad ((streamCore (swait 0)).spaceAddr w0 0 0) 8 = false :=
  ⟨streamed (by decide), by decide⟩
theorem test_swait_waits : nextIs (exec (.swait 0 .crown) (streamCore (swait 1))) (fun t => (t.ctx 0 .crown).fS == some { flight (swait 1) with started := true, blocked := true }) = true := by decide
theorem test_swait_done : nextIs (exec (.swait 0 .crown) (streamCore (swait 0))) (fun t => (t.ctx 0 .crown).fS == some ((flight (swait 0)).ended 0 0)) = true := by decide
/-- SPUT to node 1, plain and to a core mask; SGET, SATOM, SLINE. -/
def sput (sub : Nat) : Op := str 3 sub [0x0001400000000000, 0xFFFFFF] [img 1 1 0 5]
theorem test_sput : ∀ sub ∈ [0, 1], opcodeOf .stream (sput sub).word = 3 ∧ strSub (sput sub).word = sub ∧ (streamCore (sput sub)).reachesDesc w0 ((sput sub).desc 0) = true ∧
    isCoreAddr ((sput sub).reg 0 % 2 ^ 48) = true ∧ ((streamCore (sput sub)).recordReads w0 ((sput sub).desc 0)).2.all (·.isSome) = true := by decide +kernel
def sget : Op := str 4 0 [0x0001000000000000] [0, img 1 1 0 5]
theorem test_sget : Dispatched 0 .crown .stream 4 (flight sget) (streamCore sget) ∧ (streamCore sget).reachesDesc w0 (sget.desc 1) = true :=
  ⟨streamed (by decide), by decide⟩
def satom : Op := str 10 0 [0x0001000000000000, 5] []
theorem test_satom : Dispatched 0 .crown .stream 10 (flight satom) (streamCore satom) := streamed (by decide)
theorem test_satom_sends : nextIs (exec (.satom 0 .crown) (streamCore satom)) (fun t => t.sent.length == 1 && t.router.length == 1 &&
    ((t.ctx 0 .crown).fS.map (fun f => f.awaiting)) == some [0]) = true := by decide
def sline : Op := str 5 0 [0] [img 1 1 0 5]
theorem test_sline : Dispatched 0 .crown .stream 5 (flight sline) (streamCore sline) ∧ (streamCore sline).reachesDesc w0 (sline.desc 0) = true ∧
    ((streamCore sline).recordReads w0 (sline.desc 0)).2.all (·.isSome) = true := ⟨streamed (by decide), by decide +kernel⟩
/-- R111: each of the six moves with a region beyond the partition. -/
theorem test_stream_access : (streamCore smov).reachesDesc w0 (descOf (img 1 1 4718592 5)) = false ∧ (streamCore scpySb).reaches w0 1 65537 64 = false ∧
    (streamCore (swait 0)).reaches w0 0 4718592 8 = false ∧ ((streamCore smov).ctx 0 .crown).state ≠ .faulted := by decide
theorem test_swait_access : nextIs (exec (.swait 0 .crown) (streamCore (str 11 0 [4718592, 0] []))) (fun t => (t.ctx 0 .crown).state == .faulted && (t.ctx 0 .crown).fault == 6) = true := by decide

/-! ### Queues, exchange and expert operations -/

/-- Slot 0 enabled, position 0 alone in PART_MASK, with the slot and the operation as given; node 0 reaches node 1 by port 0, which is UP. -/
def slotCore (v : Slot) (o : Op) : State :=
  { streamCore o with
    blocks := [(0, { blockDefault 0 with en := true }), (0xA0, { en := true })], objs := [(okey 0x7100 2, 1)], slots := [(0, v)],
    almanac := { cur := .generated 0 1 }, fports := [(0, { state := .up, credits := [64, 64, 64, 64, 64, 64, 64, 64] })],
    group := { state := .active, firstStep := 7, exchStep := 7, stepLimit := 6 } }
/-- QPUSH of a 1 × 1 S4 tensor for step 7 to slot 0 of node 1. -/
def qpush : Op := str 8 0 [1, 7 * 2 ^ 32] [img 1 1 0 5]
def credit (free : Nat) : Credit := { dst := ⟨1, 0⟩, queue := .forward, free := free }
theorem test_qpush : opcodeOf .stream qpush.word = 8 ∧ ∀ n ∈ [0, 1, 64],
    let s := slotCore { credits := [credit n] } qpush
    s.slotEn (coreSlot 0) = true ∧ s.reachesDesc w0 (qpush.desc 0) = true ∧ mbStep (qpush.reg 1) ≠ (s.ctx 0 .crown).step ∧
    (s.slot 0).credit (pushDst (qpush.reg 0)) (pushQueue (qpush.reg 0)) = some (credit n) ∧
    (whole (s.recordReads w0 (qpush.desc 0)).2).isSome = true ∧ s.noWay (pushDst (qpush.reg 0)).node = false := by decide +kernel
/-- The last credit goes with the part; without credit the QPUSH blocks. -/
theorem test_qpush_credit : nextIs (exec (.qpush 0 .crown) (slotCore { credits := [credit 1] } qpush)) (fun t =>
      ((t.slot 0).credits.map (fun c => (c.free, c.outbound.length))) == [(0, 1)] && t.sent.length == 1) = true ∧
    nextIs (exec (.qpush 0 .crown) (slotCore { credits := [credit 0] } qpush)) (fun t =>
      ((t.ctx 0 .crown).fS.map (·.blocked)) == some true && t.sent == []) = true := by decide +kernel
/-- A part of a micro-batch that is in the outbound table joins it; a word of the context's own step, in an attempt that is over, sends nothing. -/
theorem test_qpush_joins : let s := slotCore { credits := [{ credit 0 with outbound := [⟨7, 0, 0⟩] }] } qpush
    mbKey (s.sendWord 0 (qpush.reg 1)) = ⟨7, 0, 0⟩ ∧ (s.slot 0).credit ⟨1, 0⟩ .forward = some { credit 0 with outbound := [⟨7, 0, 0⟩] } ∧
    nextIs (exec (.qpush 0 .crown) s) (fun t => t.sent.length == 1 && (t.slot 0).credits.map (·.free) == [0]) = true := by decide +kernel
def pastCore : State :=
  let s := slotCore {} qpush
  { s with ctxs := [(0, { (({ state := .running, sbSize := 1, step := 7 } : Context)).setFlight .stream (some (flight qpush)) with step := 7, att := 1 })] }
theorem test_qpush_past : (pastCore.ctx 0 .crown).fS = some (flight qpush) ∧ mbStep (qpush.reg 1) = (pastCore.ctx 0 .crown).step ∧
    pastCore.attPast (mbStep (qpush.reg 1)) (pastCore.ctx 0 .crown).att = true ∧ pastCore.attPast 7 0 = false ∧
    pastCore.reachesDesc w0 (qpush.desc 0) = true ∧
    nextIs (exec (.qpush 0 .crown) pastCore) (fun t => t.sent == [] && t.tot 0x3280 9 == 1) = true := by decide +kernel
def qpop : Op := str 9 2 [0] [0, img 1 1 0 5]
def partOf (n : Nat) : PartSt := { pos := 0, word := 7 * 2 ^ 32, size := n, bytes := List.replicate n 3, spilled := false }
def entryOf (n : Nat) : QEntry := { ring := 0, key := ⟨7, 0, 0⟩, producer := ⟨1, 0⟩, parts := [partOf n], selected := true }
def popSlot (n : Nat) : Slot := { fwd := [entryOf n], decisions := [⟨0, .forward, ⟨7, 0, 0⟩⟩] }
theorem test_qpop : opcodeOf .stream qpop.word = 9 ∧ (slotCore { restart := [0], restartWord := 5 } qpop).slotEn 0 = true ∧
    ((slotCore { restart := [0], restartWord := 5 } qpop).slot 0).restart.contains (corePos 0) = true ∧ ∀ n ∈ [2112, 2048],
    let s := slotCore (popSlot n) qpop
    (s.slot 0).restart.contains (corePos 0) = false ∧ s.reachesDesc w0 (qpop.desc 1) = true ∧
    (s.slot 0).nextFor (popMode (strSub qpop.word)) (corePos 0) = some (.forward, entryOf n, 1) ∧ (entryOf n).part (corePos 0) = some (partOf n) ∧
    ((partOf n).size = (qpop.desc 1).total ↔ n = 2112) ∧ (s.writeRecords 0 .crown (qpop.desc 1) 0 (partOf n).bytes).2 = true := by decide +kernel
theorem test_qpop_step : nextIs (exec (.qpop 0 .crown) (slotCore (popSlot 2112) qpop)) (fun t =>
    (t.ctx 0 .crown).step == 7) = true := by decide +kernel

/-- Slots 0 and 1 of this node form an exchange group of two; slot 0 has rank 0. -/
def xchCore (v : Slot) (g : Group) (o : Op) : State :=
  { slotCore v o with
    blocks := [(0, { blockDefault 0 with en := true }), (0x60, { en := true }), (0xA0, { en := true }), (0xA1, { en := true })],
    objs := [(okey 0x7100 2, 1), (okey 0x7200 1, 2), (okey 0x7200 2, 0), (okey 0x7201 1, 2), (okey 0x7201 2, 1)],
    octs := [(okey 0x7200 3, [0, 0, 0, 0, 0, 0, 1, 0]), (okey 0x7201 3, [0, 0, 0, 0, 0, 0, 1, 0])], group := g }
/-- A layer of two slices of 64 rows. -/
def layerA (factor : Bool) : LayerEntry := ⟨true, factor, 64, 128, 64, 64, 0, 65536⟩
def exch (reports : List Report) (sums : List OwnerSum) : Group := { state := .active, firstStep := 7, exchStep := 7, reports := reports, sums := sums }
/-- An exchange operation for slice j of layer 0 in step 7, issued in attempt 0. -/
def xop (opc sub j : Nat) (d1 d2 : DescImage) : Op := { str opc sub [j * 2 ^ 40 + 7] [d1, d2] with tag := some 0 }
theorem test_snote : opcodeOf .stream (xop 12 0 0 0 0).word = 12 ∧ (xchCore {} (exch [] []) (xop 12 0 0 0 0)).xgate 0 (xop 12 0 0 0 0) = .go ∧
    nextIs (exec (.snote 0 .crown) (xchCore {} (exch [] []) (xop 12 0 1 0 0))) (fun t => t.group.reports == [⟨0, 0, 0, 0, 1⟩]) = true := by decide +kernel
def sumA : OwnerSum := ⟨0, 0, 0, 0, 7, 0, [], 0, 0, false, [.esc 0x3F800000]⟩
/-- HBM takes every write of key slot `k`: a key, every stack trained, every unit clean. -/
def Takes (k : Nat) (s : State) : Prop := s.hasKey k = true ∧ s.untrained = [] ∧ s.unitCode = []
theorem takes_set {k : Nat} {s t : State} (h : Takes k s) (h1 : t.security = s.security) (h2 : t.untrained = s.untrained) (h3 : t.unitCode = s.unitCode) : Takes k t := by
  obtain ⟨a, b, c⟩ := h
  exact ⟨by simpa [State.hasKey, State.keySlot, h1] using a, h2.trans b, h3.trans c⟩
theorem takes_bump {k : Nat} {s : State} (i j n : Nat) (h : Takes k s) : Takes k (s.bump i j n) := by
  rw [State.bump]; split
  · exact h
  · exact takes_set h rfl rfl rfl
theorem takes_setCond {k : Nat} {s : State} (u : Nat) (h : Takes k s) : Takes k (s.setCond u {}) :=
  takes_set h rfl rfl (by rw [State.setCond, h.2.2]; rfl)
theorem takes_unit {k : Nat} {s : State} (a : Nat) (bs : List Byte) (u : Nat) (h : Takes k s) :
    (s.hbmWriteUnit k a bs u).2 = true ∧ Takes k (s.hbmWriteUnit k a bs u).1 := by
  have hb := fun n => takes_bump (0x3300 + stackOf s.part (u * 64)) 5 n h
  have hd : ∀ t : State, Takes k t → t.demandUnit u = (t.setCond u {}, true) := by
    intro t ⟨_, h2, h3⟩
    simp [State.demandUnit, h2, State.unitCondOf, State.codeOf, h3, Table.read, Codeword.cond]
  unfold State.hbmWriteUnit
  dsimp only
  split
  · exact ⟨rfl, takes_set (takes_setCond u (hb _)) rfl rfl rfl⟩
  · simp only [hd _ (hb _)]
    exact ⟨rfl, takes_set (takes_setCond u (takes_setCond u (hb _))) rfl rfl rfl⟩
theorem takes_write {k : Nat} {s : State} (a : Nat) (bs : List Byte) (h : Takes k s) : (s.hbmWrite k a bs).2 = true ∧ Takes k (s.hbmWrite k a bs).1 := by
  rw [State.hbmWrite, if_neg (by simp [h.1])]
  refine List.foldlRecOn (motive := fun p : State × Bool => p.2 = true ∧ Takes k p.1) _ _ ⟨rfl, h⟩ (fun p hp u _ => ?_)
  have hu := takes_unit a bs u hp.2
  simp only [hu.1, if_true, hp.1, Bool.and_true, true_and]
  exact takes_bump _ _ _ hu.2
theorem takes_leafRows (g : Geo) (emu : Bool) : ∀ (i : Nat) (xs : List (List Word)) (s : State), Takes g.key s →
    (s.leafRows g emu false i xs).2.isSome = true
  | _, [], _, _ => rfl
  | i, x :: xs, s, h => by
    have hw := takes_write (g.remAddr g.wr i) (fp32Row x).rem h
    have hr : s.leafRow g emu false i x = ((s.hbmWrite g.key (g.remAddr g.wr i) (fp32Row x).rem).1, some (fp32Row x)) := by
      simp [State.leafRow, hw.1]
    have := takes_leafRows g emu (i + 1) xs _ hw.2
    rw [State.leafRows, hr]
    dsimp only
    split
    · simp_all
    · rfl
theorem takes_enqueue {k : Nat} {s : State} (r : ErrRec) (h : Takes k s) : Takes k (s.enqueueRec r) := by
  unfold State.enqueueRec
  dsimp only
  split
  · exact takes_set h rfl rfl rfl
  · split
    · exact takes_set h rfl rfl rfl
    · split <;> exact takes_set h rfl rfl rfl
theorem takes_readCount {k : Nat} {s : State} (w : Place) (d : Desc) (a b : Nat) (t : Tally) (h : Takes k s) : Takes k (s.readCount w d a b t) := by
  have hb : Takes k (s.badTile w (d.tileOff a b) t) := by
    rw [State.badTile, State.badTileAt]
    split
    · exact h
    · exact takes_enqueue _ h
  unfold State.readCount State.count
  dsimp only
  repeat' split
  all_goals first
    | exact takes_set (takes_bump _ _ _ (takes_bump _ _ _ (takes_bump _ _ _ (takes_bump _ _ _ (takes_bump _ _ _ (takes_bump _ _ _ (takes_bump _ _ _ hb))))))) rfl rfl rfl
theorem takes_elems {k : Nat} {s : State} (w : Place) (emu : Bool) (d : Desc) (h : Takes k s) : Takes k (s.elems32 w emu d).1 := by
  unfold State.elems32
  exact List.foldlRecOn (motive := Takes k) _ _ h (fun _ hb _ _ => takes_readCount _ _ _ _ _ hb)
theorem takes_leaf {s : State} (g : Geo) (emu : Bool) (att : Nat) (xs : List (List Word)) (h : Takes g.key s) :
    (s.leaf g emu false att xs).2.isSome = true := by
  have := takes_leafRows g emu 0 xs s h
  unfold State.leaf
  split
  · simp_all
  · rfl
theorem test_sreduce_leaf : let o := xop 16 0 1 f32a f32b
    let s := xchCore { layers := [layerA false] } (exch [] []) o
    opcodeOf .stream o.word = 16 ∧ s.xgate 0 o = .go ∧ s.xwEntry 0 (o.reg 0) = some (layerA false) ∧ s.ownsSlice 0 (s.geo 0 0 (layerA false) 1 0).slice = false ∧
    s.holds w0 (o.desc 0) = true ∧ s.group.reports.contains ((s.geo 0 0 (layerA false) 1 0).report 3) = false ∧ strSub o.word % 2 = 0 ∧
    s.readable w0 (o.desc 0) = true ∧
    ((s.elems32 w0 false (o.desc 0)).1.leaf (s.geo 0 0 (layerA false) 1 0) false false (s.attOf o.xstep) (s.elems32 w0 false (o.desc 0)).2).2.isSome = true := by
  refine ⟨by decide, by decide +kernel, by decide +kernel, by decide +kernel, by decide, by decide +kernel, by decide, by decide, takes_leaf _ _ _ _ (takes_elems _ _ _ ?_)⟩
  exact ⟨by decide, rfl, rfl⟩
/-- SUB[0] = 1 asks for the SB8 wire: without a valid bank the leaf goes as FP32, and with one as SB8. -/
theorem test_sreduce_bank : let o := xop 16 1 1 f32a f32b
    let s := xchCore { layers := [layerA false] } (exch [] []) o
    strSub o.word % 2 = 1 ∧ s.bankValid 0 0 (s.geo 0 0 (layerA false) 1 0).rd = false ∧
    { s with group := { s.group with expValid := [(0, 0, (s.geo 0 0 (layerA false) 1 0).rd)] } }.bankValid 0 0 (s.geo 0 0 (layerA false) 1 0).rd = true := by
  decide +kernel
/-- A factor-exchanged slice of another member: the first position sends X and gz, and is done. -/
theorem test_sreduce_factor : let o := xop 16 0 1 (img 1 1 0 1) (img 1 1 16448 1)
    let s := xchCore { layers := [layerA true] } (exch [] []) o
    opcodeOf .stream o.word = 16 ∧ s.xgate 0 o = .go ∧ s.xwEntry 0 (o.reg 0) = some (layerA true) ∧ s.posIndex 0 0 = 0 ∧
    s.holds w0 (o.desc 0) = true ∧ s.readable w0 (o.desc 0) = true ∧ s.holds w0 (o.desc 1) = true ∧ s.readable w0 (o.desc 1) = true ∧
    s.group.reports.contains ((s.geo 0 0 (layerA true) 1 0).report 3) = false ∧ s.ownsSlice 0 (s.geo 0 0 (layerA true) 1 0).slice = false ∧
    nextIs (exec (.sreduce 0 .crown) s) (fun t => t.sent.length == 2 && (t.ctx 0 .crown).fS.map (·.done) == some true) = true := by decide +kernel
theorem test_sreduce_sum : let o := xop 16 0 0 f32a f32b
    let s := xchCore { layers := [layerA false] } (exch [⟨3, 0, 0, 0, 0⟩] [sumA]) o
    s.xgate 0 o = .go ∧ s.xwEntry 0 (o.reg 0) = some (layerA false) ∧ s.ownsSlice 0 (s.geo 0 0 (layerA false) 0 0).slice = true ∧
    s.holds w0 (o.desc 0) = true ∧ s.readable w0 (o.desc 0) = true ∧ s.holds w0 (o.desc 1) = true ∧
    s.group.reports.contains ((s.geo 0 0 (layerA false) 0 0).report 3) = true ∧
    s.group.sums.find? (fun z => z.slot == 0 && z.layer == 0 && z.slice == 0 && z.pos == 0 && z.att == s.attOf o.xstep) = some sumA := by decide +kernel
theorem test_smcast : let o := xop 17 0 0 (img 1 1 0 5) (img 1 1 65536 5)
    let s := xchCore { layers := [layerA true] } (exch [] []) o
    opcodeOf .stream o.word = 17 ∧ s.xgate 0 o = .go ∧ s.xwEntry 0 (o.reg 0) = some (layerA true) ∧ s.ownsSlice 0 (s.geo 0 0 (layerA true) 0 0).slice = true ∧
    s.reachesDesc w0 (o.desc 0) = true ∧ (whole (s.recordReads w0 (o.desc 0)).2).isSome = true ∧ s.memberSlots (s.here 0) = [1] ∧ spanned (s.xchNodes 0) = [] ∧
    (s.deliver ⟨s.here 0, 0, 0, 0, s.group.exchStep, s.attOf o.xstep, (o.desc 1).base,
        (o.desc 0).tB * (o.desc 0).recSize, (o.desc 1).ts * (o.desc 1).recSize, s.recordBytes 0 .crown (o.desc 0) 0 (o.desc 0).total,
        [], true, s.slotKey 0, 0, 0⟩).1.xchNodes 0 = s.xchNodes 0 := by decide +kernel
/-- What the own node's delivery answers: refused with no window of the key slot, taken with one. -/
def castCore (windows : List (Nat × Nat)) (o : Op) : State :=
  let s := xchCore { layers := [layerA true] } (exch [] []) o
  { s with blocks := s.blocks.filter (fun e => e.1 ≠ 0x60) ++ (List.range 24).map (fun k => (0x60 + k, { blockDefault (0x60 + k) with en := true })),
           ctxs := s.ctxs.map (fun e => (e.1, { e.2 with windows := windows })) }
theorem test_smcast_own : let o := xop 17 0 0 (img 1 1 0 5) (img 1 1 65536 5)
    ∀ e ∈ [([], 1), ([(0, 2 ^ 20)], 0)],
      ((castCore e.1 o).deliver ⟨⟨0, 0⟩, 0, 0, 0, 7, 0, 65536, (o.desc 0).tB * (o.desc 0).recSize, (o.desc 1).ts * (o.desc 1).recSize,
        (castCore e.1 o).recordBytes 0 .crown (o.desc 0) 0 (o.desc 0).total, [], true, 0, 0, 0⟩).2 = e.2 ∧
      (castCore e.1 o).here 0 = ⟨0, 0⟩ ∧ (castCore e.1 o).memberSlots ⟨0, 0⟩ = [1] := by decide +kernel
/-- An exchange operation of an attempt that is over. -/
theorem test_exch_ended : (xchCore {} { exch [] [] with atts := [(7, 1)] } (xop 12 0 0 0 0)).xgate 0 (xop 12 0 0 0 0) = .ended := by decide

/-- Slot 0 is source and holder of one expert; the routing table at offset 32,768 lists one token with one choice; `mem` gives more bytes. -/
def expCore (v : Slot) (mem : List Host.Cell) (o : Op) : State :=
  { slotCore v o with
    objs := [(okey 0x7100 2, 1), (okey 0x7600 1, 1), (okey 0x7600 4, 1), (okey 0x7600 7, 1), (okey 0x7600 9, 1)],
    group := { state := .active },
    octs := [(okey 0x7600 2, [0, 0, 0, 0]), (okey 0x7600 3, [0, 0, 0, 0])],
    mem := [(coreBase 0 + 32772, 1), (coreBase 0 + 32776, 1)] ++ mem }
/-- Two BF16 tensors of one row, an image with BAXIS = 1. -/
def rowA : DescImage := img 1 1 0 1 + 256
def rowB : DescImage := img 1 1 16448 1 + 256
def xmap (opc : Nat) : Op := str opc 0 [32768] [rowA, rowB]
theorem test_xdisp : let o := xmap 18
    let s := expCore {} [(coreBase 0 + 32786, 1)] o
    opcodeOf .stream o.word = 18 ∧ s.slotEn 0 = true ∧ s.mapOver o = false ∧ s.inPart 0 .crown 32768 32 = true ∧
    s.inPart 0 .crown 32768 (s.tableBytes 0 .crown 32768) = true ∧ s.badPart w0 32768 (s.tableBytes 0 .crown 32768) = false ∧
    s.reachesDesc w0 (o.desc 0) = true ∧ s.routeHead w0 32768 = ⟨0, 1, 1, false, false, 0, 65536⟩ ∧ s.inPart 0 .crown 65536 (s.returnDesc 0 65536 1).total = true ∧
    (o.desc 0).ext0 = 1 ∧ (o.desc 0).ext1 = s.obj 0x7600 7 ∧ (o.desc 0).baxis = true ∧
    (∀ c ∈ s.choices w0 32768 (s.routeHead w0 32768), c.expert < s.expCount 0) ∧ s.choices w0 32768 (s.routeHead w0 32768) ≠ [] ∧
    (o.desc 0).fmt = s.obj 0x7600 6 ∧ (s.expSources 0).findIdx? (fun y => y == s.here 0) = some 0 ∧
    (match (s.plainRows w0 (o.desc 0)).2 with | .inr _ => true | .inl _ => false) = true := by decide +kernel
def bankA : XBank := ⟨0, 0, 0, 0, [(0, 0, 0)], []⟩
theorem test_xdisp_return : let o := xmap 18
    let s := expCore { xbanks := [bankA] } [(coreBase 0 + 32777, 1)] o
    (s.routeHead w0 32768).ret = true ∧ s.badPart w0 32768 (s.tableBytes 0 .crown 32768) = false ∧ s.inPart 0 .crown 32768 (s.tableBytes 0 .crown 32768) = true ∧ (o.desc 0).ext0 = s.expCap 0 ∧
    (o.desc 0).ext1 = s.obj 0x7600 9 ∧ (o.desc 0).fmt = s.obj 0x7600 8 ∧
    (s.slot 0).xbanks.find? (fun b => b.expert == 0 && b.xseq == 0 && b.step == w0.step && b.att == w0.att && b.returning == []) = some bankA := by decide +kernel
def sourceA : XSource := ⟨0, 0, 0, 0, 32768, 65536, 1, 1, [⟨0, 0⟩], [], [(0, 0)]⟩
/-- The one choice is SERVED and back; RES = 1 adds D1. -/
theorem test_xcomb : let o := xmap 19
    let s := expCore { xsources := [sourceA] } [(coreBase 0 + 32778, 1), (coreBase 0 + 32786, 1), (coreBase 0 + 32802, 1)] o
    opcodeOf .stream o.word = 19 ∧ s.mapOver o = false ∧ s.inPart 0 .crown 32768 (s.tableBytes 0 .crown 32768) = true ∧
    s.badPart w0 32768 (s.tableBytes 0 .crown 32768) = false ∧ s.badPart w0 65536 (s.returnDesc 0 65536 1).total = false ∧ s.reachesTables w0 (o.desc 0) = true ∧
    (s.tableReads w0 (o.desc 0)).2 = true ∧ s.routeHead w0 32768 = ⟨0, 1, 1, false, true, 0, 65536⟩ ∧ s.reachesDesc w0 (o.desc 1) = true ∧ s.inPart 0 .crown 65536 (s.returnDesc 0 65536 1).total = true ∧
    (o.desc 1).ext0 = 1 ∧ (o.desc 1).ext1 = s.obj 0x7600 9 ∧ isFloat (o.desc 1).fmt = true ∧ s.reachesDesc w0 (o.desc 0) = true ∧
    descOk (o.descs.getD 0 0) = true ∧ (o.desc 0).sameExt (o.desc 1) = true ∧
    (s.slot 0).xsources.find? (fun z => z.xseq == 0 && z.step == w0.step && z.att == w0.att) = some sourceA ∧ s.settledAll 0 sourceA = true ∧
    (∀ c ∈ s.choices w0 32768 (s.routeHead w0 32768), c.served = true ∧ sourceA.returned.contains (c.token, c.choice) = true) ∧
    (whole (s.recordReads w0 (o.desc 0)).2).isSome = true := by decide +kernel
/-- A plan with one destination, this core, and no transfer. -/
def reshardOp : Op := str 20 0 [32768, 0] [img 1 1 0 5, img 1 1 2112 5]
def reshardA (sent failed : Bool) : Reshard := ⟨0, .crown, 0, 0, img 1 1 2112 5, 0, 1, 0, 0, 0, sent, sent, failed⟩
def reshardCore (r : Reshard) : State :=
  { slotCore {} reshardOp with mem := [(coreBase 0 + 32772, 1)], reshards := [r] }
theorem test_reshard : opcodeOf .stream reshardOp.word = 20 ∧ ∀ r ∈ [reshardA false false, reshardA true false, reshardA true true],
    let s := reshardCore r
    s.mapOver reshardOp = false ∧ s.badPart w0 32768 (s.planBytes 0 .crown 32768) = false ∧ s.inPart 0 .crown 32768 (s.planBytes 0 .crown 32768) = true ∧ s.reachesDesc w0 (reshardOp.desc 0) = true ∧
    s.reachesDesc w0 (reshardOp.desc 1) = true ∧ s.plan w0 32768 = (0, [⟨0, 0⟩], []) ∧
    s.reshards.find? (fun r => r.core == 0 && r.x == .crown && r.seq == reshardOp.seq) = some r ∧
    (match ((s.checkReshard { r with sent := true }).sendMoves w0 (reshardOp.desc 0) 0 [⟨0, 0⟩] []).2 with
      | .waiting ids 0 => !ids.isEmpty
      | _ => false) = true := by decide +kernel
theorem test_reshard_status : nextIs (exec (.reshard 0 .crown) (reshardCore (reshardA true true))) (fun t =>
    (t.ctx 0 .crown).fS == some ((flight reshardOp).ended 0 1)) = true := by decide +kernel

/-! ### Contexts, cores and registers -/

/-- Core 0 with its Crown and Brim contexts and its own state as given; a Brim context is enabled (CFG reset value with BRIMEN = 1). -/
def duo (crown brim : Context) (c : CoreSt) : State :=
  { core0 crown with ctxs := [(0, crown), (1, brim)], cores := [(0, c)], blocks := [(0, { blockDefault 0 with en := true, cfg := coreCfg 1 72 48 15 })] }
theorem test_context_keys : ctxKey 0 .crown = 0 ∧ ctxKey 0 .brim = 1 := by decide
def waitingC : Context := { state := .waiting }
def runningC : Context := { state := .running }
/-- Crown stands at a WAITC on the stream counter that does not hold: the worked example of R148 with G(5) = 1. -/
theorem test_brim_activate : let s := { duo { waitingC with regs := [(5, 1)] } runningC {} with mem := [(coreBase 0 + 14, 0x28), (coreBase 0 + 15, 0x3A)] }
    s.coreLive 0 = true ∧ (s.coreSt 0).active = .crown ∧ (s.ctx 0 .crown).state = .waiting ∧ s.crownReady 0 = false ∧ s.brimEligible 0 = true := by decide
theorem test_switch_abandoned : let s := duo waitingC runningC { active := .brim, switching := true }
    s.coreLive 0 = true ∧ (s.coreSt 0).active = .brim ∧ (s.coreSt 0).switching = true ∧ s.crownReady 0 = true := by decide
/-- A blocked stream operation and a matrix operation of the Brim context. -/
def brimBusy : Context := { state := .running, fM := some { op := mzero }, fS := some { op := swait 1, started := true, blocked := true } }
theorem test_brim_preempt : let s := duo waitingC brimBusy { active := .brim }
    s.coreLive 0 = true ∧ (s.coreSt 0).switching = false ∧ s.crownReady 0 = true ∧ s.brimLive 0 = true ∧ (s.ctx 0 .brim).fS.map (fun f => (f.blocked, f.done)) = some (true, false) ∧
    nextIs (exec (.brimPreempt 0) s) (fun t => (t.ctx 0 .brim).qS == [swait 1] && ((t.ctx 0 .brim).fM.map (·.suspended)) == some true) = true := by decide
theorem test_brim_stopped : let s := duo waitingC { state := .idle } { active := .brim }
    s.coreLive 0 = true ∧ (s.coreSt 0).active = .brim ∧ (s.coreSt 0).switching = false ∧ s.crownReady 0 = true ∧ s.brimLive 0 = false := by decide
/-- A HALT that meets a preemption ends in HALTED. -/
theorem test_brim_halted : nextIs (exec (.brimSuspended 0 9) (duo waitingC { state := .running, halting := true } { preempting := true }))
    (fun t => (t.ctx 0 .brim).state == .halted && !(t.ctx 0 .brim).halting) = true := by decide
/-- A Brim context that was preempted after its END comes back. -/
theorem test_brim_ended : (duo waitingC { state := .suspended, ended := true } {}).brimEligible 0 = true := by decide
theorem test_brim_suspended : let s := duo waitingC { state := .running, fM := some { op := mzero, suspended := true } } { preempting := true }
    (s.coreSt 0).preempting = true ∧ (s.ctx 0 .brim).state = .running ∧ (s.ctx 0 .brim).halting = false ∧ (s.ctx 0 .brim).fM = some { op := mzero, suspended := true } ∧
    s.roundTiles 0 { op := mzero, suspended := true } ≠ [] := by decide
/-- A Brim context that has ended with nothing outstanding is IDLE when its spill is done. -/
theorem test_brim_spilled : nextIs (exec (.brimSuspended 0 9) (duo waitingC { state := .running, ended := true } { preempting := true }))
    (fun t => (t.ctx 0 .brim).state == .idle) = true := by decide
/-- Crown does not become ready: it stands at the WAITC of the worked example. -/
def stuck (brim : Context) (c : CoreSt) : State :=
  { duo { waitingC with regs := [(5, 1)] } brim c with mem := [(coreBase 0 + 14, 0x28), (coreBase 0 + 15, 0x3A)] }
theorem test_brim_resume : let s := stuck { state := .suspended } { active := .brim, spill := [(48, { reruns := 1 })] }
    s.coreLive 0 = true ∧ (s.coreSt 0).active = .brim ∧ s.crownReady 0 = false ∧ (s.ctx 0 .brim).state = .suspended ∧ (s.ctx 0 .brim).halting = false ∧
    (∀ e ∈ (s.coreSt 0).spill, e.1 ≠ 63) := by decide
/-- Crown becomes ready before the first bundle of a resumed Brim context: the switch is abandoned, and what was released is held again. -/
theorem test_resume_abandoned : let s := duo waitingC { state := .running, fM := some { op := mzero } } { active := .brim, switching := true, resumed := true }
    (s.coreSt 0).resumed = true ∧ s.brimLive 0 = true ∧ s.crownReady 0 = true ∧
    nextIs (exec (.switchAbandoned 0) s) (fun t => (t.coreSt 0).preempting && (t.ctx 0 .brim).fM.map (·.suspended) == some true && t.tot 0x3250 3 == 1) = true := by decide
/-- HALT of a SUSPENDED Brim context whose held stream operation has a request outstanding waits for it. -/
theorem test_halt_outstanding : nextIs (exec (.halt 0 .brim) (duo waitingC { state := .suspended, fS := some { op := swait 1, started := true, suspended := true, awaiting := [3] } } {}))
    (fun t => (t.ctx 0 .brim).state == .suspended && (t.ctx 0 .brim).halting) = true := by decide

theorem test_context_ignored : ∀ e ∈ [(CtxCmd.halt, CtxState.idle), (.halt, .halted), (.resume, .running), (.save, .running), (.saveFull, .waiting)],
    e.2 ≠ .busy ∧ e.1.ignored e.2 = true := by decide
theorem test_context_command : (core0 { state := .waiting }).up = true ∧ ({ state := .waiting } : Context).busyFlights = false ∧
    ({ state := .running, fM := some (flight mzero) } : Context).busyFlights = true ∧ ({ state := .busy } : Context).held = none ∧
    (core0 { state := .waiting }).multiHolds = false := by decide
/-- HALT of a Brim context under preemption waits for its spill. -/
theorem test_halt_preempted : nextIs (exec (.halt 0 .brim) (duo waitingC { state := .running } { preempting := true }))
    (fun t => (t.ctx 0 .brim).state == .running && (t.ctx 0 .brim).halting) = true := by decide
/-- A HALT that a BUSY context holds acts on the state that it leaves. -/
theorem test_held_halt : ∀ e ∈ [(CtxState.idle, CtxState.idle), (.running, .halted)],
    nextIs (exec (.contextCmdDone 0 .crown) (core0 { state := .busy, busyAfter := e.1, held := some .halt })) (fun t => (t.ctx 0 .crown).state == e.2) = true := by decide
/-- A SUSPENDED Brim context with nothing in its engines halts at once; the end of a command that no check refused clears CMD_REFUSED. -/
theorem test_halt_suspended : ({ state := .suspended } : Context).busyFlights = false ∧
    nextIs (exec (.halt 0 .brim) (duo waitingC { state := .suspended } {})) (fun t => (t.ctx 0 .brim).state == .halted) = true ∧
    ∀ b ∈ [true, false], nextIs (exec (.contextCmdDone 0 .crown) { core0 { state := .busy, cmdOk := b } with blocks := [(0, { blockDefault 0 with en := true, cmdRefused := true })] })
      (fun t => (t.block 0).cmdRefused == !b) = true := by decide
/-- R120: a command in a state that it does not suit sets WR_IGNORED. -/
theorem test_resume_ignored : nextIs (exec (.resume 0 .crown) (core0 { state := .idle })) (fun t => (t.block 0).wrIgnored && (t.ctx 0 .crown).state == .idle) = true := by decide
/-- RESUME of a Brim context: its held operation stays held until the context is active again. -/
theorem test_resume_brim : nextIs (exec (.resume 0 .brim) (duo waitingC { state := .halted, fM := some { op := mzero, suspended := true } } { active := .brim }))
    (fun t => (t.ctx 0 .brim).state == .running && (t.coreSt 0).active == .crown && (t.ctx 0 .brim).fM.map (·.suspended) == some true) = true := by decide
/-- Activated again, BRIM_RESUME lets it go on. -/
theorem test_brim_holds : nextIs (exec (.brimResume 0) (stuck { state := .running, fM := some { op := mzero, suspended := true } } { active := .brim, switching := true }))
    (fun t => (t.coreSt 0).switching && (t.coreSt 0).resumed && (t.ctx 0 .brim).fM.map (·.suspended) == some false) = true := by decide
/-- Windows and memory controllers for a record at address 0. -/
def savable : State :=
  { core0 { state := .halted, windows := [(0, 2 ^ 20)] } with
    blocks := (0, { blockDefault 0 with en := true }) :: (List.range 24).map (fun k => (0x60 + k, { blockDefault (0x60 + k) with en := true })) }
theorem test_save : (savable.ctx 0 .crown).state = .halted ∧ ((savable.blkTouch 0).saveRecord 0 .crown false).2 = true := by decide +kernel
theorem test_clear : (core0 (ctxA 1 2)).up = true ∧ ((core0 (ctxA 1 2)).ctx 0 .crown).state ≠ .busy ∧ ((core0 (ctxA 1 2)).ctx 0 .crown).held = none := by decide
/-- The last byte of the Crown partition reads zero after CLEAR, the first of Brim's as before. -/
theorem test_clear_edges : nextIs (exec (.clear 0 .crown) { core0 (ctxA 1 2) with mem := [(coreBase 0 + 4718591, 1), (coreBase 0 + 4718592, 2)] })
    (fun t => t.mem == [(coreBase 0 + 4718592, 2)]) = true := by decide

/-- Core 0's block: guard and EN as given. -/
def coreBlk (guardOpen en : Bool) (cfg : Nat) (c : CoreSt) : State := { ready with blocks := [(0, { guardOpen := guardOpen, en := en, cfg := cfg })], cores := [(0, c)] }
theorem test_core_enable : ((coreBlk false false 0 {}).block 0).guardOpen = false ∧
    ((coreBlk true false (coreCfg 0 72 48 15) {}).coreCfgBad 0 = false) ∧ ((coreBlk true false (coreCfg 1 95 48 15) {}).coreCfgBad 0 = true) ∧
    ((coreBlk true false (coreCfg 1 94 64 15) {}).coreCfgBad 0 = true) ∧ ((coreBlk true false (coreCfg 1 94 63 15) {}).coreCfgBad 0 = false) ∧
    ((coreBlk true false (coreCfg 0 0 48 15) {}).coreCfgBad 0 = true) ∧
    (let s := coreBlk true true (coreCfg 0 72 48 15) {}; (s.block 0).en = true ∧ (s.coreSt 0).disabling = false) ∧
    (let s := coreBlk true true (coreCfg 0 72 48 15) { disabling := true }; (s.coreSt 0).disabling = true ∧ s.ctxQuiet 0 .crown = true ∧
      s.ctxQuiet 0 .brim = true ∧ s.multi = none ∧ s.heldWrites = [] ∧ s.multiHolds = false) := by decide
/-- A BUSY context of a core that is disabled holds the HALT. -/
theorem test_disable_busy : nextIs (exec (.coreDisable 0) { coreBlk true true (coreCfg 0 72 48 15) {} with ctxs := [(0, { state := .busy, busyAfter := .running })] })
    (fun t => (t.ctx 0 .crown).held == some .halt && (t.coreSt 0).disabling) = true := by decide

theorem test_configuration : blockKind .tp4 0 = some (.core 0) ∧ blockKind .tp4 0x60 = some (.mc 0) ∧ blockKind .tp4 0x77 = some (.mc 23) ∧
    ready.windowOn = true ∧ ready.vigil = false ∧ ready.cfgFree 0 (.core 0) = true ∧ ready.multiHolds = false ∧ (core0 (ctxA 0 0)).cfgFree 0 (.core 0) = false := by decide
/-- MEMSPLIT and ACCSPLIT are stored at their bounds, 96 and 64. -/
theorem test_cfg_clamped : nextIs (exec (.registerWrite .jorto 0x8000 1 (leBytes 4 0x3FFFF)) ready) (fun t => (t.block 0).cfg == coreCfg 0 96 64 15) = true := by decide
theorem test_guard_lock : nextIs (exec (.guardWrite (.block 0x60) 0x7A5E91C3) ready) (fun t => (t.block 0x60).guardOpen) = true ∧
    nextIs (exec (.guardWrite (.block 0x60) 0x7A5E91C3) { ready with blocks := [(0x60, { blockDefault 0x60 with guardOpen := true })] })
      (fun t => (t.block 0x60).guardOpen == false) = true := by decide
/-- An RW object of four bytes takes its value at the nearest bound of its range. -/
def rq : Requester := ⟨.mgt, 1, 1⟩
theorem test_object_write : (findRow .tp4 0x2270 3).any (fun row => row.acc == .rw && row.fits 4 && row.typ == .u32) = true ∧ indexExists .tp4 0x2270 = true ∧
    ready.dorubOn rq = true ∧ ready.serves 0x2270 = true ∧ ready.vigil = false ∧ ready.multi = none := by decide
theorem test_object_bound : nextIs (exec (.registerWrite (.dorub rq) 0x2300 1 [0]) ready) (fun t => t.obj 0x2300 1 == 1) = true ∧
    nextIs (exec (.registerWrite (.dorub rq) 0x2300 1 [169]) ready) (fun t => t.obj 0x2300 1 == 168) = true := by decide

/-! ### Memory and stage slots -/

theorem test_scrub : 23 < Config.stackCount ready.part ∧ { ready with blocks := [(0x60, { blockDefault 0x60 with en := true })] }.memoryOn 0 = true := by decide
/-- Unit 0 of stack 0 is found correctable, corrected and counted; an uncorrectable one is poisoned. -/
theorem test_scrub_corrects : ∀ e ∈ [(({ errs := [(0, 1)] } : Codeword), UnitCond.clean, 1, 0), ({ errs := [(0, 1), (35, 0x8000)] }, .poisoned, 0, 1), ({ poison := true }, .poisoned, 0, 0)],
    nextIs (exec (.patrolScrub 0) { ready with blocks := [(0x60, { blockDefault 0x60 with en := true })], unitCode := [(0, e.1)] })
      (fun t => t.unitCondOf 0 == e.2.1 && t.tot 0x3300 1 == e.2.2.1 && t.tot 0x3300 2 == e.2.2.2) = true := by decide +kernel
theorem test_stack_fail : nextIs (exec (.stackFail 23) ready) (fun t => t.vigil && t.untrained == [23]) = true := by decide +kernel

/-- Slot 0 set up for one position and an exchange group of itself; its declaration, with no layer, lies at `a`. -/
def slotReady (a : Nat) : State :=
  { ready with
    ctxs := [(0, { state := .idle, windows := [(0, 2 ^ 20)] })], blocks := (List.range 24).map (fun k => (0x60 + k, { blockDefault (0x60 + k) with en := true })),
    mem := [(65536, 1)], unitKey := [(1024, 1)], octs := [(okey 0x7200 3, [0, 0, 0, 0])],
    objs := [(okey 0x7100 2, 1), (okey 0x7100 5, 64), (okey 0x7100 6, 131072), (okey 0x7100 7, 196608), (okey 0x7200 1, 1), (okey 0x7700 1, a)] }
theorem test_slot_bad : (ready.pkgTouch.slotOk 0 && ready.pkgTouch.xchOk 0) = false ∧ ready.slotEn 0 = false ∧ ready.slotEn 15 = false := by decide
theorem test_slot_enable : let u := (slotReady 65536).pkgTouch
    u.slotOk 0 = true ∧ u.xchOk 0 = true ∧ (u.layerTable 0).2 = some [] ∧ (slotReady 65536).slotEn 0 = false ∧
    ((u.layerTable 0).1.declare 0 []).2 = .ok [] 8192 := by decide +kernel
theorem test_slot_refused : let u := (slotReady 0).pkgTouch
    u.slotOk 0 = true ∧ u.xchOk 0 = true ∧ (u.layerTable 0).2 = some [] ∧ ((u.layerTable 0).1.declare 0 []).2 = .refused 1 := by decide +kernel
theorem test_slot_disable : nextIs (exec (.slotDisable 15) { ready with blocks := [(0xAF, { en := true })], slots := [(15, { declReason := 4, credits := [credit 1] })] })
    (fun t => (t.slot 15).credits == [] && (t.slot 15).declReason == 4 && !t.slotEn 15) = true := by decide

def withCredits (cs : List Credit) : State := { ready with slots := [(0, { credits := cs })] }
theorem test_credits : ((withCredits []).slot 0).credit ⟨1, 0⟩ .forward = none ∧ ((withCredits []).slot 0).credits.length < 8 ∧
    ((withCredits [credit 2]).slot 0).credit ⟨1, 0⟩ .forward = some (credit 2) := by decide
/-- A ninth grant, and a credit that finds no counter: received and revoked. -/
theorem test_credit_ninth : let s := withCredits ((List.range 8).map (fun i => { credit 1 with dst := ⟨i + 2, 0⟩ }))
    8 ≤ (s.slot 0).credits.length ∧ (s.slot 0).credit ⟨1, 0⟩ .forward = none ∧
    nextIs (exec (.grant 0 ⟨1, 0⟩ .forward 3) s) (fun t => (t.tot 0x3520 3, t.tot 0x3520 6) == (3, 3) && t.slot 0 == s.slot 0) = true ∧
    nextIs (exec (.creditReturn 0 ⟨1, 0⟩ .forward ⟨7, 0, 3⟩) s) (fun t => (t.tot 0x3520 5, t.tot 0x3520 6) == (1, 1)) = true := by decide
/-- A returned credit whose entry the table does not hold raises nothing. -/
theorem test_credit_unknown : (credit 2).outbound.contains ⟨7, 0, 3⟩ = false ∧ nextIs (exec (.creditReturn 0 ⟨1, 0⟩ .forward ⟨7, 0, 3⟩) (withCredits [credit 2]))
    (fun t => (t.slot 0).credits == [credit 2] && t.tot 0x3520 5 == 1) = true := by decide
theorem test_credit_return : nextIs (exec (.creditReturn 0 ⟨1, 0⟩ .forward ⟨7, 0, 3⟩) (withCredits [{ credit 0 with outbound := [⟨7, 0, 3⟩, ⟨7, 0, 4⟩] }]))
    (fun t => (t.slot 0).credits == [{ credit 1 with outbound := [⟨7, 0, 4⟩] }]) = true := by decide
/-- Slot 0 with node 1 slot 0 as forward producer of share 1, in an ACTIVE group at step 7 with VDELAY 0. -/
def consumer (v : Slot) (objs : Table Nat) : State :=
  { slotCore v qpop with
    octs := [(okey 0x7100 8, [1, 0, 0, 1])], objs := objs,
    ctxs := [(0, { state := .running, fS := some { op := qpop, started := true, blocked := true } })] }
def basic : Table Nat := [(okey 0x7100 2, 1), (okey 0x7100 3, 2), (okey 0x7100 4, 2), (okey 0x7100 5, 65536), (okey 0x7100 10, 1)]
def partA : QueuePart := ⟨0, .forward, ⟨1, 0⟩, 7 * 2 ^ 32, [1, 2], 0, true, 0⟩
theorem test_queue_part : let s := consumer {} basic
    s.slotEn 0 = true ∧ (s.producers 0 partA.queue).any (fun e => e.1 == partA.producer) = true ∧ partA.key = s.slotKey 0 ∧
    s.attEnded (mbStep partA.word.toNat) (mbAtt partA.word.toNat) = false ∧ s.wordDue 0 partA.word.toNat = false ∧
    (s.positions 0).contains (mbPart partA.word.toNat) = true ∧ partA.bytes.length ≤ s.partMax 0 ∧ (s.slot 0).queue partA.queue = [] ∧
    unitsUsed ((s.slot 0).queue partA.queue) + partUnits partA.bytes.length ≤ s.headUnits 0 partA.queue ∧ freeRing ((s.slot 0).queue partA.queue) = some 0 := by decide
/-- A part of an attempt that is over, one of a wrong version in an open step, and one byte too many: each gives its credit back. -/
theorem test_queue_part_refused : let s := consumer {} basic
    let t := { s with group := { s.group with atts := [(7, 1)] } }
    let u := { s with group := { s.group with stepLimit := 7 } }
    t.attEnded 7 0 = true ∧ t.attEnded 7 2 = false ∧ u.wordDue 0 (7 * 2 ^ 32) = true ∧ u.versionWrong 0 (7 * 2 ^ 32) = false ∧
    u.versionWrong 0 (7 * 2 ^ 32 + 2 ^ 24) = true ∧ s.partMax 0 = 65536 ∧
    nextIs (exec (.queuePart partA) t) (fun t => (t.slot 0).fwd == [] && t.tot 0x3280 9 == 1) = true ∧
    nextIs (exec (.queuePart { partA with word := 7 * 2 ^ 32 + 2 ^ 24 }) u) (fun t => (t.slot 0).fwd == [] && (t.slot 0).versionErr == [7]) = true := by decide +kernel
theorem test_queue_part_enters : nextIs (exec (.queuePart partA) (consumer {} basic)) (fun t => (t.slot 0).fwd.map (·.parts.length) == [1]) = true := by decide
def entryB (spilled : Bool) : QEntry := { ring := 0, key := ⟨7, 0, 0⟩, producer := ⟨1, 0⟩, parts := [{ pos := 0, word := 7 * 2 ^ 32, size := 2, bytes := if spilled then [] else [1, 2], spilled := spilled }] }
/-- The doorbell of step 7 has come, so the step is open. -/
def deciding (v : Slot) : State := let s := consumer v basic; { s with group := { s.group with stepLimit := 7 } }
theorem test_decision : (deciding { bwd := [entryB false] }).asked 0 = true ∧ (deciding { bwd := [entryB false] }).lowestEntry 0 .backward = some (entryB false) ∧
    (deciding { fwd := [entryB false] }).asked 0 = true ∧ (deciding { fwd := [entryB false] }).lowestEntry 0 .backward = none ∧
    (deciding { fwd := [entryB false] }).lowestEntry 0 .forward = some (entryB false) ∧ (0 : Nat) < (deciding {}).fwdAhead 0 := by decide
theorem test_decision_takes : nextIs (exec (.schedulerDecision 0) (deciding { fwd := [entryB false] })) (fun t =>
    (t.slot 0).decisions == [⟨0, .forward, ⟨7, 0, 0⟩⟩] && (t.slot 0).flying == [⟨7, 0, 0⟩]) = true := by decide
theorem test_spill : let s := consumer { fwd := [entryB true] } basic
    (s.slot 0).queue .forward = [entryB true] ∧ s.complete? 0 (entryB true) = true ∧ partUnits 2 + unitsUsed [entryB true] ≤ s.headUnits 0 .forward ∧
    (s.hbmRead (s.slotKey 0) (s.spillAddr 0 .forward 0 0) 2).2.isSome = true := by decide +kernel

/-! ### Step group, exchange, watch, power -/

def grouped (g : Group) : State := { ready with group := g }
/-- MEMBERS, GROUP_SIZE and RANK for a FORM. -/
def forming (size rank : Nat) (bs : List Byte) (g : Group) : State := { ready with objs := [(okey 0x7000 3, size), (okey 0x7000 4, rank)], octs := [(okey 0x7000 5, bs)], group := g }
theorem test_form_premises : (grouped { inDoubt := true, state := .stalled }).group.inDoubt = true ∧ (forming 1 0 [0, 0] {}).memberList = [ready.boot.node] ∧
    (forming 1 0 [0, 0] {}).objInt 0x7300 3 ≤ (forming 1 0 [0, 0] {}).objInt 0x7300 4 ∧ (forming 1 0 [0, 0] {}).obj 0x7000 3 = 1 ∧
    (forming 1 1 [0, 0] {}).obj 0x7000 3 ≤ (forming 1 1 [0, 0] {}).obj 0x7000 4 ∧ ¬ (forming 2 0 [0, 0, 0, 0] {}).memberList.Nodup ∧
    (forming 1 0 [1, 0] {}).memberList.getD 0 65536 ≠ ready.boot.node := by decide
theorem test_form_one : nextIs (exec .form (forming 1 0 [0, 0] {})) (fun t => t.group.state == .active && t.group.version == 0) = true ∧
    nextIs (exec .form (forming 2 0 [0, 0, 0, 0] {})) (fun t => t.group.state == .rejected && t.group.reason == 4) = true := by decide
theorem test_resolve : nextIs (exec .resolveFeast (grouped { inDoubt := true, state := .stalled, exchStep := 9, inDoubtStep := 9, version := 4 }))
    (fun t => t.group.version == 5 && t.group.lastStep == 9 && !t.group.inDoubt) = true := by decide
/-- A root of three members that has one record; a record without difference from the other child forms the group. -/
def recA : FormRecord := ⟨.tp4, 0, 3, 0, 0, 0, 0, 0, 0, 0⟩
def root3 : Group := { state := .forming, size := 3, members := [0, 1, 2], childRecs := [(1, recA)] }
theorem test_formation : (grouped root3).up = true ∧ root3.children = [1, 2] ∧ recordReason (grouped root3).ownRecord [recA, recA] = 0 ∧
    recA.groupId = root3.id ∧ ({ state := .forming, size := 3, rank := 1 } : Group).rank ≠ 0 := by decide
/-- A child's rejection before the member's own FORM is kept, and the FORM ends in it with its reason. -/
theorem test_rejected_early : let s := forming 2 0 [0, 0, 1, 0] {}
    s.stopped = true ∧ nextIs (exec (.rejected 1 { kind := .rejected, reason := 6 }) s) (fun t => t.group.childRejects == [(1, 0, 6)] &&
      nextIs (exec .form t) (fun u => u.group.state == .rejected && u.group.reason == 6)) = true := by decide
theorem test_formation_done : nextIs (exec (.formRec 2 recA) (grouped root3)) (fun t => t.group.state == .active) = true ∧
    nextIs (exec (.formRec 2 { recA with part := .tp2 }) (grouped root3)) (fun t => t.group.reason == 1) = true := by decide
/-- A member of rank 1 in an ACTIVE group at step 5, attempt 0. -/
def member1 : Group := { state := .active, size := 4, rank := 1, members := [0, 1, 2, 3], exchStep := 5, version := 2, lsMax := 8, lsGrowth := 100, repeatLimit := 3 }
def commitAt (kind : CommitKind) (version : Nat) : CommitMsg := { kind := kind, step := 5, version := version, count := 1 }
theorem test_outcomes : (grouped member1).commitFits (commitAt .feast 3) = true ∧ (grouped member1).commitFits { commitAt .feast 3 with att := 1 } = false ∧
    member1.rank ≠ 0 ∧ member1.children = [3] := by decide
theorem test_feast : nextIs (exec (.feast (commitAt .feast 3)) (grouped member1)) (fun t => t.group.version == 3 && t.group.exchStep == 6 && t.group.clean == 1) = true := by decide
theorem test_fast_repeat : nextIs (exec (.fastRepeat { commitAt .fastRepeat 2 with stop := true }) (grouped member1))
    (fun t => t.group.state == .stalled && t.group.reason == 7 && t.attOf 5 == 1) = true := by decide
def root2 (reports : List Report) : State :=
  { ready with
    blocks := [(0xA0, { en := true })], objs := [(okey 0x7100 2, 1)],
    group := { state := .active, size := 2, members := [0, 1], exchStep := 5, reports := reports, firstEveKnown := true, repeatLimit := 1 } }
theorem test_eves : (root2 []).group.children = [1] ∧ (root2 []).localComplete = false ∧ (root2 [⟨1, 0, 0, 0, 0⟩]).localComplete = true ∧
    (root2 []).commitFits (commitAt .eve 0) = true ∧ 1 + (([(1, (commitAt .eve 0).count, 0)] : List (Nat × Nat × Nat)).map (·.2.1)).sum = (root2 []).group.size := by decide
theorem test_eve_decides : nextIs (exec (.eve 1 (commitAt .eve 0)) (root2 [⟨1, 0, 0, 0, 0⟩])) (fun t => t.group.lastKind == 3 && t.group.version == 1) = true ∧
    nextIs (exec (.eve 1 { commitAt .eve 0 with nfCount := 1 }) (root2 [⟨1, 0, 0, 0, 0⟩])) (fun t => t.group.lastKind == 5 && t.group.version == 0) = true := by decide
theorem test_watchdog_stops : nextIs (exec .stepWatchdog (root2 [])) (fun t => t.group.state == .stalled && t.group.lastKind == 4) = true := by decide
theorem test_self_fast : nextIs (exec .selfFast (grouped { member1 with eveSent := true })) (fun t => t.group.inDoubt && t.group.reason == 8) = true := by decide

/-- Slot 0 of an exchange group of three; node 0 has rank 0. -/
def xch3 (g : Group) : State :=
  { slotCore { layers := [layerA false] } qpop with
    objs := [(okey 0x7100 2, 1), (okey 0x7200 1, 3)], octs := [(okey 0x7200 3, [0, 0, 0, 0, 1, 0, 0, 0, 2, 0, 0, 0])], group := g }
def partialA (slice level index : Nat) : Partial := ⟨0, slice, 0, 7, 0, level, index, false, [], [], false, 0, 1, false⟩
theorem test_partials : (xch3 (exch [] [])).attOver 6 0 = true ∧ (xch3 (exch [] [])).attOver 7 0 = false ∧ (xch3 (exch [] [])).layer 0 0 = some (layerA false) ∧
    1 < ceilDiv ((xch3 (exch [] [])).xchSize 0) (2 ^ 0) ∧ (xch3 (exch [] [])).xchMember 0 ((xch3 (exch [] [])).combiner 0 0 1 0) = (xch3 (exch [] [])).here 0 ∧
    Nat.xor 0 1 < ceilDiv ((xch3 (exch [] [])).xchSize 0) (2 ^ 0) ∧ (xch3 (exch [] [])).xchMember 0 ((xch3 (exch [] [])).combiner 0 1 1 0) ≠ (xch3 (exch [] [])).here 0 := by decide
theorem test_partial_held : nextIs (exec (.exchPartial 0 (partialA 0 0 0)) (xch3 (exch [] []))) (fun t => t.group.partials.length == 1) = true ∧
    nextIs (exec (.exchPartial 0 (partialA 1 0 0)) (xch3 (exch [] []))) (fun t => t.group.partials == [] && t.sent.length == 1) = true := by decide
/-- The members on nodes 0 to 2 span dimension X; a delivery that no window of the key slot takes. -/
theorem test_smcast_spans : spanned ((xch3 (exch [] [])).xchNodes 0) = [0] := by decide
theorem test_delivery_refused : ((xch3 (exch [] [])).outsideWrite .remote 0 65536 [1]).2 ≠ .ok := by decide
/-- A partial that comes while this member is still forming; a factor part of a live attempt. -/
theorem test_partial_forming : let s := xch3 { state := .forming, firstStep := 7 }
    s.attOver 7 0 = false ∧ s.attOver 6 0 = true ∧ s.slotEn 0 = true ∧ s.group.stopped.contains (0, 0, 0, 0) = false ∧
    nextIs (exec (.exchPartial 0 (partialA 0 0 0)) s) (fun t => t.group.partials.length == 1) = true := by decide
theorem test_factor_part : let s := xch3 (exch [] [])
    let f : FactorPart := ⟨0, 0, 0, 1, 7, 0, true, [], 0, 0⟩
    s.attOver f.step f.att = false ∧ (s.layer 0 f.layer).isSome = true ∧ s.hasKey (s.slotKey 0) = true := by decide
/-- What R307 finds for a region: in a window, in none, and with its controller off. -/
def windowed (mc : Bool) (ws : List (Nat × Nat)) : State :=
  { xch3 (exch [] []) with ctxs := [(0, { state := .running, windows := ws })], blocks := [(0x60, { blockDefault 0x60 with en := mc }), (0xA0, { en := true })] }
theorem test_runs_admit : (windowed true [(0, 64)]).runsAdmit 0 ⟨0, 2, 2, 2⟩ = .ok ∧ (windowed true []).runsAdmit 0 ⟨0, 2, 2, 2⟩ = .isolation ∧
    (windowed true [(0, 64)]).runsAdmit 0 ⟨0, 2, 64, 4⟩ = .isolation ∧ (windowed false [(0, 64)]).runsAdmit 0 ⟨0, 2, 2, 2⟩ = .closed ∧
    runPieces 3 10 2 5 = [(0, 2, 1), (1, 10, 3), (4, 20, 1)] := by decide +kernel
def deliveryA : Delivery := ⟨⟨1, 0⟩, 0, 0, 0, 7, 0, 0, 2, 2, [1, 2], [], true, 0, 0, 0⟩
theorem test_delivery : let s := { xch3 (exch [] []) with ctxs := [(0, { state := .running, windows := [(0, 64)] })], blocks := [(0x60, { blockDefault 0x60 with en := true }), (0xA0, { en := true })], security := { (ready.security) with keys := [(0, { gen := 1, listed := true, ranges := [(0, 4096)] })] } }
    s.attOver 7 0 = false ∧ s.exchBegun 7 = true ∧ (s.outsideWrite .remote deliveryA.key deliveryA.base deliveryA.bytes).2 = .ok ∧ s.memberSlots deliveryA.owner = [0] ∧
    ((s.memberSlots deliveryA.owner).all (fun k => ((s.outsideWrite .remote deliveryA.key deliveryA.base deliveryA.bytes).1.layer k deliveryA.layer).isSome)) = true := by decide +kernel

def dueA (ev : Bool) : WatchDue := ⟨5, 0, ev⟩
def watched (ev : Bool) : State :=
  { ready with
    watchDue := [dueA ev], live := [⟨5, 0, 0, { elems := 1000, zeros := 999 }⟩, ⟨6, 0, 0, { elems := 9 }⟩],
    watch := [(0, { valid := true, zsLimit := 64, zsPpm := 999000, satPpm := 10000 }), (7, { tid := 1 })] }
theorem test_watch_due : ∀ ev ∈ [true, false], (watched ev).watchDue.find? (fun d => (watched ev).attemptDone d.step d.att) = some (dueA ev) ∧ (watched ev).watchNew = [] ∧
    Table.wf {} (watched ev).watch = true := by decide
/-- 999 zeros of 1000 reach 999,000 ppm: the streak rises; the next step's counts stay. -/
theorem test_watch_streak : nextIs (exec .watchEvaluation (watched true)) (fun t => (t.watchEntry 0).streak == 1 && (t.watchEntry 0).c.elems == 1000 && t.live.length == 1) = true := by decide
theorem test_watch_premises : ready.multiHolds = false ∧ ready.boot.state = .ready ∧ (1023 : Nat) < 1024 := by decide
theorem test_watch_write : nextIs (exec (.watchTableWrite (64 * 1023) ([5, 0, 0, 0, 1, 0, 1] ++ List.replicate 57 0)) ready)
    (fun t => (t.watchWritten 1023).zsLimit == 2 && (t.watchWritten 1023).zsPpm == 500000 && (t.watchWritten 1023).valid && !(t.watchEntry 1023).valid) = true := by decide

/-- A member of an ACTIVE group with one power sample and a settle due. -/
def levels (g : Group) (p : Power) : State := { ready with group := g, power := p }
def downMsg (level epoch : Nat) : LanternMsg := ⟨0, level, 0, epoch, 0, 0⟩
theorem test_running_level : let s := levels member1 { samples := 1, settleDue := true }
    s.fabricOn = true ∧ s.power.samples ≠ 0 ∧ s.group.state = .active ∧ (downMsg 3 0).groupId = s.group.id ∧ (downMsg 3 0).epoch = s.power.epoch ∧
    s.power.settleDue = true ∧ (levels {} { samples := 1 }).fabricOn = true ∧ (levels {} { samples := 1 }).group.state ≠ .active := by decide
theorem test_level_alone : nextIs (exec (.thermalLoop [105] [0]) (levels {} { samples := 1, groupLevel := 19, aTh := 4 })) (fun t => t.power.target == 19) = true ∧
    nextIs (exec .capLoop (levels {} { samples := 1, groupLevel := 19, aTh := 4 })) (fun t => t.power.target == 4) = true := by decide
theorem test_level_max : nextIs (exec (.lanternDown (downMsg 9 0)) (levels member1 { samples := 1, aTh := 4 })) (fun t => t.power.target == 9) = true := by decide
/-- Each cause at its limit, and short of it: rail 4 (VHBM) at 1,050 mV and 100 A. -/
theorem test_reg_trip : (∀ c ∈ [TripCause.inputUnder 5199 5, .inputOver 6901, .outputOver 1155, .outputCurrent 100000],
      nextIs (exec (.regTrip 1 ⟨4, c⟩) ready) (fun t => t.vigil && t.power.railsOff == [(1, 4)]) = true) ∧
    ∀ c ∈ [TripCause.inputUnder 5200 5, .inputUnder 5199 4, .inputOver 6900, .outputOver 1154, .outputCurrent 99999],
      nextIs (exec (.regTrip 1 ⟨4, c⟩) ready) (fun t => !t.vigil && t.power.railsOff == []) = true := by decide +kernel
/-- A change under way as the package enters Vigil mode ends there. -/
theorem test_vigil_change : nextIs (exec .levelChangeDone { ready with boot := { state := .vigil }, power := { changing := true, target := 5 } })
    (fun t => !t.power.changing && t.power.level == 5) = true := by decide
/-- At the cap A_cap stays, one milliwatt above it rises. -/
theorem test_cap_loop : nextIs (exec .capLoop (levels {} { samples := 1, sampleSum := 4400001 })) (fun t => t.power.aCap == 1) = true ∧
    nextIs (exec .capLoop (levels {} { samples := 1, sampleSum := 4400000 })) (fun t => t.power.aCap == 0) = true := by decide
theorem test_power_premises : (levels {} { samples := 1, changing := true }).fabricOn = true ∧ (levels {} { samples := 1 }).vigil = false ∧ (3 : Nat) < Config.dies ready.part ∧
    (115 ≤ 115 ∨ 105 ≤ (0 : Nat)) ∧ (95 : Nat) < Config.cores ready.part := by decide
theorem test_thermal_edges : nextIs (exec (.thermalLoop [105] [0]) ready) (fun t => t.power.aTh == 19 && t.power.atLimit) = true ∧
    nextIs (exec (.thermalLoop [104] [94]) { ready with power := { aTh := 3 } }) (fun t => t.power.aTh == 4 && !t.power.atLimit) = true := by decide
theorem test_pkg_cap : nextIs (exec (.pkgCapWrite 0) ready) (fun t => t.obj 0x2400 1 == Config.capFloor .tp4 && t.tot 0x3400 13 == 1) = true := by decide

theorem test_lantern_premises : let s := levels member1 { epoch := 4, groupLevel := 6, settleDue := true, kept1 := 2 }
    s.fabricOn = true ∧ s.allowed ≤ max 3 s.power.kept1 ∧ member1.rank ≠ 0 ∧ member1.size ≤ 2 * 3 + 1 ∧ (levels { member1 with rank := 0 } {}).group.children = [1, 2] := by decide
theorem test_lantern_set : nextIs (exec (.lanternSet (downMsg 3 5)) (levels member1 { epoch := 4, groupLevel := 6, kept1 := 2 }))
    (fun t => t.power.epoch == 5 && t.power.pendingLevel == 3 && t.power.settleDue && t.power.groupLevel == 6) = true := by decide
/-- A late REPLY of the round before is stale. -/
theorem test_lantern_late : nextIs (exec (.lanternReply 1 (downMsg 3 1)) (levels { member1 with rank := 0 } { roundOpen := true, roundEpoch := 1, roundNo := 1 }))
    (fun t => t.power.replies == [] && t.tot 0x3400 17 == 1) = true := by decide
theorem test_lantern_reply : let g := { member1 with rank := 0 }
    nextIs (exec (.lanternReply 1 (downMsg 3 1)) (levels g { roundOpen := true, roundEpoch := 1 })) (fun t => t.power.replies == [(1, 3, 0)]) = true := by decide

/-! ### Expert messages and the fabric -/

/-- Two ranks with three offers, a bank of two rows, start rank 1: the first offer of rank 1, then that of rank 0. -/
def rowOf (t : Nat) : ExpertRow := ⟨t, 0, 0, []⟩
theorem test_serve : serve ((3 + 1) * (2 + 1)) 2 1 [[rowOf 0, rowOf 1], [rowOf 2]] = [(1, rowOf 2), (0, rowOf 0)] ∧
    1 < [[rowOf 0, rowOf 1], [rowOf 2]].length ∧ [[rowOf 0, rowOf 1], [rowOf 2]].getD 1 [] = [rowOf 2] := by decide
/-- Offers are ascending by token and choice, whatever the message's order. -/
theorem test_offers : (⟨0, 0, 0, [⟨0, 0, 0, 0, [⟨5, 0, 0, []⟩, ⟨2, 1, 0, []⟩, ⟨2, 0, 0, []⟩, ⟨1, 0, 1, []⟩]⟩]⟩ : XHold).offers 0 1 =
    [[⟨2, 0, 0, []⟩, ⟨2, 1, 0, []⟩, ⟨5, 0, 0, []⟩]] := by decide
def expMsg (att xseq : Nat) : ExpertMsg := ⟨0, xseq, 0, att, [⟨0, 0, 0, [1, 2]⟩]⟩
def holdA : XHold := ⟨0, 0, 0, [expMsg 0 0]⟩
def sourceB (settled : List NodeSlot) : XSource := ⟨0, 0, 0, 0, 32768, 65536, 1, 1, settled, [], []⟩
/-- Two experts at slots 0 of nodes 0 and 1, so that a first SETTLE leaves the source waiting. -/
def exp2 (v : Slot) : State :=
  { expCore v [] (xmap 18) with
    objs := [(okey 0x7100 2, 1), (okey 0x7600 1, 2), (okey 0x7600 4, 1), (okey 0x7600 7, 1), (okey 0x7600 9, 1)],
    octs := [(okey 0x7600 2, [0, 0, 0, 0, 1, 0, 0, 0]), (okey 0x7600 3, [0, 0, 0, 0])] }
theorem test_expert_hold : let s := exp2 {}
    s.up = true ∧ s.slotEn 0 = true ∧ s.attEnded 0 0 = false ∧ s.attEnded 0 15 = true ∧ (s.slot 0).bankHeld 0 0 0 = false ∧
    ((exp2 { xbanks := [bankA] }).slot 0).bankHeld 2 0 0 = true := by decide
theorem test_expert_settle_ready : let s := exp2 { xholds := [holdA] }
    (s.slot 0).xholds.find? (fun h => h.xseq == 0 && (List.range (s.expSources 0).length).all (fun r => h.msgs.any (fun m => m.rank == r))) = some holdA := by decide
theorem test_settle : (exp2 { xsources := [sourceB []] }).settledAll 0 (sourceB [⟨0, 0⟩]) = false ∧ (exp2 {}).settledAll 0 (sourceB [⟨1, 0⟩, ⟨0, 0⟩]) = true ∧
    nextIs (exec (.settle 0 ⟨⟨0, 0⟩, 0, 0, 0, []⟩) (exp2 { xsources := [sourceB []] })) (fun t => (t.slot 0).xsources == [sourceB [⟨0, 0⟩]]) = true ∧
    nextIs (exec (.settle 0 ⟨⟨0, 0⟩, 0, 0, 0, []⟩) (exp2 { xsources := [sourceB [⟨1, 0⟩]] })) (fun t => t.tot 0x32A0 2 == 1) = true := by decide +kernel
theorem test_settle_stale : nextIs (exec (.settle 0 ⟨⟨0, 0⟩, 3, 0, 0, []⟩) (exp2 {})) (fun t => t.tot 0x32A0 7 == 1) = true := by decide
theorem test_reshard_receiver : let s := reshardCore (reshardA false false)
    s.receiver 0 0 = some (reshardA false false) ∧ s.receiver 0 1 = none ∧ (descOf (reshardA false false).desc).extent = 2112 ∧
    s.reaches ⟨0, .crown, 0, 0⟩ 0 (2112 + 2110) 2 = true := by decide
theorem test_reshard_bounds : nextIs (exec (.reshardTransfer 0 0 2110 [1, 2]) (reshardCore (reshardA false false))) (fun t => t.byte (coreBase 0 + 4223) == 2) = true ∧
    nextIs (exec (.reshardTransfer 0 0 2111 [1, 2]) (reshardCore (reshardA false false))) (fun t => t.byte (coreBase 0 + 4223) == 0 && t.tot 0x32A0 11 == 2) = true := by decide
/-- No byte was expected and none came; one byte announced fails the check. -/
theorem test_notice : nextIs (exec (.notice 0 0 0) (reshardCore (reshardA false false))) (fun t => t.reshards.map (fun r => (r.checked, r.failed)) == [(true, false)]) = true ∧
    nextIs (exec (.notice 0 0 1) (reshardCore (reshardA false false))) (fun t => t.reshards.map (fun r => (r.checked, r.failed)) == [(true, true)]) = true := by decide

/-- Node 0 of a torus of two nodes along X, port 0 with the credits given. -/
def fabric (st : PortState) (credit : Nat) (h : HeldPacket) : State :=
  { ready with
    boot := { state := .ready, dim := 1 }, almanac := { cur := .generated 0 1 }, router := [h],
    fports := [(0, { state := st, credits := List.replicate 8 credit })] }
def held (dst hops edition : Nat) : HeldPacket := ⟨{ dst := dst, src := 0, sunit := 0, cls := 0, hops := hops, edition := edition, len := 1, body := .write [1] }, none, 0, 0, 0, [], false, false⟩
/-- Each way a packet can go: out with just enough credits, waiting with one too few, delivered, unreachable, 63 links, no port, no bank. -/
theorem test_hop : (held 1 62 0).p.flits = 2 ∧ (fabric .up 2 (held 1 62 0)).hop (held 1 62 0) = .out 0 false ∧ (fabric .up 1 (held 1 0 0)).hop (held 1 0 0) = .wait 0 0 ∧
    (fabric .up 2 (held 0 0 0)).hop (held 0 0 0) = .deliver ∧ (fabric .up 2 (held 2 0 0)).hop (held 2 0 0) = .unreachable ∧
    (fabric .up 2 (held 1 63 0)).hop (held 1 63 0) = .loop ∧ (fabric .down 2 (held 1 0 0)).hop (held 1 0 0) = .noPort ∧
    (fabric .up 2 (held 1 0 1)).hop (held 1 0 1) = .stale ∧ (fabric .up 2 (held 1 0 0)).fabricOn = true ∧ (fabric .up 2 (held 1 0 0)).router[0]? = some (held 1 0 0) := by decide +kernel
theorem test_route_sends : nextIs (exec (.packetRoute 0) (fabric .up 2 (held 1 62 0))) (fun t => t.router == [] && (t.fport 0).credits.getD 0 9 == 0 && (t.fport 0).replay.length == 1) = true := by decide +kernel
/-- Two packets of one channel for port 0: the first one's turn. A packet with PRI = 1 takes its share of the peer's buffer. -/
theorem test_turn : let s := { fabric .up 64 (held 1 0 0) with router := [held 1 0 0, held 1 0 0] }
    s.turn 0 0 = true ∧ s.turn 0 1 = false ∧
    nextIs (exec (.packetRoute 1) s) (fun t => t.router.length == 2) = true ∧ nextIs (exec (.packetRoute 0) s) (fun t => t.router.length == 1) = true := by decide +kernel
def heldBrim : HeldPacket := { held 1 0 0 with p := { (held 1 0 0).p with pri := true } }
theorem test_brim_share : (fabric .up 64 heldBrim).hop heldBrim = .out 0 false ∧ ((fabric .up 64 heldBrim).fport 0).brimHeld 0 + heldBrim.p.flits ≤ (fabric .up 64 heldBrim).obj 0x6000 3 := by decide +kernel
/-- A packet of die 3 that is to leave by port 0 of die 0 crosses to die 2 first, one that is for this node's die 0 too. -/
theorem test_cross : ({ held 1 0 0 with die := 3 } : HeldPacket).die ≠ portIdx 0 ∧ ({ held 0 0 0 with die := 3 } : HeldPacket).die ≠ State.destDie (fabric .up 2 (held 0 0 0)) (held 0 0 0).p ∧
    nextIs (exec (.packetRoute 0) (fabric .up 2 { held 1 0 0 with die := 3 })) (fun t => t.router.map (·.die) == [2]) = true ∧
    nextIs (exec (.packetRoute 0) (fabric .up 2 { held 0 0 0 with die := 3 })) (fun t => t.router.map (fun h => (h.die, h.left)) == [(2, true)]) = true := by decide +kernel
/-- A packet of no bank's edition is counted and recorded, and its sender, this node, hears UNREACHABLE. -/
theorem test_stale : (held 1 0 1).copy = false ∧ (held 1 0 1).p.line = false ∧
    nextIs (exec (.packetRoute 0) (fabric .up 2 (held 1 0 1))) (fun t => t.router.map (·.p.body) == [.errorRsp 2] && t.tot 0x6300 3 == 1 && (t.errQueue 0).map (·.cls) == [0x13]) = true := by decide +kernel
/-- A LINE packet of the line's last member is delivered there, and its copy to the inbox. -/
theorem test_line : let h : HeldPacket := { held 0 0 0 with p := { (held 0 0 0).p with line := true } }
    (fabric .up 2 h).hop h = .deliver ∧ h.p.line = true ∧ h.copy = false ∧ (fabric .up 2 h).hop { h with copy := true } = .deliver ∧
    nextIs (exec (.packetRoute 0) (fabric .up 2 { h with copy := true })) (fun t => t.inbox.length == 1) = true := by decide +kernel
/-- A context of core 0 lets key slot 0 in from outside. -/
def inboxed (warm : Bool) (p : Packet) : State :=
  { core0 { state := .running } with boot := { state := .ready, warm := warm }, inbox := [(0, p)] }
def request (count : Nat) (close : Bool) (b : Body) : Packet := { dst := 0, src := 1, sunit := 0, cls := 0, count := count, close := close, addr := coreBase 0 + 8, body := b }
theorem test_receive : ∀ p ∈ [request 1 true (.write [1]), request 0 true (.readReq 8), request 1 true (.atomic 5), request 2 true (.write [1]), request 2 false (.write [1])],
    p.isRsp = false ∧ (inboxed false p).inbox[0]? = some (0, p) ∧ { inboxed false p with inbox := [] }.msgEntry 0 p = none ∧ (inboxed false p).fabricOn = true ∧
    (((inboxed false p).msgTable.filter (fun e => e.die == 0)).length < 4096) ∧ p.addr % 8 = 0 ∧
    ((inboxed false p).outsideRead .remote p.key p.addr 8).2.1 = .ok ∧ ((inboxed false p).outsideWrite .remote p.key p.addr [1]).2 = .ok ∧
    (inboxed false p).sender p = .remote ∧ ((inboxed false p).admitted .remote p.key p.addr 8).2 = true ∧ p.line = false ∧ p.mesh = false := by decide
/-- A range that no window of the key slot reaches. -/
theorem test_receive_refused : let p := { request 1 true (.write [1]) with addr := 0 }
    ((inboxed false p).admitted ((inboxed false p).sender p) p.key (accessRange p 1).1 (accessRange p 1).2).2 = false ∧
    nextIs (exec (.packetReceive 0) (inboxed false p)) (fun t => t.router.map (fun h => h.p.body) == [.errorRsp 1]) = true := by decide
theorem test_receive_full : 4096 ≤ ((List.replicate 4096 (⟨0, 2, 0, 0, 1, none, 0, []⟩ : MsgEntry)).filter (fun e => e.die == 0)).length := by decide +kernel
theorem test_atomic : nextIs (exec (.packetReceive 0) (inboxed false (request 1 true (.atomic 0xFFFFFFFFFFFFFFFF))))
    (fun t => t.byte (coreBase 0 + 15) == 0xFF && t.router.map (fun h => h.p.body) == [.ack]) = true := by decide
theorem test_receive_warm : nextIs (exec (.packetReceive 0) (inboxed true (request 1 true (.write [1])))) (fun t => t.router.map (fun h => h.p.body) == [.errorRsp 2]) = true := by decide

/-- In a warm reset a credit that comes is counted as received and revoked. -/
theorem test_warm_credit : nextIs (exec (.packetReceive 0) (inboxed true (request 1 true (.credit (.grant 0 ⟨1, 0⟩ .forward 3)))))
    (fun t => (t.tot 0x3520 3, t.tot 0x3520 6) == (3, 3)) = true := by decide
/-- A node with a further stage to start joins the packets of a delivery again. -/
theorem test_join_delivery : let d : Delivery := ⟨⟨1, 0⟩, 0, 0, 0, 7, 0, 64, 4, 8, [1, 2, 3], [9], false, 0, 0, 0⟩
    let p : Packet := { request 2 true (.exchDelivery { d with off := 2, total := 3, bytes := [3] }) with line := true, stages := 1 }
    let q : Packet := { request 2 false (.exchDelivery { d with total := 3, bytes := [1, 2], exps := [] }) with line := true, stages := 1 }
    (joinDelivery p (partPiece q)).body = .exchDelivery d ∧ (joinDelivery p (partPiece q)).addr = 64 := by decide
/-- A packet that does not close its message writes its bytes; the closing one, refused with BUSY, leaves the entry for its resend. -/
theorem test_more : nextIs (exec (.packetReceive 0) (inboxed false (request 2 false (.write [1])))) (fun t => t.byte (coreBase 0 + 8) == 1 &&
      t.msgTable.map (fun e => (e.count, e.held.isNone)) == [(1, true)]) = true := by decide
theorem test_busy_close : let p := request 2 true (.reshard 0 0 0 [1])
    let en : MsgEntry := ⟨0, 1, 0, 0, 1, none, 0, []⟩
    let s := { inboxed false p with msgTable := [en] }
    { s with inbox := [] }.msgEntry 0 p = some en ∧
    (({ s with inbox := [] }.dropEntry en).effect (joinPart p en.data) en.status).2 = .busy ∧
    nextIs (exec (.packetReceive 0) s) (fun t => t.msgTable == [en] && t.tot 0x6300 5 == 1) = true := by decide +kernel
def entryHeld : MsgEntry := ⟨0, 1, 0, 3, 1, some (request 2 true (.write [1])), 0, []⟩
theorem test_hold : { ready with msgTable := [entryHeld] }.msgTable.find? (fun e => e.src == 1 && e.sunit == 0 && e.msgid == 3 && e.held.isSome) = some entryHeld ∧
    entryHeld.held = some (request 2 true (.write [1])) := by decide
def msgOf (acks : Nat) (busy : List Packet) (op : Option (Nat × Ctx)) : SrcMsg := { sunit := 0, msgid := 3, packets := [request 1 true (.write [1])], acks := acks, op := op, busy := busy }
/-- An SPUT of core 0 waits for message 3. -/
def waitingOn (m : SrcMsg) : State :=
  { core0 (({ state := .running } : Context).setFlight .stream (some { op := sput 0, started := true, blocked := true, awaiting := [3] })) with sent := [m] }
theorem test_message_ends : (waitingOn (msgOf 1 [] (some (0, .crown)))).sentMsg 0 3 = some (msgOf 1 [] (some (0, .crown))) ∧
    ((waitingOn (msgOf 1 [] none)).ctx 0 .crown).fS.map (fun f => (f.awaiting, f.status)) = some ([3], 0) ∧ opcodeOf .stream (sput 0).word ≠ 20 ∧
    (waitingOn (msgOf 1 [] none)).localAccess (sput 0) = false ∧ (msgOf 2 [request 1 true (.write [1])] none).busy = [request 1 true (.write [1])] ∧ 1 < (msgOf 2 [] none).acks := by decide
theorem test_ack_ends : nextIs (exec (.ack 0 3 65535) (waitingOn (msgOf 1 [] (some (0, .crown))))) (fun t => (t.ctx 0 .crown).fS.map (·.done) == some true && t.sent == []) = true ∧
    nextIs (exec (.errorRsp 0 3 4) (waitingOn (msgOf 1 [] (some (0, .crown))))) (fun t => (t.ctx 0 .crown).fS.map (·.status) == some 4) = true := by decide

/-- An SPUT and a QPUSH whose packets were turned away send them again with the bytes of their source. -/
theorem test_resend : ∀ e ∈ [(sput 0, Body.write [1]), (qpush, .queuePart ⟨0, .forward, ⟨0, 0⟩, 7 * 2 ^ 32, [1], 0, true, 0⟩)],
    let s := core0 (({ state := .running } : Context).setFlight .stream (some { op := e.1, started := true, blocked := true, awaiting := [3] }))
    let m : SrcMsg := { sunit := 0, msgid := 3, packets := [request 1 true e.2], acks := 1, op := some (0, .crown), busy := [request 1 true e.2] }
    (s.ctx 0 .crown).fS.map (fun f => f.awaiting.contains 3) = some true ∧ { s with sent := [m] }.sentMsg 0 3 = some m ∧
    nextIs (exec (.busyResend 0 3) { s with sent := [m] }) (fun t => t.router.length == 1 && t.sent.map (·.busy) == [[]]) = true := by decide +kernel
/-- Ports of node 0 in the torus of two. -/
def ported (f : FPort) (en : Bool) (nodeBad : Bool) : State :=
  { ready with boot := { state := .ready, dim := 1, nodeBad := nodeBad }, fports := [(0, f)], blocks := [(0x80, { en := en })] }
/-- Frames of one flit's length, so that their CRC-32 is short. -/
def frameA : LinkFrame := .ofRaw 0 0 false [] [] []
def resending (n : Nat) : FPort := { state := .up, replay := [frameA], resends := n, txNext := 1 }
theorem test_frames : (ported (resending 14) true false).fabricOn = true ∧ (0 : Nat) = ((resending 14).rxLast + 1) % 4096 ∧ ((resending 14).acked 4095).1.replay ≠ [] ∧
    ((resending 14).acked 4095).1.resends + 1 < 16 ∧ (resending 14).resends + 1 < 16 ∧ 16 ≤ (resending 15).resends + 1 ∧ (31 : Nat) < Config.ports ready.part := by decide +kernel
/-- A sound frame that returns three credits of channel 0 and one of channel 7; one that fails its CRC, and one with 16 symbols wrong in a codeword. -/
theorem test_frame_checks : let r : LinkFrame := .ofRaw 0 4095 false [] [1] [(0, 3), (7, 1)]
    r.typ ≤ 1 ∧ r.bad = false ∧ r.nak = false ∧ r.seq = 0 ∧ r.credits = [(0, 3), (7, 1)] ∧
    (∀ v < 8, ([0, 125, 0, 0, 0, 0, 0, 63].getD v 0) + ((r.credits.filter (fun c => c.1 == v)).map (·.2)).sum ≤ vcBuffer v) ∧
    { r with raw := [2] }.bad = true ∧ { r with control := r.control ^^^ 2 ^ 40 }.bad = true ∧ { r with codewords := [16] }.bad = true ∧ { r with codewords := [15, 15] }.bad = false ∧
    nextIs (exec (.linkFrame 0 r) (ported { state := .up } true false)) (fun t => (t.fport 0).credits == [3, 0, 0, 0, 0, 0, 0, 1]) = true ∧
    nextIs (exec (.linkFrame 0 { r with control := r.control ^^^ 1 }) (ported { state := .up } true false)) (fun t => (t.fport 0).nakSent && (t.fport 0).rxLast == 4095) = true := by decide +kernel
/-- With a full replay buffer the NAK waits. -/
theorem test_nak_waits : let f : FPort := { state := .up, replay := List.replicate 1024 frameA }
    1024 ≤ f.replay.length ∧ nextIs (exec (.linkFrame 0 { LinkFrame.ofRaw 5 4095 false [] [] [] with codewords := [16] }) (ported f true false))
      (fun t => (t.fport 0).nakSent && (t.fport 0).nakDue && (t.fport 0).replay.length == 1024) = true := by decide +kernel
/-- The frame after 4,095 is 0. -/
theorem test_frame_wraps : nextIs (exec (.linkFrame 0 (.ofRaw 0 4095 false [] [] [])) (ported { state := .up } true false)) (fun t => (t.fport 0).rxLast == 0) = true := by decide +kernel
theorem test_port_writes : (ported {} false false).multiHolds = false ∧ (∀ r ∈ (resending 0).replay, r.seq ≠ 4095) ∧
    nextIs (exec (.fportDisable 0) (ported { state := .up } true false)) (fun t => (t.fport 0).out == [.absent] && (t.fport 0).state == .disabled) = true := by decide +kernel
theorem test_retry_retrains : nextIs (exec (.linkRetry 0) (ported (resending 15) true false)) (fun t => (t.fport 0).state == .retraining && (t.fport 0).replay == [frameA]) = true := by decide +kernel
theorem test_port_states : (ported { state := .training } true false).peerOk 0 1 1 0 = true ∧ (ported { state := .training } true false).peerOk 0 0 1 0 = false ∧
    ({ state := .training, attempts := 1 } : FPort).attempts < 2 ∧ 2 ≤ ({ state := .retraining, attempts := 2 } : FPort).attempts ∧
    ((ported {} false false).block (blkFport 0)).en = false ∧ ((ported {} true false).block (blkFport 0)).en = true ∧ (ported {} false true).boot.nodeBad = true := by decide
/-- The peer's buffers empty; then one flit more than a buffer holds, and one free place too few, which break R415. -/
theorem test_credit_sync : let full := (List.range 8).map vcBuffer
    (∀ v < 8, full.getD v 0 ≤ vcBuffer v) ∧ full.getD 0 0 < (full.set 0 9999).getD 0 0 ∧
    nextIs (exec (.creditSync 0 full 4095) (ported { state := .training, trained := true } true false))
      (fun t => (t.fport 0).state == .up && (t.fport 0).credits == full) = true ∧
    nextIs (exec (.creditSync 0 (full.set 0 9999) 4095) (ported { state := .training, trained := true } true false))
      (fun t => (t.fport 0).state == .retraining && (t.errQueue 0).map (·.cls) == [0x2C]) = true ∧
    nextIs (exec (.creditSync 0 (full.set 0 1) 4095) (ported { state := .retraining, trained := true, credits := full } true false))
      (fun t => (t.fport 0).state == .retraining && (t.errQueue 0).map (·.cls) == [0x2C]) = true := by decide +kernel

/-- An Almanac with a shadow table for edition 1 that holds node 0's own entry, and that of node 1 through port direction 0. -/
def almanacState (a : Almanac) : State := { ready with boot := { state := .ready, dim := 1 }, almanac := a }
def loadingA (e : Half) : Almanac := { cur := .generated 0 1, bank2 := .loading, shadowEd := 1, shadowTable := [(0, 0x8800), (1, e)] }
/-- In the torus of 65,536 nodes every entry that a host has not written, VALID with EDIR and AMASK 0, is sound. -/
def fullSeal : State := { ready with boot := { state := .ready, dim := 0xFFFF }, almanac := { cur := .generated 0 0xFFFF, bank2 := .loading, shadowEd := 1, shadowTable := [(0, 0x8800)] } }
theorem test_seal : fullSeal.fabricOn = true ∧ fullSeal.multiHolds = false ∧ fullSeal.almanac.bank2 = .loading ∧
    fullSeal.almanac.shadowEd = (fullSeal.almanac.curEd + 1) % 256 ∧ Table.read routeReset fullSeal.boot.node fullSeal.almanac.shadowTable = (0x8800 : Half) ∧
    ∀ d < 65536, entryBad fullSeal.boot.dim d (Table.read routeReset d fullSeal.almanac.shadowTable).toNat = false := by
  refine ⟨by decide, by decide, by decide, by decide, by decide, fun d hd => ?_⟩
  have hs : ∀ i < 4, dimSize 0xFFFF i = 16 := by decide
  have ht : inTorus 0xFFFF d = true :=
    List.all_eq_true.mpr (fun i hi => by
      rw [hs i (List.mem_range.mp hi), decide_eq_true_eq, coordOf, bitsOf]
      exact Nat.mod_lt _ (by decide))
  have h8 : ∀ w ∈ [(0x8800 : Half), routeReset], entryBad 0xFFFF d w.toNat = false := by
    intro w hw
    unfold entryBad
    rw [ht]
    fin_cases hw <;> decide
  refine h8 _ ?_
  by_cases h : d = 0
  · subst h; decide
  · have : Table.read routeReset d fullSeal.almanac.shadowTable = routeReset := by
      show Table.read routeReset d [(0, 0x8800)] = routeReset
      simp [Table.read]
      intro h0
      exact absurd h0.symm h
    rw [this]
    decide
/-- Entries that stop a seal: EDIR 9, a direction of a dimension of size 1, an AMASK bit of one, a destination outside the torus. -/
theorem test_seal_bad : ∀ e ∈ [(1, 0x8900), (1, 0x8200), (1, 0x8004), (2, 0x8000)], entryBad 1 e.1 e.2 = true := by decide
theorem test_seal_own : nextIs (exec .loadSeal (almanacState { loadingA 0x8001 with shadowTable := [(0, 0x8801)] })) (fun t => t.almanac.bank2 == .loading && t.almanac.sealFail) = true := by decide
def switched (coord : Bool) (queried : List Nat) (replies : List DrainRep) (last : Option (List DrainRep)) : Almanac :=
  { cur := .loaded [(0, 0x8800), (1, 0x8001)], curEd := 1, bank2 := .previous, second := .generated 0 1, secondEd := 0, coord := coord, queried := queried, replies := replies, lastRound := last }
/-- The second qualifying round with the same ACC retires. -/
theorem test_drain : let old := [⟨1, 1, 0, 5⟩, ⟨0, 1, 0, 0⟩]
    let a := switched true [0, 1] [⟨0, 1, 0, 0⟩] (some old)
    a.queried.contains 1 = true ∧ (∀ r ∈ a.replies, r.node ≠ 1) ∧ a.replies.length + 1 = a.queried.length ∧
    sameAcc (a.replies ++ [⟨1, 1, 0, 5⟩]) old = true ∧ sameAcc old (a.replies ++ [⟨1, 1, 0, 5⟩]) = true ∧
    nextIs (exec (.drainReply 1 1 0 5) (almanacState a)) (fun t => t.almanac.bank2 == .free) = true := by decide

/-- A first round that qualifies, one in which a package is still at the old edition, and one that still holds a packet. -/
theorem test_drain_rounds : let a := switched true [0, 1] [⟨0, 1, 0, 0⟩] none
    a.coord = true ∧ a.bank2 = .previous ∧ a.curEd = 1 ∧ a.replies.length + 1 = a.queried.length ∧ a.lastRound = none ∧
    (∀ r ∈ a.replies ++ [⟨1, 1, 0, 5⟩], r.current = a.curEd ∧ r.infl = 0) ∧ (∃ r ∈ a.replies ++ [⟨1, 0, 0, 5⟩], r.current ≠ a.curEd ∨ r.infl ≠ 0) ∧
    (∃ r ∈ a.replies ++ [⟨1, 1, 1, 5⟩], r.current ≠ a.curEd ∨ r.infl ≠ 0) ∧ sameAcc [⟨0, 1, 0, 0⟩, ⟨1, 1, 0, 5⟩] [⟨0, 1, 0, 0⟩, ⟨1, 1, 0, 4⟩] = false ∧
    (switched true [0, 1, 2] [] none).replies.length + 1 ≠ (switched true [0, 1, 2] [] none).queried.length := by decide
theorem test_drain_late : (almanacState (switched true [0] [] none)).fabricOn = true ∧
    nextIs (exec .drainTimeout (almanacState (switched true [0] [] none))) (fun t => t.almanac.drainLate && (t.errQueue 0).map (·.cls) == [0x14]) = true ∧
    nextIs (exec .drainTimeout (almanacState { switched true [0] [] none with drainLate := true })) (fun t => t.errQueue 0 == []) = true := by decide

/-! ### Jorto -/

/-- A part with the VENDOR fuse blown, and its store. Port A is up with the IPv4 address 10; one session, with its messages as given. -/
def secOf (v : StoreVals) : Security := { vendorFuse := true, storeA := { vals := v } }
def joined (ss : List Session) (secret : List Byte) : State :=
  { ready with links := [(0, .up)], objs := [(okey 0x1100 6, 10)], sessions := ss, security := secOf { slot0Secret := secret } }
def jm (seq : Nat) (addr len : Nat) (data : List Byte) : JortoMsg := ⟨.hostA, 0xFFFF00000001, 7, 1, seq, 0, addr, len, 3, data, {}⟩
def sessA (rx : Nat) : Session := { id := 1, port := .hostA, ip := 0xFFFF00000001, udp := 7, key := 0, events := false, rxNext := rx, rtoUs := 1000 }
theorem test_le_length : ∀ n v : Nat, (leBytes n v).length = n
  | 0, _ => rfl
  | n + 1, v => by simp [leBytes, test_le_length n]
theorem test_sha_length (bs : List Byte) : (sha256 bs).length = 32 := by simp [sha256, beBytes, test_le_length]
theorem test_slice_head (a b : List Byte) : slice (a ++ b) 0 a.length = a := by
  refine List.ext_getElem (by simp [slice]) (fun i h1 h2 => ?_)
  simp [slice, List.getD, List.getElem?_append_left h2, h2]
theorem test_slice_tail (a b : List Byte) : slice (a ++ b) a.length b.length = b := by
  refine List.ext_getElem (by simp [slice]) (fun i h1 h2 => ?_)
  simp [slice, List.getD, h2]
/-- An OPEN of key slot 0 whose HMAC is right, with the counter 1. -/
def opening : JortoMsg :=
  { jm 0 0 0 [] with data := leBytes 4 1 ++ hmac (List.replicate 32 1) (credential 0 (jm 0 0 0 []) 1) }
theorem test_credential : (joined [] (List.replicate 32 1)).credentialOk opening 0 = true := by
  have hs : (joined [] (List.replicate 32 1)).jortoSecret 0 = some (List.replicate 32 1) := by decide
  have hz : (joined [] (List.replicate 32 1)).jortoCtr 0 = 0 := by decide
  have h : (hmac (List.replicate 32 1) (credential 0 (jm 0 0 0 []) 1)).length = 32 := test_sha_length _
  have hc := test_slice_head (leBytes 4 1) (hmac (List.replicate 32 1) (credential 0 (jm 0 0 0 []) 1))
  have hd := test_slice_tail (leBytes 4 1) (hmac (List.replicate 32 1) (credential 0 (jm 0 0 0 []) 1))
  have h4 : (leBytes 4 1).length = 4 := by decide
  have h1 : leNat (leBytes 4 1) = 1 := by decide
  rw [h4] at hc
  rw [h4, h] at hd
  have hk : credential 0 opening 1 = credential 0 (jm 0 0 0 []) 1 := rfl
  have ho : opening.data = leBytes 4 1 ++ hmac (List.replicate 32 1) (credential 0 (jm 0 0 0 []) 1) := rfl
  unfold State.credentialOk
  rw [hs]
  simp only [ho, hc, hd, h1, hk, hz, List.length_append, h4, h]
  simp
theorem test_open_premises : (joined [] []).jortoTakes (jm 0 0 0 []) = true ∧ ((joined [] []).keySlot 63).erasing = false ∧
    (joined [] []).credentialOk (jm 0 0 0 []) 0 = false := by decide
/-- Sequence numbers wrap: the message expected, the last of its window, one too early by 256, a duplicate. -/
theorem test_sequence : let s := joined [sessA 0xFFFFFFFF] []
    s.session 1 = some (sessA 0xFFFFFFFF) ∧ s.jortoTakes (jm 5 0 0 []) = true ∧ s.vigil = false ∧ (sessA 0xFFFFFFFF).waitingTx = [] ∧
    (254 + 2 ^ 32 - 0xFFFFFFFF) % 2 ^ 32 = 255 ∧ 2 ^ 31 ≤ (0xFFFFFFFE + 2 ^ 32 - 0xFFFFFFFF) % 2 ^ 32 := by decide
/-- Core 0's Crown context lets key slot 0 write and read its partition. -/
def joinedCore (ss : List Session) : State := { joined ss [] with ctxs := [(0, { state := .running })], blocks := [(0, { blockDefault 0 with en := true })] }
theorem test_jorto_write : let s := joinedCore [sessA 5]
    isRegister s.part (localAddr (jm 5 (coreBase 0) 2 [1, 2])) = false ∧ (s.outsideWrite .host 0 (coreBase 0) [1, 2]).2 = .ok ∧ (s.outsideRead .host 0 (coreBase 0) 8).2.1 = .ok ∧
    (s.outsideWrite .host 0 (coreBase 0) [1, 2]).1.sessions = s.sessions ∧
    nextIs (exec (.jortoWrite (jm 5 (coreBase 0) 2 [1, 2])) s) (fun t => t.byte (coreBase 0 + 1) == 2 && t.net.length == 1) = true ∧
    nextIs (exec (.jortoWrite (jm 6 (coreBase 0) 2 [1, 2])) s) (fun t => t.mem == [] && t.net.length == 1) = true := by decide
/-- A WRITE of registers waits behind a MULTI_WRITE; the frame's corrected codewords go into HOST_CE. -/
theorem test_jorto_held : let m := { jm 5 0x7F0000000000 4 (leBytes 4 1) with frame := { corrected := 3 } }
    let s := { joined [sessA 5] [] with multi := some ⟨rq, 1, some 0, false, 1, 0, [], none⟩ }
    (s.fecIn m.port m.frame).jortoTakes m = true ∧ s.multiHolds = true ∧ isRegister s.part (localAddr m) = true ∧ s.heldWrites = [] ∧
    nextIs (exec (.jortoWrite m) s) (fun t => t.heldWrites == [.session 1 6] && t.security.ledger.hostCe == [(0, 3)]) = true := by decide
theorem test_doorbells : (jm 5 (2 ^ 56 + 9) 0 []).addr / 2 ^ 56 % 256 = 1 ∧ (jm 5 (2 * 2 ^ 56 + coreBase 0) 8 (leBytes 8 1)).addr / 2 ^ 56 % 256 = 2 ∧
    (joinedCore [sessA 5]).enabledSlots = [] ∧ localAddr (jm 5 (2 * 2 ^ 56 + coreBase 0) 8 []) % 8 = 0 ∧
    nextIs (exec (.wordDoorbell (jm 5 (2 * 2 ^ 56 + coreBase 0) 8 (leBytes 8 1))) (joinedCore [sessA 5])) (fun t => t.byte (coreBase 0) == 1) = true := by decide
theorem test_close : nextIs (exec (.jortoClose (jm 5 0 0 [])) (joined [sessA 5] [])) (fun t => t.sessions == []) = true := by decide
/-- The limit rises by rank, modulo 2³². -/
theorem test_step_limit : (grouped { firstStep := 0xFFFFFFFF, stepLimit := 0xFFFFFFFF }).group.rankOf 0xFFFFFFFF < (grouped { firstStep := 0xFFFFFFFF }).group.rankOf 0 ∧
    nextIs (exec (.stepDoorbell (jm 5 (2 ^ 56) 0 [])) { joined [sessA 5] [] with group := { firstStep := 0xFFFFFFFF, stepLimit := 0xFFFFFFFF } })
      (fun t => t.group.stepLimit == 0) = true := by decide
def msgA : JMsg := ⟨6, 4, 0, 0, 0, [], none⟩
def sendingA (resends : Nat) : Session := { sessA 5 with unacked := [msgA], txNext := 5, resends := resends, rtoUs := 60000 }
theorem test_timers : ∀ n ∈ [15, 16], (joined [sendingA n] []).session 1 = some (sendingA n) ∧ ackCovers 5 msgA.seq = true ∧ ackCovers 4 msgA.seq = false ∧
    (joined [sendingA n] []).link .hostA = .up ∧ (joined [] []).link .hostB = .disabled ∧ (joined [] []).windowOn = true := by decide
theorem test_rto : nextIs (exec (.jortoRto 1) (joined [sendingA 15] [])) (fun t => t.sessions.map (fun z => (z.resends, z.rtoUs)) == [(16, 100000)]) = true ∧
    nextIs (exec (.jortoRto 1) (joined [sendingA 16] [])) (fun t => t.sessions == []) = true := by decide
theorem test_port_en : ({ joined [sessA 5] [] with objs := [(okey 0x1100 1, 1), (okey 0x1100 6, 10)] }).portEn .hostA = true ∧
    ({ joined [] [] with objs := [(okey 0x1100 1, 0)] }).portEn .hostA = false ∧ ({ joined [] [] with objs := [(okey 0x1100 1, 0)] }).portRate .hostA ≠ 3 := by decide
theorem test_frames_answered : (joined [] []).ipv4 .hostA = 10 ∧ (joined [] []).ipv6 .hostA = 0 ∧
    { joined [] [] with octs := [(okey 0x1100 8, List.replicate 15 0 ++ [9])] }.ipv6 .hostA = 9 ∧
    nextIs (exec (.arpRequest ⟨.hostA, {}⟩ 11) (joined [] [])) (fun t => t.net == [] && t.tot 0x3320 1 == 1) = true := by decide
/-- The filter: the port's own VLAN, its own address, a zero UDP checksum over IPv4; and what R318 refuses. -/
theorem test_filter : let s := { joined [] [] with objs := [(okey 0x1100 6, 10), (okey 0x1100 5, 9)] }
    s.jortoOn .hostA = true ∧ s.frameOk .hostA false { tag := some 9, length := 9022, checksum := none } = true ∧
    (∀ f ∈ [({ length := 9023 } : EthFrame), { fcsOk := false }, { fragment := true }, { tag := some 0 }, { tag := some 8 }, { checksum := some false }], s.frameOk .hostA false f = false) ∧
    s.frameOk .hostA true { checksum := none } = false ∧ s.frameOk .hostA true {} = true ∧ (some 49710 : Option Nat) ≠ some 49711 ∧
    nextIs (exec (.frameDiscard ⟨.hostA, { udp := some 80 }⟩) s) (fun t => t.tot 0x3320 1 == 1) = true ∧
    nextIs (exec (.frameDiscard ⟨.hostA, { udp := some 49711 }⟩) s) (fun t => t.tot 0x3320 1 == 0) = true ∧
    s.toOwn .hostA false { ip := some 11 } = false ∧
    nextIs (exec (.frameDiscard ⟨.hostA, { udp := some 49711, ip := some 11 }⟩) s) (fun t => t.tot 0x3320 1 == 1) = true := by decide
theorem test_broadcast (s : State) (p : NetPort) : s.ownMac p 0xFFFFFFFFFFFF = true := by simp [State.ownMac]
theorem test_vigil_heartbeat : nextIs (exec .heartbeat { ready with boot := { state := .vigil, node := 5 } }) (fun t => t.net.length == 1) = true := by decide
theorem test_link_comes_up : { ready with links := [(0, .down)] }.link .hostA = .down := by decide
theorem test_plca : { ready with boot := { state := .ready, plcaNode := 0 } }.boot.plcaNode ≠ 255 ∧ ready.security.bootRomOnly = false := by decide

/-! ### Dorub and profiles -/

def kept1 : DorubRsp := { req := rq, tid := 9, service := 1, status := 0 }
theorem test_dorub_once : { ready with kept := [kept1] }.kept.find? (fun k => k.req == rq && k.tid == 9) = some kept1 ∧ ready.dorubOn rq = true ∧
    { ready with multi := some ⟨rq, 1, some 0, false, 1, 0, [], none⟩ }.multi ≠ none := by decide
/-- A message in a frame that its host port does not accept, one of another PROTO or VER, and services 0 and 11. -/
theorem test_envelopes : let s := joined [] []
    let r : Requester := ⟨.hostA, 0xFFFF00000001, 7⟩
    s.dorubOn r = true ∧ s.dorubPort .hostA = true ∧ s.frameOk .hostA (!isIpv4 r.addr) { fcsOk := false } = false ∧ s.dorubTakes r {} = true ∧
    s.ownIp .hostA true = 0 ∧ s.dorubOn ⟨.hostA, 5, 7⟩ = false ∧ s.dorubTakes r { ip := some 11 } = false ∧ s.multi = none ∧ (s.repeated r 9).isNone = true ∧
    nextIs (exec (.dorubRead ⟨r, { frame := { fcsOk := false } }⟩ 9 0x2270 3) s) (fun t => t.tot 0x3320 1 == 1 && t.net == []) = true ∧
    nextIs (exec (.dorubRead ⟨r, { ver := 2 }⟩ 9 0x2270 3) s) (fun t => t.tot 0x3330 3 == 1 && t.net == []) = true ∧
    nextIs (exec (.dorubRead ⟨r, { service := 11 }⟩ 9 0x2270 3) s) (fun t => t.kept.map (·.status) == [Dst.badService.code]) = true := by decide
/-- A request from an IPv6 address to a port that has none. -/
theorem test_unaddressed : nextIs (exec (.dorubWrite ⟨.hostA, 5, 7⟩ 1 0x2270 3 []) (joined [] [])) (fun t => t.tot 0x3320 1 == 1 && t.net == []) = true := by decide
/-- While a MULTI_WRITE waits for core 0, every other write is held. -/
def waitingMulti : State := { ready with multi := some ⟨rq, 1, some 0, false, 1, 0, [], none⟩ }
theorem test_writes_held : waitingMulti.multiHolds = true ∧ waitingMulti.up = true ∧ waitingMulti.fabricOn = true ∧ waitingMulti.dorubOn rq = true ∧
    waitingMulti.serves 0x5000 = true ∧ waitingMulti.security.bootRomOnly = false ∧ (blockKind waitingMulti.part 0).isSome = true ∧
    (1 : Nat) < Config.cores waitingMulti.part ∧
    nextIs (exec (.halt 1 .crown) waitingMulti) (fun t => t.heldWrites == [.cmd (.halt 1 .crown)]) = true := by decide
/-- A plain WRITE of CORE_CTL.EN := 0 is answered when the core has stopped. -/
theorem test_write_awaits : let s := coreBlk true true (coreCfg 0 72 48 15) {}
    (s.writeObj rq 0x8000 0 (leBytes 4 0) (some (rsp rq 9 2 0x8000 0))).1.awaits 0x8000 0 = some 0 ∧
    nextIs (exec (.dorubWrite rq 9 0x8000 0 (leBytes 4 0)) s) (fun t => t.net == [] && (t.coreSt 0).disabling && t.multi.isSome) = true := by decide
/-- The second entry of a MULTI_WRITE is read only: the first one stands. -/
theorem test_multi_second : let p := ready.writeObj rq 0x2270 3 (leBytes 4 5) (some (rsp rq 9 3 0x2270 3))
    p.2 = some .ok ∧ p.1.awaits 0x2270 3 = none ∧ p.1.serves 0x2500 = true ∧ p.1.entrySize 0x2500 1 = some 4 ∧
    (p.1.writeObj rq 0x2500 1 (leBytes 4 5) (some (rsp rq 9 3 0x2500 1))).2 = some .readOnly := by decide
theorem test_read : ready.repeated rq 9 = none ∧ ready.serves 0x2270 = true ∧ (ready.readObj rq 0x2270 3).2.2.length ≤ pduMax .mgt ∧
    nextIs (exec (.dorubRead ⟨rq, {}⟩ 9 0x2270 3) ready) (fun t => t.net.map (fun m => match m with | .dorub r => (r.status, r.data) | _ => (9, [])) == [(0, leBytes 4 10000)]) = true := by decide
theorem test_write : (ready.writeObj rq 0x2270 3 (leBytes 4 5) (some (rsp rq 9 2 0x2270 3))).2 = some .ok ∧ ready.entrySize 0x2270 3 = some 4 ∧
    (ready.writeObj rq 0x2500 1 (leBytes 4 5) none).2 = some .readOnly ∧ (Dst.readOnly).done = false ∧
    ((ready.writeObj rq 0x2270 3 (leBytes 4 5) none).1).awaits 0x2270 3 = none := by decide
theorem test_multi_write : nextIs (exec (.multiWrite rq 9 [⟨0x2270, 3, 5⟩, ⟨0x2500, 1, 5⟩, ⟨0x2300, 1, 5⟩]) ready) (fun t => t.obj 0x2270 3 == 5 && t.obj 0x2300 1 == 24 &&
    t.kept.map (fun r => (r.status, r.count)) == [(Dst.readOnly.code, 1)]) = true := by decide
def xferA (write : Bool) (seen : Table Bool) : Xfer := ⟨1, write, 0x2270, 3, 4, [(0, 5)], seen⟩
def sending (x : Xfer) : State := { ready with xfers := [x] }
theorem test_block_transfers : ready.blockSize 0x2270 3 4 = .ok ∧ (ready.readObj rq 0x2270 3).2.1 = .ok ∧ (ready.readObj rq 0x2270 3).1.xfers = ready.xfers ∧
    (sending (xferA true [])).xfer 1 = some (xferA true []) ∧ crc32 (Table.readList 0 0 4 (xferA true []).buf) = crc32 [5, 0, 0, 0] ∧
    (List.replicate 4 (xferA true [])).length = 4 ∧ (xferA true []).seen.length < (xferA true []).size ∧
    (xferA true [(0, true), (1, true), (2, true), (3, true)]).size ≤ (xferA true [(0, true), (1, true), (2, true), (3, true)]).seen.length := by decide +kernel
/-- CRC-32 of the ASCII string 123456789 is CBF43926. -/
theorem test_crc : crc32 [0x31, 0x32, 0x33, 0x34, 0x35, 0x36, 0x37, 0x38, 0x39] = 0xCBF43926 := by decide +kernel
theorem test_block_end : nextIs (exec (.blockWriteEnd rq 9 1 (crc32 [5, 0, 0, 0])) (sending (xferA true [(0, true), (1, true), (2, true), (3, true)])))
      (fun t => t.obj 0x2270 3 == 5 && t.xfers == []) = true ∧
    nextIs (exec (.blockWriteEnd rq 9 1 0) (sending (xferA true [(0, true), (1, true), (2, true), (3, true)]))) (fun t => t.obj 0x2270 3 == 10000) = true := by decide +kernel

/-- An OWNED part with the guard and the authorisation as given. -/
def owned (guardOpen : Bool) (auth : Option Requester) (saving : Option Saving) : State :=
  { ready with profiles := { guardOpen := guardOpen, saving := saving }, security := { secOf { lifecycle := .owned } with auth := auth } }
theorem test_authorised : (owned true none none).authorised rq = false ∧ (owned true (some rq) none).authorised rq = true ∧
    (owned true (some ⟨.mgt, 1, 2⟩) none).authorised rq = false ∧ (owned true none none).serves 0x2000 = true ∧
    (owned true (some rq) none).mayWrite 1 = true ∧ (∃ n < 4, (owned true (some rq) none).mayWrite n = false) := by decide
theorem test_profile_commands : nextIs (exec (.profileSave rq 1) (owned true (some rq) none)) (fun t => (t.profiles.saving.map (fun w => (w.profile, w.save))) == some (1, true)) = true ∧
    nextIs (exec (.selectNext rq 3) (owned true (some rq) none)) (fun t => t.profiles.next == 3 && !t.profiles.guardOpen) = true ∧
    nextIs (exec (.selectNext rq 3) (owned false (some rq) none)) (fun t => t.profiles.next == 255 && t.profiles.guardRefused == 1) = true := by decide
/-- Copy A of generation 0 is valid and copy B is not, so a save goes to B with generation 1. -/
theorem test_profile_done : nextIs (exec .profileSaveDone (owned true none (some ⟨1, true, [(1, 2)], []⟩)))
    (fun t => (t.profiles.get 1).b == { gen := 1, ok := true, vals := [(1, 2)], octs := [] } && (t.profiles.get 1).a == {}) = true := by decide

/-! ### Signatures: a key under which a given message verifies

`2 ^ 65537 mod (2 ^ 65537 − EM)` is EM, so under that modulus the signature 2 opens to the encoded message EM. -/

theorem test_power (m : Nat) : ∀ n b e : Nat, e < 2 ^ n → powMod m n b e = b ^ e % m
  | 0, b, e, h => by
    have : e = 0 := by simpa using h
    simp [powMod, this]
  | n + 1, b, e, h => by
    have hr : powMod m n (b * b % m) (e / 2) = (b * b) ^ (e / 2) % m := by
      rw [test_power m n _ _ (by rw [pow_succ] at h; omega), Nat.pow_mod (b * b % m), Nat.mod_mod, ← Nat.pow_mod]
    have hs : (b * b) ^ (e / 2) = b ^ (2 * (e / 2)) := by rw [pow_mul, pow_two]
    simp only [powMod, hr]
    by_cases ho : e % 2 = 1
    · have he : e = 2 * (e / 2) + 1 := by omega
      rw [if_pos ho, Nat.mul_mod, Nat.mod_mod, ← Nat.mul_mod, hs]
      conv_rhs => rw [he, pow_succ, mul_comm]
    · have he : 2 * (e / 2) = e := by omega
      rw [if_neg ho, hs, he]
theorem test_le_round : ∀ l : List Byte, leBytes l.length (leNat l) = l
  | [] => rfl
  | b :: bs => by
    have h := b.isLt
    have h1 : (b.toNat + 256 * leNat bs) / 256 = leNat bs := by omega
    have h2 : BitVec.ofNat 8 (b.toNat + 256 * leNat bs) = b := by
      apply BitVec.eq_of_toNat_eq
      rw [BitVec.toNat_ofNat]
      omega
    simp only [List.length_cons, leBytes, leNat, h1, h2, test_le_round bs]
theorem test_be_le (l : List Byte) : beNat l.reverse = leNat l := by
  induction l with
  | nil => rfl
  | cons b bs ih => simp only [beNat, List.reverse_cons, List.foldl_append, List.foldl_cons, List.foldl_nil] at ih ⊢; rw [ih]; simp [leNat, Nat.add_comm]
theorem test_be_round (l : List Byte) (n : Nat) (h : l.length = n) : beBytes n (beNat l) = l := by
  have h1 := test_be_le l.reverse
  rw [List.reverse_reverse] at h1
  have h2 := test_le_round l.reverse
  rw [List.length_reverse, h, ← h1] at h2
  rw [beBytes, h2, List.reverse_reverse]
theorem test_le_bound : ∀ l : List Byte, leNat l < 256 ^ l.length
  | [] => by simp [leNat]
  | b :: bs => by
    have h := b.isLt
    have := test_le_bound bs
    rw [List.length_cons, pow_succ, leNat]
    omega
theorem test_mgf_length (bs : List Byte) : (mgf1 bs 351).length = 351 := by
  have h : ∀ l : List Nat, (l.flatMap (fun i => sha256 (bs ++ beBytes 4 i))).length = 32 * l.length := by
    intro l
    induction l with
    | nil => rfl
    | cons i l ih => rw [List.flatMap_cons, List.length_append, ih, test_sha_length]; simp; omega
  rw [mgf1, List.length_take, h]
  decide

/-- DB with a salt of zeros, and EM of a hash. -/
def pssDb : List Byte := List.replicate 318 0 ++ [1] ++ List.replicate 32 0
def pssH (hash : List Byte) : List Byte := sha256 (List.replicate 8 0 ++ hash ++ List.replicate 32 0)
def pssEm (hash : List Byte) : List Byte := clearTop (xorBytes pssDb (mgf1 (pssH hash) 351)) ++ pssH hash ++ [0xBC]
theorem test_unmask (d m : List Byte) (h : d.length = m.length) : clearTop (xorBytes (clearTop (xorBytes d m)) m) = clearTop d := by
  have hx : ∀ a b : List Byte, a.length = b.length → List.zipWith (· ^^^ ·) (List.zipWith (· ^^^ ·) a b) b = a := by
    intro a
    induction a with
    | nil => intro b _; simp
    | cons x a ih =>
      intro b hb
      cases b with
      | nil => cases hb
      | cons y b => simp [ih b (by simpa using hb)]
  cases d with
  | nil => simp [xorBytes, clearTop]
  | cons x d =>
    cases m with
    | nil => cases h
    | cons y m =>
      have := hx d m (by simpa using h)
      simp only [xorBytes, List.zipWith_cons_cons, clearTop, this, List.cons.injEq, and_true]
      ext i
      simp only [BitVec.getElem_and, BitVec.getElem_xor]
      generalize x[i] = p
      generalize y[i] = q
      generalize (127#8)[i] = r
      cases p <;> cases q <;> cases r <;> rfl
theorem test_masked_length (hash : List Byte) : (clearTop (xorBytes pssDb (mgf1 (pssH hash) 351))).length = 351 := by
  have h1 : ∀ l : List Byte, (clearTop l).length = l.length := by intro l; cases l <;> rfl
  have h2 : pssDb.length = 351 := by decide +kernel
  rw [h1, xorBytes, List.length_zipWith, test_mgf_length, h2]
  rfl
theorem test_em_length (hash : List Byte) : (pssEm hash).length = 384 := by
  have h : (pssH hash).length = 32 := test_sha_length _
  simp [pssEm, test_masked_length, h]
theorem test_pss (hash : List Byte) : pssOk hash (pssEm hash) = true := by
  have hl := test_masked_length hash
  have hh : (pssH hash).length = 32 := test_sha_length _
  have h1 : (pssEm hash).take 351 = clearTop (xorBytes pssDb (mgf1 (pssH hash) 351)) := by
    rw [pssEm, List.append_assoc]; exact List.take_left' hl
  have h2 : slice (pssEm hash) 351 32 = pssH hash := by
    refine List.ext_getElem (by simp [slice, hh]) (fun i h3 h4 => ?_)
    simp only [slice, List.getElem_map, List.getElem_range, List.getD_eq_getElem?_getD, pssEm, List.append_assoc]
    rw [List.getElem?_append_right (by omega), hl, Nat.add_sub_cancel_left, List.getElem?_append_left h4, List.getElem?_eq_getElem h4]
    rfl
  have h3 : clearTop (xorBytes (clearTop (xorBytes pssDb (mgf1 (pssH hash) 351))) (mgf1 (pssH hash) 351)) = pssDb := by
    have h4 : pssDb.length = (mgf1 (pssH hash) 351).length := by rw [test_mgf_length]; decide +kernel
    rw [test_unmask _ _ h4]
    decide +kernel
  have h5 : (pssEm hash).getLast? = some 0xBC := by simp [pssEm]
  have h6 : ((clearTop (xorBytes pssDb (mgf1 (pssH hash) 351))).headD 0).toNat < 128 := by
    cases hx : xorBytes pssDb (mgf1 (pssH hash) 351) with
    | nil => decide
    | cons x l =>
      simp only [clearTop, List.headD_cons, BitVec.toNat_and]
      exact Nat.lt_of_le_of_lt Nat.and_le_right (by decide)
  have h7 : sha256 (List.replicate 8 0 ++ hash ++ pssDb.drop 319) = pssH hash := by
    have : pssDb.drop 319 = List.replicate 32 0 := by decide +kernel
    rw [this]; rfl
  simp only [pssOk, rsaBytes, h1, h2, h3, h5, show 384 - 33 = 351 from rfl, show 351 - 32 = 319 from rfl, show 351 - 33 = 318 from rfl, h7]
  have h8 : pssDb.take 318 = List.replicate 318 0 := by decide +kernel
  have h9 : pssDb.getD 318 0 = 1 := by decide +kernel
  simp only [h6, h8, h9, beq_self_eq_true, decide_true, Bool.and_self]
/-- The key for a message, and its signature. -/
def keyOf (msg : List Byte) : Nat := 2 ^ 65537 - beNat (pssEm (sha256 msg))
def sig2 : List Byte := List.replicate 383 0 ++ [2]
theorem test_signature (msg : List Byte) : rsaVerify (keyOf msg) msg sig2 = true := by
  have hb : beNat (pssEm (sha256 msg)) < 2 ^ 3072 := by
    have h1 := test_le_bound (pssEm (sha256 msg)).reverse
    rw [← test_be_le, List.reverse_reverse, List.length_reverse, test_em_length] at h1
    calc beNat (pssEm (sha256 msg)) < 256 ^ 384 := h1
      _ = (2 ^ 8) ^ 384 := rfl
      _ = 2 ^ 3072 := by rw [← pow_mul]
  have hp : 2 ^ 3072 * 2 ≤ 2 ^ 65537 := (pow_succ 2 3072).symm.le.trans (Nat.pow_le_pow_right (by decide) (by decide))
  have h4 : 4 ≤ 2 ^ 3072 := Nat.le_of_dvd (by positivity) (pow_dvd_pow 2 (by decide : 2 ≤ 3072))
  generalize hE : beNat (pssEm (sha256 msg)) = E at hb
  have hk : keyOf msg = 2 ^ 65537 - E := by rw [keyOf, hE]
  generalize hP : (2 : Nat) ^ 65537 = P at hp hk
  generalize hQ : (2 : Nat) ^ 3072 = Q at hp hb h4
  have hx : beNat sig2 = 2 := by decide +kernel
  have he : powMod (keyOf msg) 17 2 65537 = E := by
    rw [test_power _ 17 2 65537 (by decide), hP, hk]
    have : P = (P - E) + E := by omega
    conv_lhs => rw [this]
    rw [show P - E + E - E = P - E by omega, Nat.add_mod_left, Nat.mod_eq_of_lt (by omega)]
  have hr : beBytes rsaBytes E = pssEm (sha256 msg) := by rw [← hE]; exact test_be_round _ _ (test_em_length _)
  have hl : sig2.length = rsaBytes := by decide +kernel
  have hlt : (2 : Nat) < keyOf msg := by omega
  simp [rsaVerify, hx, he, hr, hl, hlt, test_pss]

/-! ### Resets, start-up, test -/

/-- Inputs under which every step of a TP4's start passes. -/
def goodStart : StartInputs :=
  { pkgType := [.tp4, .tp4, .tp4, .tp4], dieIds := [0, 1, 2, 3], profileSel := 0, nodeBalls := 0, testMode := 0, jtagSel := 0, pllOk := true, ddiOk := true,
    stackOk := [], coreFail := [], engineFail := [], bootMs := 5, linkUpA := false, linkUpB := false }
theorem test_start_premises : State.reset.boot.state = .rom ∧ (goodStart.testMode = 2 && State.reset.testPermitted) = false ∧
    State.reset.security.imageOk (State.reset.security.fwActive % 2) 1 = true ∧ State.reset.security.imageOk (State.reset.security.fwActive % 2) 2 = true ∧
    Config.dies State.reset.part ≤ goodStart.dieIds.length ∧ identityOk .tp4 goodStart = true ∧ State.reset.badPair = none ∧
    (∀ k < Config.stackCount State.reset.part, goodStart.stackOk.getD k true = true) ∧ (∀ n ∈ goodStart.coreFail, Config.cores State.reset.part ≤ n) := by decide
/-- From reset the part starts, with all 32 ports training; with one stack that fails it is in Vigil mode. -/
theorem test_cold_start : nextIs (exec (.coldStart goodStart) State.reset) (fun t => t.boot.state == .ready && (t.fport 31).state == .training && !(t.block 0).en) = true ∧
    nextIs (exec (.coldStart { goodStart with stackOk := List.replicate 23 true ++ [false] }) State.reset) (fun t => t.vigil && t.untrained == [23]) = true := by decide +kernel
theorem test_three_dies : nextIs (exec (.coldStart { goodStart with dieIds := [0, 1, 2] }) State.reset) (fun t => t.boot.state == .release) = true := by decide +kernel
theorem test_warm_premises : ready.dorubOn rq = true ∧ ready.serves 0x1003 = true ∧ (owned true (some rq) none).boot.state = .ready ∧
    (owned true (some rq) none).group.inDoubt = false ∧ (owned true none none).authorised rq = false := by decide
theorem test_warm_reset : nextIs (exec (.warmReset rq) { owned true (some rq) none with mem := [(5, 1), (coreBase 0, 2)] })
    (fun t => t.boot.warm && t.mem == [(5, 1)] && t.security.auth == none) = true := by decide +kernel
theorem test_die_test : State.reset.testPermitted = true ∧ nextIs (exec (.dieTest 2 3 ⟨31, 1, 0, 0⟩) State.reset) (fun t => t.boot.state == .dieTest && t.boot.testDie == 3) = true := by decide +kernel
/-- A private register reads as BYPASS once debug is withdrawn. -/
theorem test_private : let t : Tap := { inst := .other 9, reg := .priv 9 }
    let s := { ready with taps := [(0, t)], security := { debugScope := 0 } }
    (s.tap 0).reg = .priv 9 ∧ s.privateOn 0 9 = false ∧ s.tapOut 0 = [false] ∧
    nextIs (exec .manufacturingTest { State.reset with taps := [(0, t)] }) (fun u => (u.tap 0).reg == .bypass && u.security.lifecycle == .vendor) = true := by decide +kernel
theorem test_manufacturing : State.reset.security.lifecycle = .manufacture ∧ State.reset.security.stored.lifecycle = .manufacture ∧ (owned true none none).security.lifecycle ≠ .manufacture ∧
    ready.boot.state ≠ .rom ∧ ready.boot.state ≠ .dieTest := by decide
theorem test_tap_premises : State.reset.tapReaches 0 = true ∧ State.reset.tapReaches 1 = false ∧ State.reset.dieRev 0 = 0x0200 ∧
    { State.reset with boot := { revs := [0x0100, 0x0101] } }.dieRev 0 = 0x0100 ∧ { State.reset with boot := { revs := [0x0100, 0x0101] } }.dieRev 1 = 0x0101 ∧
    Table.wf {} State.reset.taps = true ∧ ready.boot.state ≠ .rom ∧ ready.tapReaches 0 = true := by decide
theorem test_extest_vigil : nextIs (exec (.extest 0) ready) (fun t => t.vigil && (t.tap 0).held) = true ∧
    nextIs (exec (.extest 0) State.reset) (fun t => !t.vigil && (t.tap 0).driving) = true := by decide +kernel

/-- Die 0 is released at the first cool round, and die 1 waits at the hot ones after it; one more cool round, the last, releases the rest. -/
theorem test_hot_start :
    nextIs (exec (.coldStart { goodStart with junction := [[94, 95], [94], [120]] }) State.reset)
      (fun t => t.boot.state == .release && t.power.rails.contains (0, 0) && !t.power.rails.contains (1, 0)) = true ∧
    nextIs (exec (.coldStart { goodStart with junction := [[95], [94, 60], [96], [80]] }) State.reset)
      (fun t => t.boot.state == .ready && t.power.rails.contains (3, 6)) = true := by decide +kernel
/-- Die 3 has its rails and no answer; then without its rails. -/
theorem test_release_waits : let s (on : List (Nat × Nat)) : State := { ready with boot := { state := .release, answered := 3 }, power := { rails := on } }
    (3 : Nat) < Config.dies (s []).part ∧ nextIs (exec (.dieReleaseTimeout 3) (s [(3, 0)])) (fun t => t.vigil && (t.errQueue 0).map (·.source) == [blkDie 0]) = true ∧
    nextIs (exec (.dieReleaseTimeout 3) (s [])) (fun t => t.boot.state == .release) = true ∧
    nextIs (exec (.dieReleaseTimeout 2) (s [(2, 0)])) (fun t => t.boot.state == .release) = true := by decide +kernel

/-! ### Errors -/

theorem test_fatal_class : classSev 0x31 = 3 ∧ ready.boot.state ≠ .vigil := by decide
def recB (seq sev : Nat) (ph : Phase) : ErrRec := ⟨seq, 0, sev, 0x21, 0, 0, 1, 0, 0, 0, 0, 0, [], ph⟩
def queuedErr (rs : List ErrRec) : State := { ready with errors := { queues := [(0, rs)] } }
theorem test_handling : (queuedErr [recB 1 2 .handling]).errQueue 0 = [recB 1 2 .handling] ∧
    ((queuedErr [recB 1 0 .handling]).errQueue 0).find? (fun r => r.phase == .handling) = some (recB 1 0 .handling) := by decide
/-- ERR_ACK takes out the HANDLED record 1, and leaves 2, which is not HANDLED, and 3. -/
theorem test_err_ack : nextIs (exec (.errAck 2) (queuedErr [recB 1 2 .handled, recB 2 2 .handling, recB 3 2 .handled])) (fun t => (t.errQueue 0).map (·.seq) == [2, 3]) = true := by decide
theorem test_lost : nextIs (exec (.lostCountWrite 3) { ready with errors := { lost := [(3, [1, 2, 3, 4])] } }) (fun t => t.lostShares 3 == [1, 2, 3, 0]) = true := by decide

/-! ### Security -/

theorem test_sec_of (v : StoreVals) (z : Security) (h : z = secOf v) : z.lcCount = v.lcCount ∧ z.owner = v.owner ∧ z.nextOwner = v.nextOwner := by
  subst h; exact ⟨rfl, rfl, rfl⟩
theorem test_auth_open : let s : State := { ready with security := secOf { lifecycle := .owned, owner := keyOf (State.randomBytes 0 ++ serial ++ leBytes 4 0) } }
    s.dorubOn rq = true ∧ s.security.lifecycle.guardedByOwner = true ∧ rsaVerify s.security.owner s.authMessage sig2 = true :=
  by
  intro s
  have h := test_sec_of { lifecycle := .owned, owner := keyOf (State.randomBytes 0 ++ serial ++ leBytes 4 0) } s.security rfl
  refine ⟨by decide, by decide, ?_⟩
  rw [State.authMessage, h.1, h.2.1]
  exact test_signature _
theorem test_auth_refused : ready.security.lifecycle.guardedByOwner = false ∧ (owned true (some rq) none).security.auth = some rq ∧
    nextIs (exec (.authOpen rq []) ready) (fun t => t.security.auth == none && t.security.challengeNo == 2) = true := by decide +kernel
theorem test_signed_by (z : Security) (b : List Byte) (h : recKind b < 7) :
    z.signedBy b = (z.signer (recKind b)).map (fun m => rsaVerify m (slice b 0 0x200) (slice b 0x200 384)) := by
  have : recKind b ≠ revokeKind := by unfold revokeKind; omega
  simp [Security.signedBy, this]
/-- A lifecycle record of a kind with LC_COUNT 0, this part's serial number, a lessee and an owner of ones, and its signature. -/
def recMsg (kind : Nat) : List Byte := (leBytes 4 kind ++ leBytes 4 0) ++ serial ++ List.replicate 488 1
def recOf (kind : Nat) : List Byte := recMsg kind ++ sig2
/-- A part in the state that the kind wants, whose owner and next owner hold the key of that record. -/
def recState (l : Lifecycle) (kind : Nat) : State := { ready with security := secOf { lifecycle := l, owner := keyOf (recMsg kind), nextOwner := keyOf (recMsg kind) } }
theorem test_rec_length (kind : Nat) : (recMsg kind).length = 512 := by
  have : serial.length = 16 := by simp [serial]
  simp only [recMsg, List.length_append, this, List.length_replicate, test_le_length]
theorem test_slice_mid (a b c : List Byte) : slice (a ++ b ++ c) a.length b.length = b := by
  refine List.ext_getElem (by simp [slice]) (fun i h1 h2 => ?_)
  simp [slice, List.getD, List.getElem?_append_right, List.getElem?_append_left h2, h2]
theorem test_slice_in (a b : List Byte) (o n : Nat) (h : o + n ≤ a.length) : slice (a ++ b) o n = slice a o n := by
  refine List.map_congr_left (fun i hi => ?_)
  have := List.mem_range.mp hi
  rw [List.getD_eq_getElem?_getD, List.getD_eq_getElem?_getD, List.getElem?_append_left (by omega)]
/-- Each kind is accepted from a state of Table 19.6: TRANSFER, LEASE, END_LEASE, REFURBISH, FINISH and RETIRE. -/
theorem test_records : ∀ e ∈ [(1, Lifecycle.owned), (2, .owned), (3, .leased), (4, .owned), (5, .refurbish), (6, .owned)],
    (recOf e.1).length = 896 ∧ recKind (recOf e.1) = e.1 ∧ (recState e.2 e.1).recBusy = false ∧ (recState e.2 e.1).pkgTouch.recRefused (recOf e.1) = none ∧
    (recState e.2 e.1).security.eraseQueue = [] := by
  have hs : sig2.length = 384 := by decide +kernel
  have h0 : serial.length = 16 := by simp [serial]
  intro e he
  have hl := test_rec_length e.1
  have hm : slice (recOf e.1) 0 512 = recMsg e.1 := by rw [← hl]; exact test_slice_head _ _
  have hg : slice (recOf e.1) 512 384 = sig2 := by rw [← hl, ← hs]; exact test_slice_tail _ _
  have hser : slice (recOf e.1) 8 16 = serial := by
    rw [recOf, test_slice_in _ _ _ _ (by omega), recMsg, ← h0]
    exact test_slice_mid (leBytes 4 e.1 ++ leBytes 4 0) serial (List.replicate 488 1)
  have hhead (o n : Nat) (h : o + n ≤ 8) : slice (recOf e.1) o n = slice (leBytes 4 e.1 ++ leBytes 4 0) o n := by
    rw [recOf, recMsg, List.append_assoc, List.append_assoc, test_slice_in _ _ _ _ (by simpa only [List.length_append, test_le_length] using h)]
  have hk : recKind (recOf e.1) = e.1 := by
    rw [recKind, hhead 0 1 (by omega)]
    fin_cases he <;> decide
  have hc : leNat (slice (recOf e.1) 4 4) = 0 := by
    rw [hhead 4 4 (by omega)]
    fin_cases he <;> decide
  have hones (o n : Nat) (h : o + n ≤ 488) : slice (recOf e.1) (24 + o) n = List.replicate n 1 := by
    rw [recOf, test_slice_in _ _ _ _ (by omega)]
    refine List.ext_getElem (by simp [slice]) (fun i h1 h2 => ?_)
    have hn : i < n := by simpa using h2
    simp only [slice, List.getElem_map, List.getElem_range, List.getElem_replicate, List.getD_eq_getElem?_getD, recMsg]
    rw [List.getElem?_append_right (by simp only [List.length_append, test_le_length, h0]; omega)]
    simp only [List.length_append, test_le_length, h0]
    rw [List.getElem?_replicate, if_pos (by omega)]
    rfl
  have ho : recOwner (recOf e.1) ≠ 0 := by rw [recOwner, hones 40 384 (by omega)]; decide +kernel
  have hz : allZero (recLessee (recOf e.1)) = false := by rw [recLessee, hones 8 32 (by omega)]; decide
  refine ⟨by rw [recOf, List.length_append, hl, hs], hk, ?_, ?_, ?_⟩
  · fin_cases he <;> rfl
  · have hv := test_signature (recMsg e.1)
    have hsm : (recState e.2 e.1).pkgTouch.slotMap = 1 := by
      show ((List.range 64).map (fun k => bit01 (Table.read ({} : KeySlot) k [(0, { gen := 1, listed := true })]).listed * 2 ^ k)).sum = 1
      decide
    have hz0 := test_sec_of { lifecycle := e.2, owner := keyOf (recMsg e.1), nextOwner := keyOf (recMsg e.1) } (recState e.2 e.1).pkgTouch.security rfl
    have hlt : recKind (recOf e.1) < 7 := by rw [hk]; fin_cases he <;> decide
    unfold State.recRefused
    simp only [test_signed_by _ _ hlt, hm, hg, hc, hser, hk, hsm, hz0]
    have hlc : (recState e.2 e.1).pkgTouch.security.lifecycle = e.2 := by fin_cases he <;> rfl
    fin_cases he <;> simp_all [Security.signer]
  · fin_cases he <;> rfl

/-- A record that is not of this part is refused. -/
theorem test_record_refused : (ready.pkgTouch.recRefused (List.replicate 896 0)).isSome = true ∧ (List.replicate 896 (0 : Byte)).length = 896 := by
  have hk : recKind (List.replicate 896 0) = 0 := by decide +kernel
  refine ⟨?_, by decide +kernel⟩
  unfold State.recRefused
  dsimp only
  rw [test_signed_by _ _ (by omega), hk]
  rfl
/-- A record of the kind that blows a revocation fuse, on a part that is OWNED. -/
theorem test_revocation : let b : List Byte := leBytes 1 revokeKind ++ List.replicate 895 0
    b.length = 896 ∧ recKind b = revokeKind ∧ (owned true none none).recBusy = false ∧ (owned true none none).security.lifecycle ≠ .vendor ∧
    (owned true none none).security.lifecycle ≠ .refurbish := by
  have h : revokeKind < 256 := by unfold revokeKind; omega
  refine ⟨by rw [List.length_append, test_le_length, List.length_replicate], ?_, by decide, by decide, by decide⟩
  have hs := test_slice_head (leBytes 1 revokeKind) (List.replicate 895 0)
  rw [test_le_length] at hs
  rw [recKind, hs]
  simp [leBytes, leNat]
  omega
theorem test_erase_pending : let s : State := { ready with security := { secOf { lifecycle := .leased } with erasePending := true, eraseQueue := [⟨255, .record (recOf 3), rq, none⟩] } }
    s.security.eraseQueue = [⟨255, .record (recOf 3), rq, none⟩] ∧ s.multi = none ∧ s.sessions = [] ∧
    s.security.lifecycle ≠ .manufacture ∧ s.security.lifecycle ≠ .retired := ⟨rfl, rfl, rfl, by decide, by decide⟩
/-- A tenant key in slot 5 of an OWNED part. -/
def tenant : State :=
  { ready with
    security := { secOf { lifecycle := .owned } with auth := some rq, keys := [(0, { gen := 1, listed := true }), (5, { gen := 2, listed := true })], genNext := 3 },
    sessions := [{ sessA 0 with key := 5 }] }
theorem test_key_premises : tenant.dorubOn rq = true ∧ tenant.serves 0x5200 = true ∧ tenant.serves 0x5380 = true ∧ tenant.authorised rq = true ∧
    tenant.security.eraseQueue = [] ∧ tenant.pkgTouch.keyPlain (List.replicate 416 5) = none ∧ (owned true none none).authorised rq = false := by decide +kernel
theorem test_erase : nextIs (exec (.erase rq 5) tenant) (fun t => (t.keySlot 5).gen == 0 && (t.keySlot 5).erasing && t.sessions == [] && t.security.erasePending) = true ∧
    nextIs (exec (.erase rq 64) tenant) (fun t => (t.keySlot 5).gen == 2) = true ∧
    nextIs (exec (.erase rq 0) tenant) (fun t => (t.keySlot 5).gen == 2) = true := by decide +kernel
theorem test_erase_done : nextIs (exec .eraseDone { ready with security := { keys := [(0, { gen := 1, listed := true }), (5, { listed := true, erasing := true })], eraseQueue := [⟨5, .itself, rq, none⟩], erasePending := true } })
    (fun t => t.keySlot 5 == {} && t.security.eraseQueue == [] && t.security.ledger.erases == 1) = true := by decide +kernel
/-- Without the authorisation a token is refused with AUTH. -/
theorem test_token_auth : ((owned true none none).pkgTouch.tokenRefused rq (List.replicate 448 0)) = some .auth ∧ (List.replicate 448 (0 : Byte)).length = 448 := by decide +kernel
theorem test_firmware_premises : (owned true (some rq) none).ownerOnly rq none = none ∧ (owned true none none).ownerOnly rq none ≠ none ∧
    (owned true (some rq) none).security.bootRomOnly = false ∧ (owned true (some rq) none).security.fwMinSvn ≤ 0 ∧
    0 ≤ min ((owned true (some rq) none).security.imageVersion 0 1).2 ((owned true (some rq) none).security.imageVersion 0 2).2 := by decide
theorem test_fw_verify : nextIs (exec (.fwVerify rq) (owned true (some rq) none)) (fun t => t.security.stagedOk) = true := by decide +kernel
theorem test_report_ready : let a : Report2 := ⟨rq, List.replicate 32 1, false, []⟩
    let s : State := { ready with security := { reports := [a] } }
    s.security.reports.find? (fun a => a.req == rq && !a.ready) = some a ∧
    nextIs (exec (.attReportReady rq) s) (fun t => t.security.reports.map (·.ready) == [true]) = true := by decide

/-! ### The whole block -/

theorem test_idle : ready.pending = [] ∧ ready.power.refLost = false ∧ ready.dieOut 3 = true ∧ State.reset.dieOut 3 = false ∧
    nextIs (step ready) (fun t => t.counter 3 == 1) = true ∧ nextIs (step State.reset) (fun t => t.counter 3 == 0) = true := by decide
/-- The invariant's statement has a case that takes a step: a command that stores a byte. -/
theorem test_invariant_step : nextIs (step { inboxed false (request 1 true (.write [7])) with pending := [.packetReceive 0] })
    (fun t => t.pending == [] && t.mem == [(coreBase 0 + 8, 7)]) = true := by decide
theorem test_invariant_start : ({ inboxed false (request 1 true (.write [7])) with pending := [.packetReceive 0] } : State).Inv := by
  unfold State.Inv; decide
/-- A core that the part does not have: TP2 has 48. -/
theorem test_no_such_unit : (Instr.mzero 48 .crown).unit = some (.core 48) ∧ Named.ok .tp2 (.core 48) = false ∧
    nextIs (exec (.mzero 48 .crown) { State.reset with part := .tp2 }) (fun t => t.part == .tp2 && t.ctxs == []) = true := by decide
theorem test_wf_next : (Instr.mzero 47 .crown).wf .tp2 = true ∧ nextIs (exec (.mzero 47 .crown) { State.reset with part := .tp2 }) (fun _ => true) = true := by decide

end Tests
end

section
/-! PROOFS. The fetch of a bundle (R96, R119): which contexts a fault, its error record and its event leave as they were, what one issue
cycle of a core does, and O3. -/

namespace Sys2Proof.Machine

/-! ### The context table under an update of one context -/

theorem ctxKey_inj {m n : Nat} {y x : Ctx} (h : ctxKey m y = ctxKey n x) : (m, y) = (n, x) := by
  cases y <;> cases x <;> dsimp only [ctxKey] at h
  case crown.crown | brim.brim =>
    obtain rfl : m = n := by omega
    rfl
  case crown.brim | brim.crown => omega

theorem ctx_setCtx_ne (s : State) {n m : Nat} {x y : Ctx} (c : Context) (h : (m, y) ≠ (n, x)) : (s.setCtx n x c).ctx m y = s.ctx m y :=
  Table.read_write_ne _ (fun e => h (ctxKey_inj e.symm)) _ _

/-- Contexts are read from the context table alone. -/
theorem ctx_of_ctxs {s t : State} (h : t.ctxs = s.ctxs) (n : Nat) (x : Ctx) : t.ctx n x = s.ctx n x := by
  simp only [State.ctx, h]

/-- Memory is read from the memory table alone. -/
theorem memKept_of_mem {s t : State} (h : t.mem = s.mem) (inside : Nat → Prop) : MemKept inside s t := fun a _ => by
  simp only [State.byte, h]

/-! ### Counts, events and error records leave the contexts -/

@[simp] theorem State.bump_ctxs (s : State) (index sub n : Nat) : (s.bump index sub n).ctxs = s.ctxs := by
  unfold State.bump; split <;> rfl

@[simp] theorem State.jsend_ctxs (s : State) (id : Nat) (m : JMsg) : (s.jsend id m).ctxs = s.ctxs := by
  unfold State.jsend
  split
  · rfl
  · dsimp only; split <;> simp

@[simp] theorem State.queueEvent_ctxs (s : State) (code die source step : Nat) (detail : List Byte) (key : Option Nat) :
    (s.queueEvent code die source step detail key).ctxs = s.ctxs := by
  unfold State.queueEvent
  dsimp only
  split
  · simp
  · rw [foldl_keeps (·.ctxs) _ (fun t id => t.jsend_ctxs id _)]

@[simp] theorem State.event_ctxs (s : State) (code die source step : Nat) (detail : List Byte) (key : Option Nat) :
    (s.event code die source step detail key).ctxs = s.ctxs := by
  unfold State.event
  split
  · simp
  · split
    · simp
    · dsimp only; split <;> simp

@[simp] theorem State.countLost_ctxs (s : State) (die sev : Nat) : (s.countLost die sev).ctxs = s.ctxs := rfl

@[simp] theorem State.enqueueRec_ctxs (s : State) (r : ErrRec) : (s.enqueueRec r).ctxs = s.ctxs := by
  unfold State.enqueueRec
  dsimp only
  split
  · rfl
  · split
    · rfl
    · split <;> rfl

/-- The record of an uncorrected or deferred error is queued or counted lost, and nothing else follows (R406, R409, R411). -/
theorem State.capture_of_sev {s : State} {cls : Nat} {w : ErrAt} (hce : classSev cls ≠ 0) (huf : classSev cls ≠ 3) :
    s.capture cls w = s.enqueueRec (s.newRec cls w) := by
  have hsev : (s.newRec cls w).sev = classSev cls := rfl
  simp [State.capture, hsev, hce, huf]

/-! ### A fault of a context (R119) -/

/-- The context as its fault leaves it: FAULTED, with the code and the bundle address; all else as it was. -/
def Context.faulted (c : Context) (code : Nat) (pc : Dword) : Context :=
  { c with state := .faulted, fault := code, faultAddr := pc, halting := false }

/-- A fault of a context that runs or waits enters it into the context table; its record and its event change no context. -/
theorem State.faultContext_ctxs (s : State) (n : Nat) (x : Ctx) (code : Nat) (pc : Dword) (step att : Nat)
    (h : (s.ctx n x).state = .running ∨ (s.ctx n x).state = .waiting) :
    (s.faultContext n x code pc step att).ctxs = (s.setCtx n x ((s.ctx n x).faulted code pc)).ctxs := by
  have hlive : ((s.ctx n x).state = .faulted || (s.ctx n x).state = .busy && (s.ctx n x).busyAfter = .faulted) = false := by
    rcases h with h | h <;> simp [h]
  unfold State.faultContext
  simp only [hlive, Bool.false_eq_true, if_false, State.event_ctxs]
  rw [State.capture_of_sev (by decide) (by decide), State.enqueueRec_ctxs]
  rfl

/-! ### One issue cycle of a core -/

@[simp] theorem State.countCycle_ctxs (s : State) (n : Nat) : (s.countCycle n).ctxs = s.ctxs := by
  unfold State.countCycle
  dsimp only
  split
  · rfl
  · rw [apply_ite State.ctxs, State.bump_ctxs, ite_self]
    split
    · rfl
    · split <;> simp

/-- The context that a core can issue from runs or waits, and is not halting (R93, R118). -/
theorem State.cur_of_canIssue {s : State} {n : Nat} (h : s.canIssue n = true) :
    ((s.cur n).state = .running ∨ (s.cur n).state = .waiting) ∧ (s.cur n).halting = false := by
  simp only [State.canIssue, Bool.and_eq_true, Bool.or_eq_true, Bool.not_eq_true', decide_eq_true_eq] at h
  obtain ⟨⟨⟨⟨-, hstate⟩, -⟩, hhalt⟩, -⟩ := h
  exact ⟨hstate, hhalt⟩

/-- A core that can issue fetches and tries to issue, and counts the cycle. -/
theorem exec_bundleIssue {n : Nat} {s : State} (hn : n < Config.cores s.part) (h : s.canIssue n = true) :
    exec (.bundleIssue n) s = .next ((s.fetchIssue n (s.coreSt n).active).countCycle n) := by
  show execBundleIssue n s = _
  simp only [execBundleIssue, hn, h, if_true]

/-! ### The fetch: inside the partition, beyond it, and at an uncorrected error -/

section
variable {s : State} {n : Nat} {x : Ctx}

theorem State.fetchIssue_ok (hin : 16 * (s.ctx n x).pc.toNat + 16 ≤ s.partSize n x)
    (hok : s.coreBad (s.partAddr n x (16 * (s.ctx n x).pc.toNat)) 16 = false) :
    s.fetchIssue n x = s.issue n x (BitVec.ofNat 128 (leNat (s.rawRead (s.partAddr n x (16 * (s.ctx n x).pc.toNat)) 16))) := by
  simp [State.fetchIssue, State.inPart, hin, hok]

theorem State.fetchIssue_beyond (hout : s.partSize n x < 16 * (s.ctx n x).pc.toNat + 16) :
    s.fetchIssue n x = s.faultContext n x fAccess (s.ctx n x).pc (s.ctx n x).step (s.ctx n x).att := by
  simp [State.fetchIssue, State.inPart, hout]

theorem State.fetchIssue_uc (hin : 16 * (s.ctx n x).pc.toNat + 16 ≤ s.partSize n x)
    (hbad : s.coreBad (s.partAddr n x (16 * (s.ctx n x).pc.toNat)) 16 = true) :
    s.fetchIssue n x = s.faultContext n x fMemoryUc (s.ctx n x).pc (s.ctx n x).step (s.ctx n x).att := by
  simp [State.fetchIssue, State.inPart, hin, hbad]

end

/-- An issue cycle that faults the active context makes that context FAULTED and changes neither memory nor any other context. -/
theorem faultContext_countCycle {n : Nat} {s : State} (h : s.canIssue n = true) (code step att : Nat) :
    let t := (s.faultContext n (s.coreSt n).active code (s.cur n).pc step att).countCycle n
    t.mem = s.mem ∧ (∀ m y, (m, y) ≠ (n, (s.coreSt n).active) → t.ctx m y = s.ctx m y) ∧
      t.ctx n (s.coreSt n).active = { s.cur n with state := .faulted, fault := code, faultAddr := (s.cur n).pc } := by
  intro t
  obtain ⟨hstate, hhalt⟩ := s.cur_of_canIssue h
  have hctxs : t.ctxs = (s.setCtx n (s.coreSt n).active ((s.cur n).faulted code (s.cur n).pc)).ctxs :=
    (State.countCycle_ctxs _ n).trans (s.faultContext_ctxs n _ code _ step att hstate)
  refine ⟨?_, fun m y hne => ?_, ?_⟩
  · rw [State.countCycle_mem, State.faultContext_mem]
  · rw [ctx_of_ctxs hctxs, ctx_setCtx_ne s _ hne]
  · rw [ctx_of_ctxs hctxs, ctx_setCtx, Context.faulted, ← hhalt]

/-- Settles O3: inside the partition the fetched bundle goes to the issue; else the active context faults with the code of its case, and
the error record, the event and the cycle's counts change neither a context nor memory. -/
theorem fetchFromPartition : Obligations.FetchFromPartition := by
  intro n s hn hi
  refine ⟨fun hin hok => ?_, fun code hcode => ?_⟩
  · rw [exec_bundleIssue hn hi, State.fetchIssue_ok hin hok]
    rfl
  · have hfetch : s.fetchIssue n (s.coreSt n).active =
        s.faultContext n (s.coreSt n).active code (s.cur n).pc (s.cur n).step (s.cur n).att := by
      rcases hcode with ⟨hout, rfl⟩ | ⟨hin, hbad, rfl⟩
      · exact State.fetchIssue_beyond hout
      · exact State.fetchIssue_uc hin hbad
    obtain ⟨hmem, hothers, hcur⟩ := faultContext_countCycle hi code (s.cur n).step (s.cur n).att
    exact ⟨_, (exec_bundleIssue hn hi).trans (by rw [hfetch]), memKept_of_mem hmem _, hothers, hcur⟩

end Sys2Proof.Machine
end

section
/-! PROOFS. The running level (R372): what the reports and messages sent along with a level change leave as they were, the decision that
every change of an input of the level ends with, and O31. -/

namespace Sys2Proof.Machine

/-! ### Counts and deferred error records leave the group, the level's inputs and the boot state -/

@[simp] theorem State.bump_group (s : State) (index sub n : Nat) : (s.bump index sub n).group = s.group := by
  unfold State.bump; split <;> rfl

@[simp] theorem State.bump_power (s : State) (index sub n : Nat) : (s.bump index sub n).power = s.power := by
  unfold State.bump; split <;> rfl

@[simp] theorem State.bump_obj (s : State) (index sub n i j : Nat) : (s.bump index sub n).obj i j = s.obj i j := by
  unfold State.bump; split <;> rfl

@[simp] theorem State.bump_fabricOn (s : State) (index sub n : Nat) : (s.bump index sub n).fabricOn = s.fabricOn := by
  unfold State.bump; split <;> rfl

@[simp] theorem State.setPower_power (s : State) (f : Power → Power) : (s.setPower f).power = f s.power := rfl

/-- Queuing a record, or counting it lost, changes the error unit alone (R406, R409). -/
theorem State.enqueueRec_frame (s : State) (r : ErrRec) : s.enqueueRec r = { s with errors := (s.enqueueRec r).errors } := by
  unfold State.enqueueRec
  dsimp only
  split
  · rfl
  · split
    · rfl
    · split <;> rfl

/-- The capture of a deferred error changes the error unit alone: no event, no Vigil mode (R406, R411). -/
theorem State.capture_frame_of_deferred (s : State) {cls : Nat} (w : ErrAt) (hde : classSev cls = 1) :
    s.capture cls w = { s with errors := (s.capture cls w).errors } := by
  rw [State.capture_of_sev (by omega) (by omega)]
  exact s.enqueueRec_frame _

theorem State.capture_group_of_deferred (s : State) {cls : Nat} (w : ErrAt) (hde : classSev cls = 1) :
    (s.capture cls w).group = s.group := by
  rw [s.capture_frame_of_deferred w hde]

theorem State.capture_fabricOn_of_deferred (s : State) {cls : Nat} (w : ErrAt) (hde : classSev cls = 1) :
    (s.capture cls w).fabricOn = s.fabricOn := by
  rw [s.capture_frame_of_deferred w hde]
  rfl

/-! ### A Lantern message leaves the group -/

@[simp] theorem State.startLine_group (s : State) (u : Nat) (ps : List Packet) (op : Option (Nat × Ctx)) (parent : Option Packet) :
    (s.startLine u ps op parent).1.group = s.group := by
  unfold State.startLine
  split
  · rfl
  · dsimp only
    split
    · rfl
    · exact foldl_keeps (·.group) State.inject (fun _ _ => rfl) _ _

@[simp] theorem State.startStages_group (s : State) (u : Nat) (op : Option (Nat × Ctx)) (parent : Option Packet) (n : Nat) (p : Packet) :
    (s.startStages u op parent n p).1.group = s.group := by
  induction n generalizing s p with
  | zero => exact s.startLine_group u [p] op parent
  | succ n ih => exact (ih _ _).trans (s.startLine_group u [p] op parent)

@[simp] theorem State.lanternCast_group (s : State) (m : LanternMsg) : (s.lanternCast m).group = s.group := by
  simp [State.lanternCast]

@[simp] theorem State.lanternCheck_group (s : State) : s.lanternCheck.group = s.group := by
  unfold State.lanternCheck
  split <;> simp

/-! ### The decision of the level (R367, R372) -/

/-- The running level is read from the power state, the group and LEVEL_CEILING. -/
theorem State.running_congr {s t : State} (hgroup : t.group = s.group) (hcap : t.power.aCap = s.power.aCap)
    (hth : t.power.aTh = s.power.aTh) (hlevel : t.power.groupLevel = s.power.groupLevel)
    (hceil : t.obj 0x2400 2 = s.obj 0x2400 2) : t.running = s.running := by
  simp only [State.running, State.allowed, hgroup, hcap, hth, hlevel, hceil]

@[simp] theorem State.retarget_group (s : State) : s.retarget.group = s.group := by
  unfold State.retarget
  dsimp only
  split <;> simp

/-- After the decision the last level decided is the running one: the level decided already, or the new one, which no input of the level
depends on. -/
theorem State.retarget_target (s : State) : s.retarget.power.target = s.retarget.running := by
  unfold State.retarget
  dsimp only
  split
  case isTrue h => exact h.symm
  case isFalse => refine Eq.trans ?_ (State.running_congr (s := s) ?_ ?_ ?_ ?_ ?_).symm <;> simp

@[simp] theorem State.levels_group (s : State) : s.levels.group = s.group := by
  simp [State.levels]

theorem State.levels_target (s : State) : s.levels.power.target = s.levels.running :=
  s.lanternCheck.retarget_target

/-- The two cases of R372. -/
theorem State.target_of_running {t : State} (h : t.power.target = t.running) :
    (t.group.state ≠ .active → t.power.target = max t.power.aCap (max t.power.aTh (t.obj 0x2400 2))) ∧
    (t.group.state = .active → t.power.target = max (max t.power.aCap (max t.power.aTh (t.obj 0x2400 2))) t.power.groupLevel) := by
  rw [h, State.running]
  exact ⟨fun hact => if_neg hact, fun hact => if_pos hact⟩

/-! ### The commands of a part at work -/

theorem whenLoops_of_fabricOn {s : State} (t : State) (hon : s.fabricOn = true) : whenLoops s t = .next t := by
  simp [whenLoops, hon]

theorem whenReady_of_fabricOn {s : State} (t : State) (hon : s.fabricOn = true) : whenReady s t = .next t := by
  simp [whenReady, hon]

theorem State.levelsOn_of_fabricOn {s : State} (hon : s.fabricOn = true) : s.levelsOn = s.levels := if_pos hon

/-- The end of a cap period with samples decides the levels, in the group as it was (R368, R370). -/
theorem State.capLoop_ends_in_levels {s : State} (hon : s.fabricOn = true) (hsamples : s.power.samples ≠ 0) :
    ∃ u : State, s.capLoop = u.levels ∧ u.group = s.group := by
  have hde : classSev 0x17 = 1 := by decide
  unfold State.capLoop
  dsimp only
  rw [if_neg hsamples, State.levelsOn_of_fabricOn]
  · refine ⟨_, rfl, ?_⟩
    simp only [apply_ite State.group, State.capture_group_of_deferred _ _ hde, State.bump_group, State.setPower_group, ite_self]
  · simp only [apply_ite State.fabricOn, State.capture_fabricOn_of_deferred _ _ hde, State.bump_fabricOn, State.setPower_fabricOn, ite_self,
      hon]

/-- The end of a thermal period decides the levels, in the group as it was (R380). -/
theorem State.thermalLoop_ends_in_levels {s : State} (hon : s.fabricOn = true) (junction stack : List Nat) :
    ∃ u : State, s.thermalLoop junction stack = u.levels ∧ u.group = s.group := by
  have hde : classSev 0x18 = 1 := by decide
  unfold State.thermalLoop
  dsimp only
  rw [State.levelsOn_of_fabricOn]
  · refine ⟨_, rfl, ?_⟩
    simp only [apply_ite State.group, State.capture_group_of_deferred _ _ hde, State.bump_group, State.modLedger_group,
      State.setPower_group, ite_self]
  · simp only [apply_ite State.fabricOn, State.capture_fabricOn_of_deferred _ _ hde, State.bump_fabricOn, State.modLedger_fabricOn,
      State.setPower_fabricOn, ite_self, hon]

/-- A DOWN of the group's current epoch raises H and G, and the level is decided (R376). -/
theorem State.lanternDown_of_epoch {s : State} {m : LanternMsg} (hact : s.group.state = .active) (hid : m.groupId = s.group.id)
    (hepoch : m.epoch = s.power.epoch) : s.lanternDown m = (s.setPower (fun p => p.down m.level)).retarget := by
  simp [State.lanternDown, hact, hid, hepoch]

/-- At the end of the settle time G falls to H, and the level is decided (R378). -/
theorem State.settled_of_due {s : State} (hact : s.group.state = .active) (hdue : s.power.settleDue = true) :
    s.settled = (s.setPower (fun p => { p with groupLevel := p.pendingLevel, settleDue := false })).retarget := by
  simp [State.settled, hact, hdue]

/-- Settles O31: each of the four commands ends with the decision of the level, which leaves the group and gives the running level of the
state that it reaches. -/
theorem runningLevel : Obligations.RunningLevel := by
  intro s i junction stack m hon hi
  have hdecides : ∃ t, exec i s = .next t ∧ t.group = s.group ∧ t.power.target = t.running := by
    rcases hi with ⟨rfl, hsamples⟩ | rfl | ⟨hact, ⟨rfl, hid, hepoch⟩ | ⟨rfl, hdue⟩⟩
    case inl =>
      obtain ⟨u, hu, hgroup⟩ := State.capLoop_ends_in_levels hon hsamples
      exact ⟨u.levels, hu ▸ whenLoops_of_fabricOn s.capLoop hon, u.levels_group.trans hgroup, u.levels_target⟩
    case inr.inl =>
      obtain ⟨u, hu, hgroup⟩ := State.thermalLoop_ends_in_levels hon junction stack
      exact ⟨u.levels, hu ▸ whenLoops_of_fabricOn (s.thermalLoop junction stack) hon, u.levels_group.trans hgroup, u.levels_target⟩
    case inr.inr.inl =>
      refine ⟨_, whenReady_of_fabricOn (s.lanternDown m) hon, ?_⟩
      rw [State.lanternDown_of_epoch hact hid hepoch]
      exact ⟨State.retarget_group _, State.retarget_target _⟩
    case inr.inr.inr =>
      refine ⟨_, whenReady_of_fabricOn s.settled hon, ?_⟩
      rw [State.settled_of_due hact hdue]
      exact ⟨State.retarget_group _, State.retarget_target _⟩
  obtain ⟨t, hexec, hgroup, htarget⟩ := hdecides
  exact ⟨t, hexec, congrArg Group.state hgroup, State.target_of_running htarget⟩

end Sys2Proof.Machine
end

section
/-! PROOFS. The IDCODE of a die (R397): its number as the sum of its fields, the register that the instruction IDCODE selects, and O49. -/

namespace Sys2Proof.Machine

/-! ### The fields of IDCODE -/

/-- The revision step that IDCODE shows in [31:28]. -/
def State.revisionStep (s : State) (d : Nat) : Nat := if s.dieRev d = 0x0200 then 2 else if s.dieRev d = 0x0101 then 1 else 0

/-- The manufacturer code that IDCODE shows in [11:1]. -/
def makerCode : Nat := ((Config.fusedByte (okey 0x1000 3) 0).toNat + 256 * (Config.fusedByte (okey 0x1000 3) 1).toNat) % 2 ^ 11

theorem State.revisionStep_le (s : State) (d : Nat) : s.revisionStep d ≤ 2 := by
  unfold State.revisionStep
  split_ifs <;> decide

theorem State.revisionStep_A0 {s : State} {d : Nat} (h : s.dieRev d = 0x0100) : s.revisionStep d = 0 := by simp [State.revisionStep, h]
theorem State.revisionStep_A1 {s : State} {d : Nat} (h : s.dieRev d = 0x0101) : s.revisionStep d = 1 := by simp [State.revisionStep, h]
theorem State.revisionStep_B0 {s : State} {d : Nat} (h : s.dieRev d = 0x0200) : s.revisionStep d = 2 := by simp [State.revisionStep, h]

theorem makerCode_lt : makerCode < 2 ^ 11 := Nat.mod_lt _ (by decide)

/-- The fields fit in 32 bits, so that no carry or overflow mixes them. -/
theorem State.idcode_toNat (s : State) (d : Nat) :
    (s.idcode d).toNat = s.revisionStep d * 2 ^ 28 + 0x5E42 * 2 ^ 12 + makerCode * 2 + 1 := by
  have hstep := s.revisionStep_le d
  have hmaker := makerCode_lt
  calc (s.idcode d).toNat
      = (s.revisionStep d * 2 ^ 28 + 0x5E42 * 2 ^ 12 + makerCode * 2 + 1) % 2 ^ 32 := by
        rw [State.idcode, BitVec.toNat_ofNat]
        rfl
    _ = _ := Nat.mod_eq_of_lt (by omega)

theorem State.idcode_step (s : State) (d : Nat) : (s.idcode d).toNat / 2 ^ 28 = s.revisionStep d := by
  have hmaker := makerCode_lt
  rw [s.idcode_toNat d]
  omega

theorem State.idcode_part (s : State) (d : Nat) : (s.idcode d).toNat / 2 ^ 12 % 2 ^ 16 = 0x5E42 := by
  have hmaker := makerCode_lt
  rw [s.idcode_toNat d]
  omega

theorem State.idcode_maker (s : State) (d : Nat) : (s.idcode d).toNat / 2 % 2 ^ 11 = makerCode := by
  have hmaker := makerCode_lt
  rw [s.idcode_toNat d]
  omega

theorem State.idcode_marker (s : State) (d : Nat) : (s.idcode d).toNat % 2 = 1 := by
  rw [s.idcode_toNat d]
  omega

/-! ### The register that a TAP selects -/

theorem onTap_of_reached {d : Nat} {s : State} (hd : d < Config.dies s.part) (hreach : s.tapReaches d = true) (t : State) :
    onTap d s t = .next t := by
  simp [onTap, hd, hreach]

@[simp] theorem State.tap_setTap (s : State) (d : Nat) (t : Tap) : (s.setTap d t).tap d = t := Table.read_write_same _ _ _ _

@[simp] theorem State.tapLoad_reg (s : State) (d : Nat) (i : TapInst) (reg : TapReg) : ((s.tapLoad d i reg).tap d).reg = reg := by
  simp [State.tapLoad]

@[simp] theorem State.tapLoad_idcode (s : State) (d : Nat) (i : TapInst) (reg : TapReg) (e : Nat) :
    (s.tapLoad d i reg).idcode e = s.idcode e := rfl

theorem State.tapOut_of_idcode {s : State} {d : Nat} (h : (s.tap d).reg = .idcode) :
    s.tapOut d = (List.range 32).map (fun i => (s.idcode d).getLsbD i) := by
  simp [State.tapOut, State.tapReg, h]

/-- Where the port reaches the die, the instruction IDCODE is loaded. -/
theorem exec_idcode {s : State} {d : Nat} (hd : d < Config.dies s.part) (hreach : s.tapReaches d = true) :
    exec (.idcode d) s = .next (s.tapLoad d .idcode .idcode) :=
  onTap_of_reached hd hreach _

/-- Settles O49: the instruction selects IDCODE and leaves its value, whose fields do not overlap. -/
theorem idcodeLayout : Obligations.IdcodeLayout := by
  intro s d hd hreach
  have hout := State.tapOut_of_idcode (s.tapLoad_reg d .idcode .idcode)
  rw [State.tapLoad_idcode] at hout
  exact ⟨_, exec_idcode hd hreach, hout,
    fun h => (s.idcode_step d).trans (State.revisionStep_A0 h),
    fun h => (s.idcode_step d).trans (State.revisionStep_A1 h),
    fun h => (s.idcode_step d).trans (State.revisionStep_B0 h),
    s.idcode_part d, s.idcode_maker d, s.idcode_marker d⟩

end Sys2Proof.Machine
end

section
/-! PROOFS. The whole block: one step as one command or one tick (O56), that every command answers and needs its unit (O60), what reset leaves
(O57), and that reset has the invariant and every step keeps it (O58, O59). -/

namespace Sys2Proof.Machine

/-! ### One step -/

/-- With a command waiting, a step runs the one at the front on the rest of the queue. -/
theorem step_of_pending {s : State} {c : Instr} {cs : List Instr} (h : s.pending = c :: cs) : step s = exec c { s with pending := cs } := by
  unfold step
  rw [h]

/-- With no command waiting, a step is a tick. -/
theorem step_of_idle {s : State} (h : s.pending = []) : step s = .next (tick s) := by
  unfold step
  rw [h]

/-! ### A tick (R363) -/

/-- The counter of one die rises by one. -/
def State.countDie (s : State) (d : Nat) : State := { s with counters := Table.modify 0 d (fun v => (v + 1) % 2 ^ 64) s.counters }

theorem State.countUp_eq (s : State) : s.countUp = ((List.range (Config.dies s.part)).filter s.dieOut).foldl State.countDie s := rfl

theorem State.counter_countDie (s : State) (d e : Nat) :
    (s.countDie d).counter e = if d = e then (s.counter d + 1) % 2 ^ 64 else s.counter e :=
  Table.read_write _ _ _ _ _

/-- Counting each die of a list once raises the counters of these dies, and of no other. -/
theorem counter_foldl_countDie {l : List Nat} (hl : l.Nodup) (s : State) (e : Nat) :
    (l.foldl State.countDie s).counter e = if e ∈ l then (s.counter e + 1) % 2 ^ 64 else s.counter e := by
  induction l generalizing s with
  | nil => rfl
  | cons d l ih =>
    obtain ⟨hd, hl⟩ := List.nodup_cons.1 hl
    rw [List.foldl_cons, ih hl, State.counter_countDie]
    by_cases h : d = e
    · subst h
      simp [hd]
    · simp [h, Ne.symm h]

/-- A tick changes counters, and the stall times of ports, alone. -/
theorem tick_pending (s : State) : (tick s).pending = s.pending := by
  unfold tick
  split
  · rfl
  · refine (foldl_keeps (·.pending) _ (fun t a => ?_) _ _).trans (foldl_keeps (·.pending) State.countDie (fun t a => ?_) _ _)
    all_goals rfl

theorem tick_counter {s : State} (h : s.power.refLost = false) (e : Nat) : (tick s).counter e = s.countUp.counter e := by
  rw [tick, if_neg (Bool.eq_false_iff.1 h)]
  refine foldl_keeps (State.counter · e) _ (fun t a => ?_) _ _
  rfl

/-- Settles O56: the counters of the dies out of reset are those that the tick's list of dies names, each once. -/
theorem stepTakesTheFront : Obligations.StepTakesTheFront := by
  refine ⟨fun c cs s => step_of_pending rfl, fun s hs => ⟨tick s, step_of_idle hs, (tick_pending s).trans hs, tick_mem s, ?_⟩⟩
  intro href d hd
  have hcount := counter_foldl_countDie (List.nodup_range.filter s.dieOut) s (l := (List.range (Config.dies s.part)).filter s.dieOut) d
  rw [tick_counter href, s.countUp_eq, hcount]
  exact ⟨fun hout => by simp [hd, hout], fun hin => by simp [hin]⟩

/-! ### Every command answers -/

/-- A command that asks first whether the part has the unit acts, or leaves the state. -/
theorem answers_ite {c : Prop} [Decidable c] {a b : State} :
    ∃ t, (if c then .next a else .next b : Host.Outcome State Fault Refusal) = .next t := by
  split <;> exact ⟨_, rfl⟩

/-- No command is refused and none stops. -/
theorem exec_answers (i : Instr) (s : State) : ∃ t, exec i s = .next t := by
  cases i with
  | registerWrite p => cases p <;> exact ⟨_, rfl⟩
  | guardWrite g =>
    cases g with
    | block => exact answers_ite
    | pkg => exact ⟨_, rfl⟩
  | bundleIssue | operationDispatch | operationComplete | mzero | mmul | mdrain | vscan | venc | vcvt | vlds | vldr | vew | vdtab | vred | vopt | vrng
  | smov | scpy | sput | sget | sline | qpush | qpop | satom | swait | snote | sreduce | smcast | xdisp | xcomb | reshard | li | addR | subR | andR
  | orR | xorR | shl | shr | sra | addi | cmp | br | waitc | dwr | time | rdsr | flagclr | endIssue | brimActivate | switchAbandoned | brimPreempt
  | brimSuspended | brimResume | load | save | saveFull | halt | resume | clear | contextCmdDone | coreEnable | coreDisable | coreDisableDone
  | wrcntWrite | mcErrWrite | slotEnable | slotDisable | queuePart | spillCopy | schedulerDecision | exchPartial | factorPart | expert | expertSettle
  | settle | expertReturn | reshardTransfer | notice | patrolScrub | portEnWrite | thermalTrip | droop | droopRecovery | dieTest | bypass | extest
  | idcode | clamp | recordHandling | stackFail | privateInstruction | samplePreload =>
    exact answers_ite
  | grant | creditReturn | revoke | form | dissolve | resolveFeast | resolveFast | formRec | formed | rejected | formTimeout | exchDelivery | eveFirst
  | eve | eveTimeout | stepWatchdog | feast | fastRepeat | fastSkip | selfFast | watchEvaluation | watchTableWrite | packetRoute | packetReceive
  | holdTimeout | entryIdleRelease | busy | busyResend | errorRsp | ack | linkFrame | nak | linkRetry | train | trainingAttemptTimeout | creditSync
  | absent | absentEnd | fportEnable | fportDisable | loadOpen | loadSeal | switchEdition | startDrain | forceRetire | drain | drainReply | retire
  | drainTimeout | jortoOpen | jortoClose | jortoWrite | jortoReadReq | stepDoorbell | wordDoorbell | jortoAck | jortoRto | sessionIdle | arpRequest
  | neighborSolicitation | echoRequest | frameDiscard | hostLinkDown | dorubRead | dorubWrite | multiWrite | describe | blockReadStart | blockReadSeg
  | blockWriteStart | blockWriteSeg | blockWriteEnd | blockAbort | blockTransferIdle | heartbeat | profileSave | profileSaveDone | selectNext
  | defaults | cancelNext | powerSample | capLoop | pkgCapWrite | levelChangeDone | dutyChange | thermalLoop | regTrip | refclkLoss | lanternDown
  | lanternBeacon | lanternCall | lanternReply | lanternSet | lanternSettle | coldReset | coldStart | dieReleaseTimeout | warmReset | warmResetDone
  | errAck | lostCountWrite | fwVerify | fwActivate | commitSvn | fwChunk | fwMinSvn | attNonce | attReportReady | authOpen | authClose | authIdle
  | transfer | lease | endLease | refurbish | finish | retireRecord | keyLoad | erase | eraseDone | slot0Secret | debugToken | ledgerCommit
  | hostLinkUp | manufacturingTest | trstnRelease | plcaCollision =>
    exact ⟨_, rfl⟩

/-! ### A command for an absent unit -/

/-- A block that the table of blocks does not list is of no kind (Table 15.8). -/
theorem blockKind_of_not_hasBlock {p : Part} {b : Nat} (h : hasBlock p b = false) : (blockKind p b).isSome = false := by
  cases p <;> simp [hasBlock, Config.cores, Config.stackCount, Config.ports, Config.slots, Config.dies] at h <;>
    simp [blockKind, Config.cores, Config.stackCount, Config.ports, Config.slots, Config.dies] <;> grind

/-- The stand-alone die test is of the TP4 alone, and names one of its four dies (R399). -/
theorem dieTest_of_absent {s : State} {mode d : Nat} {inp : DieTestInputs} (h : ¬ d < Config.dies s.part) :
    exec (.dieTest mode d inp) s = .next s := by
  show (if d < 4 then .next (if s.boot.state = .rom && mode = 2 && s.testPermitted then s.dieTest d inp else s) else .next s : Host.Outcome State Fault Refusal) = _
  split
  case isTrue hd =>
    have hpart : s.part ≠ .tp4 := fun e => h (by rw [e]; exact hd)
    simp [State.testPermitted, hpart]
  case isFalse => rfl

theorem onPort_of_absent {p : Nat} {s : State} (h : ¬ p < Config.ports s.part) (t : State) : onPort p s t = .next s := by
  simp [onPort, h]

/-- A command for a unit that the part does not have leaves the state: each asks for its unit first (log entry 135). -/
theorem exec_of_absent {i : Instr} {s : State} {u : Named} (hu : i.unit = some u) (h : u.ok s.part = false) : exec i s = .next s := by
  cases i with
  | bundleIssue | operationDispatch | operationComplete | mzero | mmul | mdrain | vscan | venc | vcvt | vlds | vldr | vew | vdtab | vred | vopt | vrng
  | smov | scpy | sput | sget | sline | qpush | qpop | satom | swait | snote | sreduce | smcast | xdisp | xcomb | reshard | li | addR | subR | andR
  | orR | xorR | shl | shr | sra | addi | cmp | br | waitc | dwr | time | rdsr | flagclr | endIssue | brimActivate | switchAbandoned | brimPreempt
  | brimSuspended | brimResume | load | save | saveFull | halt | resume | clear | contextCmdDone | coreEnable | coreDisable | coreDisableDone | droop
  | droopRecovery | reshardTransfer | notice | mcErrWrite | patrolScrub | stackFail | slotEnable | slotDisable | spillCopy | schedulerDecision
  | queuePart | exchPartial | factorPart | expert | expertSettle | settle | expertReturn | bypass | samplePreload | extest | idcode | clamp
  | recordHandling | thermalTrip | privateInstruction =>
    cases hu
    exact if_neg (of_decide_eq_false h)
  | grant | creditReturn | revoke =>
    cases hu
    exact congrArg _ (if_pos (Nat.le_of_not_lt (of_decide_eq_false h)))
  | linkFrame | nak | linkRetry | train | trainingAttemptTimeout | creditSync | absent | absentEnd | fportEnable | fportDisable =>
    cases hu
    exact onPort_of_absent (of_decide_eq_false h) _
  | dieTest =>
    cases hu
    exact dieTest_of_absent (of_decide_eq_false h)
  | dieReleaseTimeout d =>
    cases hu
    have hdie : ¬ d < Config.dies s.part := of_decide_eq_false h
    simp [exec, execDieReleaseTimeout, State.answerDue, hdie]
  | regTrip d r =>
    cases hu
    have hdie : ¬ d < Config.dies s.part := of_decide_eq_false h
    simp [exec, execRegTrip, hdie]
  | wrcntWrite =>
    cases hu
    exact if_neg (Bool.eq_false_iff.1 (blockKind_of_not_hasBlock h))
  | guardWrite g =>
    cases g with
    | block =>
      cases hu
      exact if_neg (Bool.eq_false_iff.1 (blockKind_of_not_hasBlock h))
    | pkg => cases hu
  | portEnWrite q =>
    cases hu
    exact if_pos (by simpa [Named.ok] using h)
  | registerWrite | form | dissolve | resolveFeast | resolveFast | formRec | formed | rejected | formTimeout | exchDelivery | eveFirst | eve
  | eveTimeout | stepWatchdog | feast | fastRepeat | fastSkip | selfFast | watchEvaluation | watchTableWrite | packetRoute | packetReceive
  | holdTimeout | entryIdleRelease | busy | busyResend | errorRsp | ack | loadOpen | loadSeal | switchEdition | startDrain | forceRetire | drain
  | drainReply | retire | drainTimeout | jortoOpen | jortoClose | jortoWrite | jortoReadReq | stepDoorbell | wordDoorbell | jortoAck | jortoRto
  | sessionIdle | arpRequest | neighborSolicitation | echoRequest | frameDiscard | hostLinkDown | dorubRead | dorubWrite | multiWrite | describe
  | blockReadStart | blockReadSeg | blockWriteStart | blockWriteSeg | blockWriteEnd | blockAbort | blockTransferIdle | heartbeat | profileSave
  | profileSaveDone | selectNext | defaults | cancelNext | powerSample | capLoop | pkgCapWrite | levelChangeDone | dutyChange | thermalLoop
  | refclkLoss | lanternDown | lanternBeacon | lanternCall | lanternReply | lanternSet | lanternSettle | coldReset | coldStart | warmReset
  | warmResetDone | errAck | lostCountWrite | fwVerify | fwActivate | commitSvn | fwChunk | fwMinSvn | attNonce | attReportReady | authOpen
  | authClose | authIdle | transfer | lease | endLease | refurbish | finish | retireRecord | keyLoad | erase | eraseDone | slot0Secret | debugToken
  | ledgerCommit | hostLinkUp | manufacturingTest | trstnRelease | plcaCollision => cases hu

/-- Settles O60: every command answers, and asks for the unit that it names before it acts. -/
theorem answersNext : Obligations.AnswersNext := ⟨exec_answers, fun _ _ _ => exec_of_absent⟩

/-! ### Reset -/

theorem blockDefault_en (b : Nat) : (blockDefault b).en = false := by
  unfold blockDefault
  split_ifs <;> rfl

theorem blockDefault_guardOpen (b : Nat) : (blockDefault b).guardOpen = false := by
  unfold blockDefault
  split_ifs <;> rfl

/-- Settles O57: every sparse table of the reset state is empty, so that each key reads as its default. -/
theorem resetState : Obligations.ResetState :=
  ⟨rfl, rfl, rfl, fun _ => rfl, fun _ _ => ⟨rfl, rfl, fun _ => rfl, rfl⟩, fun b => ⟨blockDefault_en b, blockDefault_guardOpen b⟩, fun _ => rfl,
    rfl, rfl, rfl, rfl, rfl, fun _ => ⟨rfl, rfl⟩, rfl, rfl, rfl, rfl, fun _ _ => rfl⟩

/-! ### The invariant -/

/-- A state with the memory of one that has the invariant has it too. -/
theorem State.Inv.of_mem {s t : State} (hs : s.Inv) (h : t.mem = s.mem) : t.Inv := by
  rw [State.Inv, h]
  exact hs

/-- Every command keeps the invariant: it leaves the memory, or it keeps its canonical form. -/
theorem exec_inv {i : Instr} {s t : State} (hs : s.Inv) (h : exec i s = .next t) : t.Inv := by
  cases i with
  | bundleIssue => exact hs.of_mem (execBundleIssue_mem _ s t h)
  | operationDispatch => exact hs.of_mem (execOperationDispatch_mem _ _ _ s t h)
  | operationComplete => exact hs.of_mem (execOperationComplete_mem _ _ _ s t h)
  | mzero => exact hs.of_mem (execMzero_mem _ _ s t h)
  | mmul => exact execMmul_memWf _ _ s t h hs
  | mdrain => exact execMdrain_memWf _ _ s t h hs
  | vscan => exact execVscan_memWf _ _ s t h hs
  | venc => exact execVenc_memWf _ _ s t h hs
  | vcvt => exact execVcvt_memWf _ _ s t h hs
  | vlds => exact hs.of_mem (execVlds_mem _ _ s t h)
  | vldr => exact hs.of_mem (execVldr_mem _ _ s t h)
  | vew => exact execVew_memWf _ _ s t h hs
  | vdtab => exact execVdtab_memWf _ _ s t h hs
  | vred => exact execVred_memWf _ _ s t h hs
  | vopt => exact execVopt_memWf _ _ s t h hs
  | vrng => exact execVrng_memWf _ _ s t h hs
  | smov => exact execSmov_memWf _ _ s t h hs
  | scpy => exact execScpy_memWf _ _ s t h hs
  | sput => exact hs.of_mem (execSput_mem _ _ s t h)
  | sget => exact hs.of_mem (execSget_mem _ _ s t h)
  | sline => exact hs.of_mem (execSline_mem _ _ s t h)
  | qpush => exact hs.of_mem (execQpush_mem _ _ s t h)
  | qpop => exact execQpop_memWf _ _ s t h hs
  | satom => exact hs.of_mem (execSatom_mem _ _ s t h)
  | swait => exact hs.of_mem (execSwait_mem _ _ s t h)
  | snote => exact hs.of_mem (execSnote_mem _ _ s t h)
  | sreduce => exact execSreduce_memWf _ _ s t h hs
  | smcast => exact execSmcast_memWf _ _ s t h hs
  | xdisp => exact execXdisp_memWf _ _ s t h hs
  | xcomb => exact execXcomb_memWf _ _ s t h hs
  | reshard => exact hs.of_mem (execReshard_mem _ _ s t h)
  | li => exact hs.of_mem (execLi_mem _ _ _ _ s t h)
  | addR => exact hs.of_mem (execAddR_mem _ _ _ _ s t h)
  | subR => exact hs.of_mem (execSubR_mem _ _ _ _ s t h)
  | andR => exact hs.of_mem (execAndR_mem _ _ _ _ s t h)
  | orR => exact hs.of_mem (execOrR_mem _ _ _ _ s t h)
  | xorR => exact hs.of_mem (execXorR_mem _ _ _ _ s t h)
  | shl => exact hs.of_mem (execShl_mem _ _ _ _ s t h)
  | shr => exact hs.of_mem (execShr_mem _ _ _ _ s t h)
  | sra => exact hs.of_mem (execSra_mem _ _ _ _ s t h)
  | addi => exact hs.of_mem (execAddi_mem _ _ _ _ s t h)
  | cmp => exact hs.of_mem (execCmp_mem _ _ _ _ _ s t h)
  | br => exact hs.of_mem (execBr_mem _ _ _ _ _ s t h)
  | waitc => exact hs.of_mem (execWaitc_mem _ _ _ s t h)
  | dwr => exact hs.of_mem (execDwr_mem _ _ _ _ s t h)
  | time => exact hs.of_mem (execTime_mem _ _ s t h)
  | rdsr => exact hs.of_mem (execRdsr_mem _ _ _ s t h)
  | flagclr => exact hs.of_mem (execFlagclr_mem _ s t h)
  | endIssue => exact hs.of_mem (execEndIssue_mem _ s t h)
  | brimActivate => exact hs.of_mem (execBrimActivate_mem _ s t h)
  | switchAbandoned => exact hs.of_mem (execSwitchAbandoned_mem _ s t h)
  | brimPreempt => exact hs.of_mem (execBrimPreempt_mem _ s t h)
  | brimSuspended => exact hs.of_mem (execBrimSuspended_mem _ _ s t h)
  | brimResume => exact hs.of_mem (execBrimResume_mem _ s t h)
  | load => exact execLoad_memWf _ _ _ s t h hs
  | save => exact execSave_memWf _ _ s t h hs
  | saveFull => exact execSaveFull_memWf _ _ s t h hs
  | halt => exact execHalt_memWf _ _ s t h hs
  | resume => exact execResume_memWf _ _ s t h hs
  | clear => exact execClear_memWf _ _ s t h hs
  | contextCmdDone => exact execContextCmdDone_memWf _ _ s t h hs
  | coreEnable => exact hs.of_mem (execCoreEnable_mem _ s t h)
  | coreDisable => exact hs.of_mem (execCoreDisable_mem _ s t h)
  | coreDisableDone => exact execCoreDisableDone_memWf _ s t h hs
  | registerWrite => exact execRegisterWrite_memWf _ _ _ _ s t h hs
  | guardWrite => exact execGuardWrite_memWf _ _ s t h hs
  | wrcntWrite => exact execWrcntWrite_memWf _ _ s t h hs
  | mcErrWrite => exact execMcErrWrite_memWf _ _ s t h hs
  | slotEnable => exact execSlotEnable_memWf _ s t h hs
  | slotDisable => exact hs.of_mem (execSlotDisable_mem _ s t h)
  | grant => exact hs.of_mem (execGrant_mem _ _ _ _ s t h)
  | creditReturn => exact hs.of_mem (execCreditReturn_mem _ _ _ _ s t h)
  | revoke => exact hs.of_mem (execRevoke_mem _ _ _ s t h)
  | queuePart => exact execQueuePart_memWf _ s t h hs
  | spillCopy => exact hs.of_mem (execSpillCopy_mem _ _ s t h)
  | schedulerDecision => exact hs.of_mem (execSchedulerDecision_mem _ s t h)
  | form => exact hs.of_mem (execForm_mem s t h)
  | dissolve => exact hs.of_mem (execDissolve_mem s t h)
  | resolveFeast => exact hs.of_mem (execResolveFeast_mem s t h)
  | resolveFast => exact hs.of_mem (execResolveFast_mem s t h)
  | formRec => exact hs.of_mem (execFormRec_mem _ _ s t h)
  | formed => exact hs.of_mem (execFormed_mem _ s t h)
  | rejected => exact hs.of_mem (execRejected_mem _ _ s t h)
  | formTimeout => exact hs.of_mem (execFormTimeout_mem s t h)
  | exchPartial => exact execExchPartial_memWf _ _ s t h hs
  | factorPart => exact execFactorPart_memWf _ _ s t h hs
  | exchDelivery => exact execExchDelivery_memWf _ s t h hs
  | eveFirst => exact hs.of_mem (execEveFirst_mem _ _ s t h)
  | eve => exact hs.of_mem (execEve_mem _ _ s t h)
  | eveTimeout => exact hs.of_mem (execEveTimeout_mem s t h)
  | stepWatchdog => exact hs.of_mem (execStepWatchdog_mem s t h)
  | feast => exact hs.of_mem (execFeast_mem _ s t h)
  | fastRepeat => exact hs.of_mem (execFastRepeat_mem _ s t h)
  | fastSkip => exact hs.of_mem (execFastSkip_mem _ s t h)
  | selfFast => exact hs.of_mem (execSelfFast_mem s t h)
  | watchEvaluation => exact hs.of_mem (execWatchEvaluation_mem s t h)
  | watchTableWrite => exact hs.of_mem (execWatchTableWrite_mem _ _ s t h)
  | packetRoute => exact hs.of_mem (execPacketRoute_mem _ s t h)
  | packetReceive => exact execPacketReceive_memWf _ s t h hs
  | holdTimeout => exact hs.of_mem (execHoldTimeout_mem _ _ _ s t h)
  | entryIdleRelease => exact hs.of_mem (execEntryIdleRelease_mem _ _ _ s t h)
  | busy => exact hs.of_mem (execBusy_mem _ _ _ s t h)
  | busyResend => exact hs.of_mem (execBusyResend_mem _ _ s t h)
  | errorRsp => exact hs.of_mem (execErrorRsp_mem _ _ _ s t h)
  | ack => exact hs.of_mem (execAck_mem _ _ _ s t h)
  | linkFrame => exact hs.of_mem (execLinkFrame_mem _ _ s t h)
  | nak => exact hs.of_mem (execNak_mem _ _ s t h)
  | linkRetry => exact hs.of_mem (execLinkRetry_mem _ s t h)
  | train => exact hs.of_mem (execTrain_mem _ _ _ _ s t h)
  | trainingAttemptTimeout => exact hs.of_mem (execTrainingAttemptTimeout_mem _ s t h)
  | creditSync => exact hs.of_mem (execCreditSync_mem _ _ _ s t h)
  | absent => exact hs.of_mem (execAbsent_mem _ s t h)
  | absentEnd => exact hs.of_mem (execAbsentEnd_mem _ s t h)
  | fportEnable => exact hs.of_mem (execFportEnable_mem _ s t h)
  | fportDisable => exact hs.of_mem (execFportDisable_mem _ s t h)
  | loadOpen => exact hs.of_mem (execLoadOpen_mem s t h)
  | loadSeal => exact hs.of_mem (execLoadSeal_mem s t h)
  | switchEdition => exact hs.of_mem (execSwitchEdition_mem s t h)
  | startDrain => exact hs.of_mem (execStartDrain_mem s t h)
  | forceRetire => exact hs.of_mem (execForceRetire_mem s t h)
  | drain => exact hs.of_mem (execDrain_mem _ s t h)
  | drainReply => exact hs.of_mem (execDrainReply_mem _ _ _ _ s t h)
  | retire => exact hs.of_mem (execRetire_mem _ s t h)
  | drainTimeout => exact hs.of_mem (execDrainTimeout_mem s t h)
  | expert => exact hs.of_mem (execExpert_mem _ _ s t h)
  | expertSettle => exact execExpertSettle_memWf _ _ s t h hs
  | settle => exact execSettle_memWf _ _ s t h hs
  | expertReturn => exact execExpertReturn_memWf _ _ s t h hs
  | reshardTransfer => exact execReshardTransfer_memWf _ _ _ _ s t h hs
  | notice => exact hs.of_mem (execNotice_mem _ _ _ s t h)
  | patrolScrub => exact hs.of_mem (execPatrolScrub_mem _ s t h)
  | jortoOpen => exact hs.of_mem (execJortoOpen_mem _ _ _ s t h)
  | jortoClose => exact execJortoClose_memWf _ s t h hs
  | jortoWrite => exact execJortoWrite_memWf _ s t h hs
  | jortoReadReq => exact execJortoReadReq_memWf _ s t h hs
  | stepDoorbell => exact execStepDoorbell_memWf _ s t h hs
  | wordDoorbell => exact execWordDoorbell_memWf _ s t h hs
  | jortoAck => exact execJortoAck_memWf _ s t h hs
  | jortoRto => exact hs.of_mem (execJortoRto_mem _ s t h)
  | sessionIdle => exact hs.of_mem (execSessionIdle_mem _ s t h)
  | arpRequest => exact hs.of_mem (execArpRequest_mem _ _ s t h)
  | neighborSolicitation => exact hs.of_mem (execNeighborSolicitation_mem _ _ s t h)
  | echoRequest => exact hs.of_mem (execEchoRequest_mem _ _ _ _ s t h)
  | frameDiscard => exact hs.of_mem (execFrameDiscard_mem _ s t h)
  | hostLinkDown => exact hs.of_mem (execHostLinkDown_mem _ s t h)
  | portEnWrite => exact hs.of_mem (execPortEnWrite_mem _ _ s t h)
  | dorubRead => exact execDorubRead_memWf _ _ _ _ s t h hs
  | dorubWrite => exact execDorubWrite_memWf _ _ _ _ _ s t h hs
  | multiWrite => exact execMultiWrite_memWf _ _ _ s t h hs
  | describe => exact execDescribe_memWf _ _ _ _ s t h hs
  | blockReadStart => exact execBlockReadStart_memWf _ _ _ _ s t h hs
  | blockReadSeg => exact execBlockReadSeg_memWf _ _ _ _ _ s t h hs
  | blockWriteStart => exact execBlockWriteStart_memWf _ _ _ _ _ s t h hs
  | blockWriteSeg => exact execBlockWriteSeg_memWf _ _ _ _ _ s t h hs
  | blockWriteEnd => exact execBlockWriteEnd_memWf _ _ _ _ s t h hs
  | blockAbort => exact execBlockAbort_memWf _ _ _ s t h hs
  | blockTransferIdle => exact hs.of_mem (execBlockTransferIdle_mem _ s t h)
  | heartbeat => exact hs.of_mem (execHeartbeat_mem s t h)
  | profileSave => exact hs.of_mem (execProfileSave_mem _ _ s t h)
  | profileSaveDone => exact hs.of_mem (execProfileSaveDone_mem s t h)
  | selectNext => exact hs.of_mem (execSelectNext_mem _ _ s t h)
  | defaults => exact hs.of_mem (execDefaults_mem _ _ s t h)
  | cancelNext => exact hs.of_mem (execCancelNext_mem _ s t h)
  | powerSample => exact hs.of_mem (execPowerSample_mem _ _ s t h)
  | capLoop => exact hs.of_mem (execCapLoop_mem s t h)
  | pkgCapWrite => exact hs.of_mem (execPkgCapWrite_mem _ s t h)
  | levelChangeDone => exact hs.of_mem (execLevelChangeDone_mem s t h)
  | dutyChange => exact hs.of_mem (execDutyChange_mem s t h)
  | thermalLoop => exact hs.of_mem (execThermalLoop_mem _ _ s t h)
  | thermalTrip => exact hs.of_mem (execThermalTrip_mem _ _ _ s t h)
  | droop => exact hs.of_mem (execDroop_mem _ s t h)
  | droopRecovery => exact hs.of_mem (execDroopRecovery_mem _ _ s t h)
  | regTrip => exact hs.of_mem (execRegTrip_mem _ _ s t h)
  | refclkLoss => exact hs.of_mem (execRefclkLoss_mem s t h)
  | lanternDown => exact hs.of_mem (execLanternDown_mem _ s t h)
  | lanternBeacon => exact hs.of_mem (execLanternBeacon_mem s t h)
  | lanternCall => exact hs.of_mem (execLanternCall_mem _ s t h)
  | lanternReply => exact hs.of_mem (execLanternReply_mem _ _ s t h)
  | lanternSet => exact hs.of_mem (execLanternSet_mem _ s t h)
  | lanternSettle => exact hs.of_mem (execLanternSettle_mem s t h)
  | coldReset => exact execColdReset_memWf _ _ s t h hs
  | coldStart => exact execColdStart_memWf _ s t h hs
  | dieReleaseTimeout => exact hs.of_mem (execDieReleaseTimeout_mem _ s t h)
  | warmReset => exact execWarmReset_memWf _ s t h hs
  | warmResetDone => exact hs.of_mem (execWarmResetDone_mem s t h)
  | dieTest => exact hs.of_mem (execDieTest_mem _ _ _ s t h)
  | bypass => exact hs.of_mem (execBypass_mem _ s t h)
  | samplePreload => exact hs.of_mem (execSamplePreload_mem _ _ s t h)
  | extest => exact hs.of_mem (execExtest_mem _ s t h)
  | idcode => exact hs.of_mem (execIdcode_mem _ s t h)
  | clamp => exact hs.of_mem (execClamp_mem _ s t h)
  | recordHandling => exact hs.of_mem (execRecordHandling_mem _ s t h)
  | errAck => exact hs.of_mem (execErrAck_mem _ s t h)
  | lostCountWrite => exact hs.of_mem (execLostCountWrite_mem _ s t h)
  | fwVerify => exact hs.of_mem (execFwVerify_mem _ s t h)
  | fwActivate => exact hs.of_mem (execFwActivate_mem _ s t h)
  | commitSvn => exact hs.of_mem (execCommitSvn_mem _ s t h)
  | fwChunk => exact hs.of_mem (execFwChunk_mem _ _ _ s t h)
  | fwMinSvn => exact hs.of_mem (execFwMinSvn_mem _ _ s t h)
  | attNonce => exact hs.of_mem (execAttNonce_mem _ _ s t h)
  | attReportReady => exact hs.of_mem (execAttReportReady_mem _ s t h)
  | authOpen => exact hs.of_mem (execAuthOpen_mem _ _ s t h)
  | authClose => exact hs.of_mem (execAuthClose_mem _ s t h)
  | authIdle => exact hs.of_mem (execAuthIdle_mem s t h)
  | transfer => exact execTransfer_memWf _ _ s t h hs
  | lease => exact execLease_memWf _ _ s t h hs
  | endLease => exact execEndLease_memWf _ _ s t h hs
  | refurbish => exact execRefurbish_memWf _ _ s t h hs
  | finish => exact execFinish_memWf _ _ s t h hs
  | retireRecord => exact execRetireRecord_memWf _ _ s t h hs
  | keyLoad => exact hs.of_mem (execKeyLoad_mem _ _ s t h)
  | erase => exact execErase_memWf _ _ s t h hs
  | eraseDone => exact execEraseDone_memWf s t h hs
  | slot0Secret => exact hs.of_mem (execSlot0Secret_mem _ _ s t h)
  | debugToken => exact execDebugToken_memWf _ _ s t h hs
  | ledgerCommit => exact hs.of_mem (execLedgerCommit_mem s t h)
  | stackFail => exact hs.of_mem (execStackFail_mem _ s t h)
  | hostLinkUp => exact hs.of_mem (execHostLinkUp_mem _ s t h)
  | manufacturingTest => exact hs.of_mem (execManufacturingTest_mem s t h)
  | trstnRelease => exact hs.of_mem (execTrstnRelease_mem _ s t h)
  | privateInstruction => exact hs.of_mem (execPrivateInstruction_mem _ _ s t h)
  | plcaCollision => exact hs.of_mem (execPlcaCollision_mem s t h)

/-- Settles O59: a step is one command on the rest of the queue, or a tick, which leaves the memory. -/
theorem invKeptByStep : Obligations.InvKeptByStep := by
  intro s t hs h
  match hq : s.pending with
  | [] =>
    rw [step_of_idle hq] at h
    cases h
    exact hs.of_mem (tick_mem s)
  | c :: cs =>
    rw [step_of_pending hq] at h
    have hrest : State.Inv { s with pending := cs } := hs.of_mem rfl
    exact exec_inv hrest h

/-- Settles O58: no byte is listed in the reset state's memory. -/
theorem invAtReset : Obligations.InvAtReset := Table.wf_nil _

end Sys2Proof.Machine
end

section
/-! PROOFS. The control slot (R147 to R149, Table 6.14): what a control operation leaves of its context, its issue as one update of the active
context, and O1 and O2. -/

namespace Sys2Proof.Machine

/-! ### What a control operation changes of its context -/

/-- A control operation changes registers, predicates, descriptors, flags, the stream status and, as END, the mark of the end. -/
theorem State.ctlEffect_frame (s : State) (n : Nat) (x : Ctx) (w : Word) (c : Context) :
    s.ctlEffect n x w c = { c with
      regs := (s.ctlEffect n x w c).regs, preds := (s.ctlEffect n x w c).preds, descs := (s.ctlEffect n x w c).descs,
      flags := (s.ctlEffect n x w c).flags, sstat := (s.ctlEffect n x w c).sstat, ended := (s.ctlEffect n x w c).ended } := by
  unfold State.ctlEffect
  dsimp only
  split_ifs <;> rfl

theorem State.ctlEffect_ended (s : State) (n : Nat) (x : Ctx) {w : Word} (c : Context) (h : ctlOp w ≠ 19) :
    (s.ctlEffect n x w c).ended = c.ended := by
  unfold State.ctlEffect
  dsimp only
  split_ifs <;> rfl

theorem State.ctlEffect_halting (s : State) (n : Nat) (x : Ctx) (w : Word) (c : Context) : (s.ctlEffect n x w c).halting = c.halting := by
  rw [s.ctlEffect_frame]

theorem State.ctlEffect_issued (s : State) (n : Nat) (x : Ctx) (w : Word) (c : Context) : (s.ctlEffect n x w c).issued = c.issued := by
  rw [s.ctlEffect_frame]

theorem State.ctlEffect_cntC (s : State) (n : Nat) (x : Ctx) (w : Word) (c : Context) : (s.ctlEffect n x w c).cntC = c.cntC := by
  rw [s.ctlEffect_frame]

/-- A branch apart, the next bundle is the one behind (Table 6.14 BR). -/
theorem nextPc_of_not_branch {w : Word} (c : Context) (h : ctlOp w ≠ 13) : nextPc w c = c.pc + 1 := by
  simp [nextPc, h]

/-- The context that issues a control operation other than NOP and END: the operation's effect, the next bundle address, one operation counted;
it does not settle, since it neither halts nor ends. -/
theorem State.afterCtl_live {n : Nat} {regs : List Nat} {s : State} (hr : ReadyFor n regs s) {w : Word} (hnop : ctlOp w ≠ 0)
    (hend : ctlOp w ≠ 19) :
    s.afterCtl n (s.coreSt n).active w = { s.ctlEffect n (s.coreSt n).active w (s.cur n) with
      pc := nextPc w (s.cur n), state := .running, cntC := (s.ctlEffect n (s.coreSt n).active w (s.cur n)).cntC + 1 } := by
  obtain ⟨hhalt, hended⟩ := ready_ctx hr
  rw [State.afterCtl, settle_live, if_neg hnop]
  · rw [← s.ctlEffect_issued n (s.coreSt n).active w, ← s.ctlEffect_cntC n (s.coreSt n).active w]
    rfl
  · exact (s.ctlEffect_halting n _ w _).trans hhalt
  · exact (s.ctlEffect_ended n _ _ hend).trans hended

/-- The issue of a control operation other than NOP and END, where no refusal and no wait meets it. -/
theorem issueCtl_issuedAs {n : Nat} {w : Word} {s : State} (hr : ReadyFor n (ctlReads w ++ ctlWrites w) s) (hl : ctlLegal w = true)
    (hd : ctlOp w = 15 → s.dwrHeld n (s.cur n) (dwrDi w) = false) (hw : ctlOp w = 14 → waitcHolds (s.cur n) w = true)
    (hnop : ctlOp w ≠ 0) (hend : ctlOp w ≠ 19) :
    issueCtl n w s = .next (s.issuedAs n
      { s.ctlEffect n (s.coreSt n).active w (s.cur n) with pc := nextPc w (s.cur n) }) := by
  rw [issueCtl_next n w s hr hl hd hw, State.afterCtl_live hr hnop hend]
  rfl

/-! ### Arithmetic -/

/-- Two-operand arithmetic, opcodes 2 to 9. -/
theorem issueCtl_alu {op n gd ga gb : Nat} {s : State} (hop : 2 ≤ op ∧ op ≤ 9) (hd : gd < 32) (ha : ga < 32) (hb : gb < 32)
    (hr : ReadyFor n [ga, gb, gd] s) :
    issueCtl n (ctlR op gd ga gb) s = .next (s.issuedAs n
      { (s.cur n).setReg gd (aluResult op ((s.cur n).reg ga) ((s.cur n).reg gb)) with pc := (s.cur n).pc + 1 }) := by
  obtain ⟨hlo, hhi⟩ := hop
  obtain ⟨fop, fd, fa, fb⟩ := ctlR_fields op gd ga gb (by omega) hd ha hb
  have hop1 : op ≠ 1 := by omega
  rw [issueCtl_issuedAs]
  · rw [nextPc_of_not_branch _ (by omega)]
    simp [State.ctlEffect, fop, fd, fa, fb, hlo, hhi, hop1]
  · simpa [ctlReads, ctlWrites, fop, fd, fa, fb, hlo, hhi, hop1, show 1 ≤ op by omega, show op ≤ 10 by omega] using hr
  · simp only [ctlLegal, ctlDefined, fop, Bool.and_eq_true, Bool.or_eq_true, decide_eq_true_eq, Bool.not_eq_true',
      Bool.and_eq_false_iff, decide_eq_false_iff_not]
    omega
  all_goals omega

theorem controlAlu : Parts.ControlAlu := by
  intro e he n gd ga gb s hd ha hb hr
  simp only [List.mem_cons, List.not_mem_nil, or_false] at he
  rcases he with rfl | rfl | rfl | rfl | rfl | rfl | rfl | rfl <;> exact issueCtl_alu (by decide) hd ha hb hr

theorem controlImmediate : Parts.ControlImmediate := by
  refine ⟨fun n gd lane imm s hd hl hr => ?_, fun n gd ga imm s hd ha hr => ?_⟩
  · obtain ⟨fop, fd, flane, fimm⟩ := liWord_fields gd lane imm hd hl
    show issueCtl n (liWord gd lane imm) s = _
    rw [issueCtl_issuedAs]
    · rw [nextPc_of_not_branch _ (by omega)]
      simp [State.ctlEffect, fop, fd, flane, fimm]
    · simpa [ctlReads, ctlWrites, fop, fd] using hr
    · simp [ctlLegal, ctlDefined, fop]
    all_goals omega
  · obtain ⟨fop, fd, fa, fimm⟩ := addiWord_fields gd ga imm hd ha
    show issueCtl n (addiWord gd ga imm) s = _
    rw [issueCtl_issuedAs]
    · rw [nextPc_of_not_branch _ (by omega)]
      simp [State.ctlEffect, fop, fd, fa, fimm]
    · simpa [ctlReads, ctlWrites, fop, fd, fa] using hr
    · simp [ctlLegal, ctlDefined, fop]
    all_goals omega

/-- Settles O1. -/
theorem controlArithmetic : Obligations.ControlArithmetic := ⟨controlAlu, controlImmediate⟩

/-! ### Comparisons, branches and waits -/

theorem cmpLegal {pd cond ga gb : Nat} (hp : pd < 8) (hc : cond < 6) (ha : ga < 32) (hb : gb < 32) :
    ctlLegal (cmpWord pd cond ga gb) = true := by
  obtain ⟨fop, -, fcond, -, -⟩ := cmpWord_fields pd cond ga gb hp (by omega) ha hb
  have hcond : ¬ 5 < cond := by omega
  simp [ctlLegal, ctlDefined, fop, fcond, hcond]

theorem controlFlow : Parts.ControlFlow := by
  refine ⟨fun n pd cond ga gb s hp hc ha hb hr => ?_, fun n p sense always off s hp hr => ?_, fun n kind ga s hk ha hr hwait => ?_⟩
  case refine_1 =>
    obtain ⟨fop, fpd, fcond, fa, fb⟩ := cmpWord_fields pd cond ga gb hp (by omega) ha hb
    show issueCtl n (cmpWord pd cond ga gb) s = _
    rw [issueCtl_issuedAs]
    · rw [nextPc_of_not_branch _ (by omega)]
      simp [State.ctlEffect, fop, fpd, fcond, fa, fb]
    · simpa [ctlReads, ctlWrites, fop, fa, fb] using hr
    · exact cmpLegal hp hc ha hb
    all_goals omega
  case refine_2 =>
    obtain ⟨fop, fp, fsense, falways, foff⟩ := brWord_fields p sense always off hp
    show issueCtl n (brWord p sense always off) s = _
    rw [issueCtl_issuedAs]
    · simp only [State.ctlEffect, nextPc, fop, fp, fsense, falways, foff, BitVec.ofNat_toNat, BitVec.setWidth_eq]
      simp [apply_ite]
    · simpa [ctlReads, ctlWrites, fop] using hr
    · simp [ctlLegal, ctlDefined, fop]
    all_goals omega
  case refine_3 =>
    obtain ⟨fop, fkind, fa⟩ := waitcWord_fields kind ga hk ha
    show issueCtl n (waitcWord kind ga) s = _
    rw [issueCtl_issuedAs]
    · rw [nextPc_of_not_branch _ (by omega)]
      simp [State.ctlEffect, fop]
    · simpa [ctlReads, ctlWrites, fop, fa] using hr
    · simp [ctlLegal, ctlDefined, fop]
    · omega
    · exact fun _ => by simpa [waitcHolds, fkind, fa] using hwait
    all_goals omega

/-! ### Special operations -/

/-- TIME, RDSR and FLAGCLR have the fields of Table 6.13, and neither waits nor branches. -/
theorem issueCtl_special {op n gd sel : Nat} {s : State} (hop : 16 ≤ op ∧ op ≤ 18) (hd : gd < 32) (hs : sel ≤ 11)
    (hr : ReadyFor n (if op = 18 then [] else [gd]) s) :
    issueCtl n (ctlR op gd sel 0) s = .next (s.issuedAs n
      { s.ctlEffect n (s.coreSt n).active (ctlR op gd sel 0) (s.cur n) with pc := (s.cur n).pc + 1 }) := by
  obtain ⟨hlo, hhi⟩ := hop
  obtain ⟨fop, fd, fa, -⟩ := ctlR_fields op gd sel 0 (by omega) hd (by omega) (by omega)
  rw [issueCtl_issuedAs, nextPc_of_not_branch _ (by omega)]
  · have hops : op = 16 ∨ op = 17 ∨ op = 18 := by omega
    rcases hops with rfl | rfl | rfl <;> simpa [ctlReads, ctlWrites, fop, fd] using hr
  · simp only [ctlLegal, ctlDefined, fop, fa, Bool.and_eq_true, Bool.or_eq_true, decide_eq_true_eq, Bool.not_eq_true',
      Bool.and_eq_false_iff, decide_eq_false_iff_not]
    omega
  all_goals omega

/-- A running context that has ended is IDLE once nothing is outstanding (Table 6.14 END). -/
theorem Context.settle_of_ended {c : Context} (hrun : c.state = .running) (hhalt : c.halting = false) (hended : c.ended = true) :
    c.settle = { c with state := if c.outstanding then .running else .idle, ended := c.outstanding } := by
  cases hout : c.outstanding
  case false => simp [Context.settle, hrun, hhalt, hended, hout]
  case true =>
    have hkeep : c.settle = c := by simp [Context.settle, hhalt, hout]
    rw [hkeep]
    simp [← hrun, ← hended]

/-- END marks the context's end; with nothing outstanding it settles at once (Table 6.14). -/
theorem State.afterCtl_end {n : Nat} {s : State} (hr : ReadyFor n [] s) {w : Word} (hend : ctlOp w = 19) :
    s.afterCtl n (s.coreSt n).active w = { s.cur n with
      pc := (s.cur n).pc + 1, cntC := (s.cur n).cntC + 1, state := if (s.cur n).outstanding then .running else .idle,
      ended := (s.cur n).outstanding } := by
  obtain ⟨hhalt, -⟩ := ready_ctx hr
  have hcur : s.ctx n (s.coreSt n).active = s.cur n := rfl
  rw [hcur] at hhalt
  have heffect : s.ctlEffect n (s.coreSt n).active w (s.cur n) = { s.cur n with ended := true } := by
    simp [State.ctlEffect, hend]
  rw [State.afterCtl, hcur, heffect, nextPc_of_not_branch _ (by omega), if_neg (by omega)]
  exact Context.settle_of_ended rfl hhalt rfl

theorem controlSpecial : Parts.ControlSpecial := by
  refine ⟨fun n di ga pd s hi ha hp hr hheld => ?_, fun n gd s hd hr => ?_, fun n gd sel s hd hs hr => ?_, fun n s hr => ?_, fun n s hr => ?_⟩
  case refine_1 =>
    obtain ⟨fop, fdi, fa, fpd⟩ := dwrWord_fields di ga pd hi (by omega) hp
    show issueCtl n (dwrWord di ga pd) s = _
    rw [issueCtl_issuedAs]
    · rw [nextPc_of_not_branch _ (by omega)]
      simp [State.ctlEffect, fop, fdi, fa, fpd]
    · simpa [ctlReads, ctlWrites, fop, fa] using hr
    · simpa [ctlLegal, ctlDefined, fop, fa] using ha
    · exact fun _ => by simpa [fdi] using hheld
    all_goals omega
  case refine_2 =>
    obtain ⟨fop, fd, -, -⟩ := ctlR_fields 16 gd 0 0 (by decide) hd (by decide) (by decide)
    refine (issueCtl_special (by decide) hd (Nat.zero_le _) hr).trans ?_
    simp [State.ctlEffect, fop, fd, coreDie]
  case refine_3 =>
    obtain ⟨fop, fd, fa, -⟩ := ctlR_fields 17 gd sel 0 (by decide) hd (by omega) (by decide)
    refine (issueCtl_special (by decide) hd hs hr).trans ?_
    simp [State.ctlEffect, fop, fd, fa]
  case refine_4 =>
    obtain ⟨fop, -, -, -⟩ := ctlR_fields 18 0 0 0 (by decide) (by decide) (by decide) (by decide)
    refine (issueCtl_special (by decide) (by decide) (Nat.zero_le _) hr).trans ?_
    simp [State.ctlEffect, fop]
  case refine_5 =>
    obtain ⟨fop, -, -, -⟩ := ctlR_fields 19 0 0 0 (by decide) (by decide) (by decide) (by decide)
    refine (issueCtl_next n (ctlR 19 0 0 0) s ?_ ?_ (by omega) (by omega)).trans ?_
    · simpa [ctlReads, ctlWrites, fop] using hr
    · simp [ctlLegal, ctlDefined, fop]
    · rw [State.afterCtl_end hr fop]

/-- Settles O2. -/
theorem controlFlowAndSpecial : Obligations.ControlFlowAndSpecial := ⟨controlFlow, controlSpecial⟩

end Sys2Proof.Machine
end

section
/-! PROOFS. What counts, events, error records and faults of a context leave as they were, each as one equation of states; and the issue of a
whole bundle, or its refusal (R97, R98, R119), with O4. -/

namespace Sys2Proof.Machine

/-! ### Counts -/

/-- The totals alone change. -/
def TotChange (s t : State) : Prop := t = { s with tots := t.tots }

theorem TotChange.refl (s : State) : TotChange s s := rfl

theorem TotChange.trans {s t u : State} (ht : TotChange s t) (hu : TotChange t u) : TotChange s u := by
  rw [TotChange] at ht hu ⊢
  rw [hu, ht]

theorem State.bump_totChange (s : State) (index sub n : Nat) : TotChange s (s.bump index sub n) := by
  unfold State.bump
  split <;> rfl

/-- The cycle counters of a slot are totals (R217). -/
theorem State.countCycle_totChange (s : State) (n : Nat) : TotChange s (s.countCycle n) := by
  unfold State.countCycle
  dsimp only
  split
  · rfl
  · have hbrim (u : State) : TotChange u (if u.brimLive n then u.bump (0x3280 + coreSlot n) 3 1 else u) := by
      split
      · exact u.bump_totChange _ _ _
      · rfl
    refine TotChange.trans ?_ (hbrim _)
    split
    · rfl
    · split
      · exact s.bump_totChange _ _ _
      · exact s.bump_totChange _ _ _
      · rfl

/-! ### Events (R327) -/

/-- What an event changes: its queue, what sessions send, and the totals. -/
def EventChange (s t : State) : Prop :=
  t = { s with tots := t.tots, sessions := t.sessions, net := t.net, events := t.events, eventNext := t.eventNext,
               eventsLostSince := t.eventsLostSince }

theorem EventChange.refl (s : State) : EventChange s s := rfl

theorem EventChange.trans {s t u : State} (ht : EventChange s t) (hu : EventChange t u) : EventChange s u := by
  rw [EventChange] at ht hu ⊢
  rw [hu, ht]

theorem EventChange.lostCounted (s : State) (k : Nat) : EventChange s { s with eventsLostSince := k } := rfl

theorem TotChange.eventChange {s t : State} (h : TotChange s t) : EventChange s t := by
  rw [TotChange] at h
  rw [EventChange, h]

theorem State.bump_eventChange (s : State) (index sub n : Nat) : EventChange s (s.bump index sub n) :=
  (s.bump_totChange index sub n).eventChange

theorem State.jsend_eventChange (s : State) (id : Nat) (m : JMsg) : EventChange s (s.jsend id m) := by
  unfold State.jsend
  split
  · rfl
  · dsimp only
    split <;> rfl

theorem State.queueEvent_eventChange (s : State) (code die source step : Nat) (detail : List Byte) (key : Option Nat) :
    EventChange s (s.queueEvent code die source step detail key) := by
  unfold State.queueEvent
  dsimp only
  split
  · exact s.bump_eventChange _ _ _
  · exact foldl_holds (EventChange s) _ (fun t id h => h.trans (t.jsend_eventChange id _)) _ _ rfl

theorem State.event_eventChange (s : State) (code die source step : Nat) (detail : List Byte) (key : Option Nat) :
    EventChange s (s.event code die source step detail key) := by
  unfold State.event
  split
  · exact s.bump_eventChange _ _ _
  · split
    · exact (s.bump_eventChange _ _ _).trans (EventChange.lostCounted _ _)
    · dsimp only
      split
      · refine EventChange.trans ?_ (State.queueEvent_eventChange _ _ _ _ _ _ _)
        exact (s.queueEvent_eventChange _ _ _ _ _ _).trans (EventChange.lostCounted _ _)
      · exact s.queueEvent_eventChange _ _ _ _ _ _

/-! ### Faults of a context (R119) -/

/-- The capture of an error that is neither corrected nor fatal changes the error unit alone (R406, R409). -/
theorem State.capture_frame_of_recorded (s : State) {cls : Nat} (w : ErrAt) (hce : classSev cls ≠ 0) (huf : classSev cls ≠ 3) :
    s.capture cls w = { s with errors := (s.capture cls w).errors } := by
  rw [State.capture_of_sev hce huf]
  exact s.enqueueRec_frame _

/-- What a fault of a context changes: contexts, error records, and what its event changes. -/
def FaultChange (s t : State) : Prop :=
  t = { s with ctxs := t.ctxs, errors := t.errors, tots := t.tots, sessions := t.sessions, net := t.net, events := t.events,
               eventNext := t.eventNext, eventsLostSince := t.eventsLostSince }

theorem FaultChange.keeps {s t : State} (h : FaultChange s t) : t.mem = s.mem ∧ t.accs = s.accs ∧ t.srf = s.srf ∧ t.rescale = s.rescale := by
  rw [FaultChange] at h
  rw [h]
  exact ⟨rfl, rfl, rfl, rfl⟩

theorem FaultChange.refl (s : State) : FaultChange s s := rfl

theorem FaultChange.trans {s t u : State} (ht : FaultChange s t) (hu : FaultChange t u) : FaultChange s u := by
  rw [FaultChange] at ht hu ⊢
  rw [hu, ht]

theorem EventChange.faultChange {s t : State} (h : EventChange s t) : FaultChange s t := by
  rw [EventChange] at h
  rw [FaultChange, h]

theorem State.setCtx_faultChange (s : State) (n : Nat) (x : Ctx) (c : Context) : FaultChange s (s.setCtx n x c) := rfl

theorem State.capture_faultChange (s : State) {cls : Nat} (w : ErrAt) (hce : classSev cls ≠ 0) (huf : classSev cls ≠ 3) :
    FaultChange s (s.capture cls w) := by
  rw [FaultChange, s.capture_frame_of_recorded w hce huf]

theorem State.faultContext_faultChange (s : State) (n : Nat) (x : Ctx) (code : Nat) (pc : Dword) (step att : Nat) :
    FaultChange s (s.faultContext n x code pc step att) := by
  unfold State.faultContext
  dsimp only
  split
  · rfl
  · refine FaultChange.trans ?_ (State.event_eventChange _ _ _ _ _ _ _).faultChange
    exact (s.setCtx_faultChange n x _).trans (State.capture_faultChange _ _ (by decide) (by decide))

/-! ### The context that issues (R97, R98) -/

/-- An operation joins the queue of its engine. -/
def Context.enqueue (c : Context) (o : Op) : Context := c.setQueue o.eng (c.queue o.eng ++ [o])

theorem Context.enqueue_frame (c : Context) (o : Op) :
    c.enqueue o = { c with qM := (c.enqueue o).qM, qV := (c.enqueue o).qV, qS := (c.enqueue o).qS } := by
  unfold Context.enqueue
  cases o.eng <;> rfl

theorem Context.queue_enqueue (c : Context) (o : Op) (k : Eng) : (c.enqueue o).queue k = c.queue k ++ [o].filter (fun o => o.eng == k) := by
  unfold Context.enqueue
  cases ho : o.eng <;> cases k <;> simp [ho, Context.setQueue, Context.queue]

/-- Operations that join their queues in order change the queues alone. -/
theorem foldl_enqueue_frame (os : List Op) (c : Context) :
    os.foldl Context.enqueue c = { c with
      qM := (os.foldl Context.enqueue c).qM, qV := (os.foldl Context.enqueue c).qV, qS := (os.foldl Context.enqueue c).qS } := by
  induction os generalizing c with
  | nil => rfl
  | cons o os ih =>
    rw [List.foldl_cons, ih, c.enqueue_frame o]

theorem queue_foldl_enqueue (os : List Op) (c : Context) (k : Eng) :
    (os.foldl Context.enqueue c).queue k = c.queue k ++ os.filter (fun o => o.eng == k) := by
  induction os generalizing c with
  | nil => simp
  | cons o os ih => rw [List.foldl_cons, ih, c.queue_enqueue, List.append_assoc, ← List.filter_append, List.singleton_append]

/-- Settling changes the state field and the marks of a halt and of the end alone. -/
theorem Context.settle_frame (c : Context) :
    c.settle = { c with state := c.settle.state, halting := c.settle.halting, ended := c.settle.ended } := by
  unfold Context.settle
  split_ifs <;> rfl

/-- The context after its bundle: the control slot's effect, with the operations in their queues, one bundle further on. -/
theorem State.issued_frame (s : State) (n : Nat) (x : Ctx) (b : Bundle) :
    s.issued n x b = { (s.bundleOps (s.ctx n x) b).foldl Context.enqueue (s.ctlEffect n x (bundleCtl b) (s.ctx n x)) with
      pc := nextPc (bundleCtl b) (s.ctx n x), state := (s.issued n x b).state, halting := (s.issued n x b).halting,
      ended := (s.issued n x b).ended, issued := (s.ctx n x).issued + (s.bundleOps (s.ctx n x) b).length,
      cntC := if ctlOp (bundleCtl b) = 0 then (s.ctx n x).cntC else (s.ctx n x).cntC + 1 } :=
  Context.settle_frame _

section
variable (s : State) (n : Nat) (x : Ctx) (b : Bundle)

theorem State.issued_pc : (s.issued n x b).pc = nextPc (bundleCtl b) (s.ctx n x) := congrArg Context.pc (s.issued_frame n x b)

theorem State.issued_queue (k : Eng) :
    (s.issued n x b).queue k = (s.ctx n x).queue k ++ (s.bundleOps (s.ctx n x) b).filter (fun o => o.eng == k) := by
  have hctl : (s.ctlEffect n x (bundleCtl b) (s.ctx n x)).queue k = (s.ctx n x).queue k := by
    rw [s.ctlEffect_frame]
    cases k <;> rfl
  rw [← hctl, ← queue_foldl_enqueue, s.issued_frame]
  cases k <;> rfl

theorem State.issued_flight (k : Eng) : (s.issued n x b).flight k = (s.ctx n x).flight k := by
  rw [s.issued_frame, foldl_enqueue_frame, s.ctlEffect_frame]
  cases k <;> rfl

theorem State.issued_regs : (s.issued n x b).regs = (s.ctlEffect n x (bundleCtl b) (s.ctx n x)).regs := by
  rw [s.issued_frame, foldl_enqueue_frame]

theorem State.issued_preds : (s.issued n x b).preds = (s.ctlEffect n x (bundleCtl b) (s.ctx n x)).preds := by
  rw [s.issued_frame, foldl_enqueue_frame]

theorem State.issued_descs : (s.issued n x b).descs = (s.ctlEffect n x (bundleCtl b) (s.ctx n x)).descs := by
  rw [s.issued_frame, foldl_enqueue_frame]

end

/-! ### The issue of a bundle -/

theorem State.markPop_frame (s : State) (n : Nat) (x : Ctx) (b : Bundle) : s.markPop n x b = { s with slots := (s.markPop n x b).slots } := by
  unfold State.markPop
  dsimp only
  split <;> rfl

theorem State.markReshards_frame (s : State) (n : Nat) (x : Ctx) (os : List Op) :
    s.markReshards n x os = { s with reshards := (s.markReshards n x os).reshards } := by
  refine foldl_holds (fun t => t = { s with reshards := t.reshards }) _ (fun t o h => ?_) _ s rfl
  rw [h]
  rfl

/-- What the issue of a bundle and the count of its cycle change: contexts, the kind of pop of a slot, the registered RESHARDs, the core's switching
flags, totals. -/
def IssueChange (s t : State) : Prop :=
  t = { s with ctxs := t.ctxs, slots := t.slots, reshards := t.reshards, cores := t.cores, tots := t.tots }

theorem IssueChange.keeps {s t : State} (h : IssueChange s t) : t.mem = s.mem ∧ t.accs = s.accs ∧ t.srf = s.srf ∧ t.rescale = s.rescale := by
  rw [IssueChange] at h
  rw [h]
  exact ⟨rfl, rfl, rfl, rfl⟩

theorem State.issue_of_go {s : State} {n : Nat} {x : Ctx} {b : Bundle} (h : s.issueEnd n x b = .go) :
    (s.issue n x b).ctxs = (s.setCtx n x (s.issued n x b)).ctxs ∧ IssueChange s (s.issue n x b) := by
  simp only [State.issue, h, IssueChange]
  rw [State.markReshards_frame, State.markPop_frame]
  exact ⟨rfl, rfl⟩

theorem State.issue_of_refused {s : State} {n : Nat} {x : Ctx} {b : Bundle} {code : Nat} (h : s.issueEnd n x b = .refused code) :
    s.issue n x b = s.faultContext n x code (s.ctx n x).pc (s.ctx n x).step (s.ctx n x).att := by
  simp only [State.issue, h]

/-- Settles O4: the issue enters the issued context, or the refusal a faulted one, into the context table, and no accumulator, entry or byte. -/
theorem bundleIssue : Obligations.BundleIssue := by
  intro n b s hn hi hin hok hb
  have hexec : exec (.bundleIssue n) s = .next ((s.issue n (s.coreSt n).active b).countCycle n) := by
    rw [exec_bundleIssue hn hi, State.fetchIssue_ok hin hok, hb]
    rfl
  refine ⟨fun hgo => ?_, fun code hcode => ?_⟩
  · obtain ⟨hissued, hissue⟩ := State.issue_of_go hgo
    have hctxs := (State.countCycle_ctxs (s.issue n (s.coreSt n).active b) n).trans hissued
    have hchange : IssueChange s ((s.issue n (s.coreSt n).active b).countCycle n) := by
      rw [IssueChange, State.countCycle_totChange, hissue]
    refine ⟨_, _, hexec, rfl, ?_⟩
    rw [ctx_of_ctxs hctxs, ctx_setCtx]
    exact ⟨s.issued_pc n _ b, fun k => ⟨s.issued_queue n _ b k, s.issued_flight n _ b k⟩, s.issued_regs n _ b, s.issued_preds n _ b,
      s.issued_descs n _ b, fun m y hne => by rw [ctx_of_ctxs hctxs, ctx_setCtx_ne s _ hne], hchange.keeps⟩
  · rw [State.issue_of_refused hcode] at hexec
    obtain ⟨-, hothers, hcur⟩ := faultContext_countCycle hi code (s.cur n).step (s.cur n).att
    have hchange : FaultChange s ((s.faultContext n (s.coreSt n).active code (s.cur n).pc (s.cur n).step (s.cur n).att).countCycle n) :=
      (s.faultContext_faultChange n _ code _ _ _).trans (State.countCycle_totChange _ n).eventChange.faultChange
    exact ⟨_, hexec, hcur, hothers, hchange.keeps⟩

end Sys2Proof.Machine
end

section
/-! PROOFS. The life of an operation: its dispatch and its completion (R99, R104, R131), and O5. -/

namespace Sys2Proof.Machine

/-! ### Dispatch -/

/-- With an operation at the front of a queue that may leave it, a dispatch looks for a conflict alone (R104). -/
theorem State.dispatch_of_front {s : State} {n : Nat} {x : Ctx} {k : Eng} {o : Op} {os : List Op} (hq : (s.ctx n x).queue k = o :: os)
    (hup : s.up = true) (hen : (s.block (blkCore n)).en = true) (hlive : (s.ctx n x).dispatches = true) (hfree : s.engineFree n x k = true) :
    s.dispatch n x k = if s.conflicts n x o then s.bump 0x3250 5 1
      else s.setCtx n x (((s.ctx n x).setQueue k os).setFlight k (some { op := o })) := by
  simp [State.dispatch, hq, hup, hen, hlive, hfree]

theorem operationDispatch : Parts.OperationDispatch := by
  intro n x k o os s hn hq hup hen hlive hfree
  have hexec : exec (.operationDispatch n x k) s = .next (s.dispatch n x k) := if_pos hn
  rw [hexec, State.dispatch_of_front hq hup hen hlive hfree]
  exact ⟨fun h => by rw [if_neg (Bool.eq_false_iff.1 h)], fun h => by rw [if_pos h]⟩

/-! ### Completion -/

/-- An operation that is done leaves its engine; its record and its count go into the context, which settles (R99, R131). -/
theorem State.complete_of_done {s : State} {n : Nat} {x : Ctx} {k : Eng} {f : Flight} (hf : (s.ctx n x).flight k = some f)
    (hdone : f.done = true) :
    s.complete n x k =
      if f.status = 0 then s.setCtx n x (s.settleCtx n x ((((s.ctx n x).setFlight k none).deliver f k).count k))
      else (s.setCtx n x (s.settleCtx n x ((((s.ctx n x).setFlight k none).deliver f k).count k))).statusRecord n f.op f.status := by
  simp [State.complete, hf, hdone]

theorem operationComplete : Parts.OperationComplete := by
  intro n x f s c hn hc hdone
  subst hc
  have hexec (k : Eng) : exec (.operationComplete n x k) s = .next (s.complete n x k) := if_pos hn
  refine ⟨fun hf hst => ?_, fun hf hst => ?_, fun hf hst => ?_, fun hf hst => ?_⟩
  · rw [hexec, State.complete_of_done (k := .matrix) hf hdone, if_pos hst]
    rfl
  · rw [hexec, State.complete_of_done (k := .vector) hf hdone, if_pos hst]
    rfl
  · rw [hexec, State.complete_of_done (k := .stream) hf hdone, if_pos hst]
    simp [Context.deliver, Context.count, Context.setFlight, hst]
  · rw [hexec, State.complete_of_done (k := .stream) hf hdone, if_neg hst]
    simp [Context.deliver, Context.count, Context.setFlight, hst]

/-- Settles O5. -/
theorem operationLife : Obligations.OperationLife := ⟨operationDispatch, operationComplete⟩

end Sys2Proof.Machine
end

section
/-! PROOFS. What the counts and the stores of a matrix or vector operation change (R90, R112, R191): the length of a tile record, and the bytes that it takes. -/

namespace Sys2Proof.Machine

/-! ### The length of a tile record (Table 2.7) -/

theorem length_leBytes (n v : Nat) : (leBytes n v).length = n := by
  induction n generalizing v with
  | zero => rfl
  | succ n ih => rw [leBytes, List.length_cons, ih]

theorem TileHead.length_bytes (h : TileHead) : h.bytes.length = 64 := by
  rw [TileHead.bytes, List.length_append, length_leBytes, List.length_replicate]

theorem length_packCodes_pairs (cs : List Nat) : (packCodes.pairs cs).length = (cs.length + 1) / 2 := by
  induction cs using packCodes.pairs.induct with
  | case1 lo hi rest ih => simp only [packCodes.pairs, List.length_cons, ih]; omega
  | case2 lo => simp [packCodes.pairs]
  | case3 => simp [packCodes.pairs]

theorem length_flatMap_leBytes (n : Nat) (cs : List Nat) : (cs.flatMap (leBytes n)).length = cs.length * n := by
  rw [List.length_flatMap, List.map_congr_left (fun c _ => length_leBytes n c), List.map_const', List.sum_replicate, smul_eq_mul]

/-- The packed codes of a whole tile take the code bytes of its format (R32). -/
theorem length_packCodes (f : Nat) {cs : List Nat} (h : cs.length = 4096) : (packCodes f cs).length = 4096 * elemBits f / 8 := by
  unfold packCodes
  split
  next e => rw [length_flatMap_leBytes, h, e]
  next =>
    split
    next e => rw [length_flatMap_leBytes, h, e]
    next =>
      split
      next e => rw [List.length_map, h, e]
      next =>
        have e : elemBits f = 4 := by unfold elemBits at *; grind
        rw [length_packCodes_pairs, h, e]

theorem length_raiseBlocks (d : Desc) (levels : Nat → Nat → Int) (n : Nat) (ks : List BBlock) :
    (raiseBlocks d levels n ks).length = ks.length := by
  induction n generalizing ks with
  | zero => rfl
  | succ n ih =>
    rw [raiseBlocks]
    split
    · rfl
    · rw [ih, List.length_map]

theorem length_dropBlocks (d : Desc) (levels : Nat → Nat → Int) (n : Nat) (ks : List BBlock) :
    (dropBlocks d levels n ks).length = ks.length := by
  induction n generalizing ks with
  | zero => rfl
  | succ n ih =>
    rw [dropBlocks]
    split
    · rfl
    · rw [ih, List.length_map]

theorem length_chooseBlocks (d : Desc) (a b escq : Nat) (levels : Nat → Nat → Int) (xs : Array FV) :
    (chooseBlocks d a b escq levels xs).1.length = 4096 / d.blk := by
  simp only [chooseBlocks, List.length_map, List.length_range, Desc.perLine, Desc.blk]
  split <;> rfl

theorem length_encodeBlocks (d : Desc) (a b escq : Nat) (levels : Nat → Nat → Int) (head : TileHead) (xs : Array FV) (mask : Nat → Byte)
    (h : isBlock d.fmt = true) : (encodeBlocks d a b escq levels head xs mask).1.length = d.recSize := by
  have hcodes (l : List (Nat × Nat × Option Nat × Tally)) :
      (l.foldl (fun (cs : Array Nat) x => cs.setIfInBounds x.1 x.2.1) (Array.replicate 4096 0)).toList.length = 4096 :=
    List.foldlRecOn (motive := fun cs : Array Nat => cs.toList.length = 4096) _ _
      (by rw [Array.length_toList, Array.size_replicate])
      (fun cs hcs x _ => by rw [Array.length_toList, Array.size_setIfInBounds, ← Array.length_toList, hcs])
  simp only [encodeBlocks, List.length_append, TileHead.length_bytes, List.length_map, length_packCodes d.fmt (hcodes _), Desc.recSize,
    Desc.expBytes, h, if_true, Desc.codeBytes, Desc.sideBytes]
  congr 2
  · congr 1
    split
    · split
      · rw [length_dropBlocks, List.length_map, length_raiseBlocks, length_chooseBlocks]
      · rw [length_raiseBlocks, length_chooseBlocks]
    · exact length_chooseBlocks ..
  · split
    · rw [slice, List.length_map, List.length_range]
    · rfl

/-- An encoded tile is a whole record of its tensor. -/
theorem length_encodeTile (d : Desc) (a b escq : Nat) (levels : Nat → Nat → Int) (entry : Nat → FV × FV) (head : TileHead) (xs : Array FV)
    (mask : Nat → Byte) : (encodeTile d a b escq levels entry head xs mask).1.length = d.recSize := by
  unfold encodeTile
  split
  next h => exact length_encodeBlocks d a b escq levels head xs mask h
  next h =>
    have hside : hasSide d.fmt = false := by simp only [isBlock, hasSide] at *; grind
    simp only [List.length_append, TileHead.length_bytes, Desc.recSize, Desc.expBytes, if_neg h, Desc.sideBytes, hside, Desc.codeBytes]
    rw [length_packCodes _ (by rw [List.length_map, List.length_map, List.length_range])]
    rfl

/-! ### The delivery of counts (R40, R90, R191) -/

/-- Totals, live counts and error records alone change. -/
def CountChange (s t : State) : Prop := t = { s with tots := t.tots, live := t.live, errors := t.errors }

theorem CountChange.refl (s : State) : CountChange s s := rfl

theorem CountChange.trans {s t u : State} (ht : CountChange s t) (hu : CountChange t u) : CountChange s u := by
  rw [CountChange] at ht hu ⊢
  rw [hu, ht]

theorem CountChange.keeps {s t : State} (h : CountChange s t) :
    t.mem = s.mem ∧ t.accs = s.accs ∧ t.srf = s.srf ∧ t.rescale = s.rescale ∧ t.ctxs = s.ctxs ∧ t.blocks = s.blocks ∧ t.part = s.part := by
  rw [h]
  exact ⟨rfl, rfl, rfl, rfl, rfl, rfl, rfl⟩

theorem TotChange.countChange {s t : State} (h : TotChange s t) : CountChange s t := by
  rw [TotChange] at h
  rw [h, CountChange]

theorem State.bump_countChange (s : State) (index sub n : Nat) : CountChange s (s.bump index sub n) := (s.bump_totChange index sub n).countChange

/-- The delivery of counts changes totals and live counts. -/
theorem State.count_countChange (s : State) (w : Place) (tid : Nat) (t : Tally) : CountChange s (s.count w tid t) := by
  have hlive (u : State) (l : List LiveCount) : CountChange u { u with live := l } := rfl
  have hb {u : State} (h : CountChange s u) (index sub n : Nat) : CountChange s (u.bump index sub n) := h.trans (u.bump_countChange _ _ _)
  have htots := hb (hb (hb (hb (hb (hb (hb (.refl s) 0x3240 1 t.constCh) 0x3240 2 t.floors) 0x3240 3 t.clamps) 0x3240 4 t.sideOvf)
    0x3240 5 t.c.sats) 0x3240 6 t.c.escs) 0x3260 1 t.c.dclamp
  unfold State.count
  dsimp only
  split
  · exact htots
  · split
    · exact htots
    · split <;> exact htots.trans (hlive _ _)

/-- The record of a malformed tile changes the error unit alone (R40). -/
theorem State.badTileAt_countChange (s : State) (w : Place) (addr : Nat) (t : Tally) : CountChange s (s.badTileAt w addr t) := by
  unfold State.badTileAt
  split
  · exact .refl _
  · rw [s.capture_frame_of_deferred (cls := 0x10) _ rfl]
    rfl

theorem State.readCount_countChange (s : State) (w : Place) (d : Desc) (a b : Nat) (t : Tally) : CountChange s (s.readCount w d a b t) :=
  (s.badTileAt_countChange w _ t).trans (count_countChange _ _ _ _)

theorem State.readCounts_countChange (s : State) (w : Place) (d : Desc) (ts : List ((Nat × Nat) × Tally)) :
    CountChange s (s.readCounts w d ts) :=
  foldl_holds (CountChange s) _ (fun t e h => h.trans (t.readCount_countChange w d e.1.1 e.1.2 e.2)) ts s (.refl s)

/-! ### What a vector operation stores -/

/-- The stores of a vector operation, its own record left out: memory in a set of bytes, totals and live counts, and error records. -/
structure Stores (inside : Nat → Prop) (s t : State) : Prop where
  eq : t = { s with mem := t.mem, tots := t.tots, live := t.live, errors := t.errors }
  bytes : MemKept inside s t

namespace Stores

variable {inside outer : Nat → Prop} {s t u : State}

theorem refl (s : State) : Stores inside s s := ⟨rfl, fun _ _ => rfl⟩

theorem trans (ht : Stores inside s t) (hu : Stores inside t u) : Stores inside s u where
  eq := by
    have h := hu.eq
    rw [ht.eq] at h
    exact h
  bytes a ha := (hu.bytes a ha).trans (ht.bytes a ha)

theorem mono (h : Stores inside s t) (hi : ∀ a, inside a → outer a) : Stores outer s t := ⟨h.eq, fun a ha => h.bytes a (fun e => ha (hi a e))⟩

theorem keeps (h : Stores inside s t) : t.accs = s.accs ∧ t.srf = s.srf ∧ t.rescale = s.rescale ∧ t.ctxs = s.ctxs := by
  rw [h.eq]
  exact ⟨rfl, rfl, rfl, rfl⟩

theorem partAddr (h : Stores inside s t) (n : Nat) (x : Ctx) (off : Nat) : t.partAddr n x off = s.partAddr n x off := by
  rw [h.eq]; rfl

theorem inTiles (h : Stores inside s t) (w : Place) (d : Desc) : t.inTiles w d = s.inTiles w d := by
  funext a; simp only [State.inTiles, h.partAddr]

/-- A run of stores, over the state component of the accumulator. -/
theorem foldl {α β : Type} (π : β → State) {g : β → α → β} {l : List α} {b : β} (hb : Stores inside s (π b))
    (h : ∀ c, ∀ a ∈ l, Stores inside s (π c) → Stores inside s (π (g c a))) : Stores inside s (π (l.foldl g b)) :=
  List.foldlRecOn (motive := fun c => Stores inside s (π c)) _ _ hb (fun c hc a ha => h c a ha hc)

end Stores

theorem CountChange.stores {s t : State} (h : CountChange s t) {inside : Nat → Prop} : Stores inside s t :=
  ⟨by rw [h], memKept_of_mem h.keeps.1 inside⟩

/-- A store of one record of a tensor changes bytes of its tiles. -/
theorem State.partWrite_tile_stores (s : State) (w : Place) (d : Desc) {ab : Nat × Nat} (hab : ab ∈ d.tiles) {bs : List Byte}
    (h : bs.length = d.recSize) : Stores (s.inTiles w d) s (s.partWrite w (d.tileOff ab.1 ab.2) bs) where
  eq := rfl
  bytes a ha := by
    refine (Table.read_writeList 0 _ bs s.mem a).trans (if_neg fun e => ha ⟨ab, hab, ?_⟩)
    rwa [h] at e

theorem State.writeTile_stores (s : State) (w : Place) (d : Desc) {ab : Nat × Nat} (hab : ab ∈ d.tiles) (escq : Nat) (head : TileHead)
    (xs : Array FV) (mask : Nat → Byte) : Stores (s.inTiles w d) s (s.writeTile w d ab.1 ab.2 escq head xs mask).1 :=
  s.partWrite_tile_stores w d hab (length_encodeTile ..)

end Sys2Proof.Machine
end

section
/-! PROOFS. The matrix slot (R134 to R137): the tiles that MZERO and MMUL write, the drain, and their effects, with O6, O7 and O8. -/

namespace Sys2Proof.Machine

/-! ### Accumulator tiles -/

theorem State.acc_setAcc_same (s : State) (n i : Nat) (t : AccTile) : (s.setAcc n i t).acc n i = t := by
  simp [State.acc, State.setAcc]

theorem State.acc_setAcc_ne (s : State) {n i p j : Nat} (t : AccTile) (h : 64 * p + j ≠ 64 * n + i) : (s.setAcc n i t).acc p j = s.acc p j :=
  Table.read_write_ne _ (Ne.symm h) _ _

theorem State.acc_of_accs {s t : State} (h : t.accs = s.accs) (p j : Nat) : t.acc p j = s.acc p j := by simp only [State.acc, h]

/-- A loop that replaces the tiles from a first one on, each as a function of itself: the tiles that it reaches, and the others. -/
theorem accs_of_loop {γ : Type} (n first : Nat) (g : State × γ → Nat → State × γ) (new : Nat → AccTile → AccTile)
    (hg : ∀ p i, (g p i).1 = p.1.setAcc n (first + i) (new i (p.1.acc n (first + i)))) (k : Nat) (p : State × γ) :
    (∀ i < k, ((List.range k).foldl g p).1.acc n (first + i) = new i (p.1.acc n (first + i))) ∧
    (∀ q j, (∀ i < k, 64 * q + j ≠ 64 * n + (first + i)) → ((List.range k).foldl g p).1.acc q j = p.1.acc q j) ∧
    ((List.range k).foldl g p).1 = { p.1 with accs := ((List.range k).foldl g p).1.accs } := by
  induction k with
  | zero => exact ⟨fun i hi => by omega, fun _ _ _ => rfl, rfl⟩
  | succ k ih =>
    obtain ⟨hin, hout, heq⟩ := ih
    simp only [List.range_succ, List.foldl_append, List.foldl_cons, List.foldl_nil, hg]
    refine ⟨fun i hi => ?_, fun q j h => ?_, ?_⟩
    · by_cases e : i = k
      · subst e
        rw [State.acc_setAcc_same, hout n (first + i) (fun i' hi' => by omega)]
      · rw [State.acc_setAcc_ne _ _ (by omega), hin i (by omega)]
    · rw [State.acc_setAcc_ne _ _ (h k (by omega)), hout q j (fun i hi => h i (by omega))]
    · rw [heq]; rfl

/-- The tiles that MZERO clears are +0, the others stay, and nothing else changes (R137). -/
theorem zeroTiles_spec (s : State) (w : Place) (first n : Nat) :
    zeroTiles s w first n = { s with accs := (zeroTiles s w first n).accs } ∧
    (∀ i < n, (zeroTiles s w first n).acc w.core (s.accStart w.core w.x + first + i) = {}) ∧
    (∀ p j, (∀ i < n, 64 * p + j ≠ 64 * w.core + (s.accStart w.core w.x + first + i)) → (zeroTiles s w first n).acc p j = s.acc p j) := by
  induction n with
  | zero => exact ⟨rfl, fun i hi => by omega, fun _ _ _ => rfl⟩
  | succ n ih =>
    obtain ⟨heq, hin, hout⟩ := ih
    have hs : zeroTiles s w first (n + 1) = (zeroTiles s w first n).setAcc w.core (s.accStart w.core w.x + first + n) {} := by
      have ha : (zeroTiles s w first n).accStart w.core w.x = s.accStart w.core w.x := by rw [heq]; rfl
      rw [zeroTiles, List.range_succ, List.foldl_append, List.foldl_cons, List.foldl_nil, ← zeroTiles, ha]
    rw [hs]
    refine ⟨by rw [heq]; rfl, fun i hi => ?_, fun p j h => ?_⟩
    · by_cases e : i = n
      · rw [e, State.acc_setAcc_same]
      · rw [State.acc_setAcc_ne _ _ (by omega), hin i (by omega)]
    · rw [State.acc_setAcc_ne _ _ (h n (by omega)), hout p j (fun i hi => h i (by omega))]

/-! ### The product tiles of MMUL -/

/-- Product tile t of an MMUL, in the order of R135, into an accumulator tile. -/
def mmulTile (s : State) (w : Place) (m : MatOp) (da db : Desc) (t : Nat) (old : AccTile) : AccTile × Byte :=
  let M := (mkn m da db).1
  let K := (mkn m da db).2.1
  let N := (mkn m da db).2.2.2
  let plain := isPlain da.fmt && isPlain db.fmt
  let i := t / ceilDiv N 64
  let j := t % ceilDiv N 64
  productTile (s.ctx w.core w.x).emulate
    (fun r => (List.range K).map (fun k => if 64 * i + r < M then along (s.readTensor w da).1 m.ta (64 * i + r) k else .zero))
    (fun c => (List.range K).map (fun k => if 64 * j + c < N then along (s.readTensor w db).1 (!m.tb) (64 * j + c) k else .zero))
    (fun r => if plain && 64 * i + r < M then codeSum (s.readTensor w da).2.1 m.ta (64 * i + r) K else 0)
    (fun c => if plain && 64 * j + c < N then codeSum (s.readTensor w db).2.1 (!m.tb) (64 * j + c) K else 0)
    plain K m.add old

/-- One step of the loop over the product tiles. -/
def mmulStep (s : State) (w : Place) (m : MatOp) (da db : Desc) (acc : State × Byte) (t : Nat) : State × Byte :=
  let i := s.accStart w.core w.x + m.acc + t
  let r := mmulTile s w m da db t (acc.1.acc w.core i)
  (acc.1.setAcc w.core i r.1, acc.2 ||| r.2)

/-- The state in which the reads of both operands are counted. -/
def mmulRead (s : State) (w : Place) (da db : Desc) : State :=
  (s.readCounts w da (s.readTensor w da).2.2).readCounts w db (s.readTensor w db).2.2

theorem mmulRead_countChange (s : State) (w : Place) (da db : Desc) : CountChange s (mmulRead s w da db) :=
  (s.readCounts_countChange w da _).trans (State.readCounts_countChange _ w db _)

/-- The flags of an operand's elements and of the reads of its tiles. -/
def operandFlags (r : Array (Array FV) × Array (Array FV) × List ((Nat × Nat) × Tally)) : Byte × Byte :=
  ((Tally.sum (r.2.2.map (·.2))).flags, r.1.foldl (fun f r => r.foldl (fun f v => f ||| v.inFlags) f) 0)

def mmulFlags (s : State) (w : Place) (da db : Desc) : Byte :=
  let a := operandFlags (s.readTensor w da)
  let b := operandFlags (s.readTensor w db)
  a.1 ||| b.1 ||| a.2 ||| b.2

theorem mmulTiles_eq (s : State) (w : Place) (m : MatOp) (da db : Desc) : mmulTiles s w m da db =
    (List.range (ceilDiv (mkn m da db).1 64 * ceilDiv (mkn m da db).2.2.2 64)).foldl (mmulStep s w m da db)
      (mmulRead s w da db, mmulFlags s w da db) := by
  have hacc : (mmulRead s w da db).accStart w.core w.x = s.accStart w.core w.x := by rw [mmulRead_countChange s w da db]; rfl
  unfold mmulStep
  rw [← hacc]
  rfl

/-- Which tiles an MMUL replaces, each by its product from what stood there (R135); memory and registers stay. -/
theorem mmulTiles_accs (s : State) (w : Place) (m : MatOp) (da db : Desc) :
    (∀ t < ceilDiv (mkn m da db).1 64 * ceilDiv (mkn m da db).2.2.2 64,
      (mmulTiles s w m da db).1.acc w.core (s.accStart w.core w.x + m.acc + t) =
        (mmulTile s w m da db t (s.acc w.core (s.accStart w.core w.x + m.acc + t))).1) ∧
    (∀ p j, (∀ t < ceilDiv (mkn m da db).1 64 * ceilDiv (mkn m da db).2.2.2 64,
        64 * p + j ≠ 64 * w.core + (s.accStart w.core w.x + m.acc + t)) → (mmulTiles s w m da db).1.acc p j = s.acc p j) ∧
    (mmulTiles s w m da db).1.mem = s.mem ∧ (mmulTiles s w m da db).1.blocks = s.blocks := by
  obtain ⟨hmem, haccs, -, -, -, hblocks, -⟩ := (mmulRead_countChange s w da db).keeps
  have hacc := State.acc_of_accs haccs
  obtain ⟨hin, hout, heq⟩ := accs_of_loop w.core (s.accStart w.core w.x + m.acc) (mmulStep s w m da db)
    (fun t old => (mmulTile s w m da db t old).1) (fun _ _ => rfl)
    (ceilDiv (mkn m da db).1 64 * ceilDiv (mkn m da db).2.2.2 64) (mmulRead s w da db, mmulFlags s w da db)
  rw [← mmulTiles_eq] at hin hout heq
  refine ⟨fun t ht => ?_, fun p j h => ?_, ?_⟩
  · rw [hin t ht, hacc]
  · rw [hout p j h, hacc]
  · rw [heq, ← hmem, ← hblocks]
    exact ⟨rfl, rfl⟩

/-! ### MZERO and MMUL -/

theorem mzeroClears : Parts.MzeroClears := by
  rintro n x f s m h rfl
  obtain ⟨heq, hin, hout⟩ := zeroTiles_spec s (f.place n x) (matOp f.op.word (f.op.reg 0)).acc (matOp f.op.word (f.op.reg 0)).count
  refine ⟨_, runCore_dispatched h mzeroBody, ?_, hin, hout⟩
  simp only [mzeroBody, endOp_done]
  rw [heq]
  rfl

/-- An MMUL whose operands pass the checks forms its product, and drains it where DR = 1. -/
theorem mmulBody_of_readable {s : State} {w : Place} {o : Op} {m : MatOp} (hm : matOp o.word (o.reg 0) = m)
    (ha : s.holds w (o.desc 0) = true) (hb : s.holds w (o.desc 1) = true)
    (hta : s.holdsTables w (o.desc 0) = true) (htb : s.holdsTables w (o.desc 1) = true)
    (hra : s.readable w (o.desc 0) = true) (hrb : s.readable w (o.desc 1) = true) :
    (m.dr = false → ∀ p, p = mmulTiles s w m (o.desc 0) (o.desc 1) → mmulBody s w o = (p.1, .done p.2 0)) ∧
    (m.dr = true → drainFits s w m (o.desc 2) (o.desc 3) = true → ∀ p d, p = mmulTiles s w m (o.desc 0) (o.desc 1) →
      d = drainTiles p.1 w m (o.desc 0) (o.desc 1) (o.desc 2) (o.desc 3) → mmulBody s w o = (d.1, .done (p.2 ||| d.2) 0)) := by
  subst hm
  constructor
  · rintro hdr p rfl
    simp only [mmulBody, ha, hb, hta, htb, hra, hrb, hdr, Bool.and_self, Bool.not_true, Bool.not_false, Bool.true_or, Bool.false_eq_true, if_false]
  · rintro hdr hfits p d rfl rfl
    simp only [mmulBody, ha, hb, hta, htb, hra, hrb, hdr, hfits, Bool.and_self, Bool.not_true, Bool.or_true, Bool.false_eq_true, if_false, if_true]

theorem mdrainBody_of_fits {s : State} {w : Place} {o : Op} {m : MatOp} (hm : matOp o.word (o.reg 0) = m)
    (hfits : drainFits s w m (o.desc 2) (o.desc 3) = true) :
    mdrainBody s w o = ((drainTiles s w m (o.desc 0) (o.desc 1) (o.desc 2) (o.desc 3)).1,
      .done (drainTiles s w m (o.desc 0) (o.desc 1) (o.desc 2) (o.desc 3)).2 0) := by
  subst hm
  simp only [mdrainBody, hfits, Bool.not_true, Bool.false_eq_true, if_false]

theorem mmulTiles_part : Parts.MmulTiles := by
  rintro n x f s w m da db M K K' N h rfl rfl hdr rfl rfl hmkn ha hb hta htb hra hrb
  have hM : (mkn (matOp f.op.word (f.op.reg 0)) (f.op.desc 0) (f.op.desc 1)) = (M, K, K', N) := hmkn
  obtain ⟨hin, hout, hmem, -⟩ := mmulTiles_accs s (f.place n x) (matOp f.op.word (f.op.reg 0)) (f.op.desc 0) (f.op.desc 1)
  rw [hM] at hin hout
  refine ⟨(mmulTiles s (f.place n x) (matOp f.op.word (f.op.reg 0)) (f.op.desc 0) (f.op.desc 1)).1.doneAs n x .matrix f
      (mmulTiles s (f.place n x) (matOp f.op.word (f.op.reg 0)) (f.op.desc 0) (f.op.desc 1)).2 0, _, ?_, ctx_doneAs .., hmem, fun i hi j hj => ?_, hout⟩
  · refine (runCore_dispatched h mmulBody).trans ?_
    rw [(mmulBody_of_readable rfl ha hb hta htb hra hrb).1 hdr _ rfl]
    rfl
  · have hlt : i * ceilDiv N 64 + j < ceilDiv M 64 * ceilDiv N 64 := by nlinarith
    refine (hin _ hlt).trans ?_
    have hpos : 0 < ceilDiv N 64 := by omega
    have hdiv : (i * ceilDiv N 64 + j) / ceilDiv N 64 = i := by
      rw [Nat.mul_comm, Nat.mul_add_div hpos, Nat.div_eq_of_lt hj, Nat.add_zero]
    have hmod : (i * ceilDiv N 64 + j) % ceilDiv N 64 = j := by rw [Nat.mul_comm, Nat.mul_add_mod, Nat.mod_eq_of_lt hj]
    simp only [mmulTile, hM, hdiv, hmod]
    rfl

/-- Settles O6: the loop over the tiles replaces each tile once, as a function of what stood there, and no other. -/
theorem mzeroAndMmul : Obligations.MzeroAndMmul := ⟨mzeroClears, mmulTiles_part⟩

/-! ### The drain -/

/-- Settles O7: the checks of the two operations pass, and what is left is the drain, after the product where MMUL drains. -/
theorem drainCompletes : Obligations.DrainCompletes := by
  rintro n x f s w m rfl rfl hfits
  refine ⟨fun h => (runCore_dispatched h mdrainBody).trans ?_, fun h hdr ha hb hta htb hra hrb p d hp hd => ?_⟩
  · rw [mdrainBody_of_fits rfl hfits]
    rfl
  · refine (runCore_dispatched h mmulBody).trans ?_
    rw [(mmulBody_of_readable rfl ha hb hta htb hra hrb).2 hdr hfits p d hp hd]
    rfl

/-! ### MMUL with DR = 1 as MMUL and MDRAIN -/

theorem bitOf_eq_testBit (v i : Nat) : bitOf v i = v.testBit i := by
  rw [bitOf, Nat.testBit_eq_decide_div_mod_eq, beq_eq_decide]

theorem bitsOf_congr {v u lo w : Nat} (h : ∀ i < w, v.testBit (lo + i) = u.testBit (lo + i)) : bitsOf v lo w = bitsOf u lo w := by
  refine Nat.eq_of_testBit_eq fun i => ?_
  simp only [bitsOf, Nat.testBit_mod_two_pow, Nat.testBit_div_two_pow]
  by_cases hi : i < w
  · simp only [hi, decide_true, Bool.true_and, ← Nat.add_comm lo i, h i hi]
  · simp only [hi, decide_false, Bool.false_and]

/-- The fields of a slot word are those of any word with the same bits [26:0], but for DR, its bit 23. -/
theorem matOp_congr {u v : Word} (par : Nat) (h : ∀ i < 27, i ≠ 23 → u.getLsbD i = v.getLsbD i) :
    matOp u par = { matOp v par with dr := u.getLsbD 23 } := by
  simp only [matOp, bitOf_eq_testBit, BitVec.testBit_toNat, MatOp.mk.injEq, true_and, and_true]
  exact ⟨h 26 (by omega) (by omega), h 25 (by omega) (by omega), h 24 (by omega) (by omega),
    bitsOf_congr fun i hi => h _ (by omega) (by omega), bitsOf_congr fun i hi => h _ (by omega) (by omega)⟩

theorem getLsbD_drMask : ∀ i < 27, (~~~(1#32 <<< 23)).getLsbD i = decide (i ≠ 23) := by decide

theorem getLsbD_opcodeMasks : ∀ i < 27, (~~~(31#32 <<< 27)).getLsbD i = true ∧ (3#32 <<< 27).getLsbD i = false := by decide

/-- Clearing DR leaves the other fields. -/
theorem matOp_clearDr (v : Word) (par : Nat) : matOp (v &&& ~~~(1#32 <<< 23)) par = { matOp v par with dr := false } := by
  rw [matOp_congr (v := v) par fun i hi hne => by rw [BitVec.getLsbD_and, getLsbD_drMask i hi, decide_eq_true hne, Bool.and_true],
    BitVec.getLsbD_and, getLsbD_drMask 23 (by omega), decide_eq_false (by omega), Bool.and_false]

/-- Another opcode leaves all fields. -/
theorem matOp_setOpcode (v : Word) (par : Nat) : matOp ((v &&& ~~~(31#32 <<< 27)) ||| (3#32 <<< 27)) par = matOp v par := by
  have hbit (i : Nat) (hi : i < 27) : ((v &&& ~~~(31#32 <<< 27)) ||| (3#32 <<< 27)).getLsbD i = v.getLsbD i := by
    obtain ⟨h1, h2⟩ := getLsbD_opcodeMasks i hi
    rw [BitVec.getLsbD_or, BitVec.getLsbD_and, h1, h2, Bool.and_true, Bool.or_false]
  rw [matOp_congr (v := v) par fun i hi _ => hbit i hi, hbit 23 (by omega), ← BitVec.testBit_toNat, ← bitOf_eq_testBit]
  rfl

theorem drainFits_of_blocks {s t : State} (h : t.blocks = s.blocks) (w : Place) (m : MatOp) (dd de : Desc) :
    drainFits t w m dd de = drainFits s w m dd de := by
  cases hx : w.x <;> simp only [drainFits, State.holds, State.inPart, State.partSize, State.memsplit, State.block, h, hx]

/-- Settles O8: DR stands in one bit of the slot word, which neither the product nor the drain looks at. -/
theorem mmulDrainEquivalence : Obligations.MmulDrainEquivalence := by
  rintro s w o p q rfl rfl hdr hfits hin hread
  simp only [Bool.and_eq_true] at hin hread
  obtain ⟨⟨⟨ha, hb⟩, hta⟩, htb⟩ := hin
  obtain ⟨hra, hrb⟩ := hread
  obtain ⟨P, hP⟩ : ∃ p, p = mmulTiles s w (matOp o.word (o.reg 0)) (o.desc 0) (o.desc 1) := ⟨_, rfl⟩
  obtain ⟨D, hD⟩ : ∃ d, d = drainTiles P.1 w (matOp o.word (o.reg 0)) (o.desc 0) (o.desc 1) (o.desc 2) (o.desc 3) := ⟨_, rfl⟩
  have hfitsP : drainFits P.1 w (matOp o.word (o.reg 0)) (o.desc 2) (o.desc 3) = true := by
    rw [hP, drainFits_of_blocks (mmulTiles_accs s w _ _ _).2.2.2, hfits]
  refine ⟨P.1, D.1, P.2, D.2, ?_, ?_, ?_⟩
  · exact (mmulBody_of_readable (o := { o with word := _ }) (matOp_clearDr o.word (o.reg 0)) ha hb hta htb hra hrb).1 rfl P hP
  · rw [hD]
    exact mdrainBody_of_fits (o := { o with word := _ }) (matOp_setOpcode o.word (o.reg 0)) hfitsP
  · exact (mmulBody_of_readable rfl ha hb hta htb hra hrb).2 hdr hfits P D hP hD

end Sys2Proof.Machine
end

section
/-! PROOFS. The vector operations complete (Table 6.8): where the checks of an operation pass, its body is done with its result; with O10. -/

namespace Sys2Proof.Machine

/-- A dispatched operation whose effect is done leaves its completion record. -/
theorem exec_of_done {n : Nat} {x : Ctx} {k : Eng} {opc : Nat} {f : Flight} {s t : State} (h : Dispatched n x k opc f s)
    {body : State → Place → Op → State × OpEnd} {g : Byte} {st : Nat} (hb : body s (f.place n x) f.op = (t, .done g st)) :
    runCore n x k opc body s = .next (t.doneAs n x k f g st) := by
  rw [runCore_dispatched h body, hb]
  rfl

section
variable {s : State} {w : Place} {o : Op} (hy : s.fits w (o.desc 1) = true) (hty : s.tablesRead w (o.desc 1) = true)
  (hx : s.fits w (o.desc 0) = true) (hrx : s.readable w (o.desc 0) = true)
include hy hty hx hrx

theorem vencBody_of_reads (hsc : isPlain (o.desc 1).fmt = true → s.holdsScales w (o.desc 1) (o.desc 1).channels = true)
    {r : State × Byte} (hr : r = convertTensor s w (o.desc 0) (o.desc 1) (vecFn o.word % 4)) :
    vencBody s w o = (if isPlain (o.desc 1).fmt then r.1.storeScales w (o.desc 1) else r.1, .done r.2 0) := by
  have hscales : (!isPlain (o.desc 1).fmt || s.holdsScales w (o.desc 1) (o.desc 1).channels) = true := by
    cases h : isPlain (o.desc 1).fmt
    · rfl
    · exact hsc h
  simp only [vencBody, hx, hy, hscales, hrx, hty, Bool.and_self, Bool.not_true, Bool.false_eq_true, if_false, hr]

theorem vcvtBody_of_reads : vcvtBody s w o = ((convertTensor s w (o.desc 0) (o.desc 1) 0).1, .done (convertTensor s w (o.desc 0) (o.desc 1) 0).2 0) := by
  simp only [vcvtBody, hx, hy, hrx, hty, Bool.and_self, Bool.not_true, Bool.false_eq_true, if_false]

theorem vewBody_of_reads (hz : ewBinary (vecFn o.word) = true → s.fits w (o.desc 2) = true ∧ s.readable w (o.desc 2) = true)
    (hbr : ewBranch (vecFn o.word) (o.reg 0) = true → s.inPart w.core w.x (par48 (o.reg 1)) (planeExtent (o.desc 1)) = true)
    {r : State × Byte} (hr : r = s.mapTiles w (o.desc 1) 0 (fun s a b => ewTile s w (vecFn o.word) (fp32.decode (o.reg 0 % 2 ^ 32)) (o.desc 0)
      (o.desc 1) (o.desc 2) (ewBranch (vecFn o.word) (o.reg 0)) (par48 (o.reg 1)) a b)) :
    vewBody s w o = (r.1, .done r.2 0) := by
  have hfz : (!ewBinary (vecFn o.word) || s.fits w (o.desc 2)) = true ∧ (!ewBinary (vecFn o.word) || s.readable w (o.desc 2)) = true := by
    cases h : ewBinary (vecFn o.word)
    · exact ⟨rfl, rfl⟩
    · exact hz h
  have hplane : (!ewBranch (vecFn o.word) (o.reg 0) || s.inPart w.core w.x (par48 (o.reg 1)) (planeExtent (o.desc 1))) = true := by
    cases h : ewBranch (vecFn o.word) (o.reg 0)
    · rfl
    · exact hbr h
  simp only [vewBody, hx, hy, hfz.1, hfz.2, hplane, hrx, hty, Bool.and_self, Bool.not_true, Bool.false_eq_true, if_false, hr]

theorem vdtabBody_of_reads {g : Fn} (hg : fnOf (vecFn o.word) = some g) (hz : s.fits w (o.desc 2) = true) (hrz : s.readable w (o.desc 2) = true)
    (hplane : g = .gelu ∨ g = .silu → s.inPart w.core w.x (par48 (o.reg 0)) (planeExtent (o.desc 0)) = true ∧
      s.badPart w (par48 (o.reg 0)) (planeExtent (o.desc 0)) = false)
    {r : State × Byte} (hr : r = s.mapTiles w (o.desc 1) 0 (fun s a b => dtabTile s w g (par48 (o.reg 0)) (o.desc 0) (o.desc 1) (o.desc 2) a b)) :
    vdtabBody s w o = (r.1.bump 0x3260 2 (o.desc 1).tiles.length, .done r.2 0) := by
  by_cases hs : g = .gelu ∨ g = .silu
  · obtain ⟨hin, hbad⟩ := hplane hs
    simp only [vdtabBody, hg, hx, hy, hz, hrx, hty, hrz, hin, hbad, hr, Bool.and_self, Bool.not_true, Bool.or_true, Bool.and_false, Bool.or_self,
      Bool.false_eq_true, if_false]
  · have hno : (decide (g = .gelu) || decide (g = .silu)) = false := by simpa using hs
    simp only [vdtabBody, hg, hx, hy, hz, hrx, hty, hrz, hno, hr, Bool.and_self, Bool.not_true, Bool.not_false, Bool.true_or, Bool.false_and,
      Bool.or_self, Bool.false_eq_true, if_false]

theorem vredBody_of_reads (hz : vecFn o.word = 2 → s.fits w (o.desc 2) = true ∧ s.readable w (o.desc 2) = true)
    {r : State × Byte × RedTiles} (hr : r = (o.desc 0).tiles.foldl (redPass w (vecFn o.word) (o.reg 0 % 2) (o.desc 0) (o.desc 1) (o.desc 2)) (s, 0, #[])) :
    vredBody s w o = (r.1, .done r.2.1 0) := by
  have hfz : (decide (vecFn o.word ≠ 2) || s.fits w (o.desc 2)) = true ∧ (decide (vecFn o.word ≠ 2) || s.readable w (o.desc 2)) = true := by
    by_cases h : vecFn o.word = 2
    · obtain ⟨h1, h2⟩ := hz h
      simp only [h1, h2, Bool.or_true, and_self]
    · simp only [ne_eq, h, not_false_eq_true, decide_true, Bool.true_or, and_self]
  simp only [vredBody, hx, hy, hfz.1, hfz.2, hrx, hty, Bool.and_self, Bool.not_true, Bool.false_eq_true, if_false, hr]

end

theorem State.readCount_ctxs (s : State) (w : Place) (d : Desc) (a b : Nat) (t : Tally) : (s.readCount w d a b t).ctxs = s.ctxs :=
  (s.readCount_countChange w d a b t).keeps.2.2.2.2.1

theorem State.count_ctxs (s : State) (w : Place) (tid : Nat) (t : Tally) : (s.count w tid t).ctxs = s.ctxs :=
  (s.count_countChange w tid t).keeps.2.2.2.2.1

/-- The conversion of a tensor's tiles changes no context. -/
theorem State.mapTiles_ctxs (s : State) (w : Place) (d : Desc) (escq : Nat) (f : State → Nat → Nat → Pass) :
    (s.mapTiles w d escq f).1.ctxs = s.ctxs := by
  refine foldl_fst_keeps State.ctxs _ (fun p ab => ?_) _ _
  dsimp only
  rw [foldl_keeps State.ctxs _ (fun u t => State.readCount_ctxs u w _ _ _ _), State.count_ctxs]
  split <;> rfl

theorem vrngBody_of_holds {s : State} {w : Place} {o : Op} (h : s.holds w (o.desc 1) = true) :
    (vrngBody s w o).1.ctxs = s.ctxs ∧ ∃ g, (vrngBody s w o).2 = .done g 0 := by
  simp only [vrngBody, h, Bool.not_true, Bool.false_eq_true, if_false]
  exact ⟨s.mapTiles_ctxs .., _, rfl⟩

/-- VRNG is done, and its context keeps its key (R186). -/
theorem vrng_completes {n : Nat} {x : Ctx} {f : Flight} {s : State} (h : Dispatched n x .vector 10 f s)
    (hy : s.fits (f.place n x) (f.op.desc 1) = true) :
    ∃ t fl, exec (.vrng n x) s = .next t ∧ (t.ctx n x).flight .vector = some (f.ended fl 0) ∧ (t.ctx n x).cgKey = (s.ctx n x).cgKey := by
  obtain ⟨hctxs, g, hdone⟩ := vrngBody_of_holds (Bool.and_eq_true_iff.1 hy).1
  refine ⟨_, g, exec_of_done h (Prod.ext rfl hdone), ctx_doneAs .., ?_⟩
  simp only [State.doneAs, State.modCtx, ctx_setCtx, Context.setFlight]
  rw [ctx_of_ctxs hctxs]

/-- Settles O10: each operation's checks are the hypotheses, and its body is then done with status 0. -/
theorem vectorCompletes : Obligations.VectorCompletes := by
  rintro n x f s w dx dy dz rfl rfl rfl rfl hy hty
  refine ⟨fun h hx hrx hsc => ⟨_, rfl, exec_of_done h (vencBody_of_reads hy hty hx hrx hsc rfl)⟩,
    fun h hx hrx => exec_of_done h (vcvtBody_of_reads hy hty hx hrx),
    fun h hx hrx hz hbr => ⟨_, rfl, exec_of_done h (vewBody_of_reads hy hty hx hrx hz hbr rfl)⟩,
    fun g h hg hx hz hrx hrz hplane => ⟨_, rfl, exec_of_done h (vdtabBody_of_reads hy hty hx hrx hg hz hrz hplane rfl)⟩,
    fun h hx hrx hz => ⟨_, rfl, exec_of_done h (vredBody_of_reads hy hty hx hrx hz rfl)⟩, ?_⟩
  rintro k h rfl
  exact vrng_completes h hy

end Sys2Proof.Machine
end

section
/-! PROOFS. The scan of a tensor without tiles (R78, R112), and the reduction into a tensor too small for it (R448),
with the refutations of O9 and O12. -/

namespace Sys2Proof.Machine

/-! ### A scan that meets no tile -/

/-- A VSCAN of a tensor of one row and no column, scaled along its rows, with the records at offset 64: it has one channel and no tile. -/
def emptyScan : Op where
  eng := .vector
  word := 0x04000000
  pc := 0
  regs := [64]
  descs := [BitVec.ofNat 256 (2 ^ 200 + 2 ^ 8)]
  step := 0
  att := 0
  seq := 0

/-- A core in which it stands dispatched, with a byte of 1 where the record of its channel belongs. -/
def emptyScanState : State :=
  { State.reset with ctxs := [(0, { state := .running, fV := some { op := emptyScan } })], mem := [(coreBase 0 + 64, 1)] }

theorem emptyScan_dispatched : Dispatched 0 .crown .vector 1 { op := emptyScan } emptyScanState where
  core := by decide
  here := by decide
  live := ⟨rfl, rfl, rfl⟩
  code := by decide

/-- It has no tile, so no bytes of its own. -/
theorem emptyScan_tiles : (emptyScan.desc 0).tiles = [] := by decide

/-- Refutes O9: the last clause of the scan. No condition of the statement asks for a descriptor that R129 admits, so that DX may have an extent
of 0. A scan meets no tile of such a tensor and writes no record, while the channel along its other extent is there, and the statement has 32 zero
bytes at its offset: the record of a scan of nothing. -/
theorem not_entriesAndScans : ¬ Obligations.EntriesAndScans := by
  rintro ⟨-, hscan⟩
  obtain ⟨-, hrecords, -⟩ := hscan 0 .crown { op := emptyScan } emptyScanState _ _ _ _ _ _ _ emptyScan_dispatched rfl rfl rfl rfl
    (by decide) (by decide) (by decide) rfl rfl rfl
  obtain ⟨-, hbytes⟩ := hrecords (fun _ => by decide) (fun a _ => ⟨fun ⟨ab, hab, _⟩ => by rw [emptyScan_tiles] at hab; exact absurd hab (by simp), fun h => absurd h.1 (by decide)⟩)
  exact absurd (hbytes 0 (by decide)) (by decide)

/-! ### A reduction into a tensor that is too small -/

theorem byte_partWrite (s : State) (w : Place) (off : Nat) (bs : List Byte) {i : Nat} (h : i < bs.length) :
    (s.partWrite w off bs).byte (s.partAddr w.core w.x off + i) = bs.getD i 0 := by
  refine (Table.read_writeList 0 _ bs s.mem _).trans ?_
  rw [if_pos (by omega), Nat.add_sub_cancel_left]

/-- The bytes 8 to 63 of a header are reserved and zero (Table 2.8). -/
theorem getD_header_reserved (head : TileHead) (bs : List Byte) {i : Nat} (hlo : 8 ≤ i) (hhi : i < 64) : (head.bytes ++ bs).getD i 0 = 0 := by
  rw [List.getD_append _ _ _ _ (by rw [TileHead.length_bytes]; exact hhi), TileHead.bytes,
    List.getD_append_right _ _ _ _ (by rw [length_leBytes]; exact hlo), length_leBytes, List.getD_replicate _ (by omega)]

theorem byte_writeTile_reserved (s : State) (w : Place) {d : Desc} (hfmt : d.fmt = 0) (a b escq : Nat) (head : TileHead) (xs : Array FV)
    (mask : Nat → Byte) {i : Nat} (hlo : 8 ≤ i) (hhi : i < 64) :
    (s.writeTile w d a b escq head xs mask).1.byte (s.partAddr w.core w.x (d.tileOff a b) + i) = 0 := by
  have hlen := length_encodeTile d a b escq (s.nb4Levels w d a b) (s.scaleOf w d) head xs mask
  have hi : i < (encodeTile d a b escq (s.nb4Levels w d a b) (s.scaleOf w d) head xs mask).1.length := by rw [hlen, Desc.recSize]; omega
  refine (byte_partWrite s w (d.tileOff a b) (encodeTile d a b escq (s.nb4Levels w d a b) (s.scaleOf w d) head xs mask).1 hi).trans ?_
  have hblk : ¬ isBlock d.fmt = true := by rw [hfmt]; decide
  rw [encodeTile, if_neg hblk]
  exact getD_header_reserved _ _ hlo hhi

theorem State.readCount_blocks (s : State) (w : Place) (d : Desc) (a b : Nat) (t : Tally) : (s.readCount w d a b t).blocks = s.blocks :=
  (s.readCount_countChange w d a b t).keeps.2.2.2.2.2.1

theorem State.count_blocks (s : State) (w : Place) (tid : Nat) (t : Tally) : (s.count w tid t).blocks = s.blocks :=
  (s.count_countChange w tid t).keeps.2.2.2.2.2.1

/-- A pass of VRED changes no register, so no partition. -/
theorem redPass_blocks (w : Place) (fn axis : Nat) (dx dy dz : Desc) (acc : State × Byte × RedTiles) (ab : Nat × Nat) :
    (redPass w fn axis dx dy dz acc ab).1.blocks = acc.1.blocks := by
  have hread : (if fn = 2 then (acc.1.readCount w dx ab.1 ab.2 (acc.1.widenTile w dx ab.1 ab.2).2).readCount w dz ab.1 ab.2
      (if fn = 2 then acc.1.widenTile w dz ab.1 ab.2 else (#[], {})).2
      else acc.1.readCount w dx ab.1 ab.2 (acc.1.widenTile w dx ab.1 ab.2).2).blocks = acc.1.blocks := by
    split
    · rw [State.readCount_blocks, State.readCount_blocks]
    · exact State.readCount_blocks ..
  unfold redPass
  dsimp only
  split
  · exact hread
  · exact (State.count_blocks ..).trans hread

/-- A VRED along the first axis of a tensor of 1 × 65 elements into one of 1 × 1, both in FP32 and admitted by R129. -/
def wideRed : Op where
  eng := .vector
  word := 0x20000000
  pc := 0
  regs := [0]
  descs := [BitVec.ofNat 256 (2 ^ 200 + 65 * 2 ^ 176), BitVec.ofNat 256 (2 ^ 200 + 2 ^ 176)]
  step := 0
  att := 0
  seq := 0

/-- A core in which it stands dispatched, with a byte of 1 past the one record of DY. -/
def wideRedState : State :=
  { State.reset with ctxs := [(0, { state := .running, fV := some { op := wideRed } })], mem := [(coreBase 0 + 16456, 1)] }

theorem wideRed_dispatched : Dispatched 0 .crown .vector 8 { op := wideRed } wideRedState where
  core := by decide
  here := by decide
  live := ⟨rfl, rfl, rfl⟩
  code := by decide

/-- A pass of VRED that completes a tile of DY leaves zero in the reserved bytes of that record's header. -/
theorem redPass_reserved (w : Place) (fn axis : Nat) (dx : Desc) {dy : Desc} (dz : Desc) (acc : State × Byte × RedTiles) (ab : Nat × Nat)
    {t : Nat × Nat} (hdone : redDone dx axis ab.1 ab.2 = some t) (hfmt : dy.fmt = 0) {i : Nat} (hlo : 8 ≤ i) (hhi : i < 64) :
    (redPass w fn axis dx dy dz acc ab).1.byte (acc.1.partAddr w.core w.x (dy.tileOff t.1 t.2) + i) = 0 := by
  have hcount (u : State) (tid : Nat) (c : Tally) (a : Nat) : (u.count w tid c).byte a = u.byte a := by
    simp only [State.byte, (u.count_countChange w tid c).keeps.1]
  have hat (u : State) (h : u.blocks = acc.1.blocks) : acc.1.partAddr w.core w.x (dy.tileOff t.1 t.2) = u.partAddr w.core w.x (dy.tileOff t.1 t.2) := by
    cases hx : w.x <;> simp only [State.partAddr, State.partStart, State.memsplit, State.block, h]
  unfold redPass
  simp only [hdone, State.redWrite, hcount]
  rw [hat]
  · exact byte_writeTile_reserved _ w hfmt _ _ _ _ _ _ hlo hhi
  · split
    · rw [State.readCount_blocks, State.readCount_blocks]
    · exact State.readCount_blocks ..

theorem wideRed_tiles : (wideRed.desc 0).tiles = [(0, 0), (0, 1)] := by decide

/-- The pass over the first tile of DX. -/
def wideRedFirst : State × Byte × RedTiles :=
  redPass ⟨0, .crown, 0, 0⟩ 0 0 (wideRed.desc 0) (wideRed.desc 1) (wideRed.desc 2) (wideRedState, 0, #[]) (0, 0)

theorem wideRed_body : ∃ g, vredBody wideRedState ⟨0, .crown, 0, 0⟩ wideRed =
    ((redPass ⟨0, .crown, 0, 0⟩ 0 0 (wideRed.desc 0) (wideRed.desc 1) (wideRed.desc 2) wideRedFirst (0, 1)).1, .done g 0) := by
  have hbody := vredBody_of_reads (s := wideRedState) (w := ⟨0, .crown, 0, 0⟩) (o := wideRed) (by decide) (by decide) (by decide) (by decide)
    (fun h => absurd h (by decide)) rfl
  rw [wideRed_tiles] at hbody
  exact ⟨_, hbody⟩

/-- The place of the record that tile (0, 1) of DY would have. -/
theorem wideRed_place : wideRedFirst.1.partAddr 0 .crown ((wideRed.desc 1).tileOff 0 1) = coreBase 0 + 16448 := by
  have hblocks : wideRedFirst.1.blocks = wideRedState.blocks := redPass_blocks ..
  have hoff : (wideRed.desc 1).tileOff 0 1 = 16448 := by decide
  rw [hoff]
  rfl

/-- Refutes O12: the row of VRED. R448 gives DY an extent of 1 along the reduced axis and DX's extent along the other, and a bundle with another
DY is refused; but the statement takes the descriptors of an operation that stands in its engine as they come. With DX of 1 × 65 elements and DY
of 1 × 1, the pass over DX's second tile stores the tile (0, 1), which DY does not have. -/
theorem not_computeFrame : ¬ Obligations.ComputeFrame := by
  intro h
  obtain ⟨g, hbody⟩ := wideRed_body
  obtain ⟨-, hvector, -⟩ := h 0 .crown { op := wideRed } wideRedState _ _ _ _ rfl rfl rfl
  obtain ⟨-, -, hkept⟩ := hvector (.vred 0 .crown, 8, wideRedState.inTiles ⟨0, .crown, 0, 0⟩ (wideRed.desc 1))
    (List.mem_of_getElem? (i := 7) rfl) wideRed_dispatched (exec_of_done wideRed_dispatched hbody)
    (by rw [show ∀ c : Context, c.fV = c.flight .vector from fun _ => rfl, ctx_doneAs]; exact Option.some_ne_none _)
  have hout : ¬ wideRedState.inTiles ⟨0, .crown, 0, 0⟩ (wideRed.desc 1) (coreBase 0 + 16448 + 8) := by
    rintro ⟨ab, hab, -, hlt⟩
    have htiles : (wideRed.desc 1).tiles = [(0, 0)] := by decide
    rw [htiles, List.mem_singleton] at hab
    have hplace : wideRedState.partAddr 0 .crown ((wideRed.desc 1).tileOff ab.1 ab.2) = coreBase 0 := by rw [hab]; decide
    have hsize : (wideRed.desc 1).recSize = 16448 := by decide
    change _ < wideRedState.partAddr 0 .crown _ + _ at hlt
    omega
  have hzero := redPass_reserved ⟨0, .crown, 0, 0⟩ 0 0 (wideRed.desc 0) (dy := wideRed.desc 1) (wideRed.desc 2) wideRedFirst (0, 1)
    (t := (0, 1)) (by decide) (by decide) (i := 8) (by omega) (by omega)
  rw [wideRed_place] at hzero
  have hone : wideRedState.byte (coreBase 0 + 16448 + 8) = 1 := by decide
  have hrecord (u : State) (f : Flight) (a : Nat) : (u.doneAs 0 .crown .vector f g 0).byte a = u.byte a := rfl
  have hstays := hkept (coreBase 0 + 16448 + 8) hout
  rw [hrecord, hzero, hone] at hstays
  exact absurd hstays (by decide)

end Sys2Proof.Machine
end

section
/-! PROOFS. The optimiser step (R179 to R183): where its checks pass it is done, and it stores the records of its outputs alone; with O11. -/

namespace Sys2Proof.Machine

theorem tiles_of_sameExt {d e : Desc} (h : d.sameExt e = true) : d.tiles = e.tiles := by
  simp only [Desc.sameExt, Bool.and_eq_true, decide_eq_true_eq] at h
  obtain ⟨h0, h1⟩ := h
  simp only [Desc.tiles, Desc.tA, Desc.tB, h0, h1]

/-- A tile of raw BF16 patterns is a whole record (R181). -/
theorem State.writeRaw_stores (s : State) (w : Place) {d : Desc} (hfmt : d.fmt = 1) {ab : Nat × Nat} (hab : ab ∈ d.tiles) (values : Bool)
    (xs : Array Nat) : Stores (s.inTiles w d) s (s.writeRaw w d ab.1 ab.2 values xs) := by
  refine s.partWrite_tile_stores w d hab ?_
  rw [List.length_append, TileHead.length_bytes, length_packCodes _ (by rw [List.length_map, List.length_range]), Desc.recSize, Desc.expBytes,
    Desc.sideBytes, Desc.codeBytes, hfmt]
  rfl

/-- The output tensors of a VOPT: DY, DRO, DM1O, and DM2O of the second form. -/
def optOutputs (am2 : Bool) (dy : Desc) (q : OptDescs) : List Desc := [dy, q.ro, q.m1o] ++ if am2 then [q.m2o] else []

/-- The stores of one tile of a VOPT lie in the records of its outputs. -/
theorem State.optStore_stores {s : State} {p : Place} {am2 : Bool} {dy : Desc} {q : OptDescs} {ab : Nat × Nat} (hdy : dy.fmt = 1)
    (hro : q.ro.fmt = 1) (htiles : ∀ d ∈ optOutputs am2 dy q, ab ∈ d.tiles) {inside : Nat → Prop}
    (hin : ∀ d ∈ optOutputs am2 dy q, ∀ a, s.inTiles p d a → inside a) (out : Array (FV × FV × FV × Byte)) :
    Stores inside s (s.optStore p am2 dy q ab.1 ab.2 out) := by
  have at' {u : State} (hu : Stores inside s u) {d : Desc} (hd : d ∈ optOutputs am2 dy q) {t : State} (h : Stores (u.inTiles p d) u t) :
      Stores inside s t := hu.trans (h.mono fun a ha => hin d hd a (by rwa [hu.inTiles] at ha))
  have count' {u : State} (hu : Stores inside s u) (tid : Nat) (t : Tally) : Stores inside s (u.count p tid t) :=
    hu.trans (u.count_countChange p tid t).stores
  have mem (d : Desc) (h : d = dy ∨ d = q.ro ∨ d = q.m1o) : d ∈ optOutputs am2 dy q := by
    rcases h with rfl | rfl | rfl <;> simp [optOutputs]
  have high {u : State} (hu : Stores inside s u) (xs : Array Nat) : Stores inside s (u.writeRaw p dy ab.1 ab.2 true xs) :=
    at' hu (mem dy (.inl rfl)) (u.writeRaw_stores p hdy (htiles _ (mem dy (.inl rfl))) true xs)
  have low {u : State} (hu : Stores inside s u) (xs : Array Nat) : Stores inside s (u.writeRaw p q.ro ab.1 ab.2 false xs) :=
    at' hu (mem q.ro (.inr (.inl rfl))) (u.writeRaw_stores p hro (htiles _ (mem q.ro (.inr (.inl rfl)))) false xs)
  have moment {u : State} (hu : Stores inside s u) {d : Desc} (hd : d ∈ optOutputs am2 dy q) (xs : Array FV) :
      Stores inside s (u.writeTile p d ab.1 ab.2 0 {} xs).1 := at' hu hd (u.writeTile_stores p d (htiles d hd) 0 {} xs _)
  unfold State.optStore
  dsimp only
  split
  next h =>
    exact count' (moment (count' (moment (count' (low (high (.refl s) _) _) _ _) (mem q.m1o (.inr (.inr rfl))) _) _ _)
      (by simp [optOutputs, h]) _) _ _
  next => exact count' (moment (count' (low (high (.refl s) _) _) _ _) (mem q.m1o (.inr (.inr rfl))) _) _ _

/-- One tile of a VOPT: the reads are counted, then the outputs stored. -/
theorem optTile_stores {s : State} {p : Place} {am2 : Bool} {dx dy : Desc} {q : OptDescs} {ab : Nat × Nat} (hdy : dy.fmt = 1)
    (hro : q.ro.fmt = 1) (htiles : ∀ d ∈ optOutputs am2 dy q, ab ∈ d.tiles) {inside : Nat → Prop}
    (hin : ∀ d ∈ optOutputs am2 dy q, ∀ a, s.inTiles p d a → inside a) (k : OptBlock) (l : Int) :
    Stores inside s (optTile s p am2 k l dx dy q ab.1 ab.2).1 := by
  have hread : Stores inside s ((s.optElems p am2 k l dx dy q ab.1 ab.2).2.foldl (fun s t => s.readCount p t.1 ab.1 ab.2 t.2) s) :=
    Stores.foldl id (.refl s) fun c t _ hc => hc.trans (c.readCount_countChange p t.1 ab.1 ab.2 t.2).stores
  exact hread.trans (State.optStore_stores hdy hro htiles (fun d hd a ha => hin d hd a (by rwa [hread.inTiles] at ha)) _)

/-- The loop over the tiles of a VOPT. -/
def optLoop (s : State) (w : Place) (am2 : Bool) (k : OptBlock) (l : Int) (dx dy : Desc) (q : OptDescs) (f : Byte) : State × Byte × Bool :=
  dy.tiles.foldl (fun (acc : State × Byte × Bool) ab =>
    let t := optTile acc.1 w am2 k l dx dy q ab.1 ab.2
    (t.1, acc.2.1 ||| t.2.1, acc.2.2 || t.2.2)) (s, f, false)

theorem optLoop_stores (s : State) (w : Place) {am2 : Bool} (k : OptBlock) (l : Int) (dx : Desc) {dy : Desc} {q : OptDescs} (f : Byte)
    (hdy : dy.fmt = 1) (hro : q.ro.fmt = 1) (htiles : ∀ d ∈ optOutputs am2 dy q, d.tiles = dy.tiles) :
    Stores (fun a => ∃ d ∈ optOutputs am2 dy q, s.inTiles w d a) s (optLoop s w am2 k l dx dy q f).1 :=
  Stores.foldl Prod.fst (.refl s) fun c ab hab hc => hc.trans
    (optTile_stores hdy hro (fun d hd => by rwa [htiles d hd]) (fun d hd a ha => ⟨d, hd, by rwa [hc.inTiles] at ha⟩) k l)

/-- The descriptors that a block names in the state, and those that a VOPT uses: all seven, or the first form's five. -/
def optDescs (s : State) (w : Place) (off : Nat) (i : Nat) : Desc := descOf (optImages s w (s.partRead w off 64) i)

def optNamed (am2 : Bool) : List Nat := (List.range 7).filter (fun i => am2 || (i ≠ 3 && i ≠ 6))

/-- The checks of a VOPT on its block, its descriptors and their regions (R179). -/
structure OptReady (s : State) (w : Place) (o : Op) : Prop where
  block : s.inPart w.core w.x (par48 (o.reg 0)) 64 = true
  blockReads : s.badPart w (par48 (o.reg 0)) 64 = false
  spaces : (o.desc 0).space = 0 ∧ (o.desc 1).space = 0
  extents : (o.desc 1).sameExt (o.desc 0) = true
  formats : (o.desc 0).fmt = 0 ∧ (o.desc 1).fmt = 1
  regions : s.holds w (o.desc 0) = true ∧ s.holds w (o.desc 1) = true
  reads : s.readable w (o.desc 0) = true
  sources : ∀ i ∈ optNamed (vecFn o.word = 0), i < 4 → s.readable w (optDescs s w (par48 (o.reg 0)) i) = true
  named : ∀ i ∈ optNamed (vecFn o.word = 0), descOk (optImages s w (s.partRead w (par48 (o.reg 0)) 64) i) = true ∧
    (optDescs s w (par48 (o.reg 0)) i).space = 0 ∧ (optDescs s w (par48 (o.reg 0)) i).sameExt (o.desc 0) = true ∧
    (optDescs s w (par48 (o.reg 0)) i).fmt = (if i = 0 ∨ i = 1 ∨ i = 4 then 1 else 0) ∧ s.holds w (optDescs s w (par48 (o.reg 0)) i) = true

/-- The descriptors of the block by their names (Table 8.1). -/
def optQ (s : State) (w : Place) (o : Op) : OptDescs :=
  let d := optDescs s w (par48 (o.reg 0))
  ⟨d 0, d 1, d 2, d 3, d 4, d 5, d 6⟩

/-- The flags of the block's own numbers. -/
def OptBlock.inFlags (k : OptBlock) (am2 : Prop) [Decidable am2] : Byte :=
  (if am2 then [k.lr, k.b1, k.b2, k.eps, k.wd, k.gs, k.bc1, k.bc2] else [k.lr, k.b1, k.wd, k.gs]).foldl (fun f v => f ||| v.inFlags) 0

/-- The run of a VOPT over the tiles of DY. -/
def optRun (s : State) (w : Place) (o : Op) : State × Byte × Bool :=
  let k := optBlock (s.partRead w (par48 (o.reg 0)) 64)
  optLoop s w (vecFn o.word = 0) k o.lexp (o.desc 0) (o.desc 1) (optQ s w o) (k.inFlags (vecFn o.word = 0))

/-- A VOPT whose checks pass runs over the tiles of DY and raises the UF bit where a result is not finite (R182). -/
theorem voptBody_of_ready {s : State} {w : Place} {o : Op} (h : OptReady s w o) :
    voptBody s w o = ((optRun s w o).1.modCtx w.core w.x (fun c => { c with uflag := c.uflag || (optRun s w o).2.2 }),
      .done (optRun s w o).2.1 0) := by
  have hok : (optNamed (vecFn o.word = 0)).all (fun i => descOk (optImages s w (s.partRead w (par48 (o.reg 0)) 64) i)) = true :=
    List.all_eq_true.2 fun i hi => (h.named i hi).1
  have hext : (optNamed (vecFn o.word = 0)).all (fun i => (optDescs s w (par48 (o.reg 0)) i).space = 0 &&
      (optDescs s w (par48 (o.reg 0)) i).sameExt (o.desc 0)) = true :=
    List.all_eq_true.2 fun i hi => by
      obtain ⟨-, hsp, hse, -⟩ := h.named i hi
      simp only [hsp, hse, decide_true, Bool.and_self]
  have hfmt : (optNamed (vecFn o.word = 0)).all (fun i => (optDescs s w (par48 (o.reg 0)) i).fmt = (if i = 0 || i = 1 || i = 4 then 1 else 0)) = true :=
    List.all_eq_true.2 fun i hi => by
      obtain ⟨-, -, -, hf, -⟩ := h.named i hi
      simp only [hf, Bool.or_eq_true, decide_eq_true_eq, or_assoc, decide_true]
  have hholds : (optNamed (vecFn o.word = 0)).all (fun i => s.holds w (optDescs s w (par48 (o.reg 0)) i)) = true :=
    List.all_eq_true.2 fun i hi => (h.named i hi).2.2.2.2
  have hsources : ((optNamed (vecFn o.word = 0)).filter (· < 4)).all (fun i => s.readable w (optDescs s w (par48 (o.reg 0)) i)) = true :=
    List.all_eq_true.2 fun i hi => h.sources i (List.mem_filter.1 hi).1 (of_decide_eq_true (List.mem_filter.1 hi).2)
  unfold optNamed optDescs at *
  simp only [voptBody, h.block, h.blockReads, hok, h.spaces.1, h.spaces.2, h.extents, hext, h.formats.1, h.formats.2, hfmt, h.regions.1, h.regions.2,
    hholds, h.reads, hsources, decide_true, Bool.and_self, Bool.not_true, Bool.false_eq_true, if_false]
  rfl

/-- The records that a VOPT stores: those of DY and of the named descriptors from the fourth on. -/
theorem optRun_stores {s : State} {w : Place} {o : Op} (h : OptReady s w o) :
    Stores (fun a => s.inTiles w (o.desc 1) a ∨ ∃ i ∈ optNamed (vecFn o.word = 0), 4 ≤ i ∧ s.inTiles w (optDescs s w (par48 (o.reg 0)) i) a)
      s (optRun s w o).1 := by
  have hnamed4 : 4 ∈ optNamed (vecFn o.word = 0) := by simp [optNamed, List.mem_range]
  have hnamed5 : 5 ∈ optNamed (vecFn o.word = 0) := by simp [optNamed, List.mem_range]
  have houts : ∀ d ∈ optOutputs (vecFn o.word = 0) (o.desc 1) (optQ s w o),
      d = o.desc 1 ∨ ∃ i ∈ optNamed (vecFn o.word = 0), 4 ≤ i ∧ d = optDescs s w (par48 (o.reg 0)) i := by
    intro d hd
    rcases List.mem_append.1 hd with hd | hd
    · simp only [List.mem_cons, List.not_mem_nil, or_false] at hd
      rcases hd with rfl | rfl | rfl
      · exact .inl rfl
      · exact .inr ⟨4, hnamed4, by omega, rfl⟩
      · exact .inr ⟨5, hnamed5, by omega, rfl⟩
    · split at hd
      next ham => exact .inr ⟨6, by simp [optNamed, List.mem_range, of_decide_eq_true ham], by omega, List.mem_singleton.1 hd⟩
      next => exact absurd hd List.not_mem_nil
  have htiles : ∀ d ∈ optOutputs (vecFn o.word = 0) (o.desc 1) (optQ s w o), d.tiles = (o.desc 1).tiles := by
    intro d hd
    rcases houts d hd with rfl | ⟨i, hi, -, rfl⟩
    · rfl
    · rw [tiles_of_sameExt (h.named i hi).2.2.1, tiles_of_sameExt h.extents]
  have hro : (optQ s w o).ro.fmt = 1 := (h.named 4 hnamed4).2.2.2.1
  refine (optLoop_stores s w _ _ _ _ h.formats.2 hro htiles).mono fun a ⟨d, hd, ha⟩ => ?_
  rcases houts d hd with rfl | ⟨i, hi, h4, rfl⟩
  · exact .inl ha
  · exact .inr ⟨i, hi, h4, ha⟩

/-- The state with the UF bit raised where asked, and the completion record. -/
def State.optDone (u : State) (n : Nat) (x : Ctx) (f : Flight) (b : Bool) (g : Byte) : State :=
  (u.modCtx n x (fun c => { c with uflag := c.uflag || b })).doneAs n x .vector f g 0

theorem State.optDone_frame (u : State) (n : Nat) (x : Ctx) (f : Flight) (b : Bool) (g : Byte) :
    u.optDone n x f b g = { u with ctxs := (u.optDone n x f b g).ctxs } := rfl

theorem State.optDone_uflag (u : State) (n : Nat) (x : Ctx) (f : Flight) (b : Bool) (g : Byte) (h : (u.ctx n x).uflag = true) :
    ((u.optDone n x f b g).ctx n x).uflag = true := by
  simp only [State.optDone, State.doneAs, State.modCtx, ctx_setCtx, Context.setFlight, h, Bool.true_or]

/-- Settles O11: the checks are the hypotheses, and each tile stores the records of the outputs at its own place. -/
theorem voptCompletes : Obligations.VoptCompletes := by
  rintro n x f s w named d hdis rfl hblock hbad hnamed hd hsx hsy hext hfx hfy hhx hhy hrx hsources hall
  obtain rfl : d = fun i => optImages s (f.place n x) (s.partRead (f.place n x) (par48 (f.op.reg 0)) 64) i := funext hd
  have hnamed' : named = optNamed (vecFn f.op.word = 0) := by
    rw [hnamed]
    by_cases h : vecFn f.op.word = 0 <;> simp [h, optNamed] <;> decide
  rw [hnamed'] at hsources hall ⊢
  have hready : OptReady s (f.place n x) f.op := ⟨hblock, hbad, ⟨hsx, hsy⟩, hext, ⟨hfx, hfy⟩, ⟨hhx, hhy⟩, hrx, hsources, hall⟩
  have hst := optRun_stores hready
  obtain ⟨haccs, hsrf, hres, hctxs⟩ := hst.keeps
  refine ⟨(optRun s (f.place n x) f.op).1.optDone n x f (optRun s (f.place n x) f.op).2.2 (optRun s (f.place n x) f.op).2.1, _,
    exec_of_done hdis (voptBody_of_ready hready), ctx_doneAs .., fun hu => State.optDone_uflag _ _ _ _ _ _ (by rw [ctx_of_ctxs hctxs, hu]), ?_⟩
  rw [State.optDone_frame]
  refine ⟨haccs, hsrf, hres, ?_, hst.bytes⟩
  rw [ComputeKeeps, hst.eq]

end Sys2Proof.Machine
end

section
/-! PROOFS. Local data movement by the stream engine (R111, R142, R143, R146): what is read from a context's space, the granules of a range,
and SCPY, SMOV and SWAIT, with O13 and O15. -/

namespace Sys2Proof.Machine

/-! ### Reads of a context's space -/

theorem length_readList {V : Type} (d : V) (k n : Nat) (m : Table V) : (Table.readList d k n m).length = n := by
  induction n generalizing k m with
  | zero => rfl
  | succ n ih => rw [Table.readList, List.length_cons, ih]

/-- A range without an uncorrected error has none in any of its bytes (R69). -/
theorem State.coreBad_byte {s : State} {a n i : Nat} (h : s.coreBad a n = false) (hi : i < n) : s.coreBad (a + i) 1 = false := by
  simp only [State.coreBad, List.any_eq_false, Bool.and_eq_true, decide_eq_true_eq, not_and, not_lt] at h ⊢
  intro u hu hlt
  have := h u hu (by omega)
  omega

theorem State.spaceAddr_add (s : State) (w : Place) (sp off i : Nat) : s.spaceAddr w sp (off + i) = s.spaceAddr w sp off + i := by
  unfold State.spaceAddr State.partAddr State.sbAddr
  split <;> omega

/-- The bytes of core memory or shared buffer as they stand, at the local address of the offset. -/
theorem State.sourceBytes_near (s : State) (w : Place) {sp : Nat} (hsp : sp ≤ 1) (off len : Nat) :
    s.sourceBytes w.core w.x sp 0 off len = s.rawRead (s.spaceAddr w sp off) len := by
  obtain rfl | rfl : sp = 0 ∨ sp = 1 := by omega
  all_goals simp only [State.sourceBytes, State.spaceAddr, Nat.zero_add, if_true, one_ne_zero, if_false]

theorem whole_map_some (bs : List Byte) : whole (bs.map some) = some bs := by
  simp [whole]

/-- A read of core memory or shared buffer without an uncorrected error delivers every byte and changes nothing. -/
theorem State.spaceReads_near {s : State} {w : Place} {sp off len : Nat} (hsp : sp ≤ 1) (hbad : s.coreBad (s.spaceAddr w sp off) len = false) :
    s.spaceReads w sp off len = (s, (s.rawRead (s.spaceAddr w sp off) len).map some) := by
  simp only [State.spaceReads, if_pos hsp, s.sourceBytes_near w hsp]
  congr 1
  refine List.ext_getElem (by simp) fun i h1 h2 => ?_
  have hi : i < len := by simpa [State.rawRead, length_readList] using h2
  simp only [List.getElem_map, List.getElem_zipIdx, Nat.zero_add, s.spaceAddr_add, State.coreBad_byte hbad hi, Bool.false_eq_true, if_false]

theorem State.spaceWrite_near (s : State) (w : Place) {sp : Nat} (hsp : sp ≤ 1) (off : Nat) (bs : List Byte) :
    s.spaceWrite w.core w.x sp off bs = (s.rawWrite (s.spaceAddr w sp off) bs, true) := by
  obtain rfl | rfl : sp = 0 ∨ sp = 1 := by omega
  all_goals rfl

/-! ### Granules -/

/-- The pieces of a range up to a granule's end carry its bytes up to there. -/
theorem flatMap_granules_prefix {α : Type} (a : Nat) (bs : List α) (k : Nat) (hk : k ≤ ceilDiv (a % 2048 + bs.length) 2048) :
    ((List.range k).map (fun i => (i * 2048 - a % 2048, min bs.length ((i + 1) * 2048 - a % 2048) - (i * 2048 - a % 2048)))).flatMap
      (fun g => (bs.drop g.1).take g.2) = bs.take (k * 2048 - a % 2048) := by
  induction k with
  | zero => simp
  | succ k ih =>
    have hlo : k * 2048 - a % 2048 ≤ bs.length := by unfold ceilDiv at hk; omega
    rw [List.range_succ, List.map_append, List.flatMap_append, ih (by omega)]
    simp only [List.map_cons, List.map_nil, List.flatMap_cons, List.flatMap_nil, List.append_nil]
    rw [← List.take_add, show k * 2048 - a % 2048 + (min bs.length ((k + 1) * 2048 - a % 2048) - (k * 2048 - a % 2048)) =
      min bs.length ((k + 1) * 2048 - a % 2048) by omega, ← List.take_take]
    exact List.take_of_length_le (by rw [List.length_take]; omega)

/-- Settles O15: the pieces end where the granules do, and the next begins there. -/
theorem granulesPartition : Obligations.GranulesPartition := by
  intro addr bs
  refine ⟨?_, fun g hg => ?_⟩
  · rw [granules, flatMap_granules_prefix addr bs _ (Nat.le_refl _), List.take_of_length_le]
    unfold ceilDiv
    omega
  · obtain ⟨i, hi, rfl⟩ := List.mem_map.1 hg
    rw [List.mem_range] at hi
    unfold ceilDiv at hi
    dsimp only
    omega

/-! ### SCPY, SMOV and SWAIT -/

theorem scpyBody_of_reaches {s : State} {w : Place} {o : Op} (hs : s.reaches w (strSub o.word % 4) (o.reg 0) (o.reg 2) = true)
    (hd : s.reaches w (strSub o.word / 4 % 4) (o.reg 1) (o.reg 2) = true) {r : State × List (Option Byte)} {bs : List Byte} {q : State × Bool}
    (hr : r = s.spaceReads w (strSub o.word % 4) (o.reg 0) (o.reg 2)) (hbs : whole r.2 = some bs)
    (hq : q = r.1.spaceWrite w.core w.x (strSub o.word / 4 % 4) (o.reg 1) bs) (hok : q.2 = true) : scpyBody s w o = (q.1, .done 0 0) := by
  subst hr hq
  simp only [scpyBody, hs, hd, hbs, hok, Bool.not_true, Bool.or_self, Bool.false_eq_true, if_false, if_true]

theorem smovBody_of_reaches {s : State} {w : Place} {o : Op} (h1 : s.reachesDesc w (o.desc 0) = true) (h2 : s.reachesDesc w (o.desc 1) = true)
    {r : State × List (Option Byte)} {bs : List Byte} {q : State × Bool} (hr : r = s.recordReads w (o.desc 0)) (hbs : whole r.2 = some bs)
    (hq : q = r.1.writeRecords w.core w.x (o.desc 1) 0 bs) (hok : q.2 = true) : smovBody s w o = (q.1, .done 0 0) := by
  subst hr hq
  simp only [smovBody, h1, h2, hbs, hok, Bool.not_true, Bool.or_self, Bool.false_eq_true, if_false, if_true]

theorem swaitBody_of_reaches {s : State} {w : Place} {o : Op} (h : s.reaches w (strSub o.word % 2) (par48 (o.reg 0)) 8 = true)
    (hbad : s.coreBad (s.spaceAddr w (strSub o.word % 2) (par48 (o.reg 0))) 8 = false) :
    swaitBody s w o = (s, if o.reg 1 ≤ leNat (s.rawRead (s.spaceAddr w (strSub o.word % 2) (par48 (o.reg 0))) 8) then .done 0 0 else .blocked) := by
  have hsp : strSub o.word % 2 ≤ 1 := by omega
  simp only [swaitBody, h, hbad, s.sourceBytes_near w hsp, Bool.not_true, Bool.false_eq_true, if_false]
  split <;> rfl

/-- Settles O13: SCPY and SMOV write what they have read; SWAIT compares the word as it stands. -/
theorem localMoves : Obligations.LocalMoves := by
  rintro n x f s w rfl
  refine ⟨?_, ?_, ?_, ?_⟩
  · rintro src dst h rfl rfl hs hd hrs hrd hbad
    have hr := State.spaceReads_near hs hbad
    have hw := s.spaceWrite_near (f.place n x) hd (f.op.reg 1)
      (s.rawRead (s.spaceAddr (f.place n x) (strSub f.op.word % 4) (f.op.reg 0)) (f.op.reg 2))
    have hbody := scpyBody_of_reaches hrs hrd hr.symm (whole_map_some _) hw.symm rfl
    exact exec_of_done h hbody
  · rintro src dst r bs q h rfl rfl hrs hrd hr hbs hq hok
    exact exec_of_done h (scpyBody_of_reaches hrs hrd hr hbs hq hok)
  · rintro d1 d2 r bs q h rfl rfl h1 h2 hr hbs hq hok
    exact exec_of_done h (smovBody_of_reaches h1 h2 hr hbs hq hok)
  · rintro sp h rfl hr hbad
    refine (runCore_dispatched h swaitBody).trans ?_
    rw [swaitBody_of_reaches hr hbad]
    exact congrArg Host.Outcome.next (apply_ite (s.endOp n x .stream f) _ _ _)

end Sys2Proof.Machine
end

section
/-! PROOFS. A stream operation on a region that its context does not reach (R111, R119), with O19; and the operations that send messages
(R142, R145, R274), with O14. -/

namespace Sys2Proof.Machine

/-! ### Faults of an operation -/

/-- A fault of a context that has none yet enters it into the context table; its record and its event change no context. -/
theorem State.faultContext_ctxs_of_live (s : State) (n : Nat) (x : Ctx) (code : Nat) (pc : Dword) (step att : Nat)
    (h : (s.ctx n x).state ≠ .faulted) (hb : ¬ ((s.ctx n x).state = .busy ∧ (s.ctx n x).busyAfter = .faulted)) :
    (s.faultContext n x code pc step att).ctxs = (s.setCtx n x ((s.ctx n x).faulted code pc)).ctxs := by
  have hlive : ((s.ctx n x).state = .faulted || (s.ctx n x).state = .busy && (s.ctx n x).busyAfter = .faulted) = false := by
    simp only [h, decide_false, Bool.false_or, Bool.and_eq_false_iff, decide_eq_false_iff_not]
    exact not_and_or.1 hb
  unfold State.faultContext
  simp only [hlive, Bool.false_eq_true, if_false, State.event_ctxs]
  rw [State.capture_of_sev (by decide) (by decide), State.enqueueRec_ctxs]
  rfl

/-- A fault of a stream operation leaves its context FAULTED, with the code and the bundle address, and without its operation and the rest of
its queue; memory and the other contexts stay (R119). -/
theorem State.opFault_stream (s : State) (n : Nat) (x : Ctx) (op : Op) (code : Nat)
    (h : (s.ctx n x).state ≠ .faulted) (hb : ¬ ((s.ctx n x).state = .busy ∧ (s.ctx n x).busyAfter = .faulted)) :
    (s.opFault n x .stream op code).mem = s.mem ∧ (∀ m y, (m, y) ≠ (n, x) → (s.opFault n x .stream op code).ctx m y = s.ctx m y) ∧
      (s.opFault n x .stream op code).ctx n x =
        { s.ctx n x with state := .faulted, fault := code, faultAddr := op.pc, halting := false, fS := none, qS := [] } := by
  have hctx : (s.modCtx n x (fun c => (c.setFlight .stream none).setQueue .stream [])).ctx n x = { s.ctx n x with fS := none, qS := [] } := by
    rw [State.modCtx, ctx_setCtx]; rfl
  have hctxs := (s.modCtx n x (fun c => (c.setFlight .stream none).setQueue .stream [])).faultContext_ctxs_of_live n x code op.pc op.step op.att
    (by rw [hctx]; exact h) (by rw [hctx]; exact hb)
  refine ⟨s.opFault_mem n x .stream op code, fun m y hne => ?_, ?_⟩
  · rw [State.opFault, ctx_of_ctxs hctxs, ctx_setCtx_ne _ _ hne, State.modCtx, ctx_setCtx_ne _ _ hne]
  · rw [State.opFault, ctx_of_ctxs hctxs, ctx_setCtx, hctx]
    rfl

/-! ### Regions out of reach -/

/-- A stream operation whose body faults with ACCESS at once. -/
theorem exec_of_access {n : Nat} {x : Ctx} {opc : Nat} {f : Flight} {s : State} (h : Dispatched n x .stream opc f s)
    (hf : (s.ctx n x).state ≠ .faulted) (hb : ¬ ((s.ctx n x).state = .busy ∧ (s.ctx n x).busyAfter = .faulted))
    {body : State → Place → Op → State × OpEnd} (hbody : body s (f.place n x) f.op = (s, .fault fAccess)) :
    ∃ t, runCore n x .stream opc body s = .next t ∧ t.mem = s.mem ∧ (∀ m y, (m, y) ≠ (n, x) → t.ctx m y = s.ctx m y) ∧
      t.ctx n x = { s.ctx n x with state := .faulted, fault := 6, faultAddr := f.op.pc, halting := false, fS := none, qS := [] } :=
  ⟨_, by rw [runCore_dispatched h, hbody]; rfl, s.opFault_stream n x f.op 6 hf hb⟩

/-- Settles O19: the check of the region comes first in each of the six bodies. -/
theorem streamAccess : Obligations.StreamAccess := by
  rintro n x f s w rfl hf hb e he hdis hout
  simp only [List.mem_cons, List.not_mem_nil, or_false] at he
  rcases he with rfl | rfl | rfl | rfl | rfl | rfl
  · refine exec_of_access hdis hf hb (body := smovBody) (if_pos ?_)
    rcases Bool.and_eq_false_iff.1 hout with h | h <;> simp only [h, Bool.not_false, Bool.true_or, Bool.or_true]
  · refine exec_of_access hdis hf hb (body := scpyBody) (if_pos ?_)
    rcases Bool.and_eq_false_iff.1 hout with h | h <;> simp only [h, Bool.not_false, Bool.true_or, Bool.or_true]
  · exact exec_of_access hdis hf hb (body := sputBody) (if_pos (congrArg not hout))
  · exact exec_of_access hdis hf hb (body := sgetBody) (if_pos (congrArg not hout))
  · exact exec_of_access hdis hf hb (body := slineBody) (if_pos (congrArg not hout))
  · exact exec_of_access hdis hf hb (body := swaitBody) (if_pos (congrArg not hout))

/-! ### Operations that send -/

/-- A dispatched operation whose messages are on their way waits for them. -/
theorem exec_of_waiting {n : Nat} {x : Ctx} {k : Eng} {opc : Nat} {f : Flight} {s t : State} (h : Dispatched n x k opc f s)
    {body : State → Place → Op → State × OpEnd} {ids : List Nat} {st : Nat} (hb : body s (f.place n x) f.op = (t, .waiting ids st)) :
    runCore n x k opc body s = .next (t.sentAs n x k f ids st) := by
  rw [runCore_dispatched h body, hb]
  rfl

theorem whole_isSome (bs : List (Option Byte)) : (whole bs).isSome = bs.all (·.isSome) := by
  unfold whole
  split
  next h => rw [h]; rfl
  next h => rw [Bool.not_eq_true] at h; rw [h]; rfl

/-- Where every byte was delivered, every packet carries its bytes whole. -/
theorem State.writePackets_whole (s : State) (w : Place) (dst addr : Nat) {bs : List (Option Byte)} (h : bs.all (·.isSome) = true) :
    ∀ p ∈ s.writePackets w dst addr bs, p.2.2 = true := by
  intro p hp
  obtain ⟨g, -, rfl⟩ := List.mem_map.1 hp
  refine (whole_isSome _).trans ?_
  exact List.all_eq_true.2 fun b hb => List.all_eq_true.1 h b (List.mem_of_mem_drop (List.mem_of_mem_take hb))

theorem messages_map {α β : Type} (addr : Nat) (f : α → β) (ps : List α) : messages addr (ps.map f) = (messages addr ps).map (List.map f) := by
  unfold messages
  split
  · rw [List.map_map, List.map_map]; rfl
  · rfl

section
variable {s : State} {w : Place} {o : Op} {r : State × List (Option Byte)} {q : State × List Nat}

/-- An SPUT sends the records of D1 as WRITE packets: to one destination, or for the cores of a mask. -/
theorem sputBody_of_delivered (hreach : s.reachesDesc w (o.desc 0) = true)
    (hmesh : bitOf (strSub o.word) 0 = true → isCoreAddr (o.reg 0 % 2 ^ 48) = true) (hr : r = s.recordReads w (o.desc 0))
    (hall : r.2.all (·.isSome) = true) {ps : List (Nat × Packet)}
    (hps : ps = (r.1.writePackets w (o.reg 0 / 2 ^ 48) (o.reg 0 % 2 ^ 48) r.2).map (fun p =>
      (p.1, if bitOf (strSub o.word) 0 then { p.2.1 with mesh := true, cmask := o.reg 1 % 2 ^ 24 } else p.2.1)))
    (hq : q = r.1.sendFor w ((messages (o.reg 0 % 2 ^ 48) ps).map (fun g => ((g.map (·.1)).headD 0, g.map (·.2))))) :
    sputBody s w o = (q.1, .waiting q.2 0) := by
  have hclosed : (bitOf (strSub o.word) 0 && !isCoreAddr (o.reg 0 % 2 ^ 48)) = false := by
    cases h : bitOf (strSub o.word) 0
    · rfl
    · rw [hmesh h]; rfl
  have hwhole := r.1.writePackets_whole w (o.reg 0 / 2 ^ 48) (o.reg 0 % 2 ^ 48) hall
  subst hr hps hq
  simp only [sputBody, hreach, hclosed, Bool.not_true, Bool.false_eq_true, if_false, messages_map, List.map_map, Function.comp_def]
  rw [if_neg]
  · rw [List.any_map, Bool.not_eq_true, List.any_eq_false]
    intro p hp
    simp only [Function.comp_apply, hwhole p hp, Bool.not_true, Bool.false_eq_true, not_false_eq_true]

theorem sgetBody_of_reaches (hreach : s.reachesDesc w (o.desc 1) = true)
    (hq : q = s.sendFor w ((getPieces (o.reg 0 % 2 ^ 48) (o.desc 1).total).map (fun g =>
      (g.1, [{ s.opPacket w (o.reg 0 / 2 ^ 48) (o.reg 0 % 2 ^ 48 + g.1) (.readReq g.2) with
        base := o.reg 0 % 2 ^ 48, span := (o.desc 1).total }])))) : sgetBody s w o = (q.1, .waiting q.2 0) := by
  subst hq
  simp only [sgetBody, hreach, Bool.not_true, Bool.false_eq_true, if_false]

theorem slineBody_of_delivered (hreach : s.reachesDesc w (o.desc 0) = true) (hr : r = s.recordReads w (o.desc 0))
    (hall : r.2.all (·.isSome) = true) {ps : List Packet}
    (hps : ps = (r.1.writePackets w s.boot.node (o.reg 0 % 2 ^ 48) r.2).map (fun p =>
      ({ p.2.1 with line := true, dim := strSub o.word % 4, lmask := [s.lineMask (strSub o.word % 4)] } : Packet)))
    (hq : q = (messages (o.reg 0 % 2 ^ 48) ps).foldl (fun (q : State × List Nat) g =>
      ((q.1.startLine w.core g (some (w.core, w.x)) none).1, q.2 ++ (q.1.startLine w.core g (some (w.core, w.x)) none).2)) (r.1, [])) :
    slineBody s w o = (q.1, if q.2 = [] then .done 0 0 else .waiting q.2 0) := by
  have hwhole := r.1.writePackets_whole w s.boot.node (o.reg 0 % 2 ^ 48) hall
  subst hr hps hq
  simp only [slineBody, hreach, Bool.not_true, Bool.false_eq_true, if_false, messages_map, List.foldl_map, List.map_map, Function.comp_def]
  rw [if_neg]
  · rw [List.any_map, Bool.not_eq_true, List.any_eq_false]
    intro p hp
    simp only [Function.comp_apply, hwhole p hp, Bool.not_true, Bool.false_eq_true, not_false_eq_true]

end

/-- Settles O14: where the source delivers every byte the packets are whole, and the operation sends them and waits. -/
theorem remoteMoves : Obligations.RemoteMoves := by
  rintro n x f s w d1 d2 rfl rfl rfl
  refine ⟨?_, ?_, ?_, ?_, ?_⟩
  · rintro r ps q h hsub hreach hr hall rfl hq
    refine exec_of_waiting h (sputBody_of_delivered hreach (fun e => absurd e (by rw [hsub]; decide)) hr hall rfl ?_)
    simp only [hsub, Bool.false_eq_true, if_false, messages_map, List.map_map, Function.comp_def]
    exact hq
  · rintro r ps q h hsub hreach hcore hr hall hps hq
    refine exec_of_waiting h (sputBody_of_delivered hreach (fun _ => hcore) hr hall ?_ hq)
    simp only [hsub, if_true]
    exact hps
  · rintro q h hreach hq
    exact exec_of_waiting h (sgetBody_of_reaches hreach hq)
  · rintro q h rfl
    exact exec_of_waiting h (body := satomBody) rfl
  · rintro r ps q h hreach hr hall hps hq
    refine (runCore_dispatched h slineBody).trans ?_
    rw [slineBody_of_delivered hreach hr hall hps hq]
    exact congrArg Host.Outcome.next (apply_ite (q.1.endOp n x .stream f) _ _ _)

end Sys2Proof.Machine
end

section
/-! PROOFS. QPUSH and QPOP (R144, R203, R207, R213): each outcome of their bodies, with O16. -/

namespace Sys2Proof.Machine

/-! ### QPUSH -/

section
variable {s : State} {w : Place} {o : Op} (hen : s.slotEn (coreSlot w.core) = true) (hreach : s.reachesDesc w (o.desc 0) = true)
include hen hreach

theorem qpushBody_of_ended (hstep : mbStep (o.reg 1) = (s.ctx w.core w.x).step) (hpast : s.attPast (mbStep (o.reg 1)) (s.ctx w.core w.x).att = true) :
    qpushBody s w o = (s.bump (0x3280 + coreSlot w.core) 9 1, .done 0 0) := by
  simp only [qpushBody, hen, hreach, hpast, decide_eq_true hstep, Bool.not_true, Bool.and_self, Bool.false_eq_true, if_false, if_true]

variable (hlive : mbStep (o.reg 1) = (s.ctx w.core w.x).step → s.attPast (mbStep (o.reg 1)) (s.ctx w.core w.x).att = false)
include hlive

/-- A QPUSH of a live attempt looks for its credit. -/
theorem qpushBody_of_live : qpushBody s w o =
    match (s.slot (coreSlot w.core)).credit (pushDst (o.reg 0)) (pushQueue (o.reg 0)) with
    | none => (s, if s.noWay (pushDst (o.reg 0)).node then .done 0 2 else .blocked)
    | some cr =>
      if !cr.outbound.contains (mbKey (s.sendWord (coreSlot w.core) (o.reg 1))) && cr.free = 0 then
        (s, if s.noWay (pushDst (o.reg 0)).node then .done 0 2 else .blocked)
      else
        let r := s.recordReads w (o.desc 0)
        match whole r.2 with
        | none => (r.1, .fault fMemoryUc)
        | some bs =>
          (if cr.outbound.contains (mbKey (s.sendWord (coreSlot w.core) (o.reg 1))) then r.1
            else (r.1.modSlot (coreSlot w.core) (fun v => v.setCredit { cr with free := cr.free - 1, outbound := cr.outbound ++
              [mbKey (s.sendWord (coreSlot w.core) (o.reg 1))] })).bump (0x3520 + coreSlot w.core) 4 1).sendPart w (pushDst (o.reg 0)) (pushQueue (o.reg 0))
              (s.sendWord (coreSlot w.core) (o.reg 1)) bs !cr.outbound.contains (mbKey (s.sendWord (coreSlot w.core) (o.reg 1))) := by
  have hnot : (decide (mbStep (o.reg 1) = (s.ctx w.core w.x).step) && s.attPast (mbStep (o.reg 1)) (s.ctx w.core w.x).att) = false := by
    by_cases h : mbStep (o.reg 1) = (s.ctx w.core w.x).step
    · rw [hlive h, Bool.and_false]
    · rw [decide_eq_false h, Bool.false_and]
  simp only [qpushBody, hen, hreach, hnot, Bool.not_true, Bool.false_eq_true, if_false] <;> rfl

theorem qpushBody_of_credit {cr : Credit} {r : State × List (Option Byte)} {bs : List Byte}
    (hcr : (s.slot (coreSlot w.core)).credit (pushDst (o.reg 0)) (pushQueue (o.reg 0)) = some cr)
    (hout : cr.outbound.contains (mbKey (s.sendWord (coreSlot w.core) (o.reg 1))) = false) (hfree : 0 < cr.free)
    (hr : r = s.recordReads w (o.desc 0)) (hbs : whole r.2 = some bs) :
    qpushBody s w o = ((r.1.modSlot (coreSlot w.core) (fun v => v.setCredit { cr with free := cr.free - 1, outbound := cr.outbound ++
      [mbKey (s.sendWord (coreSlot w.core) (o.reg 1))] })).bump (0x3520 + coreSlot w.core) 4 1).sendPart w (pushDst (o.reg 0)) (pushQueue (o.reg 0))
      (s.sendWord (coreSlot w.core) (o.reg 1)) bs true := by
  subst hr
  rw [qpushBody_of_live hen hreach hlive]
  simp only [hcr, hout, decide_eq_false (Nat.pos_iff_ne_zero.1 hfree), hbs, Bool.not_false, Bool.and_false, Bool.false_eq_true, if_false]

theorem qpushBody_of_joined {cr : Credit} {r : State × List (Option Byte)} {bs : List Byte}
    (hcr : (s.slot (coreSlot w.core)).credit (pushDst (o.reg 0)) (pushQueue (o.reg 0)) = some cr)
    (hout : cr.outbound.contains (mbKey (s.sendWord (coreSlot w.core) (o.reg 1))) = true)
    (hr : r = s.recordReads w (o.desc 0)) (hbs : whole r.2 = some bs) :
    qpushBody s w o = r.1.sendPart w (pushDst (o.reg 0)) (pushQueue (o.reg 0)) (s.sendWord (coreSlot w.core) (o.reg 1)) bs false := by
  subst hr
  rw [qpushBody_of_live hen hreach hlive]
  simp only [hcr, hout, hbs, Bool.not_true, Bool.false_and, Bool.false_eq_true, if_false, if_true]

theorem qpushBody_of_no_credit (hway : s.noWay (pushDst (o.reg 0)).node = false)
    (hcr : ∀ cr, (s.slot (coreSlot w.core)).credit (pushDst (o.reg 0)) (pushQueue (o.reg 0)) = some cr →
      cr.outbound.contains (mbKey (s.sendWord (coreSlot w.core) (o.reg 1))) = false ∧ cr.free = 0) : qpushBody s w o = (s, .blocked) := by
  rw [qpushBody_of_live hen hreach hlive]
  split
  next => simp only [hway, Bool.false_eq_true, if_false]
  next cr h =>
    obtain ⟨hout, hfree⟩ := hcr cr h
    simp only [hout, hfree, hway, decide_true, Bool.not_false, Bool.and_self, if_true, Bool.false_eq_true, if_false]

end

/-! ### QPOP -/

theorem slot_setSlot (s : State) (k : Nat) (v : Slot) : (s.setSlot k v).slot k = v := by
  simp [State.slot, State.setSlot]

theorem slot_of_slots {s t : State} (h : t.slots = s.slots) (k : Nat) : t.slot k = s.slot k := by simp only [State.slot, h]

theorem reg_setReg (c : Context) (g : Nat) (v : Dword) : (c.setReg g v).reg g = v := by
  simp [Context.reg, Context.setReg]

/-- What a QPOP leaves in its context: the word in its register, the word's step and attempt, and its record. -/
theorem State.popWord_done (u : State) (n : Nat) (x : Ctx) (f : Flight) (word : Dword) :
    let t := (u.popWord (f.place n x) f.op word).doneAs n x .stream f 0 0
    (t.ctx n x).reg (strGa f.op.word) = word ∧ (t.ctx n x).step = mbStep word.toNat ∧ (t.ctx n x).att = mbAtt word.toNat ∧
      (t.ctx n x).flight .stream = some (f.ended 0 0) ∧ t.mem = u.mem ∧ t.slots = u.slots := by
  simp only [State.popWord, Flight.place, State.doneAs, State.modCtx, ctx_setCtx, Context.setFlight, Context.flight]
  exact ⟨reg_setReg _ _ _, trivial, trivial, trivial, rfl, rfl⟩

section
variable {s : State} {w : Place} {o : Op} (hen : s.slotEn (coreSlot w.core) = true)
include hen

/-- A restart word comes before any entry (R213). -/
theorem qpopBody_of_restart (hre : (s.slot (coreSlot w.core)).restart.contains (corePos w.core) = true) : qpopBody s w o =
    ((s.modSlot (coreSlot w.core) (fun v => { v with restart := v.restart.filter (· ≠ corePos w.core) })).popWord w o
      (s.slot (coreSlot w.core)).restartWord, .done 0 0) := by
  simp only [qpopBody, hen, hre, Bool.not_true, Bool.false_eq_true, if_false, if_true]

theorem qpopBody_of_entry (hre : (s.slot (coreSlot w.core)).restart.contains (corePos w.core) = false)
    (hreach : s.reachesDesc w (o.desc 1) = true) {u : State}
    (hu : u = if popMode (strSub o.word) ≠ 0 ∧ ((s.slot (coreSlot w.core)).nextFor (popMode (strSub o.word)) (corePos w.core)).isNone then
      s.decide (coreSlot w.core) (popMode (strSub o.word)) else s) {q : QKind} {e : QEntry} {taken : Nat}
    (hnext : (u.slot (coreSlot w.core)).nextFor (popMode (strSub o.word)) (corePos w.core) = some (q, e, taken)) :
    qpopBody s w o = u.takePart w o (popMode (strSub o.word)) q e taken := by
  subst hu
  simp only [qpopBody, hen, hre, hreach, Bool.not_true, Bool.false_eq_true, if_false, Bool.and_eq_true, decide_eq_true_eq, hnext]

end

theorem takePart_of_part {u : State} {w : Place} {o : Op} (mode : Nat) (q : QKind) {e : QEntry} (taken : Nat) {p : PartSt}
    (hp : e.part (corePos w.core) = some p) {r : State × Option (List Byte)} {bs : List Byte}
    (hr : r = if p.spilled then u.hbmRead (u.slotKey (coreSlot w.core)) (u.spillAddr (coreSlot w.core) q e.ring (corePos w.core)) p.size
      else (u, some p.bytes)) (hbs : r.2 = some bs) (hsize : p.size = (o.desc 1).total)
    (hok : (r.1.writeRecords w.core w.x (o.desc 1) 0 bs).2 = true) :
    u.takePart w o mode q e taken =
      (((r.1.writeRecords w.core w.x (o.desc 1) 0 bs).1.popped (coreSlot w.core) (corePos w.core) mode q e taken).popWord w o p.word, .done 0 0) := by
  subst hr
  simp only [State.takePart, hp, hsize, ne_eq, not_true_eq_false, if_false] at hbs hok ⊢
  simp only [hbs, hok, Bool.not_true, Bool.false_eq_true, if_false]

theorem takePart_of_size {u : State} {w : Place} {o : Op} (mode : Nat) (q : QKind) {e : QEntry} (taken : Nat) {p : PartSt}
    (hp : e.part (corePos w.core) = some p) (hsize : p.size ≠ (o.desc 1).total) : u.takePart w o mode q e taken = (u, .fault fDescriptor) := by
  simp only [State.takePart, hp, if_pos hsize]

/-- Settles O16: each clause is one outcome of the two bodies. -/
theorem queueOps : Obligations.QueueOps := by
  rintro n x f s w k rfl rfl hen
  refine ⟨?_, ?_, ?_, ?_⟩
  · rintro dst qu key h hreach rfl rfl rfl hlive
    refine ⟨?_, ?_, ?_⟩
    · rintro cr r bs q hcr hout hfree hr hbs rfl
      refine (runCore_dispatched h qpushBody).trans ?_
      rw [qpushBody_of_credit hen hreach hlive hcr hout hfree hr hbs]
      rfl
    · rintro cr r bs q hcr hout hr hbs rfl
      refine (runCore_dispatched h qpushBody).trans ?_
      rw [qpushBody_of_joined hen hreach hlive hcr hout hr hbs]
      rfl
    · intro hcr hway
      refine (runCore_dispatched h qpushBody).trans ?_
      rw [qpushBody_of_no_credit hen hreach hlive hway hcr]
      rfl
  · intro h hreach hstep hpast
    exact exec_of_done h (qpushBody_of_ended hen hreach hstep hpast)
  · rintro word h hre rfl
    obtain ⟨hreg, hstep, hatt, hfl, hmem, hslots⟩ := (s.modSlot (coreSlot n) (fun v =>
      { v with restart := v.restart.filter (· ≠ corePos n) })).popWord_done n x f (s.slot (coreSlot n)).restartWord
    refine ⟨_, exec_of_done h (qpopBody_of_restart hen hre), hreg, hstep, hatt, hfl, ?_, hmem⟩
    exact congrArg Slot.restart ((slot_of_slots hslots _).trans (slot_setSlot s _ _))
  · rintro u q e taken p r bs h hre hreach hu hnext hp hr hbs
    have hbody := qpopBody_of_entry hen hre hreach hu hnext
    refine ⟨fun hsize hok => ?_, fun hsize => ?_⟩
    · rw [takePart_of_part (w := f.place n x) (o := f.op) _ q taken hp hr hbs hsize hok] at hbody
      obtain ⟨hreg, hstep, hatt, hfl, hmem, -⟩ := ((r.1.writeRecords n x (f.op.desc 1) 0 bs).1.popped (coreSlot n) (corePos n)
        (popMode (strSub f.op.word)) q e taken).popWord_done n x f p.word
      exact ⟨_, exec_of_done h hbody, hreg, hstep, hatt, hfl, hmem.trans (State.popped_mem ..)⟩
    · refine (runCore_dispatched h qpopBody).trans ?_
      rw [hbody, takePart_of_size (w := f.place n x) (o := f.op) _ q taken hp hsize]
      rfl

end Sys2Proof.Machine
end

section
/-! PROOFS. SNOTE, SREDUCE and SMCAST behind their gate (R223 to R237), with O17. -/

namespace Sys2Proof.Machine

theorem gated_of_go {s : State} {w : Place} {o : Op} (h : s.xgate w.core o = .go) (body : State → Place → Op → State × OpEnd) :
    gated body s w o = body s w o := by
  simp only [gated, h]

theorem gated_of_ended {s : State} {w : Place} {o : Op} (h : s.xgate w.core o = .ended) (body : State → Place → Op → State × OpEnd) :
    gated body s w o = (s, .done 0 0) := by
  simp only [gated, h]

section
variable {s : State} {w : Place} {o : Op} {g : Geo} {emu sb8 : Bool}

/-- A dense SREDUCE of a slice that another member owns, before its leaf is sent: it sends the leaf and is done (R225). -/
theorem sreduceDense_of_leaf (howns : s.ownsSlice g.slot g.slice = false) (hin : s.holds w (o.desc 0) = true)
    (hread : s.readable w (o.desc 0) = true) (hnew : s.group.reports.contains (g.report 3) = false)
    (hemu : emu = (s.ctx w.core w.x).emulate) (hsb8 : sb8 = (strSub o.word % 2 == 1 && s.bankValid g.slot g.layer g.rd))
    {u : State × List (List Word)} (hu : u = (if strSub o.word % 2 = 1 ∧ sb8 = false then s.bump 0x3290 8 1 else s).elems32 w emu (o.desc 0))
    {r : State} {p : Partial} (hleaf : u.1.leaf g emu sb8 (s.attOf o.xstep) u.2 = (r, some p)) :
    sreduceDense s w o g = ((r.note (g.report 3)).climb g.slot 18 p, .done 0 0) := by
  subst hu hemu
  have hwire : (decide (strSub o.word % 2 = 1) && s.bankValid g.slot g.layer g.rd) = sb8 := by rw [hsb8, beq_eq_decide]
  have hcount : (decide (strSub o.word % 2 = 1) && !sb8) = decide (strSub o.word % 2 = 1 ∧ sb8 = false) := by
    rw [Bool.decide_and]; cases sb8 <;> simp
  simp only [sreduceDense, howns, hin, hread, hnew, hwire, hcount, decide_eq_true_eq, hleaf, Bool.false_and, Bool.not_true, Bool.not_false,
    Bool.or_self, Bool.false_eq_true, if_false, if_true]

/-- The word of a lane of a sum: sums are held in FP32 (R227). -/
def Lane.word : Lane → Word
  | .esc u => u
  | .code _ => 0

/-- A dense SREDUCE at the owner, its leaf sent and the sum there: it writes the sum to D2 (R227). -/
theorem sreduceDense_of_sum (howns : s.ownsSlice g.slot g.slice = true) (hin : s.holds w (o.desc 0) = true)
    (hread : s.readable w (o.desc 0) = true) (hin2 : s.holds w (o.desc 1) = true) (hsent : s.group.reports.contains (g.report 3) = true)
    {y : OwnerSum} (hy : s.group.sums.find? (fun z => z.slot == g.slot && z.layer == g.layer && z.slice == g.slice && z.pos == g.pos &&
      z.att == s.attOf o.xstep) = some y) :
    sreduceDense s w o g = ((s.writeSum w (o.desc 1) (y.lanes.map Lane.word).toArray).note (g.report 5),
      .done 0 0) := by
  simp only [sreduceDense, howns, hin, hread, hin2, hsent, hy, Bool.and_false, Bool.not_true, Bool.or_self, Bool.false_eq_true, if_false, if_true]
  rfl

/-- A SREDUCE of a factor-exchanged slice, its parts not sent yet: it sends them, and is done where another member owns the slice or every part is
there (R233). -/
theorem sreduceFactor_of_parts (hin2 : s.holds w (o.desc 1) = true) (hread2 : s.readable w (o.desc 1) = true)
    (hfirst : s.posIndex g.slot g.pos = 0 → s.holds w (o.desc 0) = true ∧ s.readable w (o.desc 0) = true)
    (hnew : s.group.reports.contains (g.report 3) = false) {u v : State}
    (hu : u = if s.posIndex g.slot g.pos = 0 then s.sendFactor g.slot ⟨g.layer, g.slice, g.pos, s.xchRank g.slot, s.group.exchStep, s.attOf o.xstep,
      false, s.recordBytes w.core w.x (o.desc 0) 0 (o.desc 0).total, 0, 0⟩ else s)
    (hv : v = (u.sendFactor g.slot ⟨g.layer, g.slice, g.pos, u.xchRank g.slot, u.group.exchStep, s.attOf o.xstep, true,
      u.recordBytes w.core w.x (o.desc 1) 0 (o.desc 1).total, 0, 0⟩).note (g.report 3))
    (hdone : s.ownsSlice g.slot g.slice = false ∨ v.factorsIn g.slot g.layer g.slice v.group.exchStep (s.attOf o.xstep) = true) :
    sreduceFactor s w o g = (v, .done 0 0) := by
  have hregions : (decide (s.posIndex g.slot g.pos = 0) && !s.holds w (o.desc 0)) = false ∧
      (decide (s.posIndex g.slot g.pos = 0) && !s.readable w (o.desc 0)) = false := by
    by_cases h : s.posIndex g.slot g.pos = 0
    · rw [(hfirst h).1, (hfirst h).2]; simp
    · simp [h]
  have hend : (!s.ownsSlice g.slot g.slice || v.factorsIn g.slot g.layer g.slice v.group.exchStep (s.attOf o.xstep)) = true := by
    rcases hdone with h | h <;> simp [h]
  subst hu hv
  simp only [sreduceFactor, hin2, hread2, hregions.1, hregions.2, hnew, Bool.not_true, Bool.or_self, Bool.false_eq_true, if_false]
  exact if_pos hend

/-- The agreed exponents that a delivery carries: those of the position's sum, none for a factor-exchanged slice (R236). -/
def State.deliveryExps (s : State) (g : Geo) (factor : Bool) : List Nat :=
  match s.group.sums.find? (fun x => x.slot == g.slot && x.layer == g.layer && x.slice == g.slice && x.pos == g.pos) with
  | some x => if factor then [] else x.exps
  | none => []

/-- The delivery of an SMCAST, from the state in which its source has been read. -/
def State.smcastDelivery (s : State) (o : Op) (g : Geo) (exps : List Nat) (bs : List Byte) : Delivery :=
  { owner := s.here g.slot, layer := g.layer, slice := g.slice, pos := g.pos, step := s.group.exchStep, att := s.attOf o.xstep,
    base := (o.desc 1).base, row := (o.desc 0).tB * (o.desc 0).recSize, pitch := (o.desc 1).ts * (o.desc 1).recSize, bytes := bs, exps := exps,
    factor := g.e.factor, key := g.key }

/-- The LINE packet that carries a delivery down the spanned dimensions (R237). -/
def State.smcastPacket (u : State) (w : Place) (o : Op) (g : Geo) (del : Delivery) (d : Nat) (ds : List Nat) : Packet :=
  { dst := u.boot.node, src := 0, sunit := w.core, cls := 2, key := g.key, addr := (o.desc 1).base, line := true, stages := ds.length, dim := d,
    order := ds, lmask := (d :: ds).map (maskOf (u.xchNodes g.slot)), body := .exchDelivery del }

/-- An SMCAST of a slice that this member owns delivers to the member slots of the package, and down the spanned dimensions. -/
theorem smcastBody_of_owner {e : LayerEntry} (he : s.xwEntry (coreSlot w.core) (o.reg 0) = some e)
    (hg : g = s.geo (coreSlot w.core) (xwLayer (o.reg 0)) e (xwSlice (o.reg 0)) (corePos w.core))
    (howns : s.ownsSlice (coreSlot w.core) g.slice = true) (hready : e.factor = true ∨ s.group.reports.contains (g.report 5) = true)
    (hreach : s.reachesDesc w (o.desc 0) = true) {r : State × List (Option Byte)} (hr : r = s.recordReads w (o.desc 0)) {bs : List Byte}
    (hbs : whole r.2 = some bs) {del : Delivery} (hdel : del = r.1.smcastDelivery o g (s.deliveryExps g e.factor) bs) {own : State × Nat}
    (hown : own = if r.1.memberSlots (r.1.here (coreSlot w.core)) = [] then (r.1, 0) else r.1.deliver del) :
    smcastBody s w o =
      if own.2 ≠ 0 then (own.1, .fault (if own.2 = 1 then fAccess else fMemoryUc))
      else match spanned (own.1.xchNodes (coreSlot w.core)) with
        | [] => (own.1, .done 0 0)
        | d :: ds =>
          let q := own.1.startStages w.core (some (w.core, w.x)) none ds.length (own.1.smcastPacket w o g del d ds)
          (q.1, if q.2 = [] then .done 0 0 else .waiting q.2 0) := by
  have hwait : (!e.factor && !s.group.reports.contains (g.report 5)) = false := by
    rcases hready with h | h
    · rw [h]; rfl
    · rw [h, Bool.not_true, Bool.and_false]
  subst hr hown hdel
  subst hg
  simp only [smcastBody, he, howns, hwait, hreach, hbs, Bool.not_true, Bool.false_eq_true, if_false]
  rfl

end

/-- The body of an SREDUCE is that of its slice's kind. -/
theorem sreduceBody_of_entry {s : State} {w : Place} {o : Op} {e : LayerEntry} (he : s.xwEntry (coreSlot w.core) (o.reg 0) = some e) {g : Geo}
    (hg : g = s.geo (coreSlot w.core) (xwLayer (o.reg 0)) e (xwSlice (o.reg 0)) (corePos w.core)) :
    sreduceBody s w o = if e.factor then sreduceFactor s w o g else sreduceDense s w o g := by
  subst hg
  simp only [sreduceBody, he]

/-- Settles O17: behind the gate, each clause is one outcome of the three bodies. -/
theorem exchangeOps : Obligations.ExchangeOps := by
  rintro n x f s w k v rfl rfl rfl
  refine ⟨?_, ?_, ?_, ?_, ?_, ?_⟩
  · intro h hgo
    exact exec_of_done h (gated_of_go (w := f.place n x) hgo snoteBody)
  · rintro e g emu sb8 u r p h hgo he hfac hg howns hin hread hnew hemu hsb8 hu hleaf
    have hslot : g.slot = coreSlot n := by rw [hg]; rfl
    rw [← hslot] at howns hsb8
    refine exec_of_done h ((gated_of_go (w := f.place n x) hgo sreduceBody).trans ((sreduceBody_of_entry he hg).trans ?_))
    rw [hfac, sreduceDense_of_leaf (w := f.place n x) howns hin hread hnew hemu hsb8 hu hleaf, hslot]
    rfl
  · rintro e g y h hgo he hfac hg howns hin hread hin2 hsent hy
    have hslot : g.slot = coreSlot n := by rw [hg]; rfl
    rw [← hslot] at howns
    refine exec_of_done h ((gated_of_go (w := f.place n x) hgo sreduceBody).trans ((sreduceBody_of_entry he hg).trans ?_))
    rw [hfac, sreduceDense_of_sum (w := f.place n x) howns hin hread hin2 hsent hy]
    rfl
  · rintro e g u v2 h hgo he hfac hg hin2 hread2 hfirst hnew hu hv hdone
    have hslot : g.slot = coreSlot n := by rw [hg]; rfl
    rw [← hslot] at hu hv hdone hfirst
    refine exec_of_done h ((gated_of_go (w := f.place n x) hgo sreduceBody).trans ((sreduceBody_of_entry he hg).trans ?_))
    rw [hfac, if_pos rfl]
    exact sreduceFactor_of_parts (w := f.place n x) hin2 hread2 hfirst hnew hu hv hdone
  · rintro e g exps r bs u h hgo he hg howns hreach hexps hr hbs del own hdel hown rfl
    have hready : e.factor = true ∨ s.group.reports.contains (g.report 5) = true := hexps.imp (·.1) (·.2.1)
    have hslot : g.slot = coreSlot n := by rw [hg]; rfl
    have hexps' : exps = s.deliveryExps g e.factor := by
      unfold State.deliveryExps
      rcases hexps with ⟨hf, rfl⟩ | ⟨hf, -, rfl⟩
      · rw [hf]; split <;> rfl
      · rw [hf, hslot]; split <;> simp_all only [Option.map_some, Option.map_none, Option.getD_some, Option.getD_none, Bool.false_eq_true, if_false]
    have hdel' : del = r.1.smcastDelivery f.op g (s.deliveryExps g e.factor) bs := by
      rw [hdel, hexps', State.smcastDelivery, hslot, show g.e = e by rw [hg]; rfl]
    have hbody := (gated_of_go (w := f.place n x) hgo smcastBody).trans
      (smcastBody_of_owner (w := f.place n x) he hg howns hready hreach hr hbs hdel' hown)
    refine ⟨fun h1 => ?_, fun h0 hsp => ?_, fun d ds q h0 hsp hq => ?_⟩
    · refine (runCore_dispatched h _).trans ?_
      rw [hbody, if_pos (by rw [h1]; decide), if_pos h1]
      rfl
    · refine exec_of_done h (hbody.trans ?_)
      rw [if_neg (not_not.2 h0)]
      simp only [Flight.place, hsp]
    · refine (runCore_dispatched h _).trans ?_
      rw [hbody, if_neg (not_not.2 h0)]
      simp only [Flight.place, hsp, State.smcastPacket, hslot, hq]
      exact congrArg Host.Outcome.next (apply_ite (State.endOp _ n x .stream f) _ _ _)
  · intro hended e he h
    simp only [List.mem_cons, List.not_mem_nil, or_false] at he
    rcases he with rfl | rfl | rfl
    · exact exec_of_done h (gated_of_ended (w := f.place n x) hended snoteBody)
    · exact exec_of_done h (gated_of_ended (w := f.place n x) hended sreduceBody)
    · exact exec_of_done h (gated_of_ended (w := f.place n x) hended smcastBody)

end Sys2Proof.Machine
end

section
/-! PROOFS. XDISP, XCOMB and RESHARD (R289 to R296): each completes where its table, its descriptors and its settlement allow it, with O18. -/

namespace Sys2Proof.Machine

theorem decide_ne_eq_false {a b : Nat} (h : a = b) : decide (a ≠ b) = false := by simp [h]

section
variable {s : State} {w : Place} {o : Op} (hmap : s.mapOver o = false) (hhead : s.inPart w.core w.x (par48 (o.reg 0)) 32 = true)
include hmap hhead

section
variable (htable : s.inPart w.core w.x (par48 (o.reg 0)) (s.tableBytes w.core w.x (par48 (o.reg 0))) = true)
  (hbad : s.badPart w (par48 (o.reg 0)) (s.tableBytes w.core w.x (par48 (o.reg 0))) = false)
  {h : RouteHead} (hh : h = s.routeHead w (par48 (o.reg 0)))
include htable hbad hh

/-- An XDISP sends the rows of its routing table (R289). -/
theorem xdispBody_of_dispatch (hreach : s.reachesDesc w (o.desc 0) = true) (hret : h.ret = false)
    (harea : s.inPart w.core w.x h.retOff (s.returnDesc (coreSlot w.core) h.retOff (h.tokens * h.topk)).total = true)
    (hext0 : (o.desc 0).ext0 = h.tokens) (hext1 : (o.desc 0).ext1 = s.obj (0x7600 + coreSlot w.core) 7) (haxis : (o.desc 0).baxis = true)
    (hexperts : ∀ c ∈ s.choices w (par48 (o.reg 0)) h, c.expert < s.expCount (coreSlot w.core))
    (hfmt : (o.desc 0).fmt = s.obj (0x7600 + coreSlot w.core) 6) {r : Nat}
    (hrank : (s.expSources (coreSlot w.core)).findIdx? (fun y => y == s.here (coreSlot w.core)) = some r) {p : State}
    {ts : Array (Array Byte)} (hrows : s.plainRows w (o.desc 0) = (p, .inr ts)) :
    xdispBody s w o = p.dispatchRows w (par48 (o.reg 0)) h (o.desc 0) r ts := by
  have hany : (s.choices w (par48 (o.reg 0)) h).any (fun c => decide (s.expCount (coreSlot w.core) ≤ c.expert)) = false :=
    List.any_eq_false.2 fun c hc => by simpa using hexperts c hc
  subst hh
  simp only [xdispBody, hmap, hhead, htable, hreach, hbad, hret, harea, decide_ne_eq_false hext0, decide_ne_eq_false hext1, haxis, hany,
    hfmt, hrank, hrows, ne_eq, not_true_eq_false, Bool.not_true, Bool.or_self, Bool.false_eq_true, if_false]

/-- An XDISP in RETURN mode sends back the served rows of its settled bank (R292). -/
theorem xdispBody_of_return (hreach : s.reachesDesc w (o.desc 0) = true) (hret : h.ret = true)
    (hext0 : (o.desc 0).ext0 = s.expCap (coreSlot w.core)) (hext1 : (o.desc 0).ext1 = s.obj (0x7600 + coreSlot w.core) 9)
    (hfmt : (o.desc 0).fmt = s.obj (0x7600 + coreSlot w.core) 8) {b : XBank}
    (hbank : (s.slot (coreSlot w.core)).xbanks.find? (fun b => b.expert == h.lexp && b.xseq == h.xseq && b.step == w.step && b.att == w.att &&
      b.returning == []) = some b) {p : State} {ts : Array (Array Byte)} (hrows : s.plainRows w (o.desc 0) = (p, .inr ts)) :
    xdispBody s w o = p.returnRows w h (o.desc 0) b ts := by
  subst hh
  simp only [xdispBody, hmap, hhead, htable, hreach, hbad, hret, decide_ne_eq_false hext0, decide_ne_eq_false hext1, hfmt, hbank, hrows,
    ne_eq, not_true_eq_false, Bool.not_true, Bool.or_self, Bool.false_eq_true, if_false, if_true]

/-- An XCOMB whose holders have all settled, and whose served choices are all back, writes the combined records (R292). -/
theorem xcombBody_of_settled {rd : Desc} (hrd : rd = s.returnDesc (coreSlot w.core) h.retOff (h.tokens * h.topk))
    (hreach : s.reachesDesc w (o.desc 1) = true) (harea : s.inPart w.core w.x rd.base rd.total = true) (hext0 : (o.desc 1).ext0 = h.tokens)
    (hext1 : (o.desc 1).ext1 = s.obj (0x7600 + coreSlot w.core) 9) (hfloat : isFloat (o.desc 1).fmt = true)
    (hres : h.res = true → s.reachesDesc w (o.desc 0) = true ∧ s.reachesTables w (o.desc 0) = true ∧ descOk (o.descs.getD 0 0) = true ∧
      (o.desc 0).sameExt (o.desc 1) = true) {y : XSource}
    (hy : (s.slot (coreSlot w.core)).xsources.find? (fun z => z.xseq == h.xseq && z.step == w.step && z.att == w.att) = some y)
    (hsettled : s.settledAll (coreSlot w.core) y = true)
    (hback : ∀ c ∈ s.choices w (par48 (o.reg 0)) h, c.served = true → y.returned.contains (c.token, c.choice) = true)
    {tb : State × Bool} (htb : tb = if h.res then s.tableReads w (o.desc 0) else (s, true)) (htbok : tb.2 = true)
    (hrdbad : s.badPart w rd.base rd.total = false) {r : State × List (Option Byte)}
    (hr : r = if h.res then tb.1.recordReads w (o.desc 0) else (s, [])) {bs : List Byte} (hbs : whole r.2 = some bs) {p : State}
    (hp : p = if h.res then r.1.widenCounts w (o.desc 0) bs else r.1) {c : List Byte × Tally}
    (hc : c = s.combined w ((s.choices w (par48 (o.reg 0)) h).filter (·.served)) h.topk rd (o.desc 1)
      (s.widenAll w rd (s.partRead w rd.base rd.total)) (if h.res then some (o.desc 0, s.widenAll w (o.desc 0) bs) else none)) {q : State × Bool}
    (hq : q = ((p.widenCounts w rd (s.partRead w rd.base rd.total)).count w (o.desc 1).tid c.2).writeRecords w.core w.x (o.desc 1) 0 c.1)
    (hok : q.2 = true) : xcombBody s w o = (q.1, .done 0 0) := by
  have hregions : (h.res && !(s.reachesDesc w (o.desc 0) && s.reachesTables w (o.desc 0))) = false ∧
      (h.res && !(descOk (o.descs.getD 0 0) && (o.desc 0).sameExt (o.desc 1))) = false := by
    cases e : h.res
    · exact ⟨rfl, rfl⟩
    · obtain ⟨h1, h2, h3, h4⟩ := hres e
      rw [h1, h2, h3, h4]
      exact ⟨rfl, rfl⟩
  have hall : ((s.choices w (par48 (o.reg 0)) h).filter (·.served)).all (fun c => y.returned.contains (c.token, c.choice)) = true :=
    List.all_eq_true.2 fun c hc => hback c (List.mem_filter.1 hc).1 (List.mem_filter.1 hc).2
  subst htb hr hp hc hq hrd hh
  simp only [xcombBody, hmap, hhead, htable, hbad, hreach, hregions.1, hregions.2, harea, decide_ne_eq_false hext0, decide_ne_eq_false hext1, hfloat,
    hy, hsettled, hall, htbok, hrdbad, hbs, hok, Bool.not_true, Bool.not_false, Bool.and_self, Bool.or_self, Bool.false_eq_true, if_false, if_true]

end

section
variable (hplan : s.inPart w.core w.x (par48 (o.reg 0)) (s.planBytes w.core w.x (par48 (o.reg 0))) = true)
  (hbad : s.badPart w (par48 (o.reg 0)) (s.planBytes w.core w.x (par48 (o.reg 0))) = false)
  (h1 : s.reachesDesc w (o.desc 0) = true) (h2 : s.reachesDesc w (o.desc 1) = true) {rid : Nat} {dests : List PlanDest} {moves : List PlanMove}
  (hmoves : s.plan w (par48 (o.reg 0)) = (rid, dests, moves))
  (hinside : ∀ m ∈ moves, m.src + m.len ≤ (o.desc 0).extent ∧ m.dest < dests.length) {r : Reshard}
  (hr : s.reshards.find? (fun r => r.core == w.core && r.x == w.x && r.seq == o.seq) = some r)
include hplan hbad h1 h2 hmoves hinside hr

/-- A RESHARD whose plan passes its checks sends, and once it has sent, ends by its receiver's check (R296). -/
theorem reshardBody_of_plan : reshardBody s w o =
    if r.sent then (s, if !r.checked then .blocked else .done 0 (if r.failed then 1 else 0))
    else
      let q := (s.checkReshard { r with sent := true }).sendMoves w (o.desc 0) rid dests moves
      if q.2 = .waiting [] 0 then (q.1, .blocked) else q := by
  have hany : moves.any (fun m => decide ((o.desc 0).extent < m.src + m.len) || decide (dests.length ≤ m.dest)) = false :=
    List.any_eq_false.2 fun m hm => by
      obtain ⟨ha, hb⟩ := hinside m hm
      simp only [Bool.or_eq_true, decide_eq_true_eq]
      omega
  simp only [reshardBody, hmap, hhead, hplan, hbad, h1, h2, hmoves, hany, hr, Bool.not_true, Bool.or_self, Bool.false_eq_true, if_false]

end

end

/-- Settles O18: each clause is one outcome of the three bodies. -/
theorem expertOps : Obligations.ExpertOps := by
  rintro n x f s w k off rfl rfl rfl hmap hhead
  refine ⟨?_, ?_, ?_, ?_⟩
  · rintro h d r ts p q hdis htable rfl hreach hh hret harea hext0 hext1 haxis hexperts hbad hfmt hrank hrows rfl
    refine (runCore_dispatched hdis xdispBody).trans ?_
    rw [xdispBody_of_dispatch (w := f.place n x) hmap hhead htable hbad hh hreach hret harea hext0 hext1 haxis hexperts hfmt hrank hrows]
  · rintro h d b ts p q hdis htable rfl hreach hbad hh hret hext0 hext1 hfmt hbank hrows rfl
    refine (runCore_dispatched hdis xdispBody).trans ?_
    rw [xdispBody_of_return (w := f.place n x) hmap hhead htable hbad hh hreach hret hext0 hext1 hfmt hbank hrows]
  · rintro h rd d1 d2 y tb r bs p c q hdis htable hbad hh hrd rfl rfl hreach harea hext0 hext1 hfloat hres hy hsettled hback htb htbok hrdbad hr hbs hp
      hc hq hok
    exact exec_of_done hdis (xcombBody_of_settled (w := f.place n x) hmap hhead htable hbad hh hrd hreach harea hext0 hext1 hfloat hres hy hsettled
      hback htb htbok hrdbad hr hbs hp hc hq hok)
  · rintro rid dests moves r hdis hplan hbad h1 h2 hmoves hinside hr
    have hbody := reshardBody_of_plan (w := f.place n x) hmap hhead hplan hbad h1 h2 hmoves hinside hr
    refine ⟨fun hsent q ids hq hids hne => ?_, fun hsent hchecked => ?_⟩
    · refine exec_of_waiting hdis (hbody.trans ?_)
      rw [if_neg (by rw [hsent]; decide), ← hq]
      dsimp only
      rw [if_neg (by rw [hids]; intro e; injection e with e _; exact hne e)]
      exact Prod.ext rfl hids
    · refine exec_of_done hdis (hbody.trans ?_)
      rw [if_pos hsent, hchecked]
      rfl

end Sys2Proof.Machine
end

section
/-! PROOFS. The two contexts of a core take turns (R115 to R117): activation, preemption, suspension and resumption of the Brim context, with
O20. -/

namespace Sys2Proof.Machine

/-! ### A core's state, a total, a spill -/

@[simp] theorem coreSt_setCoreSt (s : State) (n : Nat) (c : CoreSt) : (s.setCoreSt n c).coreSt n = c := by
  simp [State.coreSt, State.setCoreSt]

@[simp] theorem tot_setTot (s : State) (i j v : Nat) : (s.setTot i j v).tot i j = v := by
  simp [State.tot, State.setTot]

/-- A total that is no conserved count rises even where the audit counts stand still (R414). -/
theorem tot_bump_same (s : State) {i : Nat} (h : isAudit i = false) (j k : Nat) : (s.bump i j k).tot i j = satAdd 64 (s.tot i j) k := by
  simp [State.bump, h, State.tot, Table.modify]

theorem TotChange.keeps {s t : State} (h : TotChange s t) :
    t.coreSt = s.coreSt ∧ t.ctx = s.ctx ∧ t.mem = s.mem ∧ t.accs = s.accs := by
  rw [TotChange] at h
  rw [h]
  exact ⟨rfl, rfl, rfl, rfl⟩

/-- The tiles written to a suspension area read back from it (R116). -/
theorem read_foldl_write_mem {V : Type} [DecidableEq V] (d : V) (value : Nat → V) (l : List Nat) (m : Table V) (k : Nat)
    (hk : k ∈ l ∨ Table.read d k m = value k) : Table.read d k (l.foldl (fun t i => Table.write d i (value i) t) m) = value k := by
  induction l generalizing m with
  | nil => simpa using hk
  | cons a l ih =>
    rw [List.foldl_cons]
    refine ih _ ?_
    by_cases hka : a = k
    · exact Or.inr (by rw [hka, Table.read_write_same])
    · rw [Table.read_write_ne _ hka]
      exact hk.imp_left fun h => (List.mem_cons.mp h).resolve_left (Ne.symm hka)

/-- Tiles put back one after another: a tile with one image takes it, and a tile without one stays (R117). -/
theorem acc_foldl_setAcc (n : Nat) (l : List (Nat × AccTile)) (s : State) :
    ((l.map (·.1)).Nodup → ∀ e ∈ l, (l.foldl (fun s e => s.setAcc n e.1 e.2) s).acc n e.1 = e.2) ∧
    ∀ i, (∀ e ∈ l, e.1 ≠ i) → (l.foldl (fun s e => s.setAcc n e.1 e.2) s).acc n i = s.acc n i := by
  induction l generalizing s with
  | nil => simp
  | cons a l ih =>
    obtain ⟨hin, hout⟩ := ih (s.setAcc n a.1 a.2)
    refine ⟨fun hnd e he => ?_, fun i hi => ?_⟩
    · obtain ⟨ha, hl⟩ := List.nodup_cons.mp hnd
      rcases List.mem_cons.mp he with rfl | he
      · refine (hout _ fun e' he' h => ha ?_).trans (State.acc_setAcc_same s n _ _)
        exact List.mem_map.mpr ⟨e', he', h⟩
      · exact hin hl e he
    · refine (hout i fun e he => hi e (List.mem_cons_of_mem _ he)).trans (State.acc_setAcc_ne s _ ?_)
      have := hi a List.mem_cons_self
      omega

theorem foldl_setAcc_frame (n : Nat) (l : List (Nat × AccTile)) (s : State) :
    l.foldl (fun s e => s.setAcc n e.1 e.2) s = { s with accs := (l.foldl (fun s e => s.setAcc n e.1 e.2) s).accs } := by
  induction l generalizing s with
  | nil => rfl
  | cons a l ih => rw [List.foldl_cons, ih]; rfl

/-! ### A context at its suspension point (R116) -/

theorem Flight.suspend_eq (f : Flight) : f.suspend = if f.done then f else { f with suspended := true } := rfl

/-- The matrix and vector operations of a preempted context are held. -/
theorem Context.preempt_engines (c : Context) : c.preempt.fM = c.fM.map Flight.suspend ∧ c.preempt.fV = c.fV.map Flight.suspend := by
  unfold Context.preempt
  dsimp only
  split
  · exact ⟨rfl, rfl⟩
  · split <;> exact ⟨rfl, rfl⟩

/-- A blocked stream operation goes back to the front of its queue. -/
theorem Context.preempt_of_blocked {c : Context} {f : Flight} (hf : c.fS = some f) (hb : f.blocked = true) (hd : f.done = false) :
    c.preempt.fS = none ∧ c.preempt.qS = f.op :: c.qS := by
  simp [Context.preempt, hf, hb, hd]

/-- Any other stream operation is held. -/
theorem Context.preempt_of_held {c : Context} {f : Flight} (hf : c.fS = some f) (h : f.blocked = false ∨ f.done = true) :
    c.preempt.fS = some f.suspend ∧ c.preempt.qS = c.qS := by
  rcases h with h | h <;> simp [Context.preempt, hf, h]

/-- What the Brim context is at the end of its spill. -/
def Context.spilled (c : Context) (held : Bool) : Context :=
  if c.ended && !c.outstanding && !c.halting then { c with state := .idle, ended := false }
  else { c with state := .suspended, suspHeld := held }.settle

theorem Context.spilled_state (c : Context) (held : Bool) :
    (c.spilled held).state = (if c.halting && !c.busyFlights then .halted
      else if c.ended && !c.outstanding && !c.halting then .idle else .suspended) ∧
    (c.spilled held).halting = (c.halting && c.busyFlights) := by
  have hb : Context.busyFlights { c with state := .suspended, suspHeld := held } = c.busyFlights := rfl
  unfold Context.spilled
  split
  next h =>
    simp only [Bool.and_eq_true, Bool.not_eq_true'] at h
    simp [h]
  next h =>
    unfold Context.settle
    rw [hb]
    cases hh : c.halting <;> cases hf : c.busyFlights <;> simp_all

/-! ### The end of the spill and the resumption -/

/-- The tiles that the preempted matrix operation has in the engines. -/
def State.spillTiles (s : State) (n : Nat) : List Nat :=
  match (s.ctx n .brim).fM with
  | some f => if f.suspended then s.roundTiles n f else []
  | none => []

/-- The suspension area at the end of the spill. -/
def State.spillArea (s : State) (n : Nat) : Table AccTile :=
  (s.spillTiles n).foldl (fun t i => Table.write {} i (s.acc n i) t) []

/-- The end of the spill of an issuing Brim context. -/
theorem brimSuspended_of_issuing {n : Nat} {s : State} (hn : n < Config.cores s.part) (hp : (s.coreSt n).preempting = true)
    (hs : (s.ctx n .brim).state = .running ∨ (s.ctx n .brim).state = .waiting) (ns : Nat) :
    exec (.brimSuspended n ns) s =
      .next (((s.setCtx n .brim ((s.ctx n .brim).spilled (s.spillTiles n ≠ []))).setCoreSt n
        { s.coreSt n with preempting := false, spill := s.spillArea n }).setTot 0x3250 4
          (min (2 ^ 32 - 1) (max (s.tot 0x3250 4) ns))) := by
  have hrun : (!(decide ((s.ctx n .brim).state = .running) || decide ((s.ctx n .brim).state = .waiting))) = false := by
    rcases hs with h | h <;> simp [h]
  refine (if_pos hn).trans (congrArg Host.Outcome.next ((if_pos hp).trans ?_))
  dsimp only
  rw [hrun]
  rfl

/-- A resumption puts the stored images back and releases the held operations. -/
theorem brimResume_of_ready {n : Nat} {s : State} (hn : n < Config.cores s.part) (hlive : s.coreLive n = true)
    (ha : (s.coreSt n).active = .brim) (hc : s.crownReady n = false) (hh : (s.ctx n .brim).halting = false)
    (hs : (s.ctx n .brim).state = .suspended ∨ s.brimHolds n = true) :
    exec (.brimResume n) s =
      .next ((((s.coreSt n).spill.foldl (fun s e => s.setAcc n e.1 e.2) s).modCtx n .brim
        (fun c => { c.release with state := .running }.settle)).setCoreSt n { s.coreSt n with resumed := true, spill := [] }) := by
  refine (if_pos hn).trans (congrArg Host.Outcome.next (if_pos ?_))
  rcases hs with h | h <;> simp [hlive, ha, hc, hh, h]

/-! ### O20 -/

/-- Settles O20: the condition of each switching command, then what its one update writes; the suspension area is read back by key. -/
theorem contextSwitching : Obligations.ContextSwitching := by
  unfold Obligations.ContextSwitching
  intro n s hn
  refine ⟨fun hlive ha hw hc he => ?_, fun hlive ha hsw hc => ⟨fun h => ?_, fun hr hb => ?_⟩, fun hlive ha hsw hc hb => ?_,
    fun hlive ha hsw hc hb => ?_, fun ns hp hs => ?_, fun hlive ha hc hh hs => ?_⟩
  · exact (if_pos hn).trans (congrArg Host.Outcome.next (if_pos (by simp [hlive, ha, hw, hc, he])))
  · have hagain : ((s.coreSt n).resumed && s.brimLive n) = false := by
      rcases h with h | h <;> simp [h]
    refine (if_pos hn).trans (congrArg Host.Outcome.next ((if_pos (by simp [hlive, ha, hsw, hc])).trans ?_))
    dsimp only
    rw [hagain, Bool.or_false]
    rfl
  · refine (if_pos hn).trans (congrArg Host.Outcome.next ((if_pos (by simp [hlive, ha, hsw, hc])).trans ?_))
    dsimp only
    rw [hr, hb, Bool.and_self, Bool.or_true]
    rfl
  · refine ⟨_, (if_pos hn).trans (congrArg Host.Outcome.next
      ((if_pos (by simp [hlive, ha, hsw, hc])).trans (if_pos hb))), ?_⟩
    obtain ⟨hcore, hctx, hmem, haccs⟩ := (State.bump_totChange
      ((s.modCtx n .brim Context.preempt).setCoreSt n { s.coreSt n with active := .crown, preempting := true }) 0x3250 2 1).keeps
    rw [hcore, hctx, hmem, haccs, coreSt_setCoreSt, tot_bump_same _ (by decide)]
    have hbrim : ((s.modCtx n .brim Context.preempt).setCoreSt n { s.coreSt n with active := .crown, preempting := true }).ctx n .brim =
        (s.ctx n .brim).preempt := ctx_setCtx _ _ _ _
    rw [hbrim, (s.ctx n .brim).preempt_engines.1, (s.ctx n .brim).preempt_engines.2]
    exact ⟨rfl, rfl, ctx_setCtx_ne _ _ (by simp), rfl, rfl, fun f hf hb hd => Context.preempt_of_blocked hf hb hd,
      fun f hf h => Context.preempt_of_held hf h, rfl, rfl, rfl⟩
  · exact (if_pos hn).trans (congrArg Host.Outcome.next
      ((if_pos (by simp [hlive, ha, hsw, hc])).trans (if_neg (by simp [hb]))))
  · obtain ⟨hstate, hhalt⟩ := (s.ctx n .brim).spilled_state (s.spillTiles n ≠ [])
    refine ⟨_, brimSuspended_of_issuing hn hp hs ns, ?_⟩
    rw [tot_setTot, State.setTot_coreSt, coreSt_setCoreSt, State.setTot_ctx, State.setTot_ctx, State.setCoreSt_ctx, State.setCoreSt_ctx,
      ctx_setCtx, ctx_setCtx_ne _ _ (by simp)]
    refine ⟨rfl, hstate, hhalt, rfl, rfl, fun f hf hfs i hi => ?_, rfl, rfl⟩
    refine read_foldl_write_mem {} (fun i => s.acc n i) (s.spillTiles n) [] i (Or.inl ?_)
    rw [State.spillTiles, hf]
    simpa [hfs] using hi
  · refine ⟨_, brimResume_of_ready hn hlive ha hc hh hs, ?_⟩
    obtain ⟨hin, hout⟩ := acc_foldl_setAcc n (s.coreSt n).spill s
    have hframe := foldl_setAcc_frame n (s.coreSt n).spill s
    rw [State.modCtx, coreSt_setCoreSt, State.setCoreSt_ctx, State.setCoreSt_ctx, ctx_setCtx, ctx_setCtx_ne _ _ (by simp)]
    refine ⟨by rw [hframe]; rfl, rfl, rfl, rfl, by rw [hframe]; rfl, by rw [State.setCoreSt_mem, State.setCtx_mem, hframe], hin,
      fun i _ h => hout i h⟩

end Sys2Proof.Machine
end

section
/-! PROOFS. The registers of a block, and the context commands with CLEAR (R120, R121, Table 5.8), with O21. -/

namespace Sys2Proof.Machine

/-! ### Blocks -/

@[simp] theorem block_setBlock (s : State) (b : Nat) (v : Block) : (s.setBlock b v).block b = v := by
  simp [State.block, State.setBlock]

theorem block_setBlock_ne (s : State) {b c : Nat} (v : Block) (h : c ≠ b) : (s.setBlock b v).block c = s.block c := by
  have h' : b ≠ c := Ne.symm h
  simp only [State.block, State.setBlock, Table.write]
  split
  · rw [Table.read_erase, if_neg h']
  · rw [Table.read_insert, if_neg h']

/-- A write of a block's register locks its guard and leaves its CFG word (R351). -/
theorem State.blkTouch_cfg (s : State) (b c : Nat) : ((s.blkTouch b).block c).cfg = (s.block c).cfg := by
  rw [State.blkTouch, State.modBlock]
  by_cases h : c = b
  · subst h
    rw [block_setBlock]
  · rw [block_setBlock_ne _ _ h]

/-! ### When a context settles -/

theorem Context.outstanding_of_busyFlights {c : Context} (h : c.busyFlights = true) : c.outstanding = true := by
  simp only [Context.busyFlights, List.any_cons, List.any_nil, Bool.or_false, Bool.or_eq_true] at h
  have hsome (o : Option Flight) (ho : (match o with | none => false | some f => !f.atPoint) = true) : o.isSome = true := by
    cases o <;> simp_all
  rw [Context.outstanding, Context.inFlight]
  rcases h with h | h | h <;> simp [hsome _ h]

/-- A context that issues or is SUSPENDED. -/
def Context.live (c : Context) : Prop := c.state = .running ∨ c.state = .waiting ∨ c.state = .suspended

/-- A halting context whose engines are free, or held, is HALTED. -/
theorem Context.settle_of_halting {c : Context} (hl : c.live) (hb : c.busyFlights = false) (hh : c.halting = true) :
    c.settle = { c with state := .halted, halting := false } := by
  unfold Context.settle
  rw [if_pos]
  rcases hl with h | h | h <;> simp [h, hb, hh]

/-- A context with an operation in an engine settles later. -/
theorem Context.settle_of_busyFlights {c : Context} (hb : c.busyFlights = true) : c.settle = c := by
  unfold Context.settle
  rw [if_neg (by simp [hb]), if_neg (by simp [Context.outstanding_of_busyFlights hb])]

/-- A context that neither issues nor is SUSPENDED stays as it is. -/
theorem Context.settle_of_stopped {c : Context} (h : ¬ c.live) : c.settle = c := by
  simp only [Context.live, not_or] at h
  obtain ⟨h1, h2, h3⟩ := h
  unfold Context.settle
  simp [h1, h2, h3]

theorem Context.settle_of_running {c : Context} (hh : c.halting = false) (he : c.ended = false) : c.settle = c := by
  simp [Context.settle, hh, he]

/-! ### HALT -/

/-- Is the Brim context in a preemption that holds its settling up? -/
def State.preempts (s : State) (n : Nat) (x : Ctx) : Prop := x = .brim ∧ (s.coreSt n).preempting = true

theorem State.settleCtx_of_preempts {s : State} {n : Nat} {x : Ctx} (h : s.preempts n x) (c : Context) : s.settleCtx n x c = c := by
  rw [State.settleCtx, if_pos (by simp [h.1, h.2])]

theorem State.settleCtx_of_not_preempts {s : State} {n : Nat} {x : Ctx} (h : x = .crown ∨ (s.coreSt n).preempting = false) (c : Context) :
    s.settleCtx n x c = c.settle := by
  rw [State.settleCtx, if_neg]
  rcases h with h | h <;> simp [h]

theorem State.halted_of_live {s : State} {n : Nat} {x : Ctx} {c : Context} (h : c.live) :
    s.halted n x c = s.settleCtx n x { c with halting := true } := by
  rw [State.halted, if_pos]
  rcases h with h | h | h <;> simp [h]

theorem State.halted_of_stopped (s : State) (n : Nat) (x : Ctx) {c : Context} (h : ¬ c.live) : s.halted n x c = c := by
  simp only [Context.live, not_or] at h
  obtain ⟨h1, h2, h3⟩ := h
  simp [State.halted, h1, h2, h3]

/-- A live context whose engines are free, or held, halts at once (Table 5.8 HALT). -/
theorem State.halted_at_once {s : State} {n : Nat} {x : Ctx} {c : Context} (h : c.live) (hb : c.busyFlights = false)
    (hp : x = .crown ∨ (s.coreSt n).preempting = false) : s.halted n x c = { c with state := .halted, halting := false } := by
  rw [State.halted_of_live h, State.settleCtx_of_not_preempts hp, Context.settle_of_halting (c := { c with halting := true }) h hb rfl]

/-- Otherwise it is halting. -/
theorem State.halted_later {s : State} {n : Nat} {x : Ctx} {c : Context} (h : c.live) (hb : c.busyFlights = true ∨ s.preempts n x) :
    s.halted n x c = { c with halting := true } := by
  rw [State.halted_of_live h]
  by_cases hp : s.preempts n x
  · exact State.settleCtx_of_preempts hp _
  · have hnp : x = .crown ∨ (s.coreSt n).preempting = false := by
      cases x
      · exact Or.inl rfl
      · exact Or.inr (Bool.not_eq_true _ |>.mp fun h => hp ⟨rfl, h⟩)
    rw [State.settleCtx_of_not_preempts hnp]
    exact Context.settle_of_busyFlights (c := { c with halting := true }) (hb.resolve_right hp)

theorem CtxCmd.not_ignored_halt {c : Context} (h : c.live) : CtxCmd.ignored .halt c.state = false := by
  rcases h with h | h | h <;> rw [h] <;> rfl

/-! ### The write of CTXn_CMD -/

theorem State.not_vigil_of_up {s : State} (h : s.up = true) : s.vigil = false := by
  simp only [State.up, Bool.and_eq_true, beq_iff_eq] at h
  rw [State.vigil, h.1]
  rfl

/-- In READY, with no MULTI_WRITE waiting, a command acts on a context of the block whose guard it has closed (R343, R351). -/
theorem ctxCmd_of_up {n : Nat} {s : State} (hn : n < Config.cores s.part) (hup : s.up = true) (hm : s.multiHolds = false) (i : Instr) (x : Ctx)
    (k : CtxCmd) (kslot : Nat) : ctxCmd i n x k kslot s = .next ((s.blkTouch (blkCore n)).ctxCommand n x k kslot) := by
  rw [ctxCmd, if_pos hn, State.unlessMulti, hm, s.not_vigil_of_up hup]
  rfl

/-- A command on a context that is not BUSY acts at once. -/
theorem State.ctxCommand_of_not_busy {s : State} {n : Nat} {x : Ctx} (hup : s.up = true) (hb : (s.ctx n x).state ≠ .busy) (k : CtxCmd)
    (kslot : Nat) : s.ctxCommand n x k kslot = s.ctxAct n x k kslot := by
  unfold State.ctxCommand
  simp [hup, hb]

theorem State.ctxAct_of_ignored {s : State} {n : Nat} {x : Ctx} {k : CtxCmd} (h : k.ignored (s.ctx n x).state = true) (kslot : Nat) :
    s.ctxAct n x k kslot = s.cmdIgnored n := if_pos h

theorem State.ctxAct_halt {s : State} {n : Nat} {x : Ctx} (h : CtxCmd.ignored .halt (s.ctx n x).state = false) (kslot : Nat) :
    s.ctxAct n x .halt kslot = s.setCtx n x (s.halted n x (s.ctx n x)) := if_neg (by simp [h])

theorem State.ctxAct_resume {s : State} {n : Nat} {x : Ctx} (h : CtxCmd.ignored .resume (s.ctx n x).state = false) (kslot : Nat) :
    s.ctxAct n x .resume kslot = (s.setCtx n x (Context.settle
      { (if x = Ctx.crown then (s.ctx n x).release else s.ctx n x) with state := .running })).leaveBrim n x := if_neg (by simp [h])

theorem State.ctxAct_clear (s : State) (n : Nat) (x : Ctx) (kslot : Nat) : s.ctxAct n x .clear kslot = (s.clearCtx n x).leaveBrim n x := rfl

theorem State.ctxAct_load {s : State} {n : Nat} {x : Ctx} (h : CtxCmd.ignored .load (s.ctx n x).state = false) (kslot : Nat) :
    s.ctxAct n x .load kslot = ((if (s.loadRecord n x kslot).2 then (s.loadRecord n x kslot).1 else
      (s.loadRecord n x kslot).1.modCtx n x (fun c => { c with state := .busy, busyAfter := c.state })).leaveBrim n x).cmdResult n x
      (s.loadRecord n x kslot).2 := if_neg (by simp [h])

theorem State.ctxAct_save {s : State} {n : Nat} {x : Ctx} (h : CtxCmd.ignored .save (s.ctx n x).state = false) (full : Bool) (kslot : Nat) :
    s.ctxAct n x (if full then .saveFull else .save) kslot =
      ((s.saveRecord n x full).1.modCtx n x (fun c => { c with state := .busy, busyAfter := c.state })).cmdResult n x
      (s.saveRecord n x full).2 := by
  cases full
  · exact if_neg (by simp [h])
  · exact if_neg (ne_true_of_eq_false h)

/-- LOAD, SAVE and SAVE_FULL act on a context that stands still (R120). -/
theorem CtxCmd.record_not_ignored {c : CtxState} (h : c = .halted ∨ c = .idle ∨ c = .faulted ∨ c = .empty) :
    CtxCmd.ignored .load c = false ∧ CtxCmd.ignored .save c = false ∧ c ≠ .busy := by
  rcases h with rfl | rfl | rfl | rfl <;> decide

/-! ### The end of a command -/

/-- What a context is when its command is done. -/
def Context.leaveBusy (c : Context) : Context := { c with state := c.busyAfter, busyAfter := .empty, held := none, cmdOk := false }.settle

/-- The package at the end of a command, before a held one acts. -/
def State.cmdEnded (s : State) (n : Nat) (x : Ctx) : State :=
  if (s.ctx n x).cmdOk then (s.setCtx n x (s.ctx n x).leaveBusy).modBlock (blkCore n) (fun b => { b with cmdRefused := false })
  else s.setCtx n x (s.ctx n x).leaveBusy

theorem State.cmdEnded_ctx (s : State) (n : Nat) (x : Ctx) : (s.cmdEnded n x).ctx n x = (s.ctx n x).leaveBusy := by
  unfold State.cmdEnded
  split <;> exact ctx_setCtx _ _ _ _

theorem State.cmdEnded_coreSt (s : State) (n : Nat) (x : Ctx) : (s.cmdEnded n x).coreSt n = s.coreSt n := by
  unfold State.cmdEnded
  split <;> rfl

theorem contextCmdDone_of_free {n : Nat} {x : Ctx} {s : State} (hn : n < Config.cores s.part) (hb : (s.ctx n x).state = .busy)
    (hh : (s.ctx n x).held = none) : exec (.contextCmdDone n x) s = .next (s.cmdEnded n x) := by
  refine (if_pos hn).trans (congrArg Host.Outcome.next ((if_neg (by simp [hb])).trans ?_))
  rw [hh]
  rfl

/-- A held HALT acts on the state that the command leaves, as the HALT of a disable or as a command (R109, R120). -/
theorem contextCmdDone_of_halt {n : Nat} {x : Ctx} {s : State} (hn : n < Config.cores s.part) (hb : (s.ctx n x).state = .busy)
    (hh : (s.ctx n x).held = some .halt) :
    exec (.contextCmdDone n x) s = .next (if (s.coreSt n).disabling
      then (s.cmdEnded n x).setCtx n x ((s.cmdEnded n x).halted n x (s.ctx n x).leaveBusy)
      else (s.cmdEnded n x).ctxAct n x .halt 0) := by
  refine (if_pos hn).trans (congrArg Host.Outcome.next ((if_neg (by simp [hb])).trans ?_))
  rw [← s.cmdEnded_ctx, ← s.cmdEnded_coreSt n x, hh]
  cases hd : ((s.cmdEnded n x).coreSt n).disabling
  · exact if_neg fun h => Bool.noConfusion (hd.symm.trans (Bool.and_eq_true_iff.mp h).2)
  · exact if_pos (Bool.and_eq_true_iff.mpr ⟨rfl, hd⟩)

/-- Either way the context takes what the HALT makes of it. -/
theorem contextCmdDone_of_halt_ctx {n : Nat} {x : Ctx} {s : State} (hn : n < Config.cores s.part) (hb : (s.ctx n x).state = .busy)
    (hh : (s.ctx n x).held = some .halt) :
    ∃ t, exec (.contextCmdDone n x) s = .next t ∧ t.ctx n x = (s.cmdEnded n x).halted n x (s.ctx n x).leaveBusy := by
  refine ⟨_, contextCmdDone_of_halt hn hb hh, ?_⟩
  split
  · exact ctx_setCtx _ _ _ _
  · cases hi : CtxCmd.ignored .halt (s.ctx n x).leaveBusy.state
    · rw [State.ctxAct_halt (by rw [s.cmdEnded_ctx, hi]), ctx_setCtx, s.cmdEnded_ctx]
    · have hstop : ¬ (s.ctx n x).leaveBusy.live := by
        intro hl
        simp [CtxCmd.not_ignored_halt hl] at hi
      rw [State.ctxAct_of_ignored (by rw [s.cmdEnded_ctx, hi]), State.halted_of_stopped _ _ _ hstop]
      exact s.cmdEnded_ctx n x

end Sys2Proof.Machine
end

section
/-! PROOFS. The context commands one by one, and what CLEAR zeroes (R120, R121, Table 5.8): O21. -/

namespace Sys2Proof.Machine

/-! ### The commands -/

theorem contextCommands : Parts.ContextCommands := by
  unfold Parts.ContextCommands
  intro n x s u c hn hup hm hc hu
  subst hc hu
  have hact (i : Instr) (k : CtxCmd) (kslot : Nat) (hb : (s.ctx n x).state ≠ .busy) :
      ctxCmd i n x k kslot s = .next ((s.blkTouch (blkCore n)).ctxAct n x k kslot) := by
    rw [ctxCmd_of_up hn hup hm]
    exact congrArg Host.Outcome.next (State.ctxCommand_of_not_busy (s := s.blkTouch (blkCore n)) hup hb k kslot)
  have hhalt (hl : (s.ctx n x).live) : exec (.halt n x) s =
      .next ((s.blkTouch (blkCore n)).setCtx n x ((s.blkTouch (blkCore n)).halted n x (s.ctx n x))) := by
    refine (hact _ _ _ ?_).trans (congrArg Host.Outcome.next (State.ctxAct_halt (s := s.blkTouch (blkCore n)) (CtxCmd.not_ignored_halt hl) 0))
    rcases hl with h | h | h <;> simp [h]
  have hresume (h : (s.ctx n x).state = .halted) : exec (.resume n x) s = .next (((s.blkTouch (blkCore n)).setCtx n x
      (Context.settle { (if x = Ctx.crown then (s.ctx n x).release else s.ctx n x) with state := .running })).leaveBrim n x) := by
    refine (hact _ _ _ (by simp [h])).trans (congrArg Host.Outcome.next (State.ctxAct_resume (s := s.blkTouch (blkCore n)) ?_ 0))
    exact (congrArg (CtxCmd.ignored .resume) h).trans rfl
  have hstop (a : CtxState) (ha : a = .idle ∨ a = .faulted ∨ a = .empty ∨ a = .halted) : ¬ Context.live { s.ctx n x with
      state := a, busyAfter := .empty, held := none, cmdOk := false } := by
    rcases ha with rfl | rfl | rfl | rfl <;> simp [Context.live]
  refine ⟨fun e he hb hi => ?_, fun hl hf hp => ?_, fun hl hf => ?_, fun hx h => ?_, fun hx h => ?_, fun e he h => ?_, fun k h => ?_,
    fun t hb hh ht => ?_, fun hb hh ha => ?_, fun hb hh ha he hf hp => ?_, fun hb hh => ?_⟩
  · have hign (k : CtxCmd) (hk : k.ignored (s.ctx n x).state = true) : (s.blkTouch (blkCore n)).ctxAct n x k 0 =
        (s.blkTouch (blkCore n)).cmdIgnored n := State.ctxAct_of_ignored (s := s.blkTouch (blkCore n)) hk 0
    simp only [List.mem_cons, List.not_mem_nil, or_false] at he
    rcases he with rfl | rfl | rfl | rfl <;> exact (hact _ _ _ hb).trans (congrArg Host.Outcome.next (hign _ hi))
  · rw [hhalt hl, State.halted_at_once (s := s.blkTouch (blkCore n)) hl hf hp]
  · rw [hhalt hl, State.halted_later (s := s.blkTouch (blkCore n)) hl hf]
  · rw [hresume h, if_pos hx]
    exact congrArg Host.Outcome.next (if_neg (by simp [hx]))
  · rw [hresume h, if_neg (by simp [hx])]
    exact congrArg Host.Outcome.next (if_pos hx)
  · obtain ⟨-, hs, hb⟩ := CtxCmd.record_not_ignored h
    simp only [List.mem_cons, List.not_mem_nil, or_false] at he
    rcases he with rfl | rfl
    · exact (hact _ _ _ hb).trans (congrArg Host.Outcome.next (State.ctxAct_save (s := s.blkTouch (blkCore n)) hs false 0))
    · exact (hact _ _ _ hb).trans (congrArg Host.Outcome.next (State.ctxAct_save (s := s.blkTouch (blkCore n)) hs true 0))
  · obtain ⟨hl, -, hb⟩ := CtxCmd.record_not_ignored h
    exact (hact _ _ _ hb).trans (congrArg Host.Outcome.next (State.ctxAct_load (s := s.blkTouch (blkCore n)) hl _))
  · rw [contextCmdDone_of_free hn hb hh, ht]
    rfl
  · obtain ⟨t, ht, hctx⟩ := contextCmdDone_of_halt_ctx hn hb hh
    have hleave : (s.ctx n x).leaveBusy = _ := Context.settle_of_stopped (hstop _ ha)
    refine ⟨t, ht, ?_⟩
    rw [hctx, hleave, State.halted_of_stopped _ _ _ (hstop _ ha)]
  · obtain ⟨t, ht, hctx⟩ := contextCmdDone_of_halt_ctx hn hb hh
    have hlive : Context.live { s.ctx n x with state := (s.ctx n x).busyAfter, busyAfter := .empty, held := none, cmdOk := false } :=
      Or.inl ha
    refine ⟨t, ht, ?_⟩
    rw [hctx]
    by_cases hh : (s.ctx n x).halting = true
    · have hleave : (s.ctx n x).leaveBusy = _ := Context.settle_of_halting hlive hf hh
      rw [hleave, State.halted_of_stopped _ _ _ (by simp [Context.live])]
    · have hleave : (s.ctx n x).leaveBusy = _ := Context.settle_of_running (Bool.not_eq_true _ |>.mp hh) he
      rw [hleave, State.halted_at_once hlive hf (hp.imp_right fun h => by rw [s.cmdEnded_coreSt, h])]
  · refine (ctxCmd_of_up hn hup hm _ _ _ _).trans (congrArg Host.Outcome.next ?_)
    exact (if_neg (ne_true_of_eq_false (congrArg not hup))).trans ((if_pos hb).trans (if_pos (congrArg Option.isNone hh)))

/-! ### CLEAR -/

/-- The windows of a context are those of the configuration of its core and of its scale unit (R75, R106). -/
theorem State.windows_of_cfg {s t : State} {n : Nat} (hcore : (t.block (blkCore n)).cfg = (s.block (blkCore n)).cfg)
    (hqsc : (t.block (blkQsc n)).cfg = (s.block (blkQsc n)).cfg) (x : Ctx) :
    t.partSize n x = s.partSize n x ∧ (∀ i, t.partAddr n x i = s.partAddr n x i) ∧ t.accStart n x = s.accStart n x ∧
    t.accSize n x = s.accSize n x ∧ t.scaleStart n x = s.scaleStart n x ∧ t.scaleSize n x = s.scaleSize n x := by
  cases x <;>
    simp [State.partSize, State.partAddr, State.partStart, State.accStart, State.accSize, State.scaleStart, State.scaleSize, State.memsplit,
      State.accsplit, State.split, hcore, hqsc]

/-- What CLEAR empties: the tables of memory, accumulators, scale and rescale entries lose the context's windows (R120). -/
theorem State.clearStorage_tables (s : State) (n : Nat) (x : Ctx) :
    (s.clearStorage n x).mem = Table.drop (s.partAddr n x 0) (s.partAddr n x 0 + s.partSize n x + if x = .brim then unit64K else 0) s.mem ∧
    (s.clearStorage n x).accs = Table.drop (64 * n + s.accStart n x) (64 * n + s.accStart n x + s.accSize n x) s.accs ∧
    (s.clearStorage n x).srf = Table.drop (4096 * n + s.scaleStart n x) (4096 * n + s.scaleStart n x + s.scaleSize n x) s.srf ∧
    (s.clearStorage n x).rescale = Table.drop (4096 * n + s.scaleStart n x) (4096 * n + s.scaleStart n x + s.scaleSize n x) s.rescale := by
  cases x <;> exact ⟨rfl, rfl, rfl, rfl⟩

theorem State.clearStorage_ctx (s : State) (n : Nat) (x : Ctx) : (s.clearStorage n x).ctx = s.ctx := by
  cases x <;> rfl

theorem State.clearStorage_sent (s : State) (n : Nat) (x : Ctx) : (s.clearStorage n x).sent = s.sent := by
  cases x <;> rfl

theorem State.clearStorage_spill (s : State) (n : Nat) : ((s.clearStorage n .brim).coreSt n).spill = [] :=
  congrArg CoreSt.spill (coreSt_setCoreSt _ n _)

/-- Giving the core back to Crown changes the core's state alone, and not its suspension area. -/
theorem State.leaveBrim_keeps (s : State) (n : Nat) (x : Ctx) :
    (s.leaveBrim n x).ctx = s.ctx ∧ (s.leaveBrim n x).mem = s.mem ∧ (s.leaveBrim n x).accs = s.accs ∧ (s.leaveBrim n x).srf = s.srf ∧
    (s.leaveBrim n x).rescale = s.rescale ∧ (s.leaveBrim n x).sent = s.sent ∧ ((s.leaveBrim n x).coreSt n).spill = (s.coreSt n).spill := by
  unfold State.leaveBrim
  split
  · exact ⟨rfl, rfl, rfl, rfl, rfl, rfl, by rw [coreSt_setCoreSt]⟩
  · exact ⟨rfl, rfl, rfl, rfl, rfl, rfl, rfl⟩

theorem State.leaveBrim_part (s : State) (n : Nat) (x : Ctx) : (s.leaveBrim n x).part = s.part := by
  unfold State.leaveBrim
  split <;> rfl

theorem State.clearStorage_part (s : State) (n : Nat) (x : Ctx) : (s.clearStorage n x).part = s.part := by
  cases x <;> rfl

/-- What CLEAR leaves of a package, before the Brim context gives the core back. -/
theorem State.clearCtx_keeps (s : State) (n : Nat) (x : Ctx) :
    (s.clearCtx n x).ctx n x = clearedCtx (s.ctx n x) ∧ (∀ m y, (m, y) ≠ (n, x) → (s.clearCtx n x).ctx m y = s.ctx m y) ∧
    (s.clearCtx n x).mem = (s.clearStorage n x).mem ∧ (s.clearCtx n x).accs = (s.clearStorage n x).accs ∧
    (s.clearCtx n x).srf = (s.clearStorage n x).srf ∧ (s.clearCtx n x).rescale = (s.clearStorage n x).rescale ∧
    (s.clearCtx n x).sent = s.sent.filter (fun m => m.op != some (n, x)) ∧
    (x = .brim → ((s.clearCtx n x).coreSt n).spill = []) := by
  have hdrop : ((s.dropMessages n x).clearStorage n x).mem = (s.clearStorage n x).mem ∧
      ((s.dropMessages n x).clearStorage n x).accs = (s.clearStorage n x).accs ∧
      ((s.dropMessages n x).clearStorage n x).srf = (s.clearStorage n x).srf ∧
      ((s.dropMessages n x).clearStorage n x).rescale = (s.clearStorage n x).rescale := by
    cases x <;> exact ⟨rfl, rfl, rfl, rfl⟩
  obtain ⟨hmem, haccs, hsrf, hresc⟩ := hdrop
  refine ⟨ctx_setCtx _ _ _ _, fun m y h => ?_, hmem, haccs, hsrf, hresc, ?_, fun h => ?_⟩
  · refine (ctx_setCtx_ne _ _ h).trans ?_
    rw [State.clearStorage_ctx]
    rfl
  · exact State.clearStorage_sent _ n x
  · subst h
    exact State.clearStorage_spill _ n

theorem clearZeroes : Parts.ClearZeroes := by
  unfold Parts.ClearZeroes
  intro n x s hn hup hm hb
  have hexec : exec (.clear n x) s = .next (((s.blkTouch (blkCore n)).clearCtx n x).leaveBrim n x) := by
    refine (ctxCmd_of_up hn hup hm _ _ _ _).trans (congrArg Host.Outcome.next ?_)
    exact (State.ctxCommand_of_not_busy (s := s.blkTouch (blkCore n)) hup hb _ _).trans (State.ctxAct_clear _ n x 0)
  refine ⟨_, hexec, ?_⟩
  obtain ⟨hsize, haddr, hastart, hasize, hsstart, hssize⟩ :=
    State.windows_of_cfg (s.blkTouch_cfg (blkCore n) (blkCore n)) (s.blkTouch_cfg (blkCore n) (blkQsc n)) x
  obtain ⟨hcmem, hcaccs, hcsrf, hcresc⟩ := (s.blkTouch (blkCore n)).clearStorage_tables n x
  obtain ⟨hctx, hother, hmem, haccs, hsrf, hresc, hsent, hspill⟩ := (s.blkTouch (blkCore n)).clearCtx_keeps n x
  obtain ⟨hlctx, hlmem, hlaccs, hlsrf, hlresc, hlsent, hlspill⟩ := ((s.blkTouch (blkCore n)).clearCtx n x).leaveBrim_keeps n x
  rw [hsize, haddr] at hcmem
  rw [hastart, hasize] at hcaccs
  rw [hsstart, hssize] at hcsrf hcresc
  refine ⟨?_, fun m y h => ?_, fun i hi => ?_, fun a ha => ?_, fun i hi => ?_, fun p j h => ?_, fun i hi => ⟨?_, ?_⟩, fun h => ?_, fun m h => ?_,
    fun hh => ⟨_, contextCmdDone_of_free (s := ((s.blkTouch (blkCore n)).clearCtx n x).leaveBrim n x) ?_ ?_ ?_, ?_⟩⟩
  · rw [hlctx, hctx]
    rfl
  · rw [hlctx, hother m y h]
    rfl
  · rw [State.byte, hlmem, hmem, hcmem]
    refine Table.read_drop_in _ _ _ _ _ ?_
    simp only [State.partAddr]
    omega
  · rw [State.byte, State.byte, hlmem, hmem, hcmem]
    refine Table.read_drop _ _ _ _ _ ?_
    simp only [unit64K]
    omega
  · rw [State.acc, hlaccs, haccs, hcaccs]
    exact Table.read_drop_in _ _ _ _ _ (by omega)
  · rw [State.acc, State.acc, hlaccs, haccs, hcaccs]
    exact Table.read_drop _ _ _ _ _ (by omega)
  · rw [State.srfEntry, hlsrf, hsrf, hcsrf]
    exact Table.read_drop_in _ _ _ _ _ (by omega)
  · rw [State.rescaleEntry, hlresc, hresc, hcresc]
    exact Table.read_drop_in _ _ _ _ _ (by omega)
  · rw [hlspill, hspill h]
  · rw [hlsent, hsent] at h
    simpa using (List.mem_filter.mp h).2
  · rw [State.leaveBrim_part, State.clearCtx, State.setCtx_part, State.clearStorage_part]
    exact hn
  · rw [hlctx, hctx]
    rfl
  · rw [hlctx, hctx]
    exact hh
  · rw [State.cmdEnded_ctx, hlctx, hctx, Context.leaveBusy, Context.settle_of_stopped]
    · rfl
    · simp [Context.live, clearedCtx]

/-- Settles O21: each command by what it accepts, refuses or holds, and CLEAR by the windows that its four tables lose. -/
theorem contextCommandsAndClear : Obligations.ContextCommandsAndClear := ⟨contextCommands, clearZeroes⟩

end Sys2Proof.Machine
end

section
/-! PROOFS. A core is enabled and disabled under its block's guard (R109, R351), with O22. -/

namespace Sys2Proof.Machine

/-! ### The guard of a block -/

theorem State.blkGuard_of_locked {s : State} {b : Nat} (h : (s.block b).guardOpen = false) :
    s.blkGuard b = (s.setBlock b { s.block b with guardRefused := satAdd 16 (s.block b).guardRefused 1 }, false) :=
  if_neg (ne_true_of_eq_false h)

theorem State.blkGuard_of_open {s : State} {b : Nat} (h : (s.block b).guardOpen = true) : s.blkGuard b = (s.blkTouch b, true) := if_pos h

theorem State.blkTouch_block (s : State) (b : Nat) : (s.blkTouch b).block b = { s.block b with guardOpen := false } := block_setBlock _ _ _

theorem State.blkTouch_block_ne (s : State) {b c : Nat} (h : c ≠ b) : (s.blkTouch b).block c = s.block c := block_setBlock_ne _ _ h

/-- In READY, with no MULTI_WRITE waiting, a write of CORE_CTL acts behind the guard of the core's block. -/
theorem coreCtl_of_up {n : Nat} {s : State} (hn : n < Config.cores s.part) (hup : s.up = true) (hm : s.multiHolds = false) :
    exec (.coreEnable n) s = .next (s.coreCtl n fun s => (s.enableCore n).1) ∧
    exec (.coreDisable n) s = .next (s.coreCtl n fun s => s.disableCore n) := by
  have hnow (i : Instr) (t : State) : s.unlessMulti i (if s.up then t else s) = t := by rw [State.unlessMulti, hm, hup]; rfl
  exact ⟨(if_pos hn).trans (congrArg Host.Outcome.next (hnow _ _)), (if_pos hn).trans (congrArg Host.Outcome.next (hnow _ _))⟩

theorem State.coreCtl_of_locked {s : State} {n : Nat} (h : (s.block (blkCore n)).guardOpen = false) (f : State → State) :
    s.coreCtl n f = s.setBlock (blkCore n) { s.block (blkCore n) with guardRefused := satAdd 16 (s.block (blkCore n)).guardRefused 1 } := by
  rw [State.coreCtl, State.blkGuard_of_locked h]
  rfl

theorem State.coreCtl_of_open {s : State} {n : Nat} (h : (s.block (blkCore n)).guardOpen = true) (f : State → State) :
    s.coreCtl n f = f (s.blkTouch (blkCore n)) := by
  rw [State.coreCtl, State.blkGuard_of_open h]
  rfl

/-! ### Enable -/

theorem State.coreCfgBad_of_cfg {s t : State} {n : Nat} (h : (t.block (blkCore n)).cfg = (s.block (blkCore n)).cfg) :
    t.coreCfgBad n = s.coreCfgBad n := by
  unfold State.coreCfgBad State.memsplit State.accsplit State.brimen
  rw [h]

/-- The enable of a core that is not enabled: refused or not, it changes that core's block alone. -/
theorem State.enableCore_of_off {s : State} {n : Nat} (h : (s.block (blkCore n)).en = false) :
    (s.enableCore n).1 = s.setBlock (blkCore n) (if s.coreCfgBad n then { s.block (blkCore n) with cfgBad := true }
      else { s.block (blkCore n) with en := true, cfgBad := false }) := by
  rw [State.enableCore, if_neg (ne_true_of_eq_false h)]
  split <;> rfl

/-- An enable under an open guard. -/
theorem coreEnable_of_open {n : Nat} {s : State} (hn : n < Config.cores s.part) (hup : s.up = true) (hm : s.multiHolds = false)
    (hg : (s.block (blkCore n)).guardOpen = true) (he : (s.block (blkCore n)).en = false) :
    ∃ t, exec (.coreEnable n) s = .next t ∧ t = { s with blocks := t.blocks } ∧
      t.block (blkCore n) = (if s.coreCfgBad n then { s.block (blkCore n) with guardOpen := false, cfgBad := true }
        else { s.block (blkCore n) with guardOpen := false, en := true, cfgBad := false }) ∧
      ∀ c, c ≠ blkCore n → t.block c = s.block c := by
  have hoff : ((s.blkTouch (blkCore n)).block (blkCore n)).en = false := by rw [s.blkTouch_block]; exact he
  refine ⟨_, (coreCtl_of_up hn hup hm).1.trans (congrArg Host.Outcome.next ((State.coreCtl_of_open hg _).trans
    (State.enableCore_of_off hoff))), rfl, ?_, fun c hc => ?_⟩
  · rw [block_setBlock, s.blkTouch_block, State.coreCfgBad_of_cfg (s.blkTouch_cfg (blkCore n) (blkCore n))]
  · rw [block_setBlock_ne _ _ hc, s.blkTouch_block_ne hc]

/-! ### Disable -/

/-- What a disable makes of a context (R109). -/
def State.disabledCtx (s : State) (n : Nat) (x : Ctx) : Context :=
  if (s.ctx n x).state = .busy then { s.ctx n x with held := some ((s.ctx n x).held.getD .halt) } else s.halted n x (s.ctx n x)

theorem State.disabledCtx_of_ctx {s t : State} {n : Nat} {x : Ctx} (hctx : t.ctx n x = s.ctx n x) (hcore : t.coreSt n = s.coreSt n) :
    t.disabledCtx n x = s.disabledCtx n x := by
  simp only [State.disabledCtx, State.halted, State.settleCtx, hctx, hcore]

theorem State.disableCtx_eq (s : State) (n : Nat) (x : Ctx) : s.disableCtx n x = s.setCtx n x (s.disabledCtx n x) := by
  unfold State.disableCtx State.disabledCtx
  dsimp only
  split <;> rfl

/-- A disable of an enabled core halts both contexts. -/
theorem State.disableCore_of_on {s : State} {n : Nat} (he : (s.block (blkCore n)).en = true) (hd : (s.coreSt n).disabling = false) :
    s.disableCore n = ((s.setCtx n .crown (s.disabledCtx n .crown)).setCtx n .brim (s.disabledCtx n .brim)).setCoreSt n
      { s.coreSt n with disabling := true } := by
  have hbrim : (s.setCtx n .crown (s.disabledCtx n .crown)).disabledCtx n .brim = s.disabledCtx n .brim := by
    have hctx : (s.setCtx n .crown (s.disabledCtx n .crown)).ctx n .brim = s.ctx n .brim := ctx_setCtx_ne _ _ (by simp)
    exact State.disabledCtx_of_ctx hctx rfl
  rw [State.disableCore, if_neg (by simp [he, hd]), State.disableCtx_eq, State.disableCtx_eq, hbrim]

/-! ### O22 -/

/-- Settles O22: behind the guard, one update for each outcome of an enable, a disable and its end. -/
theorem coreEnable : Obligations.CoreEnable := by
  unfold Obligations.CoreEnable
  intro n s b hn hup hm hb
  subst hb
  refine ⟨fun hg i hi => ?_, fun hg he hc => ?_, fun hg he hc => ?_, fun hg he hd => ?_, fun hd hqc hqb hmu hh => ?_⟩
  · obtain ⟨hen, hdis⟩ := coreCtl_of_up hn hup hm
    simp only [List.mem_cons, List.not_mem_nil, or_false] at hi
    rcases hi with rfl | rfl
    · rw [hen, State.coreCtl_of_locked hg]
    · rw [hdis, State.coreCtl_of_locked hg]
  · obtain ⟨t, ht, heq, hblk, hne⟩ := coreEnable_of_open hn hup hm hg he
    exact ⟨t, ht, heq, by rw [hblk, hc]; rfl, hne⟩
  · obtain ⟨t, ht, heq, hblk, hne⟩ := coreEnable_of_open hn hup hm hg he
    exact ⟨t, ht, heq, by rw [hblk, hc]; rfl, hne⟩
  · have hon : ((s.blkTouch (blkCore n)).block (blkCore n)).en = true := by rw [s.blkTouch_block]; exact he
    refine ⟨_, (coreCtl_of_up hn hup hm).2.trans (congrArg Host.Outcome.next ((State.coreCtl_of_open hg _).trans
      (State.disableCore_of_on hon hd))), fun x => ?_, ?_, ?_, rfl⟩
    · rw [State.setCoreSt_ctx]
      cases x
      · rw [ctx_setCtx_ne _ _ (by simp), ctx_setCtx]
        rfl
      · rw [ctx_setCtx]
        rfl
    · rw [coreSt_setCoreSt]
    · exact hon
  · have hdone : exec (.coreDisableDone n) s = .next ((s.setBlock (blkCore n) { s.block (blkCore n) with en := false }).setCoreSt n
        { s.coreSt n with disabling := false, active := .crown, switching := false, resumed := false }) := by
      have hend : s.coreDisabled n = (s.setBlock (blkCore n) { s.block (blkCore n) with en := false }).setCoreSt n
          { s.coreSt n with disabling := false, active := .crown, switching := false, resumed := false } :=
        if_pos (by rw [hd, hqc, hqb]; rfl)
      refine (if_pos hn).trans (congrArg Host.Outcome.next ?_)
      rw [hend, State.resumeAll, State.resumeMulti]
      simp [hmu, hh, State.setCoreSt, State.setBlock]
    refine ⟨_, hdone, ?_, by rw [coreSt_setCoreSt], by rw [coreSt_setCoreSt]⟩
    exact congrArg Block.en (block_setBlock _ _ _)

end Sys2Proof.Machine
end

section
/-! PROOFS. Error records: what a capture leaves as it was, Vigil mode on a fatal one (R411, R442), and the queues of the dies
(R407, R410), with O51 and O52. -/

namespace Sys2Proof.Machine

/-! ### A loop over the first places -/

/-- A loop that changes one place at a time: each place that it reaches takes its change once, and the others stay. -/
theorem foldl_range_at {α : Type} (get : State → Nat → α) (f : State → Nat → State) (g : Nat → α → α)
    (hsame : ∀ s d, get (f s d) d = g d (get s d)) (hother : ∀ s d e, e ≠ d → get (f s d) e = get s e) (s : State) (d : Nat) :
    ∀ n, get ((List.range n).foldl f s) d = if d < n then g d (get s d) else get s d
  | 0 => rfl
  | n + 1 => by
    rw [List.range_succ, List.foldl_append, List.foldl_cons, List.foldl_nil]
    have ih := foldl_range_at get f g hsame hother s d n
    by_cases h : d = n
    · subst h
      rw [hsame, ih, if_neg (Nat.lt_irrefl d), if_pos (Nat.lt_succ_self d)]
    · rw [hother _ _ _ h, ih]
      exact if_congr (by omega) rfl rfl

/-! ### Entry into Vigil mode -/

theorem fport_setFport (s : State) (p : Nat) (v : FPort) : (s.setFport p v).fport p = v := by
  simp [State.fport, State.setFport]

theorem fport_setFport_ne (s : State) {p q : Nat} (v : FPort) (h : q ≠ p) : (s.setFport p v).fport q = s.fport q :=
  Table.read_write_ne _ (Ne.symm h) _ _

/-- A total changes no port. -/
theorem TotChange.fport {s t : State} (h : TotChange s t) (p : Nat) : t.fport p = s.fport p := by
  rw [TotChange] at h
  rw [h]
  rfl

/-- What a port is when its package enters Vigil mode: its replay buffer dropped, and ABSENT to send (R279, R411). -/
def FPort.vigil (f : FPort) : FPort :=
  { f with replay := [], replayHead := none, resends := 0, nakSent := false, rxPacket := none, out := f.out ++ [.absent] }

theorem State.discard_sendAbsent_fport (s : State) (p : Nat) : ((s.discardReplay p).sendAbsent p).fport p = (s.fport p).vigil := by
  rw [State.sendAbsent, fport_setFport, State.discardReplay, (State.bump_totChange _ _ _ _).fport, fport_setFport]
  rfl

theorem State.discard_sendAbsent_fport_ne (s : State) (p q : Nat) (h : q ≠ p) : ((s.discardReplay p).sendAbsent p).fport q = s.fport q := by
  rw [State.sendAbsent, fport_setFport_ne _ _ h, State.discardReplay, (State.bump_totChange _ _ _ _).fport, fport_setFport_ne _ _ h]

/-- Ports and totals alone change. -/
def PortChange (s t : State) : Prop := t = { s with fports := t.fports, tots := t.tots }

theorem PortChange.trans {s t u : State} (ht : PortChange s t) (hu : PortChange t u) : PortChange s u := by
  rw [PortChange] at ht hu ⊢
  rw [hu, ht]

theorem TotChange.portChange {s t : State} (h : TotChange s t) : PortChange s t := by
  rw [TotChange] at h
  rw [PortChange, h]

theorem State.setFport_portChange (s : State) (p : Nat) (v : FPort) : PortChange s (s.setFport p v) := rfl

theorem State.discardReplay_portChange (s : State) (p : Nat) : PortChange s (s.discardReplay p) :=
  (s.setFport_portChange p _).trans (State.bump_totChange _ _ _ _).portChange

/-- Every port at the entry into Vigil mode. -/
def State.portsVigil (s : State) : State :=
  (List.range (Config.ports s.part)).foldl (fun s p => (s.discardReplay p).sendAbsent p) s

theorem State.portsVigil_portChange (s : State) : PortChange s s.portsVigil :=
  foldl_holds (PortChange s) _ (fun t p h => (h.trans (t.discardReplay_portChange p)).trans (State.setFport_portChange _ p _)) _ _ rfl

theorem State.portsVigil_fport (s : State) {p : Nat} (h : p < Config.ports s.part) : s.portsVigil.fport p = (s.fport p).vigil := by
  rw [State.portsVigil, foldl_range_at State.fport _ (fun _ => FPort.vigil) State.discard_sendAbsent_fport State.discard_sendAbsent_fport_ne,
    if_pos h]

/-- The package as it stops: its contexts abandoned, its packets gone (R411). -/
def State.vigilBase (s : State) : State :=
  { s with ctxs := s.ctxs.map (fun (e : Nat × Context) => (e.1, e.2.abandon)), boot := { s.boot with state := .vigil, warm := false },
           router := [], inbox := [], msgTable := [], sent := [], reshards := [], auditFrozen := true }

/-- The entry into Vigil mode: the package stops, its ports send ABSENT, power goes, and the ledger is committed (R411, R435, R442). -/
theorem State.enterVigil_frame {s : State} (h : s.boot.state ≠ .vigil) :
    s.enterVigil = { s.vigilBase.portsVigil with security := s.enterVigil.security, power := s.enterVigil.power } ∧
    s.enterVigil.power.rails = s.vigilBase.portsVigil.power.rails.filter (fun e => e.2 ≠ 0) ∧ s.enterVigil.power.fabricLanes = [] := by
  have heq : s.enterVigil = (({ s.vigilBase.portsVigil with power := s.vigilBase.portsVigil.power.vigil } : State).modLedger
      (fun l => { l with vigilEntries := satAdd 32 l.vigilEntries 1 })).commitLedger := if_neg (by simpa using h)
  rw [heq]
  exact ⟨rfl, rfl, rfl⟩

/-- A context that reads as nothing has no operation, and one that is abandoned has none. -/
theorem ctx_vigilBase_ops (s : State) (n : Nat) (x : Ctx) : (s.vigilBase.ctx n x).ops = [] := by
  have hread (m : Table Context) (k : Nat) :
      (Table.read {} k (m.map (fun (e : Nat × Context) => (e.1, e.2.abandon)))).ops = [] := by
    induction m with
    | nil => rfl
    | cons e m ih =>
      rw [List.map_cons, Table.read]
      split
      · rfl
      · exact ih
  exact hread _ _

/-- What stands where a package has entered Vigil mode (R411, R442). -/
structure InVigil (s t : State) : Prop where
  state : t.boot.state = .vigil
  router : t.router = []
  inbox : t.inbox = []
  sent : t.sent = []
  replay : ∀ p < Config.ports s.part, (t.fport p).replay = []
  rails : ∀ d, (d, 0) ∉ t.power.rails
  lanes : t.power.fabricLanes = []
  ops : ∀ n x, (t.ctx n x).ops = []

theorem State.enterVigil_inVigil {s : State} (h : s.boot.state ≠ .vigil) : InVigil s s.enterVigil := by
  have hports := s.vigilBase.portsVigil_portChange
  rw [PortChange] at hports
  obtain ⟨hframe, hrails, hlanes⟩ := State.enterVigil_frame h
  refine ⟨?_, ?_, ?_, ?_, fun p hp => ?_, fun d => ?_, hlanes, fun n x => ?_⟩
  · rw [hframe, hports]; rfl
  · rw [hframe, hports]; rfl
  · rw [hframe, hports]; rfl
  · rw [hframe, hports]; rfl
  · have hf : s.enterVigil.fport p = s.vigilBase.portsVigil.fport p := by rw [hframe]; rfl
    rw [hf, s.vigilBase.portsVigil_fport hp]
    rfl
  · rw [hrails]
    exact fun hd => absurd rfl (of_decide_eq_true (List.mem_filter.mp hd).2)
  · have hc : s.enterVigil.ctx n x = s.vigilBase.ctx n x := by rw [hframe, hports]; rfl
    rw [hc]
    exact ctx_vigilBase_ops s n x

/-- An event leaves Vigil mode as it is. -/
theorem InVigil.event {s t u : State} (h : InVigil s t) (hu : EventChange t u) : InVigil s u := by
  rw [EventChange] at hu
  rw [hu]
  exact ⟨h.state, h.router, h.inbox, h.sent, h.replay, h.rails, h.lanes, h.ops⟩

/-- The entry leaves what the memory controllers keep. -/
theorem State.enterVigil_untrained (s : State) : s.enterVigil.untrained = s.untrained := by
  by_cases h : s.boot.state = .vigil
  · rw [State.enterVigil, if_pos (by simp [h])]
  · have hports := s.vigilBase.portsVigil_portChange
    rw [PortChange] at hports
    rw [(State.enterVigil_frame h).1, hports]
    rfl

theorem State.enterVigil_state (s : State) : s.enterVigil.boot.state = .vigil := by
  by_cases h : s.boot.state = .vigil
  · rw [State.enterVigil, if_pos (by simp [h]), h]
  · exact (State.enterVigil_inVigil h).state

/-! ### The capture of a fatal error, and of a corrected one -/

/-- The package that has queued, or lost, a fatal record. -/
def State.ufQueued (s : State) (cls : Nat) (w : ErrAt) : State :=
  (s.enqueueRec (s.newRec cls w)).modLedger (fun l => { l with ufRecords := satAdd 32 l.ufRecords 1 })

/-- The capture of a fatal error ends in Vigil mode, but for an event where the record was lost (R411). -/
theorem State.capture_of_fatal {s : State} {cls : Nat} {w : ErrAt} (huf : classSev cls = 3) :
    EventChange (s.ufQueued cls w).enterVigil (s.capture cls w) := by
  have hsev : (s.newRec cls w).sev = 3 := huf
  rw [State.capture]
  simp only [hsev, show ((3 : Nat) = 0) = False from by simp, if_false, if_true]
  split
  · exact State.event_eventChange _ _ _ _ _ _ _
  · exact EventChange.refl _

/-- Queuing a record leaves the state of the package. -/
theorem State.ufQueued_frame (s : State) (cls : Nat) (w : ErrAt) :
    s.ufQueued cls w = { s with errors := (s.ufQueued cls w).errors, security := (s.ufQueued cls w).security } := by
  rw [State.ufQueued, s.enqueueRec_frame]
  rfl

theorem State.capture_inVigil {s : State} {cls : Nat} {w : ErrAt} (huf : classSev cls = 3) (h : s.boot.state ≠ .vigil) :
    InVigil s (s.capture cls w) := by
  have hq := s.ufQueued_frame cls w
  have hstate : (s.ufQueued cls w).boot.state ≠ .vigil := by rw [hq]; exact h
  have hin := (State.enterVigil_inVigil hstate).event (State.capture_of_fatal huf)
  have hpart : (s.ufQueued cls w).part = s.part := by rw [hq]
  exact ⟨hin.state, hin.router, hin.inbox, hin.sent, fun p hp => hin.replay p (by rw [hpart]; exact hp), hin.rails, hin.lanes, hin.ops⟩

/-- The capture of a corrected error changes records and the ledger's counts alone (R405, R406). -/
theorem State.capture_frame_of_corrected (s : State) {cls : Nat} (w : ErrAt) (hce : classSev cls = 0) :
    s.capture cls w = { s with errors := (s.capture cls w).errors, security := (s.capture cls w).security } := by
  have hsev : (s.newRec cls w).sev = 0 := hce
  have hledger : s.ledgerCe cls w.source = { s with security := (s.ledgerCe cls w.source).security } := by
    unfold State.ledgerCe
    split
    · rfl
    · split <;> rfl
  rw [State.capture]
  simp only [hsev, if_true, show ((0 : Nat) = 3) = False from by simp, if_false]
  split
  · rw [hledger]
    rfl
  · rw [State.enqueueRec_frame, hledger]

/-! ### O51 -/

/-- Settles O51: the capture queues or loses the record, enters Vigil mode, and no event after it brings anything back. -/
theorem fatalErrors : Obligations.FatalErrors := by
  unfold Obligations.FatalErrors
  intro s cls w huf h
  have hin := State.capture_inVigil (w := w) huf h
  refine ⟨hin.state, hin.router, hin.inbox, hin.sent, hin.replay, s.capture_mem cls w, hin.rails, hin.lanes, fun n x => ⟨hin.ops n x, ?_⟩⟩
  have hup : (s.capture cls w).up = false := by rw [State.up, hin.state]; rfl
  rw [State.canIssue, hup]
  rfl

/-! ### O52 -/

theorem errQueue_setErrQueue (s : State) (d : Nat) (q : List ErrRec) : (s.setErrQueue d q).errQueue d = q := by
  simp [State.errQueue, State.setErrQueue]

theorem errQueue_setErrQueue_ne (s : State) {d e : Nat} (q : List ErrRec) (h : e ≠ d) : (s.setErrQueue d q).errQueue e = s.errQueue e :=
  Table.read_write_ne _ (Ne.symm h) _ _

/-- The error unit alone changes. -/
def ErrorsChange (s t : State) : Prop := t = { s with errors := t.errors }

theorem ErrorsChange.trans {s t u : State} (ht : ErrorsChange s t) (hu : ErrorsChange t u) : ErrorsChange s u := by
  rw [ErrorsChange] at ht hu ⊢
  rw [hu, ht]

/-- ERR_ACK at one die. -/
def State.ackDie (v : Nat) (s : State) (d : Nat) : State :=
  s.setErrQueue d ((s.errQueue d).filter (fun r => !(r.phase == .handled && seqAtMost r.seq v)))

/-- A write of a lost count at one die. -/
def State.clearLostDie (sev : Nat) (s : State) (d : Nat) : State :=
  { s with errors := { s.errors with lost := Table.write [0, 0, 0, 0] d ((s.lostShares d).set sev 0) s.errors.lost } }

theorem State.errAck_errorsChange (s : State) (v : Nat) : ErrorsChange s (s.errAck v) :=
  foldl_holds (ErrorsChange s) (State.ackDie v) (fun t d h => h.trans (u := t.ackDie v d) rfl) _ _ rfl

theorem State.errAck_errQueue (s : State) (v : Nat) {d : Nat} (h : d < Config.dies s.part) :
    (s.errAck v).errQueue d = (s.errQueue d).filter (fun r => !(r.phase == .handled && seqAtMost r.seq v)) :=
  (foldl_range_at State.errQueue (State.ackDie v) (fun _ q => q.filter (fun r => !(r.phase == .handled && seqAtMost r.seq v)))
    (fun _ _ => errQueue_setErrQueue _ _ _) (fun _ _ _ h => errQueue_setErrQueue_ne _ _ h) s d _).trans (if_pos h)

theorem State.clearLost_errorsChange (s : State) (sev : Nat) : ErrorsChange s (s.clearLost sev) :=
  foldl_holds (ErrorsChange s) (State.clearLostDie sev) (fun t d h => h.trans (u := t.clearLostDie sev d) rfl) _ _ rfl

theorem State.clearLost_lostShares (s : State) (sev : Nat) {d : Nat} (h : d < Config.dies s.part) :
    (s.clearLost sev).lostShares d = (s.lostShares d).set sev 0 :=
  (foldl_range_at State.lostShares (State.clearLostDie sev) (fun _ l => l.set sev 0) (fun _ _ => Table.read_write_same _ _ _ _)
    (fun _ _ _ h => Table.read_write_ne _ (Ne.symm h) _ _) s d _).trans (if_pos h)

theorem State.clearLost_errQueue (s : State) (sev d : Nat) : (s.clearLost sev).errQueue d = s.errQueue d :=
  foldl_keeps (·.errQueue d) (State.clearLostDie sev) (fun _ _ => rfl) _ _

/-- Settles O52: one record under way, and one loop over the dies for each of the two writes. -/
theorem errorQueues : Obligations.ErrorQueues := by
  unfold Obligations.ErrorQueues
  intro s d hd
  refine ⟨fun r q hr hq => ?_, fun v hm => ?_, fun sev hsev hm => ?_⟩
  · have hhandle : s.handle d = if r.sev = 0 then q else q.event 7 r.die r.source r.step (errHead r) none := by
      rw [State.handle, hr, hq]
    have hexec : exec (.recordHandling d) s = .next (s.handle d) := if_pos hd
    exact ⟨fun h => by rw [hexec, hhandle, if_pos h], fun h => by rw [hexec, hhandle, if_neg h]⟩
  · refine ⟨s.pkgTouch.errAck v.toNat, congrArg Host.Outcome.next ?_, s.pkgTouch.errAck_errorsChange _, s.pkgTouch.errAck_errQueue _ hd⟩
    rw [State.unlessMulti, hm]
    rfl
  · refine ⟨s.pkgTouch.clearLost sev, congrArg Host.Outcome.next ?_, s.pkgTouch.clearLost_errorsChange _,
      s.pkgTouch.clearLost_lostShares _ hd, s.pkgTouch.clearLost_errQueue _ d⟩
    rw [State.unlessMulti, hm]
    rfl

end Sys2Proof.Machine
end

section
/-! PROOFS. The patrol scrub and the loss of a stack, each ending in a capture (R301, R314, R316), with O24. -/

namespace Sys2Proof.Machine

/-! ### Totals of two objects -/

theorem tot_bump_ne (s : State) {i j i' j' : Nat} (k : Nat) (h : okey i j ≠ okey i' j') : (s.bump i j k).tot i' j' = s.tot i' j' := by
  unfold State.bump
  split
  · rfl
  · exact Table.read_write_ne _ h _ _

theorem stackCount_lt (p : Part) : Config.stackCount p < 0x100 := by cases p <;> decide

/-- The counters of a stack are no conserved counts. -/
theorem isAudit_stack {p : Part} {k : Nat} (h : k < Config.stackCount p) : isAudit (0x3300 + k) = false := by
  have := stackCount_lt p
  simp only [isAudit, Bool.or_eq_false_iff, Bool.and_eq_false_iff, decide_eq_false_iff_not]
  omega

/-! ### What a scrub changes -/

/-- Error records, the ledger, the counts, the condition of units and the controllers' error counts alone change. -/
def ScrubChange (s t : State) : Prop :=
  t = { s with errors := t.errors, security := t.security, tots := t.tots, unitCode := t.unitCode, mcErr := t.mcErr }

/-- One unit rewritten: its condition, its controller's count and one counter of its stack. -/
def State.rewriteUnit (s : State) (k u : Nat) (c : Codeword) (ce uc sub : Nat) : State :=
  ((s.setCond u c).mcCount k ce uc).bump (0x3300 + k) sub 1

theorem State.rewriteUnit_spec (s : State) {k : Nat} (hk : isAudit (0x3300 + k) = false) (u : Nat) (c : Codeword) (ce uc : Nat) (sub : Nat) :
    (s.rewriteUnit k u c ce uc sub).unitCondOf u = c.cond ∧ (∀ v, v ≠ u → (s.rewriteUnit k u c ce uc sub).unitCondOf v = s.unitCondOf v) ∧
    (s.rewriteUnit k u c ce uc sub).tot (0x3300 + k) sub = satAdd 64 (s.tot (0x3300 + k) sub) 1 ∧
    (∀ j, j ≠ sub → (s.rewriteUnit k u c ce uc sub).tot (0x3300 + k) j = s.tot (0x3300 + k) j) ∧
    (s.rewriteUnit k u c ce uc sub).scrubAt = s.scrubAt := by
  have hb := State.bump_totChange ((s.setCond u c).mcCount k ce uc) (0x3300 + k) sub 1
  rw [TotChange] at hb
  have hcond (v : Nat) : (s.rewriteUnit k u c ce uc sub).unitCondOf v = (s.setCond u c).unitCondOf v := by
    rw [State.rewriteUnit, hb]
    rfl
  refine ⟨?_, fun v hv => ?_, tot_bump_same _ hk _ _, fun j h => tot_bump_ne _ _ ?_, ?_⟩
  · rw [hcond, State.unitCondOf, State.codeOf, State.setCond, Table.read_write_same]
  · rw [hcond, State.unitCondOf, State.codeOf, State.setCond, Table.read_write_ne _ (Ne.symm hv)]
    rfl
  · simp only [okey]
    omega
  · rw [State.rewriteUnit, hb]
    rfl

/-- What an error record leaves of the memory controllers: the condition of every unit, the counts, and where the patrol stands. -/
theorem State.capture_keeps_units (s : State) {cls : Nat} (w : ErrAt) (h : classSev cls = 0 ∨ classSev cls = 1) :
    (∀ v, (s.capture cls w).unitCondOf v = s.unitCondOf v) ∧ (∀ i j, (s.capture cls w).tot i j = s.tot i j) ∧
    (s.capture cls w).scrubAt = s.scrubAt := by
  rcases h with h | h
  · rw [s.capture_frame_of_corrected w h]
    exact ⟨fun _ => rfl, fun _ _ => rfl, rfl⟩
  · rw [s.capture_frame_of_deferred w h]
    exact ⟨fun _ => rfl, fun _ _ => rfl, rfl⟩

/-- What the scrub of one unit does, by the condition that it meets (R314, R316). -/
theorem State.scrubOne_spec (s : State) {k : Nat} (hk : isAudit (0x3300 + k) = false) (u : Nat) :
    (∀ v, v ≠ u → (s.scrubOne k u).unitCondOf v = s.unitCondOf v) ∧
    (s.scrubOne k u).unitCondOf u = (match s.unitCondOf u with | .correctable => .clean | .uncorrectable => .poisoned | c => c) ∧
    (s.scrubOne k u).tot (0x3300 + k) 1 =
      (if s.unitCondOf u = .correctable then satAdd 64 (s.tot (0x3300 + k) 1) 1 else s.tot (0x3300 + k) 1) ∧
    (s.scrubOne k u).tot (0x3300 + k) 2 =
      (if s.unitCondOf u = .uncorrectable then satAdd 64 (s.tot (0x3300 + k) 2) 1 else s.tot (0x3300 + k) 2) ∧
    (s.scrubOne k u).scrubAt = s.scrubAt := by
  cases hc : s.unitCondOf u with
  | clean =>
    have h : s.scrubOne k u = s := by simp only [State.scrubOne, hc]
    rw [h]
    simp [hc]
  | poisoned =>
    have h : s.scrubOne k u = s := by simp only [State.scrubOne, hc]
    rw [h]
    simp [hc]
  | correctable =>
    have h : s.scrubOne k u = (s.rewriteUnit k u {} 1 0 1).capture 0x01
        { die := k / 6, source := blkMc k, addr := some (u * 64), syndrome := memSyndrome s u } := by
      simp only [State.scrubOne, hc, State.rewriteUnit]
    obtain ⟨hsame, hother, htot, htots, hat⟩ := s.rewriteUnit_spec hk u {} 1 0 1
    obtain ⟨hunit, hct, hcat⟩ := (s.rewriteUnit k u {} 1 0 1).capture_keeps_units (cls := 0x01)
      { die := k / 6, source := blkMc k, addr := some (u * 64), syndrome := memSyndrome s u } (Or.inl rfl)
    rw [h]
    refine ⟨fun v hv => by rw [hunit, hother v hv], by rw [hunit, hsame]; rfl, ?_, ?_, by rw [hcat, hat]⟩
    · rw [hct, htot, if_pos rfl]
    · rw [hct, htots 2 (by decide), if_neg (by simp)]
  | uncorrectable =>
    have h : s.scrubOne k u = (s.rewriteUnit k u { poison := true } 0 1 2).capture 0x15
        { die := k / 6, source := blkMc k, addr := some (u * 64), syndrome := memSyndrome s u } := by
      simp only [State.scrubOne, hc, State.rewriteUnit]
    obtain ⟨hsame, hother, htot, htots, hat⟩ := s.rewriteUnit_spec hk u { poison := true } 0 1 2
    obtain ⟨hunit, hct, hcat⟩ := (s.rewriteUnit k u { poison := true } 0 1 2).capture_keeps_units (cls := 0x15)
      { die := k / 6, source := blkMc k, addr := some (u * 64), syndrome := memSyndrome s u } (Or.inr rfl)
    rw [h]
    refine ⟨fun v hv => by rw [hunit, hother v hv], by rw [hunit, hsame]; rfl, ?_, ?_, by rw [hcat, hat]⟩
    · rw [hct, htots 1 (by decide), if_neg (by simp)]
    · rw [hct, htot, if_pos rfl]

/-- The patrol moves on, and no unit and neither count of errors changes. -/
theorem State.scrubNext_spec (s : State) (k : Nat) :
    (∀ v, (s.scrubNext k).unitCondOf v = s.unitCondOf v) ∧ (∀ j < 4, (s.scrubNext k).tot (0x3300 + k) j = s.tot (0x3300 + k) j) ∧
    Table.read 0 k (s.scrubNext k).scrubAt = (if Table.read 0 k s.scrubAt + 1 < stackUnits then Table.read 0 k s.scrubAt + 1 else 0) := by
  unfold State.scrubNext
  dsimp only
  split
  · exact ⟨fun _ => rfl, fun _ _ => rfl, by simp⟩
  · have hb := State.bump_totChange { s with scrubAt := Table.write 0 k 0 s.scrubAt } (0x3300 + k) 4 1
    rw [TotChange] at hb
    refine ⟨fun v => by rw [hb]; rfl, fun j hj => ?_, by rw [hb]; simp⟩
    refine tot_bump_ne _ _ ?_
    simp only [okey]
    omega

/-! ### The loss of a stack -/

/-- The capture of a fatal error leaves the list of lost stacks, and the package in Vigil mode. -/
theorem State.capture_of_fatal_keeps {s : State} {cls : Nat} (w : ErrAt) (huf : classSev cls = 3) :
    (s.capture cls w).untrained = s.untrained ∧ (s.capture cls w).boot.state = .vigil := by
  have hev := State.capture_of_fatal (s := s) (w := w) huf
  rw [EventChange] at hev
  have hq := congrArg State.untrained (s.ufQueued_frame cls w)
  refine ⟨?_, ?_⟩
  · rw [hev]
    exact (State.enterVigil_untrained _).trans hq
  · rw [hev]
    exact State.enterVigil_state _

/-- Settles O24: the scrub of one unit by its condition, the patrol's next unit, and the capture that the loss of a stack is. -/
theorem scrubAndFailure : Obligations.ScrubAndFailure := by
  unfold Obligations.ScrubAndFailure
  intro k u s hk hon hu
  have haudit := isAudit_stack hk
  obtain ⟨hother, hsame, htot1, htot2, hat⟩ := s.scrubOne_spec haudit u
  obtain ⟨hunit, htots, hnext⟩ := (s.scrubOne k u).scrubNext_spec k
  refine ⟨⟨(s.scrubOne k u).scrubNext k, ?_, ?_, fun v hv => ?_, ?_, ?_, ?_, ?_⟩, ⟨_, (if_pos hk).trans (congrArg Host.Outcome.next (if_pos hon)), ?_⟩⟩
  · rw [hu]
    exact (if_pos hk).trans (congrArg Host.Outcome.next (if_pos hon))
  · rw [State.scrubNext_mem, State.scrubOne_mem]
  · rw [hunit, hother v hv]
  · exact (hunit u).trans hsame
  · rw [htots 1 (by decide), htot1]
  · rw [htots 2 (by decide), htot2]
  · rw [hnext, hat]
  · obtain ⟨hlost, hvigil⟩ := State.capture_of_fatal_keeps (s := { s with untrained := s.untrained ++ [k] }) (cls := 0x30)
      { die := k / 6, source := blkMc k } rfl
    exact ⟨State.capture_mem _ _ _, hlost, hvigil⟩

end Sys2Proof.Machine
end

section
/-! PROOFS. Writes of the register window and of plain objects (R109, R335, R338, R351 to R355), with O23. -/

namespace Sys2Proof.Machine

/-! ### Values of register writes -/

theorem leNat_leBytes (n v : Nat) : leNat (leBytes n v) = v % 256 ^ n := by
  induction n generalizing v with
  | zero => simp [leBytes, leNat, Nat.mod_one]
  | succ n ih =>
    rw [leBytes, leNat, ih, BitVec.toNat_ofNat, show 256 ^ (n + 1) = 256 * 256 ^ n from Nat.pow_succ']
    exact Nat.mod_mul.symm

theorem leNat_word (v : Word) : leNat (leBytes 4 v.toNat) = v.toNat := by
  rw [leNat_leBytes]
  exact Nat.mod_eq_of_lt v.isLt

theorem guardAfter_word (o : Bool) (v : Word) : guardAfter o v.toNat = (!o && v == 0x7A5E91C3) := by
  have h : (v.toNat == 0x7A5E91C3) = (v == 0x7A5E91C3) := by
    rw [Bool.eq_iff_iff, beq_iff_eq, beq_iff_eq, ← BitVec.toNat_inj]
    rfl
  rw [guardAfter, h]

/-! ### Writes of words -/

section
variable {b : Nat} {k : BlockKind} {s : State} (hk : blockKind s.part b = some k) (hoff : (s.vigil && k.off) = false)
include hk hoff

/-- A write of GUARD (R351). -/
theorem State.writeWord_guard (v : Nat) :
    (s.writeWord b 4 v).1 = s.setBlock b { s.block b with guardOpen := guardAfter (s.block b).guardOpen v } := by
  simp only [State.writeWord, hk, hoff, Bool.false_eq_true, if_false, if_true]
  rfl

/-- A write that the guard does not gate locks it, and acts by the word's class (R351). -/
theorem State.writeWord_ungated {w : Nat} (h4 : w ≠ 4) (hw : wordAccess k w ≠ some .rwg) (hobj : alsoObject k w = false) (v : Nat) :
    s.writeWord b w v = (s.blkTouch b).writeClass b w v k := by
  simp only [State.writeWord, hk, hoff, h4, hw, hobj, Bool.false_eq_true, if_false]

end

theorem alsoObject_of_config (k : BlockKind) {w : Nat} (h : w = 1 ∨ w = 3 ∨ w = 5) : alsoObject k w = false := by
  rcases h with rfl | rfl | rfl <;> cases k <;> simp [alsoObject]

/-- The memory controllers' blocks (Table 15.8). -/
theorem blockKind_mc {p : Part} {b m : Nat} (h : blockKind p b = some (.mc m)) : b = blkMc m ∧ m < Config.stackCount p := by
  have hsome : ∀ {q : Prop} [Decidable q] {c : BlockKind}, (if q then some c else none) = some (BlockKind.mc m) → q ∧ c = .mc m := by
    intro q _ c h
    split at h
    · exact ⟨‹q›, Option.some.inj h⟩
    · cases h
  unfold blockKind at h
  by_cases h1 : b < 0x60
  · rw [if_pos h1] at h
    exact absurd (hsome h).2 (by simp)
  · rw [if_neg h1] at h
    by_cases h2 : b < 0x80
    · rw [if_pos h2] at h
      obtain ⟨hlt, hm⟩ := hsome h
      obtain rfl : b - 0x60 = m := BlockKind.mc.inj hm
      exact ⟨by simp only [blkMc]; omega, hlt⟩
    · rw [if_neg h2] at h
      exfalso
      repeat' split at h
      all_goals simp at h

/-- A write of CFG in a block whose guard it has locked (R353, R354). -/
theorem State.blkTouch_writeCfg (s : State) (b v : Nat) (k : BlockKind) :
    ((s.blkTouch b).writeCfg b v k).1 = { s with blocks := ((s.blkTouch b).writeCfg b v k).1.blocks } ∧
    (∀ c, c ≠ b → ((s.blkTouch b).writeCfg b v k).1.block c = s.block c) ∧
    ((s.blkTouch b).cfgFree b k = true →
      ((s.blkTouch b).writeCfg b v k).1.block b = { s.block b with guardOpen := false, wrIgnored := false, cfg := (cfgStored k v).1 }) ∧
    ((s.blkTouch b).cfgFree b k = false →
      ((s.blkTouch b).writeCfg b v k).1.block b =
        { s.block b with guardOpen := false, wrIgnored := true, wrIgn := satAdd 16 (s.block b).wrIgn 1 }) := by
  unfold State.writeCfg
  cases hf : (s.blkTouch b).cfgFree b k
  · refine ⟨rfl, fun c hc => ?_, nofun, fun _ => ?_⟩
    · exact (block_setBlock_ne _ _ hc).trans (s.blkTouch_block_ne hc)
    · refine (block_setBlock _ _ _).trans ?_
      rw [s.blkTouch_block]
  · refine ⟨rfl, fun c hc => ?_, fun _ => ?_, nofun⟩
    · exact (block_setBlock_ne _ _ hc).trans ((block_setBlock_ne _ _ hc).trans (s.blkTouch_block_ne hc))
    · refine (block_setBlock _ _ _).trans ?_
      rw [State.acceptCfg, State.modBlock, block_setBlock, s.blkTouch_block]

/-- Locking its guard leaves whether a block's configuration may be written. -/
theorem State.blkTouch_cfgFree (s : State) (b : Nat) (k : BlockKind) : (s.blkTouch b).cfgFree b k = s.cfgFree b k := by
  have hen : (s.blkTouch b).enOf b k = s.enOf b k := by
    cases k with
    | net p =>
      simp only [State.enOf, s.blkTouch_block]
      rfl
    | _ => exact (congrArg Block.en (s.blkTouch_block b)).trans rfl
  unfold State.cfgFree
  rw [hen]
  rfl

/-! ### The three parts -/

theorem configurationWrites : Parts.ConfigurationWrites := by
  unfold Parts.ConfigurationWrites
  intro b k v s hk hon hoff hm
  obtain ⟨hframe, hother, hfree, hbusy⟩ := s.blkTouch_writeCfg b v.toNat k
  rw [s.blkTouch_cfgFree] at hfree hbusy
  refine ⟨((s.blkTouch b).writeCfg b v.toNat k).1, ?_, hframe, hother, hfree, hbusy⟩
  have hcond : (s.windowOn && Decidable.decide (0x8000 ≤ 0x8000 + b) && Decidable.decide ((leBytes 4 v.toNat).length = 4)) = true := by
    rw [hon, length_leBytes]
    simp
  refine congrArg Host.Outcome.next ?_
  rw [State.unlessMulti, hm, if_neg (by simp), if_pos hcond, Nat.add_sub_cancel_left, leNat_word,
    State.writeWord_ungated hk hoff (by decide) (by simp [wordAccess]) (alsoObject_of_config k (Or.inl rfl))]
  rfl

theorem guards : Parts.Guards := by
  unfold Parts.Guards
  intro b k v s hk hon hoff hm
  have hkind : (blockKind s.part b).isSome = true := by rw [hk]; rfl
  have hnow (i : Instr) (t : State) : s.unlessMulti i (if s.windowOn then t else s) = t := by rw [State.unlessMulti, hm, hon]; rfl
  refine ⟨?_, ?_, ?_, fun m hkm => ?_⟩
  · refine (if_pos hkind).trans (congrArg Host.Outcome.next ((hnow _ _).trans ?_))
    rw [State.writeWord_guard hk hoff, guardAfter_word]
  · refine congrArg Host.Outcome.next ?_
    rw [State.unlessMulti, hm, if_neg (by simp)]
    exact congrArg (fun o => ({ s with profiles := { s.profiles with guardOpen := o } } : State)) (guardAfter_word _ v)
  · have hclass : wordAccess k 5 = some .rw := rfl
    refine ⟨_, (if_pos hkind).trans (congrArg Host.Outcome.next ((hnow _ _).trans (congrArg Prod.fst
      (State.writeWord_ungated hk hoff (by decide) (by simp [hclass]) (alsoObject_of_config k (Or.inr (Or.inr rfl))) _)))), rfl, fun c hc => ?_, ?_⟩
    · exact (block_setBlock_ne _ _ hc).trans (s.blkTouch_block_ne hc)
    · refine (block_setBlock _ _ _).trans ?_
      rw [s.blkTouch_block]
  · subst hkm
    obtain ⟨hb, hm'⟩ := blockKind_mc hk
    subst hb
    refine (if_pos hm').trans (congrArg Host.Outcome.next ((hnow _ _).trans (congrArg Prod.fst
      (State.writeWord_ungated hk hoff (by decide) (by simp [wordAccess]) (alsoObject_of_config _ (Or.inr (Or.inl rfl))) _))))

/-- A plain object of chapters 16 and 17, and of the configuration, is stored where it stands: no write of it is a command (R335). -/
theorem State.putObj_of_plain {i : Nat} (hlo : 0x2100 ≤ i) (hhi : i < 0x2400) (s : State) (r : Requester) (row : ORow) (sub : Nat)
    (bs : List Byte) (ans : Option DorubRsp) :
    s.putObj r row i sub bs ans = ((s.store row i sub bs).1, some (s.store row i sub bs).2) := by
  unfold State.putObj
  simp only [Bool.and_eq_true, Bool.or_eq_true, decide_eq_true_eq]
  repeat rw [if_neg (by omega)]

/-- A value is stored at the nearest bound of its object's range (R338). -/
theorem State.store_of_scalar {row : ORow} {i : Nat} (hhi : i < 0x2400) (ho : row.typ ≠ .octets) (hs : row.typ ≠ .string) (s : State) (sub : Nat)
    (bs : List Byte) : (s.store row i sub bs).1 = s.setObj i sub (row.clamp (leNat bs)).1 := by
  have hno : (Decidable.decide (0x7100 ≤ i) && Decidable.decide (i < 0x7110) && Decidable.decide (sub = 2)) = false := by
    have : ¬ 0x7100 ≤ i := by omega
    simp [this]
  unfold State.store
  cases h : row.typ with
  | octets => exact absurd h ho
  | string => exact absurd h hs
  | _ => simp only [hno, Bool.false_eq_true, if_false]

theorem obj_setObj (s : State) (i sub v : Nat) : (s.setObj i sub v).obj i sub = v := by
  simp [State.obj, State.setObj]

theorem obj_setObj_ne (s : State) {i j sub q : Nat} (v : Nat) (h : okey j q ≠ okey i sub) : (s.setObj i sub v).obj j q = s.obj j q := by
  have h' : okey i sub ≠ okey j q := Ne.symm h
  simp only [State.obj, State.setObj, Table.write]
  split
  · rw [Table.read_erase, if_neg h']
  · rw [Table.read_insert, if_neg h']

theorem okey_inj {i j sub q : Nat} (hs : sub < 256) (hq : q < 256) (h : okey j q = okey i sub) : (j, q) = (i, sub) := by
  simp only [okey] at h
  have : j = i := by omega
  subst this
  exact congrArg _ (by omega)

theorem objectWrites : Parts.ObjectWrites := by
  unfold Parts.ObjectWrites
  intro r i sub row bs s hon hserves hvigil hmulti hlo hhi hindex hsub0 hsub hrow hacc hfits hbool hoct hstr
  have hplain : alsoBlock i sub = none := by
    simp only [alsoBlock, Bool.and_eq_true, Bool.or_eq_true, decide_eq_true_eq]
    repeat rw [if_neg (by omega)]
  have hclass : s.pkgTouch.writeByClass r row i sub bs none = s.pkgTouch.putObj r row i sub bs none := by
    have h1110 : i ≠ 0x1110 := by omega
    have hb : (Decidable.decide (row.typ = .bool) && Decidable.decide (1 < leNat bs)) = false := by
      by_cases h : row.typ = .bool
      · have := hbool h
        simp [show ¬ 1 < leNat bs by omega]
      · simp [h]
    simp [State.writeByClass, hacc, hfits, hb, h1110]
  have hwrite : s.writeObj r i sub bs none = s.pkgTouch.putObj r row i sub bs none := by
    have h1 : ¬ 0x8000 ≤ i := by omega
    have h2 : ¬ i < 0x1000 := by omega
    have h3 : sub ≠ 0 := by omega
    have h4 : i ≠ 0x2000 := by omega
    unfold State.writeObj
    simp only [h1, h2, h3, h4, hindex, hrow, hvigil, hacc, State.objTouch, hplain, hclass, Bool.not_true, Bool.or_self, Bool.false_and,
      decide_false, Bool.false_eq_true, if_false, reduceCtorEq]
  refine ⟨(s.pkgTouch.store row i sub bs).1, ?_, ?_, ?_, fun j q hq h => ?_⟩
  · have hexec : whenServed (.registerWrite (.dorub r) i sub bs) r i s (s.writeObj r i sub bs none).1 = .next (s.writeObj r i sub bs none).1 := by
      simp [whenServed, hon, hserves, State.inTurn, hmulti]
    refine hexec.trans (congrArg Host.Outcome.next ?_)
    rw [hwrite, State.putObj_of_plain hlo hhi]
  · rw [State.store_of_scalar hhi hoct hstr]
    rfl
  · rw [State.store_of_scalar hhi hoct hstr, obj_setObj]
  · rw [State.store_of_scalar hhi hoct hstr, obj_setObj_ne _ _ fun e => h (okey_inj hsub hq e)]
    rfl

/-- Settles O23: the write of a word by its class behind the guard, and of a plain object by its row. -/
theorem registerWrites : Obligations.RegisterWrites := ⟨configurationWrites, guards, objectWrites⟩

end Sys2Proof.Machine
end

section
/-! PROOFS. What sending a message changes, and the messages of Lantern (R375 to R378), with O33. -/

namespace Sys2Proof.Machine

/-! ### Sending -/

/-- What sending changes: the messages outstanding and their numbers, the router, and the count of packets by edition. -/
def SendChange (s t : State) : Prop :=
  t = { s with router := t.router, almanac := t.almanac, msgidNext := t.msgidNext, sent := t.sent }

theorem SendChange.trans {s t u : State} (ht : SendChange s t) (hu : SendChange t u) : SendChange s u := by
  rw [SendChange] at ht hu ⊢
  rw [hu, ht]

theorem State.inject_sendChange (s : State) (p : Packet) : SendChange s (s.inject p) := rfl

theorem State.inject_sent (s : State) (p : Packet) : (s.inject p).sent = s.sent := rfl

theorem State.foldl_inject_sent (ps : List Packet) (s : State) : (ps.foldl State.inject s).sent = s.sent :=
  foldl_keeps (·.sent) _ (fun t p => t.inject_sent p) ps s

theorem State.foldl_inject_sendChange (ps : List Packet) (s : State) : SendChange s (ps.foldl State.inject s) :=
  foldl_holds (SendChange s) _ (fun t p h => h.trans (t.inject_sendChange p)) ps s rfl

/-- The packets of a message as it leaves: its payloads cut, numbered, and marked with the message's number. -/
def State.outgoing (s : State) (u : Nat) (ps : List Packet) : List Packet :=
  let ps := ps.flatMap (fun p => p.spread (s.destDie p))
  (closing ps.length ps).map (fun p => { p with sunit := u, msgid := (s.freshId u).2, src := s.boot.node })

/-- A message sent is outstanding (R256). -/
theorem State.send_sent (s : State) (u : Nat) (ps : List Packet) (acks : Nat) (op : Option (Nat × Ctx)) (off : Nat) :
    (s.send u ps acks op off).1.sent =
      s.sent ++ [{ sunit := u, msgid := (s.freshId u).2, packets := s.outgoing u ps, acks := acks, op := op, off := off }] :=
  State.foldl_inject_sent _ _

theorem State.send_sendChange (s : State) (u : Nat) (ps : List Packet) (acks : Nat) (op : Option (Nat × Ctx)) (off : Nat) :
    SendChange s (s.send u ps acks op off).1 :=
  SendChange.trans (t := { (s.freshId u).1 with sent := (s.freshId u).1.sent ++
    [{ sunit := u, msgid := (s.freshId u).2, packets := s.outgoing u ps, acks := acks, op := op, off := off }] }) rfl
    (State.foldl_inject_sendChange _ _)

theorem State.post_sendChange (s : State) (u dst key : Nat) (b : Body) : SendChange s (s.post u dst key b) := State.send_sendChange _ _ _ _ _ _

theorem State.post_length_sent (s : State) (u dst key : Nat) (b : Body) : (s.post u dst key b).sent.length = s.sent.length + 1 := by
  rw [State.post, State.send_sent, List.length_append]
  rfl

/-! ### Lantern messages -/

/-- What a Lantern message to a rank changes. -/
def LanternChange (s t : State) : Prop :=
  t = { s with router := t.router, almanac := t.almanac, msgidNext := t.msgidNext, sent := t.sent, tots := t.tots }

theorem LanternChange.trans {s t u : State} (ht : LanternChange s t) (hu : LanternChange t u) : LanternChange s u := by
  rw [LanternChange] at ht hu ⊢
  rw [hu, ht]

theorem LanternChange.keeps {s t : State} (h : LanternChange s t) : t.power = s.power ∧ t.group = s.group := by
  rw [LanternChange] at h
  rw [h]
  exact ⟨rfl, rfl⟩

theorem TotChange.sent {s t : State} (h : TotChange s t) : t.sent = s.sent := by
  rw [TotChange] at h
  rw [h]

theorem State.lanternPost_change (s : State) (r : Nat) (m : LanternMsg) : LanternChange s (s.lanternPost r m) := by
  have hp := s.post_sendChange (unitMgt 0) (s.group.nodeOf r) 0 (.lantern m)
  have hb := State.bump_totChange (s.post (unitMgt 0) (s.group.nodeOf r) 0 (.lantern m)) 0x3400 16 1
  rw [SendChange] at hp
  rw [TotChange] at hb
  rw [LanternChange, State.lanternPost, hb, hp]

theorem State.lanternPost_sent (s : State) (r : Nat) (m : LanternMsg) :
    (s.lanternPost r m).sent = (s.post (unitMgt 0) (s.group.nodeOf r) 0 (.lantern m)).sent :=
  (State.bump_totChange _ _ _ _).sent

/-- A Lantern message is one message of one packet. -/
theorem State.lanternPost_length_sent (s : State) (r : Nat) (m : LanternMsg) : (s.lanternPost r m).sent.length = s.sent.length + 1 := by
  rw [s.lanternPost_sent, s.post_length_sent]

theorem State.lanternPost_body (s : State) (r : Nat) (m : LanternMsg) :
    ∃ q ∈ (s.lanternPost r m).sent, q.packets.map (·.body) = [.lantern m] := by
  rw [s.lanternPost_sent, State.post, State.send_sent]
  refine ⟨_, List.mem_append_right _ List.mem_cons_self, ?_⟩
  simp [State.outgoing, Packet.spread, Body.parts, Body.size, closing, ceilDiv]

/-- CALL goes to every child. -/
theorem State.callChildren_change (s : State) (e n : Nat) : LanternChange s (s.callChildren e n) :=
  foldl_holds (LanternChange s) _ (fun t r h => h.trans (t.lanternPost_change r _)) _ _ rfl

theorem State.callChildren_length_sent (s : State) (e n : Nat) :
    (s.callChildren e n).sent.length = s.sent.length + s.group.children.length := by
  have hloop (l : List Nat) (t : State) : (l.foldl (fun s r => s.lanternPost r
      { sub := 2, level := 0, groupId := s.group.id, epoch := e, count := 0, round := n }) t).sent.length = t.sent.length + l.length := by
    induction l generalizing t with
    | nil => rfl
    | cons r l ih =>
      rw [List.foldl_cons, ih, t.lanternPost_length_sent, List.length_cons]
      omega
  exact hloop _ _

/-- A decision of the level leaves the inputs of the level, Lantern's among them. -/
theorem State.retarget_power (s : State) : s.retarget.power.groupLevel = s.power.groupLevel ∧ s.retarget.power.settleDue = s.power.settleDue ∧
    s.retarget.power.epoch = s.power.epoch ∧ s.retarget.power.pendingLevel = s.power.pendingLevel := by
  unfold State.retarget
  dsimp only
  split
  · exact ⟨rfl, rfl, rfl, rfl⟩
  · rw [(State.bump_totChange _ _ _ _)]
    exact ⟨rfl, rfl, rfl, rfl⟩

/-- A round waits while a child has not replied (R377). -/
theorem State.lanternRound_of_missing {s : State} {c : Nat} (hc : c ∈ s.group.children) (h : ∀ e ∈ s.power.replies, e.1 ≠ c) : s.lanternRound = s := by
  have hany : (s.group.children.any fun r => !(s.power.replies.any fun x => x.1 == r)) = true := by
    refine List.any_eq_true.mpr ⟨c, hc, ?_⟩
    simpa using h
  exact if_pos hany

/-! ### O33 -/

section
variable {s : State} {m : LanternMsg} (hact : s.group.state = .active) (hid : m.groupId = s.group.id)
include hact hid

/-- A message of an ACTIVE group is its own. -/
theorem lantern_own : (Decidable.decide (s.group.state ≠ .active) || Decidable.decide (m.groupId ≠ s.group.id)) = false := by simp [hact, hid]

omit hact hid in
/-- A member as it takes a SET of a later epoch: E moves, and H is the level of the message or what was kept for the epoch (R378). -/
def State.takeSet (s : State) (m : LanternMsg) : State :=
  s.setPower (fun p => { p with
    epoch := m.epoch
    pendingLevel := max m.level (if m.epoch = s.power.epoch + 1 then s.power.kept1 else if m.epoch = s.power.epoch + 2 then s.power.kept2 else 0)
    kept1 := if m.epoch = s.power.epoch + 1 then p.kept2 else 0
    kept2 := 0 })

/-- A SET of a later epoch whose H is no lower than the member's own level raises G at once, or leaves it to the settle time (R378). -/
theorem State.lanternSet_of_later (hlate : s.power.epoch < m.epoch) (ha : s.allowed ≤ (s.takeSet m).power.pendingLevel) :
    s.lanternSet m = if s.power.groupLevel ≤ (s.takeSet m).power.pendingLevel
      then ((s.takeSet m).setPower (fun p => { p with groupLevel := p.pendingLevel, settleDue := false })).retarget
      else (s.takeSet m).setPower (fun p => { p with settleDue := true }) := by
  have hnot : ¬ m.epoch ≤ s.power.epoch := by omega
  have hcheck : ¬ (s.takeSet m).allowed > (s.takeSet m).power.pendingLevel := Nat.not_lt.mpr ha
  refine (if_neg (ne_true_of_eq_false (lantern_own hact hid))).trans ((if_neg hnot).trans ?_)
  refine Eq.trans (b := if (s.takeSet m).power.groupLevel ≤ (s.takeSet m).power.pendingLevel then _ else _) ?_ rfl
  exact congrArg (fun t : State => if t.power.groupLevel ≤ t.power.pendingLevel
    then (t.setPower (fun p => { p with groupLevel := p.pendingLevel, settleDue := false })).retarget
    else t.setPower (fun p => { p with settleDue := true })) (if_neg hcheck)

/-- A member without children answers a CALL (R377). -/
theorem State.lanternCall_of_leaf (hrank : s.group.rank ≠ 0) (hsize : s.group.size ≤ 2 * s.group.rank + 1) :
    s.lanternCall m = ((s.setPower (fun p => { p with callSeen := some (m.epoch, m.round), replies := [] })).setPower
      (fun p => { p with callSeen := none })).lanternPost s.group.parent ⟨3, s.allowed, s.group.id, m.epoch, 1, m.round⟩ := by
  have hleaf : s.group.children = [] := by
    simp only [Group.children, List.filter_eq_nil_iff, List.mem_cons, List.not_mem_nil, or_false]
    rintro r (rfl | rfl) <;> simp only [decide_eq_true_eq] <;> omega
  have hown := lantern_own hact hid
  rw [State.lanternCall]
  simp only [hown, hrank, decide_false, Bool.or_self, Bool.false_eq_true, if_false, State.callChildren, State.lanternRound, State.setPower,
    hleaf, List.foldl_nil, List.any_nil, List.map_nil, List.sum_nil]
  rfl

end

/-- Settles O33: each message by its case, with the decision of the level and the posting of a message as they are in every state. -/
theorem lantern : Obligations.Lantern := by
  unfold Obligations.Lantern
  intro s m p hon hact hid hp
  subst hp
  have hown := lantern_own hact hid
  have hready (t : State) : whenReady s t = .next t := congrArg Host.Outcome.next (if_pos hon)
  refine ⟨fun he => ?_, fun he => ?_, fun he => ?_, fun he => ?_, fun he => ?_, fun h hlate hh ha => ?_, fun hdue => ?_, fun hr hs => ?_,
    fun hr hs => ?_, fun child hr ho he hn hc hnew hmiss => ?_, fun child hr hlate => ?_⟩
  · obtain ⟨hg, -, hep, hpend⟩ := (s.setPower (fun p => p.down m.level)).retarget_power
    refine ⟨_, hready _, ?_, ?_, ?_⟩ <;> rw [State.lanternDown_of_epoch hact hid he]
    · exact hpend
    · exact hg
    · exact hep
  · refine (hready _).trans (congrArg Host.Outcome.next ?_)
    simp only [State.lanternDown, hown, he, Bool.false_eq_true, if_false, if_true, Nat.add_eq_left, one_ne_zero]
    rfl
  · refine (hready _).trans (congrArg Host.Outcome.next ?_)
    simp only [State.lanternDown, hown, he, Bool.false_eq_true, if_false, if_true, Nat.add_eq_left, two_ne_zero, Nat.add_left_cancel_iff,
      OfNat.ofNat_ne_one]
    rfl
  · refine (hready _).trans (congrArg Host.Outcome.next ?_)
    have h0 : m.epoch ≠ s.power.epoch := by omega
    have h1 : m.epoch ≠ s.power.epoch + 1 := by omega
    have h2 : m.epoch ≠ s.power.epoch + 2 := by omega
    simp only [State.lanternDown, hown, h0, h1, h2, Bool.false_eq_true, if_false]
    rfl
  · refine (hready _).trans (congrArg Host.Outcome.next ?_)
    simp only [State.lanternSet, hown, he, Bool.false_eq_true, if_false, if_true]
  · have hpend : (s.takeSet m).power.pendingLevel = h := hh.symm
    refine ⟨_, hready _, ?_⟩
    rw [State.lanternSet_of_later hact hid hlate (by rw [hpend]; exact ha), hpend]
    obtain ⟨hg, hs, he, hp⟩ :=
      ((s.takeSet m).setPower (fun p => { p with groupLevel := p.pendingLevel, settleDue := false })).retarget_power
    split
    case isTrue hle => exact ⟨he, hp.trans hpend, fun _ => ⟨hg.trans hpend, hs⟩, fun hlt => absurd hle (Nat.not_le.mpr hlt)⟩
    case isFalse hlt => exact ⟨rfl, hpend, fun hle => absurd hle hlt, fun _ => ⟨rfl, rfl⟩⟩
  · obtain ⟨hg, hs, -, -⟩ := (s.setPower (fun p => { p with groupLevel := p.pendingLevel, settleDue := false })).retarget_power
    refine ⟨_, hready _, ?_, ?_⟩ <;> rw [State.settled_of_due hact hdue]
    · exact hg
    · exact hs
  · have hbeacon : s.beacon = ((s.setPower (fun p => { p with
        roundOpen := true, roundEpoch := s.power.epoch + 1, roundNo := s.power.roundNo + 1, replies := [] })).callChildren
          (s.power.epoch + 1) (s.power.roundNo + 1)).lanternRound := by
      simp only [State.beacon, hact, hr, ne_eq, not_true, decide_false, Bool.or_self, Bool.false_eq_true, if_false]
    obtain ⟨hpow, hgrp⟩ := (State.callChildren_change (s.setPower (fun p => { p with
        roundOpen := true, roundEpoch := s.power.epoch + 1, roundNo := s.power.roundNo + 1, replies := [] }))
          (s.power.epoch + 1) (s.power.roundNo + 1)).keeps
    have hchild : 1 ∈ s.group.children := by simp [Group.children, hr, hs]
    rw [State.lanternRound_of_missing (c := 1) (by rw [hgrp]; exact hchild) (by rw [hpow]; exact nofun)] at hbeacon
    refine ⟨_, hready _, ?_⟩
    rw [hbeacon, hpow, State.callChildren_length_sent]
    exact ⟨rfl, rfl, rfl, rfl, rfl⟩
  · refine ⟨_, hready _, ?_⟩
    rw [State.lanternCall_of_leaf hact hid hr hs, (State.lanternPost_change _ _ _).keeps.1, State.lanternPost_length_sent]
    exact ⟨rfl, rfl, State.lanternPost_body _ _ _⟩
  · refine (hready _).trans (congrArg Host.Outcome.next ?_)
    obtain ⟨c, hcc, hne, hcmiss⟩ := hmiss
    have hrep : (s.power.replies.any fun x => x.1 == child) = false := by simpa using hnew
    refine (if_neg ?_).trans (State.lanternRound_of_missing (s := s.setPower (fun p => { p with
      replies := p.replies ++ [(child, m.level, m.count)] })) (c := c) hcc fun e he => ?_)
    · have hmem : child ∈ s.group.children := List.contains_iff_mem.mp hc
      simp [hact, hid, hr, ho, he, hn, hmem, hrep]
    rcases List.mem_append.mp he with he | he
    · exact hcmiss e he
    · rw [List.mem_singleton.mp he]
      exact Ne.symm hne
  · refine (hready _).trans (congrArg Host.Outcome.next ?_)
    have hdue : (if s.power.roundOpen then some (s.power.roundEpoch, s.power.roundNo) else none) ≠ some (m.epoch, m.round) := by
      rcases hlate with h | h | h
      · simp [h]
      · split <;> simp [h]
      · split <;> simp [h]
    simp only [State.lanternReply, hr, if_true, hdue, ne_eq, not_false_eq_true, decide_true, Bool.or_true, Bool.true_or]
    rfl

end Sys2Proof.Machine
end

section
/-! PROOFS. The port on which a packet leaves, and what sending takes from it (R254, R255, R258, R260, R261, R277), with O36. -/

namespace Sys2Proof.Machine

/-! ### The best of a list -/

/-- A search through a list that at each place keeps what it has, or takes a place that is admitted: what it ends with stood first, or is an
admitted place of the list. -/
theorem foldl_search {α : Type} {f : Option α → α → Option α} {ok : α → Prop} (hf : ∀ b a, f b a = b ∨ f b a = some a ∧ ok a) (l : List α)
    (b : Option α) (p : α) (h : l.foldl f b = some p) : p ∈ l ∧ ok p ∨ b = some p := by
  induction l generalizing b with
  | nil => exact Or.inr h
  | cons a l ih =>
    rcases ih _ h with ⟨hmem, hok⟩ | h
    · exact Or.inl ⟨List.mem_cons_of_mem _ hmem, hok⟩
    · rcases hf b a with hkeep | ⟨htake, hok⟩
      · exact Or.inr (hkeep ▸ h)
      · obtain rfl := Option.some.inj (htake.symm.trans h)
        exact Or.inl ⟨List.mem_cons_self, hok⟩

/-! ### The port of a direction -/

/-- The port found for a direction is UP (R260). -/
theorem State.portUp_of_portFor {s : State} {h : HeldPacket} {dir vc p : Nat} (hp : s.portFor h dir vc = some p) : s.portUp p = true := by
  unfold State.portFor at hp
  extract_lets named at hp
  split at hp
  case isTrue hn =>
    obtain rfl := Option.some.inj hp
    exact (Bool.and_eq_true_iff.mp hn).1
  case isFalse =>
    have hmem := foldl_search (ok := fun _ => True) (fun b a => by
      split
      · exact Or.inr ⟨rfl, trivial⟩
      · split
        · exact Or.inr ⟨rfl, trivial⟩
        · exact Or.inl rfl) _ none p hp
    exact (List.mem_filter.mp (hmem.resolve_right nofun).1).2

/-- The port of the class channel is UP and admits the packet (R258). -/
theorem State.classPort_spec {s : State} {h : HeldPacket} {dirs : List Nat} {p : Nat} (hp : s.classPort h dirs = some p) :
    s.portUp p = true ∧ s.admits p h.p.cls h.p = true := by
  have hfound := foldl_search (ok := fun p => s.admits p h.p.cls h.p = true) (fun b a => by
    split
    · exact Or.inl rfl
    next ha =>
      have hok : s.admits a h.p.cls h.p = true := by simpa using ha
      split
      · exact Or.inr ⟨rfl, hok⟩
      · split
        · exact Or.inr ⟨rfl, hok⟩
        · exact Or.inl rfl) _ none p hp
  obtain ⟨hmem, hok⟩ := hfound.resolve_right nofun
  obtain ⟨d, -, hd⟩ := List.mem_filterMap.mp hmem
  exact ⟨State.portUp_of_portFor hd, hok⟩

/-- A packet leaves only before its 63rd link, on a port that is UP and admits it on the channel chosen (R258, R261). -/
theorem State.hop_out {s : State} {h : HeldPacket} {p : Nat} {esc : Bool} (hh : s.hop h = .out p esc) :
    s.portUp p = true ∧ h.p.hops < 63 ∧
    ∃ v, s.admits p v h.p = true ∧ (esc = false → v = h.p.cls) ∧ (esc = true → v = 6 ∨ v = 7) := by
  unfold State.hop at hh
  split at hh
  · cases hh
  · extract_lets e edir adp dirs ev at hh
    by_cases hloop : h.p.hops ≥ 63
    · rw [if_pos hloop] at hh
      split_ifs at hh
    rw [if_neg hloop] at hh
    iterate 3 (split at hh; · cases hh)
    split at hh
    case h_1 q hq =>
      obtain ⟨rfl, rfl⟩ := Hop.out.inj hh
      obtain ⟨hup, hadm⟩ := State.classPort_spec hq
      exact ⟨hup, by omega, h.p.cls, hadm, fun _ => rfl, nofun⟩
    case h_2 =>
      split at hh
      case h_1 q hq =>
        split at hh
        case isTrue hadm =>
          obtain ⟨rfl, rfl⟩ := Hop.out.inj hh
          refine ⟨State.portUp_of_portFor hq, by omega, _, hadm, nofun, fun _ => ?_⟩
          by_cases hdl : h.dlOut edir = true
          · exact Or.inr (if_pos hdl)
          · exact Or.inl (if_neg hdl)
        case isFalse => cases hh
      case h_2 =>
        split at hh <;> cases hh

/-! ### What sending takes -/

/-- A frame joins the replay buffer, and credits stay (R277). -/
theorem FPort.pushFrame_spec (f : FPort) (nak : Bool) (fs : List (Flit × List Byte)) :
    (f.pushFrame nak fs).replay.length = f.replay.length + 1 ∧ (f.pushFrame nak fs).credits = f.credits := by
  refine ⟨?_, rfl⟩
  change (f.replay ++ [_]).length = _
  rw [List.length_append]
  rfl

theorem FPort.foldl_pushFrame_spec (l : List (List (Flit × List Byte))) (f : FPort) :
    (l.foldl (fun f fs => f.pushFrame false fs) f).replay.length = f.replay.length + l.length ∧
    (l.foldl (fun f fs => f.pushFrame false fs) f).credits = f.credits := by
  induction l generalizing f with
  | nil => exact ⟨rfl, rfl⟩
  | cons a l ih =>
    obtain ⟨hl, hc⟩ := ih (f.pushFrame false a)
    obtain ⟨hl1, hc1⟩ := f.pushFrame_spec false a
    refine ⟨?_, hc.trans hc1⟩
    rw [List.foldl_cons, hl, hl1, List.length_cons]
    omega

/-- Settles O36: the port of each outcome of the routing decision admits the packet, and its frames join the replay buffer one by one. -/
theorem routingTakesCredits : Obligations.RoutingTakesCredits := by
  unfold Obligations.RoutingTakesCredits
  intro s h p esc hh
  obtain ⟨hup, hhops, v, hadm, hcls, hesc⟩ := State.hop_out hh
  simp only [State.admits, State.hasCredit, Bool.and_eq_true, Bool.or_eq_true, Bool.not_eq_true', decide_eq_true_eq] at hadm
  obtain ⟨⟨hcredit, hpri⟩, hroom⟩ := hadm
  refine ⟨hup, hhops, ⟨v, hcredit, fun h1 => hpri.resolve_left (by simp [h1]), hcls, hesc⟩, hroom, fun q => ⟨_, rfl, ?_⟩⟩
  have hport : (s.transmit p q).fport p = ({ q with hops := q.hops + 1 } : Packet).frames.foldl (fun f fs => f.pushFrame false fs)
      { s.fport p with
        credits := (s.fport p).credits.set q.vc ((s.fport p).credits.getD q.vc 0 - q.flits)
        flitsSent := (s.fport p).flitsSent.set q.vc (satAdd 64 ((s.fport p).flitsSent.getD q.vc 0) q.flits)
        inPeer := (s.fport p).inPeer ++ [(q.vc, q.pri, q.flits)] } := by
    refine ((State.bump_totChange _ _ _ _).fport p).trans (((State.bump_totChange _ _ _ _).fport p).trans ?_)
    exact fport_setFport _ _ _
  rw [hport]
  obtain ⟨hl, hc⟩ := FPort.foldl_pushFrame_spec ({ q with hops := q.hops + 1 } : Packet).frames
      { s.fport p with
        credits := (s.fport p).credits.set q.vc ((s.fport p).credits.getD q.vc 0 - q.flits)
        flitsSent := (s.fport p).flitsSent.set q.vc (satAdd 64 ((s.fport p).flitsSent.getD q.vc 0) q.flits)
        inPeer := (s.fport p).inPeer ++ [(q.vc, q.pri, q.flits)] }
  exact ⟨hl, hc, s.transmit_mem p q⟩

end Sys2Proof.Machine
end

section
/-! PROOFS. The offers of an expert and the round-robin over the source ranks (R290), with O34. -/

namespace Sys2Proof.Machine

/-! ### The offers of a rank -/

/-- The order of a rank's offers: by token, then by choice. -/
def rowLe (x y : ExpertRow) : Prop := x.token < y.token ∨ x.token = y.token ∧ x.choice ≤ y.choice

theorem rowLe_total (x y : ExpertRow) : rowLe x y ∨ rowLe y x := by
  unfold rowLe
  omega

theorem rowLe_trans {x y z : ExpertRow} (h : rowLe x y) (h' : rowLe y z) : rowLe x z := by
  unfold rowLe at *
  omega

theorem placeRow_perm (x : ExpertRow) (l : List ExpertRow) : (placeRow x l).Perm (x :: l) := by
  induction l with
  | nil => exact List.Perm.refl _
  | cons y ys ih =>
    unfold placeRow
    split
    · exact List.Perm.refl _
    · exact (ih.cons y).trans (List.Perm.swap x y ys)

/-- A row takes its place in an ordered list. -/
theorem placeRow_pairwise {x : ExpertRow} {l : List ExpertRow} (h : l.Pairwise rowLe) : (placeRow x l).Pairwise rowLe := by
  induction l with
  | nil => exact List.pairwise_singleton _ _
  | cons y ys ih =>
    obtain ⟨hy, hys⟩ := List.pairwise_cons.mp h
    unfold placeRow
    split
    case isTrue hle =>
      have hxy : rowLe x y := by simpa [rowLe] using hle
      refine List.pairwise_cons.mpr ⟨fun z hz => ?_, h⟩
      rcases List.mem_cons.mp hz with rfl | hz
      · exact hxy
      · exact rowLe_trans hxy (hy z hz)
    case isFalse hnot =>
      have hyx : rowLe y x := (rowLe_total x y).resolve_left (by simpa [rowLe] using hnot)
      refine List.pairwise_cons.mpr ⟨fun z hz => ?_, ih hys⟩
      rcases List.mem_cons.mp ((placeRow_perm x ys).mem_iff.mp hz) with rfl | hz
      · exact hyx
      · exact hy z hz

theorem foldr_placeRow_perm (l : List ExpertRow) : (l.foldr placeRow []).Perm l := by
  induction l with
  | nil => exact List.Perm.refl _
  | cons x l ih => exact (placeRow_perm x _).trans (ih.cons x)

theorem foldr_placeRow_pairwise (l : List ExpertRow) : (l.foldr placeRow []).Pairwise rowLe := by
  induction l with
  | nil => exact List.Pairwise.nil
  | cons x l ih => exact placeRow_pairwise ih

/-! ### One turn of the round-robin -/

/-- Nothing to serve. -/
theorem serve_of_done {cap : Nat} {os : List (List ExpertRow)} (h : cap = 0 ∨ ∀ l ∈ os, l = []) (fuel r : Nat) : serve fuel cap r os = [] := by
  cases fuel with
  | zero => rfl
  | succ fuel =>
    refine if_pos ?_
    rcases h with h | h
    · simp [h]
    · simpa using Or.inr h

section
variable {cap r : Nat} {os : List (List ExpertRow)} (hcap : cap ≠ 0) (hsome : ∃ l ∈ os, l ≠ [])
include hcap hsome

theorem serve_go : ¬ (Decidable.decide (cap = 0) || os.all (·.isEmpty)) = true := by
  obtain ⟨l, hl, hne⟩ := hsome
  simp only [Bool.or_eq_true, decide_eq_true_eq, hcap, false_or, List.all_eq_true, List.isEmpty_iff, not_forall]
  exact ⟨l, hl, hne⟩

/-- A rank without an offer is passed over. -/
theorem serve_of_empty (hr : os.getD r [] = []) (fuel : Nat) : serve (fuel + 1) cap r os = serve fuel cap ((r + 1) % os.length) os := by
  refine (if_neg (serve_go hcap hsome)).trans ?_
  simp only [hr]

/-- A rank with an offer serves its first. -/
theorem serve_of_offer {x : ExpertRow} {rest : List ExpertRow} (hr : os.getD r [] = x :: rest) (fuel : Nat) :
    serve (fuel + 1) cap r os = (r, x) :: serve fuel (cap - 1) ((r + 1) % os.length) (os.set r rest) := by
  refine (if_neg (serve_go hcap hsome)).trans ?_
  simp only [hr]

end

/-- A run of the round-robin, turn by turn: what holds where nothing is served, and passes over a turn of either kind, holds of every run. -/
theorem serve_induction {P : Nat → Nat → List (List ExpertRow) → List (Nat × ExpertRow) → Prop} {n : Nat}
    (hnil : ∀ cap r os, P cap r os [])
    (hskip : ∀ cap r os out, r < n → os.length = n → os.getD r [] = [] → P cap ((r + 1) % n) os out → P cap r os out)
    (htake : ∀ cap r os x rest out, r < n → os.length = n → os.getD r [] = x :: rest → P cap ((r + 1) % n) (os.set r rest) out →
      P (cap + 1) r os ((r, x) :: out)) (fuel cap r : Nat) (os : List (List ExpertRow)) (hr : r < n) (hlen : os.length = n) :
    P cap r os (serve fuel cap r os) := by
  induction fuel generalizing cap r os with
  | zero => exact hnil cap r os
  | succ fuel ih =>
    have hnext : (r + 1) % n < n := Nat.mod_lt _ (by omega)
    by_cases hdone : cap = 0 ∨ ∀ l ∈ os, l = []
    · rw [serve_of_done hdone]
      exact hnil cap r os
    · simp only [not_or, not_forall] at hdone
      obtain ⟨hcap, l, hl, hne⟩ := hdone
      cases hget : os.getD r [] with
      | nil =>
        rw [serve_of_empty hcap ⟨l, hl, hne⟩ hget, hlen]
        exact hskip _ _ _ _ hr hlen hget (ih cap _ os hnext hlen)
      | cons x rest =>
        obtain ⟨c, rfl⟩ := Nat.exists_eq_succ_of_ne_zero hcap
        rw [serve_of_offer hcap ⟨l, hl, hne⟩ hget, hlen]
        exact htake _ _ _ _ _ _ hr hlen hget (ih c _ _ hnext (by rw [List.length_set, hlen]))

/-! ### What a rank is served -/

/-- The rows that a rank is served. -/
def servedTo (out : List (Nat × ExpertRow)) (p : Nat) : List ExpertRow := (out.filter (fun x => x.1 == p)).map (·.2)

theorem servedTo_cons_same (r : Nat) (x : ExpertRow) (out : List (Nat × ExpertRow)) : servedTo ((r, x) :: out) r = x :: servedTo out r := by
  simp [servedTo]

theorem servedTo_cons_ne {p r : Nat} (h : r ≠ p) (x : ExpertRow) (out : List (Nat × ExpertRow)) : servedTo ((r, x) :: out) p = servedTo out p := by
  simp [servedTo, h]

theorem length_servedTo (out : List (Nat × ExpertRow)) (p : Nat) : (servedTo out p).length = (out.filter (fun x => x.1 == p)).length :=
  List.length_map _

theorem getD_set_same {os : List (List ExpertRow)} {r : Nat} (h : r < os.length) (l : List ExpertRow) : (os.set r l).getD r [] = l := by
  simp [List.getD, h]

theorem getD_set_ne (os : List (List ExpertRow)) {p r : Nat} (h : r ≠ p) (l : List ExpertRow) : (os.set r l).getD p [] = os.getD p [] := by
  simp [List.getD, h]

/-- The rows that a rank is served are the first of its offers. -/
theorem serve_prefix (fuel cap r p : Nat) (os : List (List ExpertRow)) (hr : r < os.length) :
    ∃ rest, servedTo (serve fuel cap r os) p ++ rest = os.getD p [] := by
  refine serve_induction (P := fun _ _ os out => ∃ rest, servedTo out p ++ rest = os.getD p []) (n := os.length)
    (fun _ _ os => ⟨os.getD p [], rfl⟩) (fun _ _ _ _ _ _ _ h => h) (fun cap r os x rest out hr hlen hget ⟨l, hl⟩ => ?_) fuel cap r os hr rfl
  by_cases hp : r = p
  · subst hp
    refine ⟨l, ?_⟩
    rw [servedTo_cons_same, List.cons_append, hl, getD_set_same (by omega), hget]
  · refine ⟨l, ?_⟩
    rw [servedTo_cons_ne hp, hl, getD_set_ne _ hp]

/-! ### Nobody is two rows ahead -/

/-- Turns from rank `r` until rank `p` is next, of `n` ranks. -/
def turnsTo (n r p : Nat) : Nat := if r ≤ p then p - r else p + n - r

theorem next_rank {n r : Nat} (hr : r < n) : (r + 1) % n = if r + 1 = n then 0 else r + 1 := by
  split
  case isTrue h => rw [h, Nat.mod_self]
  case isFalse h => exact Nat.mod_eq_of_lt (by omega)

theorem turnsTo_next {n r p : Nat} (hr : r < n) (hp : p < n) :
    turnsTo n ((r + 1) % n) p + 1 = if p = r then n else turnsTo n r p := by
  rw [next_rank hr]
  unfold turnsTo
  split_ifs <;> omega

/-- A rank with an offer left is behind by one row at most, and only behind ranks whose turn comes first. -/
theorem serve_fair (fuel cap r : Nat) (os : List (List ExpertRow)) (hr : r < os.length) {p q : Nat} (hp : p < os.length) (hq : q < os.length)
    (h : (servedTo (serve fuel cap r os) p).length < (os.getD p []).length) :
    (servedTo (serve fuel cap r os) q).length ≤ (servedTo (serve fuel cap r os) p).length +
      if turnsTo os.length r q < turnsTo os.length r p then 1 else 0 := by
  refine serve_induction (n := os.length) (P := fun _ r os' out => (servedTo out q).length ≤ (os'.getD q []).length →
      (servedTo out p).length < (os'.getD p []).length →
      (servedTo out q).length ≤ (servedTo out p).length + if turnsTo os.length r q < turnsTo os.length r p then 1 else 0)
    (fun _ _ _ _ _ => Nat.zero_le _) (fun cap r os' out hr hlen hget ih hle hlt => ?_)
    (fun cap r os' x rest out hr hlen hget ih hle hlt => ?_) fuel cap r os hr rfl ?_ h
  · have hpr : p ≠ r := by
      rintro rfl
      rw [hget] at hlt
      exact absurd hlt (Nat.not_lt_zero _)
    have hp' := turnsTo_next hr hp
    have hq' := turnsTo_next hr hq
    rw [if_neg hpr] at hp'
    by_cases hqr : q = r
    · rw [hqr, hget] at hle
      have : (servedTo out q).length = 0 := by rw [hqr]; exact Nat.le_zero.mp hle
      omega
    · rw [if_neg hqr] at hq'
      have := ih hle hlt
      split at this <;> split <;> omega
  · have hp' := turnsTo_next hr hp
    have hq' := turnsTo_next hr hq
    have hself : turnsTo os.length r r = 0 := by simp [turnsTo]
    by_cases hpr : p = r
    · subst hpr
      rw [servedTo_cons_same, List.length_cons] at hlt ⊢
      rw [hget, List.length_cons] at hlt
      by_cases hqp : q = p
      · subst hqp
        rw [servedTo_cons_same, List.length_cons]
        omega
      · rw [servedTo_cons_ne (Ne.symm hqp)] at hle ⊢
        have := ih (by rwa [getD_set_ne _ (Ne.symm hqp)]) (by rw [getD_set_same (by omega)]; omega)
        split at this <;> omega
    · rw [servedTo_cons_ne (Ne.symm hpr)] at hlt ⊢
      rw [if_neg hpr] at hp'
      by_cases hqr : q = r
      · subst hqr
        rw [servedTo_cons_same, List.length_cons] at hle ⊢
        rw [hget, List.length_cons] at hle
        rw [if_pos rfl] at hq'
        have := ih (by rw [getD_set_same (by omega)]; omega) (by rwa [getD_set_ne _ (Ne.symm hpr)])
        have hlast : turnsTo os.length ((q + 1) % os.length) p < os.length := by
          unfold turnsTo
          have := Nat.mod_lt (q + 1) (y := os.length) (by omega)
          split <;> omega
        rw [if_neg (by omega)] at this
        rw [if_pos (by omega)]
        omega
      · rw [servedTo_cons_ne (Ne.symm hqr)] at hle ⊢
        rw [if_neg hqr] at hq'
        have := ih (by rwa [getD_set_ne _ (Ne.symm hqr)]) (by rwa [getD_set_ne _ (Ne.symm hpr)])
        split at this <;> split <;> omega
  · obtain ⟨rest, hrest⟩ := serve_prefix fuel cap r q os hr
    rw [← hrest, List.length_append]
    omega

/-! ### How many rows are served -/

/-- Offers left of all ranks. -/
def offered (os : List (List ExpertRow)) : Nat := (os.map (·.length)).sum

theorem offered_set {os : List (List ExpertRow)} {r : Nat} {x : ExpertRow} {rest : List ExpertRow} (hget : os.getD r [] = x :: rest) :
    offered os = offered (os.set r rest) + 1 := by
  induction os generalizing r with
  | nil => simp at hget
  | cons l os ih =>
    cases r with
    | zero =>
      have hl : l = x :: rest := by simpa using hget
      simp only [offered, hl, List.set_cons_zero, List.map_cons, List.sum_cons, List.length_cons]
      omega
    | succ r =>
      have := ih (r := r) (by simpa using hget)
      simp only [offered, List.set_cons_succ, List.map_cons, List.sum_cons] at this ⊢
      omega

theorem offered_eq_zero {os : List (List ExpertRow)} : offered os = 0 ↔ ∀ l ∈ os, l = [] := by
  simp [offered, List.sum_eq_zero_iff]

/-- With turns enough to reach the next rank that has an offer, and all ranks for each later offer, EXP_CAP rows or every offer is served. -/
theorem length_serve (fuel cap r : Nat) (os : List (List ExpertRow)) (hr : r < os.length) {p : Nat} (hp : p < os.length) (hne : os.getD p [] ≠ [])
    (hfuel : offered os * os.length + turnsTo os.length r p + 1 ≤ fuel + os.length) :
    (serve fuel cap r os).length = min cap (offered os) := by
  have hmem {os : List (List ExpertRow)} {p : Nat} (hp : p < os.length) (hne : os.getD p [] ≠ []) : ∃ l ∈ os, l ≠ [] := by
    rw [List.getD_eq_getElem _ _ hp] at hne
    exact ⟨_, List.getElem_mem hp, hne⟩
  induction fuel generalizing cap r os p with
  | zero =>
    obtain ⟨l, hl, hlne⟩ := hmem hp hne
    obtain ⟨k, hk⟩ := Nat.exists_eq_succ_of_ne_zero fun h => hlne (offered_eq_zero.mp h l hl)
    rw [hk, Nat.succ_mul] at hfuel
    omega
  | succ fuel ih =>
    by_cases hcap : cap = 0
    · rw [serve_of_done (Or.inl hcap), hcap, Nat.zero_min]
      rfl
    have hnext : (r + 1) % os.length < os.length := Nat.mod_lt _ (by omega)
    cases hget : os.getD r [] with
    | nil =>
      have hpr : p ≠ r := fun h => hne (h ▸ hget)
      have hturn := turnsTo_next hr hp
      rw [if_neg hpr] at hturn
      rw [serve_of_empty hcap (hmem hp hne) hget]
      exact ih cap _ os hnext hp hne (by omega)
    | cons x rest =>
      have hoff := offered_set hget
      rw [serve_of_offer hcap (hmem hp hne) hget, List.length_cons]
      by_cases hlast : offered (os.set r rest) = 0
      · rw [serve_of_done (Or.inr (offered_eq_zero.mp hlast)), hoff, hlast, List.length_nil]
        omega
      · obtain ⟨l, hl, hlne⟩ := not_forall₂.mp fun h => hlast (offered_eq_zero.mpr h)
        obtain ⟨q, hq, rfl⟩ := List.mem_iff_getElem.mp hl
        have hq' : q < os.length := by rwa [List.length_set] at hq
        have hturn : turnsTo os.length ((r + 1) % os.length) q < os.length := by
          unfold turnsTo
          split <;> omega
        rw [hoff, Nat.succ_mul] at hfuel
        have := ih (cap - 1) ((r + 1) % os.length) (os.set r rest) (by rwa [List.length_set]) (p := q) hq
          (by rwa [List.getD_eq_getElem _ _ hq]) (by rw [List.length_set]; omega)
        omega

/-! ### O34 -/

/-- The start rank's first offer is served first. -/
theorem serve_head {fuel cap r : Nat} {os : List (List ExpertRow)} {x : ExpertRow} {rest : List ExpertRow} (hcap : 0 < cap)
    (hget : os.getD r [] = x :: rest) (hr : r < os.length) : (serve (fuel + 1) cap r os).head? = some (r, x) := by
  rw [serve_of_offer (by omega) ⟨x :: rest, ?_, by simp⟩ hget, List.head?_cons]
  rw [← hget, List.getD_eq_getElem _ _ hr]
  exact List.getElem_mem hr

/-- Settles O34: the offers are an insertion sort of the rows, and the round-robin is followed turn by turn. -/
theorem expertSelection : Obligations.ExpertSelection := by
  unfold Obligations.ExpertSelection
  refine ⟨fun h e n => ⟨by simp [XHold.offers], fun r hr => ?_⟩, fun cap start total os out hstart htotal hout => ?_⟩
  · have hget : (h.offers e n).getD r [] =
        (((h.msgs.filter (fun m => m.rank == r)).flatMap (·.rows)).filter (fun x => x.expert == e)).foldr placeRow [] := by
      rw [List.getD_eq_getElem _ _ (by simpa [XHold.offers] using hr)]
      simp [XHold.offers]
    rw [hget]
    exact ⟨foldr_placeRow_perm _, foldr_placeRow_pairwise _⟩
  · obtain ⟨fuel, hfuel⟩ : ∃ fuel, (total + 1) * (os.length + 1) = fuel + 1 :=
      Nat.exists_eq_succ_of_ne_zero (by positivity)
    rw [hfuel] at hout
    subst hout
    refine ⟨?_, fun r hr => serve_prefix _ cap start r os hstart, fun x rest hget hcap => serve_head hcap hget hstart, fun p q hp hq h => ?_⟩
    · by_cases hzero : offered os = 0
      · rw [serve_of_done (Or.inr (offered_eq_zero.mp hzero)), htotal, ← offered, hzero]
        simp
      · obtain ⟨l, hl, hlne⟩ := not_forall₂.mp fun h => hzero (offered_eq_zero.mpr h)
        obtain ⟨p, hp, rfl⟩ := List.mem_iff_getElem.mp hl
        have hturn : turnsTo os.length start p < os.length := by
          unfold turnsTo
          split <;> omega
        have hmul : (total + 1) * (os.length + 1) = total * os.length + total + os.length + 1 := by ring
        rw [length_serve _ cap start os hstart hp (by rwa [List.getD_eq_getElem _ _ hp]) ?_, htotal, offered]
        rw [← hfuel, hmul, htotal, offered]
        omega
    · have := serve_fair (fuel + 1) cap start os hstart hp hq (by rwa [length_servedTo])
      rw [length_servedTo, length_servedTo] at this
      split at this <;> omega

end Sys2Proof.Machine
end

section
/-! PROOFS. Power samples, the cap loop, the thermal loop and the trips (R363 to R374, R380, R381, R440, R441), with O32. -/

namespace Sys2Proof.Machine

/-! ### A decision of the levels leaves what was measured -/

/-- The power state but for what a decision of the levels sets. -/
def LevelChange (p q : Power) : Prop :=
  q = { p with target := q.target, dutyTarget := q.dutyTarget, changing := q.changing, pendingLevel := q.pendingLevel, groupLevel := q.groupLevel }

theorem LevelChange.trans {p q r : Power} (hq : LevelChange p q) (hr : LevelChange q r) : LevelChange p r := by
  rw [LevelChange] at hq hr ⊢
  rw [hr, hq]

theorem State.startLine_sendChange (s : State) (u : Nat) (ps : List Packet) (op : Option (Nat × Ctx)) (parent : Option Packet) :
    SendChange s (s.startLine u ps op parent).1 := by
  unfold State.startLine
  split
  · rfl
  · dsimp only
    split
    · rfl
    · exact SendChange.trans (t := { (s.freshId u).1 with sent := _ }) rfl (State.foldl_inject_sendChange _ _)

theorem State.startStages_sendChange (s : State) (u : Nat) (op : Option (Nat × Ctx)) (parent : Option Packet) (n : Nat) (p : Packet) :
    SendChange s (s.startStages u op parent n p).1 := by
  induction n generalizing s p with
  | zero => exact s.startLine_sendChange u [p] op parent
  | succ n ih => exact (s.startLine_sendChange u [p] op parent).trans (ih _ _)

theorem State.lanternCast_power (s : State) (m : LanternMsg) : (s.lanternCast m).power = s.power := by
  rw [State.lanternCast, State.bump_power]
  have h := s.startStages_sendChange (unitMgt 0) none none 3
    { dst := s.boot.node, src := 0, sunit := unitMgt 0, cls := 5, line := true, stages := 3, dim := 0, order := [1, 2, 3],
      lmask := (List.range 4).map s.group.coordMask, body := .lantern m }
  rw [SendChange] at h
  rw [h]

theorem State.retarget_levelChange (s : State) : LevelChange s.power s.retarget.power := by
  unfold State.retarget
  dsimp only
  split
  · rfl
  · rw [State.bump_power]
    rfl

theorem State.levels_levelChange (s : State) : LevelChange s.power s.levels.power := by
  refine LevelChange.trans ?_ s.lanternCheck.retarget_levelChange
  unfold State.lanternCheck
  split
  · have hdown : LevelChange s.power ((s.lanternCast ⟨1, s.allowed, s.group.id, s.power.epoch, 0, 0⟩).power.down s.allowed) := by
      rw [State.lanternCast_power]
      rfl
    exact hdown
  · rfl

theorem State.levelsOn_levelChange (s : State) : LevelChange s.power s.levelsOn.power := by
  unfold State.levelsOn
  split
  · exact s.levels_levelChange
  · rfl

/-- What a decision of the levels leaves of the measurements. -/
theorem LevelChange.keeps {p q : Power} (h : LevelChange p q) : q.sampleSum = p.sampleSum ∧ q.samples = p.samples ∧ q.aCap = p.aCap ∧
    q.capUnmet = p.capUnmet ∧ q.tj = p.tj ∧ q.ts = p.ts ∧ q.atLimit = p.atLimit ∧ q.aTh = p.aTh := by
  rw [LevelChange] at h
  rw [h]
  exact ⟨rfl, rfl, rfl, rfl, rfl, rfl, rfl, rfl⟩

/-- The loops run at work and in Vigil mode (Table 18.5). -/
theorem whenLoops_of_on {s : State} (t : State) (hon : s.fabricOn = true ∨ s.vigil = true) : whenLoops s t = .next t := by
  rcases hon with h | h <;> simp [whenLoops, h]

theorem State.capture_power_of_deferred (s : State) {cls : Nat} (w : ErrAt) (hde : classSev cls = 1) : (s.capture cls w).power = s.power := by
  rw [s.capture_frame_of_deferred w hde]

/-! ### The cap loop (R370, R371) -/

/-- Power above the cap for the period, power below the band, and a period that lets A_cap fall. -/
def State.capHigh (s : State) : Bool := s.power.sampleSum > s.power.capWatts * 1000 * s.power.samples
def State.capLow (s : State) : Bool :=
  s.power.sampleSum * 100 < s.power.capWatts * 1000 * s.power.samples * (100 - s.obj 0x2400 3)
def State.capDrop (s : State) : Bool :=
  s.capLow && s.obj 0x2400 4 ≤ (if s.power.sampleSum * 100 < s.power.capWatts * 1000 * s.power.samples * (100 - s.obj 0x2400 3) then s.power.lowPeriods + 1 else 0) && s.running = s.power.aCap && 0 < s.power.aCap

/-- The measurements at the end of a cap period. -/
theorem State.capLoop_power {s : State} (h : s.power.samples ≠ 0) :
    s.capLoop.power.sampleSum = 0 ∧ s.capLoop.power.samples = 0 ∧
    s.capLoop.power.aCap = (if s.capHigh && s.power.aCap < 19 then s.power.aCap + 1 else if s.capDrop then s.power.aCap - 1 else s.power.aCap) ∧
    s.capLoop.power.capUnmet = (s.capHigh && s.power.aCap = 19) := by
  have hde : classSev 0x17 = 1 := by decide
  have hend : ∃ u : State, s.capLoop = u.levelsOn ∧ u.power = { s.power with
      aCap := if s.capHigh && s.power.aCap < 19 then s.power.aCap + 1 else if s.capDrop then s.power.aCap - 1 else s.power.aCap
      lowPeriods := u.power.lowPeriods, capUnmet := s.capHigh && s.power.aCap = 19
      pkgPower := (s.power.sampleSum, s.power.samples), sampleSum := 0, samples := 0 } := by
    unfold State.capLoop
    dsimp only
    rw [if_neg h]
    refine ⟨_, rfl, ?_⟩
    simp only [apply_ite State.power, State.capture_power_of_deferred _ _ hde, State.bump_power, ite_self]
    rfl
  obtain ⟨u, hu, hpow⟩ := hend
  obtain ⟨hsum, hsam, hcap, hunmet, -, -, -, -⟩ := u.levelsOn_levelChange.keeps
  rw [hu, hsum, hsam, hcap, hunmet, hpow]
  exact ⟨rfl, rfl, rfl, rfl⟩

theorem TotChange.obj {s t : State} (h : TotChange s t) (i j : Nat) : t.obj i j = s.obj i j := by
  rw [TotChange] at h
  rw [h]
  rfl

theorem powerLoops : Parts.PowerLoops := by
  unfold Parts.PowerLoops
  intro s p hp
  subst hp
  refine ⟨fun mw rails => ⟨_, rfl, rfl, rfl, rfl, rfl, rfl⟩, fun hon hs => ?_, fun w hm => ?_, fun hon hc => ?_, fun hon => ?_⟩
  · obtain ⟨hsum, hsam, hcap, hunmet⟩ := State.capLoop_power hs
    refine ⟨_, whenLoops_of_on _ hon, hsum, hsam, fun hhi => ?_, fun hlo => ?_, s.capLoop_mem⟩
    · have hhigh : s.capHigh = true := decide_eq_true hhi
      have hnolow : s.capLow = false := by
        refine decide_eq_false ?_
        have hmul : s.power.capWatts * 1000 * s.power.samples * (100 - s.obj 0x2400 3) ≤ s.power.capWatts * 1000 * s.power.samples * 100 :=
          Nat.mul_le_mul_left _ (Nat.sub_le _ _)
        omega
      rw [hcap, hunmet, hhigh, State.capDrop, hnolow]
      exact ⟨by simp, rfl⟩
    · have hlow : s.capHigh = false := decide_eq_false (by omega)
      rw [hcap, hunmet, hlow]
      refine ⟨rfl, ?_⟩
      simp only [Bool.false_and, Bool.false_eq_true, if_false]
      refine if_congr ?_ rfl rfl
      simp only [State.capDrop, State.capLow, Bool.and_eq_true, decide_eq_true_eq]
      constructor
      · rintro ⟨⟨⟨h1, h2⟩, h3⟩, h4⟩
        exact ⟨h1, by rwa [if_pos h1] at h2, h3, h4⟩
      · rintro ⟨h1, h2, h3, h4⟩
        exact ⟨⟨⟨h1, by rwa [if_pos h1]⟩, h3⟩, h4⟩
  · refine ⟨(s.pkgTouch.writeCap w).1, congrArg Host.Outcome.next (by rw [State.unlessMulti, hm]; rfl), ?_⟩
    unfold State.writeCap
    dsimp only
    split
    next hw =>
      exact ⟨((State.bump_totChange _ _ _ _).obj _ _).trans (obj_setObj s.pkgTouch 0x2400 1 _),
        (tot_bump_same _ (i := 0x3400) (by decide) _ _).trans (if_pos hw).symm, State.bump_power _ _ _ _⟩
    next hw => exact ⟨obj_setObj _ _ _ _, (if_neg hw).symm, rfl⟩
  · exact (whenLoops_of_on _ hon).trans (congrArg Host.Outcome.next (if_pos hc))
  · exact whenLoops_of_on _ hon

/-! ### The thermal loop (R380) -/

/-- The thermal level by the three rules of R380. -/
def State.thermalLevel (s : State) (tj ts : Nat) : Nat :=
  if 105 ≤ tj ∨ 95 ≤ ts then 19
  else if s.obj 0x2400 7 ≤ tj ∨ s.obj 0x2400 8 ≤ ts then min 19 (s.power.aTh + 1)
  else if tj + 5 < s.obj 0x2400 7 ∧ ts + 5 < s.obj 0x2400 8 ∧ 10 ≤ s.power.coolPeriods + 1 then s.power.aTh - 1
  else s.power.aTh

/-- The power state at the end of a thermal period, before the decision of the levels. -/
def State.thermalPower (s : State) (tj ts : Nat) (temps : List Nat) : Power :=
  let p := { s.power with tj := tj, ts := ts, temps := temps, atLimit := 105 ≤ tj || 95 ≤ ts }
  if 105 ≤ tj || 95 ≤ ts then { p with aTh := 19, coolPeriods := 0 }
  else if s.obj 0x2400 7 ≤ tj || s.obj 0x2400 8 ≤ ts then { p with aTh := min 19 (p.aTh + 1), coolPeriods := 0 }
  else if tj + 5 < s.obj 0x2400 7 && ts + 5 < s.obj 0x2400 8 then
    (if p.coolPeriods + 1 ≥ 10 then { p with aTh := p.aTh - 1, coolPeriods := 0 } else { p with coolPeriods := p.coolPeriods + 1 })
  else { p with coolPeriods := 0 }

theorem State.thermalPower_spec (s : State) (tj ts : Nat) (temps : List Nat) :
    (s.thermalPower tj ts temps).tj = tj ∧ (s.thermalPower tj ts temps).ts = ts ∧
    (s.thermalPower tj ts temps).atLimit = (105 ≤ tj || 95 ≤ ts) ∧ (s.thermalPower tj ts temps).aTh = s.thermalLevel tj ts := by
  unfold State.thermalPower State.thermalLevel
  simp only [Bool.or_eq_true, Bool.and_eq_true, decide_eq_true_eq]
  split
  · exact ⟨rfl, rfl, rfl, rfl⟩
  · split
    · exact ⟨rfl, rfl, rfl, rfl⟩
    · by_cases hcool : tj + 5 < s.obj 0x2400 7 ∧ ts + 5 < s.obj 0x2400 8
      · rw [if_pos hcool]
        by_cases hten : s.power.coolPeriods + 1 ≥ 10
        · rw [if_pos hten, if_pos ⟨hcool.1, hcool.2, hten⟩]
          exact ⟨rfl, rfl, rfl, rfl⟩
        · rw [if_neg hten, if_neg fun h => hten h.2.2]
          exact ⟨rfl, rfl, rfl, rfl⟩
      · rw [if_neg hcool, if_neg fun h => hcool ⟨h.1, h.2.1⟩]
        exact ⟨rfl, rfl, rfl, rfl⟩

theorem State.thermalLoop_power (s : State) (js ks : List Nat) :
    LevelChange (s.thermalPower (js.foldl max 0) (ks.foldl max 0) (js ++ ks)) (s.thermalLoop js ks).power := by
  have hde : classSev 0x18 = 1 := by decide
  have hend : ∃ u : State, s.thermalLoop js ks = u.levelsOn ∧ u.power = s.thermalPower (js.foldl max 0) (ks.foldl max 0) (js ++ ks) := by
    unfold State.thermalLoop
    dsimp only
    refine ⟨_, rfl, ?_⟩
    simp only [apply_ite State.power, State.capture_power_of_deferred _ _ hde, State.bump_power, ite_self]
    rfl
  obtain ⟨u, hu, hpow⟩ := hend
  rw [hu, ← hpow]
  exact u.levelsOn_levelChange

/-! ### The trips (R381, R440, R441) -/

/-- Entry into Vigil mode takes VDDC and the fabric lanes away, and passes the energy on to the ledger; all else of the power state stays. -/
theorem State.enterVigil_power (s : State) : s.enterVigil.power = s.power ∨
    s.enterVigil.power = { s.power with rails := s.power.rails.filter (fun e => e.2 ≠ 0), fabricLanes := [], energyPassed := s.power.energyNano } := by
  by_cases h : s.boot.state = .vigil
  · exact Or.inl (by rw [State.enterVigil, if_pos (by simp [h])])
  · have hports := s.vigilBase.portsVigil_portChange
    rw [PortChange] at hports
    have heq : s.enterVigil = (({ s.vigilBase.portsVigil with power := s.vigilBase.portsVigil.power.vigil } : State).modLedger
      (fun l => { l with vigilEntries := satAdd 32 l.vigilEntries 1 })).commitLedger := if_neg (by simpa using h)
    have hpow : s.vigilBase.portsVigil.power = s.power := by rw [hports]; rfl
    refine Or.inr ?_
    rw [heq, ← hpow]
    rfl

/-- What the capture of a fatal error leaves of the power state (R411, R442). -/
theorem State.capture_power_of_fatal {s : State} {cls : Nat} (w : ErrAt) (huf : classSev cls = 3) :
    (s.capture cls w).power.thermtrip = s.power.thermtrip ∧ (s.capture cls w).power.railsOff = s.power.railsOff ∧
    (s.capture cls w).power.refLost = s.power.refLost ∧ (s.capture cls w).power.locked = s.power.locked ∧
    ∀ e ∈ (s.capture cls w).power.rails, e ∈ s.power.rails := by
  have hev := State.capture_of_fatal (s := s) (w := w) huf
  rw [EventChange] at hev
  have hq : (s.ufQueued cls w).power = s.power := by rw [s.ufQueued_frame]
  have hpow : (s.capture cls w).power = (s.ufQueued cls w).enterVigil.power := by rw [hev]
  rw [hpow, ← hq]
  rcases (s.ufQueued cls w).enterVigil_power with h | h <;> rw [h]
  · exact ⟨rfl, rfl, rfl, rfl, fun e he => he⟩
  · exact ⟨rfl, rfl, rfl, rfl, fun e he => (List.mem_filter.mp he).1⟩

/-- A regulator that fires removes its rail, and the package is in Vigil mode. -/
theorem regTrip_of_fires {s : State} {die : Nat} {r : RailTrip} (hd : die < Config.dies s.part) (hk : r.k < 7)
    (hf : tripFires die s.power.level r.k r.cause = true) :
    ∃ t, exec (.regTrip die r) s = .next t ∧ t.boot.state = .vigil ∧ t.power.railsOff = s.power.railsOff ++ [(die, r.k)] ∧
      (die, r.k) ∉ t.power.rails ∧ t.mem = s.mem := by
  refine ⟨_, congrArg Host.Outcome.next (if_pos (by simp [hd, hk, hf])), ?_⟩
  obtain ⟨-, hoff, -, -, hrails⟩ := State.capture_power_of_fatal (s := s.setPower (fun p => p.dropRail die r.k)) (cls := 0x32)
    { die := die, source := blkDie die, syndrome := leBytes 1 r.k ++ leBytes 1 die } rfl
  refine ⟨(State.capture_of_fatal_keeps _ rfl).2, hoff, fun hmem => ?_, State.capture_mem _ _ _⟩
  exact absurd rfl (of_decide_eq_true (List.mem_filter.mp (hrails _ hmem)).2)

theorem regTrip_of_within {s : State} {die : Nat} {r : RailTrip} (hf : tripFires die s.power.level r.k r.cause = false) :
    exec (.regTrip die r) s = .next s :=
  congrArg Host.Outcome.next (if_neg (by simp [hf]))

theorem thermalAndTrips : Parts.ThermalAndTrips := by
  unfold Parts.ThermalAndTrips
  refine ⟨fun s js ks tj ts hon htj hts => ?_, fun s die tj ts hd hhot => ?_, fun s die r hd hk => ⟨fun hcause => ?_, fun mv us ma => ?_⟩,
    fun s => ?_, fun s n ns hn => ⟨fun hon hst => ?_, fun hst => ?_⟩⟩
  · subst htj hts
    obtain ⟨-, -, -, -, htj, hts, hlim, hth⟩ := (s.thermalLoop_power js ks).keeps
    obtain ⟨htj', hts', hlim', hth'⟩ := s.thermalPower_spec (js.foldl max 0) (ks.foldl max 0) (js ++ ks)
    refine ⟨_, whenLoops_of_on _ hon, htj.trans htj', hts.trans hts', ?_, hth.trans hth'⟩
    rw [hlim, hlim']
    simp
  · refine ⟨_, (if_pos hd).trans (congrArg Host.Outcome.next (if_pos (by simpa using hhot))), (State.capture_of_fatal_keeps _ rfl).2, ?_,
      State.capture_mem _ _ _⟩
    exact (State.capture_power_of_fatal _ rfl).1
  · refine regTrip_of_fires hd hk ?_
    rcases hcause with ⟨mv, us, hc, h1, h2⟩ | ⟨mv, hc, h1⟩ | ⟨mv, hc, h1⟩ | ⟨ma, hc, h1⟩ <;> rw [hc]
    · simp [tripFires, h1, h2]
    · simp [tripFires, h1]
    · rw [tripFires, decide_eq_true_eq]
      omega
    · rw [tripFires, decide_eq_true_eq, railAmps]
      omega
  · refine ⟨fun h hc => regTrip_of_within ?_, fun h hc => regTrip_of_within ?_, fun h hc => regTrip_of_within ?_,
      fun h hc => regTrip_of_within ?_⟩ <;> rw [hc]
    · simp only [tripFires, Bool.and_eq_false_iff, decide_eq_false_iff_not]
      omega
    · rw [tripFires, decide_eq_false_iff_not]
      omega
    · rw [tripFires, decide_eq_false_iff_not]
      omega
    · rw [tripFires, decide_eq_false_iff_not, railAmps]
      omega
  · obtain ⟨-, -, href, hlock, -⟩ := State.capture_power_of_fatal
      (s := s.setPower (fun p => { p with refLost := true, locked := false })) (cls := 0x31) {} rfl
    exact ⟨_, rfl, (State.capture_of_fatal_keeps _ rfl).2, href, hlock, State.capture_mem _ _ _⟩
  · exact (if_pos hn).trans (congrArg Host.Outcome.next (if_pos (by simp [hon, hst])))
  · exact (if_pos hn).trans (congrArg Host.Outcome.next (if_pos hst))

/-- Settles O32: the loops end in a decision of the levels, which leaves what they set, and the trips in the capture of a fatal error. -/
theorem powerAndThermal : Obligations.PowerAndThermal := ⟨powerLoops, thermalAndTrips⟩

end Sys2Proof.Machine
end

section
/-! PROOFS. The editions of the Almanac and their drain (R262 to R268), with O40. -/

namespace Sys2Proof.Machine

theorem whenOn_of_fabricOn {s : State} (t : State) (hon : s.fabricOn = true) : whenOn s t = .next t := congrArg Host.Outcome.next (if_pos hon)

theorem State.unlessMulti_of_free {s : State} (hm : s.multiHolds = false) (i : Instr) (t : State) : s.unlessMulti i t = t :=
  if_neg (ne_true_of_eq_false hm)

/-! ### Editions (R262, R263) -/

/-- What R263 asks of the loaded table. -/
theorem State.sealOk_iff (s : State) : s.sealOk = true ↔ s.almanac.bank2 = .loading ∧ s.almanac.shadowEd = (s.almanac.curEd + 1) % 256 ∧
    Table.read routeReset s.boot.node s.almanac.shadowTable = (0x8800 : Half) ∧
    ∀ d < 65536, entryBad s.boot.dim d (Table.read routeReset d s.almanac.shadowTable).toNat = false := by
  unfold State.sealOk
  simp only [Bool.and_eq_true, decide_eq_true_eq, List.all_eq_true, List.mem_range, Bool.not_eq_true', and_assoc]

theorem State.loadSeal_of_ok {s : State} (h : s.sealOk = true) : s.loadSeal = { s with almanac := { s.almanac with
    bank2 := .shadow, second := .loaded s.almanac.shadowTable, secondEd := s.almanac.shadowEd, sealFail := false } } := by
  exact congrArg (fun a => ({ s with almanac := a } : State)) (if_pos h)

theorem State.loadSeal_of_bad {s : State} (h : s.sealOk = false) : s.loadSeal = { s with almanac := { s.almanac with sealFail := true } } := by
  exact congrArg (fun a => ({ s with almanac := a } : State)) (if_neg (ne_true_of_eq_false h))

theorem almanacEditions : Parts.AlmanacEditions := by
  unfold Parts.AlmanacEditions
  intro s u a hon hm hu ha
  subst hu ha
  have hnow (i : Instr) (t : State) : whenOn s (s.unlessMulti i t) = .next t := by
    rw [State.unlessMulti_of_free hm, whenOn_of_fabricOn _ hon]
  refine ⟨fun h => ?_, fun h => ?_, fun hl hed hown hall => ?_, fun h => ?_, fun h => ?_, fun h => ?_, fun h => ?_, fun e => ?_⟩
  · refine (hnow _ _).trans (congrArg Host.Outcome.next (if_pos ?_))
    rcases h with h | h <;> simp [h]
  · refine (hnow _ _).trans (congrArg Host.Outcome.next (if_neg ?_))
    rcases h with h | h <;> simp [h]
  · exact (hnow _ _).trans (congrArg Host.Outcome.next (State.loadSeal_of_ok (s.pkgTouch.sealOk_iff.mpr ⟨hl, hed, hown, hall⟩)))
  · have hbad : s.pkgTouch.sealOk = false := by
      refine Bool.eq_false_iff.mpr fun hok => ?_
      obtain ⟨hl, hed, hown, hall⟩ := s.pkgTouch.sealOk_iff.mp hok
      rcases h with h | h | h | ⟨d, hd, h⟩
      · exact h hl
      · exact h hed
      · exact h hown
      · exact Bool.noConfusion (h.symm.trans (hall d hd))
    exact (hnow _ _).trans (congrArg Host.Outcome.next (State.loadSeal_of_bad hbad))
  · exact ⟨_, (hnow _ _).trans (congrArg Host.Outcome.next (if_pos h)), rfl, rfl, rfl, rfl, rfl, rfl, rfl⟩
  · exact (hnow _ _).trans (congrArg Host.Outcome.next (if_neg h))
  · refine (hnow _ _).trans (congrArg Host.Outcome.next ?_)
    exact congrArg (fun a => ({ s.pkgTouch with almanac := a } : State)) (if_pos h)
  · refine (whenOn_of_fabricOn _ hon).trans (congrArg Host.Outcome.next ?_)
    unfold State.retired
    by_cases h : s.almanac.bank2 = .previous ∧ s.almanac.secondEd = e
    · rw [if_pos h, if_pos (by simpa using h)]
      exact congrArg (fun a => ({ s with almanac := a } : State)) (if_pos h.1)
    · rw [if_neg h, if_neg (by simpa using h)]

/-! ### Drain rounds (R265 to R267) -/

/-- The Almanac but for the count of packets stamped: what sending leaves of it. -/
def AccChange (a b : Almanac) : Prop := b = { a with accCur := b.accCur }

theorem AccChange.trans {a b c : Almanac} (hb : AccChange a b) (hc : AccChange b c) : AccChange a c := by
  rw [AccChange] at hb hc ⊢
  rw [hc, hb]

theorem State.post_accChange (s : State) (u dst key : Nat) (b : Body) : AccChange s.almanac (s.post u dst key b).almanac :=
  foldl_holds (fun t => AccChange s.almanac t.almanac) State.inject (fun _ _ h => h.trans rfl) _ _ rfl

/-- A query to every node of a list. -/
def State.queryAll (s : State) (l : List Nat) : State := l.foldl (fun s n => s.post (unitMgt 0) n 0 .drainQuery) s

theorem State.queryAll_accChange (l : List Nat) (s : State) : AccChange s.almanac (s.queryAll l).almanac :=
  foldl_holds (fun t => AccChange s.almanac t.almanac) _ (fun t _ h => h.trans (t.post_accChange _ _ _ _)) l s rfl

theorem State.queryAll_length_sent (l : List Nat) (s : State) : (s.queryAll l).sent.length = s.sent.length + l.length := by
  induction l generalizing s with
  | nil => rfl
  | cons n l ih =>
    rw [State.queryAll, List.foldl_cons, ← State.queryAll, ih, State.post_length_sent, List.length_cons]
    omega

/-- The next round is open: every node with a valid entry is queried (R266). -/
theorem State.openRound_spec (s : State) :
    s.openRound.almanac.coord = s.almanac.coord ∧ s.openRound.almanac.bank2 = s.almanac.bank2 ∧
    s.openRound.almanac.lastRound = s.almanac.lastRound ∧ s.openRound.almanac.replies = [] ∧ s.openRound.almanac.queried = s.almanac.nodes ∧
    s.openRound.sent.length = s.sent.length + s.almanac.nodes.length := by
  have hopen (q : List Nat) : ((s.setAlmanac (fun a => { a with queried := q, replies := [] })).queryAll q).almanac.coord = s.almanac.coord ∧
      ((s.setAlmanac (fun a => { a with queried := q, replies := [] })).queryAll q).almanac.bank2 = s.almanac.bank2 ∧
      ((s.setAlmanac (fun a => { a with queried := q, replies := [] })).queryAll q).almanac.lastRound = s.almanac.lastRound ∧
      ((s.setAlmanac (fun a => { a with queried := q, replies := [] })).queryAll q).almanac.replies = [] ∧
      ((s.setAlmanac (fun a => { a with queried := q, replies := [] })).queryAll q).almanac.queried = q ∧
      ((s.setAlmanac (fun a => { a with queried := q, replies := [] })).queryAll q).sent.length = s.sent.length + q.length := by
    rw [State.queryAll_length_sent, State.queryAll_accChange]
    exact ⟨rfl, rfl, rfl, rfl, rfl, rfl⟩
  have heq : s.openRound = (s.setAlmanac (fun a => { a with queried := s.almanac.nodes, replies := [] })).queryAll s.almanac.nodes := rfl
  rw [heq]
  exact hopen s.almanac.nodes

/-- The nodes with a valid entry are those of the CURRENT bank. -/
theorem Almanac.nodes_of_cur {a b : Almanac} (h : b.cur = a.cur) : b.nodes = a.nodes := by simp only [Almanac.nodes, h]

theorem EventChange.almanac {s t : State} (h : EventChange s t) : t.almanac = s.almanac := by
  rw [EventChange] at h
  rw [h]

/-- A round that is complete is kept for the next one where it qualifies. -/
def State.keepRound (s : State) : State :=
  s.setAlmanac (fun a => { a with lastRound := if s.almanac.qualifies s.almanac.replies then some s.almanac.replies else none })

/-- A round that is complete and not the second to qualify alike is followed by the next, and is kept where it qualifies (R266). -/
theorem State.judgeRound_next {s : State} (h : s.almanac.qualifies s.almanac.replies = false ∨
      ∀ old, s.almanac.lastRound = some old → (sameAcc s.almanac.replies old && sameAcc old s.almanac.replies) = false) :
    s.judgeRound = s.keepRound.openRound := by
  refine if_neg ?_
  rcases h with h | h
  · simp [h]
  · cases hl : s.almanac.lastRound with
    | none => simp
    | some old => simp [h old hl]

/-- RETIRE goes to every node that was queried but the coordinator itself. -/
def State.retireAll (s : State) : State :=
  s.almanac.queried.foldl (fun t n => if n = t.boot.node then t else t.post (unitMgt 0) n 0 (.retire s.almanac.prevEd)) s

/-- Two rounds that qualify alike retire the PREVIOUS bank (R266). -/
theorem State.judgeRound_retires {s : State} {old : List DrainRep} (hq : s.almanac.qualifies s.almanac.replies = true)
    (hl : s.almanac.lastRound = some old) (hs : sameAcc s.almanac.replies old = true) (hs' : sameAcc old s.almanac.replies = true)
    (hp : s.almanac.bank2 = .previous) :
    s.judgeRound.almanac.bank2 = .free ∧ s.judgeRound.almanac.coord = false ∧ s.judgeRound.almanac.replies = [] := by
  have hret : EventChange (s.retireAll.setAlmanac (fun a => { a.freed with coord := false, queried := [], replies := [], lastRound := none }))
      s.judgeRound := by
    have htwice : (s.almanac.qualifies s.almanac.replies && match s.almanac.lastRound with
        | none => false
        | some rs => sameAcc s.almanac.replies rs && sameAcc rs s.almanac.replies) = true := by
      simp [hq, hl, hs, hs']
    rw [State.judgeRound]
    refine Eq.mpr (congrArg _ (if_pos htwice)) ?_
    exact State.event_eventChange _ _ _ _ _ _ _
  have hposts : AccChange s.almanac s.retireAll.almanac := by
    refine foldl_holds (fun t => AccChange s.almanac t.almanac) _ (fun t n h => ?_) _ s rfl
    split
    · exact h
    · exact h.trans (t.post_accChange _ _ _ _)
  have hbank : s.retireAll.almanac.bank2 = .previous := by
    rw [AccChange] at hposts
    rw [hposts]
    exact hp
  rw [hret.almanac]
  refine ⟨?_, rfl, rfl⟩
  exact congrArg Almanac.bank2 (if_pos hbank)

/-- A reply of the round under way is kept, and the last one judges the round. -/
theorem State.drainReplied_of_due {s : State} {r : DrainRep} (hc : s.almanac.coord = true) (hq : s.almanac.queried.contains r.node = true)
    (hnew : ∀ x ∈ s.almanac.replies, x.node ≠ r.node) :
    s.drainReplied r = if s.almanac.replies.length + 1 = s.almanac.queried.length
      then (s.setAlmanac (fun a => { a with replies := a.replies ++ [r] })).judgeRound
      else s.setAlmanac (fun a => { a with replies := a.replies ++ [r] }) := by
  have hany : (s.almanac.replies.any fun x => x.node == r.node) = false := by simpa using hnew
  refine (if_neg (by rw [hc, hq, hany]; simp)).trans ?_
  refine if_congr ?_ rfl rfl
  change (s.almanac.replies ++ [r]).length = _ ↔ _
  rw [List.length_append]
  rfl

theorem Almanac.qualifies_iff (a : Almanac) (rs : List DrainRep) : a.qualifies rs = true ↔ ∀ r ∈ rs, r.current = a.curEd ∧ r.infl = 0 := by
  simp [Almanac.qualifies]

/-- A member that has kept the last reply of a round. -/
def State.replied (s : State) (r : DrainRep) : State := s.setAlmanac (fun a => { a with replies := a.replies ++ [r] })

/-- The round after one that does not retire the PREVIOUS bank. -/
theorem State.drainReplied_next {s : State} {r : DrainRep} (hc : s.almanac.coord = true) (hq : s.almanac.queried.contains r.node = true)
    (hnew : ∀ x ∈ s.almanac.replies, x.node ≠ r.node) (hlen : s.almanac.replies.length + 1 = s.almanac.queried.length)
    (h : s.almanac.qualifies (s.almanac.replies ++ [r]) = false ∨ ∀ old, s.almanac.lastRound = some old →
      (sameAcc (s.almanac.replies ++ [r]) old && sameAcc old (s.almanac.replies ++ [r])) = false) :
    (s.drainReplied r).almanac.bank2 = s.almanac.bank2 ∧ (s.drainReplied r).almanac.coord = true ∧
    (s.drainReplied r).almanac.lastRound =
      (if s.almanac.qualifies (s.almanac.replies ++ [r]) then some (s.almanac.replies ++ [r]) else none) ∧
    (s.drainReplied r).almanac.replies = [] ∧ (s.drainReplied r).almanac.queried = s.almanac.nodes := by
  have heq : s.drainReplied r = (s.replied r).keepRound.openRound :=
    (State.drainReplied_of_due hc hq hnew).trans ((if_pos hlen).trans (State.judgeRound_next (s := s.replied r) h))
  obtain ⟨hcoord, hbank, hlast, hrep, hquer, -⟩ := (s.replied r).keepRound.openRound_spec
  rw [heq]
  exact ⟨hbank, hcoord.trans hc, hlast, hrep, hquer.trans (Almanac.nodes_of_cur rfl)⟩

theorem drainRounds : Parts.DrainRounds := by
  unfold Parts.DrainRounds
  intro s a hon ha
  subst ha
  have hnow (t : State) : whenOn s t = .next t := whenOn_of_fabricOn t hon
  refine ⟨fun hp hc hm => ?_, fun src => ?_, fun node cur infl acc hc hq hnew => ⟨fun hlen => ?_, fun rs hlen hrs hqual hold hp => ?_,
    fun rs hlen hrs hbad => ?_, fun rs hlen hrs hqual hold => ?_⟩, fun hc hl => ?_, fun hl => ?_⟩
  · obtain ⟨hcoord, -, -, hrep, hquer, hsent⟩ :=
      (s.pkgTouch.setAlmanac (fun a => { a with coord := true, lastRound := none })).openRound_spec
    have hnodes : (s.pkgTouch.setAlmanac (fun a => { a with coord := true, lastRound := none })).almanac.nodes = s.almanac.nodes :=
      Almanac.nodes_of_cur rfl
    rw [hnodes] at hquer hsent
    refine ⟨_, ?_, hcoord, hquer, hrep, hsent⟩
    refine (hnow _).trans (congrArg Host.Outcome.next ?_)
    rw [State.unlessMulti_of_free hm]
    exact if_pos (by simp [hp, hc])
  · refine (hnow _).trans (congrArg Host.Outcome.next ?_)
    rw [State.drainAsked, State.drainReport]
    split <;> rfl
  · exact (hnow _).trans (congrArg Host.Outcome.next ((State.drainReplied_of_due hc hq hnew).trans (if_neg hlen)))
  · obtain ⟨old, hlast, hs, hs'⟩ := hold
    subst hrs
    refine ⟨_, (hnow _).trans (congrArg Host.Outcome.next ((State.drainReplied_of_due hc hq hnew).trans (if_pos hlen))), ?_⟩
    exact State.judgeRound_retires ((Almanac.qualifies_iff _ _).mpr hqual) hlast hs hs' hp
  · subst hrs
    have hno : s.almanac.qualifies (s.almanac.replies ++ [⟨node, cur, infl, acc⟩]) = false := by
      refine Bool.eq_false_iff.mpr fun hok => ?_
      obtain ⟨r, hr, hne⟩ := hbad
      obtain ⟨h1, h2⟩ := (Almanac.qualifies_iff _ _).mp hok r hr
      exact hne.elim (fun h => h h1) (fun h => h h2)
    obtain ⟨hbank, hcoord, hlast, hrep, hquer⟩ := State.drainReplied_next hc hq hnew hlen (Or.inl hno)
    exact ⟨_, hnow _, hbank, hcoord, hlast.trans (if_neg (ne_true_of_eq_false hno)), hrep, hquer⟩
  · subst hrs
    obtain ⟨hbank, hcoord, hlast, hrep, hquer⟩ := State.drainReplied_next (r := ⟨node, cur, infl, acc⟩) hc hq hnew hlen
      (Or.inr fun old h => Bool.and_eq_false_iff.mpr (hold old h))
    exact ⟨_, hnow _, hbank, hcoord, hlast.trans (if_pos ((Almanac.qualifies_iff _ _).mpr hqual)), hrep, hquer⟩
  · exact (hnow _).trans (congrArg Host.Outcome.next (if_neg (by simp [hc, hl])))
  · exact (hnow _).trans (congrArg Host.Outcome.next (if_pos (by simp [hl])))

/-- Settles O40: each command by the state of the second bank, and each reply by whether it is the last of its round and what the round shows. -/
theorem almanacAndDrain : Obligations.AlmanacAndDrain := ⟨almanacEditions, drainRounds⟩

end Sys2Proof.Machine
end

section
/-! PROOFS. PROFILE_CMD and its saves (R351, R357 to R360, Table 15.14), with O46. -/

namespace Sys2Proof.Machine

/-! ### A write that a requester makes -/

/-- Where Dorub answers and no MULTI_WRITE stands, the write acts at once (R331, R343). -/
theorem whenServed_now {s : State} {r : Requester} {index : Nat} (hon : s.dorubOn r = true) (hserves : s.serves index = true)
    (hmulti : s.multi = none) (c : Instr) (t : State) : whenServed c r index s t = .next t := by
  simp [whenServed, hon, hserves, State.inTurn, hmulti]

theorem State.underGuard_of_locked {s : State} (h : s.profiles.guardOpen = false) (f : State → State × Dst) :
    (s.underGuard f).1 = { s with profiles := { s.profiles with guardRefused := satAdd 32 s.profiles.guardRefused 1 } } := by
  simp [State.underGuard, State.pkgGuard, h]

theorem State.underGuard_of_open {s : State} (h : s.profiles.guardOpen = true) (f : State → State × Dst) : s.underGuard f = f s.pkgTouch := by
  simp [State.underGuard, State.pkgGuard, h]

/-! ### PROFILE_CMD (Table 15.14) -/

section
variable {s : State} {r : Requester}

theorem State.profileCmd_of_unauthorised (h : s.authorised r = false) (v : Nat) : (s.profileCmd r v).1 = s := by
  simp [State.profileCmd, h]

theorem State.profileCmd_of_saving (hauth : s.authorised r = true) (h : s.profiles.saving ≠ none) (v : Nat) : (s.profileCmd r v).1 = s := by
  simp [State.profileCmd, hauth, Option.isSome_iff_ne_none.mpr h]

/-- A command with its code in [15:8] and its profile in [1:0]. -/
theorem State.profileCmd_of_code (hauth : s.authorised r = true) (h : s.profiles.saving = none) {n : Nat} (hn : n < 4) :
    (s.profileCmd r (0x100 + n % 4)).1 = (s.startSave true n).1 ∧
    (s.profileCmd r (0x200 + n % 4)).1 = s.setProfiles (fun p => { p with next := n }) ∧
    (s.profileCmd r (0x300 + n % 4)).1 = (s.startSave false n).1 ∧
    (s.profileCmd r 0x400).1 = s.setProfiles (fun p => { p with next := 255 }) := by
  have h1 : bitsOf (0x100 + n % 4) 8 8 = 1 ∧ (0x100 + n % 4) % 4 = n := by interval_cases n <;> decide
  have h2 : bitsOf (0x200 + n % 4) 8 8 = 2 ∧ (0x200 + n % 4) % 4 = n := by interval_cases n <;> decide
  have h3 : bitsOf (0x300 + n % 4) 8 8 = 3 ∧ (0x300 + n % 4) % 4 = n := by interval_cases n <;> decide
  have h4 : bitsOf 0x400 8 8 = 4 := by decide
  simp only [State.profileCmd, hauth, h, h1, h2, h3, h4, Bool.not_true, Option.isSome_none, Bool.false_eq_true, if_false, true_and]

end

theorem State.startSave_of_mayWrite {s : State} {n : Nat} (h : s.mayWrite n = true) (save : Bool) :
    (s.startSave save n).1 = s.setProfiles (fun p => { p with
      saving := some ⟨n, save, if save then s.storedVals else [], if save then s.storedOcts else []⟩ }) := by
  simp [State.startSave, h]

theorem State.startSave_of_not_mayWrite {s : State} {n : Nat} (h : s.mayWrite n = false) (save : Bool) : (s.startSave save n).1 = s := by
  simp [State.startSave, h]

/-! ### The store (R357) -/

/-- A save is the valid copy of highest generation, and the copy that was so stays. -/
theorem Profile.save_spec (p : Profile) (vals : Table Nat) (octs : Table (List Byte)) :
    ∃ c, (p.save vals octs).copy = some c ∧ c.vals = vals ∧ c.octs = octs ∧ p.a.gen < c.gen ∧ p.b.gen < c.gen ∧
      (p.copy = none ∨ ∃ o, p.copy = some o ∧ ((p.save vals octs).a = o ∨ (p.save vals octs).b = o)) := by
  refine ⟨{ gen := max p.a.gen p.b.gen + 1, ok := true, vals := vals, octs := octs }, ?_, rfl, rfl, ?_, ?_, ?_⟩
  · unfold Profile.save
    dsimp only
    split
    case isTrue h =>
      have ha : p.a.ok = true := (Bool.and_eq_true_iff.mp h).1
      simp only [Profile.copy, ha]
      rw [if_pos (by omega)]
    case isFalse =>
      cases hb : p.b.ok
      · simp only [Profile.copy, hb]
      · simp only [Profile.copy, hb]
        rw [if_neg (by omega)]
  · simp only
    omega
  · simp only
    omega
  · unfold Profile.save Profile.copy
    cases ha : p.a.ok <;> cases hb : p.b.ok
    · exact Or.inl rfl
    · exact Or.inr ⟨p.b, rfl, Or.inr rfl⟩
    · exact Or.inr ⟨p.a, rfl, Or.inl rfl⟩
    · by_cases hle : p.b.gen ≤ p.a.gen
      · exact Or.inr ⟨p.a, by simp [Nat.not_lt.mpr hle], Or.inl (by simp [hle])⟩
      · exact Or.inr ⟨p.b, by simp [Nat.not_le.mp hle], Or.inr (by simp [hle])⟩

/-! ### O46 -/

/-- Settles O46: the guard, the authority and the code of each command, and the copy that a save writes. -/
theorem profileCommands : Obligations.ProfileCommands := by
  unfold Obligations.ProfileCommands
  refine ⟨fun s u r n hon hserves hmulti hn hu => ?_, fun s w p hs hp => ?_⟩
  · subst hu
    have hnow (c : Instr) (v : Nat) : whenServed c r 0x2000 s (s.writeProfileCmd r v).1 = .next (s.writeProfileCmd r v).1 :=
      whenServed_now hon hserves hmulti c _
    have hall {t : State} (h : ∀ v, (s.writeProfileCmd r v).1 = t) :
        ∀ i ∈ [Instr.profileSave r n, .selectNext r n, .defaults r n, .cancelNext r], exec i s = .next t := by
      intro i hi
      simp only [List.mem_cons, List.not_mem_nil, or_false] at hi
      rcases hi with rfl | rfl | rfl | rfl <;> exact (hnow _ _).trans (congrArg Host.Outcome.next (h _))
    have hopen (hg : s.profiles.guardOpen = true) (v : Nat) : s.writeProfileCmd r v = s.pkgTouch.profileCmd r v :=
      State.underGuard_of_open hg _
    refine ⟨fun hg => hall fun v => State.underGuard_of_locked hg _, fun hg ha => hall fun v => ?_, fun hg ha hs => hall fun v => ?_,
      fun hg ha hs => ?_⟩
    · rw [hopen hg, State.profileCmd_of_unauthorised (s := s.pkgTouch) ha]
    · rw [hopen hg, State.profileCmd_of_saving (s := s.pkgTouch) ha hs]
    · obtain ⟨hsave, hselect, hdefaults, hcancel⟩ := State.profileCmd_of_code (s := s.pkgTouch) (r := r) ha hs hn
      have hexec {c : Instr} {v : Nat} {t : State} (h : (s.pkgTouch.profileCmd r v).1 = t) :
          whenServed c r 0x2000 s (s.writeProfileCmd r v).1 = .next t := by
        rw [hnow, hopen hg, h]
      refine ⟨fun hw => hexec (hsave.trans (State.startSave_of_mayWrite (s := s.pkgTouch) hw true)),
        fun hw => hexec (hdefaults.trans (State.startSave_of_mayWrite (s := s.pkgTouch) hw false)),
        fun hw => ⟨hexec (hsave.trans (State.startSave_of_not_mayWrite (s := s.pkgTouch) hw true)),
          hexec (hdefaults.trans (State.startSave_of_not_mayWrite (s := s.pkgTouch) hw false))⟩, hexec hselect, hexec hcancel⟩
  · subst hp
    obtain ⟨c, hcopy, hvals, hocts, hga, hgb, hold⟩ := Profile.save_spec (if w.save then { s.profiles.get w.profile with
      saves := (s.profiles.get w.profile).saves + 1 } else s.profiles.get w.profile) w.vals w.octs
    have hget : (s.saveDone.profiles.get w.profile) = (if w.save then { s.profiles.get w.profile with
        saves := (s.profiles.get w.profile).saves + 1 } else s.profiles.get w.profile).save w.vals w.octs := by
      simp only [State.saveDone, hs]
      exact Table.read_write_same _ _ _ _
    have hfields : s.saveDone.profiles.saving = none ∧ s.saveDone.objs = s.objs ∧ s.saveDone.octs = s.octs := by
      simp only [State.saveDone, hs]
      exact ⟨rfl, rfl, rfl⟩
    obtain ⟨hsaving, hobjs, hocts'⟩ := hfields
    rw [← hget] at hcopy hold
    cases hw : w.save <;> rw [hw] at hga hgb hold <;>
      exact ⟨_, c, rfl, hsaving, hcopy, hvals, hocts, hga, hgb, hold, hobjs, hocts'⟩

end Sys2Proof.Machine
end

section
/-! PROOFS. The tests of the part, the ledger's commit, and the test access port (R395, R396, R398 to R400, R428, R434, R435), with O50. -/

namespace Sys2Proof.Machine

/-! ### A table changed entry by entry -/

/-- Every value of a table changed by a function that leaves the default. -/
theorem Table.read_map {V : Type} (d : V) (f : V → V) (hf : f d = d) (k : Nat) (m : Table V) :
    Table.read d k (m.map (fun (e : Nat × V) => (e.1, f e.2))) = f (Table.read d k m) := by
  induction m with
  | nil => exact hf.symm
  | cons e m ih =>
    rw [List.map_cons, Table.read, Table.read]
    split
    · rfl
    · exact ih

/-! ### The ledger (R435) -/

/-- A commit raises the sequence number, and writes the live ledger into one copy. -/
theorem Security.commit_spec (z : Security) : z.commit.ledger.seq = z.ledger.seq + 1 ∧ z.commit.ledger.dieTestRun = z.ledger.dieTestRun ∧
    (z.commit.ledgerA = ⟨true, z.commit.ledger⟩ ∧ z.commit.ledgerB = z.ledgerB ∨
      z.commit.ledgerB = ⟨true, z.commit.ledger⟩ ∧ z.commit.ledgerA = z.ledgerA) := by
  unfold Security.commit
  dsimp only
  split
  · exact ⟨rfl, rfl, Or.inr ⟨rfl, rfl⟩⟩
  · exact ⟨rfl, rfl, Or.inl ⟨rfl, rfl⟩⟩

theorem State.commitLedger_spec (s : State) : s.commitLedger.security.ledger.seq = s.security.ledger.seq + 1 ∧
    s.commitLedger.security.ledger.dieTestRun = s.security.ledger.dieTestRun ∧
    (s.commitLedger.security.ledgerA = ⟨true, s.commitLedger.security.ledger⟩ ∧ s.commitLedger.security.ledgerB = s.security.ledgerB ∨
      s.commitLedger.security.ledgerB = ⟨true, s.commitLedger.security.ledger⟩ ∧ s.commitLedger.security.ledgerA = s.security.ledgerA) :=
  Security.commit_spec _

/-! ### Manufacture (R395, R428, R434) -/

/-- In MANUFACTURE no fuse is blown (R428). -/
theorem Security.fuses_of_manufacture {z : Security} (h : z.lifecycle = .manufacture) : z.retiredFuse = false ∧ z.vendorFuse = false := by
  unfold Security.lifecycle at h
  split at h
  · cases h
  next hr =>
    split at h
    next hv => exact ⟨by simpa using hr, by simpa using hv⟩
    · split at h
      · cases h
      · cases h
      next hne _ => exact absurd h hne

theorem Tap.unprivate_reg (t : Tap) (c : Nat) : t.unprivate.reg ≠ .priv c := by
  unfold Tap.unprivate
  cases t.reg <;> simp

/-- Manufacturing test takes the private instructions out of the TAPs. -/
theorem State.toVendor_tap {s : State} (h : s.security.lifecycle = .manufacture) (d : Nat) : s.toVendor.tap d = (s.tap d).unprivate := by
  rw [State.toVendor, if_pos h]
  exact Table.read_map {} Tap.unprivate rfl d s.taps

theorem testAndLedger : Parts.TestAndLedger := by
  unfold Parts.TestAndLedger
  refine ⟨fun s die i hd hrom hp => ⟨s.dieTest die i, ?_, rfl, rfl, rfl, rfl, rfl, rfl, ?_, s.dieTest_mem die i⟩,
    fun s h => ⟨s.toVendor, rfl, ?_, fun hstored => ?_, fun d c => ?_⟩, fun s h => congrArg Host.Outcome.next (if_neg h),
    fun s hrom htest => ⟨s.commitLedger, congrArg Host.Outcome.next (if_pos (by simp [State.wardenOn, hrom, htest])), ?_⟩⟩
  · exact (if_pos hd).trans (congrArg Host.Outcome.next (if_pos (by simp [hrom, hp])))
  · exact (State.commitLedger_spec _).2.1
  · rw [State.toVendor, if_pos h]
    rfl
  · obtain ⟨hr, -⟩ := Security.fuses_of_manufacture h
    have hsec : s.toVendor.security = { s.security with vendorFuse := true, debugScope := 0 } := by
      rw [State.toVendor, if_pos h]
      rfl
    have hst : Security.stored { s.security with vendorFuse := true, debugScope := 0 } = s.security.stored := rfl
    rw [hsec, Security.lifecycle, hst, hstored]
    simp [hr]
  · rw [State.toVendor_tap h]
    exact Tap.unprivate_reg _ _
  · obtain ⟨hseq, -, hcopy⟩ := s.commitLedger_spec
    exact ⟨hseq, hcopy⟩

/-! ### Instructions of a TAP (R395, R398) -/

theorem TotChange.taps {s t : State} (h : TotChange s t) : t.taps = s.taps := by
  rw [TotChange] at h
  rw [h]

/-- Vigil mode leaves the TAPs, and so does the capture of a fatal error. -/
theorem State.capture_taps_of_fatal {s : State} {cls : Nat} (w : ErrAt) (huf : classSev cls = 3) : (s.capture cls w).taps = s.taps := by
  have hev := State.capture_of_fatal (s := s) (w := w) huf
  rw [EventChange] at hev
  have hq : (s.ufQueued cls w).taps = s.taps := by rw [s.ufQueued_frame]
  have henter (t : State) : t.enterVigil.taps = t.taps := by
    by_cases h : t.boot.state = .vigil
    · rw [State.enterVigil, if_pos (by simp [h])]
    · have hports := t.vigilBase.portsVigil_portChange
      rw [PortChange] at hports
      rw [(State.enterVigil_frame h).1, hports]
      rfl
  rw [hev]
  exact (henter _).trans hq

theorem State.tap_of_taps {s t : State} (h : t.taps = s.taps) (d : Nat) : t.tap d = s.tap d := by simp only [State.tap, h]

/-- EXTEST and CLAMP in ROM drive the outputs. -/
theorem State.tapDrive_of_rom {s : State} (h : s.boot.state = .rom) (d : Nat) (i : TapInst) (reg : TapReg) :
    s.tapDrive d i reg = s.setTap d { s.tap d with inst := i, reg := reg, driving := true } := by
  simp [State.tapDrive, h]

/-- Later they put the package in Vigil mode, with the outputs held (R398). -/
theorem State.tapDrive_of_late {s : State} (h : s.boot.state ≠ .rom) (d : Nat) (i : TapInst) (reg : TapReg) :
    (s.tapDrive d i reg).boot.state = .vigil ∧
    (s.tapDrive d i reg).tap d = { s.tap d with inst := i, reg := reg, driving := true, held := true } := by
  have heq : s.tapDrive d i reg = (s.setTap d { s.tap d with inst := i, reg := reg, driving := true, held := true }).capture 0x38
      { die := d, source := blkDie d } := by
    simp [State.tapDrive, h]
  rw [heq]
  refine ⟨(State.capture_of_fatal_keeps _ rfl).2, ?_⟩
  rw [State.tap_of_taps (State.capture_taps_of_fatal _ rfl), State.tap_setTap]

/-- What a die's TAP shifts out is that of the register selected. -/
theorem State.tapOut_of_bypass {s : State} {d : Nat} (h : (s.tap d).reg = .bypass) : s.tapOut d = [false] := by
  simp [State.tapOut, State.tapReg, h]

theorem State.tapOut_of_boundary {s : State} {d : Nat} (h : (s.tap d).reg = .boundary) : s.tapOut d = (s.tap d).cells := by
  simp [State.tapOut, State.tapReg, h]

/-! ### The release of TRST_N (R396) -/

/-- The table of TAPs after the release: IDCODE in each, and only those with outputs held differ from the reset TAP. -/
def releasedTaps (m : Table Tap) : Table Tap :=
  m.filterMap (fun (e : Nat × Tap) => if e.2.held then some (e.1, { e.2 with inst := .idcode, reg := .idcode }) else none)

theorem read_releasedTaps (m : Table Tap) (h : Table.wf {} m = true) (d : Nat) :
    (Table.read {} d (releasedTaps m)).reg = .idcode ∧ (Table.read {} d (releasedTaps m)).held = (Table.read {} d m).held := by
  induction m with
  | nil => exact ⟨rfl, rfl⟩
  | cons e m ih =>
    obtain ⟨j, v⟩ := e
    simp only [Table.wf, Bool.and_eq_true, List.all_eq_true, decide_eq_true_eq] at h
    obtain ⟨⟨-, hlater⟩, hm⟩ := h
    obtain ⟨ihreg, ihheld⟩ := ih hm
    cases hv : v.held with
    | true =>
      have hcons : releasedTaps ((j, v) :: m) = (j, { v with inst := .idcode, reg := .idcode }) :: releasedTaps m := by simp [releasedTaps, hv]
      rw [hcons, Table.read, Table.read]
      by_cases hj : j = d
      · rw [if_pos hj, if_pos hj]
        exact ⟨rfl, rfl⟩
      · rw [if_neg hj, if_neg hj]
        exact ⟨ihreg, ihheld⟩
    | false =>
      have hcons : releasedTaps ((j, v) :: m) = releasedTaps m := by simp [releasedTaps, hv]
      rw [hcons, Table.read]
      by_cases hj : j = d
      · have hnone : Table.read {} d m = {} := Table.read_none _ _ _ (fun e he => Nat.ne_of_gt (hj ▸ hlater e he))
        rw [if_pos hj]
        exact ⟨ihreg, ihheld.trans (by rw [hnone, hv])⟩
      · rw [if_neg hj]
        exact ⟨ihreg, ihheld⟩

theorem tap : Parts.Tap := by
  unfold Parts.Tap
  refine ⟨fun s d hd => ⟨fun hreach => ⟨?_, fun cells => ?_, fun hrom e he => ?_, fun hlate e he => ?_, fun code => ?_⟩, fun code hreg hoff => ?_,
    fun hreach code cells i hi => ?_⟩, fun s sel hwf => ⟨_, rfl, rfl, read_releasedTaps _ hwf⟩⟩
  · exact ⟨_, onTap_of_reached hd hreach _, State.tapOut_of_bypass (by simp), rfl⟩
  · refine ⟨_, onTap_of_reached hd hreach _, (State.tapOut_of_boundary ?_).trans ?_, rfl⟩
    · simp
    · simp
  · simp only [List.mem_cons, List.not_mem_nil, or_false] at he
    rcases he with rfl | rfl
    · exact (onTap_of_reached hd hreach _).trans (congrArg Host.Outcome.next (State.tapDrive_of_rom hrom _ _ _))
    · exact (onTap_of_reached hd hreach _).trans (congrArg Host.Outcome.next (State.tapDrive_of_rom hrom _ _ _))
  · simp only [List.mem_cons, List.not_mem_nil, or_false] at he
    rcases he with rfl | rfl
    · exact ⟨_, onTap_of_reached hd hreach _, (State.tapDrive_of_late hlate _ _ _).1, (State.tapDrive_of_late hlate _ _ _).2, State.tapDrive_mem ..⟩
    · exact ⟨_, onTap_of_reached hd hreach _, (State.tapDrive_of_late hlate _ _ _).1, (State.tapDrive_of_late hlate _ _ _).2, State.tapDrive_mem ..⟩
  · exact ⟨_, onTap_of_reached hd hreach _, rfl, State.tapLoad_reg ..⟩
  · simp [State.tapOut, State.tapReg, hreg, hoff]
  · have hnot (t : State) : onTap d s t = .next s := by simp [onTap, hd, hreach]
    simp only [List.mem_cons, List.not_mem_nil, or_false] at hi
    rcases hi with rfl | rfl | rfl | rfl | rfl | rfl <;> exact hnot _

/-- Settles O50. The private instructions leave the TAPs with MANUFACTURE, and the release of TRST_N resets every TAP of a canonical table. -/
theorem testAccess : Obligations.TestAccess := ⟨testAndLedger, tap⟩

end Sys2Proof.Machine
end

section
/-! PROOFS. The owner authorisation, firmware and attestation (R420 to R426), with O55. -/

namespace Sys2Proof.Machine

/-! ### The owner authorisation (R426) -/

theorem State.authOpen_of_verified {s : State} {r : Requester} {sig : List Byte} (howner : s.security.lifecycle.guardedByOwner = true)
    (hsig : rsaVerify s.security.owner s.authMessage sig = true) :
    (s.authOpen r sig).1 = { s with security := { s.security with auth := some r, challengeNo := s.security.randomNext,
                                                                  randomNext := s.security.randomNext + 1 } } := by
  simp [State.authOpen, howner, hsig, State.newChallenge, State.setSec]

/-- A refused AUTH_OPEN is recorded, and renews the challenge. -/
theorem State.authOpen_of_refused {s : State} {r : Requester} {sig : List Byte}
    (h : s.security.lifecycle.guardedByOwner = false ∨ rsaVerify s.security.owner s.authMessage sig = false) :
    (s.authOpen r sig).1 = s.newChallenge.secRecord 0x42 := by
  rcases h with h | h <;> simp [State.authOpen, h]

/-- The record of a refused credential leaves the warden's state. -/
theorem State.secRecord_security {s : State} {cls : Nat} (hde : classSev cls = 1) : (s.secRecord cls).security = s.security := by
  rw [State.secRecord, s.capture_frame_of_deferred _ hde]

theorem authorisation : Parts.Authorisation := by
  unfold Parts.Authorisation
  intro s u r hon h5020 h5200 hmulti hu
  subst hu
  refine ⟨fun sig howner hsig => (whenServed_now hon h5020 hmulti _ _).trans ?_, fun sig hno => ⟨_, whenServed_now hon h5020 hmulti _ _, ?_⟩,
    fun hauth => (whenServed_now hon h5020 hmulti _ _).trans ?_, fun hauth => (whenServed_now hon h5020 hmulti _ _).trans ?_, rfl,
    fun bs hlen => (whenServed_now hon h5200 hmulti _ _).trans ?_⟩
  · exact congrArg Host.Outcome.next (State.authOpen_of_verified (s := s.pkgTouch) howner hsig)
  · rw [State.authOpen_of_refused (s := s.pkgTouch) hno, State.secRecord_security (by decide)]
    exact ⟨rfl, rfl⟩
  · exact congrArg Host.Outcome.next (if_pos hauth)
  · exact congrArg Host.Outcome.next (if_neg hauth)
  · rw [if_pos hlen]
    have hsame : s.pkgTouch.authorised r = s.authorised r := rfl
    unfold State.slot0Secret
    rw [hsame]
    cases s.authorised r with
    | true => rfl
    | false => rfl

/-! ### Firmware (R420 to R423) -/

/-- The firmware commands where the owner's authority is there. -/
theorem State.fwCmd_of_owner {s : State} {r : Requester} (h : s.ownerOnly r none = none) :
    (s.fwCmd r 1).1 = s.setSec (fun z => { z with stagedOk := z.imageOk z.staged 1 && z.imageOk z.staged 2 }) ∧
    (s.fwCmd r 2).1 = (if s.security.stagedOk then s.setSec (fun z => { z with activated := true }) else s) ∧
    (s.security.bootRomOnly = false → (s.fwCmd r 3).1 = s.setSec (fun z => { z with
      fusedSvnW := max z.fusedSvnW (z.imageVersion z.fwBooted 1).2, fusedSvnD := max z.fusedSvnD (z.imageVersion z.fwBooted 2).2 })) := by
  refine ⟨by simp [State.fwCmd, h], ?_, fun hrom => by simp [State.fwCmd, h, hrom]⟩
  cases hok : s.security.stagedOk <;> simp [State.fwCmd, h, hok]

/-- Without it they change nothing. -/
theorem State.fw_of_refused {s : State} {r : Requester} (h : s.ownerOnly r none ≠ none) (v n : Nat) (b : List Byte) :
    (s.fwCmd r v).1 = s ∧ (s.fwMinSvn r v).1 = s ∧ (s.fwChunk r n b).1 = s := by
  obtain ⟨d, hd⟩ := Option.ne_none_iff_exists'.1 h
  simp [State.fwCmd, State.fwMinSvn, State.fwChunk, hd]

theorem State.fwMinSvn_of_owner {s : State} {r : Requester} (h : s.ownerOnly r none = none) (v : Nat) :
    (s.fwMinSvn r v).1 =
      (if v < s.security.fwMinSvn ∨ min (s.security.imageVersion s.security.fwBooted 1).2 (s.security.imageVersion s.security.fwBooted 2).2 < v
       then s else s.setSec (fun z => { z with fwMinSvn := v })) := by
  simp only [State.fwMinSvn, h, Bool.or_eq_true, decide_eq_true_eq]
  split <;> rfl

theorem State.fwChunk_of_owner {s : State} {r : Requester} (h : s.ownerOnly r none = none) (n : Nat) (b : List Byte) :
    (s.fwChunk r n b).1 = s.setSec (fun z => { z.setFw z.staged ((z.fw z.staged).put n b) with stagedOk := false }) := by
  simp [State.fwChunk, h]

/-! ### Attestation (R425) -/

/-- A report that has just become ready is the one that is found, where no other report answers the search. -/
theorem find_lastReports_snoc {rs : List Report2} {a : Report2} {p : Report2 → Bool} (hready : a.ready = true) (ha : p a = true)
    (hother : ∀ x ∈ rs, p x = false) : (lastReports (rs ++ [a])).find? p = some a := by
  have hnew : a ∉ rs := fun h => Bool.false_ne_true ((hother a h).symm.trans ha)
  have hkeep : a ∉ ((rs ++ [a]).filter (·.ready)).take (((rs ++ [a]).filter (·.ready)).length - 32) := by
    rw [List.filter_append, List.filter_cons_of_pos hready, List.filter_nil, List.length_append, List.length_singleton,
      List.take_append_of_le_length (by omega)]
    exact fun h => hnew (List.mem_filter.1 (List.mem_of_mem_take h)).1
  unfold lastReports
  dsimp only
  rw [List.filter_append, List.find?_append, List.filter_cons_of_pos (by simpa using hkeep), List.filter_nil, List.find?_eq_none.2, List.find?_cons_of_pos ha]
  · rfl
  · exact fun x hx => by simp [hother x (List.mem_filter.1 hx).1]

theorem State.reportReady_find {s : State} {r : Requester} {a : Report2}
    (h : s.security.reports.find? (fun a => a.req == r && !a.ready) = some a) :
    (s.reportReady r).security.reports.find? (fun y => y.req == r && y.ready) = some { a with ready := true } := by
  have hfound := List.find?_some h
  have ha : a.req = r := by simpa using (Bool.and_eq_true_iff.1 hfound).1
  unfold State.reportReady
  rw [h]
  exact find_lastReports_snoc (p := fun y => y.req == r && y.ready) rfl (by simp [ha]) (fun x hx => by
    have hne : x.req ≠ r := by simpa using (List.mem_filter.1 hx).2
    simp [hne])

theorem firmwareAndReports : Parts.FirmwareAndReports := by
  unfold Parts.FirmwareAndReports
  intro s u r z hon h5100 h5101 h5300 hmulti hu hz
  subst hu hz
  have hcmd (c : Instr) (v : Nat) := whenServed_now hon h5100 hmulti c (s.pkgTouch.fwCmd r v).1
  refine ⟨fun howner => ?_, fun hno n v bs i hi => ?_, fun nonce hlen => ⟨_, whenServed_now hon h5300 hmulti _ _, ?_⟩,
    fun a ha => ⟨_, rfl, State.reportReady_find ha⟩⟩
  · have howner' : s.pkgTouch.ownerOnly r none = none := howner
    obtain ⟨hverify, hactivate, hcommit⟩ := State.fwCmd_of_owner howner'
    refine ⟨(hcmd _ 1).trans (congrArg Host.Outcome.next hverify),
      fun hok => (hcmd _ 2).trans (congrArg Host.Outcome.next (hactivate.trans (if_pos hok))),
      fun hok => (hcmd _ 2).trans (congrArg Host.Outcome.next (hactivate.trans (if_neg (ne_true_of_eq_false hok)))),
      fun hrom => (hcmd _ 3).trans (congrArg Host.Outcome.next (hcommit hrom)), fun v hlo hhi => ?_, fun v hv => ?_, fun n bs h1 h64 hlen => ?_⟩
    · exact (whenServed_now hon h5100 hmulti _ _).trans (congrArg Host.Outcome.next
        ((State.fwMinSvn_of_owner howner' v).trans (if_neg (not_or.2 ⟨Nat.not_lt.2 hlo, Nat.not_lt.2 hhi⟩))))
    · exact (whenServed_now hon h5100 hmulti _ _).trans (congrArg Host.Outcome.next ((State.fwMinSvn_of_owner howner' v).trans (if_pos hv)))
    · exact (whenServed_now hon h5101 hmulti _ _).trans (congrArg Host.Outcome.next
        ((if_pos (by simp [h1, h64, hlen, chunkBytes])).trans (State.fwChunk_of_owner howner' n bs)))
  · have hno' : s.pkgTouch.ownerOnly r none ≠ none := hno
    have hfw (v n : Nat) (b : List Byte) := State.fw_of_refused hno' v n b
    simp only [List.mem_cons, List.not_mem_nil, or_false] at hi
    rcases hi with rfl | rfl | rfl | rfl | rfl
    · exact Or.inl ((hcmd _ 1).trans (congrArg Host.Outcome.next (hfw 1 n bs).1))
    · exact Or.inl ((hcmd _ 2).trans (congrArg Host.Outcome.next (hfw 2 n bs).1))
    · exact Or.inl ((hcmd _ 3).trans (congrArg Host.Outcome.next (hfw 3 n bs).1))
    · exact Or.inl ((whenServed_now hon h5100 hmulti _ _).trans (congrArg Host.Outcome.next (hfw v n bs).2.1))
    · have hnow : exec (.fwChunk r n bs) s = _ := whenServed_now hon h5101 hmulti _ _
      rw [hnow]
      split
      · exact Or.inl (congrArg Host.Outcome.next (hfw v n bs).2.2)
      · exact Or.inr rfl
  · rw [if_pos hlen]
    exact ⟨rfl, rfl⟩

/-- Settles O55. A report that becomes ready is its requester's only one, and the newest of all that can be read. -/
theorem wardenServices : Obligations.WardenServices := ⟨authorisation, firmwareAndReports⟩

end Sys2Proof.Machine
end

section
/-! PROOFS. Requests executed once, in order and in their envelope, and writes held back by a MULTI_WRITE (R318, R319, R330, R331, R340, R343,
R350), with O44. -/

namespace Sys2Proof.Machine

/-! ### A request to a port that answers (R319, R331) -/

/-- A port that answers a requester is at work, and where it answers none, discards. -/
theorem State.dorubPort_of_on {s : State} {r : Requester} (h : s.dorubOn r = true) : s.dorubPort r.port = true :=
  (Bool.and_eq_true_iff.1 h).1

theorem State.request_of_repeated {s : State} {c : Instr} {r : Requester} {tid : Nat} {a : DorubRsp} (hc : requestOf c = some (r, tid))
    (hon : s.dorubOn r = true) (hmulti : s.multi = none) (hkept : s.kept.find? (fun k => k.req == r && k.tid == tid) = some a) :
    s.request c = s.emit (.dorub a) := by
  simp [State.request, hc, hon, State.inTurn, hmulti, State.repeated, hkept]

theorem State.request_of_waiting {s : State} {c : Instr} {r : Requester} {tid : Nat} (hc : requestOf c = some (r, tid))
    (hon : s.dorubOn r = true) (hmulti : s.multi ≠ none) : s.request c = s.hold c := by
  simp [State.request, hc, hon, State.inTurn, Option.isSome_iff_ne_none.2 hmulti]

theorem State.request_of_unaddressed {s : State} {c : Instr} {r : Requester} {tid : Nat} (hc : requestOf c = some (r, tid))
    (hport : s.dorubPort r.port = true) (hon : s.dorubOn r = false) : s.request c = s.frameDiscard r.port := by
  simp [State.request, hc, hon, State.unaddressed, hport]

/-- A request whose turn has come, and which was not answered before, is served. -/
theorem State.request_of_new {s : State} {c : Instr} {r : Requester} {tid : Nat} (hc : requestOf c = some (r, tid))
    (hon : s.dorubOn r = true) (hmulti : s.multi = none) (hnew : s.repeated r tid = none) : s.request c = s.serve c := by
  simp [State.request, hc, hon, State.inTurn, hmulti, hnew]

/-! ### Envelopes (R318, R330) -/

/-- A message in its frame and envelope: where the port takes both, the request itself. -/
theorem State.enveloped_of_taken {z : State} {r : Requester} {e : Envelope} (hport : (z.fecIn r.port e.frame).dorubPort r.port = true)
    (htakes : (z.fecIn r.port e.frame).dorubTakes r e.frame = true) (hproto : e.proto = 0x0D0B) (hver : e.ver = 1) (f : State → State) :
    z.enveloped r e f = f (z.fecIn r.port e.frame) := by
  simp [State.enveloped, hport, htakes, hproto, hver]

theorem State.enveloped_of_foreign {z : State} {r : Requester} {e : Envelope} (hport : (z.fecIn r.port e.frame).dorubPort r.port = true)
    (htakes : (z.fecIn r.port e.frame).dorubTakes r e.frame = true) (h : e.proto ≠ 0x0D0B ∨ e.ver ≠ 1) (f : State → State) :
    z.enveloped r e f = (z.fecIn r.port e.frame).bump 0x3330 3 1 := by
  rcases h with h | h <;> simp [State.enveloped, hport, htakes, h]

theorem State.enveloped_of_discarded {z : State} {r : Requester} {e : Envelope} (hport : (z.fecIn r.port e.frame).dorubPort r.port = true)
    (htakes : (z.fecIn r.port e.frame).dorubTakes r e.frame = false) (f : State → State) :
    z.enveloped r e f = (z.fecIn r.port e.frame).frameDiscard r.port := by
  simp [State.enveloped, hport, htakes]

/-- A port that takes a frame answers its sender. -/
theorem State.dorubOn_of_takes {s : State} {r : Requester} {f : EthFrame} (hport : s.dorubPort r.port = true) (htakes : s.dorubTakes r f = true) :
    s.dorubOn r = true := by
  simp only [State.dorubTakes, State.dorubOn, State.toOwn, Bool.or_eq_true, Bool.and_eq_true, decide_eq_true_eq] at htakes ⊢
  exact ⟨hport, htakes.imp id fun h => ⟨h.1.2.1, rfl⟩⟩

theorem requestsOnce : Parts.RequestsOnce := by
  unfold Parts.RequestsOnce
  intro s r tid i sub h off n size bs es crc e c w hcases
  rcases hcases with ⟨rfl, rfl, hproto, hver, htakes⟩ | ⟨hc, rfl⟩
  · have hexec (hport : (s.fecIn r.port e.frame).dorubPort r.port = true) : exec (.dorubRead ⟨r, e⟩ tid i sub) s =
        .next ((s.fecIn r.port e.frame).request (.dorubRead ⟨r, e⟩ tid i sub)) :=
      congrArg Host.Outcome.next (State.enveloped_of_taken hport htakes hproto hver _)
    exact ⟨fun a hon hmulti hkept => (hexec (State.dorubPort_of_on hon)).trans (congrArg Host.Outcome.next (State.request_of_repeated rfl hon hmulti hkept)),
      fun hon hmulti => (hexec (State.dorubPort_of_on hon)).trans (congrArg Host.Outcome.next (State.request_of_waiting rfl hon hmulti)),
      fun hport hon => (hexec hport).trans (congrArg Host.Outcome.next (State.request_of_unaddressed rfl hport hon))⟩
  · have hreq : requestOf c = some (r, tid) ∧ exec c w = .next (w.request c) := by
      simp only [List.mem_cons, List.not_mem_nil, or_false] at hc
      rcases hc with rfl | rfl | rfl | rfl | rfl | rfl | rfl | rfl | rfl <;> exact ⟨rfl, rfl⟩
    obtain ⟨hof, hexec⟩ := hreq
    exact ⟨fun a hon hmulti hkept => hexec.trans (congrArg Host.Outcome.next (State.request_of_repeated hof hon hmulti hkept)),
      fun hon hmulti => hexec.trans (congrArg Host.Outcome.next (State.request_of_waiting hof hon hmulti)),
      fun hport hon => hexec.trans (congrArg Host.Outcome.next (State.request_of_unaddressed hof hport hon))⟩

theorem envelopes : Parts.Envelopes := by
  unfold Parts.Envelopes
  intro z s r tid i sub e hs hport
  subst hs
  refine ⟨fun htakes => congrArg Host.Outcome.next (State.enveloped_of_discarded hport htakes _), fun hhost hno => ?_, fun htakes =>
    ⟨fun h => congrArg Host.Outcome.next (State.enveloped_of_foreign hport htakes h _), fun hproto hver hservice hmulti hnew => ?_⟩⟩
  · rcases hno with h | h | ⟨a, ha, hne⟩
    · simp [State.dorubTakes, hhost, h]
    · simp [State.dorubTakes, hhost, State.toOwn, h]
    · simp [State.dorubTakes, hhost, State.toOwn, ha, hne]
  · have hunknown : unknownService e.service = true := by simpa [unknownService] using hservice
    have hserve : (z.fecIn r.port e.frame).serve (.dorubRead ⟨r, e⟩ tid i sub) =
        (z.fecIn r.port e.frame).reply { rsp r tid e.service i sub with status := Dst.badService.code } := if_pos hunknown
    exact congrArg Host.Outcome.next ((State.enveloped_of_taken hport htakes hproto hver _).trans
      ((State.request_of_new rfl (State.dorubOn_of_takes hport htakes) hmulti hnew).trans hserve))

/-! ### Writes held back by a MULTI_WRITE (R343) -/

theorem State.multi_of_holds {s : State} (h : s.multiHolds = true) : s.multi.isSome = true := by
  unfold State.multiHolds at h
  cases hm : s.multi with
  | none => simp [hm] at h
  | some m => rfl

theorem State.unlessMulti_of_holding {s : State} (h : s.multiHolds = true) (c : Instr) (t : State) : s.unlessMulti c t = s.hold c := if_pos h

/-- A write to an object that the warden serves waits too. -/
theorem whenServed_of_holding {s : State} {r : Requester} {index : Nat} (hon : s.dorubOn r = true) (hserves : s.serves index = true)
    (h : s.multiHolds = true) (c : Instr) (t : State) : whenServed c r index s t = .next (s.hold c) := by
  simp [whenServed, hon, hserves, State.inTurn, State.multi_of_holds h]

/-- With its firmware the warden serves every object outside a die's test. -/
theorem State.serves_of_firmware {s : State} (hrom : s.security.bootRomOnly = false) (htest : s.boot.state ≠ .dieTest) (index : Nat) :
    s.serves index = true := by
  simp [State.serves, hrom, htest]

theorem writesHeld : Parts.WritesHeld := by
  unfold Parts.WritesHeld
  intro s h
  have hold (c : Instr) (t : State) : s.unlessMulti c t = s.hold c := State.unlessMulti_of_holding h c t
  have hif {p : Prop} [Decidable p] (hp : p) (c : Instr) (t u : State) :
      (if p then Host.Outcome.next (s.unlessMulti c t) else .next u : Host.Outcome State Fault Refusal) = .next (s.hold c) :=
    (if_pos hp).trans (congrArg Host.Outcome.next (hold c t))
  have hwhen {p : Prop} [Decidable p] (hp : p) (c : Instr) (t u : State) :
      (Host.Outcome.next (if p then s.unlessMulti c t else u) : Host.Outcome State Fault Refusal) = .next (s.hold c) :=
    congrArg Host.Outcome.next ((if_pos hp).trans (hold c t))
  refine ⟨fun n x k hn c hc => ?_, fun b v hb c hc => ?_, fun k v hk => hif hk _ _ _, fun i sub bs v o w a sev c hc => ?_, fun k hk hup c hc => ?_,
    fun hup c hc => ?_, fun p hp hon c hc => ?_, fun hon c hc => ?_, fun p b hp => ?_, fun r n bs v i sub hon hserves hrom htest c hc => ?_⟩
  · simp only [List.mem_cons, List.not_mem_nil, or_false] at hc
    rcases hc with rfl | rfl | rfl | rfl | rfl | rfl | rfl | rfl <;> exact hif hn _ _ _
  · simp only [List.mem_cons, List.not_mem_nil, or_false] at hc
    rcases hc with rfl | rfl <;> exact hif hb _ _ _
  · simp only [List.mem_cons, List.not_mem_nil, or_false] at hc
    rcases hc with rfl | rfl | rfl | rfl | rfl | rfl <;> exact congrArg Host.Outcome.next (hold _ _)
  · simp only [List.mem_cons, List.not_mem_nil, or_false] at hc
    rcases hc with rfl | rfl <;> exact (if_pos hk).trans (hwhen hup _ _ _)
  · simp only [List.mem_cons, List.not_mem_nil, or_false] at hc
    rcases hc with rfl | rfl | rfl | rfl <;> exact hwhen hup _ _ _
  · simp only [List.mem_cons, List.not_mem_nil, or_false] at hc
    rcases hc with rfl | rfl <;> exact hwhen (by simp [hp, hon]) _ _ _
  · simp only [List.mem_cons, List.not_mem_nil, or_false] at hc
    rcases hc with rfl | rfl | rfl | rfl | rfl <;> exact hwhen hon _ _ _
  · exact (if_neg hp).trans (congrArg Host.Outcome.next (hold _ _))
  · have hserved (index : Nat) (c : Instr) (t : State) : whenServed c r index s t = .next (s.hold c) :=
      whenServed_of_holding hon (State.serves_of_firmware hrom htest index) h c t
    simp only [List.mem_cons, List.not_mem_nil, or_false] at hc
    rcases hc with rfl | rfl | rfl | rfl | rfl | rfl | rfl | rfl | rfl | rfl | rfl | rfl | rfl | rfl | rfl | rfl | rfl | rfl | rfl | rfl | rfl |
      rfl | rfl | rfl <;> exact hserved _ _ _

/-- Settles O44. Every request takes one path, told by what `requestOf` names, and every write one of three guards that a MULTI_WRITE holds. -/
theorem dorubOnce : Obligations.DorubOnce := ⟨requestsOnce, envelopes, writesHeld⟩

end Sys2Proof.Machine
end

section
/-! PROOFS. The opening of a Jorto session (R322, R431), with O41. -/

namespace Sys2Proof.Machine

/-! ### Key slots and their counters -/

theorem keySlot_setKeySlot (s : State) (k : Nat) (v : KeySlot) : (s.setKeySlot k v).keySlot k = v := Table.read_write_same _ _ _ _

theorem keySlot_setKeySlot_ne (s : State) {k j : Nat} (v : KeySlot) (h : k ≠ j) : (s.setKeySlot k v).keySlot j = s.keySlot j :=
  Table.read_write_ne _ h _ _

/-- The counter of the last accepted credential is the one that was set. -/
theorem State.jortoCtr_setCtr (s : State) (k c : Nat) : (s.setCtr k c).jortoCtr k = c := by
  unfold State.setCtr State.jortoCtr
  by_cases hk : k = 0
  · rw [if_pos hk, if_pos hk]
    rfl
  · rw [if_neg hk, if_neg hk, keySlot_setKeySlot]

theorem State.jortoCtr_of_security {s t : State} (h : t.security = s.security) (k : Nat) : t.jortoCtr k = s.jortoCtr k := by
  simp only [State.jortoCtr, State.keySlot, h]

/-- A credential whose counter is not above the last accepted one does not verify (R431). -/
theorem State.credentialOk_of_old {s : State} {m : JortoMsg} {k : Nat} (h : leNat (slice m.data 0 4) ≤ s.jortoCtr k) :
    s.credentialOk m k = false := by
  unfold State.credentialOk
  split
  · rfl
  · simp [Nat.not_lt.2 h]

/-- What leaves by a host port is sent without a beacon of the management segment. -/
theorem State.emit_of_host (s : State) {o : NetOut} (h : o.onMgt = false) : s.emit o = { s with net := s.net ++ [o] } := by
  simp [State.emit, State.plca, h]

/-! ### OPEN -/

theorem State.setCtr_sessions (s : State) (k c : Nat) : (s.setCtr k c).sessions = s.sessions := by
  unfold State.setCtr
  split <;> rfl

theorem State.setCtr_net (s : State) (k c : Nat) : (s.setCtr k c).net = s.net := by
  unfold State.setCtr
  split <;> rfl

/-- A datagram that the port takes reaches Jorto. -/
theorem onJorto_of_taken {z : State} {m : JortoMsg} (h : (z.fecIn m.port m.frame).jortoTakes m = true) (f : State → State) :
    onJorto m z f = .next (f (z.fecIn m.port m.frame)) := by
  simp [onJorto, h]

/-- The session that OPEN opens. -/
def State.opened (s : State) (m : JortoMsg) (k : Nat) (ev : Bool) : Session :=
  { id := s.newSession, port := m.port, ip := m.ip, udp := m.udp, key := k, events := ev, rtoUs := s.obj 0x1120 1 }

theorem State.jortoOpen_of_verified {s : State} {m : JortoMsg} {k : Nat} (ev : Bool) (herase : (s.keySlot k).erasing = false)
    (hroom : (s.sessions.filter (fun ss => ss.port == m.port)).length < 64) (hcred : s.credentialOk m k = true) :
    s.jortoOpen m k ev = { s.setCtr k (leNat (slice m.data 0 4)) with
      sessions := s.sessions ++ [s.opened m k ev], sessionNext := s.newSession % (2 ^ 32 - 1) + 1,
      net := s.net ++ [.openAck m.port m.ip m.udp s.newSession 0] } := by
  have hno : ((k < 64 && (s.keySlot k).erasing) || 64 ≤ (s.sessions.filter (fun ss => ss.port == m.port)).length) = false := by
    simp [herase, hroom]
  unfold State.jortoOpen
  rw [hno, hcred, if_neg Bool.false_ne_true, if_neg (by simp), State.emit_of_host _ rfl]
  simp only [State.setCtr_sessions, State.setCtr_net]
  rfl

theorem State.jortoOpen_of_wrong {s : State} {m : JortoMsg} {k : Nat} (ev : Bool) (herase : (s.keySlot k).erasing = false)
    (hroom : (s.sessions.filter (fun ss => ss.port == m.port)).length < 64) (hcred : s.credentialOk m k = false) :
    s.jortoOpen m k ev = (s.capture 0x43 {}).emit (.openAck m.port m.ip m.udp 0 18) := by
  simp [State.jortoOpen, herase, hroom, hcred, State.secRecord]

theorem State.jortoOpen_of_full {s : State} {m : JortoMsg} {k : Nat} (ev : Bool) (hk : k < 64)
    (h : (s.keySlot k).erasing = true ∨ 64 ≤ (s.sessions.filter (fun ss => ss.port == m.port)).length) :
    s.jortoOpen m k ev = s.emit (.openAck m.port m.ip m.udp 0 18) := by
  unfold State.jortoOpen
  exact if_pos (by simpa [hk] using h)

/-- Settles O41. The counter of an accepted credential is kept, so that the same credential does not verify again. -/
theorem jortoOpen : Obligations.JortoOpen := by
  unfold Obligations.JortoOpen
  intro z s m k ev hs htakes hk
  subst hs
  have hexec : exec (.jortoOpen m k ev) z = .next ((z.fecIn m.port m.frame).jortoOpen m k ev) :=
    onJorto_of_taken htakes (fun s => s.jortoOpen m k ev)
  refine ⟨fun herase hroom => ⟨fun hcred => ⟨_, hexec.trans (congrArg Host.Outcome.next (State.jortoOpen_of_verified ev herase hroom hcred)), rfl, rfl,
    ?_, ?_⟩, fun hcred => hexec.trans (congrArg Host.Outcome.next (State.jortoOpen_of_wrong ev herase hroom hcred))⟩,
    fun h => hexec.trans (congrArg Host.Outcome.next (State.jortoOpen_of_full ev hk h))⟩
  · refine State.credentialOk_of_old (Nat.le_of_eq ?_)
    exact ((State.jortoCtr_of_security rfl k).trans (State.jortoCtr_setCtr _ k _)).symm
  · exact State.setCtr_mem ..

end Sys2Proof.Machine
end

section
/-! PROOFS. Jorto's messages in order, and what doorbells do (R323 to R326, R349, Table 14.5), with O42. -/

namespace Sys2Proof.Machine

/-! ### Sessions by number -/

theorem State.session_id {s : State} {id : Nat} {ss : Session} (h : s.session id = some ss) : ss.id = id := by
  have hfound := List.find?_some h
  exact eq_of_beq hfound

theorem State.session_of_sessions {s t : State} (h : t.sessions = s.sessions) (id : Nat) : t.session id = s.session id := by
  simp only [State.session, h]

/-- The first of the sessions of a number, each of them replaced. -/
theorem find_map_replaced (l : List Session) (v : Session) {ss : Session} (h : l.find? (fun x => x.id == v.id) = some ss) :
    (l.map (fun t => if t.id = v.id then v else t)).find? (fun x => x.id == v.id) = some v := by
  induction l with
  | nil => cases h
  | cons x l ih =>
    rw [List.map_cons]
    by_cases hx : x.id = v.id
    · rw [if_pos hx, List.find?_cons_of_pos (by simp)]
    · rw [if_neg hx, List.find?_cons_of_neg (by simpa using hx)]
      rw [List.find?_cons_of_neg (by simpa using hx)] at h
      exact ih h

theorem State.session_setSession {s : State} {ss v : Session} (h : s.session v.id = some ss) : (s.setSession v).session v.id = some v :=
  find_map_replaced _ _ h

theorem State.setSession_setSession (s : State) {v w : Session} (h : v.id = w.id) : (s.setSession v).setSession w = s.setSession w := by
  have hmap : (s.setSession v).sessions.map (fun t => if t.id = w.id then w else t) = s.sessions.map (fun t => if t.id = w.id then w else t) := by
    simp only [State.setSession, List.map_map]
    refine List.map_congr_left fun t _ => ?_
    by_cases ht : t.id = w.id
    · simp [h, ht]
    · simp [h, ht]
  rw [State.setSession, hmap]
  rfl

/-! ### The end of a session (R323, R327) -/

/-- The change that closing sessions makes: sessions, events, what leaves on the links, and counters. -/
def HostChange (s t : State) : Prop := t = { s with sessions := t.sessions, events := t.events, net := t.net, tots := t.tots }

theorem HostChange.refl (s : State) : HostChange s s := rfl

theorem HostChange.trans {s t u : State} (ht : HostChange s t) (hu : HostChange t u) : HostChange s u := by
  rw [HostChange] at ht hu ⊢
  rw [hu, ht]

theorem TotChange.hostChange {s t : State} (h : TotChange s t) : HostChange s t := by
  rw [TotChange] at h
  rw [h]
  rfl

theorem State.bump_sessions (s : State) (i j n : Nat) : (s.bump i j n).sessions = s.sessions := by
  have h := s.bump_totChange i j n
  rw [TotChange] at h
  rw [h]

theorem State.closeSession_hostChange (s : State) (id : Nat) (send : Bool) : HostChange s (s.closeSession id send) := by
  unfold State.closeSession
  split
  · exact .refl _
  · refine HostChange.trans ?_ (State.bump_totChange _ _ _ _).hostChange
    cases send <;> rfl

theorem State.closeSession_sessions (s : State) (id : Nat) (send : Bool) :
    (s.closeSession id send).sessions = s.sessions.filter (fun t => t.id ≠ id) := by
  unfold State.closeSession
  split
  next h =>
    have hno := List.find?_eq_none.1 h
    exact (List.filter_eq_self.2 fun t ht => by simpa using hno t ht).symm
  · refine (State.bump_sessions _ _ _ _).trans ?_
    cases send <;> rfl

theorem State.session_closeSession (s : State) (id : Nat) (send : Bool) : (s.closeSession id send).session id = none := by
  rw [State.session, s.closeSession_sessions]
  exact List.find?_eq_none.2 fun t ht => by simpa using (List.mem_filter.1 ht).2

/-! ### A message that arrives (R323) -/

/-- The room that an ACK could make is none where nothing is unacknowledged and nothing waits. -/
theorem State.takeAck_of_none {s : State} {ss : Session} (h : s.session ss.id = some ss) (hunacked : ss.unacked = []) (hearly : ss.early = []) (n : Nat) :
    s.takeAck ss.id n = s := by
  have hacked : s.acked ss.id n = s := by simp [State.acked, h, hunacked]
  rw [State.takeAck, hacked]
  simp [State.drain, h, hearly]

/-- The session where the message's place has been found. -/
structure Session.Idle (s : State) (ss : Session) : Prop where
  session : s.session ss.id = some ss
  early : ss.early = []
  unacked : ss.unacked = []
  waitingTx : ss.waitingTx = []
  rxNext : ss.rxNext < 2 ^ 32

/-- A message of the session, from the session's own peer. -/
structure JortoMsg.From (m : JortoMsg) (ss : Session) : Prop where
  number : m.session = ss.id
  port : ss.port = m.port
  ip : ss.ip = m.ip
  udp : ss.udp = m.udp

/-- A message that arrives on a session with nothing held: a duplicate, one far ahead, or one that is held for its turn. -/
theorem State.sequenced_of_idle {s : State} {ss : Session} {m : JortoMsg} (h : Session.Idle s ss) (hm : JortoMsg.From m ss) (k : Early) :
    s.sequenced k m =
      if 2 ^ 31 ≤ (m.seq + 2 ^ 32 - ss.rxNext) % 2 ^ 32 then (s.bump (0x3320 + netNo m.port) 3 1).jAck ss.id
      else if 256 ≤ (m.seq + 2 ^ 32 - ss.rxNext) % 2 ^ 32 then (s.frameDiscard m.port).jAck ss.id
      else ((s.setSession { ss with early := [(m.seq, k, m)] }).drain ss.id 256).jAck ss.id := by
  obtain ⟨hsession, hearly, hunacked, -, -⟩ := h
  obtain ⟨hnumber, hport, hip, hudp⟩ := hm
  simp only [State.sequenced, hnumber, hsession, State.takeAck_of_none hsession hunacked hearly, hearly, hport, hip, hudp]
  simp

/-! ### The message whose turn it is (R323, R343) -/

/-- The session once the next message is taken. -/
def Session.next (ss : Session) : Session := { ss with rxNext := (ss.rxNext + 1) % 2 ^ 32 }

/-- What a message of each kind does. -/
def State.jEffect (s : State) (ss : Session) (k : Early) (m : JortoMsg) : State :=
  match k with
  | .close => (s.jAck ss.id).closeSession ss.id false
  | .write => s.jWrite ss m
  | .readReq => s.jRead ss m
  | .doorbell => s.jDoorbell ss m

theorem State.applyMsg_effect {s : State} {ss : Session} (hearly : ss.early = []) (k : Early) (m : JortoMsg) :
    (s.setSession { ss with early := [(m.seq, k, m)] }).applyMsg { ss with early := [(m.seq, k, m)] } (m.seq, k, m) =
      (s.setSession ss.next).jEffect ss.next k m := by
  have hnext : ({ ss with rxNext := (ss.rxNext + 1) % 2 ^ 32, early := [(m.seq, k, m)].filter (fun x => x.1 ≠ m.seq) } : Session) = ss.next := by
    simp [Session.next, hearly]
  have htwice : (s.setSession { ss with early := [(m.seq, k, m)] }).setSession ss.next = s.setSession ss.next := State.setSession_setSession _ rfl
  unfold State.applyMsg State.jEffect
  dsimp only
  rw [hnext, htwice]
  cases k <;> rfl

/-- A session with nothing held takes nothing more. -/
theorem State.drain_of_idle {s : State} {id : Nat} (h : ∀ ss, s.session id = some ss → ss.early = []) (n : Nat) : s.drain id n = s := by
  cases n with
  | zero => rfl
  | succ n =>
    rw [State.drain]
    cases hs : s.session id with
    | none => rfl
    | some ss => simp [h ss hs]

/-- One step of applying what has come, where the next message is there. -/
theorem State.drain_of_due {s : State} {ss : Session} {id : Nat} {e : Nat × Early × JortoMsg} (h : s.session id = some ss)
    (hdue : ss.early.find? (fun e => e.1 == ss.rxNext) = some e) (n : Nat) :
    s.drain id (n + 1) = if s.heldBack e then s.holdSession ss (n + 1) else if (s.applyMsg ss e).rspWaits id then s else (s.applyMsg ss e).drain id n := by
  rw [State.drain, h]
  dsimp only
  rw [hdue]

/-- The next message takes effect once, and nothing after it, where nothing more is held or waits. -/
theorem State.sequenced_of_next {s : State} {ss : Session} {m : JortoMsg} (h : Session.Idle s ss) (hm : JortoMsg.From m ss) (hseq : m.seq = ss.rxNext)
    {k : Early} (hheld : (s.multiHolds && k = .write && isRegister s.part (localAddr m)) = false)
    (hdone : ∀ v, ((s.setSession ss.next).jEffect ss.next k m).session ss.id = some v → v.early = [] ∧ v.waitingTx = []) :
    s.sequenced k m = ((s.setSession ss.next).jEffect ss.next k m).jAck ss.id := by
  have hlt := h.rxNext
  have hd : (m.seq + 2 ^ 32 - ss.rxNext) % 2 ^ 32 = 0 := by omega
  rw [State.sequenced_of_idle h hm, hd, if_neg (by decide), if_neg (by decide)]
  congr 1
  have hsession : (s.setSession { ss with early := [(m.seq, k, m)] }).session ss.id = some { ss with early := [(m.seq, k, m)] } :=
    State.session_setSession (v := { ss with early := [(m.seq, k, m)] }) h.session
  have hnot : (s.setSession { ss with early := [(m.seq, k, m)] }).heldBack (m.seq, k, m) = false := hheld
  have hwait : ((s.setSession ss.next).jEffect ss.next k m).rspWaits ss.id = false := by
    unfold State.rspWaits
    split
    · rfl
    next v hv => simp [(hdone v hv).2]
  rw [State.drain_of_due hsession (List.find?_cons_of_pos (by simp [hseq])) 255, hnot, if_neg Bool.false_ne_true, State.applyMsg_effect h.early, hwait,
    if_neg Bool.false_ne_true]
  exact State.drain_of_idle (fun v hv => (hdone v hv).1) _

/-- A memory access or a doorbell that leaves the sessions leaves nothing held or waiting on its own. -/
theorem Session.next_session {s t : State} {ss : Session} (h : Session.Idle s ss) (ht : t.sessions = (s.setSession ss.next).sessions) :
    t.session ss.id = some ss.next := by
  rw [State.session_of_sessions ht]
  exact State.session_setSession (v := ss.next) h.session

/-- A message on a session with nothing unacknowledged is sent at once. -/
theorem State.jsend_session {s : State} {ss : Session} (h : s.session ss.id = some ss) (hunacked : ss.unacked = []) (j : JMsg) :
    ∃ v, (s.jsend ss.id j).session ss.id = some v ∧ v.early = ss.early ∧ v.waitingTx = ss.waitingTx := by
  have hpush : ss.push j = ({ ss with txNext := (ss.txNext + 1) % 2 ^ 32, unacked := [{ j with seq := ss.txNext % 2 ^ 32 }] },
      some { j with seq := ss.txNext % 2 ^ 32 }) := by
    simp [Session.push, hunacked]
  refine ⟨{ ss with txNext := (ss.txNext + 1) % 2 ^ 32, unacked := [{ j with seq := ss.txNext % 2 ^ 32 }] }, ?_, rfl, rfl⟩
  unfold State.jsend
  rw [h]
  dsimp only
  rw [hpush]
  exact State.session_setSession (v := { ss with txNext := (ss.txNext + 1) % 2 ^ 32, unacked := [{ j with seq := ss.txNext % 2 ^ 32 }] }) h

/-! ### Effects of memory messages and doorbells (R324 to R326) -/

theorem State.jWrite_of_done {s : State} {ss : Session} {m : JortoMsg} (hon : s.vigil = false) (hmem : isRegister s.part (localAddr m) = false)
    (hlen : m.len = m.data.length) (hpos : 0 < m.len) (hmax : m.len ≤ 8192) (hok : (s.outsideWrite .host ss.key (localAddr m) m.data).2 = .ok) :
    s.jWrite ss m = (s.outsideWrite .host ss.key (localAddr m) m.data).1 := by
  have hbad : (Decidable.decide (m.len ≠ m.data.length) || Decidable.decide (m.data.length = 0) || Decidable.decide (8192 < m.data.length)) = false := by
    simp only [Bool.or_eq_false_iff, decide_eq_false_iff_not]
    omega
  unfold State.jWrite
  dsimp only
  rw [hon, if_neg Bool.false_ne_true, hbad, if_neg Bool.false_ne_true, hmem, if_neg Bool.false_ne_true, hok]
  rfl

theorem State.jRead_of_done {s : State} {ss : Session} {m : JortoMsg} (hon : s.vigil = false) (hmem : isRegister s.part (localAddr m) = false)
    (hdata : m.data = []) (hpos : 0 < m.len) (hmax : m.len ≤ 8192) (hok : (s.outsideRead .host ss.key (localAddr m) m.len).2.1 = .ok) :
    s.jRead ss m = (s.outsideRead .host ss.key (localAddr m) m.len).1.jData ss.id m (s.outsideRead .host ss.key (localAddr m) m.len).2.2 := by
  have hbad : (Decidable.decide (m.data ≠ []) || Decidable.decide (m.len = 0) || Decidable.decide (8192 < m.len)) = false := by
    simp [hdata, Nat.ne_of_gt hpos, hmax]
  unfold State.jRead
  dsimp only
  rw [hon, Bool.false_and, if_neg Bool.false_ne_true, hbad, if_neg Bool.false_ne_true, hmem, if_neg Bool.false_ne_true, if_pos hok]

theorem State.jDoorbell_of_step {s : State} {ss : Session} {m : JortoMsg} (hon : s.vigil = false) (hkind : m.addr / 2 ^ 56 % 256 = 1) (hdata : m.data = [])
    (hlen : m.len = 0) (hkey : s.enabledSlots.all (fun k => s.slotKey k == ss.key) = true) :
    s.jDoorbell ss m = s.stepDoorbell (m.addr % 2 ^ 32) := by
  unfold State.jDoorbell
  dsimp only
  rw [hon, hkind, if_neg Bool.false_ne_true, if_pos (by simp [hdata, hlen]), if_pos hkey]

theorem State.jDoorbell_of_word {s : State} {ss : Session} {m : JortoMsg} (hon : s.vigil = false) (hkind : m.addr / 2 ^ 56 % 256 = 2) (hlen : m.len = 8)
    (hdata : m.data.length = 8) (halign : localAddr m % 8 = 0) (hok : (s.wordDoorbell ss.key (localAddr m) (leNat m.data)).2 = 0) :
    s.jDoorbell ss m = (s.wordDoorbell ss.key (localAddr m) (leNat m.data)).1 := by
  unfold State.jDoorbell
  dsimp only
  rw [hon, hkind, if_neg Bool.false_ne_true, if_neg (by simp), if_pos (by simp [hlen, hdata, halign]), hok]
  rfl

/-! ### A write held by a MULTI_WRITE (R343, R350) -/

theorem takeWhile_range_one {p : Nat → Bool} (n : Nat) (h0 : p 0 = true) (h1 : p 1 = false) : (List.range (n + 2)).takeWhile p = [0] := by
  rw [List.range_succ_eq_map, List.range_succ_eq_map, List.map_cons, List.takeWhile_cons_of_pos h0, List.takeWhile_cons_of_neg (by simp [h1])]

/-- With one message held in its turn, one is due. -/
theorem Session.due_of_one {ss : Session} (hrx : ss.rxNext < 2 ^ 32) (k : Early) (m : JortoMsg) (hseq : m.seq = ss.rxNext) :
    Session.due { ss with early := [(m.seq, k, m)] } = 1 := by
  have htake : (List.range 256).takeWhile (fun i => [(m.seq, k, m)].any (fun e => e.1 == (ss.rxNext + i) % 2 ^ 32)) = [0] := by
    refine takeWhile_range_one 254 ?_ ?_
    · have h0 : ss.rxNext = (ss.rxNext + 0) % 2 ^ 32 := (Nat.mod_eq_of_lt hrx).symm
      simp only [List.any_cons, List.any_nil, Bool.or_false, beq_iff_eq]
      exact hseq.trans h0
    · simp only [List.any_cons, List.any_nil, Bool.or_false, beq_eq_false_iff_ne]
      omega
  rw [Session.due]
  exact congrArg List.length htake

theorem State.sequenced_of_held {s : State} {ss : Session} {m : JortoMsg} (h : Session.Idle s ss) (hm : JortoMsg.From m ss) (hseq : m.seq = ss.rxNext)
    (hmulti : s.multiHolds = true) (hreg : isRegister s.part (localAddr m) = true) (hnew : ∀ n, .session ss.id n ∉ s.heldWrites) :
    s.sequenced .write m = State.jAck { s.setSession { ss with early := [(m.seq, .write, m)] } with
      heldWrites := s.heldWrites ++ [Held.session ss.id ((ss.rxNext + 1) % 2 ^ 32)] } ss.id := by
  have hlt := h.rxNext
  have hd : (m.seq + 2 ^ 32 - ss.rxNext) % 2 ^ 32 = 0 := by omega
  rw [State.sequenced_of_idle h hm, hd, if_neg (by decide), if_neg (by decide)]
  congr 1
  have hsession : (s.setSession { ss with early := [(m.seq, .write, m)] }).session ss.id = some { ss with early := [(m.seq, .write, m)] } :=
    State.session_setSession (v := { ss with early := [(m.seq, .write, m)] }) h.session
  have hheld : (s.setSession { ss with early := [(m.seq, .write, m)] }).heldBack (m.seq, .write, m) = true := by
    unfold State.heldBack
    exact Bool.and_eq_true_iff.2 ⟨Bool.and_eq_true_iff.2 ⟨hmulti, rfl⟩, hreg⟩
  rw [State.drain_of_due hsession (List.find?_cons_of_pos (by simp [hseq])) 255, hheld, if_pos rfl]
  unfold State.holdSession
  rw [Session.due_of_one hlt .write m hseq]
  refine (if_neg ?_).trans ?_
  · rw [List.any_eq_true]
    rintro ⟨w, hw, hsame⟩
    cases w with
    | cmd c => cases hsame
    | session i u =>
      have hi : i = ss.id := by simpa using (Bool.and_eq_true_iff.1 hsame).1
      exact hnew u (hi ▸ hw)
  · rw [← hseq]
    rfl

/-! ### Messages in order -/

theorem jortoMessages : Parts.JortoMessages := by
  unfold Parts.JortoMessages
  intro z s u m ss v hs htakes hvigil hsession hport hip hudp hearly hunacked hwaiting hrx hseqlt hv hu
  subst hs hv hu
  have hnumber : m.session = ss.id := (State.session_id hsession).symm
  have hidle : Session.Idle (z.fecIn m.port m.frame) ss := ⟨hnumber ▸ hsession, hearly, hunacked, hwaiting, hrx⟩
  have hfrom : JortoMsg.From m ss := ⟨hnumber, hport, hip, hudp⟩
  have hmsg (k : Early) : onJorto m z (fun s => s.sequenced k m) = .next ((z.fecIn m.port m.frame).sequenced k m) := onJorto_of_taken htakes _
  refine ⟨fun hseq => ⟨fun r hmem hlen hpos hmax hr hok hkeep => ?_, fun r hmem hdata hpos hmax hr hok hkeep => ?_,
    fun r hkind hdata hlen hkey hr hkeep => ?_, fun r hkind hlen hdata halign hr hok hkeep => ?_, ?_⟩, fun hdup i hi => ?_, fun hpos hlt => ?_,
    fun hseq hmulti hreg hnew w hw => ?_⟩
  · subst hr
    have heff : ((z.fecIn m.port m.frame).setSession ss.next).jEffect ss.next .write m = _ := State.jWrite_of_done hvigil hmem hlen hpos hmax hok
    refine (hmsg .write).trans (congrArg Host.Outcome.next ((State.sequenced_of_next hidle hfrom hseq (by simp [hmem]) fun v hv => ?_).trans ?_))
    · rw [heff] at hv
      have hnext := Session.next_session hidle hkeep
      cases hnext.symm.trans hv
      exact ⟨hearly, hwaiting⟩
    · rw [heff]
      rfl
  · subst hr
    have heff : ((z.fecIn m.port m.frame).setSession ss.next).jEffect ss.next .readReq m = _ := State.jRead_of_done hvigil hmem hdata hpos hmax hok
    refine (hmsg .readReq).trans (congrArg Host.Outcome.next ((State.sequenced_of_next hidle hfrom hseq (by simp) fun v hv => ?_).trans ?_))
    · obtain ⟨w, hw, hwe, hww⟩ := State.jsend_session (ss := ss.next) (Session.next_session hidle hkeep) hunacked
        ⟨6, 0, 0, localAddr m, m.tag, ((((z.fecIn m.port m.frame).setSession ss.next).outsideRead .host ss.key (localAddr m) m.len)).2.2, none⟩
      rw [heff] at hv
      cases hw.symm.trans hv
      exact ⟨hwe.trans hearly, hww.trans hwaiting⟩
    · rw [heff]
      rfl
  · subst hr
    have heff : ((z.fecIn m.port m.frame).setSession ss.next).jEffect ss.next .doorbell m = _ := State.jDoorbell_of_step hvigil hkind hdata hlen hkey
    refine (hmsg .doorbell).trans (congrArg Host.Outcome.next ((State.sequenced_of_next hidle hfrom hseq (by simp) fun v hv => ?_).trans ?_))
    · rw [heff] at hv
      have hnext := Session.next_session hidle hkeep
      cases hnext.symm.trans hv
      exact ⟨hearly, hwaiting⟩
    · rw [heff]
      rfl
  · subst hr
    have heff : ((z.fecIn m.port m.frame).setSession ss.next).jEffect ss.next .doorbell m = _ :=
      State.jDoorbell_of_word hvigil hkind hlen hdata halign hok
    refine (hmsg .doorbell).trans (congrArg Host.Outcome.next ((State.sequenced_of_next hidle hfrom hseq (by simp) fun v hv => ?_).trans ?_))
    · rw [heff] at hv
      have hnext := Session.next_session hidle hkeep
      cases hnext.symm.trans hv
      exact ⟨hearly, hwaiting⟩
    · rw [heff]
      rfl
  · have hgone : (((z.fecIn m.port m.frame).setSession ss.next).jEffect ss.next .close m).session ss.id = none := State.session_closeSession _ _ _
    refine ⟨_, (hmsg .close).trans (congrArg Host.Outcome.next (State.sequenced_of_next hidle hfrom hseq (by simp) fun v hv => ?_)), ?_, ?_⟩
    · rw [hgone] at hv
      cases hv
    · rw [State.jAck, hgone]
      exact hgone
    · exact (State.jAck_mem ..).trans ((State.closeSession_mem ..).trans (State.jAck_mem ..))
  · have hall (k : Early) : onJorto m z (fun s => s.sequenced k m) = .next (((z.fecIn m.port m.frame).bump (0x3320 + netNo m.port) 3 1).jAck ss.id) :=
      (hmsg k).trans (congrArg Host.Outcome.next ((State.sequenced_of_idle hidle hfrom k).trans (if_pos hdup)))
    simp only [List.mem_cons, List.not_mem_nil, or_false] at hi
    rcases hi with rfl | rfl | rfl | rfl | rfl <;> exact hall _
  · refine (hmsg .write).trans (congrArg Host.Outcome.next ((State.sequenced_of_idle hidle hfrom _).trans ?_))
    rw [if_neg (by omega), if_neg (by omega)]
    have hsess : ((z.fecIn m.port m.frame).setSession { ss with early := [(m.seq, .write, m)] }).session ss.id =
        some { ss with early := [(m.seq, .write, m)] } := State.session_setSession (v := { ss with early := [(m.seq, .write, m)] }) hidle.session
    have hnot : m.seq ≠ ss.rxNext := by
      intro h
      rw [h] at hpos
      omega
    rw [State.drain, hsess]
    simp [hnot]
  · subst hw
    exact (hmsg .write).trans (congrArg Host.Outcome.next (State.sequenced_of_held hidle hfrom hseq hmulti hreg hnew))

theorem doorbellEffects : Parts.DoorbellEffects := by
  refine ⟨fun s l hl hrank => ?_, fun s l hrank => if_neg (Nat.not_lt.2 hrank), fun s key a n r w hr hok hw => ?_⟩
  · rw [State.stepDoorbell, if_pos hrank, Nat.mod_eq_of_lt hl]
  · subst hr hw
    rw [State.wordDoorbell]
    exact if_neg (not_not.2 hok)

/-- Settles O42. A message on a session that holds nothing is applied when it is the next, and what it does leaves nothing more to apply. -/
theorem jortoInOrder : Obligations.JortoInOrder := ⟨jortoMessages, doorbellEffects⟩

end Sys2Proof.Machine
end

section
/-! PROOFS. Jorto's acknowledgements and timers, and a port's link and frames (R317 to R320, R323, R327, R328, R332, R333), with O43. -/

namespace Sys2Proof.Machine

/-! ### Sessions of a port -/

theorem State.closeAll_hostChange (send : Bool) (ids : List Nat) (s : State) : HostChange s (ids.foldl (fun s id => s.closeSession id send) s) :=
  foldl_holds (fun t => HostChange s t) _ (fun _ id ht => ht.trans (State.closeSession_hostChange _ id send)) ids s (.refl s)

theorem State.closeAll_sessions (send : Bool) (ids : List Nat) (s : State) :
    (ids.foldl (fun s id => s.closeSession id send) s).sessions = s.sessions.filter (fun t => t.id ∉ ids) := by
  induction ids generalizing s with
  | nil => simp
  | cons id ids ih =>
    rw [List.foldl_cons, ih, State.closeSession_sessions, List.filter_filter]
    refine List.filter_congr fun t _ => ?_
    simp [Bool.and_comm]

theorem State.closeSessions_hostChange (s : State) (which : Session → Bool) (send : Bool) : HostChange s (s.closeSessions which send) :=
  State.closeAll_hostChange send _ s

/-- None of the sessions that the test picks is left. -/
theorem State.closeSessions_none (s : State) (which : Session → Bool) (send : Bool) : ∀ z ∈ (s.closeSessions which send).sessions, which z = false := by
  intro z hz
  rw [State.closeSessions, State.closeAll_sessions] at hz
  obtain ⟨hin, hid⟩ := List.mem_filter.1 hz
  by_contra hw
  have hpicked : z.id ∈ (s.sessions.filter which).map (fun ss => ss.id) := List.mem_map_of_mem (List.mem_filter.2 ⟨hin, by simpa using hw⟩)
  exact absurd hpicked (by simpa using hid)

theorem HostChange.keeps {s t : State} (h : HostChange s t) : t.links = s.links ∧ t.mem = s.mem ∧ t.objs = s.objs ∧ t.part = s.part := by
  rw [HostChange] at h
  rw [h]
  exact ⟨rfl, rfl, rfl, rfl⟩

/-! ### A port's link (R317, R320, R328) -/

theorem State.link_setLink (s : State) (p : NetPort) (l : LinkState) : (s.setLink p l).link p = l := Table.read_write_same _ _ _ _

/-- The link goes down with every session of the port. -/
theorem State.linkOff_spec (s : State) (p : NetPort) (l : LinkState) :
    (s.linkOff p l).link p = l ∧ (∀ z ∈ (s.linkOff p l).sessions, z.port ≠ p) ∧ (s.linkOff p l).mem = s.mem ∧ (s.linkOff p l).objs = s.objs ∧
    (s.linkOff p l).part = s.part := by
  obtain ⟨-, hmem, hobjs, hpart⟩ := (s.closeSessions_hostChange (fun ss => ss.port == p) false).keeps
  exact ⟨State.link_setLink _ _ _, fun z hz => by simpa using s.closeSessions_none (fun ss => ss.port == p) false z hz, hmem, hobjs, hpart⟩

theorem State.portEn_of_objs {s t : State} (hobjs : t.objs = s.objs) (hpart : t.part = s.part) (p : NetPort) : t.portEn p = s.portEn p := by
  have hobj : t.obj (0x1100 + netNo p) 1 = s.obj (0x1100 + netNo p) 1 := by simp only [State.obj, hobjs, hpart]
  rw [State.portEn, State.portEn, hobj]

theorem State.portEn_setObj (s : State) (p : NetPort) (en : Bool) : (s.setObj (0x1100 + netNo p) 1 (bit01 en)).portEn p = en := by
  rw [State.portEn, obj_setObj]
  cases en <;> rfl

theorem State.portRate_setObj (s : State) (p : NetPort) (v : Nat) : (s.setObj (0x1100 + netNo p) 1 v).portRate p = s.portRate p :=
  obj_setObj_ne _ _ (by simp [okey])

theorem State.writePortEn_off {s : State} {p : NetPort} (h : s.portEn p = true) :
    s.writePortEn p false = (s.setObj (0x1100 + netNo p) 1 (bit01 false)).linkOff p .disabled := by
  simp [State.writePortEn, h]

theorem State.writePortEn_on {s : State} {p : NetPort} (h : s.portEn p = false) (hrate : s.portRate p ≠ 3) :
    s.writePortEn p true = (s.setObj (0x1100 + netNo p) 1 (bit01 true)).setLink p .down := by
  have hstate : (s.setObj (0x1100 + netNo p) 1 (bit01 true)).portUpState p false = .down := by
    simp [State.portUpState, State.portEn_setObj, State.portRate_setObj, hrate]
  rw [State.writePortEn, h]
  rw [if_neg (by decide), if_pos rfl, hstate]

/-! ### Acknowledgements and timers (R323) -/

/-- With nothing waiting, the room that an ACK makes sends nothing. -/
theorem State.sendWaiting_session {s : State} {ss : Session} (h : s.session ss.id = some ss) (hwait : ss.waitingTx = []) :
    (s.sendWaiting ss.id).session ss.id = some ss := by
  have hsame : ({ ss with unacked := ss.unacked ++ ([] : List JMsg).take (256 - ss.unacked.length), waitingTx := ([] : List JMsg).drop (256 - ss.unacked.length) } : Session) = ss := by
    cases ss
    cases hwait
    simp
  unfold State.sendWaiting
  rw [h]
  dsimp only
  rw [hwait, hsame, List.take_nil, List.foldl_nil]
  exact State.session_setSession h

/-- The session after an ACK that covers a message of it. -/
def Session.ackedTo (ss : Session) (n rto : Nat) : Session :=
  { ss with unacked := ss.unacked.filter (fun z => !ackCovers n z.seq), resends := 0, rtoUs := rto }

theorem State.acked_of_covered {s : State} {ss : Session} (h : s.session ss.id = some ss) (hwait : ss.waitingTx = []) {n : Nat}
    (hcover : ∃ z ∈ ss.unacked, ackCovers n z.seq = true) : (s.acked ss.id n).session ss.id = some (ss.ackedTo n (s.obj 0x1120 1)) := by
  have hgone : ss.unacked.filter (fun m => ackCovers n m.seq) ≠ [] := by
    obtain ⟨z, hz, hc⟩ := hcover
    exact List.ne_nil_of_mem (List.mem_filter.2 ⟨hz, hc⟩)
  unfold State.acked
  rw [h]
  dsimp only
  rw [if_neg hgone]
  exact State.sendWaiting_session (ss := ss.ackedTo n (s.obj 0x1120 1)) (State.session_setSession (v := ss.ackedTo n (s.obj 0x1120 1)) h) hwait

/-- An ACK on a session that holds nothing that is due. -/
theorem State.jortoAck_of_covered {s : State} {ss : Session} {a : JortoMsg} (h : s.session ss.id = some ss) (ha : JortoMsg.From a ss)
    (hwait : ss.waitingTx = []) (hearly : ∀ y ∈ ss.early, y.1 ≠ ss.rxNext) (hcover : ∃ z ∈ ss.unacked, ackCovers a.ack z.seq = true) :
    s.jortoAck a = s.acked ss.id a.ack := by
  obtain ⟨hnumber, hport, hip, hudp⟩ := ha
  have hafter := State.acked_of_covered h hwait hcover
  have hdue : (ss.ackedTo a.ack (s.obj 0x1120 1)).early.any (fun e => e.1 == (ss.ackedTo a.ack (s.obj 0x1120 1)).rxNext) = false := by
    simpa [Session.ackedTo] using hearly
  have hdrain : (s.acked ss.id a.ack).drainAck ss.id = s.acked ss.id a.ack := by
    rw [State.drainAck, hafter]
    exact if_neg (ne_true_of_eq_false hdue)
  simp [State.jortoAck, hnumber, h, hport, hip, hudp, hdrain]

/-- What corrected codewords change is the wear ledger. -/
theorem State.fecIn_keeps (s : State) (p : NetPort) (f : EthFrame) :
    (s.fecIn p f).sessions = s.sessions ∧ (s.fecIn p f).mem = s.mem ∧ (s.fecIn p f).obj = s.obj ∧ ∀ m, (s.fecIn p f).jortoTakes m = s.jortoTakes m := by
  unfold State.fecIn
  split <;> exact ⟨rfl, rfl, rfl, fun _ => rfl⟩

theorem sessionTimers : Parts.SessionTimers := by
  unfold Parts.SessionTimers
  intro s ss m rest hsession hunacked
  have hrto (h : ¬ 16 ≤ ss.resends) : s.rto ss.id = ((s.setSession { ss with resends := ss.resends + 1, rtoUs := min 100000 (2 * ss.rtoUs) }).bump
      (0x3320 + netNo ss.port) 2 1).emit (.jorto ss.port ss.ip ss.udp ss.id ss.rxNext m) := by
    simp [State.rto, hsession, hunacked, h]
  have hgone (send : Bool) (j : Nat) : ((s.closeSession ss.id send).bump (0x3320 + netNo ss.port) j 1).session ss.id = none :=
    (State.session_of_sessions (State.bump_sessions _ _ _ _) _).trans (State.session_closeSession _ _ _)
  have hmem (send : Bool) (j : Nat) : ((s.closeSession ss.id send).bump (0x3320 + netNo ss.port) j 1).mem = s.mem :=
    (State.bump_mem ..).trans (State.closeSession_mem ..)
  refine ⟨fun hlt => congrArg Host.Outcome.next (hrto (Nat.not_le.2 hlt)), fun hle => ⟨_, rfl, ?_, ?_⟩, fun a htakes hnumber hport hip hudp hwait hearly hcover => ?_,
    ⟨_, rfl, ?_, ?_⟩, fun hup => ?_, fun p hdown => congrArg Host.Outcome.next (if_pos hdown), fun hmgt hmulti hwin hen => ?_,
    fun p hmgt hmulti hwin hen hrate => ?_⟩
  · have hclose : s.rto ss.id = (s.closeSession ss.id true).bump (0x3320 + netNo ss.port) 4 1 := by simp [State.rto, hsession, hunacked, hle]
    rw [hclose]
    exact hgone true 4
  · exact State.rto_mem ..
  · obtain ⟨hsess, hm, hobj, htake⟩ := s.fecIn_keeps a.port a.frame
    have hs' : (s.fecIn a.port a.frame).session ss.id = some ss := (State.session_of_sessions hsess _).trans hsession
    have hack := State.jortoAck_of_covered hs' ⟨hnumber, hport.symm, hip.symm, hudp.symm⟩ hwait hearly hcover
    refine ⟨_, (onJorto_of_taken ((htake a).trans htakes) (fun s => s.jortoAck a)).trans (congrArg Host.Outcome.next hack), ?_, ?_⟩
    · exact (State.acked_mem ..).trans hm
    · rw [State.acked_of_covered hs' hwait hcover, hobj]
      rfl
  · have hclose : s.idleClose ss.id = (s.closeSession ss.id true).bump (0x3320 + netNo ss.port) 4 1 := by simp [State.idleClose, hsession]
    rw [hclose]
    exact hgone true 4
  · exact State.idleClose_mem ..
  · obtain ⟨hlink, hports, hm, -⟩ := s.linkOff_spec ss.port .down
    exact ⟨_, congrArg Host.Outcome.next (if_pos hup), hlink, hports, hm⟩
  · have hexec : exec (.portEnWrite ss.port false) s = .next ((s.pkgTouch.blkTouch (blkHport ss.port)).writePortEn ss.port false) :=
      (if_neg hmgt).trans (congrArg Host.Outcome.next ((State.unlessMulti_of_free hmulti _ _).trans (if_pos hwin)))
    obtain ⟨hlink, hports, -, hobjs, hpart⟩ :=
      ((s.pkgTouch.blkTouch (blkHport ss.port)).setObj (0x1100 + netNo ss.port) 1 (bit01 false)).linkOff_spec ss.port .disabled
    exact ⟨_, hexec.trans (congrArg Host.Outcome.next (State.writePortEn_off (s := s.pkgTouch.blkTouch (blkHport ss.port)) hen)), hlink, hports,
      (State.portEn_of_objs hobjs hpart _).trans (State.portEn_setObj _ _ _)⟩
  · have hexec : exec (.portEnWrite p true) s = .next ((s.pkgTouch.blkTouch (blkHport p)).writePortEn p true) :=
      (if_neg hmgt).trans (congrArg Host.Outcome.next ((State.unlessMulti_of_free hmulti _ _).trans (if_pos hwin)))
    exact ⟨_, hexec.trans (congrArg Host.Outcome.next (State.writePortEn_on (s := s.pkgTouch.blkTouch (blkHport p)) hen hrate)),
      State.link_setLink _ _ _, State.portEn_setObj (s.pkgTouch.blkTouch (blkHport p)) p true, rfl⟩

/-! ### Frames below Jorto (R318, R319, R332, R333) -/

/-- A frame on a host port at work is taken, or discarded and counted. -/
theorem onFrame_of_taken {z : State} {q : PortFrame} (hon : (z.fecIn q.port q.frame).jortoOn q.port = true) {takes : State → Bool}
    (h : takes (z.fecIn q.port q.frame) = true) (f : State → State) : onFrame q takes f z = .next (f (z.fecIn q.port q.frame)) := by
  simp [onFrame, hon, h]

theorem onFrame_of_refused {z : State} {q : PortFrame} (hon : (z.fecIn q.port q.frame).jortoOn q.port = true) {takes : State → Bool}
    (h : takes (z.fecIn q.port q.frame) = false) (f : State → State) :
    onFrame q takes f z = .next ((z.fecIn q.port q.frame).frameDiscard q.port) := by
  simp [onFrame, hon, h]

theorem State.answers_of_own {s : State} {p : NetPort} {v6 : Bool} {a : Nat} {f : EthFrame} (ha : a = s.ownIp p v6 ∧ a ≠ 0) (hok : s.frameOk p v6 f = true) :
    s.answers p v6 a f = true := by
  simp [State.answers, hok, ha.2, ← ha.1]

theorem State.answers_of_other {s : State} {p : NetPort} {v6 : Bool} {a : Nat} {f : EthFrame}
    (h : a ≠ s.ownIp p v6 ∨ a = 0 ∨ s.frameOk p v6 f = false) : s.answers p v6 a f = false := by
  rcases h with h | h | h <;> simp [State.answers, h]

/-- The filter refuses each kind of frame that R318 names. -/
theorem State.frameOk_of_bad (s : State) (p : NetPort) (v6 : Bool) (f : EthFrame)
    (h : 9022 < f.length ∨ f.fcsOk = false ∨ f.fragment = true ∨ f.tag = some 0 ∨ (∃ v, f.tag = some v ∧ v ≠ s.obj (0x1100 + netNo p) 5) ∨
      (∃ mac, f.dst = some mac ∧ s.ownMac p mac = false) ∨ f.checksum = some false ∨ (v6 = true ∧ f.checksum = none)) : s.frameOk p v6 f = false := by
  rcases h with h | h | h | h | ⟨v, h, hv⟩ | ⟨mac, h, hmac⟩ | h | ⟨h6, h⟩
  · simp [State.frameOk, Nat.not_le.2 h]
  · simp [State.frameOk, h]
  · simp [State.frameOk, h]
  · simp [State.frameOk, h]
  · simp [State.frameOk, h, hv]
  · simp [State.frameOk, h, hmac]
  · simp [State.frameOk, h]
  · simp [State.frameOk, h, h6]

/-- A datagram that the filter accepts, for Jorto or Dorub. -/
def State.forService (s : State) (p : NetPort) (f : EthFrame) : Bool :=
  s.frameOk p f.ip6 f && s.toOwn p f.ip6 f && (f.udp = some 49710 || f.udp = some 49711)

theorem portFrames : Parts.PortFrames := by
  refine ⟨fun z s p f hs hon => ?_, State.frameOk_of_bad, fun s h => congrArg Host.Outcome.next (if_pos ?_), fun s h => congrArg Host.Outcome.next (if_pos (by simpa using h))⟩
  · subst hs
    have hyes (v6 : Bool) (a : Nat) (g : State → State) (ha : a = (z.fecIn p f).ownIp p v6 ∧ a ≠ 0) (hok : (z.fecIn p f).frameOk p v6 f = true) :=
      onFrame_of_taken (q := ⟨p, f⟩) (takes := fun s => s.answers p v6 a f) hon (State.answers_of_own ha hok) g
    have hno (v6 : Bool) (a : Nat) (g : State → State) (h : a ≠ (z.fecIn p f).ownIp p v6 ∨ a = 0 ∨ (z.fecIn p f).frameOk p v6 f = false) :=
      onFrame_of_refused (q := ⟨p, f⟩) (takes := fun s => s.answers p v6 a f) hon (State.answers_of_other h) g
    refine ⟨fun a => ⟨hyes false a (fun s => s.emit (.arp p a (s.macAddr (netNo p)))), hno false a (fun s => s.emit (.arp p a (s.macAddr (netNo p))))⟩,
      fun a => ⟨hyes true a (fun s => s.emit (.neighbor p a (s.macAddr (netNo p)))), hno true a (fun s => s.emit (.neighbor p a (s.macAddr (netNo p))))⟩,
      fun a v6 data o ho => ?_, fun hok hown hudp => ?_, fun h => ?_⟩
    · subst ho
      exact ⟨hyes v6 a (fun s => s.emit (.echo p a v6 data)), hno v6 a (fun s => s.emit (.echo p a v6 data))⟩
    · exact onFrame_of_taken (q := ⟨p, f⟩) (takes := fun s => s.forService p f) hon (by simp [State.forService, hok, hown, hudp]) id
    · refine onFrame_of_refused (q := ⟨p, f⟩) (takes := fun s => s.forService p f) hon ?_ id
      rcases h with h | h | ⟨h1, h2⟩
      · simp [State.forService, h]
      · simp [State.forService, h]
      · simp [State.forService, h1, h2]
  · rcases h with h | h <;> simp [State.vigil, h]

/-- Settles O43. Every session of a port is among those that the loss of its link closes, and no other state moves with them. -/
theorem portsAndTimers : Obligations.PortsAndTimers := ⟨sessionTimers, portFrames⟩

end Sys2Proof.Machine
end

section
/-! PROOFS. The services of Dorub (R339 to R344), with O45. -/

namespace Sys2Proof.Machine

/-! ### Requests that are served (R331) -/

/-- Corrected codewords leave what Dorub looks at. -/
theorem State.fecIn_dorub (s : State) (p : NetPort) (f : EthFrame) (r : Requester) (tid i : Nat) :
    (s.fecIn p f).dorubOn r = s.dorubOn r ∧ (s.fecIn p f).multi = s.multi ∧ (s.fecIn p f).serves i = s.serves i ∧
    (s.repeated r tid = none → (s.fecIn p f).repeated r tid = none) := by
  unfold State.fecIn
  split
  · exact ⟨rfl, rfl, rfl, id⟩
  · refine ⟨rfl, rfl, rfl, fun h => ?_⟩
    unfold State.repeated at h ⊢
    simp only [State.modLedger_kept]
    split at h
    · cases h
    · split at h
      · cases h
      next hk he => exact if_neg he

theorem exec_of_new {s : State} {c : Instr} {r : Requester} {tid : Nat} (hexec : exec c s = .next (s.request c)) (hc : requestOf c = some (r, tid))
    (hon : s.dorubOn r = true) (hmulti : s.multi = none) (hnew : s.repeated r tid = none) : exec c s = .next (s.serve c) :=
  hexec.trans (congrArg Host.Outcome.next (State.request_of_new hc hon hmulti hnew))

/-! ### READ and WRITE (R341, R342) -/

theorem State.dorubRead_of_fits {s : State} {r : Requester} {tid i sub : Nat} (hserves : s.serves i = true)
    (hfits : (s.readObj r i sub).2.2.length ≤ pduMax r.port) :
    s.dorubRead r tid i sub = (s.readObj r i sub).1.reply
      { rsp r tid 1 i sub with status := (s.readObj r i sub).2.1.code, data := (s.readObj r i sub).2.2 } := by
  unfold State.dorubRead State.readSize
  dsimp only
  rw [hserves, if_neg (by simp), if_neg (Nat.not_lt.2 hfits)]

/-- The answer of a write that has taken effect, and one that waits for a core. -/
theorem State.writeAnswered_of_done {s : State} {r : Requester} {a : DorubRsp} {i sub : Nat} {bs : List Byte} {d : Dst} (hserves : s.serves i = true)
    (hd : (s.writeObj r i sub bs (some a)).2 = some d) :
    ((s.writeObj r i sub bs (some a)).1.awaits i sub = none →
      s.writeAnswered r a i sub bs = (s.writeObj r i sub bs (some a)).1.reply { a with status := d.code }) ∧
    (∀ n, (s.writeObj r i sub bs (some a)).1.awaits i sub = some n → s.writeAnswered r a i sub bs =
      { (s.writeObj r i sub bs (some a)).1 with multi := some ⟨r, a.tid, some n, false, 0, 0, [], some { a with status := d.code }⟩ }) := by
  refine ⟨fun h => ?_, fun n h => ?_⟩
  all_goals
    unfold State.writeAnswered
    dsimp only
    rw [hserves, if_neg (by simp), hd]
    dsimp only
    rw [h]

/-! ### MULTI_WRITE (R343) -/

/-- An entry that fails ends the service. -/
theorem State.runMulti_of_failed {s : State} {r : Requester} {tid : Nat} {e : MwEntry} {n : Nat} {d : Dst} (hserves : s.serves e.index = true)
    (hsize : s.entrySize e.index e.sub = some n)
    (hd : (s.writeObj r e.index e.sub (leBytes n e.value.toNat) (some (rsp r tid 3 e.index e.sub))).2 = some d) (hfail : d.done = false)
    (es : List MwEntry) (k first : Nat) : s.runMulti r tid (e :: es) k first =
      (s.writeObj r e.index e.sub (leBytes n e.value.toNat) (some (rsp r tid 3 e.index e.sub))).1.multiEnd r tid k d.code := by
  rw [State.runMulti, hserves, if_neg (by simp), hsize]
  dsimp only
  rw [hd]
  dsimp only
  rw [hfail, if_pos (by simp)]

/-- One that takes effect at once is followed by the next. -/
theorem State.runMulti_of_done {s : State} {r : Requester} {tid : Nat} {e : MwEntry} {n : Nat} {d : Dst} (hserves : s.serves e.index = true)
    (hsize : s.entrySize e.index e.sub = some n)
    (hd : (s.writeObj r e.index e.sub (leBytes n e.value.toNat) (some (rsp r tid 3 e.index e.sub))).2 = some d) (hdone : d.done = true)
    (hwait : (s.writeObj r e.index e.sub (leBytes n e.value.toNat) (some (rsp r tid 3 e.index e.sub))).1.awaits e.index e.sub = none)
    (es : List MwEntry) (k first : Nat) : s.runMulti r tid (e :: es) k first =
      (s.writeObj r e.index e.sub (leBytes n e.value.toNat) (some (rsp r tid 3 e.index e.sub))).1.runMulti r tid es (k + 1) (firstOf first d) := by
  rw [State.runMulti, hserves, if_neg (by simp), hsize]
  dsimp only
  rw [hd]
  dsimp only
  rw [hdone, if_neg (by simp), hwait]

/-- A MULTI_WRITE that fits one PDU of every port. -/
theorem State.multiWrite_of_fits {s : State} {r : Requester} {tid : Nat} {es : List MwEntry} (h : es.length ≤ 100) :
    s.multiWrite r tid es = s.runMulti r tid es 0 0 := by
  have hport : 1480 ≤ pduMax r.port := by cases r.port <;> decide
  exact if_neg (by
    simp only [Bool.or_eq_true, decide_eq_true_eq]
    omega)

/-! ### Block transfers (R344) -/

theorem State.openXfer_of_free {s : State} (a : DorubRsp) (write : Bool) (size : Nat) (buf : Table Byte) (h : s.xfers.length < 4) :
    (s.openXfer a write size buf).xfers = s.xfers ++ [⟨s.newHandle, write, a.index, a.sub, size, buf, []⟩] ∧ (s.openXfer a write size buf).objs = s.objs := by
  have hopen : s.openXfer a write size buf = State.reply { s with
      xfers := s.xfers ++ [⟨s.newHandle, write, a.index, a.sub, size, buf, []⟩], xferNext := s.newHandle % 65535 + 1 }
      { a with xfer := s.newHandle, offset := if write then 0 else size } := if_neg (Nat.not_le.2 h)
  rw [hopen]
  exact ⟨rfl, rfl⟩

theorem State.xfer_dropXfer (s : State) (h : Nat) : (s.dropXfer h).xfer h = none :=
  List.find?_eq_none.2 fun x hx => by simpa using (List.mem_filter.1 hx).2

/-- The first of the transfers of a handle, each of them replaced. -/
theorem State.xfer_setXfer {s : State} {x y : Xfer} (h : s.xfer y.handle = some x) : (s.setXfer y).xfer y.handle = some y := by
  have hfind (l : List Xfer) (h : l.find? (fun z => z.handle == y.handle) = some x) :
      (l.map (fun z => if z.handle = y.handle then y else z)).find? (fun z => z.handle == y.handle) = some y := by
    induction l with
    | nil => cases h
    | cons z l ih =>
      rw [List.map_cons]
      by_cases hz : z.handle = y.handle
      · rw [if_pos hz, List.find?_cons_of_pos (by simp)]
      · rw [if_neg hz, List.find?_cons_of_neg (by simpa using hz)]
        rw [List.find?_cons_of_neg (by simpa using hz)] at h
        exact ih h
  exact hfind _ h

theorem State.blockReadSeg_of_within {s : State} {r : Requester} {tid off n : Nat} {x : Xfer} (h : s.xfer x.handle = some x) (hread : x.write = false)
    (hin : off + n ≤ x.size) (hfits : n ≤ pduMax r.port) :
    s.blockReadSeg r tid x.handle off n = s.reply { rsp r tid 6 x.index x.sub with
      xfer := x.handle, offset := off, data := Table.readList 0 off n x.buf } := by
  unfold State.blockReadSeg
  rw [h]
  dsimp only
  rw [hread, if_neg (by simpa using hin), if_neg (Nat.not_lt.2 hfits)]
  rfl

theorem State.blockWriteSeg_of_within {s : State} {r : Requester} {tid off : Nat} {bs : List Byte} {x : Xfer} (h : s.xfer x.handle = some x)
    (hwrite : x.write = true) (hfits : bs.length ≤ pduMax r.port) (hin : off + bs.length ≤ x.size) :
    s.blockWriteSeg r tid x.handle off bs = (s.setXfer { x with
      buf := Table.writeList 0 off bs x.buf, seen := Table.writeList false off (List.replicate bs.length true) x.seen }).reply
        { rsp r tid 8 x.index x.sub with xfer := x.handle, offset := off } := by
  unfold State.blockWriteSeg
  dsimp only
  rw [if_neg (Nat.not_lt.2 hfits), h]
  dsimp only
  rw [hwrite, if_neg (by simpa using hin)]
  rfl

theorem State.blockWriteEnd_of_write {s : State} {r : Requester} {tid : Nat} {x : Xfer} (h : s.xfer x.handle = some x) (hwrite : x.write = true) (crc : Word) :
    s.blockWriteEnd r tid x.handle crc =
      if x.seen.length < x.size ∨ crc32 (Table.readList 0 0 x.size x.buf) ≠ crc then
        (s.dropXfer x.handle).reply { rsp r tid 9 x.index x.sub with xfer := x.handle, status := Dst.xfer.code }
      else (s.dropXfer x.handle).writeAnswered r { rsp r tid 9 x.index x.sub with xfer := x.handle } x.index x.sub (Table.readList 0 0 x.size x.buf) := by
  unfold State.blockWriteEnd
  rw [h]
  dsimp only
  rw [hwrite, if_neg (by simp)]
  simp only [Bool.or_eq_true, decide_eq_true_eq]
  rfl

/-- Settles O45. Each service is served once its request is a new one in its turn; the two entries of a MULTI_WRITE go one after the other. -/
theorem dorubServices : Obligations.DorubServices := by
  unfold Obligations.DorubServices
  intro s r tid i sub hon hmulti hnew hserves
  refine ⟨fun w p e hproto hver hservice hw htakes hp hfits => ?_, fun bs p d hfits hp hd => ?_, ?_, ?_, fun v rest n p d hrest hsize hp hd => ?_,
    fun p hroom hp hok hkeep => ?_, fun x off n hx hread hin hfits => ?_, fun size hroom hsize => ?_, fun size hfull hsize => ?_,
    fun x hx hwrite => ⟨fun off bs hfits hin => ?_, fun crc bs hbs hseen hcrc hi hsub => ?_, fun crc hbad => ?_⟩, fun x hx => ⟨?_, rfl⟩⟩
  · subst hw hp
    obtain ⟨hon', hmulti', hserves', hnew'⟩ := s.fecIn_dorub r.port e.frame r tid i
    have honw : (s.fecIn r.port e.frame).dorubOn r = true := hon'.trans hon
    have hknown : unknownService e.service = false := by rw [hservice]; rfl
    have hserve : (s.fecIn r.port e.frame).serve (.dorubRead ⟨r, e⟩ tid i sub) = (s.fecIn r.port e.frame).dorubRead r tid i sub :=
      if_neg (ne_true_of_eq_false hknown)
    exact congrArg Host.Outcome.next ((State.enveloped_of_taken (State.dorubPort_of_on honw) htakes hproto hver _).trans
      ((State.request_of_new rfl honw (hmulti'.trans hmulti) (hnew' hnew)).trans (hserve.trans (State.dorubRead_of_fits (hserves'.trans hserves) hfits))))
  · subst hp
    have hexec : exec (.dorubWrite r tid i sub bs) s = .next (s.writeAnswered r (rsp r tid 2 i sub) i sub bs) :=
      (exec_of_new rfl rfl hon hmulti hnew).trans (congrArg Host.Outcome.next (if_neg (Nat.not_lt.2 hfits)))
    obtain ⟨hdone, hwait⟩ := State.writeAnswered_of_done hserves hd
    exact ⟨fun h => hexec.trans (congrArg Host.Outcome.next (hdone h)), fun n h => hexec.trans (congrArg Host.Outcome.next (hwait n h))⟩
  · refine (exec_of_new rfl rfl hon hmulti hnew).trans (congrArg Host.Outcome.next ?_)
    simp only [State.serve, State.dorubDescribe, hserves, if_true]
    rfl
  · exact (exec_of_new rfl rfl hon hmulti hnew).trans (congrArg Host.Outcome.next (State.multiWrite_of_fits (Nat.zero_le _)))
  · subst hp
    have hexec (es : List MwEntry) (hes : es.length ≤ 100) : exec (.multiWrite r tid es) s = .next (s.runMulti r tid es 0 0) :=
      (exec_of_new rfl rfl hon hmulti hnew).trans (congrArg Host.Outcome.next (State.multiWrite_of_fits hes))
    have hlen : (⟨i, sub, v⟩ :: rest : List MwEntry).length ≤ 100 := hrest
    refine ⟨fun hfail => (hexec _ hlen).trans (congrArg Host.Outcome.next (State.runMulti_of_failed (e := ⟨i, sub, v⟩) hserves hsize hd hfail _ _ _)),
      fun hdone hnil hwait => ?_, fun j k y more m q c hdone hwait hmore hserves2 hsize2 hq hc hfail => ?_⟩
    · exact (hexec _ (by simp)).trans (congrArg Host.Outcome.next (State.runMulti_of_done (e := ⟨i, sub, v⟩) hserves hsize hd hdone hwait _ _ _))
    · subst hq hmore
      exact (hexec _ hlen).trans (congrArg Host.Outcome.next ((State.runMulti_of_done (e := ⟨i, sub, v⟩) hserves hsize hd hdone hwait _ _ _).trans
        (State.runMulti_of_failed (e := ⟨j, k, y⟩) hserves2 hsize2 hc hfail _ _ _)))
  · subst hp
    have hstart : s.blockReadStart r tid i sub =
        (s.readObj r i sub).1.openXfer (rsp r tid 5 i sub) false (s.readObj r i sub).2.2.length (Table.entries 0 0 (s.readObj r i sub).2.2) := by
      unfold State.blockReadStart
      dsimp only
      rw [hserves, if_neg (by simp), if_neg (Nat.not_le.2 hroom), if_neg (not_not.2 hok)]
    refine ⟨_, (exec_of_new rfl rfl hon hmulti hnew).trans (congrArg Host.Outcome.next hstart), ?_⟩
    rw [(State.openXfer_of_free (s := (s.readObj r i sub).1) _ _ _ _ (hkeep ▸ hroom)).1, hkeep]
    rfl
  · exact (exec_of_new rfl rfl hon hmulti hnew).trans (congrArg Host.Outcome.next (State.blockReadSeg_of_within hx hread hin hfits))
  · have hstart : s.blockWriteStart r tid i sub size = s.openXfer (rsp r tid 7 i sub) true size [] := by
      simp [State.blockWriteStart, hserves, hsize]
    have hopen := State.openXfer_of_free (rsp r tid 7 i sub) true size [] hroom
    exact ⟨_, (exec_of_new rfl rfl hon hmulti hnew).trans (congrArg Host.Outcome.next hstart), hopen.1, hopen.2⟩
  · have hstart : s.blockWriteStart r tid i sub size = s.reply { rsp r tid 7 i sub with status := Dst.busy.code } := by
      simp [State.blockWriteStart, hserves, hsize, State.openXfer, hfull]
    exact ⟨_, (exec_of_new rfl rfl hon hmulti hnew).trans (congrArg Host.Outcome.next hstart), rfl⟩
  · exact ⟨_, (exec_of_new rfl rfl hon hmulti hnew).trans (congrArg Host.Outcome.next (State.blockWriteSeg_of_within hx hwrite hfits hin)),
      State.xfer_setXfer (y := { x with buf := Table.writeList 0 off bs x.buf, seen := Table.writeList false off (List.replicate bs.length true) x.seen }) hx, rfl⟩
  · subst hbs hi hsub
    exact (exec_of_new rfl rfl hon hmulti hnew).trans (congrArg Host.Outcome.next ((State.blockWriteEnd_of_write hx hwrite crc).trans
      (if_neg (not_or.2 ⟨Nat.not_lt.2 hseen, not_not.2 hcrc⟩))))
  · exact ⟨_, (exec_of_new rfl rfl hon hmulti hnew).trans (congrArg Host.Outcome.next ((State.blockWriteEnd_of_write hx hwrite crc).trans (if_pos hbad))),
      rfl, rfl, rfl, State.xfer_dropXfer s x.handle⟩
  · have habort : s.blockAbort r tid x.handle = (s.dropXfer x.handle).reply { rsp r tid 10 0 0 with xfer := x.handle } := by
      simp [State.blockAbort, hx]
    exact ⟨_, (exec_of_new rfl rfl hon hmulti hnew).trans (congrArg Host.Outcome.next habort), State.xfer_dropXfer s x.handle, rfl⟩

end Sys2Proof.Machine
end

section
/-! PROOFS. Crypto-erase: what it keeps of the warden's state, and what it leaves of the key slots (R432, R433). -/

namespace Sys2Proof.Machine

/-! ### Steps 1 to 4 -/

theorem TotChange.security {s t : State} (h : TotChange s t) : t.security = s.security := by
  rw [TotChange] at h
  rw [h]

theorem SendChange.security {s t : State} (h : SendChange s t) : t.security = s.security := by
  rw [SendChange] at h
  rw [h]

theorem HostChange.security {s t : State} (h : HostChange s t) : t.security = s.security := by
  rw [HostChange] at h
  rw [h]

theorem State.returnCredit_security (s : State) (k : Nat) (q : QKind) (producer : NodeSlot) (e : EntryKey) :
    (s.returnCredit k q producer e).security = s.security :=
  (State.post_sendChange _ _ _ _ _).security.trans (State.bump_totChange _ _ _ _).security

theorem State.freeEnded_security (s : State) (k : Nat) (q : QKind) (ended : EntryKey → Bool) : (s.freeEnded k q ended).security = s.security := by
  have hfold (es : List QEntry) (t : State) : (es.foldl (fun s e => s.returnCredit k q e.producer e.key) t).security = t.security :=
    foldl_keeps (·.security) (fun s (e : QEntry) => s.returnCredit k q e.producer e.key)
      (fun t e => State.returnCredit_security t k q e.producer e.key) es t
  exact hfold _ _

theorem State.dropQueues_security (s : State) (ks : List Nat) : (s.dropQueues ks).security = s.security := by
  refine foldl_keeps (·.security) _ (fun t k => ?_) _ _
  split
  · rfl
  · exact (State.freeEnded_security _ _ _ _).trans (State.freeEnded_security _ _ _ _)

theorem State.clearStorage_security (s : State) (n : Nat) (x : Ctx) : (s.clearStorage n x).security = s.security := by
  cases x <;> rfl

theorem State.leaveBrim_security (s : State) (n : Nat) (x : Ctx) : (s.leaveBrim n x).security = s.security := by
  unfold State.leaveBrim
  split <;> rfl

theorem State.dropContexts_security (s : State) (ks : List Nat) : (s.dropContexts ks).security = s.security := by
  unfold State.dropContexts
  refine foldl_keeps (·.security) _ (fun t e => ?_) _ _
  dsimp only
  rw [State.leaveBrim_security, State.setCtx_security, State.clearStorage_security]
  rfl

/-- A key slot whose key is destroyed. -/
def KeySlot.destroyed (v : KeySlot) : KeySlot := { v with gen := 0, secret := [], useJorto := false, erasing := true }

/-- Key slots changed one after another: each of those named once or more, by a function that is its own repetition. -/
theorem keySlot_foldl {f : KeySlot → KeySlot} (hf : ∀ v, f (f v) = f v) (ks : List Nat) (s : State) (j : Nat) :
    (ks.foldl (fun s k => s.setKeySlot k (f (s.keySlot k))) s).keySlot j = if j ∈ ks then f (s.keySlot j) else s.keySlot j := by
  induction ks generalizing s with
  | nil => simp
  | cons k ks ih =>
    rw [List.foldl_cons, ih]
    by_cases hk : k = j
    · subst hk
      rw [keySlot_setKeySlot, hf]
      simp
    · rw [keySlot_setKeySlot_ne _ _ hk]
      simp [Ne.symm hk]

/-- What key slots are set to leaves the rest of the warden's state. -/
theorem security_foldl_setKeySlot (f : State → Nat → KeySlot) (ks : List Nat) (s : State) :
    (ks.foldl (fun s k => s.setKeySlot k (f s k)) s).security = { s.security with keys := (ks.foldl (fun s k => s.setKeySlot k (f s k)) s).security.keys } ∧
    (ks.foldl (fun s k => s.setKeySlot k (f s k)) s).sessions = s.sessions := by
  induction ks generalizing s with
  | nil => exact ⟨rfl, rfl⟩
  | cons k ks ih =>
    obtain ⟨hsec, hsess⟩ := ih (s.setKeySlot k (f s k))
    exact ⟨hsec, hsess⟩

/-- The state when contexts and sessions of the keys are gone, the key slots still as they were. -/
def State.abandoned (s : State) (ks : List Nat) : State :=
  let s := if s.fabricOn || s.vigil then s.dropQueues ks else s
  (if s.vigil then s else s.dropContexts ks).closeSessions (fun ss => ks.contains ss.key) true

theorem State.abandoned_security (s : State) (ks : List Nat) : (s.abandoned ks).security = s.security := by
  have hqueues : (if s.fabricOn || s.vigil then s.dropQueues ks else s).security = s.security := by
    split
    · exact State.dropQueues_security _ _
    · rfl
  have hcontexts (t : State) : (if t.vigil then t else t.dropContexts ks).security = t.security := by
    split
    · rfl
    · exact State.dropContexts_security _ _
  exact (State.closeSessions_hostChange _ _ _).security.trans ((hcontexts _).trans hqueues)

theorem State.startErase_eq (s : State) (j : EraseJob) : s.startErase j =
    (j.keys.foldl (fun s k => s.setKeySlot k (s.keySlot k).destroyed) (s.abandoned j.keys)).setSec (fun z => { z with erasePending := true }) := rfl

/-- An erase starts: the keys of its slots are destroyed, their sessions closed, and nothing else of the warden's state moves. -/
theorem State.startErase_spec (s : State) (j : EraseJob) :
    (s.startErase j).security = { s.security with keys := (s.startErase j).security.keys, erasePending := true } ∧
    (∀ k ∈ j.keys, ((s.startErase j).keySlot k).gen = 0 ∧ ((s.startErase j).keySlot k).erasing = true) ∧
    (∀ k ∈ j.keys, ∀ ss ∈ (s.startErase j).sessions, ss.key ≠ k) := by
  obtain ⟨hsec, hsess⟩ := security_foldl_setKeySlot (fun s k => (s.keySlot k).destroyed) j.keys (s.abandoned j.keys)
  rw [State.abandoned_security] at hsec
  refine ⟨?_, fun k hk => ?_, fun k hk ss hss => ?_⟩
  · rw [State.startErase_eq]
    simp only [State.setSec]
    rw [hsec]
  · have hslot : (s.startErase j).keySlot k = _ := (keySlot_foldl (f := KeySlot.destroyed) (fun _ => rfl) j.keys (s.abandoned j.keys) k)
    rw [hslot, if_pos hk]
    exact ⟨rfl, rfl⟩
  · have hin : ss ∈ (s.abandoned j.keys).sessions := hsess ▸ hss
    have hno := State.closeSessions_none _ _ _ ss hin
    intro hkey
    exact absurd (hkey ▸ hk) (by simpa using hno)

theorem EraseJob.mem_keys {j : EraseJob} {k : Nat} (hlo : 1 ≤ k) (hhi : k < 64) (h : k = j.slot ∨ j.slot = 255) : k ∈ j.keys := by
  unfold EraseJob.keys
  split
  · have hrange : (List.range 64).drop 1 = List.range' 1 63 := by decide
    rw [hrange, List.mem_range'_1]
    omega
  next hne =>
    exact List.mem_singleton.2 (h.resolve_right hne)

/-! ### Steps 5 and 6 -/

/-- What zeroing changes: memory, the keys and codes of its units, and the bytes of parts in queue-head areas. -/
def ZeroChange (s t : State) : Prop :=
  t = { s with mem := t.mem, unitKey := t.unitKey, unitCode := t.unitCode, fills := t.fills, slots := t.slots }

theorem ZeroChange.trans {s t u : State} (ht : ZeroChange s t) (hu : ZeroChange t u) : ZeroChange s u := by
  rw [ZeroChange] at ht hu ⊢
  rw [hu, ht]

theorem State.fillUnits_zeroChange (s : State) (lo hi gen : Nat) : ZeroChange s (s.fillUnits lo hi gen) := rfl

/-- The units that an erase zeroes. -/
def State.zeroed (s : State) (j : EraseJob) : State :=
  if j.slot = 255 || (s.keySlot j.slot).tooMany then s.zeroAll else s.zeroWindows (s.keySlot j.slot).ranges

theorem State.zeroed_zeroChange (s : State) (j : EraseJob) : ZeroChange s (s.zeroed j) := by
  unfold State.zeroed
  split
  · rfl
  · exact foldl_holds (fun t => ZeroChange s t) _ (fun t w ht => ht.trans (t.fillUnits_zeroChange _ _ _)) _ s rfl

end Sys2Proof.Machine
end

section
/-! PROOFS. The end of an erase, key records and debug tokens (R430 to R434), with O54. -/

namespace Sys2Proof.Machine

/-! ### The ledger of a commit (R435) -/

/-- What a commit changes of the warden's state: the live ledger, its copies, and what of the counters has gone into it. -/
def LedgerChange (z w : Security) : Prop :=
  w = { z with lastCommitTick := w.lastCommitTick, flitsPassed := w.flitsPassed, ledger := w.ledger, ledgerA := w.ledgerA, ledgerB := w.ledgerB,
               epochFuses := w.epochFuses }

theorem LedgerChange.trans {z w v : Security} (hw : LedgerChange z w) (hv : LedgerChange w v) : LedgerChange z v := by
  rw [LedgerChange] at hw hv ⊢
  rw [hv, hw]

theorem Security.commit_ledgerChange (z : Security) : LedgerChange z z.commit ∧ z.commit.ledger.erases = z.ledger.erases := by
  unfold Security.commit
  dsimp only
  split <;> exact ⟨rfl, rfl⟩

/-- The warden's state whose ledger has taken in the seconds powered, the bytes and the energy since the last commit. -/
def State.ledgerTaken (s : State) : Security :=
  { s.security with
    lastCommitTick := s.security.lastCommitTick + (s.counter 0 - s.security.lastCommitTick) / 10 ^ 8 * 10 ^ 8
    flitsPassed := s.txFlits
    ledger := { s.security.ledger with
      poweredS := satAdd 64 s.security.ledger.poweredS ((s.counter 0 - s.security.lastCommitTick) / 10 ^ 8)
      fabricBytes := satAdd 64 s.security.ledger.fabricBytes (64 * (s.txFlits - s.security.flitsPassed))
      energyNano := s.security.ledger.energyNano + (s.power.energyNano - s.power.energyPassed) } }

theorem State.commitLedger_eq (s : State) :
    s.commitLedger = { s with security := s.ledgerTaken.commit, power := { s.power with energyPassed := s.power.energyNano } } := rfl

theorem State.commitLedger_security (s : State) :
    LedgerChange s.security s.commitLedger.security ∧ s.commitLedger.security.ledger.erases = s.security.ledger.erases :=
  ⟨LedgerChange.trans (w := s.ledgerTaken) rfl s.ledgerTaken.commit_ledgerChange.1, s.ledgerTaken.commit_ledgerChange.2⟩

/-! ### The end of an erase (R432, R433) -/

/-- The state when the slots of an erase are EMPTY again, before the ledger counts it. -/
def State.emptied (s : State) (j : EraseJob) : State :=
  (j.keys.foldl (fun s k => s.setKeySlot k {}) (s.zeroed j)).setSec (fun z => { z with erasePending := false })

theorem State.endErase_eq (s : State) (j : EraseJob) :
    s.endErase j = ((s.emptied j).modLedger (fun l => { l with erases := satAdd 32 l.erases 1 })).commitLedger := rfl

theorem State.emptied_spec (s : State) (j : EraseJob) :
    (s.emptied j).security = { s.security with keys := (s.emptied j).security.keys, erasePending := false } ∧
    (∀ k ∈ j.keys, (s.emptied j).keySlot k = {}) ∧ (s.emptied j).multi = s.multi ∧ (s.emptied j).heldWrites = s.heldWrites := by
  have hzero := s.zeroed_zeroChange j
  rw [ZeroChange] at hzero
  have hsec : (s.zeroed j).security = s.security := by rw [hzero]
  obtain ⟨hkeys, -⟩ := security_foldl_setKeySlot (fun _ _ => {}) j.keys (s.zeroed j)
  rw [hsec] at hkeys
  refine ⟨?_, fun k hk => ?_, ?_, ?_⟩
  · unfold State.emptied
    simp only [State.setSec]
    rw [hkeys]
  · exact (keySlot_foldl (f := fun _ => {}) (fun _ => rfl) j.keys (s.zeroed j) k).trans (if_pos hk)
  · have hfold : (j.keys.foldl (fun s k => s.setKeySlot k {}) (s.zeroed j)).multi = (s.zeroed j).multi := 
      foldl_keeps (·.multi) (fun s k => s.setKeySlot k {}) (fun _ _ => rfl) _ _
    exact hfold.trans (by rw [hzero])
  · have hfold : (j.keys.foldl (fun s k => s.setKeySlot k {}) (s.zeroed j)).heldWrites = (s.zeroed j).heldWrites :=
      foldl_keeps (·.heldWrites) (fun s k => s.setKeySlot k {}) (fun _ _ => rfl) _ _
    exact hfold.trans (by rw [hzero])

/-- The slots of the erase are EMPTY, the ledger has counted it, and nothing else of the warden's state has moved. -/
theorem State.endErase_spec (s : State) (j : EraseJob) :
    LedgerChange { s.security with keys := (s.endErase j).security.keys, erasePending := false } (s.endErase j).security ∧
    (s.endErase j).security.ledger.erases = satAdd 32 s.security.ledger.erases 1 ∧ (∀ k ∈ j.keys, (s.endErase j).keySlot k = {}) ∧
    (s.endErase j).multi = s.multi ∧ (s.endErase j).heldWrites = s.heldWrites := by
  obtain ⟨hsec, hkeys, hmulti, hheld⟩ := s.emptied_spec j
  obtain ⟨hledger, herases⟩ := ((s.emptied j).modLedger (fun l => { l with erases := satAdd 32 l.erases 1 })).commitLedger_security
  rw [← State.endErase_eq] at hledger herases
  have hk : (s.endErase j).security.keys = (s.emptied j).security.keys := by
    rw [LedgerChange] at hledger
    rw [hledger]
    rfl
  refine ⟨?_, ?_, fun k h => ?_, hmulti, hheld⟩
  · have hcounted : LedgerChange (s.emptied j).security ((s.emptied j).modLedger (fun l => { l with erases := satAdd 32 l.erases 1 })).security := rfl
    rw [hsec] at hcounted
    rw [hk]
    exact hcounted.trans hledger
  · rw [herases]
    have hbefore := congrArg (fun z : Security => satAdd 32 z.ledger.erases 1) hsec
    exact hbefore
  · exact (congrArg (fun t : Table KeySlot => Table.read ({} : KeySlot) k t) hk).trans (hkeys k h)

/-- With nothing waiting behind the warden, the end of its work sets nothing going. -/
theorem State.resumeAll_of_none {s : State} (hmulti : s.multi = none) (hheld : s.heldWrites = []) : s.resumeAll = s := by
  have hm : s.resumeMulti = s := by rw [State.resumeMulti, hmulti]
  have hsame : ({ s with heldWrites := [] } : State) = s := by rw [← hheld]
  rw [State.resumeAll, hm, hheld, hsame, if_neg (by simp [hmulti])]
  rfl

/-- The erase of one slot, with none waiting behind it, ends. -/
theorem State.eraseDone_of_itself {s : State} {j : EraseJob} (hqueue : s.security.eraseQueue = [j]) (hwhat : j.what = .itself) (hans : j.answer = none)
    (hslot : j.slot ≠ 255) : s.eraseDone = (s.endErase j).setSec (fun z => { z with eraseQueue := [] }) := by
  have hjob : (s.endErase j).jobDone j = s.endErase j := by simp [State.jobDone, hwhat, hans, State.finish]
  rw [State.eraseDone, hqueue]
  dsimp only
  rw [if_neg hslot, hjob]
  rfl

/-! ### Commands of the warden -/

theorem State.queueErase_of_first {s : State} (j : EraseJob) (h : s.security.eraseQueue = []) :
    s.queueErase j = (s.setSec (fun z => { z with eraseQueue := [j] })).startErase j := by
  have hqueue : s.setSec (fun z => { z with eraseQueue := z.eraseQueue ++ [j] }) = s.setSec (fun z => { z with eraseQueue := [j] }) := by
    simp [State.setSec, h]
  rw [State.queueErase, hqueue]
  exact if_pos h

/-- The first erase starts at once. -/
theorem State.queueErase_spec {s : State} (j : EraseJob) (h : s.security.eraseQueue = []) :
    (s.queueErase j).security = { s.security with keys := (s.queueErase j).security.keys, eraseQueue := [j], erasePending := true } ∧
    (∀ k ∈ j.keys, ((s.queueErase j).keySlot k).gen = 0 ∧ ((s.queueErase j).keySlot k).erasing = true) ∧
    (∀ k ∈ j.keys, ∀ ss ∈ (s.queueErase j).sessions, ss.key ≠ k) := by
  rw [State.queueErase_of_first j h]
  exact State.startErase_spec _ j

theorem State.eraseCheck_of_valid {s : State} {r : Requester} {v : Nat} (hauth : s.authorised r = true) (hv : 1 ≤ v ∧ v ≤ 63 ∨ v = 255) :
    s.eraseCheck r v = none := by
  rw [State.eraseCheck, hauth, if_neg (by simp), if_pos (by simpa using hv)]

theorem State.eraseCheck_of_refused {s : State} {r : Requester} {v : Nat} (h : s.authorised r = false ∨ v = 0 ∨ (63 < v ∧ v ≠ 255)) :
    ∃ d, s.eraseCheck r v = some d := by
  unfold State.eraseCheck
  cases hauth : s.authorised r with
  | false => exact ⟨_, rfl⟩
  | true =>
    refine ⟨_, (if_neg (by simp)).trans (if_neg ?_)⟩
    rw [hauth] at h
    simp only [Bool.or_eq_true, Bool.and_eq_true, decide_eq_true_eq]
    rcases h with h | h
    · cases h
    · omega

/-- A token is judged before its challenge is renewed. -/
theorem State.debugToken_of_refused {s : State} {r : Requester} {bs : List Byte} {d : Dst} (h : s.tokenRefused r bs = some d) :
    s.debugToken r bs none =
      (s.setSec (fun z => { z with debugChallengeNo := z.randomNext, randomNext := z.randomNext + 1 })).secRecord 0x42 := by
  unfold State.debugToken
  rw [h]
  rfl

theorem State.debugToken_of_accepted {s : State} {r : Requester} {bs : List Byte} (h : s.tokenRefused r bs = none) :
    s.debugToken r bs none = (s.setSec (fun z => { z with debugChallengeNo := z.randomNext, randomNext := z.randomNext + 1 })).queueErase
      ⟨255, .token (leNat (slice bs 48 4)), r, none⟩ := by
  unfold State.debugToken
  rw [h]

/-- The authority of an owner lets its requester through. -/
theorem State.ownerOnly_of_auth {s : State} {r : Requester} (hlife : s.security.lifecycle = .owned ∨ s.security.lifecycle = .leased)
    (hauth : s.security.auth = some r) (early : Option Dst) : s.ownerOnly r early = none := by
  rcases hlife with h | h <;> simp [State.ownerOnly, h, hauth]

/-- Settles O54. An erase touches no other part of the warden's state than the key slots it names, so that queue, challenge and scope can be read off. -/
theorem tenantKeys : Obligations.TenantKeys := by
  unfold Obligations.TenantKeys
  intro s u r hon h5200 h5380 hmulti hu
  subst hu
  have hload (rec : List Byte) (hlen : rec.length = 416) : exec (.keyLoad r rec) s = .next (s.pkgTouch.keyLoad r rec).1 :=
    (whenServed_now hon h5200 hmulti _ _).trans (congrArg Host.Outcome.next (if_pos hlen))
  have herase (v : Nat) : exec (.erase r v) s = .next (s.pkgTouch.eraseCmd r v none).1 := whenServed_now hon h5200 hmulti _ _
  have htoken (bs : List Byte) (hlen : bs.length = 448) : exec (.debugToken r bs) s = .next (s.pkgTouch.debugToken r bs none) :=
    (whenServed_now hon h5380 hmulti _ _).trans (congrArg Host.Outcome.next (if_pos hlen))
  refine ⟨fun rec k p hlen hk hlife hauth hplain => ?_, fun rec hlen hlife hauth hplain => ?_, fun v hauth hqueue hv => ?_, fun v hv => ?_,
    fun j hqueue hwhat hans hlo hhi hheld => ?_, fun bs hlen => ⟨fun d hd => ?_, fun hd hqueue => ?_⟩⟩
  · subst hk
    have howner : s.pkgTouch.ownerOnly r (some .badValue) = none := State.ownerOnly_of_auth hlife hauth _
    refine ⟨_, hload rec hlen, ?_⟩
    rw [State.keyLoad, howner]
    dsimp only
    rw [hplain]
    exact ⟨rfl, keySlot_setKeySlot _ _ _, fun j hj => keySlot_setKeySlot_ne s.pkgTouch _ (Ne.symm hj)⟩
  · have howner : s.pkgTouch.ownerOnly r (some .badValue) = none := State.ownerOnly_of_auth hlife hauth _
    refine (hload rec hlen).trans (congrArg Host.Outcome.next ?_)
    rw [State.keyLoad, howner]
    dsimp only
    rw [hplain]
    rfl
  · have hcheck : s.pkgTouch.eraseCheck r v = none := State.eraseCheck_of_valid hauth hv
    have hcmd : (s.pkgTouch.eraseCmd r v none).1 = s.pkgTouch.queueErase ⟨v, .itself, r, none⟩ := by rw [State.eraseCmd, hcheck]
    obtain ⟨hsec, hkeys, hsess⟩ := State.queueErase_spec (s := s.pkgTouch) ⟨v, .itself, r, none⟩ hqueue
    refine ⟨_, (herase v).trans (congrArg Host.Outcome.next hcmd), by rw [hsec], by rw [hsec], fun k hlo hhi hkv => ?_⟩
    have hmem : k ∈ EraseJob.keys ⟨v, .itself, r, none⟩ := EraseJob.mem_keys hlo hhi hkv
    exact ⟨(hkeys k hmem).1, (hkeys k hmem).2, hsess k hmem⟩
  · obtain ⟨d, hd⟩ := State.eraseCheck_of_refused (s := s.pkgTouch) (r := r) (v := v) hv
    refine (herase v).trans (congrArg Host.Outcome.next ?_)
    rw [State.eraseCmd, hd]
  · obtain ⟨hledger, hcount, hkeys, hmul, hhw⟩ := s.endErase_spec j
    have hend : s.eraseDone = (s.endErase j).setSec (fun z => { z with eraseQueue := [] }) :=
      State.eraseDone_of_itself hqueue hwhat hans (by omega)
    have hresume : s.eraseDone.resumeAll = (s.endErase j).setSec (fun z => { z with eraseQueue := [] }) := by
      rw [hend]
      exact State.resumeAll_of_none (hmul.trans hmulti) (hhw.trans hheld)
    refine ⟨_, congrArg Host.Outcome.next hresume, hkeys j.slot ?_, rfl, ?_, hcount⟩
    · exact EraseJob.mem_keys hlo (by omega) (Or.inl rfl)
    · rw [LedgerChange] at hledger
      exact congrArg Security.erasePending hledger
  · refine ⟨_, (htoken bs hlen).trans (congrArg Host.Outcome.next (State.debugToken_of_refused hd)), ?_⟩
    rw [State.secRecord_security (by decide)]
    exact ⟨rfl, rfl⟩
  · obtain ⟨hsec, hkeys, -⟩ := State.queueErase_spec (s := s.pkgTouch.setSec (fun z => { z with debugChallengeNo := z.randomNext, randomNext := z.randomNext + 1 }))
      ⟨255, .token (leNat (slice bs 48 4)), r, none⟩ hqueue
    refine ⟨_, (htoken bs hlen).trans (congrArg Host.Outcome.next (State.debugToken_of_accepted hd)), ?_, ?_, ?_, fun k hlo hhi => ?_⟩
    · rw [hsec]
      rfl
    · rw [hsec]
      rfl
    · rw [hsec]
    · exact (hkeys k (EraseJob.mem_keys hlo hhi (Or.inr rfl))).1

end Sys2Proof.Machine
end

section
/-! PROOFS. Lifecycle records (R420, R428, R429, Table 19.6), with O53. -/

namespace Sys2Proof.Machine

/-! ### The store (R357, R428) -/

/-- A change is written to the older copy, which is the newest from then on. -/
theorem Security.keep_spec (z : Security) (f : StoreVals → StoreVals) : (z.keep f).stored = f z.stored ∧
    (z.newestA = true → (z.keep f).storeA = z.storeA) ∧ (z.newestA = false → (z.keep f).storeB = z.storeB) := by
  cases hA : z.newestA with
  | true =>
    have hkeep : z.keep f = { z with storeB := { gen := max z.storeA.gen z.storeB.gen + 1, vals := f z.stored } } := by simp [Security.keep, hA]
    have hold : (z.keep f).newestA = false := by
      rw [hkeep]
      have hlt : z.storeA.gen < max z.storeA.gen z.storeB.gen + 1 := by omega
      simp [Security.newestA, hlt]
    refine ⟨?_, fun _ => by rw [hkeep], fun h => by cases h⟩
    rw [Security.stored, hold, hkeep]
    rfl
  | false =>
    have hkeep : z.keep f = { z with storeA := { gen := max z.storeA.gen z.storeB.gen + 1, vals := f z.stored } } := by simp [Security.keep, hA]
    have hnew : (z.keep f).newestA = true := by
      rw [hkeep]
      have hlt : ¬ max z.storeA.gen z.storeB.gen + 1 < z.storeB.gen := by omega
      simp [Security.newestA, hlt]
    refine ⟨?_, (fun h => by cases h), fun _ => by rw [hkeep]⟩
    rw [Security.stored, hnew, hkeep]
    rfl

/-- The fuses decide in MANUFACTURE and RETIRED; else it is the store. -/
theorem Security.fuses_of_live {z : Security} (hm : z.lifecycle ≠ .manufacture) (hr : z.lifecycle ≠ .retired) :
    z.retiredFuse = false ∧ z.vendorFuse = true := by
  unfold Security.lifecycle at hm hr
  cases hret : z.retiredFuse with
  | true => simp [hret] at hr
  | false =>
    cases hven : z.vendorFuse with
    | true => exact ⟨rfl, rfl⟩
    | false => simp [hret, hven] at hm

theorem Security.lifecycle_of_stored {z : Security} (hret : z.retiredFuse = false) (hven : z.vendorFuse = true) {l : Lifecycle}
    (hl : z.stored.lifecycle = l) (hm : l ≠ .manufacture) (hr : l ≠ .retired) : z.lifecycle = l := by
  subst hl
  rw [Security.lifecycle, hret, hven, if_neg (by simp), if_neg (by simp)]
  split
  next h => exact absurd h hm
  next h => exact absurd h hr
  · rfl

/-- The lifecycle state follows fuses and store. -/
theorem Security.lifecycle_congr {z w : Security} (hret : w.retiredFuse = z.retiredFuse) (hven : w.vendorFuse = z.vendorFuse)
    (hst : w.stored.lifecycle = z.stored.lifecycle) : w.lifecycle = z.lifecycle := by
  rw [Security.lifecycle, Security.lifecycle, hret, hven, hst]

/-- A commit of the ledger leaves what the warden knows of its owner. -/
theorem LedgerChange.keeps {z w : Security} (h : LedgerChange z w) : w.stored = z.stored ∧ w.lifecycle = z.lifecycle ∧ w.auth = z.auth ∧
    w.revoked = z.revoked ∧ w.retiredFuse = z.retiredFuse ∧ w.vendorFuse = z.vendorFuse ∧ w.keys = z.keys ∧ w.eraseQueue = z.eraseQueue ∧
    w.erasePending = z.erasePending := by
  rw [LedgerChange] at h
  rw [h]
  exact ⟨rfl, rfl, rfl, rfl, rfl, rfl, rfl, rfl, rfl⟩

/-! ### What an accepted record does (Table 19.6) -/

theorem StoreVals.applyRec_lcCount (v : StoreVals) (b : List Byte) (was : Lifecycle) : (v.applyRec b was).lcCount = v.lcCount + 1 := by
  unfold StoreVals.applyRec
  dsimp only
  split
  · split <;> rfl
  all_goals rfl

/-- The warden's state after a record's effects on store and fuses. -/
theorem Security.applyRec_spec (z : Security) (b : List Byte) :
    (z.applyRec b).stored = z.stored.applyRec b z.lifecycle ∧ (z.applyRec b).vendorFuse = z.vendorFuse ∧
    (recKind b ≠ 6 → (z.applyRec b).retiredFuse = z.retiredFuse) ∧ (recKind b = 6 → (z.applyRec b).retiredFuse = true) ∧
    (recKind b ≠ 6 → recKind b = revokeKind → (z.applyRec b).revoked = (z.revoked ++ [revokedKey b]).eraseDups) ∧
    (z.applyRec b).keys = z.keys ∧ (z.applyRec b).eraseQueue = z.eraseQueue ∧ (z.applyRec b).erasePending = z.erasePending := by
  have hst := (z.keep_spec (fun v => v.applyRec b z.lifecycle)).1
  have hframe : (z.keep (fun v => v.applyRec b z.lifecycle)).vendorFuse = z.vendorFuse ∧ (z.keep (fun v => v.applyRec b z.lifecycle)).retiredFuse = z.retiredFuse ∧
      (z.keep (fun v => v.applyRec b z.lifecycle)).revoked = z.revoked ∧ (z.keep (fun v => v.applyRec b z.lifecycle)).keys = z.keys ∧
      (z.keep (fun v => v.applyRec b z.lifecycle)).eraseQueue = z.eraseQueue ∧ (z.keep (fun v => v.applyRec b z.lifecycle)).erasePending = z.erasePending := by
    unfold Security.keep
    dsimp only
    split <;> exact ⟨rfl, rfl, rfl, rfl, rfl, rfl⟩
  obtain ⟨hven, hret, hrev, hkeys, hqueue, hpend⟩ := hframe
  unfold Security.applyRec
  dsimp only
  split
  next h6 => exact ⟨hst, hven, fun h => absurd h6 h, fun _ => rfl, fun h => absurd h6 h, hkeys, hqueue, hpend⟩
  next h6 =>
    split
    · exact ⟨hst, hven, fun _ => hret, fun h => absurd h h6, fun _ _ => by rw [← hrev], hkeys, hqueue, hpend⟩
    next hk => exact ⟨hst, hven, fun _ => hret, fun h => absurd h h6, fun _ h => absurd h hk, hkeys, hqueue, hpend⟩

/-- The state in which the effects of an accepted record have been written, before the commit of the ledger. -/
def State.recWritten (s : State) (b : List Byte) : State :=
  let s := s.setSec (fun z => { z.applyRec b with auth := none })
  if recKind b = 4 then s.setProfiles (fun p => { p with next := 3 })
  else if recKind b = 5 then s.setProfiles (fun p => { p with next := 255 }) else s

theorem State.applyRec_eq (s : State) (b : List Byte) : s.applyRec b = (s.recWritten b).commitLedger := rfl

theorem State.recWritten_spec (s : State) (b : List Byte) : (s.recWritten b).security = { s.security.applyRec b with auth := none } ∧
    (s.recWritten b).multi = s.multi ∧ (s.recWritten b).heldWrites = s.heldWrites ∧
    (recKind b = 4 → (s.recWritten b).profiles.next = 3) ∧ (recKind b = 5 → (s.recWritten b).profiles.next = 255) := by
  unfold State.recWritten
  dsimp only
  split
  next h4 => exact ⟨rfl, rfl, rfl, fun _ => rfl, fun h5 => absurd (h4.symm.trans h5) (by decide)⟩
  next h4 =>
    split
    next h5 => exact ⟨rfl, rfl, rfl, fun h => absurd h h4, fun _ => rfl⟩
    next h5 => exact ⟨rfl, rfl, rfl, fun h => absurd h h4, fun h => absurd h h5⟩

/-- An accepted record in effect: store, fuses and revocations, the authorisation closed, the selection of profiles. -/
theorem State.applyRec_spec (s : State) (b : List Byte) :
    LedgerChange { s.security.applyRec b with auth := none } (s.applyRec b).security ∧ (s.applyRec b).multi = s.multi ∧
    (s.applyRec b).heldWrites = s.heldWrites ∧
    (recKind b = 4 → (s.applyRec b).profiles.next = 3) ∧ (recKind b = 5 → (s.applyRec b).profiles.next = 255) := by
  obtain ⟨hsec, hmulti, hheld, h4, h5⟩ := s.recWritten_spec b
  rw [State.applyRec_eq]
  refine ⟨?_, hmulti, hheld, h4, h5⟩
  have hledger := (s.recWritten b).commitLedger_security.1
  rwa [hsec] at hledger

/-- What the record has left of owner, lessee and lifecycle state, by its kind. -/
theorem State.applyRec_stored (s : State) (b : List Byte) : (s.applyRec b).security.stored = s.security.stored.applyRec b s.security.lifecycle ∧
    (s.applyRec b).security.lcCount = s.security.lcCount + 1 ∧ (s.applyRec b).security.auth = none ∧
    (recKind b ≠ 6 → (s.applyRec b).security.retiredFuse = s.security.retiredFuse) ∧ (s.applyRec b).security.vendorFuse = s.security.vendorFuse := by
  obtain ⟨hst, hven, hret, -, -, -, -, -⟩ := s.security.applyRec_spec b
  obtain ⟨hwst, -, hauth, -, hwret, hwven, -, -, -⟩ := (s.applyRec_spec b).1.keeps
  have hstored := hwst.trans hst
  refine ⟨hstored, ?_, hauth, fun h => hwret.trans (hret h), hwven.trans hven⟩
  rw [Security.lcCount, hstored]
  exact StoreVals.applyRec_lcCount _ _ _

/-- The lifecycle state that a record of a live part has left is that of the store. -/
theorem State.applyRec_lifecycle {s : State} {b : List Byte} (hm : s.security.lifecycle ≠ .manufacture) (hr : s.security.lifecycle ≠ .retired)
    (h6 : recKind b ≠ 6) {l : Lifecycle} (hl : (s.security.stored.applyRec b s.security.lifecycle).lifecycle = l) (hlm : l ≠ .manufacture) (hlr : l ≠ .retired) :
    (s.applyRec b).security.lifecycle = l := by
  obtain ⟨hret, hven⟩ := Security.fuses_of_live hm hr
  obtain ⟨hst, -, -, hsret, hsven⟩ := s.applyRec_stored b
  exact Security.lifecycle_of_stored ((hsret h6).trans hret) (hsven.trans hven) ((congrArg StoreVals.lifecycle hst).trans hl) hlm hlr

/-! ### Records that are refused, or accepted (R429) -/

theorem revokeKind_ge : 7 ≤ revokeKind := Nat.le_add_right _ _

/-- A record is accepted from a live state alone. -/
theorem State.live_of_accepted {s : State} {b : List Byte} (h : s.recRefused b = none) :
    s.security.signedBy b = some true ∧ s.security.lifecycle ≠ .manufacture ∧ s.security.lifecycle ≠ .retired := by
  unfold State.recRefused at h
  dsimp only at h
  cases hs : s.security.signedBy b with
  | none => rw [hs] at h; cases h
  | some good =>
    rw [hs] at h
    dsimp only at h
    cases hg : good with
    | false => simp [hg] at h
    | true =>
      rw [hg] at hs
      refine ⟨rfl, fun hm => ?_, fun hr => ?_⟩
      · simp [Security.signedBy, hm, Security.signer] at hs
      · simp [Security.signedBy, hr, Security.signer] at hs

/-- A revocation is no record of any state but VENDOR and REFURBISH. -/
theorem Security.signedBy_of_revocation {z : Security} {b : List Byte} (hkind : recKind b = revokeKind) (hv : z.lifecycle ≠ .vendor)
    (hr : z.lifecycle ≠ .refurbish) : z.signedBy b = none := by
  simp [Security.signedBy, hkind, hv, hr]

theorem State.recRefused_of_unsigned {s : State} {b : List Byte} (h : s.security.signedBy b = none) : s.recRefused b = some .badValue := by
  simp [State.recRefused, h]

theorem State.judgeRec_of_refused {s : State} {b : List Byte} {d : Dst} (h : s.recRefused b = some d) (r : Requester) :
    s.judgeRec b r none = (if d = .auth then s.secRecord 0x42 else s, none) := by
  rw [State.judgeRec, h]
  rfl

theorem State.judgeRec_of_accepted {s : State} {b : List Byte} (h : s.recRefused b = none) (r : Requester) :
    s.judgeRec b r none = if recErases (recKind b) then (s, some ⟨255, .record b, r, none⟩) else (s.applyRec b, none) := by
  rw [State.judgeRec, h]
  rfl

theorem State.lcRecord_of_refused {s : State} {b : List Byte} {d : Dst} (hbusy : s.recBusy = false) (h : s.recRefused b = some d) (r : Requester) :
    s.lcRecord r b none = if d = .auth then s.secRecord 0x42 else s := by
  rw [State.lcRecord, hbusy, if_neg (by simp), State.judgeRec_of_refused h]

theorem State.lcRecord_of_accepted {s : State} {b : List Byte} (hbusy : s.recBusy = false) (h : s.recRefused b = none) (r : Requester) :
    (recErases (recKind b) = false → s.lcRecord r b none = s.applyRec b) ∧
    (recErases (recKind b) = true → s.lcRecord r b none = s.queueErase ⟨255, .record b, r, none⟩) := by
  refine ⟨fun he => ?_, fun he => ?_⟩
  all_goals
    rw [State.lcRecord, hbusy, if_neg (by simp), State.judgeRec_of_accepted h, he]
    rfl

/-- The end of an erase with which a record began: the record takes effect. -/
theorem State.eraseDone_of_record {s : State} {b : List Byte} {r : Requester} (hqueue : s.security.eraseQueue = [⟨255, .record b, r, none⟩]) :
    s.eraseDone = ((s.endErase ⟨255, .record b, r, none⟩).applyRec b).setSec (fun z => { z with eraseQueue := [] }) := by
  rw [State.eraseDone, hqueue]
  rfl

/-- A record that takes effect at once (TRANSFER, LEASE, FINISH). -/
theorem State.applyRec_at_once {s : State} {b : List Byte} (hlive : s.security.lifecycle ≠ .manufacture ∧ s.security.lifecycle ≠ .retired) :
    (recKind b = 1 → (s.applyRec b).security.owner = recOwner b ∧ (s.security.lifecycle = .vendor → (s.applyRec b).security.lifecycle = .owned) ∧
      (s.security.lifecycle ≠ .vendor → (s.applyRec b).security.lifecycle = s.security.lifecycle ∧ (s.applyRec b).security.slot0Secret = [])) ∧
    (recKind b = 2 → (s.applyRec b).security.lifecycle = .leased ∧ (s.applyRec b).security.lessee = recLessee b) ∧
    (recKind b = 5 → (s.applyRec b).security.lifecycle = .owned ∧ (s.applyRec b).security.owner = s.security.nextOwner ∧ (s.applyRec b).profiles.next = 255) := by
  obtain ⟨hm, hr⟩ := hlive
  obtain ⟨hst, -, -, hret, hven⟩ := s.applyRec_stored b
  refine ⟨fun h1 => ?_, fun h2 => ⟨State.applyRec_lifecycle hm hr (by omega) ?_ (by decide) (by decide), ?_⟩,
    fun h5 => ⟨State.applyRec_lifecycle hm hr (by omega) ?_ (by decide) (by decide), ?_, (s.applyRec_spec b).2.2.2.2 h5⟩⟩
  · by_cases hv : s.security.lifecycle = .vendor
    · have hvals : s.security.stored.applyRec b s.security.lifecycle =
          { s.security.stored with lcCount := s.security.stored.lcCount + 1, owner := recOwner b, lifecycle := .owned } := by
        simp [StoreVals.applyRec, h1, hv]
      refine ⟨?_, fun _ => State.applyRec_lifecycle hm hr (by omega) (by rw [hvals]) (by decide) (by decide), fun h => absurd hv h⟩
      rw [Security.owner, hst, hvals]
    · have hvals : s.security.stored.applyRec b s.security.lifecycle =
          { s.security.stored with lcCount := s.security.stored.lcCount + 1, owner := recOwner b, slot0Secret := [] } := by
        simp [StoreVals.applyRec, h1, hv]
      refine ⟨?_, fun h => absurd h hv, fun _ => ⟨Security.lifecycle_congr (hret (by omega)) hven ?_, ?_⟩⟩
      · rw [Security.owner, hst, hvals]
      · rw [hst, hvals]
      · rw [Security.slot0Secret, hst, hvals]
  · simp [StoreVals.applyRec, h2]
  · rw [Security.lessee, hst]
    simp [StoreVals.applyRec, h2]
  · simp [StoreVals.applyRec, h5]
  · rw [Security.owner, hst]
    simp [StoreVals.applyRec, h5, Security.nextOwner]

/-- A record of one of the six commands reaches its judgement. -/
theorem lifecycleCmd_now {s : State} {r : Requester} {b : List Byte} (hon : s.dorubOn r = true) (hserves : s.serves 0x5000 = true) (hmulti : s.multi = none)
    (hlen : b.length = 896) {e : Instr × Nat}
    (he : e ∈ [(Instr.transfer r b, 1), (.lease r b, 2), (.endLease r b, 3), (.refurbish r b, 4), (.finish r b, 5), (.retireRecord r b, 6)])
    (hkind : recKind b = e.2) : exec e.1 s = .next (s.pkgTouch.lcRecord r b none) := by
  have hnow (c : Instr) (k : Nat) (hk : recKind b = k) : lifecycleCmd c k r b s = .next (s.pkgTouch.lcRecord r b none) :=
    (whenServed_now hon hserves hmulti c _).trans (congrArg Host.Outcome.next (if_pos (by simp [hlen, hk])))
  simp only [List.mem_cons, List.not_mem_nil, or_false] at he
  rcases he with rfl | rfl | rfl | rfl | rfl | rfl
  · exact hnow _ 1 hkind
  · exact hnow _ 2 hkind
  · exact hnow _ 3 hkind
  · exact hnow _ 4 hkind
  · exact hnow _ 5 hkind
  · exact hnow _ 6 hkind

/-- A record that begins with an erase takes effect at the erase's end (END_LEASE, REFURBISH, RETIRE). -/
theorem State.record_ends {s : State} {b : List Byte} {r : Requester} (hqueue : s.security.eraseQueue = [⟨255, .record b, r, none⟩])
    (hmulti : s.multi = none) (hheld : s.heldWrites = []) (hm : s.security.lifecycle ≠ .manufacture) (hr : s.security.lifecycle ≠ .retired) {a : State}
    (ha : a = (s.endErase ⟨255, .record b, r, none⟩).applyRec b) :
    s.eraseDone.resumeAll = a.setSec (fun z => { z with eraseQueue := [] }) ∧ a.security.lcCount = s.security.lcCount + 1 ∧ a.security.auth = none ∧
    a.security.erasePending = false ∧ (∀ k, 1 ≤ k → k < 64 → a.keySlot k = {}) ∧
    (recKind b = 3 → a.security.lifecycle = .owned ∧ a.security.lessee = []) ∧
    (recKind b = 4 → a.security.lifecycle = .refurbish ∧ a.security.nextOwner = (if recOwner b = 0 then s.security.owner else recOwner b) ∧
      a.profiles.next = 3) ∧
    (recKind b = 6 → a.security.lifecycle = .retired ∧ a.security.retiredFuse = true) := by
  obtain ⟨hledger, -, hkeys, hemulti, heheld⟩ := s.endErase_spec ⟨255, .record b, r, none⟩
  have hend := State.eraseDone_of_record hqueue
  rw [← ha] at hend
  generalize s.endErase ⟨255, .record b, r, none⟩ = e at *
  obtain ⟨hest, helife, -, -, -, -, -, -, hepend⟩ := hledger.keeps
  have hstored : e.security.stored = s.security.stored := hest
  have hlife : e.security.lifecycle = s.security.lifecycle := helife
  obtain ⟨hrec, hamulti, haheld, h4, -⟩ := e.applyRec_spec b
  obtain ⟨hst, hcount, hauth, -, -⟩ := e.applyRec_stored b
  have hlm : e.security.lifecycle ≠ .manufacture := hlife ▸ hm
  have hlr : e.security.lifecycle ≠ .retired := hlife ▸ hr
  have hlive {l : Lifecycle} (h6 : recKind b ≠ 6) := State.applyRec_lifecycle (l := l) hlm hlr h6
  rw [← ha] at hrec hamulti haheld h4 hst hcount hauth hlive
  obtain ⟨-, -, -, -, hwret, -, hwkeys, -, hwpend⟩ := hrec.keeps
  obtain ⟨-, -, -, hfuse, -, hrkeys, -, hrpend⟩ := e.security.applyRec_spec b
  have hakeys : a.security.keys = e.security.keys := hwkeys.trans hrkeys
  have hretired (h6 : recKind b = 6) : a.security.retiredFuse = true := hwret.trans (hfuse h6)
  rw [hstored] at hst hlive
  refine ⟨?_, ?_, hauth, hwpend.trans (hrpend.trans hepend), fun k hlo hhi => ?_, fun h => ⟨hlive (by omega) ?_ (by decide) (by decide), ?_⟩,
    fun h => ⟨hlive (by omega) ?_ (by decide) (by decide), ?_, h4 h⟩, fun h6 => ⟨if_pos (hretired h6), hretired h6⟩⟩
  · rw [hend]
    exact State.resumeAll_of_none (hamulti.trans (hemulti.trans hmulti)) (haheld.trans (heheld.trans hheld))
  · rw [hcount, Security.lcCount, hstored]
    rfl
  · rw [State.keySlot, hakeys]
    exact hkeys k (EraseJob.mem_keys hlo hhi (Or.inr rfl))
  · simp [StoreVals.applyRec, h]
  · rw [Security.lessee, hst]
    simp [StoreVals.applyRec, h]
  · simp [StoreVals.applyRec, h]
  · rw [Security.nextOwner, hst]
    simp [StoreVals.applyRec, h, Security.owner]

/-- Settles O53. An accepted record is written to the store's older copy, the fuses go before the store, and an erase leaves both. -/
theorem lifecycle : Obligations.Lifecycle := by
  unfold Obligations.Lifecycle
  refine ⟨fun s u r b hon hserves hmulti hlen hu hbusy e he hkind => ?_, fun s r b hqueue hmulti hheld hm hr => ?_,
    fun z => ⟨fun h => by simp [Security.lifecycle, h], fun h h' => by simp [Security.lifecycle, h, h'], fun f => z.keep_spec f⟩,
    fun s u r b hlen hkind hu hbusy => ⟨fun hv hr => ?_, fun hbad h => ?_, fun h => ?_⟩⟩
  · subst hu
    have hbusy' : s.pkgTouch.recBusy = false := hbusy
    have hexec := lifecycleCmd_now hon hserves hmulti hlen he hkind
    refine ⟨fun d hd => hexec.trans (congrArg Host.Outcome.next (State.lcRecord_of_refused hbusy' hd r)), fun hok herase => ?_, fun hok herase hqueue => ?_⟩
    · rw [← hkind] at herase
      obtain ⟨-, hcount, hauth, -, -⟩ := s.pkgTouch.applyRec_stored b
      obtain ⟨h1, h2, h5⟩ := State.applyRec_at_once (s := s.pkgTouch) (b := b) (State.live_of_accepted hok).2
      exact ⟨_, hexec.trans (congrArg Host.Outcome.next ((State.lcRecord_of_accepted hbusy' hok r).1 herase)), hcount, hauth,
        fun h => h1 (hkind.trans h), fun h => h2 (hkind.trans h), fun h => h5 (hkind.trans h)⟩
    · rw [← hkind] at herase
      obtain ⟨hsec, hkeys, -⟩ := State.queueErase_spec (s := s.pkgTouch) ⟨255, .record b, r, none⟩ hqueue
      refine ⟨_, hexec.trans (congrArg Host.Outcome.next ((State.lcRecord_of_accepted hbusy' hok r).2 herase)), ?_, ?_, by rw [hsec], by rw [hsec],
        fun k hlo hhi => hkeys k (EraseJob.mem_keys hlo hhi (Or.inr rfl))⟩
      · rw [hsec]
        rfl
      · rw [hsec]
        rfl
  · obtain ⟨hend, hcount, hauth, hpend, hkeys, h3, h4, h6⟩ := State.record_ends hqueue hmulti hheld hm hr rfl
    refine ⟨_, congrArg Host.Outcome.next hend, ?_⟩
    generalize (s.endErase ⟨255, .record b, r, none⟩).applyRec b = a at *
    exact ⟨hcount, hauth, rfl, hpend, hkeys, h3, h4, h6⟩
  · subst hu
    exact State.recRefused_of_unsigned (Security.signedBy_of_revocation hkind hv hr)
  · subst hu
    obtain ⟨hsigned, -, -⟩ := State.live_of_accepted h
    have hbad' : s.pkgTouch.security.firmwareSigned (slice b 0 0x200) (slice b 0x200 384) = false := by
      rw [Security.firmwareSigned, List.any_eq_false]
      intro k hk
      rcases hbad k (List.mem_range.1 hk) with hrev | hsig
      · simp [hrev]
      · simp [hsig]
    rw [Security.signedBy, if_pos hkind, hbad'] at hsigned
    split at hsigned <;> simp at hsigned
  · subst hu
    have hge := revokeKind_ge
    have hnot : recErases (recKind b) = false := by
      rw [hkind]
      simp only [recErases, Bool.or_eq_false_iff, decide_eq_false_iff_not]
      omega
    rw [(State.lcRecord_of_accepted (s := s.pkgTouch) hbusy h r).1 hnot]
    obtain ⟨-, -, -, -, hrev, -, -, -⟩ := s.pkgTouch.security.applyRec_spec b
    obtain ⟨-, -, -, hwrev, -, -, -, -, -⟩ := (s.pkgTouch.applyRec_spec b).1.keeps
    obtain ⟨-, hcount, -, -, -⟩ := s.pkgTouch.applyRec_stored b
    have hrevoked : (s.pkgTouch.applyRec b).security.revoked = (s.security.revoked ++ [revokedKey b]).eraseDups := hwrev.trans (hrev (by omega) hkind)
    exact ⟨by rw [hrevoked]; simp, fun k hk => by rw [hrevoked]; simp [hk], hcount⟩

end Sys2Proof.Machine
end

section
/-! PROOFS. The warm reset: what it keeps and what it clears (R351, R384, R385, Table 17.1), with O48. -/

namespace Sys2Proof.Machine

/-! ### A slot goes off (Table 9.6) -/

/-- What the end of a slot's work changes: contexts, error records, blocks, slots, counts, and the messages that it sends. -/
def SlotChange (s t : State) : Prop :=
  t = { s with ctxs := t.ctxs, errors := t.errors, blocks := t.blocks, slots := t.slots, tots := t.tots, router := t.router, msgidNext := t.msgidNext,
               sent := t.sent, almanac := { s.almanac with accCur := t.almanac.accCur } }

theorem SlotChange.trans {s t u : State} (ht : SlotChange s t) (hu : SlotChange t u) : SlotChange s u := by
  rw [SlotChange] at ht hu ⊢
  rw [hu, ht]

theorem TotChange.slotChange {s t : State} (h : TotChange s t) : SlotChange s t := by
  rw [TotChange] at h
  rw [h]
  rfl

theorem State.post_slotChange (s : State) (u dst key : Nat) (b : Body) : SlotChange s (s.post u dst key b) := by
  have hsend := s.post_sendChange u dst key b
  have hacc := s.post_accChange u dst key b
  rw [SendChange] at hsend
  rw [AccChange] at hacc
  rw [SlotChange, ← hacc, hsend]

theorem State.endExperts_slotChange (s : State) (k : Nat) (isOver : Nat → Nat → Bool) : SlotChange s (s.endExperts k isOver) :=
  SlotChange.trans (t := s.setSlot k _) rfl (State.bump_totChange _ _ _ _).slotChange

theorem State.statusRecord_slotChange (s : State) (n : Nat) (o : Op) (status : Nat) : SlotChange s (s.statusRecord n o status) := by
  unfold State.statusRecord
  rw [s.capture_frame_of_recorded _ (by decide) (by decide)]
  rfl

theorem State.endQueued_slotChange (s : State) (n : Nat) (x : Ctx) (gone : Op → Bool) (status : Nat) : SlotChange s (s.endQueued n x gone status) := by
  unfold State.endQueued
  dsimp only
  split
  · rfl
  · split
    · rfl
    · exact foldl_holds (fun t => SlotChange s t) _ (fun t o h => h.trans (t.statusRecord_slotChange n o status)) _ _ rfl

theorem State.slotOff_slotChange (s : State) (k : Nat) : SlotChange s (s.slotOff k) := by
  unfold State.slotOff
  split
  · rfl
  · extract_lets e v b c d f
    have he : SlotChange s e := s.endExperts_slotChange k _
    have hc : SlotChange s c := (he.trans (u := b) rfl).trans (State.bump_totChange _ _ _ _).slotChange
    have hd : SlotChange s d := foldl_holds (fun t => SlotChange s t) _ (fun t g h => h.trans (t.post_slotChange _ _ _ _)) _ _ hc
    have hf : SlotChange s f := hd.trans rfl
    exact foldl_holds (fun t => SlotChange s t) _ (fun t p h =>
      (h.trans (u := t.modCtx (6 * k + p) .crown (fun c => endExchange (endWaiting c))) rfl).trans (State.endQueued_slotChange _ _ _ _ _)) _ _ hf

/-! ### Steps of the warm reset (R384, Table 17.1) -/

/-- The package once its slots are off, what it held is counted, and its sessions are closed. -/
def State.warmStopped (s : State) : State :=
  let t := s.enabledSlots.foldl (fun s k => s.slotOff k) s
  (t.slots.foldl (fun (t : State) (e : Nat × Slot) => t.bump (0x3520 + e.1) 6 (e.2.credits.map (·.free)).sum) t).closeSessions (fun _ => true) false

/-- What stopping changes. -/
def StopChange (s t : State) : Prop :=
  t = { s with ctxs := t.ctxs, errors := t.errors, blocks := t.blocks, slots := t.slots, tots := t.tots, router := t.router, msgidNext := t.msgidNext,
               sent := t.sent, almanac := { s.almanac with accCur := t.almanac.accCur }, sessions := t.sessions, events := t.events, net := t.net }

theorem State.warmStopped_stopChange (s : State) : StopChange s s.warmStopped := by
  have hoff : SlotChange s (s.enabledSlots.foldl (fun s k => s.slotOff k) s) :=
    foldl_holds (fun t => SlotChange s t) _ (fun t k h => h.trans (t.slotOff_slotChange k)) _ _ rfl
  unfold State.warmStopped
  dsimp only
  generalize s.enabledSlots.foldl (fun s k => s.slotOff k) s = t at hoff ⊢
  have hcount : SlotChange s (t.slots.foldl (fun (t : State) (e : Nat × Slot) => t.bump (0x3520 + e.1) 6 (e.2.credits.map (·.free)).sum) t) :=
    foldl_holds (fun u => SlotChange s u) _ (fun u e h => h.trans (u.bump_totChange _ _ _).slotChange) _ _ hoff
  generalize t.slots.foldl (fun (t : State) (e : Nat × Slot) => t.bump (0x3520 + e.1) 6 (e.2.credits.map (·.free)).sum) t = u at hcount ⊢
  have hclose := u.closeSessions_hostChange (fun _ => true) false
  rw [SlotChange] at hcount
  rw [HostChange] at hclose
  rw [StopChange, hclose, hcount]

theorem State.warmStopped_sessions (s : State) : s.warmStopped.sessions = [] := by
  refine List.eq_nil_iff_forall_not_mem.2 fun z hz => ?_
  have hno := State.closeSessions_none _ _ _ z hz
  cases hno

/-- The warm column of Table 17.1, objects and blocks apart. -/
def State.warmCleared (s : State) : State :=
  { s with
    ctxs := [], cores := s.cores.filterMap (fun (e : Nat × CoreSt) => if e.2.stretched then some (e.1, { stretched := true }) else none),
    accs := [], srf := [], rescale := [], mem := s.mem.filter (fun c => c.1 < coreBase 0), coreUc := [],
    slots := s.slots.filterMap (fun (e : Nat × Slot) =>
      if e.2.fwdMax = 0 && e.2.bwdMax = 0 then none else some (e.1, { fwdMax := e.2.fwdMax, bwdMax := e.2.bwdMax })), group := {},
    noise := [], msgTable := [], sent := [], reshards := [],
    almanac := { s.almanac with bank2 := .free, shadowEd := 0, shadowTable := [], coord := false, drainLate := false, sealFail := false,
                                switchRejected := false, queried := [], replies := [], lastRound := none } }

/-- Objects, blocks and the warden's state as a warm reset leaves them; PORT_EN of both host ports is given. -/
def State.warmLoaded (s : State) (en : Nat → Bool) (a b : Nat) : State :=
  let s := s.loadProfile (s.profiles.select false 0)
  let s := ((s.setObj 0x1100 1 a).setObj 0x1101 1 b).resetBlocks en
  let s := s.clearWatch.setProfiles (fun p => { p with guardOpen := false, guardRefused := 0 })
  s.setSec (fun z => { z with auth := none, challengeNo := z.randomNext, debugChallengeNo := z.randomNext + 1,
                              randomNext := z.randomNext + 2 })

/-- The warm reset is under way, its cause kept, and the management port has its MAC address. -/
def State.warmBegun (s : State) (mac : Nat) : State := s.setBoot (fun b => { b with warm := true, cause := 2, mgtMac := mac })

/-- The package when its warm reset stands, before the level follows. -/
def State.warmed (s : State) : State :=
  let w := s.warmStopped.warmCleared.warmLoaded (fun b => keepsEn b && (s.warmStopped.block b).en) (s.warmStopped.obj 0x1100 1) (s.warmStopped.obj 0x1101 1)
  w.warmBegun (w.obj 0x1110 3)

theorem State.warmReset_eq (s : State) : s.warmReset = s.warmed.retarget := rfl

/-- A profile that is loaded gives the objects their values; one with no valid copy leaves a record. -/
theorem State.loadProfile_frame (s : State) (n : Nat) : s.loadProfile n = { s with
    objs := (s.loadProfile n).objs, octs := (s.loadProfile n).octs, profiles := (s.loadProfile n).profiles, errors := (s.loadProfile n).errors } := by
  unfold State.loadProfile
  split
  · rfl
  · rw [State.capture_frame_of_deferred _ _ (by decide)]
    rfl

theorem State.retarget_frame (s : State) : s.retarget = { s with power := s.retarget.power, tots := s.retarget.tots } := by
  unfold State.retarget
  dsimp only
  split
  · rfl
  · have h := (s.setPower (fun p => { p with
      target := s.running, dutyTarget := dutyOf s.running, changing := min s.running 7 ≠ p.level })).bump_totChange 0x3400 11 1
    rw [TotChange] at h
    rw [h]
    rfl

/-- CTL.EN of a block after a reset is as given, or that of a block that the part does not have. -/
theorem State.resetBlocks_en {s : State} {en : Nat → Bool} {b : Nat} (h : en b = false) : ((s.resetBlocks en).block b).en = false := by
  have hdefault : (blockDefault b).en = false := by
    unfold blockDefault
    split
    · rfl
    · split
      · rfl
      · split <;> rfl
  have hfold (l : List Nat) (m : Table Block) (hm : (Table.read (blockDefault b) b m).en = false) :
      (Table.read (blockDefault b) b (l.foldl (fun t c => Table.write (blockDefault c) c { cfg := s.cfgAtReset c, en := en c } t) m)).en = false := by
    induction l generalizing m with
    | nil => exact hm
    | cons c l ih =>
      refine ih _ ?_
      unfold Table.write
      dsimp only
      by_cases hc : c = b
      · subst hc
        split
        · rw [Table.read_erase, if_pos rfl]
          exact hdefault
        · rw [Table.read_insert, if_pos rfl]
          exact h
      · split
        · rw [Table.read_erase, if_neg hc]
          exact hm
        · rw [Table.read_insert, if_neg hc]
          exact hm
  exact hfold _ _ hdefault

/-- Memory of which the core memories and shared buffers have been cleared. -/
theorem read_below (m : Table Byte) (lim a : Nat) :
    (lim ≤ a → Table.read 0 a (m.filter (fun c => c.1 < lim)) = 0) ∧ (a < lim → Table.read 0 a (m.filter (fun c => c.1 < lim)) = Table.read 0 a m) := by
  refine ⟨fun h => Table.read_none _ _ _ fun e he heq => ?_, fun h => Table.read_filter _ _ _ _ fun v => by simpa using h⟩
  have hlt : e.1 < lim := by simpa using (List.mem_filter.1 he).2
  omega

theorem State.obj_of_objs {s t : State} (hobjs : t.objs = s.objs) (hpart : t.part = s.part) (i j : Nat) : t.obj i j = s.obj i j := by
  simp only [State.obj, hobjs, hpart]

theorem State.block_of_blocks {s t : State} (h : t.blocks = s.blocks) (b : Nat) : t.block b = s.block b := by simp only [State.block, h]

/-- What loading objects and resetting blocks changes. -/
def LoadChange (s t : State) : Prop :=
  t = { s with objs := t.objs, octs := t.octs, profiles := t.profiles, errors := t.errors, blocks := t.blocks, watch := t.watch, watchNew := t.watchNew,
               live := t.live, watchDue := t.watchDue, security := t.security }

theorem LoadChange.trans {s t u : State} (ht : LoadChange s t) (hu : LoadChange t u) : LoadChange s u := by
  rw [LoadChange] at ht hu ⊢
  rw [hu, ht]

theorem State.loadProfile_loadChange (s : State) (n : Nat) : LoadChange s (s.loadProfile n) := by
  rw [LoadChange, s.loadProfile_frame n]

theorem State.warmLoaded_loadChange (s : State) (en : Nat → Bool) (a b : Nat) : LoadChange s (s.warmLoaded en a b) := by
  have hobjs (t : State) : LoadChange t (((t.setObj 0x1100 1 a).setObj 0x1101 1 b).resetBlocks en) := rfl
  have hwatch (t : State) : LoadChange t (t.clearWatch.setProfiles (fun p => { p with guardOpen := false, guardRefused := 0 })) := rfl
  have hsec (t : State) (f : Security → Security) : LoadChange t (t.setSec f) := rfl
  unfold State.warmLoaded
  dsimp only
  exact ((s.loadProfile_loadChange _).trans (hobjs _)).trans ((hwatch _).trans (hsec _ _))

/-- PORT_EN and CTL.EN once objects and blocks are loaded. -/
theorem State.warmLoaded_spec (s : State) (en : Nat → Bool) (a b : Nat) :
    (s.warmLoaded en a b).security.auth = none ∧ (s.warmLoaded en a b).obj 0x1100 1 = a ∧ (s.warmLoaded en a b).obj 0x1101 1 = b ∧
    (∀ c, en c = false → ((s.warmLoaded en a b).block c).en = false) := by
  unfold State.warmLoaded
  dsimp only
  generalize s.loadProfile (s.profiles.select false 0) = t
  have ha : ((t.setObj 0x1100 1 a).setObj 0x1101 1 b).obj 0x1100 1 = a := (obj_setObj_ne _ b (by decide)).trans (obj_setObj _ _ _ _)
  have hb : ((t.setObj 0x1100 1 a).setObj 0x1101 1 b).obj 0x1101 1 = b := obj_setObj _ _ _ _
  generalize (t.setObj 0x1100 1 a).setObj 0x1101 1 b = u at *
  have hblocks (c : Nat) (hc : en c = false) := State.resetBlocks_en (s := u) hc
  have hobj (i j : Nat) : (u.resetBlocks en).obj i j = u.obj i j := rfl
  generalize u.resetBlocks en = v at *
  exact ⟨rfl, (hobj _ _).trans ha, (hobj _ _).trans hb, hblocks⟩

/-- Settles O48. The steps of the warm reset in their order: slots off and sessions closed, storage cleared, objects and blocks loaded. -/
theorem warmResets : Obligations.WarmResets := by
  unfold Obligations.WarmResets
  refine ⟨fun s r hon hserves hmulti => ?_, fun s => rfl⟩
  have hnow : exec (.warmReset r) s = .next (s.underGuard (fun s => s.resetCmd r 1)).1 := whenServed_now hon hserves hmulti _ _
  refine ⟨fun hg => hnow.trans (congrArg Host.Outcome.next (State.underGuard_of_locked hg _)), fun hg hno => ?_, fun hg hauth hready hdoubt => ?_⟩
  · refine hnow.trans (congrArg Host.Outcome.next ?_)
    rw [State.underGuard_of_open hg, State.resetCmd]
    cases hauth : s.pkgTouch.authorised r with
    | false => rfl
    | true =>
      have hauth' : s.authorised r = true := hauth
      have hrefused : (decide (1 ≠ 1) || decide (s.pkgTouch.boot.state ≠ .ready) || s.pkgTouch.group.inDoubt) = true := by
        rcases hno with h | h | h
        · exact absurd (h.symm.trans hauth') (by decide)
        · simp [h]
        · simp [h]
      exact congrArg Prod.fst (if_pos hrefused)
  · have hreset : (s.underGuard (fun s => s.resetCmd r 1)).1 = s.pkgTouch.warmReset := by
      rw [State.underGuard_of_open hg, State.resetCmd]
      have hauth' : s.pkgTouch.authorised r = true := hauth
      rw [hauth', if_neg (by decide), if_neg (by simp [hready, hdoubt])]
    refine ⟨_, hnow.trans (congrArg Host.Outcome.next hreset), ?_⟩
    have hstop := s.pkgTouch.warmStopped_stopChange
    have hsess := s.pkgTouch.warmStopped_sessions
    rw [State.warmReset_eq, State.retarget_frame, State.warmed]
    dsimp only
    generalize s.pkgTouch.warmStopped = w at hstop hsess ⊢
    have hload := w.warmCleared.warmLoaded_loadChange (fun b => keepsEn b && (w.block b).en) (w.obj 0x1100 1) (w.obj 0x1101 1)
    obtain ⟨hnone, ha, hb, hblocks⟩ := w.warmCleared.warmLoaded_spec (fun b => keepsEn b && (w.block b).en) (w.obj 0x1100 1) (w.obj 0x1101 1)
    generalize w.warmCleared.warmLoaded (fun b => keepsEn b && (w.block b).en) (w.obj 0x1100 1) (w.obj 0x1101 1) = v at *
    have hkeeps : v.boot = w.boot ∧ v.ctxs = [] ∧ v.group = {} ∧ v.sessions = w.sessions ∧ v.almanac = w.warmCleared.almanac ∧
        v.mem = w.warmCleared.mem := by
      rw [LoadChange] at hload
      rw [hload]
      exact ⟨rfl, rfl, rfl, rfl, rfl, rfl⟩
    obtain ⟨hboot, hctxs, hgroup, hsessions, halmanac, hmem⟩ := hkeeps
    generalize v.obj 0x1110 3 = mac
    rw [StopChange] at hstop
    have hwmem : w.mem = s.mem := by rw [hstop]; rfl
    have hobj (i j : Nat) : w.obj i j = s.obj i j := by rw [hstop]; rfl
    have hbyte : v.mem = s.mem.filter (fun c => c.1 < coreBase 0) := by
      rw [hmem, State.warmCleared, hwmem]
    have hcur : w.almanac.cur = s.almanac.cur := by rw [hstop]; rfl
    have hed : w.almanac.curEd = s.almanac.curEd := by rw [hstop]; rfl
    have hstate : w.boot.state = .ready := by rw [hstop]; exact hready
    refine ⟨(congrArg Boot.state hboot).trans hstate, rfl, rfl, fun n x => ?_, hgroup, hsessions.trans hsess, hnone, fun n hn => hblocks n ?_,
      (congrArg Almanac.cur halmanac).trans hcur, (congrArg Almanac.curEd halmanac).trans hed, congrArg Almanac.bank2 halmanac,
      ha.trans (hobj _ _), hb.trans (hobj _ _), fun a h => ?_, fun a h => ?_⟩
    · exact congrArg (fun c : Table Context => Table.read ({} : Context) (ctxKey n x) c) hctxs
    · have hlt : n < 0x60 := by
        have : Config.cores s.part ≤ 0x60 := by cases s.part <;> decide
        omega
      simp [keepsEn, Nat.not_le.2 hlt]
    · exact (congrArg (fun m : Table Byte => Table.read 0 a m) hbyte).trans ((read_below s.mem (coreBase 0) a).1 h)
    · exact (congrArg (fun m : Table Byte => Table.read 0 a m) hbyte).trans ((read_below s.mem (coreBase 0) a).2 h)

end Sys2Proof.Machine
end

section
/-! PROOFS. Cold reset and the start-up sequence (R383, R386 to R393, R442, R449, Table 17.1), with O47. -/

namespace Sys2Proof.Machine

/-! ### Cold reset (R383) -/

/-- The state from which a cold reset keeps what Table 17.1 keeps: a clean stop commits the ledger first. -/
def State.beforeReset (s : State) (clean : Bool) : State := if clean && s.wardenOn then s.commitLedger else s

theorem State.beforeReset_spec (s : State) (clean : Bool) : LedgerChange s.security (s.beforeReset clean).security ∧
    (s.beforeReset clean).mem = s.mem ∧ (s.beforeReset clean).part = s.part ∧ (s.beforeReset clean).pending = s.pending ∧
    (s.beforeReset clean).profiles = s.profiles := by
  unfold State.beforeReset
  split
  · exact ⟨s.commitLedger_security.1, rfl, rfl, rfl, rfl⟩
  · exact ⟨rfl, rfl, rfl, rfl, rfl⟩

theorem coldReset : Parts.ColdReset := by
  intro s powerOn clean
  obtain ⟨hledger, hmem, hpart, hpending, hprofiles⟩ := s.beforeReset_spec clean
  obtain ⟨hst, hlife, -, -, -, -, -, -, -⟩ := hledger.keeps
  have hbyte (a : Nat) := read_below s.mem (coreBase 0) a
  rw [← hmem] at hbyte
  refine ⟨_, rfl, rfl, rfl, hpart, hpending, fun _ _ => rfl, rfl, rfl, rfl, rfl, fun k hlo hhi => ?_, rfl, rfl, ?_,
    hlife, congrArg StoreVals.owner hst, fun a h => (hbyte a).1 h, fun a h => ((hbyte a).2 h).trans (congrArg (fun m : Table Byte => Table.read 0 a m) hmem)⟩
  rotate_left
  · have hsame := congrArg Profiles.profiles hprofiles
    exact hsame
  have hne : (0 : Nat) ≠ k := by omega
  exact congrArg KeySlot.gen (if_neg hne)

/-! ### The dies in their turns (R390, R391) -/

/-- Are there cool rounds enough for the dies, or is the last round cool? -/
def Cool (ds : List Nat) (rounds : List (List Nat)) : Prop :=
  ds.length ≤ (rounds.filter coolRound).length ∨ ∀ r, rounds.getLast? = some r → coolRound r = true

/-- A die's release takes the first cool round, and leaves those after it to the next. -/
theorem cool_cons {d : Nat} {ds : List Nat} {rounds rest : List (List Nat)} {r : List Nat}
    (h : rounds.dropWhile (fun r => !coolRound r) = r :: rest) : Cool (d :: ds) rounds ↔ Cool ds rest := by
  have hsplit : rounds = rounds.takeWhile (fun r => !coolRound r) ++ r :: rest := by rw [← h, List.takeWhile_append_dropWhile]
  have hr : coolRound r = true := by
    have hhead := List.head?_dropWhile_not (fun r => !coolRound r) rounds
    rw [h] at hhead
    simpa using hhead
  have hskip : (rounds.takeWhile (fun r => !coolRound r)).filter coolRound = [] := by
    rw [List.filter_eq_nil_iff]
    intro x hx
    simpa using List.mem_takeWhile_imp hx
  have hcount : (rounds.filter coolRound).length = (rest.filter coolRound).length + 1 := by
    rw [hsplit, List.filter_append, hskip, List.nil_append, List.filter_cons_of_pos hr, List.length_cons]
  have hlast : rounds.getLast? = some (rest.getLastD r) := by
    rw [hsplit, List.getLast?_append, List.getLast?_cons, Option.some_or, List.getLastD_eq_getLast?]
  unfold Cool
  rw [hcount, hlast, List.length_cons]
  cases rest with
  | nil => simp [hr]
  | cons x rest => simp [List.getLast?_cons]

/-- With no cool round left, the last one is hot. -/
theorem not_cool_of_hot {d : Nat} {ds : List Nat} {rounds : List (List Nat)} {r : List Nat}
    (h : rounds.dropWhile (fun r => !coolRound r) = []) (hlast : rounds.getLast? = some r) : ¬ Cool (d :: ds) rounds := by
  have hall : ∀ x ∈ rounds, coolRound x = false := by simpa [List.dropWhile_eq_nil_iff] using h
  have hnone : rounds.filter coolRound = [] := List.filter_eq_nil_iff.2 fun x hx => by simp [hall x hx]
  rintro (hle | hcool)
  · rw [hnone] at hle
    simp at hle
  · exact Bool.false_ne_true ((hall r (List.mem_of_getLast? hlast)).symm.trans (hcool r hlast))

theorem cool_nil (ds : List Nat) : Cool ds [] := Or.inr fun r h => by cases h

theorem Power.mem_release (p : Power) (d e k : Nat) (hk : k < 7) : (e, k) ∈ (p.release d).rails ↔ (e, k) ∈ p.rails ∨ e = d := by
  simp only [Power.release, List.mem_append, List.mem_filter, List.mem_map, List.mem_range]
  constructor
  · rintro (h | ⟨⟨j, -, heq⟩, -⟩)
    · exact Or.inl h
    · exact Or.inr (congrArg Prod.fst heq).symm
  · rintro (h | rfl)
    · exact Or.inl h
    · by_cases hin : (e, k) ∈ p.rails
      · exact Or.inl hin
      · exact Or.inr ⟨⟨k, hk, rfl⟩, by simpa using hin⟩

/-- What the turns leave of the rails: all that stood; of a die that is released, every one; every die where rounds and answers suffice; and not
the last one's where the rounds do not. -/
theorem Power.releaseDies_rails (answered : Nat) (ds : List Nat) (rounds : List (List Nat)) (p : Power) :
    (∀ e ∈ p.rails, e ∈ (Power.releaseDies answered ds rounds p).rails) ∧
    ((∀ d, (d, 0) ∈ p.rails → ∀ k < 7, (d, k) ∈ p.rails) →
      ∀ d, (d, 0) ∈ (Power.releaseDies answered ds rounds p).rails → ∀ k < 7, (d, k) ∈ (Power.releaseDies answered ds rounds p).rails) ∧
    (Cool ds rounds → (∀ d ∈ ds, d < answered) → ∀ d ∈ ds, (d, 0) ∈ (Power.releaseDies answered ds rounds p).rails) ∧
    (¬ Cool ds rounds → ds.Nodup → ∀ d, ds.getLast? = some d → (d, 0) ∉ p.rails → (d, 0) ∉ (Power.releaseDies answered ds rounds p).rails) := by
  induction ds generalizing rounds p with
  | nil => exact ⟨fun e h => h, fun h => h, fun _ _ d h => absurd h List.not_mem_nil, fun _ _ d h => absurd h (by simp)⟩
  | cons d ds ih =>
    have hstep (q : Power) (rest : List (List Nat)) (hq : q.rails = p.rails) (hcool : Cool (d :: ds) rounds ↔ Cool ds rest)
        (t : Power) (ht : t = if d < answered then Power.releaseDies answered ds rest (q.release d) else q.release d) :
        (∀ e ∈ p.rails, e ∈ t.rails) ∧
        ((∀ d, (d, 0) ∈ p.rails → ∀ k < 7, (d, k) ∈ p.rails) → ∀ d, (d, 0) ∈ t.rails → ∀ k < 7, (d, k) ∈ t.rails) ∧
        (Cool (d :: ds) rounds → (∀ e ∈ d :: ds, e < answered) → ∀ e ∈ d :: ds, (e, 0) ∈ t.rails) ∧
        (¬ Cool (d :: ds) rounds → (d :: ds).Nodup → ∀ e, (d :: ds).getLast? = some e → (e, 0) ∉ p.rails → (e, 0) ∉ t.rails) := by
      have hkeep : ∀ e ∈ p.rails, e ∈ (q.release d).rails := fun e he => List.mem_append_left _ (hq ▸ he)
      have hfull (h : ∀ d, (d, 0) ∈ p.rails → ∀ k < 7, (d, k) ∈ p.rails) (e : Nat) (he : (e, 0) ∈ (q.release d).rails) (k : Nat) (hk : k < 7) :
          (e, k) ∈ (q.release d).rails := by
        rw [Power.mem_release _ _ _ _ (by omega), hq] at he
        rw [Power.mem_release _ _ _ _ hk, hq]
        exact he.imp (fun h0 => h e h0 k hk) id
      have hlast (hnot : ¬ Cool (d :: ds) rounds) (hnd : (d :: ds).Nodup) (e : Nat) (he : (d :: ds).getLast? = some e) (hp : (e, 0) ∉ p.rails) :
          ds.getLast? = some e ∧ (e, 0) ∉ (q.release d).rails := by
        cases ds with
        | nil => exact absurd (hcool.2 (Or.inl (Nat.zero_le _))) hnot
        | cons c ds =>
          have hin : (c :: ds).getLast? = some e := by rwa [List.getLast?_cons_cons] at he
          have hne : e ≠ d := fun h => (List.nodup_cons.1 hnd).1 (h ▸ List.mem_of_getLast? hin)
          refine ⟨hin, ?_⟩
          rw [Power.mem_release _ _ _ _ (by omega), hq]
          exact not_or.2 ⟨hp, hne⟩
      have hself : (d, 0) ∈ (q.release d).rails := (Power.mem_release _ _ _ _ (by omega)).2 (Or.inr rfl)
      subst ht
      split
      next hlt =>
        obtain ⟨i1, i2, i3, i4⟩ := ih rest (q.release d)
        refine ⟨fun e he => i1 e (hkeep e he), fun h => i2 (hfull h), fun hc hans e he => ?_, fun hnot hnd e he hp => ?_⟩
        · rcases List.mem_cons.1 he with rfl | he
          · exact i1 _ hself
          · exact i3 (hcool.1 hc) (fun x hx => hans x (List.mem_cons_of_mem _ hx)) e he
        · obtain ⟨hin, hno⟩ := hlast hnot hnd e he hp
          exact i4 (fun h => hnot (hcool.2 h)) (List.nodup_cons.1 hnd).2 e hin hno
      next hge =>
        exact ⟨hkeep, hfull, fun _ hans => absurd (hans d (List.mem_cons_self ..)) hge, fun hnot hnd e he hp => (hlast hnot hnd e he hp).2⟩
    cases hdrop : rounds.dropWhile (fun r => !coolRound r) with
    | cons r rest =>
      have heq : Power.releaseDies answered (d :: ds) rounds p =
          if d < answered then Power.releaseDies answered ds rest ((p.junction r).release d) else (p.junction r).release d := by
        rw [Power.releaseDies, hdrop]
      exact hstep (p.junction r) rest rfl (cool_cons hdrop) _ heq
    | nil =>
      cases hlast : rounds.getLast? with
      | none =>
        have hnil : rounds = [] := List.getLast?_eq_none_iff.1 hlast
        have heq : Power.releaseDies answered (d :: ds) rounds p =
            if d < answered then Power.releaseDies answered ds [] (p.release d) else p.release d := by
          rw [Power.releaseDies, hdrop, hlast]
        exact hstep p [] rfl (by rw [hnil]; exact ⟨fun _ => cool_nil _, fun _ => cool_nil _⟩) _ heq
      | some r =>
        have heq : Power.releaseDies answered (d :: ds) rounds p = p.junction r := by rw [Power.releaseDies, hdrop, hlast]
        rw [heq]
        exact ⟨fun e he => he, fun h => h, fun hc => absurd hc (not_cool_of_hot hdrop hlast), fun _ _ e _ hp => hp⟩

/-! ### Steps of the start-up (R386 to R393) -/

theorem State.vigil_iff (s : State) : s.vigil = true ↔ s.boot.state = .vigil := by simp [State.vigil]

/-- A step of start-up ends in Vigil mode exactly where its condition fails; else it leaves what is said of it. -/
def Stage (c : Prop) (P : State → Prop) (t : State) : Prop := (t.boot.state = .vigil ∧ ¬ c) ∨ (c ∧ t.boot.state ≠ .vigil ∧ P t)

theorem Stage.andThen {c d : Prop} {P Q : State → Prop} {s : State} {f : State → State} (hs : Stage c P s)
    (hf : ∀ t, t.boot.state ≠ .vigil → P t → Stage d Q (f t)) : Stage (c ∧ d) Q (s.andThen f) := by
  rcases hs with ⟨hv, hc⟩ | ⟨hc, hv, hP⟩
  · have hskip : s.andThen f = s := if_pos ((State.vigil_iff s).2 hv)
    rw [hskip]
    exact Or.inl ⟨hv, fun h => hc h.1⟩
  · have hrun : s.andThen f = f s := if_neg fun h => hv ((State.vigil_iff s).1 h)
    rw [hrun]
    exact (hf s hv hP).imp (fun h => ⟨h.1, fun h' => h.2 h'.2⟩) (fun h => ⟨⟨hc, h.1⟩, h.2⟩)

/-- A step that stops on a fatal error. -/
theorem Stage.of_fatal {c : Prop} {P : State → Prop} {s : State} {cls : Nat} (w : ErrAt) (huf : classSev cls = 3) (hc : ¬ c) : Stage c P (s.capture cls w) :=
  Or.inl ⟨(State.capture_of_fatal_keeps w huf).2, hc⟩

theorem Stage.imp {c : Prop} {P Q : State → Prop} {s : State} (hs : Stage c P s) (h : P s → Q s) : Stage c Q s :=
  Or.imp id (fun ⟨hc, hv, hP⟩ => ⟨hc, hv, h hP⟩) hs

theorem Stage.congr {c d : Prop} {P : State → Prop} {s : State} (h : c ↔ d) (hs : Stage c P s) : Stage d P s := by
  rwa [propext h] at hs

/-- What the steps up to the firmware keep: part and revisions of the dies. -/
structure Starting (s t : State) (rails : List (Nat × Nat)) : Prop where
  part : t.part = s.part
  revs : t.boot.revs = s.boot.revs
  rails : t.power.rails = rails

/-- The images of the firmware slots, as they verify. -/
def SameImages (z w : Security) : Prop := w.fwActive = z.fwActive ∧ w.imageOk = z.imageOk

theorem State.startLedger_spec (s : State) : s.startLedger.part = s.part ∧ s.startLedger.boot.revs = s.boot.revs ∧
    s.startLedger.boot.state = s.boot.state ∧ SameImages s.security s.startLedger.security := by
  unfold State.startLedger
  dsimp only
  unfold State.ledgerFault
  split
  · rw [State.secRecord, State.capture_frame_of_deferred _ _ (by decide)]
    exact ⟨rfl, rfl, rfl, rfl, rfl⟩
  · exact ⟨rfl, rfl, rfl, rfl, rfl⟩

theorem State.startStraps_stage {s : State} (h : s.boot.state = .rom) (i : StartInputs) :
    Stage (i.pllOk = true) (fun t => Starting s t [(0, 3)] ∧ SameImages s.security t.security) (s.startLedger.startStraps i) := by
  obtain ⟨hpart, hrevs, hstate, hsec⟩ := s.startLedger_spec
  unfold State.startStraps
  dsimp only
  split
  next hok => exact Or.inr ⟨hok, fun hv => absurd (hv.symm.trans (hstate.trans h)) (by decide), ⟨hpart, hrevs, rfl⟩, hsec⟩
  next hbad => exact Stage.of_fatal _ rfl hbad

/-- The firmware that can run: both images of the active slot, or of the other where the active slot has no warden image. -/
def FirmwareOk (z : Security) (act : Nat) : Prop :=
  (z.imageOk act 1 = true ∧ z.imageOk act 2 = true) ∨
    (z.imageOk act 1 = false ∧ z.imageOk (1 - act) 1 = true ∧ z.imageOk (1 - act) 2 = true)

/-- The die-controller image of the slot whose warden image runs. -/
def State.dieImage (s : State) : State :=
  if s.security.imageOk s.security.fwBooted 2 then s else (s.setSec (fun z => { z with bootRomOnly := true })).capture 0x40 {}

/-- The warden image that passes first, from the active slot on. -/
def State.wardenImage (s : State) (act : Nat) : State :=
  if s.security.imageOk act 1 then s
  else
    let s := s.secRecord 0x41
    if s.security.imageOk (1 - act) 1 then s.setSec (fun z => { z with fwBooted := 1 - act })
    else (s.setSec (fun z => { z with bootRomOnly := true })).capture 0x40 {}

/-- The verification of the firmware begins with the active slot. -/
def State.verifying (s : State) (act : Nat) : State :=
  (s.setBoot (fun b => { b with state := .verify })).setSec (fun z => { z with fwBooted := act })

theorem State.startFirmware_eq (s : State) :
    s.startFirmware = ((s.verifying (s.security.fwActive % 2)).wardenImage (s.security.fwActive % 2)).andThen State.dieImage := rfl

theorem State.wardenImage_stage {s0 s : State} {rails : List (Nat × Nat)} {img : Nat → Nat → Bool} {act : Nat} (hs : Starting s0 s rails)
    (himg : s.security.imageOk = img) (hboot : s.security.fwBooted = act) (hv : s.boot.state ≠ .vigil) :
    Stage (img act 1 = true ∨ img (1 - act) 1 = true) (fun t => Starting s0 t rails ∧ t.security.imageOk = img ∧
      t.security.fwBooted = (if img act 1 then act else 1 - act)) (s.wardenImage act) := by
  unfold State.wardenImage
  rw [himg]
  split
  next hact => exact Or.inr ⟨Or.inl hact, hv, hs, himg, hboot⟩
  next hact =>
    have hrec : s.secRecord 0x41 = { s with errors := (s.secRecord 0x41).errors } := s.capture_frame_of_deferred _ (by decide)
    rw [hrec]
    dsimp only
    rw [himg]
    split
    next hother =>
      refine Or.inr ⟨Or.inr hother, hv, ⟨hs.part, hs.revs, hs.rails⟩, himg, rfl⟩
    next hother => exact Stage.of_fatal _ rfl (not_or.2 ⟨hact, hother⟩)

theorem State.startFirmware_stage {s0 s : State} {rails : List (Nat × Nat)} (hs : Starting s0 s rails) (hsec : SameImages s0.security s.security) :
    Stage (FirmwareOk s0.security (s0.security.fwActive % 2)) (fun t => Starting s0 t rails) s.startFirmware := by
  obtain ⟨hact, himg⟩ := hsec
  rw [State.startFirmware_eq, hact]
  generalize s0.security.fwActive % 2 = act
  have hwarden := State.wardenImage_stage (s0 := s0) (s := s.verifying act) (rails := rails) (img := s0.security.imageOk) (act := act)
    ⟨hs.part, hs.revs, hs.rails⟩ himg rfl (fun h => by cases h)
  have hboth := hwarden.andThen (f := State.dieImage) (d := s0.security.imageOk (if s0.security.imageOk act 1 then act else 1 - act) 2 = true)
    (Q := fun t => Starting s0 t rails) fun t hv ⟨ht, hi, hb⟩ => by
      unfold State.dieImage
      rw [hi, hb]
      generalize (if s0.security.imageOk act 1 then act else 1 - act) = w
      split
      next hok => exact Or.inr ⟨hok, hv, ht⟩
      next hbad => exact Stage.of_fatal _ rfl hbad
  refine hboth.congr ?_
  unfold FirmwareOk
  cases s0.security.imageOk act 1 <;> simp

/-- The profile and the node ID (R388, R389): neither stops the start. -/
theorem State.startProfile_stage {s0 s : State} {rails : List (Nat × Nat)} (hs : Starting s0 s rails) (hv : s.boot.state ≠ .vigil) (i : StartInputs) :
    Stage True (fun t => Starting s0 t rails) (s.startProfile i) := by
  have hrecord (t : State) {cls : Nat} (hde : classSev cls = 1) (ht : Starting s0 t rails ∧ t.boot.state ≠ .vigil) :
      Starting s0 (t.capture cls {}) rails ∧ (t.capture cls {}).boot.state ≠ .vigil := by
    rw [State.capture_frame_of_deferred _ _ hde]
    exact ⟨⟨ht.1.part, ht.1.revs, ht.1.rails⟩, ht.2⟩
  have hload := s.loadProfile_loadChange (s.profiles.select true i.profileSel)
  unfold State.startProfile
  dsimp only
  generalize s.loadProfile (s.profiles.select true i.profileSel) = t at hload ⊢
  have ht : t.part = s.part ∧ t.boot.revs = s.boot.revs ∧ t.boot.state = s.boot.state ∧ t.power.rails = s.power.rails := by
    rw [LoadChange] at hload
    rw [hload]
    exact ⟨rfl, rfl, rfl, rfl⟩
  obtain ⟨hpart, hrevs, hstate, hrails⟩ := ht
  generalize (if t.obj 0x6000 4 = 1 then t.obj 0x6000 5 else i.nodeBalls % 65536) = node
  generalize hu : ((t.setBoot _).resetBlocks earlyEn).clearWatch = u
  have hu0 : Starting s0 u rails ∧ u.boot.state ≠ .vigil := by
    rw [← hu]
    exact ⟨⟨hpart.trans hs.part, hrevs.trans hs.revs, hrails.trans hs.rails⟩, fun h => hv (hstate.symm.trans h)⟩
  have hbad : Starting s0 (if u.boot.nodeBad then u.capture 0x19 {} else u) rails ∧ (if u.boot.nodeBad then u.capture 0x19 {} else u).boot.state ≠ .vigil := by
    split
    · exact hrecord u (by decide) hu0
    · exact hu0
  generalize (if u.boot.nodeBad then u.capture 0x19 {} else u) = w at hbad ⊢
  split
  · exact Or.inr ⟨trivial, hbad.2, hbad.1⟩
  · have hlast := hrecord w (cls := 0x1A) (by decide) hbad
    exact Or.inr ⟨trivial, hlast.2, hlast.1⟩

/-! ### The release of the dies (R390 to R392) -/

/-- The rails when the dies have had their turns. -/
def State.releasedRails (p : Part) (i : StartInputs) (rails : List (Nat × Nat)) : Prop :=
  ∃ q : Power, q.rails = [(0, 3)] ∧ rails = (Power.releaseDies i.dieIds.length (List.range (Config.dies p)) i.junction q).rails

/-- Every die has its rails. -/
def AllOn (p : Part) (rails : List (Nat × Nat)) : Prop := ∀ d < Config.dies p, (d, 0) ∈ rails

theorem State.allReleased_iff (s : State) : s.allReleased = true ↔ AllOn s.part s.power.rails := by
  simp [State.allReleased, AllOn]

theorem State.startRelease_stage {s0 s : State} (hs : Starting s0 s [(0, 3)]) (i : StartInputs) :
    ∃ rails, State.releasedRails s0.part i rails ∧ Stage ((0, 0) ∈ rails → i.pllsOk = true)
      (fun t => Starting s0 t rails ∧ t.boot.state = .release) (s.startRelease i) := by
  obtain ⟨hpart, hrevs, hrails⟩ := hs
  refine ⟨_, ⟨s.power, hrails, rfl⟩, ?_⟩
  unfold State.startRelease
  dsimp only
  rw [← hpart]
  generalize hu : State.setPower _ _ = u
  have hsame : u.part = s.part ∧ u.boot.revs = s.boot.revs ∧ u.boot.state = .release ∧
      u.power.rails = (Power.releaseDies i.dieIds.length (List.range (Config.dies s.part)) i.junction s.power).rails := by
    rw [← hu]
    exact ⟨rfl, rfl, rfl, rfl⟩
  obtain ⟨hup, hur, hus, hurails⟩ := hsame
  rw [← hurails]
  have hstart : Starting s0 u u.power.rails := ⟨hup.trans hpart, hur.trans hrevs, rfl⟩
  have hv : u.boot.state ≠ .vigil := by rw [hus]; decide
  split
  next hno => exact Or.inr ⟨fun h => absurd h (by simpa using hno), hv, hstart, hus⟩
  next hyes =>
    have hin : (0, 0) ∈ u.power.rails := by simpa using hyes
    split
    next hpll => exact Stage.of_fatal _ rfl (fun h => by simp [h hin] at hpll)
    next hpll =>
      have hok : i.pllsOk = true := by simpa using hpll
      split
      · exact Or.inr ⟨fun _ => hok, hv, ⟨hstart.part, hstart.revs, rfl⟩, hus⟩
      · exact Or.inr ⟨fun _ => hok, hv, hstart, hus⟩

/-! ### Identity, training and self-test (R387, R392, R393) -/

theorem State.badPair_of_starting {s t : State} {rails : List (Nat × Nat)} (h : Starting s t rails) : t.badPair = s.badPair := by
  have hrev : t.dieRev = s.dieRev := by
    funext d
    simp only [State.dieRev, h.part, h.revs]
  simp only [State.badPair, h.part, hrev]

theorem State.startNegotiate_stage {s0 s : State} {rails : List (Nat × Nat)} (hs : Starting s0 s rails) (i : StartInputs) :
    Stage (identityOk s0.part i = true ∧ s0.badPair = none) (fun t => Starting s0 t rails) (s.startNegotiate i) := by
  have hs' : Starting s0 (s.setBoot (fun b => { b with state := .negotiate })) rails := ⟨hs.part, hs.revs, hs.rails⟩
  have hpair := State.badPair_of_starting hs'
  unfold State.startNegotiate
  dsimp only
  rw [hpair, hs'.part]
  split
  next hid => exact Stage.of_fatal _ rfl (fun h => by simp [h.1] at hid)
  next hid =>
    have hok : identityOk s0.part i = true := by simpa using hid
    split
    next a b hbad => exact Stage.of_fatal _ rfl (fun h => by simp [h.2] at hbad)
    next hnone => exact Or.inr ⟨⟨hok, hnone⟩, (fun h => by cases h), ⟨hs.part, hs.revs, hs.rails⟩⟩

theorem State.startTrain_stage {s0 s : State} {rails : List (Nat × Nat)} (hs : Starting s0 s rails) (i : StartInputs) :
    Stage (i.ddiOk = true ∧ ∀ k < Config.stackCount s0.part, i.stackOk.getD k true = true) (fun t => Starting s0 t rails) (s.startTrain i) := by
  unfold State.startTrain
  dsimp only
  generalize hu : s.setBoot (fun b => { b with state := .train }) = u
  have hus : Starting s0 u rails ∧ u.boot.state ≠ .vigil := by
    rw [← hu]
    exact ⟨⟨hs.part, hs.revs, hs.rails⟩, fun h => by cases h⟩
  have hbadlist : (List.range (Config.stackCount u.part)).filter (fun k => !i.stackOk.getD k true) = [] ↔
      ∀ k < Config.stackCount s0.part, i.stackOk.getD k true = true := by
    rw [hus.1.part]
    simp [List.filter_eq_nil_iff]
  split
  next hddi => exact Stage.of_fatal _ rfl (fun h => by simp [h.1] at hddi)
  next hddi =>
    have hok : i.ddiOk = true := by simpa using hddi
    split
    next k rest hbad => exact Stage.of_fatal _ rfl (fun h => List.cons_ne_nil _ _ (hbad.symm.trans (hbadlist.2 h.2)))
    next hnone =>
      refine Or.inr ⟨⟨hok, hbadlist.1 hnone⟩, ?_⟩
      split
      · exact ⟨hus.2, ⟨hus.1.part, hus.1.revs, hus.1.rails⟩⟩
      · exact ⟨hus.2, ⟨hus.1.part, hus.1.revs, hus.1.rails⟩⟩

theorem State.startSelftest_stage {s0 s : State} {rails : List (Nat × Nat)} (hs : Starting s0 s rails) (i : StartInputs) :
    Stage ((∀ n ∈ i.coreFail, Config.cores s0.part ≤ n) ∧ (∀ e ∈ i.engineFail, e.1 < Config.cores s0.part → e.2 % 16 = 0))
      (fun t => Starting s0 t rails) (s.startSelftest i) := by
  have hcores : (i.coreFail.filter (· < Config.cores s0.part) ++
      (i.engineFail.filter (fun e => e.1 < Config.cores s0.part && e.2 % 16 ≠ 0)).map (·.1)).eraseDups = [] ↔
      (∀ n ∈ i.coreFail, Config.cores s0.part ≤ n) ∧ (∀ e ∈ i.engineFail, e.1 < Config.cores s0.part → e.2 % 16 = 0) := by
    have hdups (l : List Nat) : l.eraseDups = [] ↔ l = [] := by cases l <;> simp [List.eraseDups_cons]
    rw [hdups, List.append_eq_nil_iff, List.map_eq_nil_iff, List.filter_eq_nil_iff, List.filter_eq_nil_iff]
    simp
  unfold State.startSelftest
  dsimp only
  rw [hs.part]
  split
  next hnone => exact Or.inr ⟨hcores.1 hnone, (fun h => by cases h), ⟨hs.part, hs.revs, hs.rails⟩⟩
  next hsome => exact Stage.of_fatal _ rfl (fun h => hsome (hcores.2 h))

/-! ### READY (R257, R449) -/

/-- What holds of the package when it has become READY. -/
structure Ready (p : Part) (rails : List (Nat × Nat)) (t : State) : Prop where
  state : t.boot.state = .ready
  rails : t.power.rails = rails
  cores : ∀ n < Config.cores p, (t.block (blkCore n)).en = false
  edition : t.almanac.cur = .generated t.boot.node t.boot.dim ∧ t.almanac.curEd = 0
  ports : ∀ q < Config.ports p, (t.fport q).state = if t.boot.nodeBad then .disabled else .training

theorem State.retarget_rails (s : State) : s.retarget.power.rails = s.power.rails := by
  unfold State.retarget
  dsimp only
  split
  · rfl
  · have h := (s.setPower (fun p => { p with
      target := s.running, dutyTarget := dutyOf s.running, changing := min s.running 7 ≠ p.level })).bump_totChange 0x3400 11 1
    rw [TotChange] at h
    rw [h]
    rfl

/-- A table made by listing a value for each key of a range. -/
theorem read_map_range {V : Type} (d : V) (f : Nat → V) (n k : Nat) (hk : k < n) :
    Table.read d k ((List.range n).map (fun p => (p, f p))) = f k := by
  have hlist (l : List Nat) (h : k ∈ l) : Table.read d k (l.map (fun p => (p, f p))) = f k := by
    induction l with
    | nil => cases h
    | cons a l ih =>
      rw [List.map_cons, Table.read]
      split
      next ha => rw [ha]
      next ha => exact ih ((List.mem_cons.1 h).resolve_left (Ne.symm ha))
  exact hlist _ (List.mem_range.2 hk)

/-- The ports as a start leaves them. -/
def State.startedPort (s : State) (p : Nat) : FPort :=
  if s.boot.nodeBad then { out := [.absent] } else { FPort.fresh {} with out := [.train s.boot.node (p % 8) (p / 8)] }

/-- The package at the instant it becomes READY. -/
def State.started (s : State) (ms : Nat) : State := { s with
  boot := { s.boot with state := .ready, timeMs := ms }
  almanac := { cur := .generated s.boot.node s.boot.dim }
  power := { s.power with locked := true, capWatts := s.obj 0x2400 1 }
  fports := (List.range (Config.ports s.part)).map (fun p => (p, s.startedPort p)) }

theorem State.startReady_eq (s : State) (i : StartInputs) : s.startReady i =
    ((((s.resetBlocks (fun b => keepsEn b && !(s.boot.nodeBad && 0x80 ≤ b && b < 0xA0))).started (i.bootMs % 2 ^ 32)).startLinks i.linkUpA i.linkUpB).beat).retarget :=
  rfl

/-- Links, heartbeat and level leave the rest of what the start has set. -/
theorem State.startReady_frame (s : State) (a b : Bool) : ((s.startLinks a b).beat.retarget).boot = s.boot ∧
    ((s.startLinks a b).beat.retarget).almanac = s.almanac ∧ ((s.startLinks a b).beat.retarget).blocks = s.blocks ∧
    ((s.startLinks a b).beat.retarget).fports = s.fports ∧ ((s.startLinks a b).beat.retarget).power.rails = s.power.rails := by
  have hlink (u : State) (p : NetPort) (l : LinkState) : (u.setLink p l).boot = u.boot ∧ (u.setLink p l).almanac = u.almanac ∧
      (u.setLink p l).blocks = u.blocks ∧ (u.setLink p l).fports = u.fports ∧ (u.setLink p l).power = u.power := ⟨rfl, rfl, rfl, rfl, rfl⟩
  have hlinks : (s.startLinks a b).boot = s.boot ∧ (s.startLinks a b).almanac = s.almanac ∧ (s.startLinks a b).blocks = s.blocks ∧
      (s.startLinks a b).fports = s.fports ∧ (s.startLinks a b).power = s.power := by
    unfold State.startLinks
    generalize State.portUpState _ .hostB b = lb
    generalize s.portUpState .hostA a = la
    exact hlink (s.setLink .hostA la) .hostB lb
  generalize s.startLinks a b = u at hlinks ⊢
  obtain ⟨hboot, halmanac, hblocks, hports, hpower⟩ := hlinks
  have hbeat : u.beat.boot = u.boot ∧ u.beat.almanac = u.almanac ∧ u.beat.blocks = u.blocks ∧ u.beat.fports = u.fports ∧ u.beat.power = u.power :=
    ⟨rfl, rfl, rfl, rfl, rfl⟩
  generalize u.beat = v at hbeat ⊢
  obtain ⟨hvboot, hvalmanac, hvblocks, hvports, hvpower⟩ := hbeat
  have hrails := v.retarget_rails
  have hframe := v.retarget_frame
  generalize v.retarget = w at hrails hframe ⊢
  have hw : w.boot = v.boot ∧ w.almanac = v.almanac ∧ w.blocks = v.blocks ∧ w.fports = v.fports := by
    rw [hframe]
    exact ⟨rfl, rfl, rfl, rfl⟩
  exact ⟨hw.1.trans (hvboot.trans hboot), hw.2.1.trans (hvalmanac.trans halmanac), hw.2.2.1.trans (hvblocks.trans hblocks),
    hw.2.2.2.trans (hvports.trans hports), hrails.trans (congrArg Power.rails (hvpower.trans hpower))⟩

theorem State.startReady_stage {s0 s : State} {rails : List (Nat × Nat)} (hs : Starting s0 s rails) (i : StartInputs) :
    Stage True (Ready s0.part rails) (s.startReady i) := by
  rw [State.startReady_eq]
  have hblocks (n : Nat) (hn : n < 0x60) := State.resetBlocks_en (s := s) (en := fun b => keepsEn b && !(s.boot.nodeBad && 0x80 ≤ b && b < 0xA0)) (b := n)
    (by simp [keepsEn, Nat.not_le.2 hn])
  generalize hu : s.resetBlocks (fun b => keepsEn b && !(s.boot.nodeBad && 0x80 ≤ b && b < 0xA0)) = u at hblocks ⊢
  have hus : u.part = s0.part ∧ u.power.rails = rails := by
    rw [← hu]
    exact ⟨hs.part, hs.rails⟩
  generalize i.bootMs % 2 ^ 32 = ms
  obtain ⟨hboot, halmanac, hblk, hports, hrails⟩ := (u.started ms).startReady_frame i.linkUpA i.linkUpB
  generalize ((u.started ms).startLinks i.linkUpA i.linkUpB).beat.retarget = t at *
  have hbooted : (u.started ms).boot = { u.boot with state := .ready, timeMs := ms } := rfl
  have hedition : (u.started ms).almanac = { cur := .generated u.boot.node u.boot.dim } := rfl
  have hlisted : (u.started ms).fports = (List.range (Config.ports u.part)).map (fun p => (p, u.startedPort p)) := rfl
  rw [hbooted] at hboot
  rw [hedition] at halmanac
  rw [hlisted] at hports
  have hstate : t.boot.state = .ready := by rw [hboot]
  refine Or.inr ⟨trivial, (fun h => absurd (hstate.symm.trans h) (by decide)), hstate, hrails.trans hus.2, fun n hn => ?_, by rw [hboot, halmanac]; exact ⟨rfl, rfl⟩, fun q hq => ?_⟩
  · have hlt : n < 0x60 := by
      have : Config.cores s0.part ≤ 0x60 := by cases s0.part <;> decide
      omega
    rw [State.block_of_blocks hblk]
    exact hblocks n hlt
  · rw [State.fport, hports, read_map_range _ _ _ _ (by rw [hus.1]; exact hq), hboot, State.startedPort]
    cases u.boot.nodeBad <;> rfl

/-! ### The whole sequence -/

/-- The steps after the release of the dies. -/
def State.afterRelease (s : State) (i : StartInputs) : State :=
  (((s.startNegotiate i).andThen (fun s => s.startTrain i)).andThen (fun s => s.startSelftest i)).andThen (fun s => s.startReady i)

/-- What those steps ask for. -/
def AfterRelease (s : State) (i : StartInputs) : Prop :=
  (((identityOk s.part i = true ∧ s.badPair = none) ∧ (i.ddiOk = true ∧ ∀ k < Config.stackCount s.part, i.stackOk.getD k true = true)) ∧
    ((∀ n ∈ i.coreFail, Config.cores s.part ≤ n) ∧ (∀ e ∈ i.engineFail, e.1 < Config.cores s.part → e.2 % 16 = 0))) ∧ True

theorem State.afterRelease_stage {s0 s : State} {rails : List (Nat × Nat)} (hs : Starting s0 s rails) (i : StartInputs) :
    Stage (AfterRelease s0 i) (Ready s0.part rails) (s.afterRelease i) :=
  (((State.startNegotiate_stage hs i).andThen fun _ _ h => State.startTrain_stage h i).andThen fun _ _ h =>
    State.startSelftest_stage h i).andThen fun _ _ h => State.startReady_stage h i

/-- Up to the release: PLLs, firmware, profile. -/
def State.beforeRelease (s : State) (i : StartInputs) : State :=
  ((s.startLedger.startStraps i).andThen State.startFirmware).andThen (fun s => s.startProfile i)

theorem State.beforeRelease_stage {s : State} (h : s.boot.state = .rom) (i : StartInputs) :
    Stage ((i.pllOk = true ∧ FirmwareOk s.security (s.security.fwActive % 2)) ∧ True) (fun t => Starting s t [(0, 3)]) (s.beforeRelease i) :=
  ((State.startStraps_stage h i).andThen fun _ _ ht => State.startFirmware_stage ht.1 ht.2).andThen fun _ hv ht => State.startProfile_stage ht hv i

theorem State.coldStart_eq (s : State) (i : StartInputs) : s.coldStart i = (s.beforeRelease i).andThen (fun s =>
    (s.startRelease i).andThen (fun s => if !s.allReleased || i.dieIds.length < Config.dies s.part then s else s.afterRelease i)) := rfl

theorem dies_pos (p : Part) : 0 < Config.dies p := by cases p <;> decide

/-- What the release needs to pass on to the steps after it. -/
def Released (p : Part) (i : StartInputs) : Prop := Cool (List.range (Config.dies p)) i.junction ∧ Config.dies p ≤ i.dieIds.length

/-- Rails after the turns: all on where every die has its release and has answered, and the last die's off where the rounds do not suffice. -/
theorem releasedRails_spec {p : Part} {i : StartInputs} {rails : List (Nat × Nat)} (h : State.releasedRails p i rails) :
    (Released p i → AllOn p rails) ∧ (¬ Cool (List.range (Config.dies p)) i.junction → (Config.dies p - 1, 0) ∉ rails) ∧
    (AllOn p rails → ∀ d < Config.dies p, ∀ k < 7, (d, k) ∈ rails) := by
  obtain ⟨q, hq, rfl⟩ := h
  obtain ⟨-, hfull, hall, hlast⟩ := Power.releaseDies_rails i.dieIds.length (List.range (Config.dies p)) i.junction q
  have hpos := dies_pos p
  have hno (d : Nat) : (d, 0) ∉ q.rails := by
    rw [hq]
    simp
  refine ⟨fun ⟨hcool, hids⟩ d hd => hall hcool (fun e he => by have := List.mem_range.1 he; omega) d (List.mem_range.2 hd),
    fun hhot => hlast hhot List.nodup_range _ ?_ (hno _), fun hon d hd k hk => hfull (fun e he => absurd he (hno e)) d (hon d hd) k hk⟩
  obtain ⟨n, hn⟩ : ∃ n, Config.dies p = n + 1 := ⟨Config.dies p - 1, by omega⟩
  rw [hn, List.range_succ, List.getLast?_append]
  rfl

/-- The conditions of a start that ends READY. -/
def StartOk (s : State) (i : StartInputs) : Prop :=
  i.pllOk = true ∧ i.pllsOk = true ∧ FirmwareOk s.security (s.security.fwActive % 2) ∧ Released s.part i ∧ AfterRelease s i

/-- The start ends READY where every condition holds; else in Vigil mode, or at RELEASE. -/
theorem State.coldStart_spec {s : State} (h : s.boot.state = .rom) (i : StartInputs) :
    ∃ rails, State.releasedRails s.part i rails ∧
      ((StartOk s i ∧ Ready s.part rails (s.coldStart i) ∧ AllOn s.part rails) ∨
       (¬ StartOk s i ∧ (s.coldStart i).boot.state = .vigil) ∨
       (¬ StartOk s i ∧ i.pllOk = true ∧ (s.coldStart i).boot.state = .release ∧ (s.coldStart i).power.rails = rails)) := by
  have hanyrails : ∃ rails, State.releasedRails s.part i rails := ⟨_, { s.power with rails := [(0, 3)] }, rfl, rfl⟩
  rw [State.coldStart_eq]
  rcases State.beforeRelease_stage h i with ⟨hv, hno⟩ | ⟨hyes, hv, hu⟩
  · obtain ⟨rails, hr⟩ := hanyrails
    have hskip (f : State → State) : (s.beforeRelease i).andThen f = s.beforeRelease i := if_pos ((State.vigil_iff _).2 hv)
    rw [hskip]
    exact ⟨rails, hr, Or.inr (Or.inl ⟨fun ⟨hpll, _, hfw, _⟩ => hno ⟨⟨hpll, hfw⟩, trivial⟩, hv⟩)⟩
  · have hrun (f : State → State) : (s.beforeRelease i).andThen f = f (s.beforeRelease i) := if_neg fun h => hv ((State.vigil_iff _).1 h)
    rw [hrun]
    generalize s.beforeRelease i = u at hu ⊢
    obtain ⟨rails, hr, hstage⟩ := State.startRelease_stage hu i
    obtain ⟨hon, hoff, -⟩ := releasedRails_spec hr
    have hfirst (hall : AllOn s.part rails) : (0, 0) ∈ rails := hall 0 (dies_pos _)
    refine ⟨rails, hr, ?_⟩
    rcases hstage with ⟨hv, hno⟩ | ⟨hplls, hv, hst, hrel⟩
    · have hskip (f : State → State) : (u.startRelease i).andThen f = u.startRelease i := if_pos ((State.vigil_iff _).2 hv)
      rw [hskip]
      exact Or.inr (Or.inl ⟨fun ⟨_, hok, _⟩ => hno fun _ => hok, hv⟩)
    · have hrun (f : State → State) : (u.startRelease i).andThen f = f (u.startRelease i) := if_neg fun h => hv ((State.vigil_iff _).1 h)
      rw [hrun]
      generalize u.startRelease i = v at hst hrel ⊢
      have hallon : v.allReleased = true ↔ AllOn s.part rails := by rw [State.allReleased_iff, hst.part, hst.rails]
      split
      next hwait =>
        refine Or.inr (Or.inr ⟨fun ⟨_, _, _, hrd, _⟩ => ?_, hyes.1.1, hrel, hst.rails⟩)
        have hlen := hrd.2
        have hin := hallon.2 (hon hrd)
        rw [hst.part] at hwait
        simp [hin] at hwait
        omega
      next hgo =>
        rw [hst.part] at hgo
        simp only [Bool.or_eq_true, Bool.not_eq_true', decide_eq_true_eq, not_or, Bool.not_eq_false, Nat.not_lt] at hgo
        have hall := hallon.1 hgo.1
        have hcool : Cool (List.range (Config.dies s.part)) i.junction := by
          by_contra hhot
          exact hoff hhot (hall _ (Nat.sub_lt (dies_pos _) Nat.one_pos))
        rcases State.afterRelease_stage hst i with ⟨hvig, hno⟩ | ⟨hafter, -, hready⟩
        · exact Or.inr (Or.inl ⟨fun ⟨_, _, _, _, ha⟩ => hno ha, hvig⟩)
        · exact Or.inl ⟨⟨hyes.1.1, hplls (hfirst hall), hyes.1.2, ⟨hcool, hgo.2⟩, hafter⟩, hready, hall⟩

theorem coolRound_iff (r : List Nat) : coolRound r = true ↔ ∀ x ∈ r, x < 95 := by simp [coolRound]

theorem coldStart : Parts.ColdStart := by
  refine ⟨fun s i act firmware cool hrom htest hact hfw hcool => ?_, fun s die => ⟨fun hrel hd hin hans => ?_, fun h => ?_⟩⟩
  · subst hact
    have hcool' : cool ↔ Cool (List.range (Config.dies s.part)) i.junction := by
      rw [hcool, Cool, List.length_range]
      simp only [coolRound_iff]
      rfl
    have hexec : exec (.coldStart i) s = .next (s.coldStart i) := congrArg Host.Outcome.next (if_pos (by simp [hrom, htest]))
    have hok : StartOk s i ↔ (i.pllOk = true ∧ i.pllsOk = true ∧ firmware ∧ cool ∧ Config.dies s.part ≤ i.dieIds.length ∧
        identityOk s.part i = true ∧ s.badPair = none ∧ i.ddiOk = true ∧ (∀ k < Config.stackCount s.part, i.stackOk.getD k true = true) ∧
        (∀ n ∈ i.coreFail, Config.cores s.part ≤ n) ∧ (∀ e ∈ i.engineFail, e.1 < Config.cores s.part → e.2 % 16 = 0)) := by
      rw [hfw, hcool', StartOk, FirmwareOk, Released, AfterRelease]
      tauto
    obtain ⟨rails, hr, hcases⟩ := State.coldStart_spec hrom i
    obtain ⟨-, hoff, hfull⟩ := releasedRails_spec hr
    rw [← hok]
    refine ⟨_, hexec, ?_⟩
    rcases hcases with ⟨hyes, hready, hall⟩ | ⟨hno, hv⟩ | ⟨hno, hpll, hrel, hrails⟩
    · refine ⟨Or.inl hready.state, iff_of_true hready.state hyes, fun _ => ⟨fun d hd k hk => ?_, hready.cores, hready.edition.1, hready.edition.2, hready.ports⟩,
        fun h => ?_, fun h => absurd (hcool'.2 hyes.2.2.2.1.1) h⟩
      · rw [hready.rails]
        exact hfull hall d hd k hk
      · exact absurd (hyes.1.symm.trans h) (by decide)
    · exact ⟨Or.inr (Or.inl hv), iff_of_false (fun h => absurd (hv.symm.trans h) (by decide)) hno, fun h => absurd (hv.symm.trans h) (by decide),
        fun _ => hv, fun _ => Or.inl hv⟩
    · refine ⟨Or.inr (Or.inr hrel), iff_of_false (fun h => absurd (hrel.symm.trans h) (by decide)) hno, fun h => absurd (hrel.symm.trans h) (by decide),
        fun h => absurd (hpll.symm.trans h) (by decide), fun h => Or.inr ⟨hrel, ?_⟩⟩
      rw [hrails]
      exact hoff fun hc => h (hcool'.2 hc)
  · refine ⟨_, congrArg Host.Outcome.next (if_pos ?_), (State.capture_of_fatal_keeps _ rfl).2⟩
    simp [State.answerDue, hrel, hd, hin, hans]
  · refine congrArg Host.Outcome.next (if_neg ?_)
    rcases h with h | h | h
    · simp [State.answerDue, h]
    · simp [State.answerDue, h]
    · simp [State.answerDue, Nat.not_le.2 h]

/-- Settles O47. Each step of start-up ends in Vigil mode exactly where its condition fails, and READY is what is left when none does. -/
theorem coldStartUp : Obligations.ColdStartUp := ⟨coldReset, coldStart⟩

end Sys2Proof.Machine
end

section
/-! PROOFS. The numerics watch (O30): an evaluation works through the valid entries and the catch-all, each once, and what the rules that fire
change lies outside the table; a write of a whole entry leaves no byte of its old image. -/

namespace Sys2Proof.Machine

/-! ### Tables with rising keys -/

theorem Table.read_of_mem {V : Type} (d : V) {m : Table V} (hm : m.Pairwise (fun a b => a.1 < b.1)) {e : Nat × V} (he : e ∈ m) :
    Table.read d e.1 m = e.2 := by
  induction m with
  | nil => simp at he
  | cons x m ih =>
    obtain ⟨hx, hm⟩ := List.pairwise_cons.1 hm
    rw [Table.read]
    rcases List.mem_cons.1 he with rfl | he
    · rw [if_pos rfl]
    · rw [if_neg (Nat.ne_of_lt (hx e he)), ih hm he]

theorem slice_eq_take_drop (bs : List Byte) {o n : Nat} (h : o + n ≤ bs.length) : slice bs o n = (bs.drop o).take n := by
  refine List.ext_getElem (by simp [slice]; omega) (fun i hi _ => ?_)
  have : i < n := by simpa [slice] using hi
  simp [slice, List.getElem?_eq_getElem (show o + i < bs.length by omega)]

/-! ### Evaluation (R193, R194) -/

/-- What evaluations of entries change: the table, and what the rules that fire change. -/
def WatchChange (s t : State) : Prop := FaultChange { s with watch := t.watch } t

theorem WatchChange.trans {s t u : State} (ht : WatchChange s t) (hu : WatchChange t u) : WatchChange s u := by
  rw [WatchChange, FaultChange] at ht hu ⊢
  rw [hu, ht]

theorem FaultChange.watchChange {s t : State} (h : FaultChange s t) : WatchChange s t := by
  rw [FaultChange] at h
  rw [WatchChange, FaultChange, h]

theorem FaultChange.watch {s t : State} (h : FaultChange s t) : t.watch = s.watch := by
  rw [FaultChange] at h
  rw [h]

theorem WatchChange.keeps {s t : State} (h : WatchChange s t) :
    t.live = s.live ∧ t.watchDue = s.watchDue ∧ t.mem = s.mem := by
  rw [WatchChange, FaultChange] at h
  rw [h]
  exact ⟨rfl, rfl, rfl⟩

theorem State.fireRule_faultChange (s : State) (code entry tid step count : Nat) :
    FaultChange s (s.fireRule code entry tid step count) := by
  unfold State.fireRule
  dsimp only
  have hevent := ((s.bump_eventChange 0x3270 code 1).trans (State.event_eventChange _ 2 0 0xFFFF step
    (leBytes 1 code ++ leBytes 1 0 ++ leBytes 2 entry ++ leBytes 4 tid ++ leBytes 8 count) s.watchKey)).faultChange
  split
  · exact hevent.trans (State.capture_faultChange _ _ (by decide) (by decide))
  · exact hevent

/-- The entry that an evaluation of the counts leaves. -/
def WatchEntry.evaluated (w : WatchEntry) (c : Counts) : WatchEntry := { w with streak := nextStreak w c, c := c }

theorem State.evalEntry_faultChange (s : State) (step att i : Nat) :
    FaultChange { s with watch := Table.insert i ((s.watchEntry i).evaluated (s.liveOf step att i)) s.watch } (s.evalEntry step att i) := by
  unfold State.evalEntry
  exact foldl_holds (FaultChange { s with watch := Table.insert i ((s.watchEntry i).evaluated (s.liveOf step att i)) s.watch }) _
    (fun t r h => h.trans (t.fireRule_faultChange _ _ _ _ _)) _ _ rfl

theorem State.evalEntry_watchChange (s : State) (step att i : Nat) : WatchChange s (s.evalEntry step att i) := by
  have h := s.evalEntry_faultChange step att i
  rw [WatchChange, h.watch]
  exact h

theorem State.watchEntry_evalEntry (s : State) (step att i j : Nat) :
    (s.evalEntry step att i).watchEntry j =
      if j = i then (s.watchEntry i).evaluated (s.liveOf step att i) else s.watchEntry j := by
  rw [State.watchEntry, (s.evalEntry_faultChange step att i).watch, Table.read_insert]
  exact if_congr eq_comm rfl rfl

theorem State.liveOf_of_live {s t : State} (h : t.live = s.live) (step att i : Nat) : t.liveOf step att i = s.liveOf step att i := by
  rw [State.liveOf, State.liveOf, h]

theorem State.evalEntries_watchChange (s : State) (step att : Nat) (ids : List Nat) :
    WatchChange s (ids.foldl (fun s i => s.evalEntry step att i) s) :=
  foldl_holds (WatchChange s) (fun s i => s.evalEntry step att i) (fun t i h => h.trans (t.evalEntry_watchChange step att i)) ids s rfl

theorem State.watchEntry_evalEntries (step att j : Nat) {ids : List Nat} (hids : ids.Nodup) (s : State) :
    (ids.foldl (fun s i => s.evalEntry step att i) s).watchEntry j =
      if j ∈ ids then (s.watchEntry j).evaluated (s.liveOf step att j) else s.watchEntry j := by
  induction ids generalizing s with
  | nil => rfl
  | cons i ids ih =>
    obtain ⟨hi, hids⟩ := List.nodup_cons.1 hids
    rw [List.foldl_cons, ih hids, State.watchEntry_evalEntry, State.liveOf_of_live (s.evalEntry_watchChange step att i).keeps.1]
    by_cases hj : j = i
    · subst hj
      simp [hi]
    · simp [hj]

/-- The entries that an evaluation works through: the valid ones, and the catch-all. -/
def State.watchIds (s : State) : List Nat := (s.watch.filter (fun e => e.2.valid || e.1 = 0)).map (fun e => e.1)

theorem State.watchIds_nodup {s : State} (h : s.watch.Pairwise (fun a b => a.1 < b.1)) : s.watchIds.Nodup :=
  List.pairwise_map.2 ((h.filter _).imp (fun hab => Nat.ne_of_lt hab))

theorem State.mem_watchIds {s : State} (h : s.watch.Pairwise (fun a b => a.1 < b.1)) {e : Nat × WatchEntry} (he : e ∈ s.watch) :
    e.1 ∈ s.watchIds ↔ e.2.valid = true ∨ e.1 = 0 := by
  rw [State.watchIds, List.mem_map]
  refine ⟨fun ⟨x, hx, hxe⟩ => ?_, fun hv => ⟨e, List.mem_filter.2 ⟨he, by simpa using hv⟩, rfl⟩⟩
  obtain ⟨hx, hv⟩ := List.mem_filter.1 hx
  have : x.2 = e.2 := by rw [← Table.read_of_mem {} h hx, hxe, Table.read_of_mem {} h he]
  simpa [this, hxe] using hv

/-- The live counts of an attempt cleared, and the attempt taken off the list. -/
def State.watchDone (s : State) (d : WatchDue) : State :=
  { s with live := s.live.filter (fun l => !(l.step == d.step && l.att == d.att)), watchDue := s.watchDue.erase d }

theorem State.evaluate_of_repeat {s : State} {d : WatchDue} (h : d.evaluate = false) : s.evaluate d = s.watchDone d :=
  if_pos (by simp [h])

/-- The host writes since the last evaluation in force (R192). -/
def State.watchTaken (s : State) : State :=
  { s with watch := s.watchNew.foldl (fun t (e : Nat × WatchEntry) => Table.write {} e.1 e.2 t) s.watch, watchNew := [] }

theorem State.watchTaken_of_none {s : State} (h : s.watchNew = []) : s.watchTaken = s := by
  cases s
  subst h
  rfl

theorem State.evaluate_of_due {s : State} {d : WatchDue} (h : d.evaluate = true) :
    s.evaluate d = ((s.watchTaken.watchIds.foldl (fun s i => s.evalEntry d.step d.att i) s.watchTaken).watchDone d).setTot 0x7500 2 d.step :=
  if_neg (by simp [h])

theorem parts_watchEvaluation : Parts.WatchEvaluation := by
  intro s d hdue hnew hwf
  have hexec : exec .watchEvaluation s = .next (s.evaluate d) := by
    show execWatchEvaluation s = _
    rw [execWatchEvaluation, hdue]
  have hrise := ((Table.wf_iff _ _).1 hwf).1
  refine ⟨fun hd => by rw [hexec, State.evaluate_of_repeat hd]; rfl, fun hd => ?_⟩
  have hch := s.evalEntries_watchChange d.step d.att s.watchIds
  have hent (j : Nat) := State.watchEntry_evalEntries d.step d.att j (State.watchIds_nodup hrise) s
  rw [hexec, State.evaluate_of_due hd, State.watchTaken_of_none hnew]
  generalize s.watchIds.foldl (fun s i => s.evalEntry d.step d.att i) s = u at hch hent
  obtain ⟨hlive, hwd, hmem⟩ := hch.keeps
  refine ⟨_, rfl, congrArg (List.filter _) hlive, congrArg (fun l => l.erase d) hwd, tot_setTot _ _ _ _, hmem, ?_, ?_⟩
  · intro e he hv
    refine (hent e.1).trans ((if_pos ((State.mem_watchIds hrise he).2 (Or.inl hv))).trans ?_)
    rw [State.watchEntry, Table.read_of_mem _ hrise he]
    rfl
  · intro e he hv h0
    refine (hent e.1).trans ((if_neg (mt (State.mem_watchIds hrise he).1 (by simp [hv, h0]))).trans ?_)
    exact Table.read_of_mem _ hrise he

/-! ### Writes of the table (R192) -/

theorem WatchEntry.length_bytes (w c : WatchEntry) : (w.bytes c).length = 64 := by
  unfold WatchEntry.bytes
  repeat rw [List.length_append]
  repeat rw [length_leBytes]

theorem patch_of_whole {old new : List Byte} (h : new.length = old.length) : patch old 0 new = new := by
  simp [patch, ← h]

theorem slice_of_whole (b : List Byte) : slice b 0 b.length = b := by
  rw [slice_eq_take_drop b (by omega), List.drop_zero, List.take_length]

theorem State.writeWatch_of_whole (s : State) {i : Nat} {b : List Byte} (hi : i < 1024) (hb : b.length = 64) :
    s.writeWatch (64 * i) b = { s with watchNew := Table.insert i (s.watchAfter (s.watchWritten i) b 0 64) s.watchNew } := by
  have hfirst : 64 * i / 64 = i := by omega
  have hcount : min 1024 ((64 * i + 64 + 63) / 64) - i = 1 := by omega
  have himg : patch ((s.watchWritten i).bytes (s.watchWritten i)) 0 (slice b 0 64) = b := by
    rw [← hb, slice_of_whole,
      patch_of_whole (by rw [hb, WatchEntry.length_bytes])]
  unfold State.writeWatch
  dsimp only
  rw [hb, hfirst, hcount, List.range_one, List.foldl_cons, List.foldl_nil]
  simp only [Nat.add_zero, Nat.max_self, Nat.min_self, Nat.sub_self, Nat.add_sub_cancel_left, Nat.sub_zero, himg]

theorem State.watchAfter_of_whole (s : State) (old : WatchEntry) {b : List Byte} (hb : b.length = 64) :
    s.watchAfter old b 0 64 =
      { tid := leNat (b.take 4), valid := bitOf (leNat ((b.drop 4).take 1)) 0,
        zsLimit := max 2 (min 4095 (leNat ((b.drop 6).take 2))), zsPpm := max 500000 (min 1000000 (leNat ((b.drop 8).take 4))),
        satPpm := min 1000000 (leNat ((b.drop 12).take 4)),
        streak := if leNat (b.take 4) ≠ old.tid ∨ bitOf (leNat ((b.drop 4).take 1)) 0 ≠ old.valid then 0 else old.streak, c := old.c } := by
  simp [State.watchAfter, clampTo, slice_eq_take_drop b, hb]

theorem parts_watchTableWrite : Parts.WatchTableWrite := by
  intro s i b w hboot hmulti hi hb hw
  have hon : (s.boot.state = .ready || s.vigil) = true := by
    rcases hboot with h | h <;> simp [State.vigil, h]
  refine ⟨s.pkgTouch.writeWatch (64 * i) b, ?_, ?_⟩
  · exact congrArg Host.Outcome.next ((State.unlessMulti_of_free hmulti _ _).trans (if_pos hon))
  · rw [State.writeWatch_of_whole _ hi hb, State.watchAfter_of_whole _ _ hb, hw]
    refine ⟨fun j => rfl, fun j hj => ?_, ?_⟩
    · exact (Table.read_insert _ _ _ _ _).trans (if_neg (Ne.symm hj))
    · exact (Table.read_insert _ _ _ _ _).trans (if_pos rfl)

/-- Settles O30: an evaluation by induction on the entries that it works through, a write of a whole entry by its fields. -/
theorem watchTable : Obligations.WatchTable := ⟨parts_watchEvaluation, parts_watchTableWrite⟩

end Sys2Proof.Machine
end

section
/-! PROOFS. Credits and queues (O26): a slot's list of counters under a grant, a returned credit and a revocation; the outcome of a queue part by
the first check that it fails; the next decision of the scheduler. -/

namespace Sys2Proof.Machine

theorem slot_setSlot_ne (s : State) {j k : Nat} (h : j ≠ k) (v : Slot) : (s.setSlot k v).slot j = s.slot j :=
  Table.read_write_ne _ (Ne.symm h) _ _

theorem slot_modSlot (s : State) (k : Nat) (f : Slot → Slot) : (s.modSlot k f).slot k = f (s.slot k) := slot_setSlot _ _ _

theorem State.bump_slots (s : State) (i j n : Nat) : (s.bump i j n).slots = s.slots := by
  have h := s.bump_totChange i j n
  rw [TotChange] at h
  rw [h]

theorem slot_bump (s : State) (i j n k : Nat) : (s.bump i j n).slot k = s.slot k := slot_of_slots (s.bump_slots i j n) k

/-! ### Counters of a producing slot (R203) -/

section
variable {v : Slot} {d : NodeSlot} {q : QKind}

theorem Slot.credit_eq (v : Slot) (d : NodeSlot) (q : QKind) : v.credit d q = v.credits.find? (fun c => c.dst == d && c.queue == q) := rfl

theorem Slot.credit_names {c : Credit} (h : v.credit d q = some c) : c.dst = d ∧ c.queue = q := by
  simpa using List.find?_some h

theorem Slot.credit_append (h : v.credit d q = none) (c : Credit) (hd : c.dst = d) (hq : c.queue = q) :
    Slot.credit { v with credits := v.credits ++ [c] } d q = some c := by
  rw [Slot.credit_eq] at h ⊢
  rw [List.find?_append, h]
  simp [hd, hq]

theorem Slot.credit_setCredit {c c' : Credit} (h : v.credit d q = some c) (hd : c'.dst = d) (hq : c'.queue = q) :
    (v.setCredit c').credit d q = some c' := by
  rw [Slot.credit_eq] at h ⊢
  rw [Slot.setCredit]
  dsimp only
  generalize v.credits = cs at h ⊢
  induction cs with
  | nil => simp at h
  | cons x l ih =>
    rw [List.map_cons, List.find?_cons]
    rw [List.find?_cons] at h
    by_cases hx : x.dst = d ∧ x.queue = q
    · simp [hx.1, hx.2, hd, hq]
    · have hx' : (x.dst == d && x.queue == q) = false := by simpa using fun h => (not_and.1 hx h)
      rw [hx'] at h
      have hkeep : (if x.dst = c'.dst && x.queue = c'.queue then c' else x) = x := if_neg (by simpa [hd, hq] using fun h => (not_and.1 hx h))
      rw [hkeep, hx']
      exact ih h

theorem Slot.credit_revoked (v : Slot) (d : NodeSlot) (q : QKind) :
    Slot.credit { v with credits := v.credits.filter (fun x => !(x.dst == d && x.queue == q)) } d q = none := by
  rw [Slot.credit_eq]
  refine List.find?_eq_none.2 (fun x hx => ?_)
  simpa [imp_iff_not_or] using (List.mem_filter.1 hx).2

end

theorem onCredit_of_up {s : State} {k : Nat} (hk : k < Config.slots s.part) (hup : s.up = true) (m : CreditMsg) (t : State) :
    onCredit s m k t = .next t :=
  congrArg Host.Outcome.next ((if_neg (by omega)).trans (if_pos hup))

/-- A slot set, and totals counted: the other slots and memory stay. -/
theorem setSlot_bump_spec (s : State) (k : Nat) (v : Slot) (i j n : Nat) :
    ((s.setSlot k v).bump i j n).slot k = v ∧ (∀ l, l ≠ k → ((s.setSlot k v).bump i j n).slot l = s.slot l) ∧
      ((s.setSlot k v).bump i j n).mem = s.mem := by
  refine ⟨(slot_bump _ _ _ _ _).trans (slot_setSlot _ _ _), fun l hl => (slot_bump _ _ _ _ _).trans (slot_setSlot_ne _ hl _), ?_⟩
  rw [State.bump_mem]
  rfl

theorem parts_credits : Parts.Credits := by
  intro k share d q key s hk hup
  have hgrant : exec (.grant k d q share) s = .next (s.granted k d q share) := onCredit_of_up hk hup _ _
  have hret : exec (.creditReturn k d q key) s = .next (s.creditReturned k d q key) := onCredit_of_up hk hup _ _
  have hrev : exec (.revoke k d q) s = .next (s.revoked k d q) := onCredit_of_up hk hup _ _
  rw [hgrant, hret, hrev]
  refine ⟨fun hnone hlen => ?_, fun hnone hlen => ?_, fun hnone => ?_, fun c hc => ⟨?_, fun hin => ?_, fun hout => ?_, ?_⟩⟩
  · obtain ⟨hv, hothers, hmem⟩ := setSlot_bump_spec s k
      { s.slot k with credits := (s.slot k).credits ++ [{ dst := d, queue := q, free := share }] } (0x3520 + k) 3 share
    refine ⟨_, rfl, ?_⟩
    rw [State.granted, hnone]
    dsimp only
    rw [if_pos hlen]
    exact ⟨by rw [hv]; exact Slot.credit_append hnone _ rfl rfl, hothers, hmem⟩
  · rw [State.granted, hnone]
    exact congrArg Host.Outcome.next (if_neg (by omega))
  · rw [State.creditReturned, State.revoked, hnone]
    exact ⟨rfl, rfl⟩
  all_goals obtain ⟨hd, hq⟩ := Slot.credit_names hc
  · obtain ⟨hv, hothers, hmem⟩ := setSlot_bump_spec s k ((s.slot k).setCredit { c with free := share, outbound := [] }) (0x3520 + k) 3 share
    refine ⟨_, rfl, ?_⟩
    rw [State.granted, hc]
    refine ⟨?_, fun j hj => (slot_bump _ _ _ _ _).trans (hothers j hj), (State.bump_mem _ _ _ _).trans hmem⟩
    exact (congrArg (fun v => Slot.credit v d q) ((slot_bump _ _ _ _ _).trans hv)).trans (Slot.credit_setCredit hc hd hq)
  · refine ⟨_, rfl, ?_⟩
    rw [State.creditReturned, hc]
    dsimp only
    rw [if_pos hin]
    refine ⟨?_, fun j hj => (slot_setSlot_ne _ hj _).trans (slot_bump _ _ _ _ _), State.bump_mem _ _ _ _⟩
    exact (congrArg (fun v => Slot.credit v d q) (slot_setSlot _ _ _)).trans (Slot.credit_setCredit hc hd hq)
  · rw [State.creditReturned, hc]
    exact congrArg Host.Outcome.next (if_neg (by rw [hout]; exact Bool.false_ne_true))
  · obtain ⟨hv, hothers, hmem⟩ := setSlot_bump_spec s k
      { s.slot k with credits := (s.slot k).credits.filter (fun x => !(x.dst == d && x.queue == q)) } (0x3520 + k) 6 c.free
    refine ⟨_, rfl, ?_⟩
    rw [State.revoked, hc]
    exact ⟨(congrArg (fun v => Slot.credit v d q) hv).trans (Slot.credit_revoked _ _ _), hothers, hmem⟩

/-! ### Queue parts (R202, R205, R213, R214) -/

section
variable {s : State} {p : QueuePart} (hen : s.slotEn p.slot = true)
  (hprod : (s.producers p.slot p.queue).any (fun e => e.1 == p.producer) = true) (hkey : p.key = s.slotKey p.slot)
include hen hprod hkey

theorem State.placePart_of_ended (hend : s.attEnded (mbStep p.word.toNat) (mbAtt p.word.toNat) = true) :
    s.placePart p = ((s.bump (0x3280 + p.slot) 9 1).returnOpened p.slot p, 0) := by
  simp [State.placePart, hen, hprod, hkey, hend]

variable (hend : s.attEnded (mbStep p.word.toNat) (mbAtt p.word.toNat) = false)
include hend

theorem State.placePart_of_wrong (hdue : s.wordDue p.slot p.word.toNat = true) (hwrong : s.versionWrong p.slot p.word.toNat = true) :
    s.placePart p = ((s.returnOpened p.slot p).versionError p.slot p.word.toNat, 1) := by
  simp [State.placePart, hen, hprod, hkey, hend, hdue, hwrong]

variable (hver : s.wordDue p.slot p.word.toNat = false ∨ s.versionWrong p.slot p.word.toNat = false)
include hver

theorem State.placePart_of_large (hlen : s.partMax p.slot < p.bytes.length) : s.placePart p = s.refusePart p.slot p := by
  simp [State.placePart, hen, hprod, hkey, hend, Bool.and_eq_false_iff.2 hver, hlen]

theorem State.placePart_of_new (hpos : (s.positions p.slot).contains (mbPart p.word.toNat) = true) (hlen : p.bytes.length ≤ s.partMax p.slot)
    (hnew : ((s.slot p.slot).queue p.queue).find? (fun e => e.key == mbKey p.word.toNat) = none) : s.placePart p = s.storePart p.slot p := by
  have hpos' : mbPart p.word.toNat ∈ s.positions p.slot := by simpa using hpos
  simp [State.placePart, hen, hprod, hkey, hend, Bool.and_eq_false_iff.2 hver, hlen, hpos', hnew]

end

theorem State.storePart_of_new {s : State} {k : Nat} {p : QueuePart} {ring : Nat}
    (hnew : ((s.slot k).queue p.queue).find? (fun e => e.key == mbKey p.word.toNat) = none)
    (hring : freeRing ((s.slot k).queue p.queue) = some ring)
    (hfits : unitsUsed ((s.slot k).queue p.queue) + partUnits p.bytes.length ≤ s.headUnits k p.queue) :
    s.storePart k p = (s.modSlot k (fun v => v.setQueue p.queue ((s.slot k).queue p.queue ++
      [{ ring := ring, key := mbKey p.word.toNat, producer := p.producer,
         parts := [{ pos := mbPart p.word.toNat, word := p.word, size := p.bytes.length, bytes := p.bytes, spilled := false }] }])), 0) := by
  simp only [State.storePart, hnew, hring, decide_eq_true hfits, Bool.not_true, if_pos hfits]

/-! ### Decisions (R208, R209) -/

theorem Slot.queue_setQueue (v : Slot) (q : QKind) (es : List QEntry) : (v.setQueue q es).queue q = es := by
  cases q <;> rfl

theorem State.nextDecision_backward {s : State} {k : Nat} {e : QEntry} (h : s.lowestEntry k .backward = some e) :
    s.nextDecision k 0 = some (.backward, e) := by
  simp [State.nextDecision, h]

theorem State.nextDecision_forward {s : State} {k : Nat} {e : QEntry} (hb : s.lowestEntry k .backward = none)
    (hf : s.lowestEntry k .forward = some e) (hahead : (s.slot k).flying.length < s.fwdAhead k) :
    s.nextDecision k 0 = some (.forward, e) := by
  simp [State.nextDecision, hb, hf, hahead]

/-! ### Accesses to HBM (R309 to R313) -/

/-- What an access to HBM changes: memory, the state of its units, and what their errors count and record. -/
def HbmChange (s t : State) : Prop :=
  t = { s with mem := t.mem, unitKey := t.unitKey, unitCode := t.unitCode, mcErr := t.mcErr, tots := t.tots, errors := t.errors, security := t.security }

theorem HbmChange.trans {s t u : State} (ht : HbmChange s t) (hu : HbmChange t u) : HbmChange s u := by
  rw [HbmChange] at ht hu ⊢
  rw [hu, ht]

theorem TotChange.hbmChange {s t : State} (h : TotChange s t) : HbmChange s t := by
  rw [TotChange] at h
  rw [h]
  rfl

theorem HbmChange.keeps {s t : State} (h : HbmChange s t) : t.slots = s.slots ∧ t.blocks = s.blocks ∧ t.ctxs = s.ctxs ∧ t.group = s.group ∧
    t.objs = s.objs ∧ t.octs = s.octs ∧ t.part = s.part := by
  rw [HbmChange] at h
  rw [h]
  exact ⟨rfl, rfl, rfl, rfl, rfl, rfl, rfl⟩

theorem State.bump_hbmChange (s : State) (i j n : Nat) : HbmChange s (s.bump i j n) := (s.bump_totChange i j n).hbmChange

theorem State.capture_hbmChange (s : State) {cls : Nat} (w : ErrAt) (huf : classSev cls ≠ 3) : HbmChange s (s.capture cls w) := by
  by_cases hce : classSev cls = 0
  · rw [HbmChange, s.capture_frame_of_corrected w hce]
  · rw [HbmChange, s.capture_frame_of_recorded w hce huf]

theorem State.demandUnit_hbmChange (s : State) (u : Nat) : HbmChange s (s.demandUnit u).1 := by
  unfold State.demandUnit
  dsimp only
  split
  · rfl
  · split
    · rfl
    · dsimp only
      have hcount (w : ErrAt) : HbmChange s (((s.mcCount (stackOf s.part (u * 64)) 1 0).bump (0x3300 + stackOf s.part (u * 64)) 1 1).capture 0x01 w) :=
        (HbmChange.trans (t := s.mcCount (stackOf s.part (u * 64)) 1 0) rfl (State.bump_hbmChange _ _ _ _)).trans (State.capture_hbmChange _ w (by decide))
      split
      · exact (hcount _).trans rfl
      · exact hcount _
    · exact (HbmChange.trans (t := (s.setCond u { poison := true }).mcCount (stackOf s.part (u * 64)) 0 1) rfl (State.bump_hbmChange _ _ _ _)).trans
        (State.capture_hbmChange (cls := 0x21) _ _ (by decide))
    · exact (HbmChange.trans (t := s.mcCount (stackOf s.part (u * 64)) 0 1) rfl (State.bump_hbmChange _ _ _ _)).trans
        (State.capture_hbmChange (cls := 0x21) _ _ (by decide))

theorem State.keyRefused_hbmChange (s : State) (a : Nat) : HbmChange s (s.keyRefused a) :=
  (s.bump_hbmChange _ _ _).trans (State.capture_hbmChange (cls := 0x20) _ _ (by decide))

theorem foldl_fst_hbmChange {α γ : Type} {g : State × γ → α → State × γ} (h : ∀ p a, HbmChange p.1 (g p a).1) (l : List α) (p : State × γ) :
    HbmChange p.1 (l.foldl g p).1 := by
  induction l generalizing p with
  | nil => rfl
  | cons a l ih => exact (h p a).trans (ih (g p a))

theorem State.hbmRead_hbmChange (s : State) (k a n : Nat) : HbmChange s (s.hbmRead k a n).1 := by
  unfold State.hbmRead
  split
  · exact s.keyRefused_hbmChange a
  · exact foldl_fst_hbmChange (fun v u => (v.1.demandUnit_hbmChange u).trans (State.bump_hbmChange _ _ _ _)) _ (s, true)

theorem State.hbmWriteUnit_hbmChange (s : State) (k a : Nat) (bs : List Byte) (u : Nat) : HbmChange s (s.hbmWriteUnit k a bs u).1 := by
  unfold State.hbmWriteUnit
  extract_lets part g t
  have ht : HbmChange s t := s.bump_hbmChange _ _ _
  split
  · exact ht.trans rfl
  · dsimp only
    have hu : HbmChange s (t.demandUnit u).1 := ht.trans (t.demandUnit_hbmChange u)
    split
    · exact hu
    · exact hu.trans rfl

theorem State.hbmWrite_hbmChange (s : State) (k a : Nat) (bs : List Byte) : HbmChange s (s.hbmWrite k a bs).1 := by
  unfold State.hbmWrite
  split
  · exact s.keyRefused_hbmChange a
  · refine foldl_fst_hbmChange (fun v u => ?_) _ (s, true)
    dsimp only
    split
    · exact (v.1.hbmWriteUnit_hbmChange k a bs u).trans (State.bump_hbmChange _ _ _ _)
    · exact v.1.hbmWriteUnit_hbmChange k a bs u

/-! ### A spilled part (R205) -/

theorem State.spillCopy_of_one {s u : State} {k : Nat} {q : QKind} {e : QEntry} {p : PartSt} {bs : List Byte}
    (hq : (s.slot k).queue q = [e]) (hc : s.complete? k e = true) (hp : e.parts = [p]) (hsp : p.spilled = true) (hpop : p.popped = false)
    (hfits : partUnits p.size + unitsUsed [e] ≤ s.headUnits k q)
    (hread : s.hbmRead (s.slotKey k) (s.spillAddr k q e.ring p.pos) p.size = (u, some bs)) :
    s.spillCopy k q = u.modSlot k (fun v => v.setQueue q (replaceEntry (v.queue q)
      { e with parts := [{ p with bytes := bs, spilled := false }] })) := by
  have hfree : partUnits p.size ≤ s.headUnits k q - unitsUsed [e] := by omega
  unfold State.spillCopy
  dsimp only
  rw [hq]
  simp only [List.filter_cons, hc, hp, List.any_cons, hsp, hpop, hfree, Bool.not_false, Bool.and_self, decide_true, List.any_nil, Bool.or_false,
    if_true, List.filter_nil, List.foldl_cons, List.foldl_nil, List.find?_cons, hread, List.map_cons, List.map_nil]

theorem onSlot_of_up {s : State} {k : Nat} (hk : k < Config.slots s.part) (hup : s.up = true) (t : State) : onSlot k s t = .next t :=
  (if_pos hk).trans (congrArg Host.Outcome.next (if_pos hup))

theorem parts_queueParts : Parts.QueueParts := by
  intro s k hk hup hen
  have hpart (p : QueuePart) (hslot : p.slot = k) : exec (.queuePart p) s = .next (s.placePart p).1 := onSlot_of_up (hslot ▸ hk) hup _
  have hdecide (hasked : s.asked k = true) : exec (.schedulerDecision k) s = .next (s.decide k 0) :=
    (onSlot_of_up hk hup _).trans (congrArg Host.Outcome.next (if_pos (by rw [hen, hasked]; rfl)))
  refine ⟨?_, ?_, ?_, ?_, ?_⟩
  · intro p hslot hprod hkey hend hver hpos hlen hnew hfits ring hring
    rw [hpart p hslot]
    subst hslot
    have hnone : ((s.slot p.slot).queue p.queue).find? (fun e => e.key == mbKey p.word.toNat) = none :=
      List.find?_eq_none.2 (fun e he => by simpa using hnew e he)
    rw [State.placePart_of_new hen hprod hkey hend hver hpos hlen hnone, State.storePart_of_new hnone hring hfits]
  · intro p hslot hprod hkey
    rw [hpart p hslot]
    subst hslot
    refine ⟨fun hend => ?_, fun hend hdue hwrong => ?_, fun hend hver hlen => ?_⟩
    · rw [State.placePart_of_ended hen hprod hkey hend]
    · rw [State.placePart_of_wrong hen hprod hkey hend hdue hwrong]
    · rw [State.placePart_of_large hen hprod hkey hend hver hlen]
      rfl
  · intro e hasked hlow
    refine ⟨_, hdecide hasked, ?_⟩
    rw [State.decide, State.nextDecision_backward hlow]
    dsimp only
    rw [slot_modSlot]
    exact ⟨rfl, rfl, rfl, rfl⟩
  · intro e hasked hb hf hahead
    refine ⟨_, hdecide hasked, ?_⟩
    rw [State.decide, State.nextDecision_forward hb hf hahead]
    dsimp only
    rw [slot_modSlot]
    exact ⟨rfl, rfl, rfl⟩
  · intro q e p u bs hq hc hp hsp hpop hfits hread
    refine ⟨s.spillCopy k q, (onSlot_of_up hk hup _).trans (congrArg Host.Outcome.next (if_pos hen)), ?_⟩
    have hu : u.slot k = s.slot k := by
      have := s.hbmRead_hbmChange (s.slotKey k) (s.spillAddr k q e.ring p.pos) p.size
      rw [hread] at this
      exact slot_of_slots this.keeps.1 k
    rw [State.spillCopy_of_one hq hc hp hsp hpop hfits hread, slot_modSlot, Slot.queue_setQueue, hu, hq]
    simp [replaceEntry]

/-- Settles O26: the counters by the slot's list, a part by the first check that it fails, a decision by the lowest entries. -/
theorem creditsAndQueues : Obligations.CreditsAndQueues := ⟨parts_credits, parts_queueParts⟩

end Sys2Proof.Machine
end

section
/-! PROOFS. Outcomes of an attempt, and what decides them (O28): what an outcome and a self-fast change beside the group, and the group that they
leave. -/

namespace Sys2Proof.Machine

/-! ### Work that leaves the group alone -/

theorem SlotChange.folded {α : Type} {g : State → α → State} (h : ∀ t a, SlotChange t (g t a)) (l : List α) (s : State) : SlotChange s (l.foldl g s) :=
  foldl_holds (SlotChange s) g (fun t a ht => ht.trans (h t a)) l s rfl

theorem SlotChange.group {s t : State} (h : SlotChange s t) : t.group = s.group := by
  rw [SlotChange] at h
  rw [h]

theorem SlotChange.power {s t : State} (h : SlotChange s t) : t.power = s.power := by
  rw [SlotChange] at h
  rw [h]

theorem SlotChange.objs {s t : State} (h : SlotChange s t) : t.objs = s.objs := by
  rw [SlotChange] at h
  rw [h]

theorem State.bump_slotChange (s : State) (i j n : Nat) : SlotChange s (s.bump i j n) := (s.bump_totChange i j n).slotChange

theorem State.capture_slotChange (s : State) {cls : Nat} (w : ErrAt) (hce : classSev cls ≠ 0) (huf : classSev cls ≠ 3) :
    SlotChange s (s.capture cls w) := by
  rw [SlotChange, s.capture_frame_of_recorded w hce huf]

theorem State.modSlot_slotChange (s : State) (k : Nat) (f : Slot → Slot) : SlotChange s (s.modSlot k f) := rfl

theorem State.sendCommit_slotChange (s : State) (r : Nat) (m : CommitMsg) (rec : Option FormRecord) : SlotChange s (s.sendCommit r m rec) :=
  s.post_slotChange _ _ _ _

theorem State.toChildren_slotChange (s : State) (m : CommitMsg) : SlotChange s (s.toChildren m) :=
  SlotChange.folded (fun t r => t.sendCommit_slotChange r m none) _ _

theorem State.endExchOps_slotChange (s : State) : SlotChange s s.endExchOps := by
  unfold State.endExchOps
  extract_lets stale t
  have ht : SlotChange s t := rfl
  exact (ht.trans (SlotChange.folded (fun u (e : Nat × Context) => u.endQueued_slotChange _ _ _ _) _ _)).trans (State.bump_slotChange _ _ _ _)

theorem State.dropStaged_slotChange (s : State) (k : Nat) : SlotChange s (s.dropStaged k) := rfl

theorem State.stopGroup_slotChange (s : State) (keep : Bool) : SlotChange s (s.stopGroup keep) := by
  unfold State.stopGroup
  refine s.endExchOps_slotChange.trans (SlotChange.folded (fun t k => ?_) _ _)
  have hend : SlotChange t ((List.range 6).foldl (fun s p => s.modCtx (6 * k + p) .crown endWaiting) (t.endExperts k t.attEnded)) :=
    (t.endExperts_slotChange k _).trans
      (SlotChange.folded (g := fun s p => s.modCtx (6 * k + p) .crown endWaiting) (fun _ _ => rfl) _ _)
  dsimp only
  split
  · exact hend
  · exact hend.trans (State.dropStaged_slotChange _ _)

theorem State.returnCredit_slotChange (s : State) (k : Nat) (q : QKind) (producer : NodeSlot) (e : EntryKey) :
    SlotChange s (s.returnCredit k q producer e) :=
  (s.bump_slotChange _ _ _).trans (State.post_slotChange _ _ _ _ _)

theorem State.freeEnded_slotChange (s : State) (k : Nat) (q : QKind) (ended : EntryKey → Bool) : SlotChange s (s.freeEnded k q ended) :=
  SlotChange.trans (t := s.modSlot k _) rfl (SlotChange.folded (fun t (e : QEntry) => t.returnCredit_slotChange k q e.producer e.key) _ _)

theorem State.fastVersions_slotChange (s : State) (k : Nat) : SlotChange s (s.fastVersions k) := rfl

theorem State.feastVersions_slotChange (s : State) (k : Nat) : SlotChange s (s.feastVersions k) := rfl

theorem State.slotFast_slotChange (s : State) (k reopened : Nat) (reopen : Bool) : SlotChange s (s.slotFast k reopened reopen) := by
  unfold State.slotFast
  extract_lets ended t word u v
  have ht : SlotChange s t := (s.freeEnded_slotChange k .forward ended).trans (State.freeEnded_slotChange _ _ _ _)
  have hv : SlotChange s v := (ht.trans (t.modSlot_slotChange k _)).trans (u.fastVersions_slotChange k)
  split
  · exact hv.trans (v.bump_slotChange _ _ _)
  · exact hv

theorem State.slotFeast_slotChange (s : State) (k : Nat) : SlotChange s (s.slotFeast k) := by
  unfold State.slotFeast
  extract_lets closed t
  have ht : SlotChange s t := (s.freeEnded_slotChange k .forward closed).trans (State.freeEnded_slotChange _ _ _ _)
  exact (ht.trans (t.modSlot_slotChange k _)).trans (State.feastVersions_slotChange _ _)

theorem State.slotsOutcome_slotChange (s : State) (fast : Bool) (next : Nat) (reopen : Bool) : SlotChange s (s.slotsOutcome fast next reopen) := by
  unfold State.slotsOutcome
  extract_lets t
  have ht : SlotChange s t := s.endExchOps_slotChange.trans (SlotChange.folded (fun u k => u.endExperts_slotChange k _) _ _)
  refine ht.trans (SlotChange.folded (fun u k => ?_) _ _)
  split
  · exact u.slotFast_slotChange k next reopen
  · exact u.slotFeast_slotChange k

theorem State.versionError_slotChange (s : State) (k w : Nat) : SlotChange s (s.versionError k w) :=
  (s.modSlot_slotChange k _).trans (State.capture_slotChange _ _ (by decide) (by decide))

theorem State.checkEntries_slotChange (s0 s : State) (k : Nat) (q : QKind) : SlotChange s (s0.checkEntries s k q) := by
  unfold State.checkEntries
  refine SlotChange.folded (fun t (e : QEntry) => ?_) _ _
  extract_lets bad gone keep u
  have hu : SlotChange t u := SlotChange.folded (fun v (p : PartSt) => v.versionError_slotChange k p.word.toNat) _ _
  split
  · rfl
  · split
    · exact (hu.trans (u.modSlot_slotChange k _)).trans (State.returnCredit_slotChange _ _ _ _ _)
    · exact hu.trans (u.modSlot_slotChange k _)

theorem State.checkVersions_slotChange (s0 s : State) : SlotChange s (s0.checkVersions s) :=
  SlotChange.folded (fun t k => (s0.checkEntries_slotChange t k .forward).trans (s0.checkEntries_slotChange _ k .backward)) _ _

/-- The exchange begins: of the group only the exponent bank that it writes becomes invalid (R228). -/
theorem State.beginExchange_group (s : State) :
    s.beginExchange.group = { s.group with expValid := s.group.expValid.filter (fun e => e.2.2 ≠ (s.group.version + 1) % 2) } := by
  unfold State.beginExchange
  dsimp only
  rw [(SlotChange.folded (g := fun s k => s.stageVersion k) (fun t k => t.modSlot_slotChange k _) _ _).group]
  rfl

/-! ### The group after an outcome (R184, R243) -/

theorem State.writeNoise_group (s : State) (step outcome att : Nat) (l : Int) :
    (s.writeNoise step outcome att l).group = { s.group with noiseHead := (s.group.noiseHead + 1) % 2 ^ 32 } := by
  unfold State.writeNoise
  extract_lets head t
  have ht : t.group = s.group := foldl_keeps State.group _ (by intro u k; rfl) _ _
  rw [State.setGroup, ht]

theorem State.noteOutcome_group (s : State) (kind : CommitKind) (step att : Nat) (total : Option Nat) (l : Int) :
    ∃ h, (s.noteOutcome kind step att total l).group =
      { s.group with lastStep := step, lastAtt := att, lastKind := kind.code, noiseHead := h } := by
  unfold State.noteOutcome
  extract_lets t u v
  have hv : v.group = t.group := by
    have hu : u.group = t.group := SlotChange.group (t.bump_slotChange 0x3290 _ 1)
    cases total with
    | none => exact hu
    | some k => exact (u.bump_slotChange 0x7300 k 1).group.trans hu
  split
  · exact ⟨s.group.noiseHead, hv⟩
  · exact ⟨(t.group.noiseHead + 1) % 2 ^ 32, by rw [State.writeNoise_group, hv]; rfl⟩

/-- The step that follows an outcome. -/
def Group.nextStep (g : Group) (kind : CommitKind) : Nat := if kind = .fastRepeat then g.exchStep else stepAdd g.exchStep 1

/-- The group that an outcome leaves, but for the noise ring's head and the exponent banks. -/
def State.groupOutcome (s : State) (kind : CommitKind) (stop : Bool) (nextL : Int) (head : Nat) (later : List Nat) (isOver : Nat → Nat → Bool) : Group :=
  (Group.afterOutcome
    { s.group with lastStep := s.group.exchStep, lastAtt := s.attOf s.group.exchStep, lastKind := kind.code, noiseHead := head }
    kind stop nextL (s.group.lossAfter kind).2.1 (s.group.nextStep kind) (s.group.exchStep :: later)).endAttempt isOver

theorem State.outcome_group (s : State) (kind : CommitKind) (stop : Bool) (nextL : Int) :
    ∃ head later isOver banks, (∀ k ∈ later, 0 < stepDiff k s.group.exchStep) ∧
      (s.outcome kind stop nextL).group = { s.groupOutcome kind stop nextL head later isOver with expValid := banks } := by
  unfold State.outcome
  extract_lets before step att fast later loss next due reopen t u v w x y
  obtain ⟨head, ht⟩ := s.noteOutcome_group kind step att loss.2.2 s.group.lossExp
  have hu : u.group = t.group := by
    show (if loss.1 ≠ nextL then t.capture 0x11 { step := some step, att := att } else t).group = t.group
    split
    · exact (t.capture_slotChange _ (by decide) (by decide)).group
    · rfl
  have hx : x.group = s.groupOutcome kind stop nextL head later (fun k a => stepDiff k next < 0 || a < w.attOf k) := by
    have hw : w.group = u.group.afterOutcome kind stop nextL loss.2.1 next (step :: later) := rfl
    have hx : x.group = w.group.endAttempt (fun k a => stepDiff k next < 0 || a < w.attOf k) := rfl
    rw [hx, hw, hu, ht]
    rfl
  have hy : y.group = x.group := (x.slotsOutcome_slotChange fast next reopen).group
  have hlater : ∀ k ∈ later, 0 < stepDiff k s.group.exchStep := by
    intro k hk
    have hk' : k ∈ if fast then s.laterOpen step else [] := hk
    split at hk'
    · simpa using (List.mem_filter.1 (List.mem_eraseDups.1 hk')).2
    · simp at hk'
  refine ⟨head, later, fun k a => stepDiff k next < 0 || a < w.attOf k,
    if reopen then y.group.expValid.filter (fun e => e.2.2 ≠ (y.group.version + 1) % 2) else y.group.expValid, hlater, ?_⟩
  rw [← hx, ← hy]
  by_cases hr : reopen = true
  · rw [if_pos hr, if_pos hr, State.beginExchange_group, (before.checkVersions_slotChange y).group]
  · rw [if_neg hr, if_neg hr, State.retarget_group, (y.stopGroup_slotChange false).group]

/-! ### Attempts of a step -/

theorem stepDiff_self (a : Nat) : stepDiff a a = 0 := by
  have h : a % 2 ^ 32 + (2 ^ 32 - a % 2 ^ 32) = 2 ^ 32 := by omega
  rw [stepDiff, h]
  rfl

/-- Attempts of further steps rise: that of a step outside the list stays. -/
theorem read_raised (l : List Nat) {k : Nat} (h : k ∉ l) (t : Table Nat) :
    Table.read 0 k (l.foldl (fun t j => Table.write 0 j (Table.read 0 j t + 1) t) t) = Table.read 0 k t := by
  induction l generalizing t with
  | nil => rfl
  | cons j l ih =>
    obtain ⟨hj, hl⟩ := not_or.1 (mt List.mem_cons.2 h)
    rw [List.foldl_cons, ih hl, Table.read_write_ne _ (Ne.symm hj)]

end Sys2Proof.Machine
end

section
/-! PROOFS. Outcomes of an attempt, and what decides them (O28): the outcome's group read field by field, and what Eves and deadlines call for. -/

namespace Sys2Proof.Machine

/-! ### Applying an outcome (R243) -/

theorem State.attOf_of_group {s t : State} (h : t.group = s.group) (k : Nat) : t.attOf k = s.attOf k := by
  rw [State.attOf, State.attOf, h]

theorem State.groupOutcome_of_group {s t : State} (h : t.group = s.group) (kind : CommitKind) (stop : Bool) (nextL : Int) (head : Nat)
    (later : List Nat) (isOver : Nat → Nat → Bool) :
    t.groupOutcome kind stop nextL head later isOver = s.groupOutcome kind stop nextL head later isOver := by
  rw [State.groupOutcome, State.groupOutcome, State.attOf_of_group h, h]

/-- An outcome whose version is the member's own is applied (R243). -/
theorem State.applyOutcome_group {s : State} {m : CommitMsg} (hver : m.version = s.group.version + (if m.kind = .feast then 1 else 0)) :
    ∃ head later isOver banks, (∀ k ∈ later, 0 < stepDiff k s.group.exchStep) ∧
      (s.applyOutcome m).group = { s.groupOutcome m.kind m.stop m.nextL head later isOver with expValid := banks } := by
  have hsent : (s.toChildren m).group = s.group := (s.toChildren_slotChange m).group
  have happly : s.applyOutcome m = (s.toChildren m).outcome m.kind m.stop m.nextL :=
    if_neg (by rw [hsent, hver]; exact not_not.2 rfl)
  obtain ⟨head, later, isOver, banks, hlater, hgroup⟩ := (s.toChildren m).outcome_group m.kind m.stop m.nextL
  rw [hsent] at hlater
  rw [State.groupOutcome_of_group hsent] at hgroup
  exact ⟨head, later, isOver, banks, hlater, by rw [happly, hgroup]⟩

theorem Group.lossAfter_clean (g : Group) {kind : CommitKind} (h : kind = .feast ∨ kind = .fastRepeat ∨ kind = .fastSkip) :
    (g.lossAfter kind).2.1 =
      (if kind = .feast then (if g.clean + 1 < g.lsGrowth then g.clean + 1 else 0) else if kind = .fastRepeat then g.clean else 0) := by
  rcases h with rfl | rfl | rfl
  · unfold Group.lossAfter
    dsimp only
    rw [if_pos rfl]
    split
    · rfl
    · split <;> rfl
  · rfl
  · unfold Group.lossAfter
    dsimp only
    split <;> rfl

/-- The attempts of the step after its outcome: another one after a Fast (R243). -/
theorem State.groupOutcome_att {s : State} (hstep : s.group.exchStep < 2 ^ 32) (kind : CommitKind) (stop : Bool) (nextL : Int) (head : Nat)
    {later : List Nat} (isOver : Nat → Nat → Bool) (hlater : ∀ k ∈ later, 0 < stepDiff k s.group.exchStep) :
    Table.read 0 (s.group.exchStep % 2 ^ 32) (s.groupOutcome kind stop nextL head later isOver).atts =
      s.attOf s.group.exchStep + (if kind = .feast then 0 else 1) := by
  have hmod : s.group.exchStep % 2 ^ 32 = s.group.exchStep := Nat.mod_eq_of_lt hstep
  have hnot : s.group.exchStep ∉ later := fun h => absurd (hlater _ h) (by rw [stepDiff_self]; exact lt_irrefl 0)
  rw [State.attOf, hmod]
  by_cases hk : kind = .feast
  · rw [if_pos hk]
    exact congrArg (Table.read 0 s.group.exchStep) (if_neg (not_not.2 hk))
  · rw [if_neg hk]
    have hatts : (s.groupOutcome kind stop nextL head later isOver).atts =
        (s.group.exchStep :: later).foldl (fun t k => Table.write 0 k (Table.read 0 k t + 1) t) s.group.atts := if_pos hk
    rw [hatts, List.foldl_cons, read_raised later hnot, Table.read_write_same]

/-- What LAST_OUTCOME, the step, the version, the loss scale and the attempts are after an outcome that fits (Tables 8.2, 10.10). -/
theorem State.gotOutcome_spec {s : State} {m : CommitMsg} (hact : s.group.state = .active) (hrank : s.group.rank ≠ 0)
    (hfits : s.commitFits m = true) (hstep : s.group.exchStep < 2 ^ 32)
    (hver : m.version = s.group.version + (if m.kind = .feast then 1 else 0)) (hkind : m.kind = .feast ∨ m.kind = .fastRepeat ∨ m.kind = .fastSkip) :
    (s.gotOutcome m).group.lastStep = s.group.exchStep ∧ (s.gotOutcome m).group.lastAtt = s.attOf s.group.exchStep ∧
    (s.gotOutcome m).group.lastKind = m.kind.code ∧ (s.gotOutcome m).group.version = m.version ∧ (s.gotOutcome m).group.lossExp = m.nextL ∧
    (s.gotOutcome m).group.exchStep = (if m.kind = .fastRepeat then s.group.exchStep else stepAdd s.group.exchStep 1) ∧
    (s.gotOutcome m).attOf s.group.exchStep = s.attOf s.group.exchStep + (if m.kind = .feast then 0 else 1) ∧
    (s.gotOutcome m).group.clean = (if m.kind = .feast then (if s.group.clean + 1 < s.group.lsGrowth then s.group.clean + 1 else 0)
      else if m.kind = .fastRepeat then s.group.clean else 0) ∧
    (s.gotOutcome m).group.repeats = (if m.kind = .fastRepeat then s.group.repeats + 1 else 0) ∧
    (s.gotOutcome m).group.state = (if m.stop then .stalled else .active) ∧ (m.stop = true → (s.gotOutcome m).group.reason = 7) ∧
    (s.gotOutcome m).group.reports = [] ∧ (s.gotOutcome m).group.eves = [] ∧ (s.gotOutcome m).mem = s.mem := by
  have hgot : s.gotOutcome m = s.applyOutcome m := if_pos (by simp [hact, hrank, hfits])
  obtain ⟨head, later, isOver, banks, hlater, hgroup⟩ := State.applyOutcome_group hver
  have hmem : (s.applyOutcome m).mem = s.mem := s.applyOutcome_mem m
  rw [hgot]
  generalize s.applyOutcome m = t at hgroup hmem
  have hatt : t.attOf s.group.exchStep = s.attOf s.group.exchStep + (if m.kind = .feast then 0 else 1) := by
    rw [State.attOf, hgroup]
    exact State.groupOutcome_att hstep m.kind m.stop m.nextL head isOver hlater
  refine ⟨?_, ?_, ?_, ?_, ?_, ?_, hatt, ?_, ?_, ?_, ?_, ?_, ?_, hmem⟩ <;> rw [hgroup]
  · rfl
  · rfl
  · rfl
  · refine Eq.trans ?_ hver.symm
    show (if m.kind ≠ .feast then s.group.version else s.group.version + 1) = _
    by_cases h : m.kind = .feast
    · rw [if_pos h, if_neg (not_not.2 h)]
    · rw [if_neg h, if_pos h, Nat.add_zero]
  · rfl
  · rfl
  · exact s.group.lossAfter_clean hkind
  · rfl
  · show (if m.stop then GroupState.stalled else s.group.state) = _
    rw [hact]
  · exact fun h => if_pos h
  · rfl
  · rfl

theorem whenUp_of_up {s : State} (hup : s.up = true) (t : State) : whenUp s t = .next t :=
  congrArg Host.Outcome.next (if_pos hup)

theorem parts_outcomes : Parts.Outcomes := by
  intro s g m hup hg hact hrank
  subst hg
  refine ⟨fun hfits hstep e he hver hstop => ?_, fun hfits i hi => ?_⟩
  · simp only [List.mem_cons, List.not_mem_nil, or_false] at he
    rcases he with rfl | rfl | rfl
    · exact ⟨_, whenUp_of_up hup _, State.gotOutcome_spec (m := { m with kind := .feast }) hact hrank hfits hstep hver (.inl rfl)⟩
    · exact ⟨_, whenUp_of_up hup _, State.gotOutcome_spec (m := { m with kind := .fastRepeat }) hact hrank hfits hstep hver (.inr (.inl rfl))⟩
    · exact ⟨_, whenUp_of_up hup _, State.gotOutcome_spec (m := { m with kind := .fastSkip }) hact hrank hfits hstep hver (.inr (.inr rfl))⟩
  · have hstale (k : CommitKind) : s.gotOutcome { m with kind := k } = s.bump 0x3290 7 1 := by
      have : s.commitFits { m with kind := k } = false := hfits
      exact if_neg (by rw [this, Bool.and_false]; exact Bool.false_ne_true)
    simp only [List.mem_cons, List.not_mem_nil, or_false] at hi
    rcases hi with rfl | rfl | rfl
    all_goals exact (whenUp_of_up hup _).trans (congrArg Host.Outcome.next (hstale _))

/-! ### Eves (R241, R242) -/

/-- An Eve is counted and kept for its child. -/
def State.eveKept (s : State) (e : Nat × Nat × Nat) : State :=
  { s.bump 0x3540 2 1 with group := { s.group with eves := s.group.eves ++ [e] } }

theorem State.eveKept_group (s : State) (e : Nat × Nat × Nat) : (s.eveKept e).group = { s.group with eves := s.group.eves ++ [e] } := rfl

theorem State.localComplete_eveKept (s : State) (e : Nat × Nat × Nat) : (s.eveKept e).localComplete = s.localComplete := by
  have h := s.bump_totChange 0x3540 2 1
  rw [TotChange] at h
  rw [State.eveKept, h]
  rfl

theorem State.gotEve_of_new {s : State} {child : Nat} {m : CommitMsg} (hact : s.group.state = .active) (hfits : s.commitFits m = true)
    (hchild : s.group.children.contains child = true) (hnew : ∀ e ∈ s.group.eves, e.1 ≠ child) :
    s.gotEve child m = (s.eveKept (child, m.count, m.nfCount)).advance := by
  have hany : s.group.eves.any (fun e => e.1 == child) = false := by simpa using hnew
  refine (if_pos (by rw [hact, hfits, hchild, hany]; rfl)).trans (congrArg State.advance ?_)
  rw [State.setGroup, (s.bump_slotChange 0x3540 2 1).group]
  rfl

/-- A root that is locally complete and holds an Eve of every child, for every member, decides (R242). -/
theorem State.advance_of_root {s : State} (hact : s.group.state = .active) (hsent : s.group.eveSent = false) (hlocal : s.localComplete = true)
    (hrank : s.group.rank = 0) (hall : ∀ c ∈ s.group.children, ∃ e ∈ s.group.eves, e.1 = c) (hnf : s.group.nf = false)
    (hcount : 1 + (s.group.eves.map (·.2.1)).sum = s.group.size) :
    s.advance = s.eveFirst.decideOutcome (if (s.group.eves.map (·.2.2)).sum = 0 then .feast else .fastSkip) := by
  have hfirst : s.eveFirst = s.setGroup (fun g => { g with firstEveKnown := true, eveFirstSent := true }) := if_pos hrank
  have hall' : (s.group.children.any (fun r => !s.group.eves.any (fun e => e.1 == r))) = false := by
    rw [List.any_eq_false]
    intro c hc
    obtain ⟨e, he, hec⟩ := hall c hc
    simpa using ⟨e.2.1, e.2.2, hec ▸ he⟩
  unfold State.advance
  rw [if_neg (by simp [hact, hsent, hlocal])]
  extract_lets t g count nf
  have hg : g = { s.group with firstEveKnown := true, eveFirstSent := true } := congrArg State.group hfirst
  have hcount' : count = s.group.size := by
    show 1 + (g.eves.map (·.2.1)).sum = _
    rw [hg]
    exact hcount
  have hnf' : nf = (s.group.eves.map (·.2.2)).sum := by
    show bit01 g.nf + (g.eves.map (·.2.2)).sum = _
    rw [hg]
    show bit01 s.group.nf + _ = _
    rw [hnf]
    exact Nat.zero_add _
  rw [hcount', hnf', hg]
  refine (if_neg ?_).trans ((if_pos hrank).trans (if_pos rfl))
  exact ne_true_of_eq_false hall'

/-- The root's decision, entered (R242, R243). -/
theorem State.decideOutcome_group (s : State) (kind : CommitKind) :
    ∃ head later isOver banks, (∀ k ∈ later, 0 < stepDiff k s.group.exchStep) ∧
      (s.decideOutcome kind).group =
        { s.groupOutcome kind (kind = .fastRepeat && s.group.repeatLimit ≤ s.group.repeats + 1) (s.group.lossAfter kind).1 head later isOver with
          expValid := banks } :=
  State.applyOutcome_group rfl

/-- A root's deadline decides FAST_REPEAT, with STOP at the limit of repeats (R242). -/
theorem State.decideRepeat_spec {s t : State} (h : t.group = s.group) (hact : s.group.state = .active) :
    (t.decideOutcome .fastRepeat).group.lastKind = 4 ∧ (t.decideOutcome .fastRepeat).group.lastStep = s.group.exchStep ∧
    (t.decideOutcome .fastRepeat).group.repeats = s.group.repeats + 1 ∧ (t.decideOutcome .fastRepeat).group.version = s.group.version ∧
    (t.decideOutcome .fastRepeat).group.state = (if s.group.repeatLimit ≤ s.group.repeats + 1 then .stalled else .active) := by
  obtain ⟨head, later, isOver, banks, hlater, hgroup⟩ := t.decideOutcome_group .fastRepeat
  rw [State.groupOutcome_of_group h, h] at hgroup
  rw [hgroup]
  refine ⟨rfl, rfl, rfl, rfl, ?_⟩
  show (if (Decidable.decide (CommitKind.fastRepeat = .fastRepeat) && Decidable.decide (s.group.repeatLimit ≤ s.group.repeats + 1)) = true
    then GroupState.stalled else s.group.state) = _
  rw [hact]
  simp

/-! ### Self-fast (R245) -/

theorem EventChange.group {s t : State} (h : EventChange s t) : t.group = s.group := by
  rw [EventChange] at h
  rw [h]

theorem State.endOpen_group (s : State) : ∃ overAtts, s.endOpen.group = { s.group with overAtts := overAtts } := by
  unfold State.endOpen
  split
  · exact ⟨s.group.overAtts, rfl⟩
  · exact ⟨_, rfl⟩

/-- The group that stops, in doubt or not, in an attempt of a step. -/
def Group.partitioned (g : Group) (reason : Nat) (doubt : Bool) (step att : Nat) : Group :=
  { g with
    state := .stalled, reason := reason, partition := true, inDoubt := doubt,
    inDoubtStep := if doubt then step else g.inDoubtStep, inDoubtAtt := if doubt then att else g.inDoubtAtt }

/-- The group that a self-fast leaves. -/
def Group.selfFasted (g : Group) (reason : Nat) (doubt : Bool) (step att : Nat) : Group :=
  { (g.partitioned reason doubt step att).endAttempt (fun k a => k == step && a == att) with sums := if doubt then g.sums else [] }

theorem State.selfFast_group (s : State) (reason : Nat) :
    ∃ overAtts, (s.selfFast reason).group =
      Group.selfFasted { s.group with overAtts := overAtts } reason ((s.group.eveSent || s.group.inDoubt) && s.group.rank ≠ 0) s.group.exchStep
        (s.attOf s.group.exchStep) := by
  obtain ⟨overAtts, hopen⟩ := s.endOpen_group
  refine ⟨overAtts, ?_⟩
  unfold State.selfFast
  extract_lets doubt step att t u v w x
  have ht : t.group = Group.partitioned { s.group with overAtts := overAtts } reason doubt step att := by
    have : t.group = (s.endOpen.bump 0x3290 4 1).group.partitioned reason doubt step att := rfl
    rw [this, (s.endOpen.bump_slotChange 0x3290 4 1).group, hopen]
  have hu : u.group = t.group := (t.stopGroup_slotChange doubt).group
  have hv : v.group = { u.group.endAttempt (fun k a => k == step && a == att) with sums := if doubt then u.group.sums else [] } := rfl
  have hx : x.group = v.group := (w.capture_slotChange _ (by decide) (by decide)).group.trans v.retarget_group
  rw [(x.event_eventChange _ _ _ _ _ _).group, hx, hv, hu, ht]
  rfl

theorem parts_evesAndDeadlines : Parts.EvesAndDeadlines := by
  intro s g hup hg hact
  subst hg
  refine ⟨?_, ?_, ?_, ?_, ?_, ?_⟩
  · intro child m hfits hchild hrank hsent
    refine ⟨s.eveFirst, (whenUp_of_up hup _).trans (congrArg Host.Outcome.next (if_pos (by rw [hact, hfits, hchild]; rfl))), ?_⟩
    have hfirst : s.eveFirst = (s.sendCommit s.group.parent (s.eveMsg .eveFirst 0 0) none).setGroup (fun g => { g with eveFirstSent := true }) :=
      (if_neg hrank).trans (if_neg (by rw [hsent]; exact Bool.false_ne_true))
    rw [hfirst, State.setGroup, (s.sendCommit_slotChange _ _ _).group]
    exact ⟨rfl, State.post_length_sent _ _ _ _ _⟩
  · intro child m hfits hchild hnew hlocal
    refine congrArg Host.Outcome.next ((if_pos hup).trans ((State.gotEve_of_new hact hfits hchild hnew).trans (if_pos ?_)))
    rw [State.localComplete_eveKept, hlocal]
    simp
  · intro child m hfits hchild hnew hlocal hrank hsent hnf hall hcount
    refine ⟨s.gotEve child m, congrArg Host.Outcome.next (if_pos hup), ?_⟩
    rw [State.gotEve_of_new hact hfits hchild hnew]
    have hall' : ∀ c ∈ (s.eveKept (child, m.count, m.nfCount)).group.children,
        ∃ e ∈ (s.eveKept (child, m.count, m.nfCount)).group.eves, e.1 = c := by
      intro c hc
      rcases hall c hc with rfl | ⟨e, he, hec⟩
      · exact ⟨_, List.mem_append_right _ (List.mem_singleton_self _), rfl⟩
      · exact ⟨e, List.mem_append_left _ he, hec⟩
    rw [State.advance_of_root (s := s.eveKept (child, m.count, m.nfCount)) hact hsent
      ((s.localComplete_eveKept _).trans hlocal) hrank hall' hnf hcount]
    have hfirst : (s.eveKept (child, m.count, m.nfCount)).eveFirst = (s.eveKept (child, m.count, m.nfCount)).setGroup
      (fun g => { g with firstEveKnown := true, eveFirstSent := true }) := if_pos hrank
    rw [hfirst]
    obtain ⟨head, later, isOver, banks, -, hgroup⟩ := State.decideOutcome_group ((s.eveKept (child, m.count, m.nfCount)).setGroup
      (fun g => { g with firstEveKnown := true, eveFirstSent := true }))
      (if ((s.eveKept (child, m.count, m.nfCount)).group.eves.map (·.2.2)).sum = 0 then .feast else .fastSkip)
    rw [hgroup]
    refine ⟨rfl, ?_⟩
    rw [State.eveKept_group]
    show CommitKind.code _ = _
    dsimp only
    split <;> rfl
  · intro hrank hknown
    exact ⟨_, (whenUp_of_up hup _).trans (congrArg Host.Outcome.next (if_pos (by rw [hact, hrank, hknown]; rfl))),
      State.decideRepeat_spec (s.bump_slotChange _ _ _).group hact⟩
  · intro hrank
    exact ⟨_, (whenUp_of_up hup _).trans (congrArg Host.Outcome.next (if_pos (by rw [hact, hrank]; rfl))),
      State.decideRepeat_spec (s.bump_slotChange _ _ _).group hact⟩
  · intro hrank
    refine ⟨s.selfFast 8, (whenUp_of_up hup _).trans (congrArg Host.Outcome.next (if_pos (by simp [hact, hrank]))), ?_⟩
    obtain ⟨overAtts, hgroup⟩ := s.selfFast_group 8
    have hdoubt : ((s.group.eveSent || s.group.inDoubt) && s.group.rank ≠ 0) = (s.group.eveSent || s.group.inDoubt) := by simp [hrank]
    rw [hdoubt] at hgroup
    rw [hgroup]
    exact ⟨rfl, rfl, rfl, rfl, rfl, fun h => ⟨if_pos h, if_pos h, if_pos h⟩, s.selfFast_mem 8⟩

/-- Settles O28: an outcome by the group that it leaves, Eves and deadlines by what the step agent then calls for. -/
theorem attemptOutcomes : Obligations.AttemptOutcomes := ⟨parts_outcomes, parts_evesAndDeadlines⟩

end Sys2Proof.Machine
end

section
/-! PROOFS. Forming, dissolving and resolving a step group (O27): what a FORM reads and leaves, the answers that a member waits for, and the group
once it is formed. -/

namespace Sys2Proof.Machine

/-! ### Changes of the group and of the slots -/

/-- What a change of the group brings with it: the group, and what the end of its slots' work changes. -/
def FormChange (s t : State) : Prop := SlotChange { s with group := t.group } t

theorem FormChange.trans {s t u : State} (ht : FormChange s t) (hu : FormChange t u) : FormChange s u := by
  rw [FormChange, SlotChange] at ht hu ⊢
  rw [hu, ht]

theorem SlotChange.formChange {s t : State} (h : SlotChange s t) : FormChange s t := by
  rw [FormChange, h.group]
  exact h

theorem State.setGroup_formChange (s : State) (f : Group → Group) : FormChange s (s.setGroup f) := rfl

theorem FormChange.allowed {s t : State} (h : FormChange s t) : t.allowed = s.allowed := by
  rw [FormChange, SlotChange] at h
  rw [h]
  rfl

theorem State.endOpen_formChange (s : State) : FormChange s s.endOpen := by
  unfold State.endOpen
  split
  · rfl
  · rfl

theorem State.beginExchange_formChange (s : State) : FormChange s s.beginExchange :=
  (s.setGroup_formChange _).trans
    (SlotChange.folded (g := fun s k => s.stageVersion k) (fun t k => t.modSlot_slotChange k _) _ _).formChange

/-! ### FORMED (R220, R375) -/

theorem State.lanternFormed_group (s : State) : s.lanternFormed.group = s.group := by
  unfold State.lanternFormed
  dsimp only
  rw [State.retarget_group]
  split
  · exact State.lanternCast_group _ _
  · rfl

/-- Lantern's epoch 0 begins at the member's own level (R375). -/
theorem State.lanternFormed_spec (s : State) :
    s.lanternFormed.power.epoch = 0 ∧ s.lanternFormed.power.groupLevel = s.allowed ∧ s.lanternFormed.power.pendingLevel = s.allowed := by
  unfold State.lanternFormed
  extract_lets a t
  have hpower : (if a > 0 then t.lanternCast { sub := 1, level := a, groupId := t.group.id, epoch := 0, count := 0 } else t).power = t.power := by
    split
    · exact t.lanternCast_power _
    · rfl
  obtain ⟨hlevel, -, hepoch, hpending⟩ := State.retarget_power
    (if a > 0 then t.lanternCast { sub := 1, level := a, groupId := t.group.id, epoch := 0, count := 0 } else t)
  rw [hlevel, hepoch, hpending, hpower]
  exact ⟨rfl, rfl, rfl⟩

/-- The group when it is formed. -/
def Group.formed (g : Group) : Group :=
  { g.endAttempt (fun _ _ => false) with
    state := .active, version := 0, exchStep := g.firstStep, atts := [], verAfter := [], expValid := [], repeats := 0, clean := 0,
    lossExp := max g.lsMin (min g.lsMax g.lsInit), childRecs := [], childRejects := [] }

theorem State.formedNow_spec (s : State) :
    s.formedNow.group = s.group.formed ∧ s.formedNow.power.epoch = 0 ∧ s.formedNow.power.groupLevel = s.allowed ∧
      s.formedNow.power.pendingLevel = s.allowed := by
  unfold State.formedNow
  extract_lets t u v
  have ht : SlotChange s t := s.toChildren_slotChange _
  have hu : u.group = s.group.formed := congrArg Group.formed ht.group
  have hv : SlotChange u v := SlotChange.folded (g := fun s k => s.initVersions k) (fun w k => w.modSlot_slotChange k _) _ _
  have hx : SlotChange u (s.checkVersions v) := hv.trans (s.checkVersions_slotChange v)
  have hform : FormChange s (s.checkVersions v).beginExchange :=
    ((ht.formChange.trans (t.setGroup_formChange _)).trans hx.formChange).trans (State.beginExchange_formChange _)
  have hgroup : (s.checkVersions v).beginExchange.group = s.group.formed := by
    rw [State.beginExchange_group, hx.group, hu]
    rfl
  obtain ⟨hepoch, hlevel, hpending⟩ := (s.checkVersions v).beginExchange.lanternFormed_spec
  exact ⟨(State.lanternFormed_group _).trans hgroup, hepoch, hlevel.trans hform.allowed, hpending.trans hform.allowed⟩

/-! ### Answers of the children (R220) -/

/-- A member waits for a child that has not answered. -/
theorem State.formAdvance_of_waiting {s : State} (h : ∃ c ∈ s.group.children, (∀ e ∈ s.group.childRecs, e.1 ≠ c) ∧ ∀ e ∈ s.group.childRejects, e.1 ≠ c) :
    s.formAdvance = s := by
  obtain ⟨c, hc, hrecs, hrejects⟩ := h
  have hany : s.group.children.any
      (fun r => !(s.group.childRecs.any (fun e => e.1 == r) || s.group.childRejects.any (fun e => e.1 == r))) = true := by
    refine List.any_eq_true.2 ⟨c, hc, ?_⟩
    have h1 : s.group.childRecs.any (fun e => e.1 == c) = false := by simpa using hrecs
    have h2 : s.group.childRejects.any (fun e => e.1 == c) = false := by simpa using hrejects
    rw [h1, h2]
    rfl
  unfold State.formAdvance
  dsimp only
  rw [if_pos hany, ite_self]

theorem State.formAdvance_of_stopped {s : State} (h : s.group.state ≠ .forming) : s.formAdvance = s :=
  if_pos (by simp [h])

/-- The root forms the group once every child has answered and no record differs. -/
theorem State.formAdvance_of_formed {s : State} (hstate : s.group.state = .forming) (hsent : s.group.formSent = false) (hrank : s.group.rank = 0)
    (hall : ∀ c ∈ s.group.children, ∃ e ∈ s.group.childRecs, e.1 = c) (hrejects : s.group.childRejects.filter (fun e => s.group.children.contains e.1) = [])
    (hreason : recordReason s.ownRecord ((s.group.childRecs.filter (fun e => s.group.children.contains e.1)).map (·.2)) = 0) :
    s.formAdvance = (s.setGroup (fun g => { g with formSent := true })).formedNow := by
  have hany : s.group.children.any
      (fun r => !(s.group.childRecs.any (fun e => e.1 == r) || s.group.childRejects.any (fun e => e.1 == r))) = false := by
    refine List.any_eq_false.2 (fun c hc => ?_)
    obtain ⟨e, he, hec⟩ := hall c hc
    have : s.group.childRecs.any (fun e => e.1 == c) = true := List.any_eq_true.2 ⟨e, he, by simp [hec]⟩
    rw [this]
    simp
  unfold State.formAdvance
  extract_lets g t own all reason
  have hown : own = 0 := hreason
  have hnone : all = [] := by
    show (if own = 0 then [] else [own]) ++ (s.group.childRejects.filter (fun e => s.group.children.contains e.1)).map (·.2.2) = []
    rw [hown, hrejects]
    rfl
  have hzero : reason = 0 := by
    show (match all with | [] => 0 | r :: rs => rs.foldl min r) = 0
    rw [hnone]
  rw [if_neg (by simp [g, hstate, hsent]), if_neg (ne_true_of_eq_false hany), if_pos (show g.rank = 0 from hrank), if_pos hzero]

theorem parts_groupFormation : Parts.GroupFormation := by
  intro s g hup hg hstate
  subst hg
  have hlive : s.stopped = false := by rw [State.stopped, hstate]; rfl
  have hrec (child : Nat) (r : FormRecord) (hid : r.groupId = s.group.id) : exec (.formRec child r) s =
      .next (s.setGroup (fun g => { g with childRecs := g.childRecs.filter (fun e => e.1 ≠ child) ++ [(child, r)] })).formAdvance :=
    (whenUp_of_up hup _).trans (congrArg Host.Outcome.next (if_neg (by rw [hlive, hid]; exact not_not.2 rfl)))
  refine ⟨?_, ?_, ?_, ?_, ?_⟩
  · intro child r hid hsent hwait
    obtain ⟨c, hc, hne, hrecs, hrejects⟩ := hwait
    rw [hrec child r hid]
    refine congrArg Host.Outcome.next (State.formAdvance_of_waiting ⟨c, hc, fun e he => ?_, hrejects⟩)
    rcases List.mem_append.1 he with he | he
    · exact hrecs e (List.mem_filter.1 he).1
    · rw [List.mem_singleton.1 he]
      exact hne.symm
  · intro child r hid hsent hrank hrejects hall hreason
    refine ⟨_, hrec child r hid, ?_⟩
    rw [State.formAdvance_of_formed (by exact hstate) (by exact hsent) (by exact hrank) ?_ ?_ ?_, (State.formedNow_spec _).1]
    · rfl
    · intro c hc
      by_cases hcc : c = child
      · exact ⟨(child, r), List.mem_append_right _ (List.mem_singleton_self _), hcc.symm⟩
      · obtain ⟨e, he, hec⟩ := (hall c hc).resolve_left hcc
        exact ⟨e, List.mem_append_left _ (List.mem_filter.2 ⟨he, by simpa [hec] using hcc⟩), hec⟩
    · show s.group.childRejects.filter _ = []
      rw [hrejects]
      rfl
    · exact hreason
  · intro m hrank hid
    refine ⟨s.formedNow, (whenUp_of_up hup _).trans (congrArg Host.Outcome.next (if_pos (by simp [hstate, hrank, hid]))), ?_⟩
    obtain ⟨hgroup, hepoch, hlevel, hpending⟩ := s.formedNow_spec
    rw [hgroup]
    exact ⟨rfl, rfl, rfl, rfl, rfl, rfl, hepoch, hlevel, hpending, s.formedNow_mem⟩
  · intro m hrank hid
    have hparent : s.group.children.contains s.group.parent = false := by
      simp only [Group.children, Group.parent, List.contains_eq_mem, decide_eq_false_iff_not, List.mem_filter, List.mem_cons, List.not_mem_nil,
        or_false, not_and]
      omega
    have hgot : s.gotRejected s.group.parent m = s.rejectedNow m.reason := by
      unfold State.gotRejected
      dsimp only
      rw [hlive, Bool.false_and, if_neg Bool.false_ne_true, if_neg (by simp [hstate, hid]), if_neg (ne_true_of_eq_false hparent),
        if_pos (by simp [hrank])]
    refine ⟨s.rejectedNow m.reason, (whenUp_of_up hup _).trans (congrArg Host.Outcome.next hgot), ?_⟩
    rw [State.rejectedNow, (State.endExchOps_slotChange _).group]
    exact ⟨rfl, rfl⟩
  · exact (whenUp_of_up hup _).trans (congrArg Host.Outcome.next (if_pos hstate))

/-! ### FORM (R220, R221) -/

/-- The checks of the list of members (R220 step 1). -/
def State.formOk (s : State) : Bool :=
  s.obj 0x7000 4 < s.obj 0x7000 3 && (s.oct 0x7000 5).length = 2 * s.obj 0x7000 3 && s.memberList.Nodup &&
    s.memberList.getD (s.obj 0x7000 4) 65536 = s.boot.node

/-- The group that a FORM configures from the objects of a state. -/
def State.formGroup (s : State) (g : Group) : Group :=
  { g with
      state := if s.formOk then .forming else .rejected, reason := if s.formOk then 0 else 4, partition := if s.formOk then false else g.partition,
      id := s.obj 0x7000 2, size := s.obj 0x7000 3, rank := s.obj 0x7000 4, members := s.memberList, eveTimeoutMs := s.obj 0x7000 7,
      watchdogMs := s.obj 0x7000 8,
      repeatLimit := s.obj 0x7000 9, firstStep := s.obj 0x7000 10, lsInit := s.objInt 0x7300 2, lsMin := s.objInt 0x7300 3,
      lsMax := s.objInt 0x7300 4, lsGrowth := s.obj 0x7300 5, formSent := false,
      childRecs := (g.childRecs.filter (fun e => e.2.groupId == s.obj 0x7000 2)).map (fun e => (rankIn s.memberList e.1, e.2)),
      childRejects := (g.childRejects.filter (fun e => e.2.1 == s.obj 0x7000 2)).map (fun e => (rankIn s.memberList e.1, e.2)),
      noiseHead := if s.formOk then 0 else g.noiseHead, stepLimit := if s.formOk then stepAdd (s.obj 0x7000 10) (-1) else g.stepLimit,
      expValid := if s.formOk then [] else g.expValid, atts := if s.formOk then [] else g.atts, overAtts := if s.formOk then [] else g.overAtts }

theorem FormChange.formOk {s t : State} (h : FormChange s t) : t.formOk = s.formOk := by
  rw [FormChange, SlotChange] at h
  rw [h]
  rfl

theorem FormChange.formGroup {s t : State} (h : FormChange s t) (g : Group) : t.formGroup g = s.formGroup g := by
  rw [FormChange, SlotChange] at h
  rw [h]
  rfl

/-- A FORM outside doubt configures the group from the objects, and then waits for its children. -/
theorem State.form_spec {s : State} (hdoubt : s.group.inDoubt = false) : ∃ (t : State) (g : Group), t.group = s.formGroup g ∧ s.form.1 = t.formAdvance := by
  have hstop : FormChange s (if s.stopped then s else (s.endOpen.setGroup (fun g => { g with state := .none })).stopGroup false) := by
    split
    · rfl
    · exact (s.endOpen_formChange.trans (State.setGroup_formChange _ _)).trans (State.stopGroup_slotChange _ _).formChange
  unfold State.form
  rw [if_neg (ne_true_of_eq_false hdoubt)]
  extract_lets t u v ms size rank ok first w
  have hv : FormChange s v := (hstop.trans (t.setGroup_formChange _)).trans (u.bump_slotChange _ _ _).formChange
  exact ⟨w.retarget, v.group, (State.retarget_group w).trans (hv.formGroup v.group), rfl⟩

theorem recordReason_nil {a : FormRecord} (h : a.lsMin ≤ a.lsMax) : recordReason a [] = 0 := by
  simp [recordReason, h]

theorem parts_groupCommands : Parts.GroupCommands := by
  intro s u hup hfree hu
  subst hu
  have hform : exec .form s = .next s.pkgTouch.form.1 :=
    (whenUp_of_up hup _).trans (congrArg Host.Outcome.next (State.unlessMulti_of_free hfree _ _))
  have hdissolve : exec .dissolve s = .next s.pkgTouch.dissolve.1 :=
    (whenUp_of_up hup _).trans (congrArg Host.Outcome.next (State.unlessMulti_of_free hfree _ _))
  refine ⟨fun hdoubt i hi => ?_, fun hdoubt => ⟨?_, fun hbad => ?_, fun hsize hrank hlist hlen hls => ?_⟩, fun child m hstopped hid => ?_, fun hdoubt hstate e he => ?_⟩
  · simp only [List.mem_cons, List.not_mem_nil, or_false] at hi
    rcases hi with rfl | rfl
    · exact hform.trans (congrArg (fun p => Host.Outcome.next (Prod.fst p)) (if_pos hdoubt))
    · exact hdissolve.trans (congrArg (fun p => Host.Outcome.next (Prod.fst p)) (if_pos hdoubt))
  · refine ⟨_, hdissolve, ?_, s.pkgTouch.dissolve_mem⟩
    unfold State.dissolve
    rw [if_neg (ne_true_of_eq_false (show s.pkgTouch.group.inDoubt = false from hdoubt))]
    dsimp only
    rw [State.retarget_group, (State.stopGroup_slotChange _ _).group]
    rfl
  · obtain ⟨t, g, ht, hadv⟩ := State.form_spec (s := s.pkgTouch) hdoubt
    have hok : s.pkgTouch.formOk = false := by
      show s.formOk = false
      simp only [State.formOk, Bool.and_eq_false_iff, decide_eq_false_iff_not, not_lt]
      tauto
    rw [hform, hadv]
    refine ⟨t.formAdvance, rfl, ?_⟩
    have hrejected : t.group.state = GroupState.rejected := by
      rw [ht, State.formGroup, hok]
      rfl
    rw [State.formAdvance_of_stopped (by rw [hrejected]; decide)]
    exact ⟨hrejected, by rw [ht, State.formGroup, hok]; rfl⟩
  · obtain ⟨t, g, ht, hadv⟩ := State.form_spec (s := s.pkgTouch) hdoubt
    have hok : s.pkgTouch.formOk = true := by
      show s.formOk = true
      simp [State.formOk, hsize, hrank, hlist, hlen]
    have hchildren : t.group.children = [] := by
      rw [ht]
      show [2 * s.obj 0x7000 4 + 1, 2 * s.obj 0x7000 4 + 2].filter (· < s.obj 0x7000 3) = []
      rw [hsize, hrank]
      rfl
    have hreason : recordReason t.ownRecord ((t.group.childRecs.filter (fun e => t.group.children.contains e.1)).map (·.2)) = 0 := by
      rw [hchildren]
      have hnone : t.group.childRecs.filter (fun e => ([] : List Nat).contains e.1) = [] := List.filter_eq_nil_iff.2 (by simp)
      rw [hnone]
      refine recordReason_nil ?_
      rw [State.ownRecord, ht]
      exact hls
    have hrejects : t.group.childRejects.filter (fun e => t.group.children.contains e.1) = [] := by
      rw [hchildren]
      exact List.filter_eq_nil_iff.2 (by simp)
    have hformed : t.formAdvance = (t.setGroup (fun g => { g with formSent := true })).formedNow :=
      State.formAdvance_of_formed (by rw [ht, State.formGroup, hok]; rfl) (by rw [ht]; rfl) (by rw [ht]; exact hrank)
        (by rw [hchildren]; simp) hrejects hreason
    refine ⟨_, hform, ?_⟩
    have hmem : s.pkgTouch.form.1.mem = s.mem := s.pkgTouch.form_mem
    have hgroup : s.pkgTouch.form.1.group = Group.formed { t.group with formSent := true } := by
      rw [hadv, hformed, (State.formedNow_spec _).1]
      rfl
    rw [hgroup, ht]
    exact ⟨rfl, rfl, rfl, rfl, rfl, rfl, hmem⟩
  · exact (whenUp_of_up hup _).trans (congrArg Host.Outcome.next (if_pos (by simp [hstopped, hid])))
  · have hresolve (feast : Bool) : s.pkgTouch.resolve feast =
        s.pkgTouch.outcome (if feast then .feast else .fastRepeat) false (s.group.lossAfter (if feast then .feast else .fastRepeat)).1 :=
      if_neg (by show ¬ (!s.group.inDoubt) = true; rw [hdoubt]; exact Bool.false_ne_true)
    simp only [List.mem_cons, List.not_mem_nil, or_false] at he
    rcases he with rfl | rfl
    · refine ⟨_, (whenUp_of_up hup _).trans (congrArg Host.Outcome.next (State.unlessMulti_of_free hfree _ _)), ?_⟩
      rw [hresolve]
      obtain ⟨head, later, isOver, banks, -, hgroup⟩ := s.pkgTouch.outcome_group .feast false (s.group.lossAfter .feast).1
      rw [if_pos rfl, hgroup]
      exact ⟨rfl, rfl, rfl, rfl, rfl, hstate⟩
    · refine ⟨_, (whenUp_of_up hup _).trans (congrArg Host.Outcome.next (State.unlessMulti_of_free hfree _ _)), ?_⟩
      rw [hresolve]
      obtain ⟨head, later, isOver, banks, -, hgroup⟩ := s.pkgTouch.outcome_group .fastRepeat false (s.group.lossAfter .fastRepeat).1
      rw [if_neg Bool.false_ne_true, hgroup]
      exact ⟨rfl, rfl, rfl, rfl, rfl, hstate⟩

/-- Settles O27: a FORM by the group that it configures, the formation by the answers that the member holds, a resolution by the outcome that it
applies. -/
theorem groupMembership : Obligations.GroupMembership := ⟨parts_groupCommands, parts_groupFormation⟩

end Sys2Proof.Machine
end

section
/-! PROOFS. Holds, BUSY and the ends of messages (O38): the message table, what a packet sent again carries, and the last answer of a message. -/

namespace Sys2Proof.Machine

theorem onFabric {s : State} (h : s.fabricOn = true) (t : State) : (Host.Outcome.next (if s.fabricOn then t else s) : Host.Outcome State Fault Refusal) = .next t :=
  congrArg Host.Outcome.next (if_pos h)

/-! ### The message table (R270) -/

theorem State.holdOver_of_held {s : State} {src u id : Nat} {e : MsgEntry} {p : Packet}
    (h : s.msgTable.find? (fun e => e.src == src && e.sunit == u && e.msgid == id && e.held.isSome) = some e) (hp : e.held = some p) :
    s.holdOver src u id = ((s.dropEntry e).bump 0x6300 4 1).answer p 3 := by
  rw [State.holdOver, h]
  dsimp only
  rw [hp]

theorem State.mem_entryIdle (s : State) (src u id : Nat) (e : MsgEntry) :
    e ∈ (s.entryIdle src u id).msgTable ↔ e ∈ s.msgTable ∧ ¬ (e.src = src ∧ e.sunit = u ∧ e.msgid = id ∧ e.held = none) := by
  refine List.mem_filter.trans (and_congr_right' ?_)
  rw [Bool.not_eq_true', ← Bool.not_eq_true]
  simp only [Bool.and_eq_true, beq_iff_eq, Option.isNone_iff_eq_none, and_assoc]

/-! ### A refused packet (R271) -/

theorem State.resendBusy_of_first {s : State} {u id : Nat} {m : SrcMsg} {p : Packet} {rest : List Packet} (hm : s.sentMsg u id = some m)
    (hbusy : m.busy = p :: rest) :
    s.resendBusy u id = (match (s.setSent { m with busy := rest }).readAnew m p with
      | (t, some b) => t.inject { p with body := b }
      | (t, none) => t.sourceLost m) := by
  rw [State.resendBusy, hm]
  dsimp only
  rw [hbusy] <;> rfl

/-- What a unit sends for itself goes again as it was. -/
theorem State.resendBusy_of_unit {s : State} {u id : Nat} {m : SrcMsg} {p : Packet} {rest : List Packet} (hm : s.sentMsg u id = some m)
    (hbusy : m.busy = p :: rest) (hop : m.op = none) : s.resendBusy u id = (s.setSent { m with busy := rest }).inject p := by
  rw [State.resendBusy_of_first hm hbusy, State.readAnew, hop]

/-- A payload is read anew while its operation waits for the message. -/
theorem State.readAnew_of_waiting {s : State} {m : SrcMsg} {p : Packet} {n : Nat} {x : Ctx} {f : Flight} (hop : m.op = some (n, x))
    (hf : (s.ctx n x).fS = some f) (hwait : f.awaiting.contains m.msgid = true) :
    (∀ bs, p.body = .write bs → ∀ r, r = s.recordRange ⟨n, x, f.op.step, f.op.att⟩ (f.op.desc 0) (p.addr - p.base) bs.length →
      s.readAnew m p = (r.1, (whole r.2).map .write)) ∧
    (∀ q, p.body = .queuePart q → ∀ r, r = s.recordRange ⟨n, x, f.op.step, f.op.att⟩ (f.op.desc 0) q.off q.bytes.length →
      s.readAnew m p = (r.1, (whole r.2).map (fun bs => .queuePart { q with bytes := bs }))) := by
  have hnot : ¬ (!f.awaiting.contains m.msgid) = true := by rw [hwait]; exact Bool.false_ne_true
  refine ⟨fun bs hb r hr => ?_, fun q hb r hr => ?_⟩
  all_goals
    rw [State.readAnew, hop]
    dsimp only
    rw [hf]
    dsimp only
    rw [if_neg hnot, hb, hr]

/-- A payload that is read whole goes out; one that is not ends the message. -/
theorem State.resendBusy_of_read {s : State} {u id : Nat} {m : SrcMsg} {p : Packet} {rest : List Packet} (hm : s.sentMsg u id = some m)
    (hbusy : m.busy = p :: rest) {r : State × List (Option Byte)} {b : List Byte → Body}
    (hread : (s.setSent { m with busy := rest }).readAnew m p = (r.1, (whole r.2).map b)) :
    (∀ new, whole r.2 = some new → s.resendBusy u id = r.1.inject { p with body := b new }) ∧
    (whole r.2 = none → s.resendBusy u id = r.1.sourceLost m) := by
  rw [State.resendBusy_of_first hm hbusy, hread]
  exact ⟨fun new h => by rw [h]; rfl, fun h => by rw [h]; rfl⟩

/-! ### Answers (R143) -/

theorem State.answered_of_more {s : State} {u id status : Nat} {m : SrcMsg} (hm : s.sentMsg u id = some m) (hacks : 1 < m.acks) :
    s.answered u id status = s.setSent { m with acks := m.acks - 1, status := if m.status = 0 then status else m.status } := by
  rw [State.answered, hm]
  exact if_neg (by show ¬ m.acks - 1 = 0; omega)

theorem State.sentMsg_names {s : State} {u id : Nat} {m : SrcMsg} (hm : s.sentMsg u id = some m) : m.sunit = u ∧ m.msgid = id := by
  simpa using List.find?_some hm

/-- The last answer a stream operation waits for: it is done with the message's status. -/
theorem Flight.heard_of_last {f : Flight} {id status : Nat} (hwait : f.awaiting = [id]) (hstatus : f.status = 0)
    (hop : opcodeOf .stream f.op.word ≠ 20) : f.heard id status = { f with awaiting := [], status := status, done := true, blocked := false } := by
  simp [Flight.heard, hwait, hstatus, hop]

theorem State.heardCtx_fS (s : State) (n : Nat) (x : Ctx) (c : Context) : (s.heardCtx n x c).fS = c.fS := by
  unfold State.heardCtx State.settleCtx
  split
  · split
    · rfl
    · rw [c.settle_frame]
  · rfl

/-- The package without a message that is over. -/
def State.overMsg (s : State) (m : SrcMsg) : State :=
  { s with sent := s.sent.filter (fun x => !(x.sunit == m.sunit && x.msgid == m.msgid)) }

theorem State.sentMsg_overMsg (s : State) (m : SrcMsg) : (s.overMsg m).sentMsg m.sunit m.msgid = none := by
  refine List.find?_eq_none.2 (fun x hx => ?_)
  have := (List.mem_filter.1 hx).2
  simpa [imp_iff_not_or] using this

/-- A stream operation alone with a message that is over (R143). -/
theorem State.endMsg_of_op {s : State} {m : SrcMsg} {n : Nat} {x : Ctx} {f : Flight} (hop : m.op = some (n, x)) (hparent : m.parent = none)
    (hf : (s.ctx n x).fS = some f) (hwait : f.awaiting = [m.msgid]) (hstatus : f.status = 0) (hreshard : opcodeOf .stream f.op.word ≠ 20)
    (hlocal : s.localAccess f.op = false) :
    (s.endMsg m).sentMsg m.sunit m.msgid = none ∧ (s.endMsg m).ctx n x =
      s.heardCtx n x { s.ctx n x with fS := some { f with awaiting := [], status := m.status, done := true, blocked := false } } := by
  have hheard : (s.ctx n x).fS.map (fun f => f.heard m.msgid m.status) =
      some { f with awaiting := [], status := m.status, done := true, blocked := false } := by
    rw [hf, Option.map_some, Flight.heard_of_last hwait hstatus hreshard]
  have hctx : ((s.overMsg m).modCtx n x (fun c => s.heardCtx n x { c with fS := c.fS.map (fun f => f.heard m.msgid m.status) })).ctx n x =
      s.heardCtx n x { s.ctx n x with fS := some { f with awaiting := [], status := m.status, done := true, blocked := false } } := by
    rw [← hheard]
    exact ctx_setCtx _ _ _ _
  have hkeep : ((s.overMsg m).modCtx n x (fun c => s.heardCtx n x { c with fS := c.fS.map (fun f => f.heard m.msgid m.status) })).localEnd n x =
      (s.overMsg m).modCtx n x (fun c => s.heardCtx n x { c with fS := c.fS.map (fun f => f.heard m.msgid m.status) }) := by
    rw [State.localEnd, hctx, State.heardCtx_fS]
    refine if_neg ?_
    show ¬ (true && s.localAccess f.op && _) = true
    rw [hlocal]
    simp
  have hend : s.endMsg m = (((s.overMsg m).modCtx n x (fun c => s.heardCtx n x { c with fS := c.fS.map (fun f => f.heard m.msgid m.status) })).localEnd n
      x).modSlot (coreSlot n) (fun v => { v with xbanks := v.xbanks.filterMap (fun b => b.acked m.sunit m.msgid) }) := by
    unfold State.endMsg
    rw [hop, hparent]
    rfl
  rw [hend, hkeep]
  exact ⟨s.sentMsg_overMsg m, hctx⟩

theorem State.answered_of_last {s : State} {u id status : Nat} {m : SrcMsg} (hm : s.sentMsg u id = some m) (hacks : m.acks = 1) :
    s.answered u id status = s.endMsg { m with acks := 0, status := if m.status = 0 then status else m.status } := by
  rw [State.answered, hm]
  dsimp only
  rw [hacks]
  rfl

/-- Settles O38: the table's entries, the packet that goes again, and the last answer each by the rule of its own. -/
theorem messageEnds : Obligations.MessageEnds := by
  intro s u id hon
  refine ⟨fun src e p he hp => ?_, fun src => ?_, fun m hm => ⟨fun p => ?_, fun p rest hbusy hop => ?_, ?_, fun node hnode hacks => ?_, fun status hacks => ?_, ?_⟩⟩
  · exact (onFabric hon _).trans (congrArg Host.Outcome.next (State.holdOver_of_held he hp))
  · exact ⟨s.entryIdle src u id, onFabric hon _, rfl, s.mem_entryIdle src u id⟩
  · refine (onFabric hon _).trans (congrArg Host.Outcome.next ?_)
    rw [State.refusedBusy, hm]
  · exact (onFabric hon _).trans (congrArg Host.Outcome.next (State.resendBusy_of_unit hm hbusy hop))
  · intro p rest n x f r off len v hbusy hop hf hwait hv hr
    subst hv
    obtain ⟨hwrite, hpart⟩ := State.readAnew_of_waiting (s := s.setSent { m with busy := rest }) (p := p) hop hf hwait
    refine ⟨fun bs hb hoff hlen => ?_, fun q hb hoff hlen => ?_⟩
    · subst hoff hlen
      obtain ⟨hsome, hnone⟩ := State.resendBusy_of_read hm hbusy (hwrite bs hb r hr)
      exact ⟨fun new hnew => (onFabric hon _).trans (congrArg Host.Outcome.next (hsome new hnew)),
        fun hnew => (onFabric hon _).trans (congrArg Host.Outcome.next (hnone hnew))⟩
    · subst hoff hlen
      obtain ⟨hsome, hnone⟩ := State.resendBusy_of_read hm hbusy (hpart q hb r hr)
      exact ⟨fun new hnew => (onFabric hon _).trans (congrArg Host.Outcome.next (hsome new hnew)),
        fun hnew => (onFabric hon _).trans (congrArg Host.Outcome.next (hnone hnew))⟩
  · refine congrArg Host.Outcome.next ((if_pos (by simp [hon, hnode])).trans ((State.answered_of_more hm hacks).trans ?_))
    have hstatus : (if m.status = 0 then 0 else m.status) = m.status := by
      split
      · exact Eq.symm ‹_›
      · rfl
    rw [hstatus]
  · exact (onFabric hon _).trans (congrArg Host.Outcome.next (State.answered_of_more hm hacks))
  · intro n x f hacks hop hparent hf hwait hstatus hreshard hlocal
    obtain ⟨hu, hid⟩ := State.sentMsg_names hm
    subst hu hid
    have hlast (status : Nat) := State.endMsg_of_op (s := s)
      (m := { m with acks := 0, status := if m.status = 0 then status else m.status }) hop hparent hf hwait hstatus hreshard hlocal
    refine ⟨fun node hnode => ⟨_, congrArg Host.Outcome.next ((if_pos (by simp [hon, hnode])).trans (State.answered_of_last hm hacks)), ?_⟩,
      fun status => ⟨_, (onFabric hon _).trans (congrArg Host.Outcome.next (State.answered_of_last hm hacks)), hlast status⟩⟩
    obtain ⟨hsent, hctx⟩ := hlast 0
    have hzero : (if m.status = 0 then 0 else m.status) = m.status := by
      split
      · exact Eq.symm ‹_›
      · rfl
    refine ⟨hsent, hctx.trans ?_⟩
    dsimp only
    rw [hzero]

end Sys2Proof.Machine
end

section
/-! PROOFS. Messages of the expert exchange and of RESHARD (O35): the holder's holds and banks, the source's SETTLE and returned rows, and the
byte counts of a receiver. -/

namespace Sys2Proof.Machine

/-! ### The holder (R289 to R291, R293) -/

section
variable {s : State} {k : Nat} {m : ExpertMsg} (hen : s.slotEn k = true)
include hen

theorem State.gotExpert_of_ended (hend : s.attEnded m.step m.att = true) : s.gotExpert k m = (s.bump 0x32A0 7 1, .ok) := by
  simp [State.gotExpert, hen, hend]

theorem State.gotExpert_of_busy (hend : s.attEnded m.step m.att = false) (hbank : (s.slot k).bankHeld m.xseq m.step m.att = true) :
    s.gotExpert k m = (s, .busy) := by
  simp [State.gotExpert, hen, hend, hbank]

theorem State.gotExpert_of_new (hend : s.attEnded m.step m.att = false) (hbank : (s.slot k).bankHeld m.xseq m.step m.att = false)
    (hnew : ∀ h ∈ (s.slot k).xholds, (h.xseq, h.step, h.att) ≠ (m.xseq, m.step, m.att)) :
    s.gotExpert k m = (s.setSlot k { s.slot k with xholds := (s.slot k).xholds ++ [⟨m.xseq, m.step, m.att, [m]⟩] }, .ok) := by
  have hnone : (s.slot k).xholds.find? (fun h => h.xseq == m.xseq && h.step == m.step && h.att == m.att) = none := by
    refine List.find?_eq_none.2 (fun h hh => ?_)
    simpa [and_assoc] using hnew h hh
  simp only [State.gotExpert, hen, hend, hbank, hnone, Bool.not_true, Bool.false_eq_true, if_false]

end

/-- The bank that an expert's settled rows enter. -/
def XHold.bank (h : XHold) (e : Nat × Nat × List (Nat × ExpertRow) × List (List ExpertRow)) : XBank :=
  ⟨e.1, h.xseq, h.step, h.att, e.2.2.1.map (fun y => (y.1, y.2.token, y.2.choice)), []⟩

/-- Banks entered into a slot leave what the slot holds else. -/
theorem slot_settleBank (s : State) (k : Nat) (h : XHold) (e : Nat × Nat × List (Nat × ExpertRow) × List (List ExpertRow)) :
    (s.settleBank k h e).slot k = { s.slot k with xbanks := (s.slot k).xbanks ++ [h.bank e] } := by
  unfold State.settleBank
  dsimp only
  rw [slot_bump, slot_bump, slot_bump, State.setBanks, slot_modSlot]
  have hw (l : Nat) (served : List (Nat × ExpertRow)) (n : Nat) : (s.writeBank k l h served n).slot k = s.slot k :=
    slot_of_slots (s.hbmWrite_hbmChange _ _ _).keeps.1 k
  rw [hw]
  rfl

theorem slot_settleBanks (k : Nat) (h : XHold) (l : List (Nat × Nat × List (Nat × ExpertRow) × List (List ExpertRow))) (s : State) :
    (l.foldl (fun s e => s.settleBank k h e) s).slot k = { s.slot k with xbanks := (s.slot k).xbanks ++ l.map h.bank } := by
  induction l generalizing s with
  | nil =>
    rw [List.map_nil, List.append_nil]
    rfl
  | cons e l ih =>
    rw [List.foldl_cons, ih, slot_settleBank, List.map_cons]
    dsimp only
    rw [List.append_assoc, List.singleton_append]

/-- The package once a settled XSEQ has left the holds and its banks are entered. -/
def State.holdSettled (s : State) (k : Nat) (h : XHold) : State :=
  ((s.holdServed k h).foldl (fun s e => s.settleBank k h e) s).modSlot k (fun v => { v with xholds := v.xholds.filter (fun x => x ≠ h) })

theorem slot_holdSettled (s : State) (k : Nat) (h : XHold) :
    ((s.holdSettled k h).slot k).xholds = (s.slot k).xholds.filter (fun y => y ≠ h) ∧
    ((s.holdSettled k h).slot k).xbanks = (s.slot k).xbanks ++ (s.holdServed k h).map h.bank := by
  rw [State.holdSettled, slot_modSlot, slot_settleBanks]
  exact ⟨rfl, rfl⟩

theorem State.settleX_of_hold {s : State} {k xseq : Nat} {h : XHold} (hen : s.slotEn k = true)
    (hh : (s.slot k).xholds.find? (fun h => h.xseq == xseq &&
      (List.range (s.expSources k).length).all (fun r => h.msgs.any (fun m => m.rank == r))) = some h) : s.settleX k xseq = s.settleHold k h := by
  rw [State.settleX, hh]
  exact if_pos hen

/-! ### The source (R291, R292) -/

section
variable {s : State} {k : Nat} {y : XSource}

theorem State.gotSettle_of_new {m : SettleMsg} (hy : (s.slot k).xsources.find? (fun y => y.xseq == m.xseq && y.step == m.step && y.att == m.att) = some y)
    (hend : s.attEnded m.step m.att = false) (hnew : y.settledBy.contains m.holder = false) :
    s.gotSettle k m =
      (if s.settledAll k { y with settledBy := y.settledBy ++ [m.holder], unserved := y.unserved ++ m.unserved } then
        s.markChoices k { y with settledBy := y.settledBy ++ [m.holder], unserved := y.unserved ++ m.unserved }
      else s.setSources k (fun l => l.map (fun e => if e.xseq = y.xseq && e.step = y.step && e.att = y.att then
        { y with settledBy := y.settledBy ++ [m.holder], unserved := y.unserved ++ m.unserved } else e))) := by
  rw [State.gotSettle, hy]
  exact (if_neg (ne_true_of_eq_false hend)).trans (if_neg (ne_true_of_eq_false hnew))

theorem State.gotReturn_of_live {m : ReturnMsg} (hy : (s.slot k).xsources.find? (fun y => y.xseq == m.xseq && y.step == m.step && y.att == m.att) = some y)
    (hend : s.attEnded m.step m.att = false) :
    s.gotReturn k m = ((m.rows.filter (fun r => r.token < y.tokens && r.choice < y.topk)).foldl (fun t r =>
      t.writeRow y.place (s.returnDesc k y.retOff (y.tokens * y.topk)) (r.token * y.topk + r.choice) r.bytes) s).setSources k (fun l => l.map (fun e =>
        if e.xseq = y.xseq && e.step = y.step && e.att = y.att then { e with returned := e.returned ++ m.rows.map (fun r => (r.token, r.choice)) } else e)) := by
  rw [State.gotReturn, hy]
  exact if_neg (ne_true_of_eq_false hend)

/-- A source that knows nothing of the XSEQ. -/
theorem xsource_find?_none {xseq step att : Nat} {l : List XSource} (h : ∀ y ∈ l, (y.xseq, y.step, y.att) ≠ (xseq, step, att)) :
    l.find? (fun y => y.xseq == xseq && y.step == step && y.att == att) = none := by
  refine List.find?_eq_none.2 (fun y hy => ?_)
  simpa [and_assoc] using h y hy

end

theorem parts_expertMessages : Parts.ExpertMessages := by
  intro s k hk hup
  refine ⟨fun m hen hend hbank hnew => ?_, fun m hen hend => ?_, fun m hen hend hbank => ?_, fun xseq h hen hh => ?_, fun m y z hy hend hnew hz => ?_,
    fun m y hy hend => ?_, fun m hnone => ?_, fun m hnone => ?_⟩
  · exact (onSlot_of_up hk hup _).trans (congrArg (fun r => Host.Outcome.next (Prod.fst r)) (State.gotExpert_of_new hen hend hbank hnew))
  · exact (onSlot_of_up hk hup _).trans (congrArg (fun r => Host.Outcome.next (Prod.fst r)) (State.gotExpert_of_ended hen hend))
  · exact (onSlot_of_up hk hup _).trans (congrArg (fun r => Host.Outcome.next (Prod.fst r)) (State.gotExpert_of_busy hen hend hbank))
  · obtain ⟨hholds, hbanks⟩ := slot_holdSettled s k h
    exact ⟨s.holdSettled k h, _, hholds, hbanks, rfl, (onSlot_of_up hk hup _).trans (congrArg Host.Outcome.next (State.settleX_of_hold hen hh))⟩
  · subst hz
    have hgot := (onSlot_of_up hk hup (s.gotSettle k m)).trans (congrArg Host.Outcome.next (State.gotSettle_of_new hy hend hnew))
    exact ⟨fun h => hgot.trans (congrArg Host.Outcome.next (if_neg (ne_true_of_eq_false h))), fun h => hgot.trans (congrArg Host.Outcome.next (if_pos h))⟩
  · exact (onSlot_of_up hk hup _).trans (congrArg Host.Outcome.next (State.gotReturn_of_live hy hend))
  · refine (onSlot_of_up hk hup _).trans (congrArg Host.Outcome.next ?_)
    rw [State.gotSettle, xsource_find?_none hnone]
  · refine (onSlot_of_up hk hup _).trans (congrArg Host.Outcome.next ?_)
    rw [State.gotReturn, xsource_find?_none hnone]

/-! ### RESHARD's receiver (R296) -/

theorem onCore_of_up {s : State} {n : Nat} (hn : n < Config.cores s.part) (hup : s.up = true) (t : State) : onCore n s t = .next t :=
  (if_pos hn).trans (congrArg Host.Outcome.next (if_pos hup))

section
variable {s : State} {core rid : Nat} {r : Reshard} (hr : s.receiver core rid = some r)
include hr

theorem State.gotTransfer_of_beyond {off : Nat} {bs : List Byte} (h : (descOf r.desc).extent < off + bs.length ∨
      s.reaches ⟨core, r.x, 0, 0⟩ (descOf r.desc).space ((descOf r.desc).base + off) bs.length = false) :
    s.gotTransfer core rid off bs = (s.bump 0x32A0 11 bs.length, .refused 1) := by
  rw [State.gotTransfer, hr]
  exact if_pos (by rcases h with h | h <;> simp [h])

theorem State.gotTransfer_of_inside {off : Nat} {bs : List Byte} {q : State × Bool} (hext : off + bs.length ≤ (descOf r.desc).extent)
    (hreach : s.reaches ⟨core, r.x, 0, 0⟩ (descOf r.desc).space ((descOf r.desc).base + off) bs.length = true)
    (hq : q = s.spaceWrite core r.x (descOf r.desc).space ((descOf r.desc).base + off) bs) (hok : q.2 = true) :
    s.gotTransfer core rid off bs = ((q.1.setReshard { r with written := r.written + bs.length }).bump 0x32A0 9 bs.length, .ok) := by
  rw [State.gotTransfer, hr]
  subst hq
  exact (if_neg (by simp [hreach, hext])).trans (if_pos hok)

theorem State.gotNotice_of_receiver (total : Nat) :
    s.gotNotice core rid total = (s.checkReshard { r with notices := r.notices + 1, total := r.total + total }, .ok) := by
  rw [State.gotNotice, hr]

end

theorem State.checkReshard_of_waiting {s : State} {r : Reshard} (h : r.notices < r.senders) : s.checkReshard r = s.setReshard r :=
  if_pos (by simp [h])

theorem State.checkReshard_of_equal {s : State} {r : Reshard} (hc : r.checked = false) (hall : r.senders ≤ r.notices) (hw : r.total = r.written)
    (he : r.total = r.expected) : s.checkReshard r = s.setReshard { r with checked := true } :=
  (if_neg (by simp [hc, hall])).trans (if_pos (by rw [← hw, ← he]; simp))

theorem State.checkReshard_of_unequal {s : State} {r : Reshard} (hc : r.checked = false) (hall : r.senders ≤ r.notices)
    (h : ¬ (r.total = r.written ∧ r.total = r.expected)) :
    s.checkReshard r = ((s.setReshard { r with checked := true, failed := true }).bump 0x32A0 10 1).capture 0x2B
      { die := coreDie r.core, source := blkCore r.core, step := some (s.ctx r.core r.x).step, att := (s.ctx r.core r.x).att } :=
  (if_neg (by simp [hc, hall])).trans (if_neg (by simpa using not_and.1 h))

theorem parts_reshardMessages : Parts.ReshardMessages := by
  intro s core rid hn hup
  refine ⟨fun hnone => ⟨fun off bs => ?_, fun total => ?_⟩, fun r d w off bs hr hd hw => ?_, fun r total hr hc => ⟨fun hwait => ?_, fun hall htot hexp => ?_, fun hall hbad => ?_⟩⟩
  · refine (onCore_of_up hn hup _).trans ?_
    rw [State.gotTransfer, hnone]
  · refine (onCore_of_up hn hup _).trans ?_
    rw [State.gotNotice, hnone]
  · subst hd hw
    refine ⟨fun h => ?_, fun q hext hreach hq hok => ?_⟩
    · exact (onCore_of_up hn hup _).trans (congrArg (fun r => Host.Outcome.next (Prod.fst r)) (State.gotTransfer_of_beyond hr h))
    · exact (onCore_of_up hn hup _).trans (congrArg (fun r => Host.Outcome.next (Prod.fst r)) (State.gotTransfer_of_inside hr hext hreach hq hok))
  all_goals
    refine (onCore_of_up hn hup _).trans ((congrArg (fun r => Host.Outcome.next (Prod.fst r)) (State.gotNotice_of_receiver hr total)).trans
      (congrArg Host.Outcome.next ?_))
  · exact State.checkReshard_of_waiting hwait
  · exact State.checkReshard_of_equal hc hall htot (htot.trans hexp)
  · exact State.checkReshard_of_unequal hc hall hbad

/-- Settles O35: each message by the state of the slot or the receiver that it meets. -/
theorem expertAndReshardMessages : Obligations.ExpertAndReshardMessages := ⟨parts_expertMessages, parts_reshardMessages⟩

end Sys2Proof.Machine
end

section
/-! PROOFS. Packets at the router and at the destination interface (O37): the routing decision by its outcome, and a request at the interface by
whether it closes its message. -/

namespace Sys2Proof.Machine

/-! ### The router -/

/-- The free of an input buffer changes the port that the packet came in on. -/
theorem State.unbuffer_frame (s : State) (h : HeldPacket) : s.unbuffer h = { s with fports := (s.unbuffer h).fports } := by
  unfold State.unbuffer
  split
  · split
    · rfl
    · rfl
  · rfl

theorem State.leave_router (s : State) (n : Nat) (h : HeldPacket) : (s.leave n h).router = s.router.eraseIdx n := by
  rw [State.leave, State.unbuffer_frame]

theorem State.cross_spec (s : State) (n : Nat) (h : HeldPacket) (d : Nat) :
    (s.cross n h d).router = s.router.set n { h with
      die := if h.die % 2 ≠ d % 2 then Nat.xor h.die 1 else Nat.xor h.die 2, left := true,
      crossed := h.crossed ++ [⟨Decidable.decide (h.die % 2 = nextDie h.die d % 2), s.stripeHash h.p % (if h.die % 2 = nextDie h.die d % 2 then 6 else 4)⟩] } ∧
    (s.cross n h d).inbox = s.inbox := by
  have hinbox : (s.unbuffer h).inbox = s.inbox := by rw [State.unbuffer_frame]
  refine ⟨?_, hinbox⟩
  show s.router.set n _ = _
  rw [crossing]
  simp only [decide_eq_true_eq]
  rfl

section
variable {s : State} {n : Nat} {h : HeldPacket} (hn : s.router[n]? = some h)
include hn

theorem State.route_of_wait {p v : Nat} (hh : s.hop h = .wait p v) : s.route n = s := by
  rw [State.route, hn]
  dsimp only
  rw [hh]

theorem State.route_of_line (hh : s.hop h = .deliver) (hline : h.p.line = true) (hcopy : h.copy = false) :
    s.route n = (s.leave n h).lineDeliver h := by
  rw [State.route, hn]
  dsimp only
  rw [hh]
  exact if_pos (by rw [hline, hcopy]; rfl)

theorem State.route_of_deliver (hh : s.hop h = .deliver) (hend : h.p.line = false ∨ h.copy = true) :
    s.route n = (if h.die ≠ s.destDie h.p then s.cross n h (s.destDie h.p) else { s.leave n h with inbox := s.inbox ++ [(h.die, h.p)] }) := by
  rw [State.route, hn]
  dsimp only
  rw [hh]
  exact if_neg (by rcases hend with h | h <;> simp [h])

theorem State.route_of_unreachable (hh : s.hop h = .unreachable) :
    s.route n = (((s.leave n h).lineDeliver h).bump 0x6300 1 1).turnedAway h.die h.p 2 := by
  rw [State.route, hn]
  dsimp only
  rw [hh]

theorem State.route_of_loop (hh : s.hop h = .loop) :
    s.route n = ((((s.leave n h).lineDeliver h).bump 0x6300 2 1).capture 0x28 h.errAt).turnedAway h.die h.p 2 := by
  rw [State.route, hn]
  dsimp only
  rw [hh]

theorem State.route_of_noPort (hh : s.hop h = .noPort) :
    s.route n = ((((s.leave n h).lineDeliver h).bump 0x6300 1 1).capture 0x29 h.errAt).turnedAway h.die h.p 2 := by
  rw [State.route, hn]
  dsimp only
  rw [hh]

theorem State.route_of_stale (hh : s.hop h = .stale) : s.route n = (s.leave n h).staleAway h := by
  rw [State.route, hn]
  dsimp only
  rw [hh]

theorem State.route_of_out {p : Nat} {esc : Bool} (hh : s.hop h = .out p esc) :
    s.route n = (if h.die ≠ portIdx p then s.cross n h (portIdx p)
      else if s.turn p n then (((s.noteServed p n (h.outgoing p esc)).leave n h).lineDeliver h).transmit p (h.outgoing p esc) else s) := by
  rw [State.route, hn]
  dsimp only
  rw [hh]

end

/-- A stale packet that is neither a copy nor of a line ends its message alone. -/
theorem State.staleAway_of_plain (s : State) {h : HeldPacket} (hcopy : h.copy = false) (hline : h.p.line = false) :
    s.staleAway h = ((s.bump 0x6300 3 1).capture 0x13 h.errAt).turnedAway h.die h.p 2 := by
  unfold State.staleAway
  dsimp only
  rw [hcopy, hline]
  rfl

theorem parts_packetRoute : Parts.PacketRoute := by
  intro s u n h hon hn hu
  subst hu
  have hexec : exec (.packetRoute n) s = .next (s.route n) := onFabric hon _
  rw [hexec]
  refine ⟨fun p v hh => ?_, fun hh hline hcopy => ?_, fun hh hend => ⟨fun hdie => ?_, fun hdie => ?_⟩, fun hh => ?_, fun hh => ?_, fun hh => ?_,
    fun hh => ⟨?_, fun hcopy hline => State.staleAway_of_plain _ hcopy hline⟩, fun p esc hh => ⟨fun hdie => ?_, fun hdie hturn => ?_, fun hdie hturn => ?_⟩,
    s.leave_router n h, s.cross_spec n h⟩
  · rw [State.route_of_wait hn hh]
  · rw [State.route_of_line hn hh hline hcopy]
  · rw [State.route_of_deliver hn hh hend, if_neg (not_not.2 hdie)]
  · rw [State.route_of_deliver hn hh hend, if_pos hdie]
  · rw [State.route_of_unreachable hn hh]
  · rw [State.route_of_loop hn hh]
  · rw [State.route_of_noPort hn hh]
  · rw [State.route_of_stale hn hh]
  · rw [State.route_of_out hn hh, if_pos hdie]
  · rw [State.route_of_out hn hh, if_neg (not_not.2 hdie), if_neg (ne_true_of_eq_false hturn)]
  · rw [State.route_of_out hn hh, if_neg (not_not.2 hdie), if_pos hturn]

/-! ### The destination interface -/

/-- The entry of a message whose first packet arrives. -/
def newEntry (die : Nat) (p : Packet) : MsgEntry := ⟨die, p.src, p.sunit, p.msgid, 0, none, 0, []⟩

section
variable {s : State} {die : Nat} {p : Packet}

theorem State.dropEntry_of_none (h : s.msgEntry die p = none) (e : MsgEntry) (he : e.die = die ∧ e.src = p.src ∧ e.sunit = p.sunit ∧ e.msgid = p.msgid) :
    s.dropEntry e = s := by
  obtain ⟨rfl, hsrc, hunit, hid⟩ := he
  have hkeep : s.msgTable.filter (fun x => !(x.is e.die e.src e.sunit e.msgid)) = s.msgTable := by
    refine List.filter_eq_self.2 (fun x hx => ?_)
    have := List.find?_eq_none.1 h x hx
    rw [hsrc, hunit, hid]
    simpa using this
  rw [State.dropEntry, hkeep]

theorem State.msgEntry_putEntry (s : State) {e : MsgEntry} (he : e.die = die ∧ e.src = p.src ∧ e.sunit = p.sunit ∧ e.msgid = p.msgid) :
    (s.putEntry e).msgEntry die p = some e := by
  obtain ⟨rfl, hsrc, hunit, hid⟩ := he
  have hnone : (s.dropEntry e).msgTable.find? (fun x => x.is e.die p.src p.sunit p.msgid) = none := by
    refine List.find?_eq_none.2 (fun x hx => ?_)
    have := (List.mem_filter.1 hx).2
    rw [hsrc, hunit, hid] at this
    simpa using this
  rw [State.msgEntry, State.putEntry]
  dsimp only
  rw [List.find?_append, hnone]
  simp [MsgEntry.is, hsrc, hunit, hid]

/-- A closing packet that nothing else of its message precedes takes effect. -/
theorem State.takeIn_of_single (hnone : s.msgEntry die p = none) (hroom : (s.msgTable.filter (fun e => e.die == die)).length < 4096)
    (hclose : p.close = true) (hcount : p.count ≤ 1) : s.takeIn die p = s.closeMsg (newEntry die p) p := by
  unfold State.takeIn
  dsimp only
  rw [hnone, if_neg (by simp [hroom]), if_pos hclose]
  refine (if_pos (show p.count ≤ (newEntry die p).count + 1 from hcount)).trans ?_
  exact congrArg (fun t => State.closeMsg t (newEntry die p) p) (State.dropEntry_of_none hnone (newEntry die p) ⟨rfl, rfl, rfl, rfl⟩)

theorem State.takeIn_of_early (hnone : s.msgEntry die p = none) (hroom : (s.msgTable.filter (fun e => e.die == die)).length < 4096)
    (hclose : p.close = true) (hcount : 1 < p.count) :
    s.takeIn die p = s.putEntry ⟨die, p.src, p.sunit, p.msgid, 1, some p, 0, []⟩ := by
  unfold State.takeIn
  dsimp only
  rw [hnone, if_neg (by simp [hroom]), if_pos hclose]
  exact if_neg (show ¬ p.count ≤ (newEntry die p).count + 1 from Nat.not_le.2 hcount)

theorem State.takeIn_of_full (hnone : s.msgEntry die p = none) (hfull : 4096 ≤ (s.msgTable.filter (fun e => e.die == die)).length) :
    s.takeIn die p = (s.bump 0x6300 5 1).respond p .busy := by
  unfold State.takeIn
  dsimp only
  rw [hnone]
  exact if_pos (by simp [hfull])

/-- A closing packet whose message is complete with it meets the message's entry. -/
theorem State.takeIn_of_last {e : MsgEntry} (he : s.msgEntry die p = some e) (hclose : p.close = true) (hcount : p.count ≤ e.count + 1) :
    s.takeIn die p = (s.dropEntry e).closeMsg { e with held := none } p := by
  unfold State.takeIn
  dsimp only
  rw [he, if_neg (by simp), if_pos hclose]
  exact if_pos hcount

/-- The first packet of a message that does not close it: its effect, and the entry that it leaves (R269). -/
theorem State.takeIn_of_open (hnone : s.msgEntry die p = none) (hroom : (s.msgTable.filter (fun e => e.die == die)).length < 4096)
    (hclose : p.close = false) :
    ((s.effect p).2 ≠ .busy → s.takeIn die p =
      (s.effect p).1.putEntry ⟨die, p.src, p.sunit, p.msgid, 1, none, (s.effect p).2.code, partPiece p⟩) ∧
    ((s.effect p).2 = .busy → s.takeIn die p = ((s.effect p).1.bump 0x6300 5 1).respond p .busy) := by
  have htake : s.takeIn die p = (match (s.takeOpen (newEntry die p) p).2.held with
      | some q => if q.count ≤ (s.takeOpen (newEntry die p) p).2.count then
          ((s.takeOpen (newEntry die p) p).1.dropEntry (newEntry die p)).closeMsg
            { (s.takeOpen (newEntry die p) p).2 with count := (s.takeOpen (newEntry die p) p).2.count - 1, held := none } q
        else (s.takeOpen (newEntry die p) p).1.putEntry (s.takeOpen (newEntry die p) p).2
      | none => if (s.takeOpen (newEntry die p) p).2.count = 0 then (s.takeOpen (newEntry die p) p).1
        else (s.takeOpen (newEntry die p) p).1.putEntry (s.takeOpen (newEntry die p) p).2) := by
    unfold State.takeIn
    dsimp only
    rw [hnone, if_neg (by simp [hroom]), if_neg (ne_true_of_eq_false hclose)]
    rfl
  rw [htake]
  refine ⟨fun hbusy => ?_, fun hbusy => ?_⟩
  · have hopen : s.takeOpen (newEntry die p) p =
        ((s.effect p).1, ⟨die, p.src, p.sunit, p.msgid, 1, none, (s.effect p).2.code, partPiece p⟩) := by
      unfold State.takeOpen
      dsimp only
      split
      · exact absurd ‹_› hbusy
      · rfl
    rw [hopen]
    rfl
  · have hopen : s.takeOpen (newEntry die p) p = (((s.effect p).1.bump 0x6300 5 1).respond p .busy, newEntry die p) := by
      unfold State.takeOpen
      dsimp only
      rw [hbusy]
    rw [hopen]
    rfl

/-- The answer to a message of one packet that its effect's status gives. -/
theorem State.closeMsg_of_status {t : State} {n : Nat} (hline : p.line = false) (h : s.effect (joinPart p []) 0 = (t, .status n)) :
    s.closeMsg (newEntry die p) p = t.answer p n := by
  unfold State.closeMsg
  dsimp only [newEntry]
  rw [h]
  exact if_neg (by rw [hline]; exact Bool.false_ne_true)

theorem State.closeMsg_of_data {t : State} {bs : List Byte} (h : s.effect (joinPart p []) 0 = (t, .data bs)) :
    s.closeMsg (newEntry die p) p = t.respond p (.readRsp bs) := by
  unfold State.closeMsg
  dsimp only [newEntry]
  rw [h]
  exact if_pos rfl

/-- A refusal at the closing packet leaves its entry for the packet's resend (R271). -/
theorem State.closeMsg_of_busy {e : MsgEntry} {v : State × Reply} (hv : v = s.effect (joinPart p e.data) e.status) (hbusy : v.2 = .busy) (hcount : e.count ≠ 0) :
    s.closeMsg e p = ((v.1.putEntry e).bump 0x6300 5 1).respond p .busy := by
  subst hv
  unfold State.closeMsg
  dsimp only
  rw [hbusy]
  exact congrArg (fun t => State.respond t p .busy) (if_neg hcount)

/-! ### Writes, reads and atomics of one packet (R110, R145) -/

theorem State.effect_write {bs : List Byte} (hbody : p.body = .write bs) (hmesh : p.mesh = false) (hclose : p.close = true) :
    (∀ v w, s.admitted (s.sender p) p.key (accessRange p bs.length).1 (accessRange p bs.length).2 = (v, true) →
      w = v.outsideWrite (v.sender p) p.key p.addr bs → s.effect (joinPart p []) 0 = (w.1, .status w.2.status)) ∧
    (∀ v, s.admitted (s.sender p) p.key (accessRange p bs.length).1 (accessRange p bs.length).2 = (v, false) →
      s.effect (joinPart p []) 0 = (v, .status 1)) := by
  have hjoin : joinPart p [] = p := by rw [joinPart, hbody]
  have heffect : s.effect p 0 = ((s.plainWrite p bs).1, .status (s.plainWrite p bs).2) := by
    rw [State.effect, hbody]
    dsimp only
    rw [if_neg (ne_true_of_eq_false hmesh)]
  have hwhole : s.admitWhole p (accessRange p bs.length).1 (accessRange p bs.length).2 =
      s.admitted (s.sender p) p.key (accessRange p bs.length).1 (accessRange p bs.length).2 := if_pos hclose
  rw [hjoin, heffect, State.plainWrite]
  dsimp only
  rw [hwhole]
  refine ⟨fun v w hv hw => ?_, fun v hv => ?_⟩
  · rw [hv, hw]
  · rw [hv]

theorem State.effect_read {len : Nat} (hbody : p.body = .readReq len) (hclose : p.close = true) :
    (∀ v r, s.admitted (s.sender p) p.key (accessRange p len).1 (accessRange p len).2 = (v, true) →
      r = v.outsideRead (v.sender p) p.key p.addr len → r.2.1 = .ok → s.effect (joinPart p []) 0 = (r.1, .data r.2.2)) ∧
    (∀ v, s.admitted (s.sender p) p.key (accessRange p len).1 (accessRange p len).2 = (v, false) → s.effect (joinPart p []) 0 = (v, .status 1)) := by
  have hjoin : joinPart p [] = p := by rw [joinPart, hbody]
  have heffect : s.effect p 0 = s.readAnswer p len := by rw [State.effect, hbody]
  have hwhole : s.admitWhole p (accessRange p len).1 (accessRange p len).2 =
      s.admitted (s.sender p) p.key (accessRange p len).1 (accessRange p len).2 := if_pos hclose
  rw [hjoin, heffect, State.readAnswer]
  dsimp only
  rw [hwhole]
  refine ⟨fun v r hv hr hok => ?_, fun v hv => ?_⟩
  · subst hr
    rw [hv]
    dsimp only
    rw [if_pos hok]
  · rw [hv]

theorem State.effect_atomic {v : Dword} {r : State × Ended × List Byte} {w : State × Ended} (hbody : p.body = .atomic v) (haddr : p.addr % 8 = 0)
    (hr : r = s.outsideRead (s.sender p) p.key p.addr 8) (hok : r.2.1 = .ok)
    (hw : w = r.1.outsideWrite (s.sender p) p.key p.addr (leBytes 8 (leNat r.2.2 + v.toNat))) :
    s.effect (joinPart p []) 0 = (w.1, .status w.2.status) := by
  have hjoin : joinPart p [] = p := by rw [joinPart, hbody]
  have heffect : s.effect p 0 = ((s.atomicAdd p v).1, .status (s.atomicAdd p v).2) := by rw [State.effect, hbody]
  subst hr hw
  rw [hjoin, heffect, State.atomicAdd, if_neg (not_not.2 haddr)]
  dsimp only
  rw [if_neg (not_not.2 hok)]

end

theorem parts_packetReceive : Parts.PacketReceive := by
  intro s u n die p hon hn hreq hu
  have hexec : exec (.packetReceive n) s = .next (if s.boot.warm then (u.warmCount p.body).answer p 2 else u.takeIn die p) := by
    refine (onFabric hon _).trans (congrArg Host.Outcome.next ?_)
    rw [State.receive, hn, hu]
    dsimp only
    rw [hreq]
    rfl
  have htake (hwarm : s.boot.warm = false) : exec (.packetReceive n) s = .next (u.takeIn die p) :=
    hexec.trans (congrArg Host.Outcome.next (if_neg (ne_true_of_eq_false hwarm)))
  refine ⟨fun hwarm => hexec.trans (congrArg Host.Outcome.next (if_pos hwarm)), fun hwarm hnone hroom => ?_, fun e v hwarm he hcount hclose hlast hv hbusy => ?_,
    fun hwarm hnone hfull => ?_⟩
  · rw [htake hwarm]
    refine ⟨fun hclose hcount hline => ?_, fun hclose hcount => ?_, fun hclose => ?_⟩
    · rw [State.takeIn_of_single hnone hroom hclose hcount]
      refine ⟨fun bs g hbody hmesh hg => ?_, fun len g hbody hg => ?_, fun v r w hbody haddr hr hok hw => ?_⟩
      · subst hg
        obtain ⟨hyes, hno⟩ := State.effect_write (s := u) hbody hmesh hclose
        exact ⟨fun v w hv hw => congrArg Host.Outcome.next (State.closeMsg_of_status hline (hyes v w hv hw)),
          fun v hv => congrArg Host.Outcome.next (State.closeMsg_of_status hline (hno v hv))⟩
      · subst hg
        obtain ⟨hyes, hno⟩ := State.effect_read (s := u) hbody hclose
        exact ⟨fun v r hv hr hok => congrArg Host.Outcome.next (State.closeMsg_of_data (hyes v r hv hr hok)),
          fun v hv => congrArg Host.Outcome.next (State.closeMsg_of_status hline (hno v hv))⟩
      · exact congrArg Host.Outcome.next (State.closeMsg_of_status hline (State.effect_atomic hbody haddr hr hok hw))
    · refine ⟨_, congrArg Host.Outcome.next (State.takeIn_of_early hnone hroom hclose hcount), State.msgEntry_putEntry u ⟨rfl, rfl, rfl, rfl⟩, ?_⟩
      rw [hu]
      rfl
    · obtain ⟨hyes, hno⟩ := State.takeIn_of_open hnone hroom hclose
      exact ⟨fun h => congrArg Host.Outcome.next (hyes h), fun h => congrArg Host.Outcome.next (hno h)⟩
  · rw [htake hwarm, State.takeIn_of_last he hclose hlast]
    exact congrArg Host.Outcome.next (State.closeMsg_of_busy (e := { e with held := none }) hv hbusy hcount)
  · rw [htake hwarm, State.takeIn_of_full hnone hfull]

/-- Settles O37: the routing decision by its outcomes, a request by its effect and the entry of its message. -/
theorem routeAndReceive : Obligations.RouteAndReceive := ⟨parts_packetRoute, parts_packetReceive⟩

end Sys2Proof.Machine
end

section
/-! PROOFS. Enabling and disabling a slot (O25): what the reads of the layer table and of the declaration change, what grants change in the slot,
and what a disable leaves of it. -/

namespace Sys2Proof.Machine

/-! ### The checks (R199, R222, R283) -/

theorem State.slotRead_hbmChange (s : State) (k a n : Nat) : HbmChange s (s.slotRead k a n).1 := by
  unfold State.slotRead
  split
  · exact s.hbmRead_hbmChange _ a n
  · rfl

theorem State.layerTable_hbmChange (s : State) (k : Nat) : HbmChange s (s.layerTable k).1 := by
  have h := s.slotRead_hbmChange k (s.obj (0x7200 + k) 4) (32 * s.obj (0x7200 + k) 5)
  unfold State.layerTable
  dsimp only
  generalize s.slotRead k (s.obj (0x7200 + k) 4) (32 * s.obj (0x7200 + k) 5) = r at h
  obtain ⟨t, _ | bs⟩ := r
  · exact h
  · exact h

theorem State.declare_hbmChange (s : State) (k : Nat) (es : List LayerEntry) : HbmChange s (s.declare k es).1 := by
  have hhead := s.slotRead_hbmChange k (s.obj (0x7700 + k) 1) 128
  unfold State.declare
  dsimp only
  split
  · rfl
  · generalize s.slotRead k (s.obj (0x7700 + k) 1) 128 = r at hhead
    obtain ⟨t, _ | hd⟩ := r
    · exact hhead
    · dsimp only at hhead ⊢
      split
      · exact hhead
      · split
        · exact hhead
        · have hrecs := hhead.trans (t.slotRead_hbmChange k (s.obj (0x7700 + k) 1 + 128) (32 * leNat (slice hd 2 2)))
          generalize t.slotRead k (s.obj (0x7700 + k) 1 + 128) (32 * leNat (slice hd 2 2)) = r at hrecs
          obtain ⟨v, _ | bs⟩ := r
          · exact hrecs
          · dsimp only at hrecs ⊢
            split
            · exact hrecs
            · split
              · exact hrecs
              · have hplan := hrecs.trans (v.hbmWrite_hbmChange (v.slotKey k) (s.obj (0x7700 + k) 1 + 0x40)
                  (planBits (planOf es ((List.range (leNat (slice hd 2 2))).map (fun i => slice bs (32 * i) 32)) (leNat (slice hd 0x28 8)))))
                generalize v.hbmWrite (v.slotKey k) (s.obj (0x7700 + k) 1 + 0x40) (planBits (planOf es ((List.range (leNat (slice hd 2 2))).map
                  (fun i => slice bs (32 * i) 32)) (leNat (slice hd 0x28 8)))) = r at hplan
                obtain ⟨x, _ | _⟩ := r
                · exact hplan
                · exact hplan

theorem slotEn_of_blocks {s t : State} (h : t.blocks = s.blocks) (k : Nat) : t.slotEn k = s.slotEn k := by
  rw [State.slotEn, State.slotEn, State.block_of_blocks h]

theorem slotEn_modBlock (s : State) (k : Nat) (f : Block → Block) :
    (s.modBlock (blkPipe k) f).slotEn k = (f (s.block (blkPipe k))).en := by
  rw [State.slotEn, State.modBlock, block_setBlock]

theorem slot_modBlock (s : State) (k b : Nat) (f : Block → Block) : (s.modBlock b f).slot k = s.slot k := rfl

/-! ### Grants (R203) -/

/-- What grants and versions change: the slot's list of grants and its version store; blocks and memory stay. -/
def GrantChange (k : Nat) (s t : State) : Prop :=
  t.slot k = { s.slot k with granted := (t.slot k).granted, versions := (t.slot k).versions } ∧ t.blocks = s.blocks ∧ t.mem = s.mem

theorem GrantChange.refl (k : Nat) (s : State) : GrantChange k s s := ⟨rfl, rfl, rfl⟩

theorem GrantChange.trans {k : Nat} {s t u : State} (ht : GrantChange k s t) (hu : GrantChange k t u) : GrantChange k s u := by
  obtain ⟨hslot, hblocks, hmem⟩ := ht
  obtain ⟨hslot', hblocks', hmem'⟩ := hu
  refine ⟨?_, hblocks'.trans hblocks, hmem'.trans hmem⟩
  rw [hslot', hslot]

theorem GrantChange.versioned {k : Nat} {s t : State} (h : GrantChange k s t) (f : Slot → Table (VerState × Nat)) :
    GrantChange k s (t.modSlot k (fun v => { v with versions := f v })) :=
  h.trans ⟨by rw [slot_modSlot], rfl, rfl⟩

theorem State.post_blocks (s : State) (u dst key : Nat) (b : Body) : (s.post u dst key b).blocks = s.blocks ∧ (s.post u dst key b).slots = s.slots := by
  have h := s.post_sendChange u dst key b
  rw [SendChange] at h
  rw [h]
  exact ⟨rfl, rfl⟩

theorem State.bump_blocks (s : State) (i j n : Nat) : (s.bump i j n).blocks = s.blocks := by
  have h := s.bump_totChange i j n
  rw [TotChange] at h
  rw [h]

theorem GrantChange.of_slots {k : Nat} {s t : State} (hslots : t.slots = s.slots) (hblocks : t.blocks = s.blocks) (hmem : t.mem = s.mem) :
    GrantChange k s t :=
  ⟨by rw [slot_of_slots hslots], hblocks, hmem⟩

theorem GrantChange.granted {k : Nat} {s t : State} (h : GrantChange k s t) (x : NodeSlot × QKind × Nat) :
    GrantChange k s (t.modSlot k (fun v => { v with granted := v.granted ++ [x] })) :=
  h.trans ⟨by rw [slot_modSlot], rfl, rfl⟩

theorem GrantChange.bumped {k : Nat} {s t : State} (h : GrantChange k s t) (i j n : Nat) : GrantChange k s (t.bump i j n) :=
  h.trans (.of_slots (t.bump_slots i j n) (t.bump_blocks i j n) (t.bump_mem i j n))

theorem GrantChange.posted {k : Nat} {s t : State} (h : GrantChange k s t) (u dst key : Nat) (b : Body) : GrantChange k s (t.post u dst key b) :=
  h.trans (.of_slots (t.post_blocks u dst key b).2 (t.post_blocks u dst key b).1 (t.post_mem u dst key b))

theorem State.sendGrants_grantChange (s : State) (k : Nat) (q : QKind) : GrantChange k s (s.sendGrants k q) :=
  foldl_holds (GrantChange k s) _ (fun _ p h => ((h.granted (p.1, q, p.2)).bumped _ _ _).posted _ _ _ _) _ _ (.refl k s)

/-! ### SLOT_ENABLE -/

/-- The slot once it is on, before versions and grants. -/
def State.slotTaken (w : State) (k : Nat) (es : List LayerEntry) (plan : List Nat) (fp : Nat) : State :=
  (w.modSlot k (fun v => { v with declReason := 0, plan := plan, layers := es, footprint := fp, quota := unionBytes (w.slotWindows k) })).modBlock
    (blkPipe k) (fun b => { b with en := true, cfgBad := false })

section
variable {u v w : State} {k : Nat} {es : List LayerEntry} (hoff : u.slotEn k = false)
include hoff

theorem State.slotOn_of_bad (hbad : (u.slotOk k && u.xchOk k) = false) : u.slotOn k = (u.slotBad k, false) :=
  (if_neg (ne_true_of_eq_false hoff)).trans (if_pos (by rw [← Bool.not_and, hbad]; rfl))

variable (hok : u.slotOk k = true) (hxch : u.xchOk k = true) (hlayers : u.layerTable k = (v, some es))
include hok hxch hlayers

theorem State.slotOn_of_refused {code : Nat} (hdecl : v.declare k es = (w, .refused code)) :
    u.slotOn k = ((w.modSlot k (fun v => { v with declReason := code })).slotBad k, false) := by
  unfold State.slotOn
  rw [if_neg (ne_true_of_eq_false hoff), if_neg (by rw [hok, hxch]; exact Bool.false_ne_true), hlayers]
  dsimp only
  rw [hdecl]

theorem State.slotOn_of_declared {plan : List Nat} {fp : Nat} (hdecl : v.declare k es = (w, .ok plan fp)) :
    GrantChange k (w.slotTaken k es plan fp) (u.slotOn k).1 := by
  have hon : (u.slotOn k).1 = ((if (w.slotTaken k es plan fp).group.state = .active then
      ((w.slotTaken k es plan fp).initVersions k).stageVersion k else w.slotTaken k es plan fp).sendGrants k .forward).sendGrants k .backward := by
    unfold State.slotOn
    rw [if_neg (ne_true_of_eq_false hoff), if_neg (by rw [hok, hxch]; exact Bool.false_ne_true), hlayers]
    dsimp only
    rw [hdecl]
    rfl
  rw [hon]
  refine GrantChange.trans ?_ ((State.sendGrants_grantChange _ _ _).trans (State.sendGrants_grantChange _ _ _))
  split
  · exact ((GrantChange.refl k _).versioned _).versioned _
  · exact .refl _ _

end

/-! ### SLOT_DISABLE (Table 9.6) -/

/-- What a disabled slot keeps. -/
def Slot.disabled (v : Slot) : Slot :=
  { fwdMax := v.fwdMax, bwdMax := v.bwdMax, declReason := v.declReason, footprint := v.footprint, quota := v.quota, plan := v.plan }

/-- Operations that end while they are queued change contexts and error records. -/
theorem State.endQueued_faultChange (s : State) (n : Nat) (x : Ctx) (gone : Op → Bool) (status : Nat) :
    FaultChange s (s.endQueued n x gone status) := by
  unfold State.endQueued
  dsimp only
  split
  · rfl
  · split
    · rfl
    · exact foldl_holds (FaultChange s) _ (fun t o h => h.trans (t.capture_faultChange _ (by decide) (by decide))) _ _ rfl

theorem FaultChange.slots {s t : State} (h : FaultChange s t) : t.slots = s.slots := by
  rw [FaultChange] at h
  rw [h]

theorem FaultChange.blocks {s t : State} (h : FaultChange s t) : t.blocks = s.blocks := by
  rw [FaultChange] at h
  rw [h]

/-- What the end of the experts' work changes in its slot (R294). -/
theorem slot_endExperts (s : State) (k : Nat) (isOver : Nat → Nat → Bool) :
    ∃ holds banks sources, (s.endExperts k isOver).slot k = { s.slot k with xholds := holds, xbanks := banks, xsources := sources } := by
  unfold State.endExperts
  dsimp only
  rw [slot_bump, slot_setSlot]
  exact ⟨_, _, _, rfl⟩

theorem State.slotOff_spec {s : State} {k : Nat} (hen : s.slotEn k = true) :
    (s.slotOff k).slotEn k = false ∧ (s.slotOff k).slot k = (s.slot k).disabled := by
  unfold State.slotOff
  rw [if_neg (by rw [hen]; exact Bool.false_ne_true)]
  extract_lets e v b c d f
  have hv : v.disabled = (s.slot k).disabled := by
    obtain ⟨holds, banks, sources, h⟩ := slot_endExperts s k (fun _ _ => true)
    show ((s.endExperts k fun _ _ => true).slot k).disabled = _
    rw [h]
    rfl
  have hb : b.slotEn k = false := slotEn_modBlock _ _ _
  have hd : d.blocks = b.blocks :=
    (foldl_keeps State.blocks _ (by intro t g; exact (State.post_blocks _ _ _ _ _).1) _ _).trans (State.bump_blocks _ _ _ _)
  have hchange : FaultChange f ((List.range 6).foldl (fun s p =>
      (s.modCtx (6 * k + p) .crown (fun c => endExchange (endWaiting c))).endQueued (6 * k + p) .crown Op.isExch 2) f) :=
    foldl_holds (FaultChange f) _ (fun t p h => (h.trans (t.setCtx_faultChange _ _ _)).trans (State.endQueued_faultChange _ _ _ _ _)) _ _ rfl
  refine ⟨?_, ?_⟩
  · exact (slotEn_of_blocks hchange.blocks k).trans ((slotEn_of_blocks (s := b) hd k).trans hb)
  · exact (slot_of_slots hchange.slots k).trans ((slot_setSlot _ _ _).trans hv)

/-- Settles O25: an enable by the check that it fails or by what the declaration gives, a disable by what the slot keeps. -/
theorem slotEnable : Obligations.SlotEnable := by
  intro k s u hk hup hfree hu
  have huen : u.slotEn k = s.slotEn k := by
    rw [hu]
    exact slotEn_modBlock _ _ _
  have hexec : exec (.slotEnable k) s = .next (u.slotOn k).1 :=
    (onSlot_of_up hk hup _).trans (congrArg Host.Outcome.next ((State.unlessMulti_of_free hfree _ _).trans (by rw [hu])))
  have hblocks {v w : State} {es : List LayerEntry} {r : DeclEnd} (hl : u.layerTable k = (v, some es)) (hd : v.declare k es = (w, r)) :
      HbmChange u w := by
    have h1 := u.layerTable_hbmChange k
    have h2 := v.declare_hbmChange k es
    rw [hl] at h1
    rw [hd] at h2
    exact h1.trans h2
  refine ⟨fun hoff hbad => ?_, fun v es w plan fp hoff hok hxch hl hd => ?_, fun v es w code hoff hok hxch hl hd => ?_, fun hen => ?_⟩
  · rw [hexec, State.slotOn_of_bad (huen.trans hoff) hbad]
  · refine ⟨_, hexec, ?_⟩
    obtain ⟨hslot, hb, hmem⟩ := State.slotOn_of_declared (huen.trans hoff) hok hxch hl hd
    have htaken : (w.slotTaken k es plan fp).slot k =
        { w.slot k with declReason := 0, plan := plan, layers := es, footprint := fp, quota := unionBytes (w.slotWindows k) } := by
      rw [State.slotTaken, slot_modBlock, slot_modSlot]
    rw [htaken] at hslot
    refine ⟨(slotEn_of_blocks hb k).trans (slotEn_modBlock _ _ _), ?_, ?_, ?_, ?_, ?_, ?_, hmem⟩
    · rw [State.block_of_blocks hb]
      exact congrArg Block.cfgBad (block_setBlock _ _ _)
    all_goals rw [hslot]
  · refine ⟨_, hexec, ?_⟩
    have hw := (slotEn_of_blocks (hblocks hl hd).keeps.2.1 k).trans (huen.trans hoff)
    rw [State.slotOn_of_refused (huen.trans hoff) hok hxch hl hd]
    have hslot : ((w.modSlot k (fun v => { v with declReason := code })).slotBad k).slot k = { w.slot k with declReason := code } := by
      rw [State.slotBad, slot_modBlock, slot_modSlot]
    refine ⟨(slotEn_modBlock _ _ _).trans hw, congrArg Block.cfgBad (block_setBlock _ _ _), ?_, ?_, ?_⟩
    all_goals
      dsimp only
      rw [hslot]
  · refine ⟨u.slotOff k, (onSlot_of_up hk hup _).trans (congrArg Host.Outcome.next ((State.unlessMulti_of_free hfree _ _).trans (by rw [hu]; rfl))), ?_⟩
    obtain ⟨hoff, hslot⟩ := State.slotOff_spec (huen.trans hen)
    have hmem : (u.slotOff k).mem = s.mem := (u.slotOff_mem k).trans (by rw [hu]; rfl)
    have hs : u.slot k = s.slot k := by rw [hu]; rfl
    rw [hslot, hs]
    exact ⟨hoff, rfl, rfl, rfl, rfl, rfl, hmem⟩

end Sys2Proof.Machine
end

section
/-! PROOFS. Messages of the gradient exchange (O29): the runs of a message by the places where its bytes are cut, and each message by the attempt
and the region that it meets. -/

namespace Sys2Proof.Machine

/-! ### The runs of a message (R233, R237) -/

/-- Consecutive slices of a list, cut at rising places, make up what lies between the first place and the last. -/
theorem flatMap_slices {α : Type} {c : Nat → Nat} (hc : Monotone c) (bs : List α) (m : Nat) :
    (List.range m).flatMap (fun i => (bs.drop (c i)).take (c (i + 1) - c i)) = (bs.drop (c 0)).take (c m - c 0) := by
  induction m with
  | zero => simp
  | succ m ih =>
    have h0 : c 0 ≤ c m := hc (Nat.zero_le m)
    have h1 : c m ≤ c (m + 1) := hc (Nat.le_succ m)
    rw [List.range_succ, List.flatMap_append, ih, List.flatMap_singleton, show c (m + 1) - c 0 = (c m - c 0) + (c (m + 1) - c m) by omega,
      List.take_add, List.drop_drop, show c 0 + (c m - c 0) = c m by omega]

/-- Place in `n` bytes from `off` on at which the i-th run begins. -/
def runCut (row off n i : Nat) : Nat := min n (max off ((off / row + i) * row) - off)

theorem runCut_monotone (row off n : Nat) : Monotone (runCut row off n) := by
  intro i j hij
  have : (off / row + i) * row ≤ (off / row + j) * row := Nat.mul_le_mul_right row (by omega)
  unfold runCut
  omega

theorem runCut_zero (row off n : Nat) : runCut row off n 0 = 0 := by
  have : (off / row + 0) * row ≤ off := by
    rw [Nat.add_zero]
    exact Nat.div_mul_le_self off row
  unfold runCut
  omega

section
variable {row off n : Nat} (hrow : 0 < row)
include hrow

theorem runCut_last : runCut row off n (ceilDiv (off + n) row - off / row) = n := by
  have hle : off / row ≤ ceilDiv (off + n) row := Nat.div_le_div_right (by omega)
  have hall : off + n ≤ ceilDiv (off + n) row * row := by
    have := Nat.div_add_mod (off + n + row - 1) row
    have := Nat.mod_lt (off + n + row - 1) hrow
    rw [ceilDiv, Nat.mul_comm]
    omega
  unfold runCut
  rw [Nat.add_sub_cancel' hle]
  omega

/-- Bounds of the i-th run: it begins before the bytes end, and ends after they begin. -/
theorem run_bounds {i : Nat} (hi : i < ceilDiv (off + n) row - off / row) :
    ((off / row + i) * row ≤ off ∨ (off / row + i) * row < off + n) ∧ off < (off / row + i + 1) * row ∧
      (i = 0 ∨ off ≤ (off / row + i) * row) := by
  have hfirst : off < (off / row + 1) * row := by
    have := Nat.div_add_mod off row
    have := Nat.mod_lt off hrow
    rw [Nat.add_mul, Nat.one_mul, Nat.mul_comm]
    omega
  have hlast : (off / row + i) * row < off + n := by
    have : (off / row + i + 1) * row ≤ off + n + row - 1 := by
      rw [← Nat.le_div_iff_mul_le hrow]
      rw [ceilDiv] at hi
      omega
    rw [Nat.add_mul, Nat.one_mul] at this
    omega
  refine ⟨.inr hlast, lt_of_lt_of_le hfirst (Nat.mul_le_mul_right row (by omega)), ?_⟩
  rcases Nat.eq_zero_or_pos i with h | h
  · exact .inl h
  · exact .inr (le_trans hfirst.le (Nat.mul_le_mul_right row (by omega)))

/-- A piece lies between two cuts, at its place in its row. -/
theorem runPiece_spec {i : Nat} (hi : i < ceilDiv (off + n) row - off / row) {lo hi' : Nat} (hlo : lo = max off ((off / row + i) * row))
    (hhi : hi' = min (off + n) ((off / row + i + 1) * row)) :
    lo - off = runCut row off n i ∧ hi' - lo = runCut row off n (i + 1) - runCut row off n i ∧ off + (lo - off) = lo ∧
      lo / row = off / row + i ∧ lo % row + (hi' - lo) ≤ row := by
  obtain ⟨hbegin, hend, hplace⟩ := run_bounds hrow hi
  have hnext : (off / row + i + 1) * row = (off / row + i) * row + row := by rw [Nat.add_mul _ 1, Nat.one_mul]
  have hdiv : lo / row = off / row + i := by
    rcases hplace with h | h
    · subst h
      have : (off / row + 0) * row ≤ off := by
        rw [Nat.add_zero]
        exact Nat.div_mul_le_self off row
      rw [hlo, max_eq_left this, Nat.add_zero]
    · rw [hlo, max_eq_right h, Nat.mul_div_cancel _ hrow]
  have hmod : lo = (off / row + i) * row + lo % row := by
    rw [← hdiv, Nat.mul_comm]
    exact (Nat.div_add_mod lo row).symm
  unfold runCut
  rw [← Nat.add_assoc]
  refine ⟨?_, ?_, ?_, hdiv, ?_⟩ <;> omega

theorem runPieces_partition (pitch : Nat) (bs : List Byte) :
    (runPieces row pitch off bs.length).flatMap (fun e => (bs.drop e.1).take e.2.2) = bs := by
  have hslices := flatMap_slices (runCut_monotone row off bs.length) bs (ceilDiv (off + bs.length) row - off / row)
  rw [runCut_zero, runCut_last hrow, List.drop_zero, Nat.sub_zero, List.take_length] at hslices
  rw [runPieces, if_neg (Nat.pos_iff_ne_zero.1 hrow), List.flatMap_map]
  refine Eq.trans (List.flatMap_congr (fun i hi => ?_)) hslices
  obtain ⟨hlo, hlen, -, -, -⟩ := runPiece_spec hrow (List.mem_range.1 hi) rfl rfl
  dsimp only
  rw [hlo, hlen]

theorem runPieces_places (pitch : Nat) {e : Nat × Nat × Nat} (he : e ∈ runPieces row pitch off n) :
    e.1 + e.2.2 ≤ n ∧ e.2.1 = (off + e.1) / row * pitch + (off + e.1) % row ∧ (off + e.1) % row + e.2.2 ≤ row := by
  rw [runPieces, if_neg (Nat.pos_iff_ne_zero.1 hrow), List.mem_map] at he
  obtain ⟨i, hi, rfl⟩ := he
  obtain ⟨hlo, hlen, hoff, hdiv, hmod⟩ := runPiece_spec hrow (List.mem_range.1 hi) rfl rfl
  have hmono : runCut row off n i ≤ runCut row off n (i + 1) := runCut_monotone row off n (Nat.le_succ i)
  have hle : runCut row off n (i + 1) ≤ n := Nat.min_le_left _ _
  dsimp only
  rw [hoff, hdiv]
  exact ⟨by omega, rfl, hmod⟩

end

/-! ### Partials (R226, R244) -/

section
variable {s : State} {k : Nat} {p : Partial}

theorem State.gotPartial_of_over (h : s.attOver p.step p.att = true) : s.gotPartial k p = s.bump 0x3290 7 1 :=
  if_pos (by rw [h]; rfl)

variable (hover : s.attOver p.step p.att = false) (hen : s.slotEn k = true) (hstop : s.group.stopped.contains (k, p.layer, p.slice, p.pos) = false)
include hover hen hstop

theorem State.gotPartial_of_forming (hstate : s.group.state = .forming) :
    s.gotPartial k p = s.setGroup (fun g => { g with partials := g.partials ++ [⟨k, p⟩] }) :=
  (if_neg (by rw [hover, hen]; exact Bool.false_ne_true)).trans ((if_neg (ne_true_of_eq_false hstop)).trans (if_pos hstate))

theorem State.gotPartial_of_active (hstate : s.group.state = .active) : s.gotPartial k p = s.climb k 18 p :=
  (if_neg (by rw [hover, hen]; exact Bool.false_ne_true)).trans
    ((if_neg (ne_true_of_eq_false hstop)).trans (if_neg (by rw [hstate]; exact GroupState.noConfusion)))

end

/-- Below the root a partial goes to the package that combines its parent node, or waits there for its sibling. -/
theorem State.climb_of_below {s : State} {k n : Nat} {p : Partial} {e : LayerEntry} (he : s.layer k p.layer = some e)
    (hwidth : 1 < ceilDiv (s.xchSize k) (2 ^ p.level)) :
    (s.xchMember k (s.combiner k p.slice (p.level + 1) (p.index / 2)) ≠ s.here k → s.climb k (n + 1) p =
      s.post (unitExch (k / 4)) (s.xchMember k (s.combiner k p.slice (p.level + 1) (p.index / 2))).node (s.slotKey k)
        (.exchPartial (s.xchMember k (s.combiner k p.slice (p.level + 1) (p.index / 2))).slot p)) ∧
    (s.xchMember k (s.combiner k p.slice (p.level + 1) (p.index / 2)) = s.here k → Nat.xor p.index 1 < ceilDiv (s.xchSize k) (2 ^ p.level) →
      s.group.partials.find? (fun h => h.fits k p (Nat.xor p.index 1)) = none →
      s.climb k (n + 1) p = s.setGroup (fun gr => { gr with partials := gr.partials ++ [⟨k, p⟩] })) := by
  refine ⟨fun hdst => ?_, fun hdst hsib hnone => ?_⟩
  all_goals
    rw [State.climb]
    dsimp only
    rw [he]
    dsimp only
    rw [if_neg (Nat.not_le.2 hwidth)]
  · exact if_pos hdst
  · rw [if_neg (not_not.2 hdst), if_neg (Nat.not_le.2 hsib), hnone]

/-! ### Regions of another package's bytes (R307) -/

section
variable {s : State} {key : Nat} {g : RunRegion} {off : Nat} {bs : List Byte}

theorem State.landRuns_of_isolation (h : s.runsAdmit key g = .isolation) : s.landRuns key g off bs true = (s.isolated g.base, 1) := by
  rw [State.landRuns, h]
  rfl

theorem State.landRuns_of_closed (h : s.runsAdmit key g = .closed) : s.landRuns key g off bs true = (s, 1) := by
  rw [State.landRuns, h]

theorem State.landRuns_of_ok (h : s.runsAdmit key g = .ok) : s.landRuns key g off bs true = s.writeRuns key g off bs := by
  rw [State.landRuns, h]

end

/-- A factor part whose bytes landed is remembered (R233). -/
theorem State.gotFactor_of_live {s : State} {k : Nat} {f : FactorPart} {e : LayerEntry} (hover : s.attOver f.step f.att = false)
    (hen : s.slotEn k = true) (he : s.layer k f.layer = some e) {r : State × Nat}
    (hr : s.landRuns f.key (s.factorPlace k e f) f.off f.bytes true = r) :
    (s.gotFactor k f).1 = if r.2 = 0 then
      { r.1 with group := { r.1.group with factors := r.1.group.factors ++ [⟨k, f.layer, f.slice, f.pos, f.rank, f.gz, f.step, f.att⟩] } } else r.1 := by
  unfold State.gotFactor
  rw [if_neg (by rw [hover, hen]; exact Bool.false_ne_true), he]
  dsimp only [Option.isSome]
  rw [hr]
  obtain ⟨t, _ | v⟩ := r <;> rfl

/-! ### Deliveries (R236, R237) -/

theorem State.deliver_of_over {s : State} {d : Delivery} (h : s.attOver d.step d.att = true ∨ s.exchBegun d.step = false) :
    (s.deliver d).1 = s.bump 0x3290 7 1 := by
  have hc : (s.attOver d.step d.att || !s.exchBegun d.step) = true := by
    rcases h with h | h <;> simp [h]
  unfold State.deliver
  dsimp only
  rw [if_pos hc]
  rfl

section
variable {s : State} {d : Delivery} (hover : s.attOver d.step d.att = false) (hbegun : s.exchBegun d.step = true) {r : State × Nat}
  (hr : s.landRuns d.key ⟨d.base, d.row, d.pitch, d.whole⟩ d.off d.bytes true = r)
include hover hbegun hr

theorem State.deliver_of_refused (h : r.2 ≠ 0) : (s.deliver d).1 = r.1 := by
  unfold State.deliver
  dsimp only [Option.isSome, deliveryPlace]
  rw [if_neg (by rw [hover, hbegun]; exact Bool.false_ne_true), hr]
  obtain ⟨t, _ | v⟩ := r
  · exact absurd rfl h
  · rfl

/-- A delivery whose rows were all taken counts where its exponents were taken too. -/
theorem State.deliver_of_taken (h : r.2 = 0) {q : State × Nat} (hq : r.1.deliverExps (s.memberSlots d.owner) d = q) :
    (s.deliver d).1 = if q.2 = 0 then (s.memberSlots d.owner).foldl (fun s k => s.report ⟨2, k, d.pos, d.layer, d.slice⟩ false) q.1 else q.1 := by
  obtain ⟨t, v⟩ := r
  obtain rfl : v = 0 := h
  have hmatch : (s.deliver d).1 = (match t.deliverExps (s.memberSlots d.owner) d with
      | (u, 0) => ((s.memberSlots d.owner).foldl (fun (s : State) k => s.report ⟨2, k, d.pos, d.layer, d.slice⟩ false) u, 0)
      | r => r).1 := by
    unfold State.deliver
    dsimp only [Option.isSome, deliveryPlace]
    rw [if_neg (by rw [hover, hbegun]; exact Bool.false_ne_true), hr] <;> rfl
  rw [hmatch, hq]
  obtain ⟨u, _ | v⟩ := q <;> rfl

end

/-- Settles O29: the runs by their cuts, a message by its attempt, and what lands by what the checks of its region find. -/
theorem exchangeMessages : Obligations.ExchangeMessages := by
  refine ⟨fun row pitch off bs hrow => ⟨runPieces_partition hrow pitch bs, fun e he => runPieces_places hrow pitch he⟩, fun s k hk hup => ?_⟩
  have hpartial (p : Partial) : exec (.exchPartial k p) s = .next (s.gotPartial k p) := onSlot_of_up hk hup _
  have hfactor (f : FactorPart) : exec (.factorPart k f) s = .next (s.gotFactor k f).1 := onSlot_of_up hk hup _
  have hdelivery (d : Delivery) : exec (.exchDelivery d) s = .next (s.deliver d).1 := whenUp_of_up hup _
  refine ⟨fun p hover => ?_, fun p hover hen hstop hstate => ?_, fun p e hover hen hstop hstate he hwidth hdst hsib hnone => ?_,
    fun p e dst hover hen hstop hstate he hwidth hdst hne => ?_, ?_, fun d hover => ?_, fun d g hover hbegun hg => ⟨fun h => ?_, fun h => ?_, fun r h hr => ⟨fun hbad => ?_, fun hok hf => ?_, fun q hok hf hq => ?_⟩⟩⟩
  · rw [hpartial, State.gotPartial_of_over hover]
  · rw [hpartial, State.gotPartial_of_forming hover hen hstop hstate]
    rfl
  · rw [hpartial, State.gotPartial_of_active hover hen hstop hstate, (State.climb_of_below he hwidth).2 hdst hsib hnone]
    rfl
  · subst hdst
    rw [hpartial, State.gotPartial_of_active hover hen hstop hstate, (State.climb_of_below he hwidth).1 hne]
  · intro f e d tt bx bg base row g hover hen he hd htt hbx hbg hbase hrow hg
    have hplace : s.factorPlace k e f = g := by
      subst hd htt hbx hbg hbase hrow hg
      rfl
    have hlive {r : State × Nat} := State.gotFactor_of_live (r := r) hover hen he
    rw [hplace] at hlive
    refine ⟨fun h => ?_, fun h => ?_, fun r h hr => ?_⟩
    · rw [hfactor, hlive (State.landRuns_of_isolation h)]
      rfl
    · rw [hfactor, hlive (State.landRuns_of_closed h)]
      rfl
    · rw [hfactor, hlive ((State.landRuns_of_ok h).trans hr.symm)]
  · rw [hdelivery, State.deliver_of_over hover]
  all_goals subst hg
  · rw [hdelivery, State.deliver_of_refused hover hbegun (State.landRuns_of_isolation h) Nat.one_ne_zero]
  · rw [hdelivery, State.deliver_of_refused hover hbegun (State.landRuns_of_closed h) Nat.one_ne_zero]
  all_goals have hland := (State.landRuns_of_ok (off := d.off) (bs := d.bytes) h).trans hr.symm
  · rw [hdelivery, State.deliver_of_refused hover hbegun hland hbad]
  · rw [hdelivery, State.deliver_of_taken hover hbegun hland hok (if_pos hf)]
    rfl
  · have hexps : r.1.deliverExps (s.memberSlots d.owner) d = q := (if_neg (ne_true_of_eq_false hf)).trans hq.symm
    rw [hdelivery, State.deliver_of_taken hover hbegun hland hok hexps]

end Sys2Proof.Machine
end

section
/-! PROOFS. Link frames and the states of a port (O39): the check of a frame that a port forms, what an accepted frame changes in its port, and what the
loss of a link leaves of it. -/

namespace Sys2Proof.Machine

/-! ### The check of a frame (R277, Table 11.5) -/

theorem frameCrc_of_high {raw : List Byte} {v : Nat} (hv : v % 2 ^ 32 = 0) (c : Word) : frameCrc raw (v + c.toNat) = frameCrc raw v := by
  have hc := c.isLt
  rw [frameCrc, frameCrc, show (v + c.toNat) / 2 ^ 32 = v / 2 ^ 32 by omega]

/-- Fields within their widths, at their places above the CRC of a control word, leave its 32 bits free and stay below 2 ^ 120. -/
theorem fields_bounds {s k n t m a b c d : Nat} (hs : s < 4096) (hk : k < 4096) (hn : n ≤ 1) (ht : t ≤ 1) (hm : m ≤ 16) (ha : a < 8) (hb : b < 128)
    (hc : c < 8) (hd : d < 128) :
    (s * 2 ^ 108 + k * 2 ^ 96 + n * 2 ^ 95 + t * 2 ^ 92 + (m - 1) * 2 ^ 88 + a * 2 ^ 85 + b * 2 ^ 78 + c * 2 ^ 75 + d * 2 ^ 68) % 2 ^ 32 = 0 ∧
    s * 2 ^ 108 + k * 2 ^ 96 + n * 2 ^ 95 + t * 2 ^ 92 + (m - 1) * 2 ^ 88 + a * 2 ^ 85 + b * 2 ^ 78 + c * 2 ^ 75 + d * 2 ^ 68 + 2 ^ 32 ≤ 2 ^ 120 := by
  omega

/-- The fields of a control word above its CRC. -/
def controlFields (seq ack : Nat) (nak : Bool) (flits : Nat) (rs : List (Nat × Nat)) : Nat :=
  seq % 4096 * 2 ^ 108 + ack % 4096 * 2 ^ 96 + bit01 nak * 2 ^ 95 + (if flits = 0 then 2 ^ 92 else 0) + (2 ^ flits - 1) * 2 ^ 88 +
    (rs.getD 0 (0, 0)).1 % 8 * 2 ^ 85 + (rs.getD 0 (0, 0)).2 % 128 * 2 ^ 78 + (rs.getD 1 (0, 0)).1 % 8 * 2 ^ 75 + (rs.getD 1 (0, 0)).2 % 128 * 2 ^ 68

theorem controlWord_eq (seq ack : Nat) (nak : Bool) (flits : Nat) (rs : List (Nat × Nat)) (raw : List Byte) :
    controlWord seq ack nak flits rs raw =
      BitVec.ofNat 120 (controlFields seq ack nak flits rs + (frameCrc raw (controlFields seq ack nak flits rs)).toNat) := rfl

theorem controlFields_bounds {flits : Nat} (hf : flits ≤ 4) (seq ack : Nat) (nak : Bool) (rs : List (Nat × Nat)) :
    controlFields seq ack nak flits rs % 2 ^ 32 = 0 ∧ controlFields seq ack nak flits rs + 2 ^ 32 ≤ 2 ^ 120 := by
  have hpow : 2 ^ flits ≤ 2 ^ 4 := Nat.pow_le_pow_right (by omega) hf
  have hnak : bit01 nak ≤ 1 := by cases nak <;> decide
  have htyp : (if flits = 0 then 2 ^ 92 else 0) = (if flits = 0 then 1 else 0) * 2 ^ 92 := by split <;> rfl
  have hone : (if flits = 0 then 1 else 0) ≤ 1 := by split <;> omega
  rw [controlFields, htyp]
  exact fields_bounds (Nat.mod_lt _ (by omega)) (Nat.mod_lt _ (by omega)) hnak hone hpow (Nat.mod_lt _ (by omega)) (Nat.mod_lt _ (by omega))
    (Nat.mod_lt _ (by omega)) (Nat.mod_lt _ (by omega))

/-- The CRC of a control word, its low 32 bits, is that of the frame. -/
theorem controlWord_crc {flits : Nat} (hf : flits ≤ 4) (seq ack : Nat) (nak : Bool) (rs : List (Nat × Nat)) (raw : List Byte) :
    frameCrc raw (controlWord seq ack nak flits rs raw).toNat = (controlWord seq ack nak flits rs raw).setWidth 32 := by
  obtain ⟨hlow, hhigh⟩ := controlFields_bounds hf seq ack nak rs
  rw [controlWord_eq]
  generalize controlFields seq ack nak flits rs = v at hlow hhigh
  have hcrc := (frameCrc raw v).isLt
  have hnat : (BitVec.ofNat 120 (v + (frameCrc raw v).toNat)).toNat = v + (frameCrc raw v).toNat := by
    rw [BitVec.toNat_ofNat, Nat.mod_eq_of_lt (by omega)]
  refine BitVec.eq_of_toNat_eq ?_
  rw [hnat, frameCrc_of_high hlow, BitVec.toNat_setWidth, hnat]
  omega

theorem make_bad (seq ack : Nat) (nak : Bool) {flits : List (Flit × List Byte)} (rs : List (Nat × Nat)) (hf : flits.length ≤ 4) :
    (LinkFrame.make seq ack nak flits rs).bad = false := by
  generalize hraw : flits.flatMap (·.2) ++ List.replicate (256 - 64 * flits.length) 0 = raw
  have hcontrol : (LinkFrame.make seq ack nak flits rs).control = controlWord seq ack nak (flits.map (·.1)).length rs raw := by
    rw [← hraw]
    rfl
  have hrawf : (LinkFrame.make seq ack nak flits rs).raw = raw := hraw
  rw [LinkFrame.bad, hcontrol, hrawf, controlWord_crc (by rwa [List.length_map])]
  simp [LinkFrame.uncorrectable, LinkFrame.make, LinkFrame.ofRaw]

/-! ### Changes of one port -/

theorem fport_of_fports {s t : State} (h : t.fports = s.fports) (p : Nat) : t.fport p = s.fport p := by
  rw [State.fport, State.fport, h]

theorem fport_modFport (s : State) (p : Nat) (g : FPort → FPort) : (s.modFport p g).fport p = g (s.fport p) := fport_setFport _ _ _

theorem fport_modFport_ne (s : State) {p q : Nat} (g : FPort → FPort) (h : q ≠ p) : (s.modFport p g).fport q = s.fport q :=
  fport_setFport_ne _ _ h

theorem fport_bump (s : State) (i j n p : Nat) : (s.bump i j n).fport p = s.fport p := (s.bump_totChange i j n).fport p

theorem FaultChange.fports {s t : State} (h : FaultChange s t) : t.fports = s.fports := by
  rw [FaultChange] at h
  rw [h]

theorem okey_ne_of_index {i i' j j' : Nat} (hj : j < 256) (hj' : j' < 256) (h : i ≠ i') : okey i j ≠ okey i' j' :=
  fun he => h (congrArg Prod.fst (okey_inj hj' hj he))

/-- Links' totals are no conserved counts of the audit. -/
theorem isAudit_port (p : Nat) : isAudit (0x6200 + p) = false := by
  simp [isAudit]
  omega

/-! ### Frames accepted (R277) -/

/-- A change of one port that leaves its sequence, its replay buffer and what its NAKs wait for. -/
def LinkKept (p : Nat) (s t : State) : Prop :=
  (t.fport p).rxLast = (s.fport p).rxLast ∧ (t.fport p).nakSent = (s.fport p).nakSent ∧ (t.fport p).nakDue = (s.fport p).nakDue ∧
    (t.fport p).replay = (s.fport p).replay ∧ ∀ q, q ≠ p → t.fport q = s.fport q

theorem LinkKept.refl (p : Nat) (s : State) : LinkKept p s s := ⟨rfl, rfl, rfl, rfl, fun _ _ => rfl⟩

theorem LinkKept.trans {p : Nat} {s t u : State} (ht : LinkKept p s t) (hu : LinkKept p t u) : LinkKept p s u := by
  obtain ⟨h1, h2, h3, h4, h5⟩ := ht
  obtain ⟨g1, g2, g3, g4, g5⟩ := hu
  exact ⟨g1.trans h1, g2.trans h2, g3.trans h3, g4.trans h4, fun q hq => (g5 q hq).trans (h5 q hq)⟩

/-- The sum of the credit returns of a channel. -/
def returned (cs : List (Nat × Nat)) (v : Nat) : Nat := ((cs.filter (fun c => c.1 == v)).map (·.2)).sum

theorem returned_cons (c : Nat × Nat) (cs : List (Nat × Nat)) (v : Nat) :
    returned (c :: cs) v = (if c.1 = v then c.2 else 0) + returned cs v := by
  unfold returned
  by_cases h : c.1 = v <;> simp [h]

/-- A port with credits returned on a channel. -/
def FPort.credited (f : FPort) (v n : Nat) : FPort :=
  { f with inPeer := keepYoungest v (f.outstanding v - n) f.inPeer, credits := addNth f.credits v n,
           creditsBack := f.creditsBack.set v (satAdd 64 (f.creditsBack.getD v 0) n) }

theorem State.creditBack_of_room {s : State} {p v n : Nat} (h : (s.fport p).credits.getD v 0 + n ≤ vcBuffer v) :
    s.creditBack p v n = s.setFport p ((s.fport p).credited v n) :=
  if_neg (Nat.not_lt.2 h)

theorem getD_addNth (l : List Nat) {v w : Nat} (hw : w < l.length) (n : Nat) :
    (addNth l v n).getD w 0 = l.getD w 0 + (if v = w then n else 0) := by
  unfold addNth
  by_cases h : v = w
  · subst h
    simp [hw]
  · simp [h]

/-- Returns that the peer's buffers have room for are taken one by one, each on its channel. -/
theorem State.creditsBack_spec (p : Nat) {cs : List (Nat × Nat)} (hcs : ∀ c ∈ cs, c.1 < 8) (s : State) (hlen : (s.fport p).credits.length = 8)
    (hroom : ∀ v < 8, (s.fport p).credits.getD v 0 + returned cs v ≤ vcBuffer v) :
    LinkKept p s (cs.foldl (fun s c => s.creditBack p c.1 c.2) s) ∧
    ∀ v < 8, ((cs.foldl (fun s c => s.creditBack p c.1 c.2) s).fport p).credits.getD v 0 = (s.fport p).credits.getD v 0 + returned cs v := by
  induction cs generalizing s with
  | nil => exact ⟨.refl p s, fun v hv => rfl⟩
  | cons c cs ih =>
    have hc : c.1 < 8 := hcs c (List.mem_cons_self ..)
    have hfirst := hroom c.1 hc
    rw [returned_cons, if_pos rfl] at hfirst
    have hstep : s.creditBack p c.1 c.2 = s.setFport p ((s.fport p).credited c.1 c.2) := State.creditBack_of_room (by omega)
    have hport : (s.setFport p ((s.fport p).credited c.1 c.2)).fport p = (s.fport p).credited c.1 c.2 := fport_setFport _ _ _
    have hkept : LinkKept p s (s.setFport p ((s.fport p).credited c.1 c.2)) :=
      ⟨by rw [hport]; rfl, by rw [hport]; rfl, by rw [hport]; rfl, by rw [hport]; rfl, fun q hq => fport_setFport_ne _ _ hq⟩
    have hget (v : Nat) (hv : v < 8) : ((s.fport p).credited c.1 c.2).credits.getD v 0 =
        (s.fport p).credits.getD v 0 + (if c.1 = v then c.2 else 0) := getD_addNth _ (by rw [hlen]; exact hv) _
    obtain ⟨hk, hv⟩ := ih (fun d hd => hcs d (List.mem_cons_of_mem _ hd)) (s.setFport p ((s.fport p).credited c.1 c.2))
      (by rw [hport]; exact (List.length_set ..).trans hlen)
      (fun v hv => by
        rw [hport, hget v hv]
        have := hroom v hv
        rw [returned_cons] at this
        omega)
    rw [List.foldl_cons, hstep]
    refine ⟨hkept.trans hk, fun v hv8 => ?_⟩
    rw [hv v hv8, hport, hget v hv8, returned_cons, Nat.add_assoc]

/-- What the flits of a frame change: of ports the packet under way and the counts of one; its credits stay. -/
def FlitsTaken (p : Nat) (s t : State) : Prop := LinkKept p s t ∧ (t.fport p).credits = (s.fport p).credits

theorem FlitsTaken.trans {p : Nat} {s t u : State} (ht : FlitsTaken p s t) (hu : FlitsTaken p t u) : FlitsTaken p s u :=
  ⟨ht.1.trans hu.1, hu.2.trans ht.2⟩

theorem FlitsTaken.of_fports {p : Nat} {s t : State} (h : ∀ q, t.fport q = s.fport q) : FlitsTaken p s t := by
  refine ⟨⟨?_, ?_, ?_, ?_, fun q _ => h q⟩, ?_⟩ <;> rw [h]

/-- The packet under way changes. -/
theorem State.rxPacket_taken (s : State) (p : Nat) (x : Option (Packet × Nat)) : FlitsTaken p s (s.modFport p (fun f => { f with rxPacket := x })) := by
  refine ⟨⟨?_, ?_, ?_, ?_, fun q hq => fport_modFport_ne _ _ hq⟩, ?_⟩ <;> rw [fport_modFport]

/-- One flit is counted on its channel. -/
def State.countFlit (s : State) (p : Nat) (q : Packet) : State :=
  (s.modFport p (fun f => { f with flitsRecvd := f.flitsRecvd.set q.vc (satAdd 64 (f.flitsRecvd.getD q.vc 0) 1),
                                   depthMax := f.depthMax.set q.vc (max (f.depthMax.getD q.vc 0) (s.vcDepth p q.vc)) })).bump (0x6200 + p) 4 1

theorem State.countFlit_taken (s : State) (p : Nat) (q : Packet) : FlitsTaken p s (s.countFlit p q) := by
  have hport (r : Nat) : (s.countFlit p q).fport r = _ := fport_bump _ _ _ _ r
  refine ⟨⟨?_, ?_, ?_, ?_, fun r hr => (hport r).trans (fport_modFport_ne _ _ hr)⟩, ?_⟩ <;> rw [hport, fport_modFport]

theorem State.arrived_taken (s : State) (p : Nat) (q : Packet) : FlitsTaken p s (s.arrived p q) :=
  .of_fports (fun r => fport_bump _ _ _ _ r)

theorem State.takeFlit_taken (s : State) (p : Nat) (x : Flit) : FlitsTaken p s (s.takeFlit p x) := by
  have hdone (t : State) (q : Packet) :
      FlitsTaken p t (((t.modFport p (fun f => { f with rxPacket := none })).arrived p q).countFlit p q) :=
    ((t.rxPacket_taken p none).trans (State.arrived_taken _ p q)).trans (State.countFlit_taken _ p q)
  have hmore (t : State) (q : Packet) (n : Nat) :
      FlitsTaken p t ((t.modFport p (fun f => { f with rxPacket := some (q, n) })).countFlit p q) :=
    (t.rxPacket_taken p (some (q, n))).trans (State.countFlit_taken _ p q)
  cases x with
  | head q =>
    have htally : FlitsTaken p s (s.setAlmanac (fun a => a.tally q.edition)) := .of_fports (fun _ => rfl)
    refine htally.trans ?_
    show FlitsTaken p _ (if q.flits = 1 then _ else _)
    split
    · exact hdone _ q
    · exact hmore _ q 1
  | pay b =>
    unfold State.takeFlit
    dsimp only
    split
    · exact ⟨.refl p s, rfl⟩
    · split
      · exact hdone s _
      · exact hmore s _ _

theorem State.takeFlits_taken (p : Nat) (l : List Flit) (s : State) : FlitsTaken p s (l.foldl (fun s x => s.takeFlit p x) s) :=
  foldl_holds (FlitsTaken p s) (fun s x => s.takeFlit p x) (fun t x h => h.trans (t.takeFlit_taken p x)) l s ⟨.refl p s, rfl⟩

theorem LinkFrame_credits_lt (r : LinkFrame) : ∀ c ∈ r.credits, c.1 < 8 := by
  intro c hc
  rw [LinkFrame.credits, List.mem_cons, List.mem_singleton] at hc
  rcases hc with rfl | rfl <;> exact Nat.mod_lt _ (by decide)

theorem FPort.acked_keeps (f : FPort) (ack : Nat) : (f.acked ack).1.credits = f.credits ∧ (f.acked ack).1.state = f.state := by
  unfold FPort.acked
  split <;> exact ⟨rfl, rfl⟩

/-- The port that an accepted frame leaves before its returns and flits. -/
theorem State.acceptFrame_spec {s : State} {p : Nat} {r : LinkFrame} (hnak : r.nak = false) (hlen : (s.fport p).credits.length = 8)
    (hroom : ∀ v < 8, (s.fport p).credits.getD v 0 + returned r.credits v ≤ vcBuffer v) :
    ((s.acceptFrame p r).fport p).rxLast = r.seq ∧ ((s.acceptFrame p r).fport p).nakSent = false ∧ ((s.acceptFrame p r).fport p).nakDue = false ∧
    ((s.acceptFrame p r).fport p).replay = ((s.fport p).acked r.ack).1.replay ∧
    (∀ v < 8, ((s.acceptFrame p r).fport p).credits.getD v 0 = (s.fport p).credits.getD v 0 + returned r.credits v) ∧
    ∀ q, q ≠ p → (s.acceptFrame p r).fport q = s.fport q := by
  unfold State.acceptFrame
  rw [if_neg (ne_true_of_eq_false hnak)]
  dsimp only
  have hport : (s.modFport p (fun g => { (g.acked r.ack).1 with rxLast := r.seq, nakSent := false, nakDue := false })).fport p =
      { ((s.fport p).acked r.ack).1 with rxLast := r.seq, nakSent := false, nakDue := false } := fport_modFport _ _ _
  have hothers (q : Nat) (hq : q ≠ p) :
      (s.modFport p (fun g => { (g.acked r.ack).1 with rxLast := r.seq, nakSent := false, nakDue := false })).fport q = s.fport q :=
    fport_modFport_ne _ _ hq
  generalize s.modFport p (fun g => { (g.acked r.ack).1 with rxLast := r.seq, nakSent := false, nakDue := false }) = t at hport hothers
  have hcredits : (t.fport p).credits = (s.fport p).credits := by
    rw [hport]
    exact ((s.fport p).acked_keeps r.ack).1
  obtain ⟨hback, hget⟩ := State.creditsBack_spec p (LinkFrame_credits_lt r) t (by rw [hcredits]; exact hlen) (by rw [hcredits]; exact hroom)
  obtain ⟨hflits, hkeep⟩ := State.takeFlits_taken p r.flits (r.credits.foldl (fun s c => s.creditBack p c.1 c.2) t)
  obtain ⟨h1, h2, h3, h4, h5⟩ := hback.trans hflits
  refine ⟨h1.trans (by rw [hport]), h2.trans (by rw [hport]), h3.trans (by rw [hport]), h4.trans (by rw [hport]), fun v hv => ?_,
    fun q hq => (h5 q hq).trans (hothers q hq)⟩
  rw [hkeep, hget v hv, hcredits]

/-! ### Frames rejected (R277) -/

theorem State.frame_counted (s : State) (p : Nat) (r : LinkFrame) :
    TotChange s ((s.bump (0x6200 + p) 5 r.corrected).bump (0x6200 + p) 6 r.uncorrectable) :=
  (s.bump_totChange _ _ _).trans (State.bump_totChange _ _ _ _)

/-- The port after a rejected frame: NAK once. -/
def FPort.rejected (f : FPort) : FPort := if f.nakSent then f.nakLate else f.sendNak

theorem State.rejectFrame_spec (s : State) (p : Nat) (r : LinkFrame) :
    (s.rejectFrame p r).fport p = (s.fport p).rejected ∧ (∀ q, q ≠ p → (s.rejectFrame p r).fport q = s.fport q) ∧
      (s.rejectFrame p r).router = s.router ∧ (s.rejectFrame p r).mem = s.mem := by
  unfold State.rejectFrame FPort.rejected
  split
  · exact ⟨fport_modFport _ _ _, fun q hq => fport_modFport_ne _ _ hq, rfl, rfl⟩
  · have hframe := State.capture_frame_of_corrected (s.modFport p FPort.sendNak) (cls := 0x02) (linkAt p r.seq) rfl
    rw [hframe]
    exact ⟨fport_modFport _ _ _, fun q hq => fport_modFport_ne _ _ hq, rfl, rfl⟩

theorem FPort.sendNak_replay {f : FPort} (h : f.replay.length ≤ 1024) : f.sendNak.replay.length ≤ 1024 := by
  unfold FPort.sendNak
  split
  · have := (f.pushFrame_spec true []).1
    show (f.pushFrame true []).replay.length ≤ 1024
    omega
  · exact h

theorem FPort.nakLate_replay {f : FPort} (h : f.replay.length ≤ 1024) : f.nakLate.replay.length ≤ 1024 := by
  unfold FPort.nakLate
  split
  · exact FPort.sendNak_replay h
  · exact h

theorem FPort.rejected_replay {f : FPort} (h : f.replay.length ≤ 1024) : f.rejected.replay.length ≤ 1024 := by
  unfold FPort.rejected
  split
  · exact FPort.nakLate_replay h
  · exact FPort.sendNak_replay h

/-! ### Resends (R277) -/

/-- A resend short of the 16th is counted. -/
theorem State.resend_of_some {s : State} {p : Nat} (hreplay : (s.fport p).replay ≠ []) (hfew : (s.fport p).resends + 1 < 16) :
    (s.resend p).fport p = { s.fport p with resends := (s.fport p).resends + 1 } ∧
      (s.resend p).tot (0x6200 + p) 7 = satAdd 64 (s.tot (0x6200 + p) 7) 1 := by
  unfold State.resend
  dsimp only
  rw [if_neg hreplay, if_neg (by omega)]
  exact ⟨(fport_bump _ _ _ _ _).trans (fport_setFport _ _ _), tot_bump_same _ (isAudit_port p) _ _⟩

theorem State.retrain_fport (s : State) (p : Nat) : (s.retrain p).fport p =
    { s.fport p with
      state := .retraining, trained := false, attempts := 0, resends := 0,
      out := (s.fport p).out ++ [.train s.boot.node (p % 8) (p / 8)] } := by
  rw [State.retrain, fport_bump, State.sendTrain, fport_setFport, fport_modFport]
  rfl

/-- The 16th resend without progress retrains. -/
theorem State.resend_of_many {s : State} {p : Nat} (hreplay : (s.fport p).replay ≠ []) (hmany : 16 ≤ (s.fport p).resends + 1) :
    ((s.resend p).fport p).state = .retraining ∧ ((s.resend p).fport p).replay = (s.fport p).replay ∧
      ((s.resend p).fport p).txNext = (s.fport p).txNext ∧ ((s.resend p).fport p).rxLast = (s.fport p).rxLast := by
  unfold State.resend
  dsimp only
  rw [if_neg hreplay, if_pos hmany, State.retrain_fport, fport_bump, fport_setFport]
  exact ⟨rfl, rfl, rfl, rfl⟩

theorem onPort_of_on {s : State} {p : Nat} (hp : p < Config.ports s.part) (hon : s.fabricOn = true) (t : State) : onPort p s t = .next t :=
  congrArg Host.Outcome.next (if_pos (by simp [hp, hon]))

theorem parts_linkFrames : Parts.LinkFrames := by
  refine ⟨fun seq ack nak flits rs hf => make_bad seq ack nak rs hf, fun s p f hp hon hf hup => ?_⟩
  subst hf
  refine ⟨fun r htyp hbad hnak hseq hlen hroom => ?_, fun r htyp hrej => ?_, fun ack g hg hreplay hfew => ?_, fun hreplay hfew => ?_, fun hreplay hmany => ?_⟩
  · have hcount := (s.frame_counted p r).fport
    refine ⟨_, onPort_of_on hp hon _, ?_⟩
    have hlink : s.linkFrame p r = ((s.bump (0x6200 + p) 5 r.corrected).bump (0x6200 + p) 6 r.uncorrectable).acceptFrame p r := by
      unfold State.linkFrame
      rw [if_neg (by simp [hup, htyp])]
      exact if_neg (by rw [hbad, hcount, hseq]; simp)
    rw [hlink]
    generalize (s.bump (0x6200 + p) 5 r.corrected).bump (0x6200 + p) 6 r.uncorrectable = t at hcount
    have h := State.acceptFrame_spec (s := t) (p := p) (r := r) hnak (by rw [hcount]; exact hlen) (by rw [hcount]; exact hroom)
    simp only [hcount] at h
    exact h
  · have hcount := (s.frame_counted p r)
    refine ⟨_, onPort_of_on hp hon _, ?_⟩
    have hlink : s.linkFrame p r = ((s.bump (0x6200 + p) 5 r.corrected).bump (0x6200 + p) 6 r.uncorrectable).rejectFrame p r := by
      unfold State.linkFrame
      rw [if_neg (by simp [hup, htyp])]
      exact if_pos (by rw [hcount.fport]; rcases hrej with h | h <;> simp [h])
    rw [hlink]
    generalize (s.bump (0x6200 + p) 5 r.corrected).bump (0x6200 + p) 6 r.uncorrectable = t at hcount
    obtain ⟨hport, hothers, hrouter, hmem⟩ := t.rejectFrame_spec p r
    have hfp := hcount.fport
    rw [hport, hfp]
    rw [TotChange] at hcount
    refine ⟨fun hsent hspace => ?_, fun hsent hfull => ?_, fun hsent => ?_, FPort.rejected_replay, hrouter.trans (by rw [hcount]), hmem.trans (by rw [hcount]),
      fun q hq => (hothers q hq).trans (hfp q)⟩
    · rw [FPort.rejected, if_neg (ne_true_of_eq_false hsent), FPort.sendNak, if_pos hspace]
    · rw [FPort.rejected, if_neg (ne_true_of_eq_false hsent), FPort.sendNak, if_neg (Nat.not_lt.2 hfull)]
    · rw [FPort.rejected, if_pos hsent]
  · subst hg
    refine ⟨_, (onPort_of_on hp hon _).trans (congrArg Host.Outcome.next (if_pos hup)), ?_⟩
    have hport : (s.modFport p (fun f => (f.acked ack).1.nakLate)).fport p = ((s.fport p).acked ack).1.nakLate := fport_modFport _ _ _
    obtain ⟨hsome, htot⟩ := State.resend_of_some (s := s.modFport p (fun f => (f.acked ack).1.nakLate)) (p := p)
      (by rw [hport]; exact hreplay) (by rw [hport]; exact hfew)
    rw [hport] at hsome
    exact ⟨hsome, htot⟩
  · exact ⟨_, (onPort_of_on hp hon _).trans (congrArg Host.Outcome.next (if_pos hup)), State.resend_of_some hreplay hfew⟩
  · exact ⟨_, (onPort_of_on hp hon _).trans (congrArg Host.Outcome.next (if_pos hup)), State.resend_of_many hreplay hmany⟩

end Sys2Proof.Machine
end

section
/-! PROOFS. The states of a port (O39): what the end of the messages that a link loses leaves of the ports, CREDIT_SYNC, DOWN and ABSENT, and
fresh training. -/

namespace Sys2Proof.Machine

/-! ### What leaves the ports as they are -/

/-- The ports, the blocks and the totals of the links stay. -/
def PortsKept (s t : State) : Prop :=
  t.fports = s.fports ∧ t.blocks = s.blocks ∧ ∀ p j, j < 256 → t.tot (0x6200 + p) j = s.tot (0x6200 + p) j

theorem PortsKept.refl (s : State) : PortsKept s s := ⟨rfl, rfl, fun _ _ _ => rfl⟩

theorem PortsKept.trans {s t u : State} (ht : PortsKept s t) (hu : PortsKept t u) : PortsKept s u := by
  obtain ⟨hports, hblocks, htots⟩ := ht
  obtain ⟨hports', hblocks', htots'⟩ := hu
  exact ⟨hports'.trans hports, hblocks'.trans hblocks, fun p j hj => (htots' p j hj).trans (htots p j hj)⟩

theorem PortsKept.of_tots {s t : State} (hports : t.fports = s.fports) (hblocks : t.blocks = s.blocks) (htots : t.tots = s.tots) : PortsKept s t :=
  ⟨hports, hblocks, fun p j _ => by rw [State.tot, State.tot, htots]⟩

theorem PortsKept.fport {s t : State} (h : PortsKept s t) (p : Nat) : t.fport p = s.fport p := fport_of_fports h.1 p

theorem PortsKept.block {s t : State} (h : PortsKept s t) (b : Nat) : t.block b = s.block b := State.block_of_blocks h.2.1 b

theorem PortsKept.tot {s t : State} (h : PortsKept s t) (p : Nat) {j : Nat} (hj : j < 256) : t.tot (0x6200 + p) j = s.tot (0x6200 + p) j :=
  h.2.2 p j hj

/-- A total of the event queue is none of a link. -/
theorem State.bump_event_portsKept (s : State) {sub : Nat} (hsub : sub < 256) (n : Nat) : PortsKept s (s.bump 0x3330 sub n) :=
  ⟨(s.bump_totChange _ _ _).eventChange.faultChange.fports, State.bump_blocks _ _ _ _,
    fun _ _ hj => tot_bump_ne _ _ (okey_ne_of_index hsub hj (by omega))⟩

theorem State.jsend_portsKept (s : State) (id : Nat) (m : JMsg) : PortsKept s (s.jsend id m) := by
  unfold State.jsend
  split
  · exact .refl s
  · dsimp only
    split <;> exact .of_tots rfl rfl rfl

theorem State.queueEvent_portsKept (s : State) (code die source step : Nat) (detail : List Byte) (key : Option Nat) :
    PortsKept s (s.queueEvent code die source step detail key) := by
  unfold State.queueEvent
  dsimp only
  split
  · exact s.bump_event_portsKept (by omega) _
  · exact foldl_holds (PortsKept s) _ (fun t id h => h.trans (t.jsend_portsKept id _)) _ _ (.of_tots rfl rfl rfl)

theorem State.event_portsKept (s : State) (code die source step : Nat) (detail : List Byte) (key : Option Nat) :
    PortsKept s (s.event code die source step detail key) := by
  unfold State.event
  split
  · exact s.bump_event_portsKept (by omega) _
  · split
    · exact (s.bump_event_portsKept (by omega) _).trans (.of_tots rfl rfl rfl)
    · dsimp only
      split
      · refine PortsKept.trans ?_ (State.queueEvent_portsKept _ _ _ _ _ _ _)
        exact (s.queueEvent_portsKept _ _ _ _ _ _).trans (.of_tots rfl rfl rfl)
      · exact s.queueEvent_portsKept _ _ _ _ _ _

theorem State.capture_portsKept (s : State) {cls : Nat} (w : ErrAt) (hce : classSev cls ≠ 0) (huf : classSev cls ≠ 3) :
    PortsKept s (s.capture cls w) := by
  rw [s.capture_frame_of_recorded w hce huf]
  exact .of_tots rfl rfl rfl

theorem State.setCtx_portsKept (s : State) (n : Nat) (x : Ctx) (c : Context) : PortsKept s (s.setCtx n x c) := .of_tots rfl rfl rfl

theorem State.setSlot_portsKept (s : State) (k : Nat) (v : Slot) : PortsKept s (s.setSlot k v) := .of_tots rfl rfl rfl

theorem State.faultContext_portsKept (s : State) (n : Nat) (x : Ctx) (code : Nat) (pc : Dword) (step att : Nat) :
    PortsKept s (s.faultContext n x code pc step att) := by
  unfold State.faultContext
  dsimp only
  split
  · exact .refl s
  · exact ((s.setCtx_portsKept n x _).trans (State.capture_portsKept _ (cls := 0x23) _ (by decide) (by decide))).trans
      (State.event_portsKept _ _ _ _ _ _ _)

/-! ### The messages that a link loses (R216, R279) -/

theorem State.localEnd_portsKept (s : State) (n : Nat) (x : Ctx) : PortsKept s (s.localEnd n x) := by
  unfold State.localEnd
  split
  · exact .refl s
  · split
    · exact (s.setCtx_portsKept n x _).trans (State.faultContext_portsKept _ _ _ _ _ _ _)
    · exact .refl s

theorem State.respondAt_portsKept (s : State) (die : Nat) (p : Packet) (b : Body) : PortsKept s (s.respondAt die p b) := by
  unfold State.respondAt
  split
  · exact .refl s
  · exact .of_tots rfl rfl rfl

theorem State.endMsg_portsKept (s : State) (m : SrcMsg) : PortsKept s (s.endMsg m) := by
  unfold State.endMsg
  extract_lets t u
  have ht : PortsKept s t := .of_tots rfl rfl rfl
  have hu : PortsKept t u := by
    unfold u
    split
    · exact .refl t
    · exact ((t.setCtx_portsKept _ _ _).trans (State.localEnd_portsKept _ _ _)).trans (State.setSlot_portsKept _ _ _)
  refine (ht.trans hu).trans ?_
  split
  · exact .refl u
  · split
    · exact .of_tots rfl rfl rfl
    · exact State.respondAt_portsKept _ _ _ _

theorem State.turnedAway_portsKept (s : State) (die : Nat) (p : Packet) (status : Nat) : PortsKept s (s.turnedAway die p status) := by
  unfold State.turnedAway
  split
  · exact s.respondAt_portsKept _ _ _
  · split
    · exact .refl s
    · exact foldl_holds (PortsKept s) _ (fun t _ h => h.trans (t.respondAt_portsKept _ _ _)) _ _ (.refl s)

theorem State.lost_portsKept (s : State) (die : Nat) (q : Packet) : PortsKept s (s.lost die q) := by
  unfold State.lost
  split
  · exact .of_tots rfl rfl rfl
  · split
    · exact s.turnedAway_portsKept _ _ _
    · exact .refl s

theorem State.afterLoss_portsKept (s : State) (p : Nat) : PortsKept s (s.afterLoss p) := by
  unfold State.afterLoss State.endUnreachable
  split
  · exact .refl s
  · exact foldl_holds (PortsKept s) _ (fun t m h => h.trans (t.endMsg_portsKept _)) _ _ (.refl s)

/-! ### The replay buffer dropped (R279) -/

/-- A port whose replay buffer is discarded. -/
def FPort.discarded (f : FPort) : FPort := { f with replay := [], replayHead := none, resends := 0, nakSent := false, rxPacket := none }

/-- The loss of a link's replay buffer changes its port and the count of the packets lost. -/
theorem State.loseReplay_spec (s : State) (p : Nat) :
    (s.loseReplay p).fport p = (s.fport p).discarded ∧ (∀ q, q ≠ p → (s.loseReplay p).fport q = s.fport q) ∧ (s.loseReplay p).blocks = s.blocks ∧
    (s.loseReplay p).tot (0x6200 + p) 9 = satAdd 64 (s.tot (0x6200 + p) 9) (s.fport p).heldPackets.length := by
  have hlost : PortsKept (s.discardReplay p) (s.loseReplay p) :=
    foldl_holds (PortsKept (s.discardReplay p)) _ (fun t q h => h.trans (t.lost_portsKept _ q)) _ _ (.refl _)
  refine ⟨?_, fun q hq => ?_, ?_, ?_⟩
  · rw [hlost.fport, State.discardReplay, fport_bump, fport_setFport]
    rfl
  · rw [hlost.fport, State.discardReplay, fport_bump, fport_setFport_ne _ _ hq]
  · exact hlost.2.1.trans (State.bump_blocks _ _ _ _)
  · exact (hlost.tot p (by omega)).trans (tot_bump_same _ (isAudit_port p) _ _)

/-- A port that drops its replay buffer and takes another state, its neighbour's messages ended after it. -/
theorem State.portLost_spec (s : State) (p : Nat) (g : FPort → FPort) :
    ((((s.loseReplay p).modFport p g).afterLoss p).fport p = g (s.fport p).discarded) ∧
    (((s.loseReplay p).modFport p g).afterLoss p).tot (0x6200 + p) 9 = satAdd 64 (s.tot (0x6200 + p) 9) (s.fport p).heldPackets.length := by
  obtain ⟨hport, -, -, htot⟩ := s.loseReplay_spec p
  have hafter := ((s.loseReplay p).modFport p g).afterLoss_portsKept p
  exact ⟨by rw [hafter.fport, fport_modFport, hport], (hafter.tot p (by omega)).trans htot⟩

theorem State.portDown_fport (s : State) (p : Nat) :
    (s.portDown p).fport p = { (s.fport p).discarded with state := .down, trained := false, laneLock := 0 } := by
  unfold State.portDown
  dsimp only
  rw [(State.event_portsKept _ _ _ _ _ _ _).fport, (State.capture_portsKept _ (cls := 0x2A) _ (by decide) (by decide)).fport]
  exact (s.portLost_spec p _).1

/-! ### CREDIT_SYNC (R278, R416) -/

/-- Frames of the replay buffer that the peer has accepted. -/
def FPort.syncDone (f : FPort) (last : Nat) : Nat :=
  match f.replay.findIdx? (fun r => r.seq == last) with
  | some i => i + 1
  | none => 0

/-- The credits that a CREDIT_SYNC leaves, less what is sent again. -/
def syncCredits (before : Option Packet) (rep : List LinkFrame) (free : List Nat) : List Nat :=
  (List.range 8).map (fun v => min (vcBuffer v) (free.getD v 0) - flitsOn before rep v)

/-- A port that has taken a CREDIT_SYNC. -/
def FPort.synced (f : FPort) (before : Option Packet) (rep : List LinkFrame) (credits : List Nat) : FPort :=
  { f with state := .up, replay := rep, replayHead := before, credits := credits, resends := 0, attempts := 0, nakSent := false, nakDue := false,
           creditsBack := (List.range 8).map (fun v => max (f.creditsBack.getD v 0) (f.flitsSent.getD v 0 - (vcBuffer v - credits.getD v 0))),
           inPeer := (List.range 8).foldl (fun rs v => keepYoungest v (vcBuffer v - credits.getD v 0) rs) f.inPeer }

section
variable {s : State} {p last k : Nat} {free credits : List Nat} {before : Option Packet} {rep : List LinkFrame}
variable (htrained : (s.fport p).trained = true) (hstate : (s.fport p).state = .training ∨ (s.fport p).state = .retraining)
variable (hk : k = (s.fport p).syncDone last) (hbefore : before = packetAfter (s.fport p).replayHead ((s.fport p).replay.take k))
variable (hrep : rep = ((s.fport p).replay.drop k).map (·.noCredits)) (hcredits : credits = syncCredits before rep free)
include htrained hstate hk hbefore hrep hcredits

theorem State.creditSync_of_sound (hsound : (List.range 8).filter ((s.fport p).syncBroken free credits) = []) :
    s.creditSync p free last = s.setFport p ((s.fport p).synced before rep credits) := by
  subst hk hbefore hrep hcredits
  unfold State.creditSync
  dsimp only
  rw [if_neg (by rcases hstate with h | h <;> simp [htrained, h])]
  split
  · rfl
  · next _ hbroken => exact absurd hsound hbroken

theorem State.creditSync_of_broken (hbroken : (List.range 8).filter ((s.fport p).syncBroken free credits) ≠ []) :
    s.creditSync p free last = (((List.range 8).filter ((s.fport p).syncBroken free credits)).foldl (fun t v => t.auditBroken p v)
      (s.setFport p ((s.fport p).synced before rep credits))).retrain p := by
  subst hk hbefore hrep hcredits
  unfold State.creditSync
  dsimp only
  rw [if_neg (by rcases hstate with h | h <;> simp [htrained, h])]
  split
  · next hnone => exact absurd hnone hbroken
  · rfl

/-- A CREDIT_SYNC that breaks R415 on a channel retrains the port, with what the handshake has left of its replay buffer. -/
theorem State.creditSync_broken_fport (hbroken : (List.range 8).filter ((s.fport p).syncBroken free credits) ≠ []) :
    ((s.creditSync p free last).fport p).state = .retraining ∧ ((s.creditSync p free last).fport p).trained = false ∧
    ((s.creditSync p free last).fport p).replay = rep := by
  rw [State.creditSync_of_broken htrained hstate hk hbefore hrep hcredits hbroken]
  have hport := fport_setFport s p ((s.fport p).synced before rep credits)
  generalize s.setFport p ((s.fport p).synced before rep credits) = t at hport
  have haudit : ∀ vs : List Nat, FaultChange t (vs.foldl (fun t v => t.auditBroken p v) t) := fun vs =>
    foldl_holds (FaultChange t) _ (fun u v h => h.trans (State.capture_faultChange u (cls := 0x2C) _ (by decide) (by decide))) vs t (.refl t)
  rw [State.retrain_fport, fport_of_fports (haudit _).fports, hport]
  exact ⟨rfl, rfl, rfl⟩

end

theorem FPort.syncBroken_iff (f : FPort) (free credits : List Nat) (v : Nat) :
    f.syncBroken free credits v = true ↔ vcBuffer v < free.getD v 0 ∨ f.state = .retraining ∧ credits.getD v 0 < f.credits.getD v 0 := by
  simp [FPort.syncBroken]

theorem FPort.broken_eq_nil_iff (f : FPort) (free credits : List Nat) : (List.range 8).filter (f.syncBroken free credits) = [] ↔
    ∀ v < 8, ¬ (vcBuffer v < free.getD v 0 ∨ f.state = .retraining ∧ credits.getD v 0 < f.credits.getD v 0) := by
  simp only [List.filter_eq_nil_iff, List.mem_range, FPort.syncBroken_iff]

/-! ### Training afresh, FPORT_CTL.EN (R278, R279) -/

theorem State.trainAfresh_fport (s : State) (p : Nat) : (s.trainAfresh p).fport p =
    { (s.fport p).fresh with out := (s.fport p).out ++ [.train s.boot.node (p % 8) (p / 8)] } := by
  rw [State.trainAfresh, State.sendTrain, fport_setFport, fport_modFport]
  rfl

theorem State.trainAfresh_fport_ne (s : State) {p q : Nat} (h : q ≠ p) : (s.trainAfresh p).fport q = s.fport q := by
  rw [State.trainAfresh, State.sendTrain, fport_setFport_ne _ _ h, fport_modFport_ne _ _ h]

theorem block_modBlock (s : State) (b : Nat) (f : Block → Block) : (s.modBlock b f).block b = f (s.block b) := block_setBlock _ _ _

theorem block_blkTouch_en (s : State) (b : Nat) : ((s.blkTouch b).block b).en = (s.block b).en := by
  rw [State.blkTouch, block_modBlock]

theorem State.fportOff_spec {s : State} {p : Nat} (hen : (s.block (blkFport p)).en = true) :
    (s.fportOff p).fport p = { (s.fport p).discarded with
      state := .disabled, trained := false, laneLock := 0, peerMismatch := false, out := (s.fport p).out ++ [.absent] } ∧
    ((s.fportOff p).block (blkFport p)).en = false ∧ ∀ q, q ≠ p → (s.fportOff p).fport q = s.fport q := by
  unfold State.fportOff
  rw [if_neg (by simp [hen])]
  have hoff : ((s.modBlock (blkFport p) (fun b => { b with en := false })).block (blkFport p)).en = false := by rw [block_modBlock]
  have hports (q : Nat) : (s.modBlock (blkFport p) (fun b => { b with en := false })).fport q = s.fport q := rfl
  generalize s.modBlock (blkFport p) (fun b => { b with en := false }) = t at hoff hports
  obtain ⟨hport, hothers, hblocks, -⟩ := t.loseReplay_spec p
  refine ⟨?_, ?_, fun q hq => ?_⟩
  · rw [(State.afterLoss_portsKept _ p).fport, State.sendAbsent, fport_setFport, fport_modFport, hport, hports]
    rfl
  · rw [(State.afterLoss_portsKept _ p).block]
    exact (congrArg Block.en (State.block_of_blocks hblocks _)).trans hoff
  · rw [(State.afterLoss_portsKept _ p).fport, State.sendAbsent, fport_setFport_ne _ _ hq, fport_modFport_ne _ _ hq, hothers q hq, hports]

theorem parts_portStates : Parts.PortStates := by
  intro s p f hp hon hf
  subst hf
  refine ⟨fun node dir idx hstate => ?_, fun free last before rep credits k htrained hstate hk hbefore hrep hcredits => ?_, fun hstate => ?_, fun hstate => ?_,
    fun habsent => ?_, fun hfree hen hnode => ?_, fun hfree hen hnode => ?_, fun hfree hen => ?_⟩
  · have htraining : (decide ((s.fport p).state = .training) || decide ((s.fport p).state = .retraining)) = true := by
      rcases hstate with h | h <;> simp [h]
    exact ⟨fun hok => (onPort_of_on hp hon _).trans (congrArg Host.Outcome.next ((if_pos htraining).trans (if_pos hok))),
      fun hbad => (onPort_of_on hp hon _).trans (congrArg Host.Outcome.next ((if_pos htraining).trans (if_neg (ne_true_of_eq_false hbad))))⟩
  · refine ⟨fun hsound => ⟨_, onPort_of_on hp hon _, ?_⟩, fun hbroken => ⟨_, onPort_of_on hp hon _, ?_⟩⟩
    · have hnil : (List.range 8).filter ((s.fport p).syncBroken free credits) = [] := by
        refine (FPort.broken_eq_nil_iff _ _ _).2 (fun v hv hbad => ?_)
        obtain ⟨hfree, hcount⟩ := hsound v hv
        rcases hbad with h | ⟨hre, h⟩
        · omega
        · have := hcount hre
          omega
      rw [State.creditSync_of_sound htrained hstate hk hbefore hrep hcredits hnil, fport_setFport]
      exact ⟨rfl, rfl, rfl, rfl, rfl, rfl, rfl⟩
    · obtain ⟨v, hv, hbad⟩ := hbroken
      exact State.creditSync_broken_fport htrained hstate hk hbefore hrep hcredits
        (fun hnil => (FPort.broken_eq_nil_iff _ _ _).1 hnil v hv hbad)
  · have htimed : (decide ((s.fport p).state = .retraining) || (decide ((s.fport p).state = .training) && !(s.fport p).peerMismatch)) = true := by
      rcases hstate with h | ⟨h, hmatch⟩
      · simp [h]
      · simp [h, hmatch]
    refine ⟨fun hfew => (onPort_of_on hp hon _).trans (congrArg Host.Outcome.next ((if_pos htimed).trans (if_neg (by omega)))),
      fun hmany => ⟨_, (onPort_of_on hp hon _).trans (congrArg Host.Outcome.next ((if_pos htimed).trans (if_pos (by omega)))), ?_⟩⟩
    rw [State.portDown_fport]
    exact ⟨rfl, rfl⟩
  · obtain ⟨hport, htot⟩ := s.portLost_spec p (fun f => { f with state := .absent, trained := false, laneLock := 0 })
    refine ⟨_, (onPort_of_on hp hon _).trans (congrArg Host.Outcome.next (if_neg ?_)), ?_, ?_, htot⟩
    · rcases hstate with h | h | h <;> simp [h]
    · rw [hport]
    · rw [hport]
      rfl
  · exact ⟨_, (onPort_of_on hp hon _).trans (congrArg Host.Outcome.next (if_pos habsent)), s.trainAfresh_fport p, rfl,
      fun q hq => s.trainAfresh_fport_ne hq⟩
  · have hon' : (s.blkTouch (blkFport p)).fportOn p =
        ((s.blkTouch (blkFport p)).modBlock (blkFport p) (fun b => { b with en := true })).trainAfresh p := by
      refine if_neg ?_
      rw [block_blkTouch_en, hen]
      exact ne_true_of_eq_false hnode
    refine ⟨_, (onPort_of_on hp hon _).trans (congrArg Host.Outcome.next ((State.unlessMulti_of_free hfree _ _).trans hon')),
      State.trainAfresh_fport _ p, ?_, fun q hq => State.trainAfresh_fport_ne _ hq⟩
    exact congrArg Block.en (block_modBlock (s.blkTouch (blkFport p)) (blkFport p) (fun b => { b with en := true }))
  · refine (onPort_of_on hp hon _).trans (congrArg Host.Outcome.next ((State.unlessMulti_of_free hfree _ _).trans (if_pos ?_)))
    rw [block_blkTouch_en, hen]
    exact hnode
  · obtain ⟨hport, hoff, hothers⟩ := State.fportOff_spec (s := s.blkTouch (blkFport p)) (p := p) (by rw [block_blkTouch_en, hen])
    refine ⟨_, (onPort_of_on hp hon _).trans (congrArg Host.Outcome.next (State.unlessMulti_of_free hfree _ _)), ?_, ?_, ?_, hoff, hothers⟩
    · rw [hport]
    · rw [hport]
      rfl
    · rw [hport]
      rfl

/-- Settles O39: link frames by what an acceptance, a rejection and a resend change of their port, and port states by the frame of what a lost link's
messages leave of the ports. -/
theorem linksAndPorts : Obligations.LinksAndPorts := ⟨parts_linkFrames, parts_portStates⟩

end Sys2Proof.Machine
end
